-- ==== Sys2Proof/Word.lean ====
section
/-! DEFINITION. The word types of the A4 (R2, R3): the widths the manual gives its values, and nothing else. -/

namespace Sys2Proof

/-- One byte of memory (R3). -/
abbrev Byte := BitVec 8

/-- The 32-bit value on which every instruction computes (R110 adds its validity bit). -/
abbrev Word := BitVec 32

/-- A 64-bit value: a register pair, an instruction word, a virtual address (R3, R30, R31). -/
abbrev Dword := BitVec 64

/-- One bit for each of the 32 lanes of a floe (R7). -/
abbrev Mask := BitVec 32

/-- An 8-bit operand code (R33). -/
abbrev Code := BitVec 8

end Sys2Proof
end

