-- ==== Sys2Proof/Syntax.lean ====
section
/-! DEFINITION. The syntax: the words of the manual (F, P and X words, R30-R55) and the steps of the device, one constructor for
each row of the opcode table. Device steps carry the operands that the agent taking the step supplies. -/

namespace Sys2Proof

/-- The X word (R44), without its kind bits [63:62]: `rsv` is [61:48], `kind` [47:46], `coord` [45:32], `imm` [31:0]. -/
structure XWord where
  rsv : BitVec 14
  kind : BitVec 2
  coord : BitVec 14
  imm : Word
  deriving DecidableEq, Repr

/-- The fields of an F word other than its opcode (R32); `x` is the X word that follows when field X is 1. -/
structure FWord where
  d : Code
  a : Code
  b : Code
  c : Code
  g : Code
  m : BitVec 4
  u : BitVec 3
  s : BitVec 3
  x : Option XWord
  y : BitVec 2
  deriving DecidableEq, Repr

/-- The twenty pair operations (R53). -/
inductive PairOp where
  | mov | iadd | isub | and | or | xor | shl | shr | sar | imin | imax | fadd | fmul | fmin | fmax | hadd2 | hmul2
  | mov8 | iadd8 | shl8
  deriving DecidableEq, Repr

/-- One half of a P word (R52). -/
structure HalfWord where
  pop : PairOp
  d : Code
  a : Code
  b : Code
  deriving DecidableEq, Repr

/-- A word span of a line (R197): first word 0-63 and count 1-64. -/
structure Span where
  first : Nat
  count : Nat
  deriving DecidableEq, Repr

/-- Where a command comes from (R380, R381): the head of a context's accepted commands, or a block the host writes at offset 0 of
BAR 0 of function `fn` (0 the physical function), with the fields of R380. -/
inductive CmdSource where
  | queued (ctx : Nat)
  | host (fn : Nat) (ctx : Nat) (rsv : Bool) (arg0 arg1 arg2 arg3 : Dword)
  deriving DecidableEq, Repr

/-- A lane's measured margins, and the errors corrected since the sample before (R403, R404). -/
structure LaneSample where
  hm : BitVec 6
  vm : BitVec 8
  cerr : BitVec 16
  deriving DecidableEq, Repr

/-- A Wanos message (R411): the header fields and the payload. -/
structure Msg where
  cls : Nat
  op : Nat
  rel : Bool
  rsv : Bool
  srcDev : Nat
  dstDev : Nat
  dstPart : Nat
  stream : Nat
  addr : Nat
  seq : Nat
  payload : List Byte
  deriving DecidableEq, Repr

/-- What the patrol scrub reads (R430): a 32-byte sector of memory, an L2 line held by a die, or a firn word of a core. -/
inductive ScrubTarget where
  | sector (pa : Nat)
  | l2 (die : Nat) (pa : Nat)
  | firn (core : Nat) (word : Nat)
  deriving DecidableEq, Repr

/-- The values Ainar firmware writes into the locked registers during INIT (R423, R426): the security assignment registers, the
region table, the repair map, the moved row of each die and the seal metadata regions (base, limit). -/
structure LockSet where
  saCore : List (BitVec 256)
  saMover : List (BitVec 256)
  saPort : Word
  saQueue : List (BitVec 4096)
  regions : List (BitVec 128)
  repairMap : List (BitVec 2048)
  moved : List Nat
  sealRegions : List (Nat × Nat)
  deriving DecidableEq, Repr

/-- Every instruction and every step of the opcode table, one constructor a row. -/
inductive Instr where
  /-- Copies a register, all w bits (R118). -/
  | mov (w : FWord)
  /-- Moves the imm32 of the X word, sign- or zero-extended to w bits (R118). -/
  | movi (w : FWord)
  /-- Integer add, wrapping or saturating (R118). -/
  | iadd (w : FWord)
  /-- Integer subtract, wrapping or saturating (R118). -/
  | isub (w : FWord)
  /-- Integer multiply, low half (R118). -/
  | imul (w : FWord)
  /-- Integer multiply, high half (R118). -/
  | imulh (w : FWord)
  /-- Integer multiply-add with one exact sum, then fit (R118). -/
  | imad (w : FWord)
  /-- Multiplies two 32-bit values and adds a 64-bit value, giving a 64-bit result (R118). -/
  | imadw (w : FWord)
  /-- Integer minimum (R118). -/
  | imin (w : FWord)
  /-- Integer maximum (R118). -/
  | imax (w : FWord)
  /-- Integer absolute value of a signed source (R118). -/
  | iabs (w : FWord)
  /-- Bitwise function of three sources, chosen by the 8-entry table in the X word (R119). -/
  | ltab (w : FWord)
  /-- Bitwise and (R119). -/
  | and (w : FWord)
  /-- Bitwise or (R119). -/
  | or (w : FWord)
  /-- Bitwise exclusive or (R119). -/
  | xor (w : FWord)
  /-- Shift left (R119). -/
  | shl (w : FWord)
  /-- Logical shift right (R119). -/
  | shr (w : FWord)
  /-- Arithmetic shift right (R119). -/
  | sar (w : FWord)
  /-- Funnel shift of a register pair, left or right (R119). -/
  | shf (w : FWord)
  /-- Bit-field extract (R119). -/
  | bfe (w : FWord)
  /-- Bit-field insert (R119). -/
  | bfi (w : FWord)
  /-- Population count (R119). -/
  | popc (w : FWord)
  /-- Count leading zeros (R119). -/
  | clz (w : FWord)
  /-- Bit reverse (R119). -/
  | brev (w : FWord)
  /-- Shifted add for address forming (R119). -/
  | lea (w : FWord)
  /-- FP32 add (R120). -/
  | fadd (w : FWord)
  /-- FP32 subtract (R120). -/
  | fsub (w : FWord)
  /-- FP32 multiply (R120). -/
  | fmul (w : FWord)
  /-- FP32 fused multiply-add with one rounding (R120). -/
  | ffma (w : FWord)
  /-- FP32 minimum, with -0 ordered below +0 (R121). -/
  | fmin (w : FWord)
  /-- FP32 maximum, with -0 ordered below +0 (R121). -/
  | fmax (w : FWord)
  /-- FP32 move with negate or absolute value (R121). -/
  | fmov (w : FWord)
  /-- FP32 reciprocal (R120). -/
  | frcp (w : FWord)
  /-- FP32 reciprocal square root, faithful (R122). -/
  | frsq (w : FWord)
  /-- FP32 square root (R120). -/
  | fsqrt (w : FWord)
  /-- Base-2 exponential, faithful (R122). -/
  | fex2 (w : FWord)
  /-- Base-2 logarithm, faithful (R122). -/
  | flg2 (w : FWord)
  /-- Sine, faithful (R122). -/
  | fsin (w : FWord)
  /-- Cosine, faithful (R122). -/
  | fcos (w : FWord)
  /-- Adds two packed half-width values (R120). -/
  | hadd2 (w : FWord)
  /-- Multiplies two packed half-width values (R120). -/
  | hmul2 (w : FWord)
  /-- Fused multiply-add on packed FP16 or BF16 values (R120). -/
  | hfma2 (w : FWord)
  /-- FP64 add (R123). -/
  | dadd (w : FWord)
  /-- FP64 multiply (R123). -/
  | dmul (w : FWord)
  /-- FP64 fused multiply-add (R123). -/
  | dfma (w : FWord)
  /-- FP64 minimum (R123). -/
  | dmin (w : FWord)
  /-- FP64 maximum (R123). -/
  | dmax (w : FWord)
  /-- FP64 reciprocal (R123). -/
  | drcp (w : FWord)
  /-- FP64 reciprocal square root, faithful (R123). -/
  | drsq (w : FWord)
  /-- FP64 move with negate or absolute value (R123). -/
  | dmov (w : FWord)
  /-- Converts between FP64, FP32, FP16 and BF16 (R124). -/
  | cvt (w : FWord)
  /-- Converts between integer and FP (R125). -/
  | cvti (w : FWord)
  /-- Packs lanes into a narrow or block-scaled format (R127). -/
  | pack (w : FWord)
  /-- Unpacks a narrow or block-scaled format to FP32 (R128). -/
  | unpk (w : FWord)
  /-- Floe-wide magnitude scan that chooses an E8M0 block scale (R129). -/
  | qscan (w : FWord)
  /-- Integer compare to a condition word (R130). -/
  | icmp (w : FWord)
  /-- FP32 compare to a condition word (R130). -/
  | fcmp (w : FWord)
  /-- FP64 compare to a condition word (R130). -/
  | dcmp (w : FWord)
  /-- Copies data and sets V (R131). -/
  | vset (w : FWord)
  /-- Copies data and clears V (R131). -/
  | vclr (w : FWord)
  /-- Reads V bits as data (R131). -/
  | vtest (w : FWord)
  /-- Combines the V bits of two sources (R131). -/
  | vand (w : FWord)
  /-- Selects a source by the V of the guard, read as data (R132). -/
  | sel (w : FWord)
  /-- Gathers one bit per lane into a mask (R134). -/
  | ballot (w : FWord)
  /-- Any, all or equal vote over the lanes (R134). -/
  | vote (w : FWord)
  /-- Lane shuffle (R135). -/
  | shfl (w : FWord)
  /-- Sequential reduction over the contributing lanes of a floe (R136). -/
  | redux (w : FWord)
  /-- Inclusive or exclusive prefix over the lanes of a floe (R136). -/
  | scan (w : FWord)
  /-- No operation apart from its Y hint (R155). -/
  | nop (w : FWord)
  /-- PC-relative branch that may diverge, with an optional join (R156). -/
  | br (w : FWord)
  /-- Branches each lane to its own 64-bit register target (R157). -/
  | brx (w : FWord)
  /-- Jumps to a uniform register target (R158). -/
  | jmp (w : FWord)
  /-- Pushes a CALL entry and branches PC-relative (R159). -/
  | call (w : FWord)
  /-- Parks the exec lanes at the topmost matching CALL entry (R159). -/
  | ret (w : FWord)
  /-- Retires the exec lanes; the floe takes last_exit when its last live lane retires (R160). -/
  | exit (w : FWord)
  /-- Chooses the lowest exec lane (R161). -/
  | elect (w : FWord)
  /-- Gives up the issue opportunity and resets the floe's age (R162). -/
  | yield (w : FWord)
  /-- Delivers the SOFTWARE trap with a code (R374). -/
  | trap (w : FWord)
  /-- Delivers the BREAKPOINT trap with a code (R374). -/
  | brk (w : FWord)
  /-- Holds the floe WAITING until a GT deadline (R163). -/
  | sleep (w : FWord)
  /-- Load, one address per lane (R189). -/
  | ld (w : FWord)
  /-- Store, one address per lane (R190). -/
  | st (w : FWord)
  /-- Split-phase load counted in an arrival counter (R189). -/
  | lda (w : FWord)
  /-- Load at base + index × scale (R189). -/
  | ldx (w : FWord)
  /-- Store at base + index × scale (R190). -/
  | stx (w : FWord)
  /-- Compress-store of the valid exec lanes to consecutive elements (R191). -/
  | stc (w : FWord)
  /-- Expanding load of consecutive elements into the exec lanes (R191). -/
  | lde (w : FWord)
  /-- Loads from another core's firn (R173). -/
  | ldr (w : FWord)
  /-- Stores to another core's firn (R173). -/
  | str (w : FWord)
  /-- Prefetches lines into L1 or L2 without faulting (R192). -/
  | pref (w : FWord)
  /-- Issues a byte copy into the open copy group (R193). -/
  | cpy (w : FWord)
  /-- Reads and checks a copy descriptor and issues one copy (R194). -/
  | cpyd (w : FWord)
  /-- Closes the open copy group and counts it in cp (R180). -/
  | cpcommit (w : FWord)
  /-- Waits on an arrival counter or on the class counters (R175). -/
  | wait (w : FWord)
  /-- Waits for an arrival counter to drain, then clears it (R176). -/
  | acreset (w : FWord)
  /-- Makes earlier stores visible to the mover and empties the descriptor cache (R195). -/
  | dfence (w : FWord)
  /-- Atomic read-modify-write that returns the old value (R216). -/
  | atom (w : FWord)
  /-- Atomic read-modify-write without a return (R216). -/
  | red (w : FWord)
  /-- Compare and swap of 32 or 64 bits (R216). -/
  | cas (w : FWord)
  /-- FP32 atomic add (R216). -/
  | atomf (w : FWord)
  /-- Pins a line in L2 and writes a status (R218). -/
  | lock (w : FWord)
  /-- Releases a line that the context pinned (R218). -/
  | unlock (w : FWord)
  /-- Orders the floe's loads, stores or both at a scope (R236). -/
  | fence (w : FWord)
  /-- Flushes a context tag from the issuing core (R378). -/
  | flushtag (w : FWord)
  /-- Invalidates the core's L1 copies and returns its exclusive spans (R219). -/
  | leasedrop (w : FWord)
  /-- Acquires a matrix context, or a pair of contexts (R264). -/
  | mctx (w : FWord)
  /-- Releases the held matrix context after it drains (R265). -/
  | mrel (w : FWord)
  /-- Issues a tile multiply-accumulate (R266). -/
  | mma (w : FWord)
  /-- Issues a multiply-accumulate that spans a core pair (R267). -/
  | mmap (w : FWord)
  /-- Issues a multiply-accumulate with gathered A rows (R268). -/
  | mmag (w : FWord)
  /-- Issues a block-scaled E2M1 or L6 multiply-accumulate (R269). -/
  | mmax (w : FWord)
  /-- Loads an accumulator tile from a firn image (R270). -/
  | mld (w : FWord)
  /-- Stores an accumulator tile to a firn image with conversion (R270). -/
  | mst (w : FWord)
  /-- Clears an accumulator tile (R271). -/
  | mzero (w : FWord)
  /-- Sets tile predicates from a register (R272). -/
  | tpset (w : FWord)
  /-- Sets a tile predicate from a scan of a scratch image (R273). -/
  | tpscan (w : FWord)
  /-- Waits for the tile operations of a stream, or of all streams (R274). -/
  | msync (w : FWord)
  /-- Binds a tree descriptor to a walker slot (R303). -/
  | twbind (w : FWord)
  /-- Looks up the leaf reference and voxel offset (R304). -/
  | twlk (w : FWord)
  /-- Reads a voxel channel value (R305). -/
  | twld (w : FWord)
  /-- Writes a voxel channel value, optionally widening the bounds (R305). -/
  | twst (w : FWord)
  /-- Reads a 7-, 19- or 27-point stencil neighbourhood (R306). -/
  | twsten (w : FWord)
  /-- Marches a ray to the next qualifying leaf (R307). -/
  | twray (w : FWord)
  /-- Reads a leaf's origin and flags (R308). -/
  | twleaf (w : FWord)
  /-- Drops leaf cache entries of one slot or of all slots (R309). -/
  | twinv (w : FWord)
  /-- Issues a leaf insertion to the allocator engine (R292). -/
  | tains (w : FWord)
  /-- Issues a leaf removal to the allocator engine (R293). -/
  | tadel (w : FWord)
  /-- Issues a set or clear of leaf or voxel activity (R294). -/
  | tamask (w : FWord)
  /-- Publishes a new tree generation (R311). -/
  | tacommit (w : FWord)
  /-- Enqueues a record into a queue (R339). -/
  | enq (w : FWord)
  /-- Emits a record through an output port of the launching node (R339). -/
  | nodeout (w : FWord)
  /-- Reads a word of the instance's batch records, or their count (R340). -/
  | recv (w : FWord)
  /-- Sends a signal to a named event, as a release (R325). -/
  | evsig (w : FWord)
  /-- Waits for a named event to reach a threshold (R325). -/
  | evwait (w : FWord)
  /-- Resets a named event (R325). -/
  | evclr (w : FWord)
  /-- Reads a launch descriptor and starts a child instance (R325). -/
  | launch (w : FWord)
  /-- Arrives at a barrier colour, optionally leaving it (R356). -/
  | bara (w : FWord)
  /-- Waits for the release of the floe's arrival (R356). -/
  | barw (w : FWord)
  /-- Arrives at a barrier colour and waits for the release (R356). -/
  | bars (w : FWord)
  /-- Tests the barrier without waiting (R356). -/
  | bart (w : FWord)
  /-- Queries the rank, count or live membership of a pack (R347). -/
  | packq (w : FWord)
  /-- Remote load from a device of the load-store domain (R418). -/
  | rld (w : FWord)
  /-- Remote write to a device of the load-store domain (R418). -/
  | rwr (w : FWord)
  /-- Remote atomic performed at the target's home (R418). -/
  | ratom (w : FWord)
  /-- Issues a halo descriptor against a source tree slot (R419). -/
  | halo (w : FWord)
  /-- In-kernel collective over a group of devices (R421). -/
  | coll (w : FWord)
  /-- Sends an event, barrier or management message (R422). -/
  | msg (w : FWord)
  /-- Reads a system register (R376). -/
  | rdsr (w : FWord)
  /-- Writes a system register under R362 (R376). -/
  | wrsr (w : FWord)
  /-- Posts an SVC record and suspends the floe (R377). -/
  | svc (w : FWord)
  /-- Returns from a trap handler, or kills the floe (R375). -/
  | trapret (w : FWord)
  /-- Sets the floe's scheduling role (R164). -/
  | setrole (w : FWord)
  /-- Sets the floe's redundant-lane mode (R165). -/
  | setmode (w : FWord)
  /-- Invalidates translations, or migrates a page (R399). -/
  | tlbinv (w : FWord)
  /-- Reads a command block, journals the command and returns a status (R380). -/
  | ctxcmd (w : FWord)
  /-- Loads a protocol table into a slot, or sets a slot's lease length (R220). -/
  | ptload (w : FWord)
  /-- Removes the core from placement and puts it into retention sleep (R379). -/
  | halt (w : FWord)
  /-- Issues the two halves of a P word together in one slot (R54). -/
  | pairWord (h0 : HalfWord) (h1 : HalfWord)
  /-- A slot issues a word whose F opcode slot is unassigned, or a P word with a reserved pOP, and it raises ILLEGAL_OPCODE with no effect (R67). -/
  | reservedOpcode (w : Dword)
  /-- A slot reaches an X word by fall-through or as a branch target, and it raises ORPHAN_EXTENSION (R46). -/
  | orphanExtension (w : Dword)
  /-- A ready floe's age reaches AGE_LIMIT − 16 ck and it becomes aged (R141). -/
  | floeAged (floe : Nat)
  /-- A WAITING floe's condition holds and the floe becomes READY (R150). -/
  | conditionMet (floe : Nat)
  /-- GT reaches a sleeping floe's deadline (R163). -/
  | sleepDeadline (floe : Nat)
  /-- The launch engine finishes forming a floe, which becomes READY (R137). -/
  | launchDone (floe : Nat)
  /-- Returning load, walker or atomic data arrives and is checked against the allocation tag (R115). -/
  | dataReturn (op : Nat)
  /-- A store's writes are performed at its scope and the store leaves st (R166). -/
  | storePerformed (op : Nat)
  /-- A lane transfer faults, leaving a partial effect, %faultmask and a fault record (R177). -/
  | transferFault (op : Nat)
  /-- The mover starts a copy in deadline or issue order and counts a deadline miss (R185). -/
  | copyStart (core : Nat) (copy : Nat)
  /-- A copy completes and its counter, group and event targets take effect in order (R184). -/
  | copyComplete (core : Nat) (copy : Nat)
  /-- A copy faults at an element; it waits on a PAGE_NOT_PRESENT record or is abandoned (R187). -/
  | copyFault (core : Nat) (copy : Nat)
  /-- An abandoned copy's cause is delivered as a trap at the floe's next instruction boundary (R187). -/
  | moverTrapDelivery (floe : Nat)
  /-- GT passes the latest lease end plus 2 gt and the held write is performed at the slice (R200). -/
  | sliceHoldEnd (op : Nat)
  /-- The L1 sweep invalidates copies more than 2^18 gt past their lease end (R202). -/
  | l1TagSweep (core : Nat)
  /-- Every 16,384 gt each nonzero contention counter falls by 1 (R210). -/
  | predictorDecay
  /-- A READ message for a span is handled by the directory protocol table (R207). -/
  | readMsg (die : Nat) (line : Nat) (span : Span) (slot : Nat)
  /-- A WRITE message for a span is handled by the directory protocol table (R207). -/
  | writeMsg (op : Nat) (line : Nat)
  /-- An ATOMIC message for a span is handled by the directory protocol table (R207). -/
  | atomicMsg (op : Nat) (line : Nat)
  /-- An EVICT message from a die dropping its copy is handled by the directory (R207). -/
  | evictMsg (die : Nat) (line : Nat)
  /-- An acknowledgement of an invalidation or update reaches the directory (R207). -/
  | ackMsg (die : Nat) (line : Nat)
  /-- An owner's returned span reaches the directory (R207). -/
  | returnMsg (die : Nat) (line : Nat)
  /-- A sharer die receives an invalidation and acknowledges after its leases end (R203). -/
  | sharerInvalidate (die : Nat) (line : Nat)
  /-- A sharer die receives an update, applies it after its leases end and acknowledges (R203). -/
  | sharerUpdate (die : Nat) (line : Nat)
  /-- An owner die is asked to return its span (R208). -/
  | recall (die : Nat) (line : Nat)
  /-- The matrix array performs one tile operation indivisibly, in stream order (R249). -/
  | tileOperationPerform (core : Nat) (mctx : Nat) (stream : Nat)
  /-- A free matrix context is granted to the oldest waiting MCTX (R243). -/
  | matrixContextGrant (core : Nat)
  /-- A DRAINING context's issued operations are complete and the context becomes FREE (R242). -/
  | matrixContextDrained (core : Nat) (mctx : Nat)
  /-- The allocator engine performs one TAINS, TADEL, TAMASK or TACOMMIT operation on a tree (R291). -/
  | allocatorOperation (op : Nat)
  /-- A LEAF launch acquires, enumerates the active leaves and binds t0 (R297). -/
  | leafEnumeration (ctx : Nat) (inst : Nat)
  /-- Once a descriptor's writes at a destination are performed, the destination signals its event (R299). -/
  | haloDestinationSignal (op : Nat) (dest : Nat)
  /-- The walker node takes a ray record and emits a hit record (R334). -/
  | walkerNodeRecord (part : Nat) (queue : Nat)
  /-- The blender node takes a sample record and blends every buffered key in order (R335). -/
  | blenderRecord (part : Nat) (queue : Nat)
  /-- A die's launch engine takes an instance from a source by priority and round robin (R317). -/
  | launchEngineTake (die : Nat)
  /-- The launch engine places the next floe once room exists, pre-empting lower priority if needed (R317). -/
  | floePlacement (die : Nat)
  /-- Half of RESTORE_LIMIT passes for a saved floe, which is restored ahead of every other source (R317). -/
  | deadlineRestore (floe : Nat)
  /-- A pre-empted floe's drain ends and its state is written to memory (R365). -/
  | floeSaved (floe : Nat)
  /-- A saved floe or group is restored onto an eligible core under a new allocation tag (R367). -/
  | floeRestore (floe : Nat) (core : Nat)
  /-- An RLD reply is still outstanding 100 µs after a save began, and its lanes take LINK_UNREACHABLE (R365). -/
  | saveRldTimeout (op : Nat)
  /-- An instance becomes done; DONEEV is signalled and its queue slots are freed (R318). -/
  | instanceDone (ctx : Nat) (inst : Nat)
  /-- A signal operation adds to an event's count and satisfies the waiters it meets (R322). -/
  | eventSignal (ctx : Nat)
  /-- A wait operation is satisfied at once or joins the event's wait list (R322). -/
  | eventWait (ctx : Nat)
  /-- A clear operation sets an event's count to 0 (R322). -/
  | eventClear (ctx : Nat)
  /-- A queue judges and accepts or refuses one record, and journals the outcome (R329). -/
  | accept (part : Nat)
  /-- A host memory-write TLP to a queue aperture is taken as a record or discarded (R330). -/
  | hostApertureRecord (fn : Nat) (offset : Nat) (bytes : List Byte)
  /-- The oldest waiting record's age reaches TIMEOUT (R332). -/
  | queueTimeout (part : Nat) (queue : Nat)
  /-- A launch condition holds and the queue hands a batch to the launch engine (R332). -/
  | queueBatchLaunch (part : Nat) (queue : Nat)
  /-- The tree counts an arrival or leave in its tagged phase (R350). -/
  | barrierArrival (part : Nat) (colour : Nat)
  /-- The release of a phase has spread; the phase bit flips and held arrivals are counted (R350). -/
  | releaseDone (part : Nat) (colour : Nat)
  /-- A due rebalancing step moves the last and first clusters by 20 MHz, or is discarded (R354). -/
  | clockStep (refuse : Bool)
  /-- A core's GT copy is corrected by stepping it forward or holding it (R21). -/
  | gtCorrection (core : Nat) (target : Int)
  /-- A PREEMPTING context finishes saving its floes and becomes SAVED (R359). -/
  | contextSaved (ctx : Nat)
  /-- A destroyed context finishes scrubbing and its number becomes FREE (R359). -/
  | scrubbed (ctx : Nat)
  /-- The source core's flush acknowledgement arrives and the migrated floes may access memory (R368). -/
  | migrationFlushAck (ctx : Nat)
  /-- A waiting fault record is written to the fault queue, which signals its event and interrupt (R372). -/
  | faultRecordPost (ctx : Nat)
  /-- A floe has been WAITING for WDOG·1,024 gt and takes the WATCHDOG trap (R369). -/
  | watchdog (floe : Nat)
  /-- Replays, kills or delivers a suspended floe, or a waiting mover copy (R381). -/
  | replay (src : CmdSource)
  /-- Re-encrypts the context's sealed blocks under a new key (R397). -/
  | rekey (src : CmdSource)
  /-- Starts saving the whole context (R365). -/
  | save (src : CmdSource)
  /-- Restores a saved context all or nothing (R367). -/
  | restore (src : CmdSource)
  /-- Moves the groups of one core to another core (R368). -/
  | migrate (src : CmdSource)
  /-- Reads and verifies a kernel image into the kernel table (R314). -/
  | kload (src : CmdSource)
  /-- Records a kernel's placement set and its relocated text copies (R316). -/
  | kplace (src : CmdSource)
  /-- Binds a placed kernel to a queue (R315). -/
  | kbind (src : CmdSource)
  /-- Unbinds a kernel from its queue (R315). -/
  | kunbind (src : CmdSource)
  /-- Unloads a kernel, draining an active one first (R315). -/
  | kunload (src : CmdSource)
  /-- Reads a queue table entry and enables the queue (R326). -/
  | qenable (src : CmdSource)
  /-- Disables a queue between two records (R328). -/
  | qdisable (src : CmdSource)
  /-- Kills every floe of an instance (R381). -/
  | kill (src : CmdSource)
  /-- Returns a halted core to placement (R379). -/
  | unhalt (src : CmdSource)
  /-- Creates a context on free partitions with the lowest free number (R382). -/
  | create (src : CmdSource)
  /-- Kills a context's floes, frees its resources and starts the scrub (R359). -/
  | destroy (src : CmdSource)
  /-- The host writes a partition or context system register (R383). -/
  | setsr (src : CmdSource)
  /-- The host launches an instance from a LAUNCH descriptor on a named die (R383). -/
  | hlaunch (src : CmdSource)
  /-- A walker takes a waiting translation and walks the tables to a leaf, a fault or a malformed entry (R389). -/
  | pageWalk (core : Nat) (ctx : Nat) (va : Dword)
  /-- The home L2 fills and verifies a whole sealed block, or poisons the fill (R394). -/
  | sealFill (ctx : Nat) (block : Nat)
  /-- Each lane's margins are sampled every 100 µs, giving margin_low or margin_ok (R404). -/
  | marginSample (link : Nat) (lanes : List LaneSample)
  /-- The control word's CMD retrain starts retraining (R403). -/
  | linkRetrain (link : Nat)
  /-- The control word's CMD disable takes the link DOWN once its held traffic is resolved (R403). -/
  | linkDisable (link : Nat)
  /-- The control word's CMD enable starts training a DOWN link (R403). -/
  | linkEnable (link : Nat)
  /-- Training ends with train_ok or train_fail (R402). -/
  | trainingDone (link : Nat) (ok : Bool)
  /-- Retraining ends clean, repaired, narrowed or failed (R402). -/
  | retrainingDone (link : Nat) (spares : Nat) (units : Nat) (clean : Bool)
  /-- A loss of lock, or a replay count over its limit, takes the link DOWN and reroutes its traffic (R402). -/
  | linkFail (link : Nat)
  /-- A read of a lane's margin word returns and clears CERR (R403). -/
  | marginWordRead (link : Nat) (lane : Nat)
  /-- A REQ-class Wanos message is delivered and performed at the target (R414). -/
  | reqMessage (m : Msg)
  /-- An RSP-class Wanos message returns to the requester (R414). -/
  | rspMessage (m : Msg)
  /-- A Wanos ENQ message carrying a whole record reaches its queue (R329). -/
  | enqMessage (m : Msg)
  /-- A BAR-class Wanos message is delivered in channel order (R414). -/
  | barMessage (m : Msg)
  /-- A HALO-class message writes copied channel blocks at its destination (R299). -/
  | haloMessage (m : Msg)
  /-- A MGMT message passes the rate limit and writes an Ainar mailbox entry, or is dropped (R432). -/
  | mgmtMessage (m : Msg)
  /-- A request unacknowledged for 2 ms faults its lanes with LINK_UNREACHABLE (R412). -/
  | requestTimeout (op : Nat)
  /-- All contributions of a collective round have arrived and the result is written (R421). -/
  | collRoundComplete (part : Nat) (group : Nat) (round : Nat)
  /-- Patrol scrub reads a sector, line or firn word and corrects or poisons it (R430). -/
  | patrolScrub (t : ScrubTarget) (correctable : Bool)
  /-- Power-on or fundamental reset starts the boot ROM (R423). -/
  | powerOnReset
  /-- The ROM finishes reading the flash image, or finds the flash absent (R423). -/
  | imageRead (present : Bool) (digest : BitVec 256) (svn : Word)
  /-- The firmware image verification ends with verify_ok or verify_fail (R423). -/
  | verifyResult (ok : Bool)
  /-- A write of 1 starts verification of the recovery image (R423). -/
  | bootcmd (value : Word)
  /-- Ainar finishes INIT, locks the registers and the device becomes READY or FAILED (R423). -/
  | initDone (ok : Bool) (locks : LockSet)
  /-- A write to a locked register is ignored and counted in LOCKVIOL (R424). -/
  | lockedRegisterWrite (offset : Nat) (value : Dword)
  /-- A write of 1 requests an attestation report, or returns busy (R427). -/
  | attcmd (value : Word)
  /-- The signed report is placed in ATTREP and ATTSTAT becomes 1 (R427). -/
  | attestationReportReady
  /-- Unserviced for 100 ms, the hardware watchdog restarts the firmware (R428). -/
  | firmwareWatchdog (restarted : Bool)
  /-- The host consumes mailbox entries; a write beyond MBTAIL is ignored (R432). -/
  | mbheadWrite (value : Word)
  /-- While over the power or temperature limit, every 100 µs each cluster is lowered by 20 MHz, or gated at 780 MHz (R434). -/
  | throttleStep (tmax : BitVec 8) (pwr : BitVec 12)
  /-- After 1 ms clear of the condition, gating ends and THROT clears (R434). -/
  | throttleClear (tmax : BitVec 8) (pwr : BitVec 12)
  /-- At 125 °C module power is removed and every context is lost (R434). -/
  | overtempShutdown (tmax : BitVec 8)
  /-- A host write to a BAR 4 register without behaviour of its own, such as a route-table entry or a counter clear (R401). -/
  | barRegisterWrite (offset : Nat) (size : Nat) (value : BitVec 512)
  /-- An HBM4 refresh window opens, in which a pending retraining step and on-die error check and scrub may run (R405). -/
  | refreshWindow (link : Nat) (spares : Nat) (units : Nat) (clean : Bool) (done : Bool) (counts : List (BitVec 16))
  /-- The PCIe host port's LTSSM enters Recovery, which takes the link to RETRAINING (R416). -/
  | ltssmRecovery
  /-- Module power is lost, leaving each sealed block and its metadata wholly old or wholly new and ending all state (R396). -/
  | powerLoss
  /-- Ainar isolates a die, and every context with a floe on it takes fatal (R408). -/
  | ainarDieIsolation (die : Nat)
  /-- The spreading release of a completed phase reaches one member, which clears that member's pending arrival (R350). -/
  | releaseReachesFloe (part : Nat) (colour : Nat) (floe : Nat)
  deriving DecidableEq, Repr

end Sys2Proof
end

