-- ==== Sys2Proof/Machine/Shape.lean ====
section
/-! DEFINITION. What each instruction's entry makes of the fields of its word (R34-R45, R49-R55 and the field tables of the owning
chapters): which codes a field takes, which registers it reads and writes, which M, S, X and Y values it accepts. The decode checks
of R56 steps 4 to 7 are read off this one description. -/

namespace Sys2Proof.Machine

/-! ## Operand codes (R33) -/

def Code.isVec (c : Code) : Bool := decide (c.toNat < 0xC0)
def Code.isUni (c : Code) : Bool := decide (0xC0 ≤ c.toNat ∧ c.toNat < 0xF0)
def Code.isSpecial (c : Code) : Bool := decide (0xF0 ≤ c.toNat ∧ c.toNat < 0xFF)
def Code.isVz (c : Code) : Bool := c == 0xFF

/-- A register named by an operand code: vector or uniform, and its number. -/
structure Reg where
  uni : Bool
  n : Nat
  deriving DecidableEq, Repr

/-- The `k` consecutive registers from the one a code names; none for special sources and vz. -/
def codeRegs (c : Code) (k : Nat) : List Reg :=
  if Code.isVec c then (List.range k).map (fun i => ⟨false, c.toNat + i⟩)
  else if Code.isUni c then (List.range k).map (fun i => ⟨true, c.toNat - 0xC0 + i⟩)
  else []

/-- Which codes a register position takes: any; a register; a vector or a uniform register only; uniform or special other than
%lane; the same with vz; uniform or any special source. -/
inductive Allow where
  | any | reg | vec | uni | uniSpec | uniSpecVz | uniLane
  deriving DecidableEq, Repr

def Allow.ok (a : Allow) (c : Code) : Bool :=
  match a with
  | .any => true
  | .reg => Code.isVec c || Code.isUni c
  | .vec => Code.isVec c
  | .uni => Code.isUni c
  | .uniSpec => Code.isUni c || (Code.isSpecial c && c != 0xF0)
  | .uniLane => Code.isUni c || Code.isSpecial c
  | .uniSpecVz => Code.isUni c || (Code.isSpecial c && c != 0xF0) || Code.isVz c

/-- What one field of a word is to its instruction. -/
structure Field where
  ok : Bool
  src : Bool
  reads : List Reg
  writes : List Reg
  wide : Bool
  deriving DecidableEq, Repr

/-- A field that must hold one value (R36, R154, R188). -/
def fieldIs (v c : Code) : Field := ⟨c == v, false, [], [], false⟩

/-- An unused field: 0xFF (R36). -/
def fieldFF (c : Code) : Field := fieldIs 0xFF c

/-- An immediate below `n`. -/
def fieldImm (n : Nat) (c : Code) : Field := ⟨decide (c.toNat < n), false, [], [], false⟩

/-- A field with no rule of its own. -/
def fieldAny (_ : Code) : Field := ⟨true, false, [], [], false⟩

/-- Alignment of a register group (R34, R169): its number is a multiple of `al`. -/
def groupAligned (al : Nat) (c : Code) : Bool :=
  match codeRegs c 1 with
  | r :: _ => r.n % al == 0
  | [] => true

/-- A source of `k` words aligned on `al`. -/
def fieldSrcG (a : Allow) (k al : Nat) (c : Code) : Field :=
  ⟨a.ok c && groupAligned al c, true, codeRegs c k, [], decide (k = 2 ∧ al = 2)⟩

/-- A source of one word, or of a pair when `wide`. -/
def fieldSrc (a : Allow) (wide : Bool) (c : Code) : Field := if wide then { fieldSrcG a 2 2 c with wide := true } else fieldSrcG a 1 1 c

/-- An optional source: 0xFF stands for none. -/
def fieldSrcOpt (a : Allow) (c : Code) : Field := if c = 0xFF then fieldFF c else fieldSrc a false c

/-- A destination of `k` words aligned on `al`: never a special source (R36); vz discards. -/
def fieldDstG (a : Allow) (k al : Nat) (c : Code) : Field :=
  ⟨a.ok c && !Code.isSpecial c && groupAligned al c, false, [], codeRegs c k, false⟩

/-- A destination of one word, or of a pair when `wide`. -/
def fieldDst (a : Allow) (wide : Bool) (c : Code) : Field := if wide then fieldDstG a 2 2 c else fieldDstG a 1 1 c

/-- A group of `k` words read and, its first `wr` words, written (ATOM, CAS). -/
def fieldRw (a : Allow) (k al wr : Nat) (c : Code) : Field :=
  ⟨a.ok c && !Code.isSpecial c && groupAligned al c, true, codeRegs c k, codeRegs c wr, decide (k = 2 ∧ al = 2)⟩

/-- The X word rule of an instruction (R45). -/
inductive XAcc where
  | no | opt | req | coord | partner
  deriving DecidableEq, Repr

/-- An instruction's whole field description for one word: acceptance of M, S and Y, the five operand fields, the guard, the U and
X rules, and the operand rules no field shows alone. -/
structure Shape where
  modOk : Bool
  d : Field
  a : Field
  b : Field
  c : Field
  xacc : XAcc := .no
  ximm : Bool := true
  noReuse : Bool := false
  gUni : Bool := false
  gReq : Bool := false
  overlap : Bool := false
  overlapC : Bool := false
  free37 : Bool := false
  extra : Bool := true
  hint : Bool := false
  deriving DecidableEq, Repr

/-! ## Classes 0 to 4 -/

/-- The B field of a class 0-4 instruction with a B source: an X word replaces it, and B is then 0xFF (R38, R39). -/
def fieldB (w : FWord) (wide : Bool) : Field := if w.x.isSome then { fieldFF w.b with wide := wide } else fieldSrc .any wide w.b

/-- S of an integer instruction: .W and .SAT where its row of R117 accepts them. -/
def intS (w : FWord) (wOk satOk : Bool) : Bool := (wOk || !w.s.getLsbD 1) && (satOk || !w.s.getLsbD 0)

/-- .W of an integer instruction. -/
def isW (w : FWord) : Bool := w.s.getLsbD 1

/-- Y of classes 0 to 5 (R38). -/
def yHint (w : FWord) : Bool := w.y != 3

/-- `OP d, a` (R117): pairs where `dw`, `aw`. -/
def shapeDA (w : FWord) (modOk dw aw : Bool) : Shape :=
  { hint := true, modOk := modOk && yHint w, d := fieldDst .any dw w.d, a := fieldSrc .any aw w.a, b := fieldFF w.b, c := fieldFF w.c }

/-- `OP d, a, b`. -/
def shapeDAB (w : FWord) (modOk dw aw bw : Bool) : Shape :=
  { hint := true, modOk := modOk && yHint w, d := fieldDst .any dw w.d, a := fieldSrc .any aw w.a, b := fieldB w bw, c := fieldFF w.c,
    xacc := .opt }

/-- `OP d, a, b, c`. -/
def shapeDABC (w : FWord) (modOk dw aw bw cw : Bool) : Shape :=
  { hint := true, modOk := modOk && yHint w, d := fieldDst .any dw w.d, a := fieldSrc .any aw w.a, b := fieldB w bw,
    c := fieldSrc .any cw w.c, xacc := .opt }

/-- S of an FP instruction that takes all five modes, or only 000 (R38, R120). -/
def fpS (w : FWord) (all : Bool) : Bool := if all then decide (w.s.toNat ≤ 4) else w.s == 0

/-- The bits of M outside `mask` are 0. -/
def mWithin (w : FWord) (mask : BitVec 4) : Bool := (w.m &&& ~~~mask) == 0

/-- PACK (R126, R127). -/
def shapePack (w : FWord) : Shape :=
  let ok := fpS w true && decide (w.m.toNat ≤ 5)
  if w.m.toNat ≤ 1 then shapeDAB w ok false false false
  else if w.m.toNat ≤ 3 then
    { hint := true, modOk := ok && yHint w, d := fieldDst .any false w.d, a := fieldSrcG .vec 4 1 w.a, b := fieldFF w.b, c := fieldFF w.c }
  else
    { hint := true, modOk := ok && yHint w, d := fieldDst .vec false w.d, a := fieldSrc .vec false w.a,
      b := if w.x.isSome then fieldFF w.b else { fieldSrc .any false w.b with ok := !Code.isVec w.b }, c := fieldFF w.c,
      xacc := .opt }

/-- UNPK (R128). -/
def shapeUnpk (w : FWord) : Shape :=
  let ok := fpS w true && decide (w.m.toNat ≤ 5) && yHint w
  if w.m.toNat ≤ 3 then
    { hint := true, modOk := ok, d := fieldDst .any false w.d, a := fieldSrc .any false w.a, b := fieldFF w.b,
      c := fieldImm (if w.m.toNat ≤ 1 then 2 else 4) w.c }
  else
    { hint := true, modOk := ok, d := fieldDst .any false w.d, a := fieldSrc .vec false w.a,
      b := if w.x.isSome then fieldFF w.b else { fieldSrc .any false w.b with ok := !Code.isVec w.b }, c := fieldFF w.c,
      xacc := .opt }

/-- ICMP, FCMP, DCMP (R130): D a register pair of any alignment under .p. -/
def shapeCmp (w : FWord) (ok wide : Bool) : Shape :=
  { shapeDAB w ok false wide wide with d := if w.m.getLsbD 3 then fieldDstG .reg 2 1 w.d else fieldDst .any false w.d }

/-- REDUX and SCAN (R136): acceptance of M and S. -/
def reduxMod (w : FWord) : Bool :=
  if w.m.toNat ≤ 5 then !w.s.getLsbD 1 && !w.s.getLsbD 0 else if w.m.toNat = 6 then fpS w true else w.m.toNat ≤ 8 && w.s == 0

/-! ## Class 5 and the control entries -/

/-- A class 5 instruction with every field 0x00 but those given (R154). -/
def shapeCtl (w : FWord) (d a b c : Field) : Shape :=
  { hint := true, modOk := yHint w && w.s == 0 && w.m == 0, d := d, a := a, b := b, c := c, noReuse := true }

def zeroF (c : Code) : Field := fieldIs 0x00 c

/-- SETROLE, SETMODE (R154, R164, R165). -/
def shapeSet (w : FWord) : Shape :=
  { hint := true, modOk := yHint w && w.s == 0 && mWithin w 3 && w.m != 3, d := fieldFF w.d, a := fieldFF w.a, b := fieldFF w.b,
    c := fieldFF w.c, noReuse := true }

/-! ## Classes 6 to 8 -/

/-- The access size of M[12:10] in bytes (R41). -/
def accessSize (w : FWord) : Nat := 2 ^ (w.m.toNat / 2)

/-- M of a memory instruction: a size up to `.b128`, sign-extend only where `signOk` on 8- and 16-bit accesses (R41). -/
def memM (w : FWord) (signOk : Bool) : Bool :=
  decide (w.m.toNat / 2 ≤ 4) && (!w.m.getLsbD 0 || (signOk && decide (w.m.toNat / 2 ≤ 1)))

/-- How many registers an access of the word's size takes. -/
def accessRegs (w : FWord) : Nat := if accessSize w ≤ 4 then 1 else accessSize w / 4

/-- The offset field: 0x00 when an X word supplies the offset (R41). -/
def fieldOff (w : FWord) : Field := if w.x.isSome then fieldIs 0x00 w.c else fieldAny w.c

/-- The common shape of loads and stores (R188). -/
def shapeMem (w : FWord) (load : Bool) (ok : Bool) (base data : Allow) (b c : Field) (x : XAcc) : Shape :=
  let k := accessRegs w
  { modOk := memM w load && ok && (if load then w.y == 0 || w.y == 1 else w.y == 0 || w.y == 2),
    d := if load then fieldDstG data k k w.d else { fieldSrcG data k k w.d with wide := decide (k = 2) },
    a := fieldSrc base true w.a, b := b, c := c, xacc := x, overlap := load }

/-- STC and LDE take .b32 and .b64 without sign (R188). -/
def narrowSize (w : FWord) : Bool := (w.m.toNat == 4) || (w.m.toNat == 6)

/-- A class 7 instruction with no M, S or Y (R188). -/
def shapeAsync (w : FWord) (d a b c : Field) (x : XAcc) : Shape :=
  { modOk := w.m == 0 && w.s == 0 && w.y == 0, d := d, a := a, b := b, c := c, xacc := x }

/-- .b64 of an atomic. -/
def atomWide (w : FWord) : Bool := w.m == 6

/-- The common shape of the atomics (R215, R417): `cas` for a compare group, `ret` when D is written. -/
def shapeAtom (w : FWord) (ok cas ret : Bool) (data : Allow) (c : Field) : Shape :=
  let n := (if atomWide w then 2 else 1) * (if cas then 2 else 1)
  { modOk := (w.m == 4 || w.m == 6) && ok,
    d := if cas then fieldRw .reg n n (n / 2) w.d
         else if ret then { fieldRw data n n n w.d with wide := decide (n = 2) }
         else { fieldSrcG .any n n w.d with wide := decide (n = 2) },
    a := fieldSrc .reg true w.a, b := fieldSrcOpt .any w.b, c := c, xacc := .opt, overlap := true }

/-! ## Classes 9 and 15 -/

/-- An instruction of R373 (M, S, Y and U zero). -/
def shapeSys (w : FWord) (d a b c : Field) : Shape :=
  { modOk := w.m == 0 && w.s == 0 && w.y == 0, d := d, a := a, b := b, c := c, noReuse := true }

/-- An optional even uniform pair. -/
def fieldDstPairOpt (c : Code) : Field := if c = 0xFF then fieldFF c else fieldDstG .uni 2 2 c

/-- The system register numbers of R361. -/
def srKnown (n : Nat) : Bool :=
  decide (n ≤ 0x09) || decide (0x10 ≤ n ∧ n ≤ 0x1A) || decide (0x20 ≤ n ∧ n ≤ 0x2D) || decide (0x30 ≤ n ∧ n ≤ 0x32)

/-- The system registers whose Write column is not None (R361). -/
def srWritable (n : Nat) : Bool :=
  n == 0 || n == 2 || n == 4 || n == 5 || decide (0x10 ≤ n ∧ n ≤ 0x17) || n == 0x1A || n == 0x21
    || decide (0x23 ≤ n ∧ n ≤ 0x28) || n == 0x2B || n == 0x2C

/-- TLBINV (R398): .va, .all, .tag and .mig. -/
def shapeTlbinv (w : FWord) : Shape :=
  let form := w.m.toNat % 4
  { modOk := mWithin w 3 && w.y == 0 && (if form = 3 then w.s == 5 else w.s == 2 || w.s == 4 || w.s == 5),
    d := if form = 3 then fieldDst .uni false w.d else fieldFF w.d,
    a := if form = 1 then fieldFF w.a else if form = 2 then fieldSrc .uniSpec false w.a else fieldSrc .uni true w.a,
    b := if form = 3 then fieldSrc .uni true w.b else fieldFF w.b,
    c := fieldFF w.c, noReuse := true, gUni := true }

/-- PTLOAD (R220): .table and .lease. -/
def shapePtload (w : FWord) : Shape :=
  let lease := w.m.getLsbD 0
  { modOk := mWithin w 1 && w.s == 0 && w.y == 0, d := fieldDst .uni false w.d,
    a := if lease then fieldFF w.a else fieldSrc .uni true w.a,
    b := if lease then fieldSrc .uniSpec false w.b else fieldFF w.b,
    c := if lease then fieldImm 8 w.c else { fieldImm 8 w.c with ok := decide (4 ≤ w.c.toNat ∧ w.c.toNat ≤ 7) },
    gUni := true }

/-! ## Class 10 (R42, R263) -/

/-- A tile instruction: the stream in S, the predicate in C, D a tile, even where `even`. -/
def fieldTile (even : Bool) (c : Code) : Field := { fieldImm 8 c with ok := decide (c.toNat < 8) && !(even && c.toNat % 2 == 1) }
def fieldTp (c : Code) : Field := { fieldAny c with ok := decide (c.toNat < 16) || c == 0xFF }
def shapeTile (w : FWord) (ok : Bool) (ys : Nat) (d a b c : Field) : Shape :=
  { modOk := ok && decide (w.s.toNat < 4) && decide (w.y.toNat < ys), d := d, a := a, b := b, c := c, noReuse := true }

/-- The Y values a multiply accepts, as a bound: one for the forms that take CLASSICAL only (R257). -/
def mulYs (classicalOnly : Bool) : Nat := if classicalOnly then 1 else 3

/-- MMA, MMAP, MMAG, MMAX: M[11:9] below `n`. -/
def shapeMul (w : FWord) (n : Nat) (a b : Field) : Shape :=
  let f := w.m.toNat % 8
  shapeTile w (decide (f < n)) (mulYs false) (fieldTile false w.d) a b (fieldTp w.c)

/-- MLD, MST. -/
def shapeAcc (w : FWord) (ok : Bool) : Shape :=
  shapeTile w (ok && decide (w.m.toNat % 8 ≤ 5)) 1 (fieldTile (w.m.toNat % 8 == 5) w.d) (fieldSrc .uni false w.a) (fieldFF w.b) (fieldTp w.c)

/-! ## Class 11 (R301) -/

/-- A tree instruction: the slot in S, coordinates in A, B and C, D a group of `k` registers. -/
def shapeTree (w : FWord) (ok : Bool) (d a b c : Field) : Shape :=
  { modOk := ok && w.y == 0, d := d, a := a, b := b, c := c, noReuse := true, overlap := true, overlapC := true }
def fieldXyz (c : Code) : Field := fieldSrc .any false c

/-- TWLD, TWST: the .c or .r form. -/
def shapeVoxel (w : FWord) (d : Field) : Shape :=
  if w.m.getLsbD 3 then shapeTree w true d (fieldSrc .reg true w.a) (fieldXyz w.b) (fieldFF w.c)
  else shapeTree w true d (fieldXyz w.a) (fieldXyz w.b) (fieldXyz w.c)

/-! ## Class 12 (R324, R338) -/

/-- The X word of an event instruction: the name when A is 0xFF, the amount when B is 0xFF and it has one (R324). -/
def evX (w : FWord) (amount : Bool) : Bool :=
  match w.x with
  | none => true
  | some x => (w.a == 0xFF || w.b == 0xFF) && (w.a == 0xFF || (amount && x.imm.extractLsb' 0 16 == 0))
      && ((amount && w.b == 0xFF) || x.imm.extractLsb' 16 16 == 0)

/-- EVSIG, EVWAIT, EVCLR: D as given, a release scope in S only where `sig`, B only where `amount`. -/
def shapeEv (w : FWord) (sig amount : Bool) (d : Field) : Shape :=
  { modOk := w.m == 0 && (sig || w.s == 0) && w.y == 0 && evX w amount, d := d,
    a := if w.a = 0xFF then ⟨w.x.isSome, false, [], [], false⟩ else fieldSrc .uniSpec false w.a,
    b := if w.b = 0xFF || !amount then fieldFF w.b else fieldSrc .uniSpec false w.b,
    c := fieldFF w.c, xacc := .opt, noReuse := true, gUni := true }

/-- An optional uniform destination. -/
def fieldDstOpt (c : Code) : Field := if c = 0xFF then fieldFF c else fieldDst .uni false c

/-- COLL and MSG (R417). -/
def shapeColl (w : FWord) : Shape :=
  { modOk := decide (w.m.toNat % 4 ≤ 2) && decide (w.m.toNat / 4 ≤ 2) && decide (w.s.toNat ≤ 1) && w.y == 0, d := fieldDst .vec false w.d,
    a := fieldSrc .vec false w.a, b := fieldSrc .uniSpec false w.b, c := { fieldImm 17 w.c with ok := decide (1 ≤ w.c.toNat ∧ w.c.toNat ≤ 16) } }
def shapeMsg (w : FWord) : Shape :=
  { modOk := decide (w.m.toNat ≤ 2) && (w.m != 2 || w.s == 0) && w.y == 0, d := fieldFF w.d, a := fieldSrc .uni true w.a,
    b := if w.b = 0xFF then fieldFF w.b else fieldSrc .uniSpecVz false w.b, c := if w.m = 1 then fieldImm 16 w.c else fieldFF w.c }

/-- ENQ, NODEOUT: the record in A, one vector register or two. -/
def shapeEnq (w : FWord) (b c : Field) : Shape :=
  { modOk := mWithin w 1 && (w.y == 0 || w.y == 2), d := fieldDstPairOpt w.d, a := fieldSrc .vec (w.m.getLsbD 0) w.a, b := b, c := c,
    noReuse := true, free37 := true }

/-- A source that is not vz. -/
def fieldNoVz (c : Code) : Field := { fieldSrc .any false c with ok := c != 0xFF }

/-- RECV: the word form and .cnt. -/
def shapeRecv (w : FWord) : Shape :=
  let cnt := w.m.getLsbD 0
  { modOk := mWithin w 1 && w.s == 0 && w.y == 0, d := fieldDst (if cnt then .uni else .vec) false w.d,
    a := if cnt then fieldFF w.a else fieldNoVz w.a, b := if cnt then fieldFF w.b else fieldNoVz w.b, c := fieldFF w.c,
    noReuse := true }

/-! ## The description of every F instruction -/

/-- The description of a word's instruction; none for P words and steps of the device. -/
def shapeOf : Instr → Option (FWord × Shape)
  | .mov w => some (w, shapeDA w (intS w true false && w.m == 0) (isW w) (isW w))
  | .movi w => some (w, { shapeDA w (intS w true false && w.m == 0) (isW w) false with a := fieldFF w.a, xacc := .req })
  | .iadd w => some (w, shapeDAB w (intS w true true && w.m == 0) (isW w) (isW w) (isW w))
  | .isub w => some (w, shapeDAB w (intS w true true && w.m == 0) (isW w) (isW w) (isW w))
  | .imul w => some (w, shapeDAB w (intS w true true && w.m == 0) (isW w) (isW w) (isW w))
  | .imulh w => some (w, shapeDAB w (intS w true false && w.m == 0) (isW w) (isW w) (isW w))
  | .imad w => some (w, shapeDABC w (intS w true true && w.m == 0) (isW w) (isW w) (isW w) (isW w))
  | .imadw w => some (w, shapeDABC w (intS w false true && w.m == 0) true false false true)
  | .imin w => some (w, shapeDAB w (intS w true false && w.m == 0) (isW w) (isW w) (isW w))
  | .imax w => some (w, shapeDAB w (intS w true false && w.m == 0) (isW w) (isW w) (isW w))
  | .iabs w => some (w, shapeDA w (intS w true true && w.m == 0) (isW w) (isW w))
  | .ltab w => some (w, { shapeDABC w (intS w true false && w.m == 0 && (match w.x with | some x => x.imm.extractLsb' 8 24 == 0 | none => true)) (isW w) (isW w) (isW w) (isW w) with b := fieldSrc .any (isW w) w.b, xacc := .req })
  | .and w => some (w, shapeDAB w (intS w true false && w.m == 0) (isW w) (isW w) (isW w))
  | .or w => some (w, shapeDAB w (intS w true false && w.m == 0) (isW w) (isW w) (isW w))
  | .xor w => some (w, shapeDAB w (intS w true false && w.m == 0) (isW w) (isW w) (isW w))
  | .shl w => some (w, shapeDAB w (intS w true false && w.m == 0) (isW w) (isW w) false)
  | .shr w => some (w, shapeDAB w (intS w true false && w.m == 0) (isW w) (isW w) false)
  | .sar w => some (w, shapeDAB w (intS w true false && w.m == 0) (isW w) (isW w) false)
  | .shf w => some (w, shapeDABC w (intS w false false && mWithin w 1) false false false false)
  | .bfe w => some (w, shapeDAB w (intS w true false && w.m == 0) (isW w) (isW w) false)
  | .bfi w => some (w, shapeDABC w (intS w true false && w.m == 0) (isW w) (isW w) false (isW w))
  | .popc w => some (w, shapeDA w (intS w true false && w.m == 0) false (isW w))
  | .clz w => some (w, shapeDA w (intS w true false && w.m == 0) false (isW w))
  | .brev w => some (w, shapeDA w (intS w true false && w.m == 0) (isW w) (isW w))
  | .lea w => some (w, { shapeDAB w (intS w true false && w.m == 0) (isW w) (isW w) false with c := fieldImm 8 w.c })
  | .fadd w => some (w, shapeDAB w (fpS w true && mWithin w 1) false false false)
  | .fsub w => some (w, shapeDAB w (fpS w true && mWithin w 1) false false false)
  | .fmul w => some (w, shapeDAB w (fpS w true && mWithin w 1) false false false)
  | .ffma w => some (w, shapeDABC w (fpS w true && mWithin w 1) false false false false)
  | .fmin w => some (w, shapeDAB w (fpS w false && mWithin w 1) false false false)
  | .fmax w => some (w, shapeDAB w (fpS w false && mWithin w 1) false false false)
  | .fmov w => some (w, shapeDA w (fpS w false && mWithin w 7) false false)
  | .frcp w => some (w, shapeDA w (fpS w true && mWithin w 1) false false)
  | .frsq w => some (w, shapeDA w (fpS w false && mWithin w 1) false false)
  | .fsqrt w => some (w, shapeDA w (fpS w true && mWithin w 1) false false)
  | .fex2 w => some (w, shapeDA w (fpS w false && mWithin w 1) false false)
  | .flg2 w => some (w, shapeDA w (fpS w false && mWithin w 1) false false)
  | .fsin w => some (w, shapeDA w (fpS w false && mWithin w 1) false false)
  | .fcos w => some (w, shapeDA w (fpS w false && mWithin w 1) false false)
  | .hadd2 w => some (w, shapeDAB w (fpS w true && mWithin w 2) false false false)
  | .hmul2 w => some (w, shapeDAB w (fpS w true && mWithin w 2) false false false)
  | .hfma2 w => some (w, shapeDABC w (fpS w true && mWithin w 2) false false false false)
  | .dadd w => some (w, shapeDAB w (fpS w true && mWithin w 0) true true true)
  | .dmul w => some (w, shapeDAB w (fpS w true && mWithin w 0) true true true)
  | .dfma w => some (w, shapeDABC w (fpS w true && mWithin w 0) true true true true)
  | .dmin w => some (w, shapeDAB w (fpS w false && mWithin w 0) true true true)
  | .dmax w => some (w, shapeDAB w (fpS w false && mWithin w 0) true true true)
  | .drcp w => some (w, shapeDA w (fpS w true && mWithin w 0) true true)
  | .drsq w => some (w, shapeDA w (fpS w false && mWithin w 0) true true)
  | .dmov w => some (w, shapeDA w (fpS w false && mWithin w 6) true true)
  | .cvt w => some (w, shapeDA w (fpS w true && w.m.toNat / 4 != w.m.toNat % 4) (w.m.toNat % 4 == 1) (w.m.toNat / 4 == 1))
  | .cvti w => some (w, shapeDA w (if w.m.getLsbD 2 then decide (w.s.toNat ≤ 3) else fpS w true) (if w.m.getLsbD 2 then w.m.getLsbD 1 else w.m.getLsbD 3) (if w.m.getLsbD 2 then w.m.getLsbD 3 else w.m.getLsbD 1))
  | .pack w => some (w, shapePack w)
  | .unpk w => some (w, shapeUnpk w)
  | .qscan w => some (w, { shapeDA w (w.s == 0 && decide (2 ≤ w.m.toNat ∧ w.m.toNat ≤ 5)) false false with free37 := true })
  | .icmp w => some (w, shapeCmp w (!w.s.getLsbD 0 && decide (w.m.toNat % 8 < 6)) (isW w))
  | .fcmp w => some (w, shapeCmp w (w.s == 0) false)
  | .dcmp w => some (w, shapeCmp w (w.s == 0) true)
  | .vset w => some (w, shapeDA w (w.s == 0 && w.m == 0) false false)
  | .vclr w => some (w, shapeDA w (w.s == 0 && w.m == 0) false false)
  | .vtest w => some (w, shapeDA w (w.s == 0 && w.m == 0) false false)
  | .vand w => some (w, shapeDAB w (w.s == 0 && mWithin w 3 && w.m != 3) false false false)
  | .sel w => some (w, { shapeDAB w ((w.s == 0 || w.s == 2) && w.m == 0) (isW w) (isW w) (isW w) with gReq := true })
  | .ballot w => some (w, { shapeDA w (w.s == 0 && w.m == 0) false false with free37 := true })
  | .vote w => some (w, { shapeDA w (w.s == 0 && mWithin w 3 && w.m != 3) false false with free37 := true })
  | .shfl w => some (w, shapeDAB w ((w.s == 0 || w.s == 2) && mWithin w 3) (isW w) (isW w) false)
  | .redux w => some (w, { shapeDA w (reduxMod w) false false with free37 := true })
  | .scan w => some (w, { shapeDA w (reduxMod w) false false with c := fieldImm 2 w.c, extra := !Code.isUni w.d })
  | .nop w => some (w, shapeCtl w (zeroF w.d) (zeroF w.a) (zeroF w.b) (zeroF w.c))
  | .br w => some (w, { shapeCtl w (zeroF w.d) (fieldAny w.a) (fieldAny w.b) (fieldAny w.c) with xacc := .opt })
  | .brx w => some (w, { shapeCtl w (zeroF w.d) (fieldSrc .vec true w.a) (zeroF w.b) (zeroF w.c) with xacc := .opt })
  | .jmp w => some (w, { shapeCtl w (zeroF w.d) (fieldSrc .uni true w.a) (zeroF w.b) (zeroF w.c) with gUni := true })
  | .call w => some (w, { shapeCtl w (zeroF w.d) (fieldAny w.a) (fieldAny w.b) (fieldAny w.c) with gUni := true })
  | .ret w => some (w, shapeCtl w (zeroF w.d) (zeroF w.a) (zeroF w.b) (zeroF w.c))
  | .exit w => some (w, shapeCtl w (zeroF w.d) (zeroF w.a) (zeroF w.b) (zeroF w.c))
  | .elect w => some (w, shapeCtl w (fieldDst .reg false w.d) (zeroF w.a) (zeroF w.b) (zeroF w.c))
  | .yield w => some (w, shapeCtl w (zeroF w.d) (zeroF w.a) (zeroF w.b) (zeroF w.c))
  | .trap w => some (w, shapeCtl w (zeroF w.d) (zeroF w.a) (zeroF w.b) (fieldAny w.c))
  | .brk w => some (w, shapeCtl w (zeroF w.d) (zeroF w.a) (zeroF w.b) (fieldAny w.c))
  | .sleep w => some (w, { shapeCtl w (zeroF w.d) (zeroF w.a) (if w.x.isSome then fieldFF w.b else fieldSrc .uniLane false w.b) (zeroF w.c) with xacc := .opt })
  | .ld w => some (w, shapeMem w true true .reg .any (fieldFF w.b) (fieldOff w) .opt)
  | .st w => some (w, shapeMem w false true .reg .any (fieldFF w.b) (fieldOff w) .opt)
  | .lda w => some (w, shapeMem w true true .reg .any (fieldSrcOpt .any w.b) (fieldImm 16 w.c) .opt)
  | .ldx w => some (w, { shapeMem w true true .reg .any (fieldSrc .any false w.b) (fieldOff w) .opt with extra := w.b != 0xFF })
  | .stx w => some (w, { shapeMem w false true .reg .any (fieldSrc .any false w.b) (fieldOff w) .opt with extra := w.b != 0xFF })
  | .stc w => some (w, shapeMem w false (narrowSize w) .uni .vec (fieldFF w.b) (fieldOff w) .opt)
  | .lde w => some (w, shapeMem w true (narrowSize w) .uni .vec (fieldFF w.b) (fieldOff w) .opt)
  | .ldr w => some (w, shapeMem w true true .reg .any (fieldSrcOpt .any w.b) (zeroF w.c) .coord)
  | .str w => some (w, shapeMem w false true .reg .any (fieldSrcOpt .any w.b) (zeroF w.c) .coord)
  | .pref w => some (w, { shapeMem w true true .reg .any (fieldSrcOpt .any w.b) (fieldOff w) .opt with d := fieldFF w.d, overlap := false, modOk := memM w false && (w.y == 0 || w.y == 1) })
  | .cpy w => some (w, { modOk := w.m == 0, d := fieldSrc .uni true w.d, a := fieldSrc .uni true w.a, b := if w.x.isSome then fieldFF w.b else fieldSrc .uniSpec false w.b, c := fieldFF w.c, xacc := .opt })
  | .cpyd w => some (w, shapeAsync w (fieldFF w.d) (fieldSrc .uni true w.a) (fieldFF w.b) (fieldOff w) .opt)
  | .cpcommit w => some (w, shapeAsync w (fieldFF w.d) (fieldFF w.a) (fieldFF w.b) (fieldFF w.c) .no)
  | .wait w => some (w, { shapeAsync w (fieldFF w.d) (fieldFF w.a) (if w.m.getLsbD 0 then fieldAny w.b else fieldImm 16 w.b) (fieldAny w.c) .no with modOk := decide (w.m.toNat ≤ 1) && w.s == 0 && w.y == 0 })
  | .acreset w => some (w, shapeAsync w (fieldFF w.d) (fieldFF w.a) (fieldFF w.b) (fieldImm 16 w.c) .no)
  | .dfence w => some (w, shapeAsync w (fieldFF w.d) (fieldFF w.a) (fieldFF w.b) (fieldFF w.c) .no)
  | .atom w => some (w, shapeAtom w true false true .reg (fieldImm 10 w.c))
  | .red w => some (w, shapeAtom w (w.y == 0 || w.y == 2) false false .any (fieldImm 10 w.c))
  | .cas w => some (w, shapeAtom w true true true .reg (fieldOff w))
  | .atomf w => some (w, shapeAtom w (w.m == 4) false true .any (fieldOff w))
  | .lock w => some (w, { modOk := w.m == 4 && w.y == 0, d := fieldDst .any false w.d, a := fieldSrc .reg true w.a, b := fieldSrcOpt .any w.b, c := fieldOff w, xacc := .opt, overlap := true })
  | .unlock w => some (w, { modOk := w.m == 4 && w.y == 0, d := fieldFF w.d, a := fieldSrc .reg true w.a, b := fieldSrcOpt .any w.b, c := fieldOff w, xacc := .opt })
  | .fence w => some (w, { shapeSys w (fieldFF w.d) (fieldFF w.a) (fieldFF w.b) (fieldFF w.c) with modOk := mWithin w 3 && w.m != 0 && w.y == 0 })
  | .flushtag w => some (w, shapeSys w (fieldFF w.d) (fieldSrc .uniSpec false w.a) (fieldFF w.b) (fieldFF w.c))
  | .leasedrop w => some (w, { shapeSys w (fieldFF w.d) (fieldFF w.a) (fieldFF w.b) (fieldFF w.c) with noReuse := false })
  | .rdsr w => some (w, { shapeSys w (fieldDst .reg false w.d) (fieldFF w.a) (fieldFF w.b) (fieldAny w.c) with extra := srKnown w.c.toNat })
  | .wrsr w => some (w, { shapeSys w (fieldFF w.d) (fieldSrc .uniSpecVz false w.a) (fieldFF w.b) (fieldAny w.c) with extra := srKnown w.c.toNat })
  | .svc w => some (w, shapeSys w (fieldFF w.d) (fieldSrc .uniSpecVz false w.a) (fieldFF w.b) (fieldAny w.c))
  | .trapret w => some (w, { shapeSys w (fieldFF w.d) (fieldFF w.a) (fieldFF w.b) (fieldFF w.c) with modOk := decide (w.m.toNat ≤ 1) && w.s == 0 && w.y == 0 })
  | .setrole w => some (w, shapeSet w)
  | .setmode w => some (w, shapeSet w)
  | .tlbinv w => some (w, shapeTlbinv w)
  | .ctxcmd w => some (w, { shapeSys w (fieldDstPairOpt w.d) (fieldSrc .uni true w.a) (fieldFF w.b) (fieldAny w.c) with extra := decide (1 ≤ w.c.toNat ∧ w.c.toNat ≤ 0x0E) })
  | .ptload w => some (w, shapePtload w)
  | .halt w => some (w, shapeSys w (fieldFF w.d) (fieldFF w.a) (fieldFF w.b) (fieldFF w.c))
  | .mctx w => some (w, { shapeTile w (decide (w.m.toNat ≤ 1) && w.s == 0) 1 (zeroF w.d) (fieldFF w.a) (fieldFF w.b) (fieldFF w.c) with xacc := .no })
  | .mrel w => some (w, shapeTile w (w.m == 0 && w.s == 0) 1 (zeroF w.d) (fieldFF w.a) (fieldFF w.b) (fieldFF w.c))
  | .mma w => some (w, if w.m.toNat % 8 = 6 then shapeTile w true (mulYs true) (fieldTile true w.d) (fieldSrc .uni false w.a) (fieldSrc .uni false w.b) (fieldTp w.c) else shapeMul w 6 (fieldSrc .uni false w.a) (fieldSrc .uni false w.b))
  | .mmap w => some (w, { shapeMul w 6 (fieldSrc .uni false w.a) (fieldSrc .uni false w.b) with xacc := .partner, modOk := (shapeMul w 6 (fieldSrc .uni false w.a) (fieldSrc .uni false w.b)).modOk && (match w.x with | some x => x.imm == 0 | none => true) })
  | .mmag w => some (w, shapeMul w 6 (fieldSrcG .vec 2 2 w.a) (fieldSrc .uni false w.b))
  | .mmax w => some (w, if w.m.toNat % 8 = 1 then shapeTile w true (mulYs true) (fieldTile false w.d) (fieldSrcG .uni 2 1 w.a) (fieldSrcG .uni 2 1 w.b) (fieldTp w.c) else shapeMul w 1 (fieldSrcG .uni 2 1 w.a) (fieldSrcG .uni 2 1 w.b))
  | .mld w => some (w, shapeAcc w (!w.m.getLsbD 3))
  | .mst w => some (w, shapeAcc w (!w.m.getLsbD 3 || decide (9 ≤ w.m.toNat ∧ w.m.toNat ≤ 12)))
  | .mzero w => some (w, shapeTile w (decide (w.m.toNat ≤ 1)) 1 (fieldTile (w.m.getLsbD 0) w.d) (fieldFF w.a) (fieldFF w.b) (fieldTp w.c))
  | .tpset w => some (w, shapeTile w (decide (w.m.toNat ≤ 1)) 1 (zeroF w.d) (fieldSrc .uniSpecVz false w.a) (fieldFF w.b) (if w.m.getLsbD 0 then fieldFF w.c else fieldImm 16 w.c))
  | .tpscan w => some (w, shapeTile w (decide (w.m.toNat ≤ 2)) 1 (zeroF w.d) (fieldSrc .uni false w.a) (fieldFF w.b) (fieldImm 16 w.c))
  | .msync w => some (w, shapeTile w (w.m == 0 || (w.m == 1 && w.s == 0)) 1 (zeroF w.d) (fieldFF w.a) (fieldFF w.b) (fieldFF w.c))
  | .twbind w => some (w, shapeTree w (w.m == 0) (fieldFF w.d) (fieldSrc .uni true w.a) (fieldFF w.b) (fieldFF w.c))
  | .twlk w => some (w, shapeTree w (w.m == 0) (fieldDstG .any 3 2 w.d) (fieldXyz w.a) (fieldXyz w.b) (fieldXyz w.c))
  | .twld w => some (w, shapeVoxel w (fieldDst .any false w.d))
  | .twst w => some (w, { shapeVoxel w (fieldSrc .any false w.d) with modOk := decide (w.y.toNat ≤ 1), overlap := false })
  | .twsten w => some (w, { shapeTree w (!w.m.getLsbD 3) (fieldDstG .vec (match w.y.toNat with | 0 => 7 | 1 => 19 | _ => 27) 1 w.d) (fieldXyz w.a) (fieldXyz w.b) (fieldXyz w.c) with modOk := !w.m.getLsbD 3 && w.y != 3 })
  | .twray w => some (w, shapeTree w (!w.m.getLsbD 3) (fieldDstG .vec 4 2 w.d) (fieldSrcG .reg 8 1 w.a) (fieldXyz w.b) (fieldFF w.c))
  | .twleaf w => some (w, shapeTree w (w.m == 0) (fieldDstG .any 4 1 w.d) (fieldSrc .reg true w.a) (fieldFF w.b) (fieldFF w.c))
  | .twinv w => some (w, shapeTree w (w.m == 0 || (w.m == 1 && w.s == 0)) (fieldFF w.d) (fieldFF w.a) (fieldFF w.b) (fieldFF w.c))
  | .tains w => some (w, shapeTree w (decide (w.m.toNat ≤ 3)) (fieldDstG .any 2 1 w.d) (fieldXyz w.a) (fieldXyz w.b) (fieldXyz w.c))
  | .tadel w => some (w, shapeTree w (w.m == 0) (fieldDst .any false w.d) (fieldXyz w.a) (fieldXyz w.b) (fieldXyz w.c))
  | .tamask w => some (w, shapeTree w (decide (w.m.toNat ≤ 3)) (fieldDst .any false w.d) (fieldXyz w.a) (fieldXyz w.b) (fieldXyz w.c))
  | .tacommit w => some (w, shapeTree w (decide (2 ≤ w.m.toNat ∧ w.m.toNat ≤ 7)) (if w.d = 0xFF then fieldFF w.d else fieldDst .uni false w.d) (fieldFF w.a) (fieldFF w.b) (fieldFF w.c))
  | .enq w => some (w, shapeEnq w (fieldSrc .uni true w.b) (fieldFF w.c))
  | .nodeout w => some (w, shapeEnq w (fieldFF w.b) (fieldImm 4 w.c))
  | .recv w => some (w, shapeRecv w)
  | .evsig w => some (w, shapeEv w true true (fieldFF w.d))
  | .evwait w => some (w, shapeEv w false true (fieldDstOpt w.d))
  | .evclr w => some (w, shapeEv w false false (fieldDstOpt w.d))
  | .launch w => some (w, { shapeSys w (fieldDstPairOpt w.d) (fieldSrc .uni true w.a) (fieldFF w.b) (fieldFF w.c) with xacc := .opt, gUni := true })
  | .rld w => some (w, shapeMem w true true .reg .any (fieldSrcOpt .any w.b) (fieldImm 16 w.c) .opt)
  | .rwr w => some (w, shapeMem w false true .reg .any (fieldSrcOpt .any w.b) (fieldOff w) .opt)
  | .ratom w => some (w, shapeAtom w (w.m == 4 || w.c != 0x0B) (w.c == 0x0A) true .reg (fieldImm 12 w.c))
  | .halo w => some (w, { modOk := w.m == 0 && w.y == 0, d := fieldFF w.d, a := fieldSrc .uni true w.a, b := fieldFF w.b, c := fieldFF w.c })
  | .coll w => some (w, shapeColl w)
  | .msg w => some (w, shapeMsg w)
  | .bara w => some (w, { shapeSys w (fieldFF w.d) (fieldFF w.a) (fieldFF w.b) (fieldImm 16 w.c) with modOk := decide (w.m.toNat ≤ 1) && w.s == 0 && w.y == 0 })
  | .barw w => some (w, shapeSys w (fieldFF w.d) (fieldFF w.a) (fieldFF w.b) (fieldImm 16 w.c))
  | .bars w => some (w, shapeSys w (fieldFF w.d) (fieldFF w.a) (fieldFF w.b) (fieldImm 16 w.c))
  | .bart w => some (w, shapeSys w (fieldDst .reg false w.d) (fieldFF w.a) (fieldFF w.b) (fieldImm 16 w.c))
  | .packq w => some (w, { shapeSys w (fieldDst .reg false w.d) (fieldFF w.a) (fieldFF w.b) (fieldAny w.c) with modOk := mWithin w 3 && w.m != 3 && w.s == 0 && w.y == 0 })
  | _ => none

/-- The privileged opcodes (R79). -/
def privOf : Instr → Bool
  | .flushtag _ => true
  | .tlbinv _ => true
  | .ctxcmd _ => true
  | .ptload _ => true
  | .halt _ => true
  | _ => false

/-! ## The decode checks that need no state (R56 orders 5 and 6) -/

/-- The X word's acceptance (R45). -/
def xOk (sh : Shape) (w : FWord) : Bool :=
  match w.x with
  | none => sh.xacc == .no || sh.xacc == .opt
  | some x =>
    x.rsv == 0 && x.coord.toNat % 16 == 0 && (x.kind != 0 || x.coord == 0)
      && (match sh.xacc with
          | .no => false
          | .opt => x.kind == 0
          | .req => x.kind == 0
          | .coord => x.kind == 1 || x.kind == 2
          | .partner => x.kind == 2)

/-- Order 5: M, U, S, Y, X and the X word (R43, R45). -/
def modifierOk (sh : Shape) (w : FWord) : Bool := sh.modOk && (!sh.noReuse || w.u == 0) && xOk sh w

/-- R37: a uniform instruction reads no vector register and no %lane. -/
def uniformOk (sh : Shape) (w : FWord) : Bool :=
  let one (fd : Field) (c : Code) : Bool := !fd.src || !(Code.isVec c || c == 0xF0)
  sh.free37 || !(sh.d.writes.any (fun r => r.uni)) || (one sh.a w.a && one sh.b w.b && one sh.c w.c)

/-- R171, R215: no register of D is a register of A or B; R302: nor of C. -/
def overlapOk (sh : Shape) : Bool :=
  !sh.overlap || !((sh.d.reads ++ sh.d.writes).any (fun r => (sh.a.reads ++ sh.b.reads ++ (if sh.overlapC then sh.c.reads else [])).contains r))

/-- The guard's code (R36, R132, and the entries that take a uniform guard only). -/
def guardOk (sh : Shape) (w : FWord) : Bool :=
  !Code.isSpecial w.g && !(sh.gUni && Code.isVec w.g) && !(sh.gReq && w.g == 0xFF)

/-- Order 6 without the bank limits. -/
def fieldsOk (sh : Shape) (w : FWord) : Bool :=
  sh.d.ok && sh.a.ok && sh.b.ok && sh.c.ok && guardOk sh w && sh.extra && uniformOk sh w && overlapOk sh

/-- Every register a word names, the guard included (R35). -/
def namedRegs (sh : Shape) (w : FWord) : List Reg :=
  sh.d.reads ++ sh.d.writes ++ sh.a.reads ++ sh.b.reads ++ sh.c.reads ++ codeRegs w.g 1

/-! ## The halves of a P word (R52-R55) -/

/-- The F word a half equals (R53): G = 0xFF, U, X, Y and M zero. -/
def halfWord (h : HalfWord) : FWord :=
  { d := h.d, a := h.a, b := h.b, c := 0xFF, g := 0xFF, m := 0, u := 0,
    s := (match h.pop with | .imin => 4 | .imax => 4 | _ => 0), x := none, y := 0 }

/-- Whether a half's b is an immediate, and whether it reads a. -/
def pairImm : PairOp → Bool
  | .mov8 => true | .iadd8 => true | .shl8 => true | _ => false

/-- The fields of a half as an instruction has them (R33-R37, R53). -/
def halfShape (h : HalfWord) : Shape :=
  { modOk := true, d := fieldDst .any false h.d,
    a := if h.pop = .mov8 then fieldFF h.a else fieldSrc .any false h.a,
    b := if h.pop = .mov then fieldFF h.b else if h.pop = .shl8 then fieldImm 32 h.b
         else if pairImm h.pop then fieldAny h.b else fieldSrc .any false h.b,
    c := fieldFF 0xFF }

/-- The bank reads of one half: vector registers, one named twice counting once (R49, R55). -/
def halfReads (h : HalfWord) : List Reg :=
  let sh := halfShape h
  let a := if sh.a.src then sh.a.reads else []
  let b := if sh.b.src && h.b != h.a then sh.b.reads else []
  (a ++ b).filter (fun r => !r.uni)

/-- The encoding rules of a P word (R55). A destination of vz counts in no bank; that a uniform destination counts in none either, since
banks are those of vector registers (R49), is the model's choice (log 89). -/
def pairOk (h0 h1 : HalfWord) : Bool :=
  let s0 := halfShape h0
  let s1 := halfShape h1
  let rs := halfReads h0 ++ halfReads h1
  let dst : Bool := match s0.d.writes, s1.d.writes with
    | a :: _, b :: _ => a != b && (a.uni || b.uni || a.n % 2 != b.n % 2)
    | _, _ => true
  s0.d.ok && s0.a.ok && s0.b.ok && s1.d.ok && s1.a.ok && s1.b.ok && uniformOk s0 (halfWord h0) && uniformOk s1 (halfWord h1) && dst
    && decide ((rs.filter (fun r => r.n % 2 == 0)).length ≤ 2) && decide ((rs.filter (fun r => r.n % 2 == 1)).length ≤ 2)

/-! ## Numbers that name parts (R16, R400) -/

/-- Die, row and column of a core's coordinate. -/
def coreDie (c : Nat) : Nat := c / 256
def coreRow (c : Nat) : Nat := c / 16 % 16
def coreCol (c : Nat) : Nat := c % 16

/-- Logical coordinates: row 0-11 (R16). -/
def coreValid (c : Nat) : Bool := decide (c < 1024) && decide (coreRow c < 12)

/-- The link numbers of R400. -/
def linkValid (n : Nat) : Bool := decide (n < 4) || (decide (16 ≤ n) && decide (n < 40)) || n == 48 || (decide (256 ≤ n) && decide (n < 768))

end Sys2Proof.Machine
end

