-- ==== Sys2Proof/WellFormed.lean ====
section
/-! DEFINITION. Which instructions are well formed: an F word that passes the decode checks of R56 that need no state (M, S, U, Y, X and
operand codes), a P word within R55, a word that R67 or R46 refuses, and a step of the device whose numbers name something. The privilege,
bank and register-range checks depend on the state, and stand in the meanings. -/

namespace Sys2Proof

/-- How many opcodes each class assigns, from slot 0 up (R66-R78). -/
def assigned (cls : Nat) : Nat := ([25, 17, 8, 5, 13, 12, 10, 6, 6, 3, 12, 12, 7, 5, 6, 10] : List Nat).getD cls 0

/-- Whether an opcode is assigned (R65-R67). -/
def opAssigned (op : BitVec 10) : Bool := decide (op.toNat % 64 < assigned (op.toNat / 64))

/-- Whether a word that stands alone is one that R67 refuses: not an X word, and of an unassigned opcode or pOP, or with X = 1 and no X
word after it (R56). -/
def refusedWord (w : Dword) : Bool :=
  match (w.extractLsb' 62 2).toNat with
  | 3 => false
  | 2 => decide (20 ≤ (w.extractLsb' 55 7).toNat) || decide (20 ≤ (w.extractLsb' 24 7).toNat)
  | _ => w.getLsbD 2 || !opAssigned (w.extractLsb' 53 10)

/-- A word span of a line (R197). -/
def Span.wf (p : Span) : Bool := decide (1 ≤ p.count) && decide (p.first + p.count ≤ 64)

/-- A source of a command: a context number, or a function of the device (R23, R357). -/
def CmdSource.wf : CmdSource → Bool
  | .queued ctx => decide (ctx < 12)
  | .host fn ctx _ _ _ _ _ => decide (fn ≤ 12) && decide (ctx < 12)

/-- The header fields of a message within their widths (R411). -/
def Msg.wf (m : Msg) : Bool :=
  decide (m.cls < 8) && decide (m.op < 32) && decide (m.srcDev < 2 ^ 19) && decide (m.dstDev < 2 ^ 19) && decide (m.dstPart < 16)
    && decide (m.stream < 2 ^ 32) && decide (m.addr < 2 ^ 52) && decide (m.seq < 2 ^ 64)

/-- A target of the patrol scrub. -/
def ScrubTarget.wf : ScrubTarget → Bool
  | .sector pa => decide (pa < 2 ^ 41)
  | .l2 die pa => decide (die < 4) && decide (pa < 2 ^ 41)
  | .firn core word => Machine.coreValid core && decide (word < 393216)

/-- The lists of a lock set have the lengths of the registers (R364, R425, R426). -/
def LockSet.wf (l : LockSet) : Bool :=
  l.saCore.length == 4 && l.saMover.length == 4 && l.saQueue.length == 12 && l.regions.length == 64 && l.repairMap.length == 4
    && l.moved.length == 4 && l.moved.all (fun r => decide (r < 12) || r == 15)

/-- Whether the numbers of a step name something that exists; what names an object of the machine, such as a floe, may have ended. -/
def stepOk : Instr → Bool
  | .copyStart core _ => Machine.coreValid core
  | .copyComplete core _ => Machine.coreValid core
  | .copyFault core _ => Machine.coreValid core
  | .l1TagSweep core => Machine.coreValid core
  | .readMsg die line span slot => decide (die < 4) && decide (line < 2 ^ 33) && span.wf && decide (slot < 8)
  | .writeMsg _ line => decide (line < 2 ^ 33)
  | .atomicMsg _ line => decide (line < 2 ^ 33)
  | .evictMsg die line => decide (die < 4) && decide (line < 2 ^ 33)
  | .ackMsg die line => decide (die < 4) && decide (line < 2 ^ 33)
  | .returnMsg die line => decide (die < 4) && decide (line < 2 ^ 33)
  | .sharerInvalidate die line => decide (die < 4) && decide (line < 2 ^ 33)
  | .sharerUpdate die line => decide (die < 4) && decide (line < 2 ^ 33)
  | .recall die line => decide (die < 4) && decide (line < 2 ^ 33)
  | .tileOperationPerform core mctx stream => Machine.coreValid core && decide (mctx < 2) && decide (stream < 4)
  | .matrixContextGrant core => Machine.coreValid core
  | .matrixContextDrained core mctx => Machine.coreValid core && decide (mctx < 2)
  | .leafEnumeration ctx _ => decide (ctx < 12)
  | .walkerNodeRecord part queue => decide (part < 12) && decide (queue < 4096)
  | .blenderRecord part queue => decide (part < 12) && decide (queue < 4096)
  | .launchEngineTake die => decide (die < 4)
  | .floePlacement die => decide (die < 4)
  | .floeRestore _ core => Machine.coreValid core
  | .instanceDone ctx _ => decide (ctx < 12)
  | .eventSignal ctx => decide (ctx < 12)
  | .eventWait ctx => decide (ctx < 12)
  | .eventClear ctx => decide (ctx < 12)
  | .accept part => decide (part < 12)
  | .hostApertureRecord fn _ _ => decide (1 ≤ fn) && decide (fn ≤ 12)
  | .queueTimeout part queue => decide (part < 12) && decide (queue < 4096)
  | .queueBatchLaunch part queue => decide (part < 12) && decide (queue < 4096)
  | .barrierArrival part colour => decide (part < 12) && decide (colour < 16)
  | .releaseDone part colour => decide (part < 12) && decide (colour < 16)
  | .releaseReachesFloe part colour _ => decide (part < 12) && decide (colour < 16)
  | .gtCorrection core target => Machine.coreValid core && decide (-2 ≤ target) && decide (target ≤ 2)
  | .contextSaved ctx => decide (ctx < 12)
  | .scrubbed ctx => decide (ctx < 12)
  | .migrationFlushAck ctx => decide (ctx < 12)
  | .faultRecordPost ctx => decide (ctx < 12)
  | .replay src => src.wf
  | .rekey src => src.wf
  | .save src => src.wf
  | .restore src => src.wf
  | .migrate src => src.wf
  | .kload src => src.wf
  | .kplace src => src.wf
  | .kbind src => src.wf
  | .kunbind src => src.wf
  | .kunload src => src.wf
  | .qenable src => src.wf
  | .qdisable src => src.wf
  | .kill src => src.wf
  | .unhalt src => src.wf
  | .create src => src.wf
  | .destroy src => src.wf
  | .setsr src => src.wf
  | .hlaunch src => src.wf
  | .pageWalk core ctx _ => Machine.coreValid core && decide (ctx < 12)
  | .sealFill ctx block => decide (ctx < 12) && decide (block < 2 ^ 29)
  | .marginSample link _ => Machine.linkValid link
  | .linkRetrain link => Machine.linkValid link
  | .linkDisable link => Machine.linkValid link
  | .linkEnable link => Machine.linkValid link
  | .trainingDone link _ => Machine.linkValid link
  | .retrainingDone link _ _ _ => Machine.linkValid link
  | .linkFail link => Machine.linkValid link
  | .marginWordRead link lane => Machine.linkValid link && decide (lane < 448)
  | .reqMessage m => m.wf
  | .rspMessage m => m.wf
  | .enqMessage m => m.wf
  | .barMessage m => m.wf
  | .haloMessage m => m.wf
  | .mgmtMessage m => m.wf
  | .collRoundComplete part group _ => decide (part < 12) && decide (group < 256)
  | .patrolScrub t _ => t.wf
  | .initDone _ locks => locks.wf
  | .barRegisterWrite offset size _ => decide (offset + size ≤ 2 ^ 27) && decide (1 ≤ size) && decide (size ≤ 64)
  | .refreshWindow link _ _ _ _ _ => Machine.linkValid link && decide (256 ≤ link)
  | .ainarDieIsolation die => decide (die < 4)
  | .lockedRegisterWrite offset _ => decide (offset < 2 ^ 25)
  | .haloDestinationSignal _ dest => decide (dest < 2 ^ 21)
  | _ => true

/-- A well-formed instruction or step. -/
def Instr.wf (i : Instr) : Bool :=
  match Machine.shapeOf i with
  | some (w, sh) => Machine.modifierOk sh w && Machine.fieldsOk sh w
  | none =>
    match i with
    | .pairWord h0 h1 => Machine.pairOk h0 h1
    | .reservedOpcode w => refusedWord w
    | .orphanExtension w => w.extractLsb' 62 2 == 3
    | _ => stepOk i

end Sys2Proof
end

