-- ==== Sys2Proof/Decode.lean ====
section
/-! DEFINITION. The decoder and the encoder (R30-R56, R65-R82): bits to instruction and back. Decoding is total; what R67, R55 and
R46 refuse becomes `reservedOpcode` or `orphanExtension`, whose meaning is the trap. -/

namespace Sys2Proof

/-- Class 0, INT: its assigned slots from 0 up (R69). -/
def classOps0 : List (FWord → Instr) :=
  [.mov, .movi, .iadd, .isub, .imul, .imulh, .imad, .imadw, .imin, .imax, .iabs, .ltab, .and, .or, .xor, .shl, .shr, .sar, .shf, .bfe, .bfi, .popc, .clz, .brev, .lea]

/-- Class 1, FP32/16: its assigned slots from 0 up (R70). -/
def classOps1 : List (FWord → Instr) :=
  [.fadd, .fsub, .fmul, .ffma, .fmin, .fmax, .fmov, .frcp, .frsq, .fsqrt, .fex2, .flg2, .fsin, .fcos, .hadd2, .hmul2, .hfma2]

/-- Class 2, FP64: its assigned slots from 0 up (R71). -/
def classOps2 : List (FWord → Instr) :=
  [.dadd, .dmul, .dfma, .dmin, .dmax, .drcp, .drsq, .dmov]

/-- Class 3, CVT: its assigned slots from 0 up (R71). -/
def classOps3 : List (FWord → Instr) :=
  [.cvt, .cvti, .pack, .unpk, .qscan]

/-- Class 4, VAL: its assigned slots from 0 up (R72). -/
def classOps4 : List (FWord → Instr) :=
  [.icmp, .fcmp, .dcmp, .vset, .vclr, .vtest, .vand, .sel, .ballot, .vote, .shfl, .redux, .scan]

/-- Class 5, CTL: its assigned slots from 0 up (R73). -/
def classOps5 : List (FWord → Instr) :=
  [.nop, .br, .brx, .jmp, .call, .ret, .exit, .elect, .yield, .trap, .brk, .sleep]

/-- Class 6, LSU: its assigned slots from 0 up (R74). -/
def classOps6 : List (FWord → Instr) :=
  [.ld, .st, .lda, .ldx, .stx, .stc, .lde, .ldr, .str, .pref]

/-- Class 7, ASYNC: its assigned slots from 0 up (R74). -/
def classOps7 : List (FWord → Instr) :=
  [.cpy, .cpyd, .cpcommit, .wait, .acreset, .dfence]

/-- Class 8, ATOM: its assigned slots from 0 up (R75). -/
def classOps8 : List (FWord → Instr) :=
  [.atom, .red, .cas, .atomf, .lock, .unlock]

/-- Class 9, ORD: its assigned slots from 0 up (R75). -/
def classOps9 : List (FWord → Instr) :=
  [.fence, .flushtag, .leasedrop]

/-- Class 10, TILE: its assigned slots from 0 up (R76). -/
def classOps10 : List (FWord → Instr) :=
  [.mctx, .mrel, .mma, .mmap, .mmag, .mmax, .mld, .mst, .mzero, .tpset, .tpscan, .msync]

/-- Class 11, TREE: its assigned slots from 0 up (R77). -/
def classOps11 : List (FWord → Instr) :=
  [.twbind, .twlk, .twld, .twst, .twsten, .twray, .twleaf, .twinv, .tains, .tadel, .tamask, .tacommit]

/-- Class 12, QUEUE: its assigned slots from 0 up (R77). -/
def classOps12 : List (FWord → Instr) :=
  [.enq, .nodeout, .recv, .evsig, .evwait, .evclr, .launch]

/-- Class 13, PACK: its assigned slots from 0 up (R77). -/
def classOps13 : List (FWord → Instr) :=
  [.bara, .barw, .bars, .bart, .packq]

/-- Class 14, LINK: its assigned slots from 0 up (R77). -/
def classOps14 : List (FWord → Instr) :=
  [.rld, .rwr, .ratom, .halo, .coll, .msg]

/-- Class 15, SYS: its assigned slots from 0 up (R78). -/
def classOps15 : List (FWord → Instr) :=
  [.rdsr, .wrsr, .svc, .trapret, .setrole, .setmode, .tlbinv, .ctxcmd, .ptload, .halt]

/-- The assigned opcodes of a class (R66). -/
def classOps : Nat → List (FWord → Instr)
  | 0 => classOps0
  | 1 => classOps1
  | 2 => classOps2
  | 3 => classOps3
  | 4 => classOps4
  | 5 => classOps5
  | 6 => classOps6
  | 7 => classOps7
  | 8 => classOps8
  | 9 => classOps9
  | 10 => classOps10
  | 11 => classOps11
  | 12 => classOps12
  | 13 => classOps13
  | 14 => classOps14
  | 15 => classOps15
  | _ => []

/-- The instruction an opcode selects, none for a reserved slot (R65-R67). -/
def fInstr (op : BitVec 10) (w : FWord) : Option Instr := (classOps (op.toNat / 64))[op.toNat % 64]?.map (fun f => f w)

/-- The pair operations in the order of their pOP codes (R53). -/
def pairOps : List PairOp :=
  [.mov, .iadd, .isub, .and, .or, .xor, .shl, .shr, .sar, .imin, .imax, .fadd, .fmul, .fmin, .fmax, .hadd2, .hmul2, .mov8,
    .iadd8, .shl8]

/-- The code of a pair operation (R53). -/
def PairOp.code : PairOp → BitVec 7
  | .mov => 0
  | .iadd => 1
  | .isub => 2
  | .and => 3
  | .or => 4
  | .xor => 5
  | .shl => 6
  | .shr => 7
  | .sar => 8
  | .imin => 9
  | .imax => 10
  | .fadd => 11
  | .fmul => 12
  | .fmin => 13
  | .fmax => 14
  | .hadd2 => 15
  | .hmul2 => 16
  | .mov8 => 17
  | .iadd8 => 18
  | .shl8 => 19

/-- The kind of a word, bits [63:62] (R30). -/
def wordKind (w : Dword) : BitVec 2 := w.extractLsb' 62 2

/-- The fields of an X word (R44). -/
def XWord.ofBits (w : Dword) : XWord :=
  ⟨w.extractLsb' 48 14, w.extractLsb' 46 2, w.extractLsb' 32 14, w.extractLsb' 0 32⟩

/-- The fields of an F word (R32), with the X word that follows. -/
def FWord.ofBits (w : Dword) (x : Option XWord) : FWord :=
  { d := w.extractLsb' 45 8, a := w.extractLsb' 37 8, b := w.extractLsb' 29 8, c := w.extractLsb' 21 8,
    g := w.extractLsb' 13 8, m := w.extractLsb' 9 4, u := w.extractLsb' 6 3, s := w.extractLsb' 3 3, x := x,
    y := w.extractLsb' 0 2 }

/-- One half of a P word (R52); none for a reserved pOP. -/
def HalfWord.ofBits (h : BitVec 31) : Option HalfWord :=
  pairOps[(h.extractLsb' 24 7).toNat]?.map (fun p => ⟨p, h.extractLsb' 16 8, h.extractLsb' 8 8, h.extractLsb' 0 8⟩)

/-- Whether the word's X field is 1 (R32). -/
def wordHasX (w : Dword) : Bool := w.getLsbD 2

/-- The instruction of word `w` followed by word `next` (R82): every pattern has exactly one outcome (R56). -/
def decode (w next : Dword) : Instr :=
  if wordKind w = 3 then .orphanExtension w
  else if wordKind w = 2 then
    match HalfWord.ofBits (w.extractLsb' 31 31), HalfWord.ofBits (w.extractLsb' 0 31) with
    | some h0, some h1 => .pairWord h0 h1
    | _, _ => .reservedOpcode w
  else if wordHasX w then
    if wordKind next = 3 then
      (fInstr (w.extractLsb' 53 10) (FWord.ofBits w (some (XWord.ofBits next)))).getD (.reservedOpcode w)
    else .reservedOpcode w
  else (fInstr (w.extractLsb' 53 10) (FWord.ofBits w none)).getD (.reservedOpcode w)

/-- How many bytes fall-through advances the PC (R31): 16 after an F word with X = 1, 8 otherwise. -/
def wordBytes (w : Dword) : Nat := if wordKind w ≠ 2 ∧ wordKind w ≠ 3 ∧ wordHasX w = true then 16 else 8

/-- The bits of an X word (R44). -/
def XWord.bits (x : XWord) : Dword := (3#2 ++ x.rsv ++ x.kind ++ x.coord ++ x.imm : BitVec (2 + 14 + 2 + 14 + 32))

/-- The bits of an F word with opcode `op` (R32). -/
def FWord.bits (op : BitVec 10) (f : FWord) : Dword :=
  (0#1 ++ op ++ f.d ++ f.a ++ f.b ++ f.c ++ f.g ++ f.m ++ f.u ++ f.s ++ BitVec.ofBool f.x.isSome ++ f.y :
    BitVec (1 + 10 + 8 + 8 + 8 + 8 + 8 + 4 + 3 + 3 + 1 + 2))

/-- The bits of one half of a P word (R52). -/
def HalfWord.bits (h : HalfWord) : BitVec 31 := (h.pop.code ++ h.d ++ h.a ++ h.b : BitVec (7 + 8 + 8 + 8))

/-- The opcode and the fields of an F instruction; none for a P word and for the steps of the device. -/
def fParts : Instr → Option (BitVec 10 × FWord)
  | .mov w => some (0x000, w)
  | .movi w => some (0x001, w)
  | .iadd w => some (0x002, w)
  | .isub w => some (0x003, w)
  | .imul w => some (0x004, w)
  | .imulh w => some (0x005, w)
  | .imad w => some (0x006, w)
  | .imadw w => some (0x007, w)
  | .imin w => some (0x008, w)
  | .imax w => some (0x009, w)
  | .iabs w => some (0x00A, w)
  | .ltab w => some (0x00B, w)
  | .and w => some (0x00C, w)
  | .or w => some (0x00D, w)
  | .xor w => some (0x00E, w)
  | .shl w => some (0x00F, w)
  | .shr w => some (0x010, w)
  | .sar w => some (0x011, w)
  | .shf w => some (0x012, w)
  | .bfe w => some (0x013, w)
  | .bfi w => some (0x014, w)
  | .popc w => some (0x015, w)
  | .clz w => some (0x016, w)
  | .brev w => some (0x017, w)
  | .lea w => some (0x018, w)
  | .fadd w => some (0x040, w)
  | .fsub w => some (0x041, w)
  | .fmul w => some (0x042, w)
  | .ffma w => some (0x043, w)
  | .fmin w => some (0x044, w)
  | .fmax w => some (0x045, w)
  | .fmov w => some (0x046, w)
  | .frcp w => some (0x047, w)
  | .frsq w => some (0x048, w)
  | .fsqrt w => some (0x049, w)
  | .fex2 w => some (0x04A, w)
  | .flg2 w => some (0x04B, w)
  | .fsin w => some (0x04C, w)
  | .fcos w => some (0x04D, w)
  | .hadd2 w => some (0x04E, w)
  | .hmul2 w => some (0x04F, w)
  | .hfma2 w => some (0x050, w)
  | .dadd w => some (0x080, w)
  | .dmul w => some (0x081, w)
  | .dfma w => some (0x082, w)
  | .dmin w => some (0x083, w)
  | .dmax w => some (0x084, w)
  | .drcp w => some (0x085, w)
  | .drsq w => some (0x086, w)
  | .dmov w => some (0x087, w)
  | .cvt w => some (0x0C0, w)
  | .cvti w => some (0x0C1, w)
  | .pack w => some (0x0C2, w)
  | .unpk w => some (0x0C3, w)
  | .qscan w => some (0x0C4, w)
  | .icmp w => some (0x100, w)
  | .fcmp w => some (0x101, w)
  | .dcmp w => some (0x102, w)
  | .vset w => some (0x103, w)
  | .vclr w => some (0x104, w)
  | .vtest w => some (0x105, w)
  | .vand w => some (0x106, w)
  | .sel w => some (0x107, w)
  | .ballot w => some (0x108, w)
  | .vote w => some (0x109, w)
  | .shfl w => some (0x10A, w)
  | .redux w => some (0x10B, w)
  | .scan w => some (0x10C, w)
  | .nop w => some (0x140, w)
  | .br w => some (0x141, w)
  | .brx w => some (0x142, w)
  | .jmp w => some (0x143, w)
  | .call w => some (0x144, w)
  | .ret w => some (0x145, w)
  | .exit w => some (0x146, w)
  | .elect w => some (0x147, w)
  | .yield w => some (0x148, w)
  | .trap w => some (0x149, w)
  | .brk w => some (0x14A, w)
  | .sleep w => some (0x14B, w)
  | .ld w => some (0x180, w)
  | .st w => some (0x181, w)
  | .lda w => some (0x182, w)
  | .ldx w => some (0x183, w)
  | .stx w => some (0x184, w)
  | .stc w => some (0x185, w)
  | .lde w => some (0x186, w)
  | .ldr w => some (0x187, w)
  | .str w => some (0x188, w)
  | .pref w => some (0x189, w)
  | .cpy w => some (0x1C0, w)
  | .cpyd w => some (0x1C1, w)
  | .cpcommit w => some (0x1C2, w)
  | .wait w => some (0x1C3, w)
  | .acreset w => some (0x1C4, w)
  | .dfence w => some (0x1C5, w)
  | .atom w => some (0x200, w)
  | .red w => some (0x201, w)
  | .cas w => some (0x202, w)
  | .atomf w => some (0x203, w)
  | .lock w => some (0x204, w)
  | .unlock w => some (0x205, w)
  | .fence w => some (0x240, w)
  | .flushtag w => some (0x241, w)
  | .leasedrop w => some (0x242, w)
  | .mctx w => some (0x280, w)
  | .mrel w => some (0x281, w)
  | .mma w => some (0x282, w)
  | .mmap w => some (0x283, w)
  | .mmag w => some (0x284, w)
  | .mmax w => some (0x285, w)
  | .mld w => some (0x286, w)
  | .mst w => some (0x287, w)
  | .mzero w => some (0x288, w)
  | .tpset w => some (0x289, w)
  | .tpscan w => some (0x28A, w)
  | .msync w => some (0x28B, w)
  | .twbind w => some (0x2C0, w)
  | .twlk w => some (0x2C1, w)
  | .twld w => some (0x2C2, w)
  | .twst w => some (0x2C3, w)
  | .twsten w => some (0x2C4, w)
  | .twray w => some (0x2C5, w)
  | .twleaf w => some (0x2C6, w)
  | .twinv w => some (0x2C7, w)
  | .tains w => some (0x2C8, w)
  | .tadel w => some (0x2C9, w)
  | .tamask w => some (0x2CA, w)
  | .tacommit w => some (0x2CB, w)
  | .enq w => some (0x300, w)
  | .nodeout w => some (0x301, w)
  | .recv w => some (0x302, w)
  | .evsig w => some (0x303, w)
  | .evwait w => some (0x304, w)
  | .evclr w => some (0x305, w)
  | .launch w => some (0x306, w)
  | .bara w => some (0x340, w)
  | .barw w => some (0x341, w)
  | .bars w => some (0x342, w)
  | .bart w => some (0x343, w)
  | .packq w => some (0x344, w)
  | .rld w => some (0x380, w)
  | .rwr w => some (0x381, w)
  | .ratom w => some (0x382, w)
  | .halo w => some (0x383, w)
  | .coll w => some (0x384, w)
  | .msg w => some (0x385, w)
  | .rdsr w => some (0x3C0, w)
  | .wrsr w => some (0x3C1, w)
  | .svc w => some (0x3C2, w)
  | .trapret w => some (0x3C3, w)
  | .setrole w => some (0x3C4, w)
  | .setmode w => some (0x3C5, w)
  | .tlbinv w => some (0x3C6, w)
  | .ctxcmd w => some (0x3C7, w)
  | .ptload w => some (0x3C8, w)
  | .halt w => some (0x3C9, w)
  | _ => none

/-- The words of an F or P instruction; of a refused word, the word itself; nothing for a step of the device. -/
def encode (i : Instr) : List Dword :=
  match fParts i with
  | some (op, f) => FWord.bits op f :: (match f.x with | some x => [x.bits] | none => [])
  | none =>
    match i with
    | .pairWord h0 h1 => [(2#2 ++ h0.bits ++ h1.bits : BitVec (2 + 31 + 31))]
    | .reservedOpcode w => [w]
    | .orphanExtension w => [w]
    | _ => []

/-- The decoder on a list of words: the first word and, where there is one, the word after it. -/
def decodeWords : List Dword → Option Instr
  | [] => none
  | [w] => some (decode w 0)
  | w :: x :: _ => some (decode w x)

/-- The instruction whose bits are `w`, the first word in the low 64 bits (fixed name of the host's interface). -/
def decodeTableWord (nbits w : Nat) : Option Instr :=
  if nbits = 0 then none else some (decode (BitVec.ofNat 64 w) (BitVec.ofNat 64 (w / 2 ^ 64)))

end Sys2Proof
end

