-- ==== Sys2Proof/Machine/Float.lean ====
section
/-! DEFINITION. Number formats (R83-R105): the value of a bit pattern, one rounding, encoding, and the exact arithmetic that the
FP instructions, the conversions, the atomics, the collectives and the matrix engine share. -/

namespace Sys2Proof.Machine

/-- A decoded value: NaN, an infinity, or `(-1)^neg * m * 2^e` exactly (`m = 0` is a signed zero). -/
inductive FVal where
  | nan
  | inf (neg : Bool)
  | fin (neg : Bool) (m : Nat) (e : Int)
  deriving DecidableEq, Repr

/-- The conditions an FP operation raises (R101, R102): the six sticky flags, division by zero, and an overflow that wrote an
infinity (the TE_OF condition). -/
structure Fx where
  nv : Bool := false
  of : Bool := false
  uf : Bool := false
  nx : Bool := false
  nz : Bool := false
  sat : Bool := false
  dz : Bool := false
  ofInf : Bool := false
  deriving DecidableEq, Repr

/-- No condition. -/
def Fx.none : Fx := ⟨false, false, false, false, false, false, false, false⟩

/-- The conditions of two operations together (R102: flags are ORed). -/
def Fx.or (a b : Fx) : Fx :=
  ⟨a.nv || b.nv, a.of || b.of, a.uf || b.uf, a.nx || b.nx, a.nz || b.nz, a.sat || b.sat, a.dz || b.dz, a.ofInf || b.ofInf⟩

/-- The sticky bits of %fpflags, [5:0] (R101). -/
def Fx.bits (f : Fx) : Word :=
  (if f.nv then 1 else 0) ||| (if f.of then 2 else 0) ||| (if f.uf then 4 else 0) ||| (if f.nx then 8 else 0)
    ||| (if f.nz then 16 else 0) ||| (if f.sat then 32 else 0)

/-- The rounding modes of R95. -/
inductive Rnd where
  | rn | rz | ru | rd | sat
  deriving DecidableEq, Repr

/-- The mode an accepted S value names (R38, R95). -/
def Rnd.ofS (s : BitVec 3) : Rnd :=
  match s.toNat with
  | 1 => .rz
  | 2 => .ru
  | 3 => .rd
  | 4 => .sat
  | _ => .rn

/-- What one rounding needs of a binary format (R83): mantissa width, exponent of the smallest normal, largest finite magnitude
`maxM * 2^maxE`, whether it has infinities on write (R92). -/
structure FmtSpec where
  mb : Nat
  emin : Int
  maxM : Nat
  maxE : Int
  hasInf : Bool
  deriving DecidableEq, Repr

/-- The named formats (R83). -/
inductive Fmt where
  | fp64 | fp32 | fp16 | bf16 | e4m3 | e5m2 | e2m1
  deriving DecidableEq, Repr

/-- Exponent width, mantissa width and bias (R83). -/
def Fmt.eb : Fmt → Nat
  | .fp64 => 11 | .fp32 => 8 | .fp16 => 5 | .bf16 => 8 | .e4m3 => 4 | .e5m2 => 5 | .e2m1 => 2
def Fmt.mb : Fmt → Nat
  | .fp64 => 52 | .fp32 => 23 | .fp16 => 10 | .bf16 => 7 | .e4m3 => 3 | .e5m2 => 2 | .e2m1 => 1
def Fmt.bias : Fmt → Nat
  | .fp64 => 1023 | .fp32 => 127 | .fp16 => 15 | .bf16 => 127 | .e4m3 => 7 | .e5m2 => 15 | .e2m1 => 1

/-- The rounding data of a named format, from the table of R83 (E4M3: 448 = 14·2^5; E2M1: 6 = 3·2^1). -/
def Fmt.spec : Fmt → FmtSpec
  | .fp64 => ⟨52, -1022, 2 ^ 53 - 1, 971, true⟩
  | .fp32 => ⟨23, -126, 2 ^ 24 - 1, 104, true⟩
  | .fp16 => ⟨10, -14, 2 ^ 11 - 1, 5, true⟩
  | .bf16 => ⟨7, -126, 2 ^ 8 - 1, 120, true⟩
  | .e4m3 => ⟨3, -6, 14, 5, false⟩
  | .e5m2 => ⟨2, -14, 7, 13, false⟩
  | .e2m1 => ⟨1, 0, 3, 1, false⟩

/-- `m * 2^e` as a natural number of units of `2^q`, for `q ≤ e`. -/
def scaleTo (m : Nat) (e q : Int) : Nat := m * 2 ^ (e - q).toNat

/-- `m1 * 2^e1 < m2 * 2^e2`. -/
def magLt (m1 : Nat) (e1 : Int) (m2 : Nat) (e2 : Int) : Bool :=
  let q := min e1 e2
  scaleTo m1 e1 q < scaleTo m2 e2 q

/-- `m1 * 2^e1 = m2 * 2^e2`. -/
def magEq (m1 : Nat) (e1 : Int) (m2 : Nat) (e2 : Int) : Bool :=
  let q := min e1 e2
  scaleTo m1 e1 q == scaleTo m2 e2 q

/-- `m * 2^e` rounded to a multiple of `2^q` (R95), in units of `2^q`, and whether it was inexact. -/
def roundQ (mode : Rnd) (neg : Bool) (m : Nat) (e q : Int) : Nat × Bool :=
  if q ≤ e then (scaleTo m e q, false)
  else
    let sh := (q - e).toNat
    let hi := m / 2 ^ sh
    let rem := m % 2 ^ sh
    if rem = 0 then (hi, false)
    else
      let up := match mode with
        | .rn | .sat => decide (2 ^ sh < 2 * rem) || (decide (2 * rem = 2 ^ sh) && hi % 2 == 1)
        | .rz => false
        | .ru => !neg
        | .rd => neg
      (if up then hi + 1 else hi, true)

/-- What an overflow writes and raises (R96). -/
def overflowTo (f : FmtSpec) (mode : Rnd) (neg : Bool) : FVal × Fx :=
  let big : FVal := .fin neg f.maxM f.maxE
  let o : Fx := { Fx.none with of := true, nx := true }
  if f.hasInf then
    match mode with
    | .rn => (.inf neg, { o with ofInf := true })
    | .rz => (big, o)
    | .ru => if neg then (big, o) else (.inf neg, { o with ofInf := true })
    | .rd => if neg then (.inf neg, { o with ofInf := true }) else (big, o)
    | .sat => (big, { o with sat := true })
  else
    match mode with
    | .rn | .sat => (big, { o with sat := true })
    | .rz => (big, o)
    | .ru => (big, { o with sat := !neg })
    | .rd => (big, { o with sat := neg })

/-- One rounding to a binary format (R95-R97, R92). The value given is representable in the format; a NaN stays NaN. -/
def roundTo (f : FmtSpec) (mode : Rnd) (x : FVal) : FVal × Fx :=
  match x with
  | .nan => (.nan, Fx.none)
  | .inf neg => if f.hasInf then (.inf neg, Fx.none) else (.fin neg f.maxM f.maxE, { Fx.none with sat := true })
  | .fin neg m e =>
    if m = 0 then (.fin neg 0 0, Fx.none)
    else
      let top : Int := (Nat.log2 m : Int) + e
      let q0 : Int := top - f.mb
      let u := roundQ mode neg m e q0
      if magLt f.maxM f.maxE u.1 q0 then overflowTo f mode neg
      else
        let tiny := magLt u.1 q0 1 f.emin
        let q : Int := max q0 (f.emin - f.mb)
        let r := roundQ mode neg m e q
        (.fin neg r.1 (if r.1 = 0 then 0 else q), { Fx.none with nx := r.2, uf := r.2 && tiny })

/-- The bit pattern of a representable value (R84, R86, R87). -/
def Fmt.encode (f : Fmt) (x : FVal) : Nat :=
  let signBit (neg : Bool) : Nat := if neg then 2 ^ (f.eb + f.mb) else 0
  match x with
  | .nan =>
    match f with
    | .fp64 => 0x7FF8000000000000
    | .fp32 => 0x7FC00000
    | .fp16 => 0x7E00
    | .bf16 => 0x7FC0
    | .e4m3 => 0x7F
    | .e5m2 => 0x7F
    | .e2m1 => 0
  | .inf neg => signBit neg + (2 ^ f.eb - 1) * 2 ^ f.mb
  | .fin neg m e =>
    if m = 0 then signBit neg
    else
      let l := Nat.log2 m
      let top : Int := (l : Int) + e
      if top < f.spec.emin then
        -- subnormal: units of 2^(emin - mb)
        let q : Int := f.spec.emin - f.mb
        signBit neg + (if q ≤ e then scaleTo m e q else m / 2 ^ (q - e).toNat)
      else
        let sig := if l ≤ f.mb then m * 2 ^ (f.mb - l) else m / 2 ^ (l - f.mb)
        signBit neg + (top + f.bias).toNat * 2 ^ f.mb + (sig - 2 ^ f.mb)

/-- The value of a bit pattern (`decode_F` of R103; R84, R87, R91). -/
def Fmt.decode (f : Fmt) (bits : Nat) : FVal :=
  let frac := bits % 2 ^ f.mb
  let ex := bits / 2 ^ f.mb % 2 ^ f.eb
  let neg := bits / 2 ^ (f.mb + f.eb) % 2 == 1
  let sub : FVal := .fin neg frac (if frac = 0 then 0 else (1 : Int) - f.bias - f.mb)
  let nrm : FVal := .fin neg (2 ^ f.mb + frac) ((ex : Int) - f.bias - f.mb)
  if ex = 0 then sub
  else
    match f with
    | .e2m1 => nrm
    | .e4m3 => if ex = 15 ∧ frac = 7 then .nan else nrm
    | .e5m2 => if ex = 31 then (if frac = 0 then .fin neg 7 13 else .nan) else nrm
    | _ => if ex = 2 ^ f.eb - 1 then (if frac = 0 then .inf neg else .nan) else nrm

/-- `encode_F(x, mode)` (R103): one rounding and the pattern. A NaN written to E2M1 gives +0 and raises NZ (R92). -/
def Fmt.roundEncode (f : Fmt) (mode : Rnd) (x : FVal) : Nat × Fx :=
  match f, x with
  | .e2m1, .nan => (0, { Fx.none with nz := true })
  | _, _ => let r := roundTo f.spec mode x; (f.encode r.1, r.2)

/-- `x` with its sign flipped; a NaN has no sign (R86). -/
def FVal.neg : FVal → FVal
  | .nan => .nan
  | .inf n => .inf (!n)
  | .fin n m e => .fin (!n) m e

/-- `x` with its sign cleared. -/
def FVal.abs : FVal → FVal
  | .nan => .nan
  | .inf _ => .inf false
  | .fin _ m e => .fin false m e

/-- Whether `x` is a zero. -/
def FVal.isZero : FVal → Bool
  | .fin _ m _ => m == 0
  | _ => false

/-- Exact sum (R95: the sign of an exact zero; R84, R101: NV of ∞ − ∞). -/
def numAdd (mode : Rnd) (x y : FVal) : FVal × Fx :=
  match x, y with
  | .nan, _ => (.nan, Fx.none)
  | _, .nan => (.nan, Fx.none)
  | .inf a, .inf b => if a = b then (.inf a, Fx.none) else (.nan, { Fx.none with nv := true })
  | .inf a, .fin _ _ _ => (.inf a, Fx.none)
  | .fin _ _ _, .inf b => (.inf b, Fx.none)
  | .fin a m1 e1, .fin b m2 e2 =>
    let q := min e1 e2
    let s1 : Int := if a then -(scaleTo m1 e1 q : Int) else (scaleTo m1 e1 q : Int)
    let s2 : Int := if b then -(scaleTo m2 e2 q : Int) else (scaleTo m2 e2 q : Int)
    let s := s1 + s2
    if s = 0 then
      (if m1 = 0 ∧ m2 = 0 ∧ a = b then .fin a 0 0 else .fin (decide (mode = .rd)) 0 0, Fx.none)
    else (.fin (decide (s < 0)) s.natAbs q, Fx.none)

/-- Exact product; 0·∞ is NaN with NV (R101). -/
def numMul (x y : FVal) : FVal × Fx :=
  match x, y with
  | .nan, _ => (.nan, Fx.none)
  | _, .nan => (.nan, Fx.none)
  | .inf a, .inf b => (.inf (a != b), Fx.none)
  | .inf a, .fin b m _ => if m = 0 then (.nan, { Fx.none with nv := true }) else (.inf (a != b), Fx.none)
  | .fin a m _, .inf b => if m = 0 then (.nan, { Fx.none with nv := true }) else (.inf (a != b), Fx.none)
  | .fin a m1 e1, .fin b m2 e2 => (.fin (a != b) (m1 * m2) (if m1 * m2 = 0 then 0 else e1 + e2), Fx.none)

/-- Exact `x·y + z`. A NaN among the three raises no NV (R84; DEDUCED for 0·∞ + NaN, log 16). -/
def numFma (mode : Rnd) (x y z : FVal) : FVal × Fx :=
  match z with
  | .nan => (.nan, Fx.none)
  | _ =>
    let p := numMul x y
    let s := numAdd mode p.1 z
    (s.1, p.2.or s.2)

/-- Ordering of two non-NaN values for the compares: -0 equals +0 (R130). `none` when either is NaN. -/
def numCmp (x y : FVal) : Option Ordering :=
  let lt (a b : FVal) : Bool :=
    match a, b with
    | .inf na, .inf nb => na && !nb
    | .inf na, _ => na
    | _, .inf nb => !nb
    | .fin na m1 e1, .fin nb m2 e2 =>
      if m1 = 0 ∧ m2 = 0 then false
      else if na ∧ !nb then true
      else if !na ∧ nb then false
      else if na then magLt m2 e2 m1 e1 else magLt m1 e1 m2 e2
    | _, _ => false
  match x, y with
  | .nan, _ => none
  | _, .nan => none
  | a, b => some (if lt a b then .lt else if lt b a then .gt else .eq)

/-- The sign of a value; NaN counts as positive. -/
def FVal.isNeg : FVal → Bool
  | .nan => false
  | .inf n => n
  | .fin n _ _ => n

/-- FMIN and FMAX (R121): −0 below +0, a NaN gives the other source. -/
def numMin (x y : FVal) : FVal :=
  match numCmp x y with
  | none => (match x with | .nan => y | _ => x)
  | some .lt => x
  | some .gt => y
  | some .eq => if x.isNeg then x else y
def numMax (x y : FVal) : FVal :=
  match numCmp x y with
  | none => (match x with | .nan => y | _ => x)
  | some .lt => y
  | some .gt => x
  | some .eq => if x.isNeg then y else x

/-- The largest `r ≤ acc + 2^n - 1` built bit by bit with `r² ≤ x`: the integer square root. -/
def isqrtGo (x : Nat) : Nat → Nat → Nat
  | 0, acc => acc
  | n + 1, acc => isqrtGo x n (if (acc + 2 ^ n) * (acc + 2 ^ n) ≤ x then acc + 2 ^ n else acc)

/-- The integer square root. -/
def isqrt (x : Nat) : Nat := isqrtGo x (Nat.log2 x / 2 + 1) 0

/-- `1/(m·2^e)` to at least `p` bits below its leading bit, with the rest in a sticky last bit; exact when it can be. -/
def recipMag (p m : Nat) (e : Int) : Nat × Int :=
  let k := Nat.log2 m + p + 3
  let q := 2 ^ k / m
  (2 * q + (if 2 ^ k % m = 0 then 0 else 1), -(k : Int) - e - 1)

/-- `√(m·2^e)` likewise. -/
def sqrtMag (p m : Nat) (e : Int) : Nat × Int :=
  let odd := e % 2 = 1
  let m' := (if odd then 2 * m else m) * 4 ^ (p + 3)
  let e' : Int := (if odd then e - 1 else e) - 2 * (p + 3 : Nat)
  let r := isqrt m'
  (2 * r + (if r * r = m' then 0 else 1), e' / 2 - 1)

/-- `1/√(m·2^e)` likewise. -/
def rsqrtMag (p m : Nat) (e : Int) : Nat × Int :=
  let odd := e % 2 = 1
  let m' := if odd then 2 * m else m
  let e' : Int := if odd then e - 1 else e
  let t := Nat.log2 m' + p + 3
  let r := isqrt (4 ^ t / m')
  (2 * r + (if r * r * m' = 4 ^ t then 0 else 1), -(e' / 2) - t - 1)

/-- `to_int(x, n, signed, mode)` (R98). -/
def numToInt (n : Nat) (signed : Bool) (mode : Rnd) (x : FVal) : Int × Fx :=
  let lo : Int := if signed then -(2 ^ (n - 1) : Nat) else 0
  let hi : Int := if signed then (2 ^ (n - 1) : Nat) - 1 else (2 ^ n : Nat) - 1
  match x with
  | .nan => (0, { Fx.none with nv := true })
  | .inf neg => (if neg then lo else hi, { Fx.none with nv := true })
  | .fin neg m e =>
    let r := roundQ mode neg m e 0
    let v : Int := if neg then -(r.1 : Int) else (r.1 : Int)
    if v < lo then (lo, { Fx.none with nv := true })
    else if hi < v then (hi, { Fx.none with nv := true })
    else (v, { Fx.none with nx := r.2 })

/-- An integer as an exact value; 0 is +0. -/
def numOfInt (v : Int) : FVal := .fin (decide (v < 0)) v.natAbs 0

/-- L6LIN (R90), as integers in units of 2^-23. -/
def l6lin : Nat → Nat
  | 0 => 0x800000
  | 1 => 0x9837F0
  | 2 => 0xB504F3
  | _ => 0xD744FD

/-- The signed log code of an L6 element, with the infinity code read as the largest (R89, R91). -/
def l6code (bits : Nat) : Int :=
  let c : Int := (bits % 32 : Nat)
  let c := if 16 ≤ c then c - 32 else c
  if c = 15 then 14 else c

/-- `decode_l6` (R89-R91). -/
def decodeL6 (bits : Nat) : FVal :=
  let neg := bits / 32 % 2 == 1
  let c := l6code bits
  if c = -16 then .fin neg 0 0
  else .fin neg (l6lin (c % 4).toNat) (c / 4 - 23)

/-- `decode_e8m0` (R88). -/
def decodeE8m0 (bits : Nat) : FVal := if bits % 256 = 255 then .nan else .fin false 1 ((bits % 256 : Nat) - 127)

/-- `2^k ≤ (m·2^e)^8`, the comparison with the exact log-domain boundaries of R99. -/
def pow8Ge (m : Nat) (e k : Int) : Bool := !magLt (m ^ 8) (8 * e) 1 k

/-- Rounding in the log domain (R99) and the encoding of an L6 element (R89, R92, R96). A nonzero value that becomes a zero code
raises UF and NX in every mode (R99 says so for RN; DEDUCED for the others, log 17). -/
def encodeL6 (mode : Rnd) (x : FVal) : Nat × Fx :=
  let signBit (neg : Bool) : Nat := if neg then 32 else 0
  match x with
  | .nan => (16, { Fx.none with nz := true })
  | .inf neg => (signBit neg + 14, { Fx.none with sat := true })
  | .fin neg m e =>
    if m = 0 then (signBit neg + 16, Fx.none)
    else
      let best (off : Int) : Int :=
        (List.range 31).foldl (fun (acc : Int) (i : Nat) => let c : Int := (i : Int) - 15; if pow8Ge m e (2 * c + off) then c else acc) (-16)
      let dn := best 0
      let exact := decide (-16 < dn) && magEq (m ^ 8) (8 * e) 1 (2 * dn)
      let up := if exact then dn else dn + 1
      let c := match mode with
        | .rn | .sat => best (-1)
        | .rz => dn
        | .ru => if neg then dn else up
        | .rd => if neg then up else dn
      if 15 ≤ c then
        (signBit neg + 14, { Fx.none with of := true, nx := true, sat := (overflowTo Fmt.e4m3.spec mode neg).2.sat })
      else if c = -16 then (signBit neg + 16, { Fx.none with uf := true, nx := true })
      else (signBit neg + (c % 32).toNat, { Fx.none with nx := !exact })

/-- `encode_e8m0(k)` for an integer exponent (R100). -/
def encodeE8m0 (k : Int) : Nat × Fx :=
  if 127 < k then (0xFE, { Fx.none with sat := true })
  else if k < -127 then (0, { Fx.none with uf := true })
  else ((k + 127).toNat, Fx.none)

/-- `x · 2^k` exactly. -/
def FVal.scale (x : FVal) (k : Int) : FVal :=
  match x with
  | .fin n m e => .fin n m (if m = 0 then 0 else e + k)
  | y => y

/-- A subnormal FP32 source under .ftz is a zero of its sign (R85). -/
def ftzIn (x : FVal) : FVal :=
  match x with
  | .fin n m e => if m ≠ 0 ∧ magLt m e 1 (-126) = true then .fin n 0 0 else .fin n m e
  | y => y

/-- A nonzero subnormal FP32 result under .ftz becomes a zero of its sign with UF and NX (R85). -/
def ftzOut (r : FVal × Fx) : FVal × Fx :=
  match r.1 with
  | .fin n m e => if m ≠ 0 ∧ magLt m e 1 (-126) = true then (.fin n 0 0, { r.2 with uf := true, nx := true }) else r
  | _ => r

/-- `saturate(x, lo, hi)` (R103) and whether it changed x. -/
def saturate (x lo hi : Int) : Int × Bool :=
  if x < lo then (lo, true) else if hi < x then (hi, true) else (x, false)

end Sys2Proof.Machine
end

