-- ==== Sys2Proof/Config.lean ====
section
/-! DEFINITION. What the manual leaves to the device or to a choice: every constant here is opaque, so that no proof can rest on
a value of it. Each is named in an assumption log entry. -/

namespace Sys2Proof

/-- The free choice of R122: for a faithful function `op` (numbered as the opcode) and an input whose exact result is not
representable, whether the upper of the two neighbours is given. DESIGN CHOICE, log 13; safe. -/
opaque Config.faithfulUp (op : Nat) (x : BitVec 64) : Bool

/-- A word the manual gives no value, by the model's free value counter (State.fresh). Log 2; safe. -/
opaque Config.freeWord (n : Nat) : BitVec 32

/-- The lane whose %lane an instruction that acts once for the floe reads, by the model's counters (State.fresh, State.nextId). Log 22; safe. -/
opaque Config.freeLane (fresh next : Nat) : Nat

/-- This device's 19-bit identifier (R24, R411). The manual fixes none. Log 15; safe. -/
opaque Config.deviceId : BitVec 19

/-- The boot ROM's version word (R427). Log 15; safe. -/
opaque Config.romVersion : BitVec 32

/-- The secure-world kernel key of the firmware image with a digest: modulus and public exponent (R314, R423). Log 15; safe. -/
opaque Config.kernelKey (fwDigest : BitVec 256) : BitVec 3072 × BitVec 3072

/-- The SHA-256 digest and the security version of the firmware image in the recovery window; the manual gives no layout of the image
(R423). Log 15; safe. -/
opaque Config.recoveryImage (window : List (Nat × BitVec 8)) : BitVec 256 × BitVec 32

/-- The device key: RSA-3072 modulus and private exponent (R427). Log 15; safe. -/
opaque Config.deviceKey : BitVec 3072 × BitVec 3072

/-- A byte of the ciphertext of a sealed block (R393, R396). Log 15; safe. -/
opaque Config.sealCipher (kid : Nat) (block version : Nat) (data : List (Nat × BitVec 8)) (i : Nat) : BitVec 8

/-- The entry of the contention predictors that a line address uses (R210): the hash is not architectural. Log 9; safe. -/
opaque Config.predictorIndex (line : Nat) : Nat

/-- Which entry a full TLB, leaf cache or descriptor cache gives up, by GT and the keys it holds (R186, R284, R389): the manual gives no
order of replacement. Log 9; safe. -/
opaque Config.victim (gt : Nat) (held : List Nat) : Nat

/-- The bytes that a save of a context would write (R361, R366): the layout of the save area is not architectural. The arguments are the
(vector, uniform, stack entries) of its floes, its scratch bytes, its matrix contexts, tree slots, colours, events and copies that wait.
Log 36; safe. -/
opaque Config.saveBytes (floes : List (Nat × Nat × Nat)) (scratch matrices slots colours events copies : Nat) : BitVec 32

/-- Where the search for a context's new tag begins (R357); the manual gives no order. Log 35; safe. -/
opaque Config.tagStart (n : Nat) : BitVec 8

end Sys2Proof
end

