-- ==== Sys2Proof/Machine/Table.lean ====
section
/-! DEFINITION. Sparse tables: a list of (key, value) pairs, keys strictly rising, no entry equal to the table's default. Memory,
firn and every per-object table of the state are kept in this one canonical form. -/

namespace Sys2Proof.Machine

/-- A sparse table. -/
abbrev Table (α : Type) := List (Nat × α)

/-- The entry listed for `k`. -/
def Table.find? {α : Type} : Table α → Nat → Option α
  | [], _ => none
  | p :: t, k => if p.1 = k then some p.2 else Table.find? t k

/-- `t` with `v` listed for `k`. -/
def Table.insert {α : Type} : Table α → Nat → α → Table α
  | [], k, v => [(k, v)]
  | p :: t, k, v => if k < p.1 then (k, v) :: p :: t else if k = p.1 then (k, v) :: t else p :: Table.insert t k v

/-- `t` with nothing listed for `k`. -/
def Table.erase {α : Type} (t : Table α) (k : Nat) : Table α := t.filter (fun p => p.1 != k)

/-- The value of `k`, `d` where none is listed. -/
def Table.getD {α : Type} (t : Table α) (d : α) (k : Nat) : α := (Table.find? t k).getD d

/-- `t` with `k` holding `v`; writing the default removes the entry. -/
def Table.setD {α : Type} [DecidableEq α] (t : Table α) (d : α) (k : Nat) (v : α) : Table α :=
  if v = d then Table.erase t k else Table.insert t k v

/-- Keys strictly rising. -/
def Table.sorted {α : Type} : Table α → Bool
  | [] => true
  | [_] => true
  | p :: q :: t => decide (p.1 < q.1) && Table.sorted (q :: t)

/-- The canonical form: keys strictly rising, no entry equal to the default. -/
def Table.wf {α : Type} [DecidableEq α] (d : α) (t : Table α) : Bool := Table.sorted t && t.all (fun p => decide (p.2 ≠ d))

/-- Every listed value changed by `f`. -/
def Table.map {α β : Type} (t : Table α) (f : Nat → α → β) : Table β := List.map (fun p => (p.1, f p.1 p.2)) t

/-- The listed keys. -/
def Table.keys {α : Type} (t : Table α) : List Nat := List.map Prod.fst t

/-- The listed values. -/
def Table.vals {α : Type} (t : Table α) : List α := List.map Prod.snd t

/-- The first entry that satisfies `p`. -/
def Table.search {α : Type} (t : Table α) (p : Nat → α → Bool) : Option (Nat × α) := List.find? (fun e => p e.1 e.2) t

/-- The entries that satisfy `p`. -/
def Table.keep {α : Type} (t : Table α) (p : Nat → α → Bool) : Table α := List.filter (fun e => p e.1 e.2) t

/-- The lowest number from `k` up, within `fuel`, that is not listed. -/
def Table.fresh {α : Type} (t : Table α) : Nat → Nat → Nat
  | 0, k => k
  | fuel + 1, k => if (Table.find? t k).isNone then k else Table.fresh t fuel (k + 1)

/-- The lowest numbered element of a list of numbers from `k` up that the list does not hold. -/
def freshIn (l : List Nat) : Nat → Nat → Nat
  | 0, k => k
  | fuel + 1, k => if l.contains k then freshIn l fuel (k + 1) else k

end Sys2Proof.Machine
end

