-- ==== Sys2Proof/Machine/State.lean ====
section
/-! DEFINITION. The state of the A4, as plain data: every piece of state the manual gives the machine, by the chapter that owns it,
and the state right after reset. Objects are kept in sparse tables; a core is keyed by its logical coordinate (R16), a line by its
physical address div 256, a floe, transfer or copy by a number of the model. -/

namespace Sys2Proof.Machine

/-- Why a step can stop the model. -/
inductive Fault where
  /-- Raised by the meaning of an F or P word when `cur` names no floe that has the slot live: no agent issues. Safe: no hardware
  state is like this (log 12). -/
  | noIssuer
  deriving DecidableEq, Repr

/-- Why an instruction has no meaning in the model. -/
inductive Refusal where
  /-- An instruction that has no meaning yet, by the mnemonic of the opcode table. Safe: nothing is claimed of it. -/
  | notModelled (mnemonic : String)
  deriving DecidableEq, Repr

/-! ## The floe (R137-R153) -/

/-- One 32-bit word of firn and its validity bit (R110). -/
structure FirnWord where
  data : Word
  v : Bool
  deriving DecidableEq, Repr

/-- A live program-counter slot (R139). `via` is the address of the word that passed control there, none for fall-through (R46). -/
structure Slot where
  pc : Dword
  mask : Mask
  rpc : Option Dword
  via : Option Dword
  deriving DecidableEq, Repr

/-- The kinds of a reconvergence stack entry (R145). -/
inductive EntryKind where
  | join | path | call
  deriving DecidableEq, Repr

/-- A reconvergence stack entry (R145). -/
structure StackEntry where
  kind : EntryKind
  pc : Dword
  mask : Mask
  rpc : Option Dword
  via : Option Dword
  deriving DecidableEq, Repr

/-- The states of a floe (R137). -/
inductive FState where
  | forming | ready | waiting | suspended | saved | retired
  deriving DecidableEq, Repr

/-- The scheduling roles (R140, R164). -/
inductive Role where
  | loader | math | epilogue
  deriving DecidableEq, Repr

/-- The redundancy modes (R152). -/
inductive Dmr where
  | off | full | idle
  deriving DecidableEq, Repr

/-- An arrival counter (R174): issued and arrived counts, each modulo 2^16. -/
structure Counter where
  issued : BitVec 16
  arrived : BitVec 16
  deriving DecidableEq, Repr

/-- A filled operand latch (R51): the operand's code and registers, and the words it read, register by register and lane by lane within
one. -/
structure Latch where
  code : Code
  regs : List Reg
  words : List FirnWord
  deriving DecidableEq, Repr

/-- The entry frame of a trap handler (R370): the entering slot (false 0, true 1), whether the other slot was live and is held, the
entering slot's mask, reconvergence PC and stack depth. -/
structure Frame where
  slot1 : Bool
  held : Bool
  mask : Mask
  rpc : Option Dword
  depth : Nat
  deriving DecidableEq, Repr

/-- The causes of R369, by code. -/
inductive Cause where
  | illegalOpcode | illegalModifier | illegalOperands | orphanExtension | misalignedTarget | registerRange | privileged
  | pageNotPresent | pagePermission | misalignedAccess | sealTag | sealExhausted | secureViolation | descriptorInvalid
  | writeOnceViolation | fpInvalid | fpOverflow | fpDivzero | stackLimit | software | breakpoint | noMatrixContext
  | treeDescriptor | linkUnreachable | watchdog
  deriving DecidableEq, Repr

/-- A trap to be delivered (R370, R372): cause, source [10:8], half of a pair, lanes, TINFO, next word instead of the trapping word
as the return PC, and the record fields of a transfer or copy. -/
structure TrapInfo where
  cause : Cause
  source : Nat := 0
  half : Bool := false
  lanes : Mask := 0
  tinfo : Dword := 0
  atNext : Bool := false
  vaddr : Dword := 0
  lane : Nat := 0
  index : Nat := 0
  elem : Nat := 0
  aux : Nat := 0
  deriving DecidableEq, Repr

/-- What is done when the operations a floe waits for have ended. -/
inductive WaitAct where
  | none
  /-- Copies of UNORD lines leave the core's L1 (an acquire, R201). -/
  | unord
  /-- The core's descriptor cache is emptied (DFENCE, R195). -/
  | desc
  /-- The translations that a TLBINV selects by its address or tag are dropped (R399). -/
  | tlbinv (w : FWord) (a : Nat)
  /-- The accesses that dropped translations have translated end, or have faulted (TLBINV, R399). -/
  | used
  deriving DecidableEq, Repr

/-- What a WAITING floe waits for (R138, R150). -/
inductive Wait where
  /-- Every one of these outstanding operations has ended (DFENCE, CTXCMD, LEASEDROP, FLUSHTAG, TLBINV: log 19). -/
  | ops (ids : List Nat) (act : WaitAct)
  /-- FENCE (R236): each of these operations has ended or is a write performed at the scope; then copies of UNORD lines may leave the L1. -/
  | fence (ids : List Nat) (scope : Nat) (drop : Bool)
  /-- `WAIT acN, t` (R175). -/
  | counter (ac t : Nat)
  /-- `WAIT ld, st, cp, tl` (R175); 15 ignores a counter. -/
  | classes (ld st cp tl : Nat)
  /-- `ACRESET acN` (R176). -/
  | acreset (ac : Nat)
  /-- An instruction stalled on a full arrival counter (R174): issued again when its outstanding value falls. -/
  | acFull (ac : Nat)
  /-- A CPCOMMIT, or a 257th copy, that would take cp above 15 (R180): issued again when cp falls. -/
  | cpFull
  /-- SLEEP until a GT (R163). -/
  | sleep (deadline : Nat)
  /-- MCTX: a matrix context is granted (R243, R264). -/
  | matrix (pair : Bool)
  /-- MSYNC of a stream, 4 for all (R274). -/
  | stream (s : Nat)
  /-- EVWAIT of an event at a threshold, with the destination operand (R325). -/
  | event (name thr : Nat) (d : Code) (exec : Mask)
  /-- BARW or BARS of a colour: the release of the floe's arrival (R356). -/
  | barrier (colour : Nat)
  /-- ENQ or NODEOUT waiting for a full queue to accept the record of this operation (R331). -/
  | enq (op : Nat)
  /-- BARA or BARS with an unreleased arrival: arrives when that release reaches it, then BARS waits (R351, R356). -/
  | arrive (colour : Nat) (leave wait : Bool)
  /-- TLBINV.mig until its page has moved (R392): the destination of its status. -/
  | migrate (d : List Reg)
  /-- Words of another device that the instruction reads for itself, or is fetched from, are on their way (R384): issued again when they
  are in. -/
  | far
  /-- COLL until its round completes (R421): the partition, the group, the round once the link engine has performed it (R420), and what is
  written. -/
  | coll (part group : Nat) (round : Option Nat) (d : Code) (n : Nat) (root : Bool)
  deriving DecidableEq, Repr

/-- Why a floe is SUSPENDED (R137): the transfer to replay, none for an instruction that issues again or an SVC, the slot and PC it
concerns, the cause that REPLAY with ARG1 = 2 delivers, and the SVC mark. -/
structure Suspend where
  op : Option Nat
  slot1 : Bool
  pc : Dword
  info : TrapInfo
  svc : Bool
  deriving DecidableEq, Repr

/-- The matrix context saved with a floe (R245): its number, whether a partner was slaved, and the words, predicates and RCFALLBACK
of it and its partner. -/
structure MxSave where
  num : Nat
  pair : Bool
  tiles : Table Word
  preds : BitVec 16
  rcf : Bool
  tiles2 : Table Word
  preds2 : BitVec 16
  deriving DecidableEq, Repr

/-- A word of another device's memory that has come for an instruction about to issue, or the cause it was refused for (R384, R414). -/
structure FarWord where
  word : Dword
  err : Option Cause
  deriving DecidableEq, Repr

/-- A floe (R137-R153) with everything it holds; its registers are words of its core's firn (R106), or `savedRegs` while SAVED. While
it is WAITING, `waitSlot1`, `waitLen` and `waitExec` are the slot, the length and exec of the instruction that holds it, length 0
where that instruction issues again. `openCount` counts the copies of the open group, complete ones too (R180); `seen` are writes of others
that it has read and that are not performed yet (R227); `ibuf` are words of code it has fetched ahead, by context and address div 8, which a
branch drops once `ibufStale` (R239); `far` the words of other devices that have come for its next instruction. -/
structure Floe where
  ctx : Nat
  inst : Nat
  num : Nat
  kernel : Nat
  core : Nat
  slice : Nat
  pos : Nat
  rbase : Nat
  regs : Nat
  wregs : Nat
  tag : BitVec 8
  state : FState
  savedFrom : FState
  s0 : Option Slot
  s1 : Option Slot
  parked : Mask
  stack : List StackEntry
  spillCap : Nat
  ld : Nat
  st : Nat
  tl : Nat
  acs : List Counter
  openGroup : Option (List Nat)
  openCount : Nat
  groups : List (List Nat)
  wait : Option Wait
  waitSlot1 : Bool
  waitLen : Nat
  waitExec : Mask
  role : Role
  dmr : Dmr
  since : Nat
  aged : Bool
  yielded : Bool
  lastSlot1 : Bool
  startGt : Option Nat
  waitSince : Nat
  fpflags : Word
  faultmask : Mask
  tcause : Word
  tepc : Dword
  tlanes : Word
  tinfo : Dword
  levelPriv : Bool
  levelHandler : Bool
  frame : Option Frame
  hiHeld : Table Word
  latches : List (Option Latch)
  leaf : Dword
  leafX : Word
  leafY : Word
  leafZ : Word
  barPhase : Table Bool
  barPending : Table Bool
  pendingTraps : List TrapInfo
  savedRegs : Table FirnWord
  savedGt : Nat
  savedMx : Option MxSave
  restoredGt : Option Nat
  preempt : Bool
  replayMark : Option Nat
  susp : Option Suspend
  flushWait : Option Nat
  savedStop : Nat
  seen : List Nat
  ibuf : Table Dword
  ibufStale : Bool
  far : Table FarWord
  deriving DecidableEq, Repr

/-! ## The transfer (R166-R195) and other outstanding operations -/

/-- The read-modify-write operations of R215. -/
inductive AtomOp where
  | add | smin | smax | umin | umax | and | or | xor | exch | incw | cas | fadd
  deriving DecidableEq, Repr

/-- What an outstanding operation does when it takes effect. -/
inductive OpKind where
  | load | loadRemote (core : Nat) | expand (start : Nat)
  | store | storeRemote (core : Nat) | compress (start : Nat)
  | atomic (op : AtomOp) (ret : Bool) | lock | unlock
  | walker | alloc | halo | msg | coll | enq | launch | event | recv
  deriving DecidableEq, Repr

/-- A page-table entry (R386). -/
abbrev Pte := BitVec 128

/-- A translated address: the physical address and the leaf entry (R385, R386). -/
structure Phys where
  pa : Nat
  pte : Pte
  deriving DecidableEq, Repr

/-- The target of an access: firn of a core, memory of the package, or memory of another device (R168, R173, R384). -/
inductive View where
  | firn (core off : Nat)
  | mem (p : Phys)
  | remote (p : Phys)
  deriving DecidableEq, Repr

/-- One lane's access: lane, virtual address, the data or operand bytes as a number, the swap value of a CAS, whether the data
is valid (R170), the reply of another device (R414) or the cause it refused it for, the place it goes to, fixed when its request leaves the
core, and whether it has taken effect (R172). -/
structure LaneAcc where
  lane : Nat
  va : Dword
  data : Nat
  swap : Nat
  valid : Bool
  reply : Option Nat
  err : Option Cause
  place : Option View
  done : Bool
  deriving DecidableEq, Repr

/-- The states of a transfer that is still held (R166). -/
inductive OpState where
  | inFlight | performed | faulted | dropped
  deriving DecidableEq, Repr

/-- An outstanding operation of a floe: a lane transfer, an atomic, a walker, allocator, queue or link operation. `after` are the
operations whose effect must come first (R227, R230, R236); `granted` the lines whose write the directory has performed (R208);
`waitAcks` the lines whose acknowledgements it waits for, `skip` those whose entry neither performs its write nor takes its atomic home,
`marks` those whose entry applies the written marks; `failed` marks requests to
another device given up (R412, R365); `nulls` are its nullified lanes (R170); `far` the words of other devices that have come for a walk (R285, R384), for HALO the words it has copied early (R448); `left` is its place in the order in which requests have left
their cores (R166, R200), and `vis` says that the readers of its own core already get its bytes (R225). -/
structure Op where
  floe : Nat
  ctx : Nat
  core : Nat
  inst : Nat
  tag : BitVec 8
  off : Int
  word : FWord
  pc : Dword
  slot1 : Bool
  exec : Mask
  kind : OpKind
  isSt : Bool
  counted : Bool
  ac : Option Nat
  acq : Bool
  rel : Bool
  scope : Nat
  size : Nat
  signed : Bool
  uniform : Bool
  interlock : Bool
  lanes : List LaneAcc
  state : OpState
  after : List Nat
  granted : List Nat
  waitAcks : List Nat
  skip : List Nat
  marks : List Nat
  nulls : List Nat
  far : Table FarWord
  left : Option Nat
  vis : Bool
  retries : Nat
  refused : List Nat
  failed : Bool
  issueGt : Nat
  d : List Reg
  vals : List Nat
  info : List Nat
  deriving DecidableEq, Repr

/-- A copy descriptor (R182), or the bytes of a CPY. -/
structure CopyDesc where
  src : Dword
  dst : Dword
  esize : Nat
  swz : Nat
  swSrc : Bool
  acq : Bool
  rel : Bool
  scope : Nat
  dlc : Nat
  ctg : Bool
  cta : Bool
  cte : Bool
  ac : Nat
  event : Nat
  cnt : List Nat
  sstr : List Int
  dstr : List Int
  deriving DecidableEq, Repr

/-- What is known of one element of a copy before its turn: where it is read and written, fixed when it or a later one is moved early
(R181), what another device has answered for its source, and whether its write has been sent to one and acknowledged (R414). -/
structure Elem where
  src : Option View
  dst : Option View
  data : Option (List Byte)
  sent : Bool
  acked : Bool
  err : Option Cause
  deriving DecidableEq, Repr

/-- A copy of a mover (R180-R187). `done` are the elements moved ahead of `next`, `elems` what is known of others. -/
structure Copy where
  num : Nat
  floe : Nat
  inst : Nat
  floeNum : Nat
  tag : BitVec 8
  ctx : Nat
  core : Nat
  desc : CopyDesc
  next : Nat
  done : List Nat
  elems : Table Elem
  started : Bool
  waiting : Bool
  replayed : Option Nat
  deadline : Option Nat
  issueGt : Nat
  order : Nat
  after : List Nat
  savedIn : Bool
  faultVa : Dword
  deriving DecidableEq, Repr

/-! ## The line and the page (R196-R220, R384-R399) -/

/-- An L1 line of one core (R196, R199): the context tag, the valid mask, the words held, the lease end bits [19:0] with the GT the
end stands for, and whether the page is UNORD (R201). -/
structure L1Line where
  tag : BitVec 8
  valid : BitVec 64
  words : Table Word
  leaseEnd : BitVec 20
  endGt : Nat
  unord : Bool
  deriving DecidableEq, Repr

/-- What a directory still waits for from a die (R203, R208): an invalidation, an update with its bytes, or a recall; the first two with
the operation whose request they serve. -/
inductive DirMsg where
  | inval (die : Nat) (span : Span) (op : Nat)
  | update (die : Nat) (span : Span) (bytes : List (Nat × Byte)) (op : Nat)
  | recall (die : Nat) (span : Span)
  deriving DecidableEq, Repr

/-- A directory entry of a line (R203, R207): protocol state, (die, span) records, the broadcast die set, the owner, messages sent
and not yet handled, acknowledgements (die, operation) and returned spans on their way, and the protocol slot of the last message. -/
structure DirEntry where
  st : Nat
  recs : List (Nat × Span)
  bcast : Option (List Nat)
  owner : Option Nat
  out : List DirMsg
  acks : List (Nat × Nat)
  returns : List Nat
  slot : Nat
  deriving DecidableEq, Repr

/-- A protocol slot (R205, R207): lease length and, for a slot that has one, its table (NST, OWNED and the 48 entries). -/
structure ProtoSlot where
  lease : Nat
  table : Option (Nat × Nat × List Word)
  deriving DecidableEq, Repr

/-- A page-table leaf (R385, R386) as a TLB holds it (R389): context tag, virtual base, size, physical base and the PTE word. -/
structure TlbEntry where
  tag : BitVec 8
  ctx : Nat
  vbase : Nat
  size : Nat
  pbase : Nat
  pte : BitVec 128
  deriving DecidableEq, Repr

/-- Seal metadata of a 4 KiB block (R393). -/
structure SealMeta where
  version : Nat
  kid : Nat
  status : Nat
  deriving DecidableEq, Repr

/-- A page on its way to another frame (R392): the context, the floe that moves it, an address in it, its leaf entry and where that lies, the
old and new frame and their size. While it is, the directory holds writes to the old frame (R240). -/
structure Migration where
  ctx : Nat
  floe : Nat
  va : Nat
  ea : Nat
  pte : BitVec 128
  old : Nat
  new : Nat
  size : Nat
  deriving DecidableEq, Repr

/-- The memory system of the package; `decayed` is the GT up to which the predictors have fallen (R210). -/
structure Ms where
  mem : Table Byte
  poison : Table Bool
  sealTab : Table SealMeta
  sealHeld : Table Bool
  nextKid : Nat
  slice : Table Nat
  dir : Table DirEntry
  l2 : Table (Table Byte)
  marks : Table (BitVec 64)
  slots : List ProtoSlot
  predictor : Table Nat
  homePredictor : Table Nat
  decayed : Nat
  migrations : List Migration
  pins : List (Nat × Nat × Nat)
  tlb2 : Table (List TlbEntry)
  deriving DecidableEq, Repr

/-! ## The context (R357-R383) -/

/-- The states of a context number (R359). -/
inductive CtxState where
  | free | loading | resident | running | preempting | saved | migrating | faulted | destroyed
  deriving DecidableEq, Repr

/-- An operation on a named event that has not reached the table (R322): the event, the operation (0 signal, 1 wait, 2 clear, 3 a wait that found
no free record, R321), its amount or threshold, the outstanding operation it ends or the floe that waits, and the operations that come first. -/
structure EvOp where
  name : Nat
  kind : Nat
  arg : Nat
  op : Option Nat
  floe : Option Nat
  after : List Nat
  deriving DecidableEq, Repr

/-- A journal entry that can still change (R337): its partition, its sequence number, and bytes 16-31 with STATUS, REASON and INST zero. -/
structure JRef where
  part : Nat
  seq : Nat
  high : Nat
  deriving DecidableEq, Repr

/-- A part of a journal entry on its way to memory (R337): the partition, the context whose address space it is in, address and bytes. -/
structure JWrite where
  part : Nat
  ctx : Nat
  va : Dword
  bytes : List Byte
  deriving DecidableEq, Repr

/-- A command accepted and not performed (R380): code, ARG0-ARG3, its journal entry, the stores of its issuer that come first (R314,
R390), and the host function that sent it. -/
structure Cmd where
  code : Nat
  args : List Dword
  j : JRef
  after : List Nat
  fn : Option Nat
  deriving DecidableEq, Repr

/-- A fault record waiting to be written (R372): its 64 bytes. -/
structure FaultRec where
  bytes : List Byte
  deriving DecidableEq, Repr

/-- A walker slot's binding (R282): the descriptor's copy, its address, GS, whether GEN is to be read again (R283), the context. -/
structure TreeSlot where
  desc : List Byte
  addr : Dword
  gs : Nat
  reread : Bool
  ctx : Nat
  deriving DecidableEq, Repr

/-- A context number (R357-R361). Its events, kernels and instances are held beside it. `fqStuck` is set while the write of a fault record
has faulted (R372); `savedSlots` are the tree slots of a SAVED context, by the core they were on (R282, R366);
`migrate` names the cores whose groups move away, each with the core a MIGRATE names for them (R368, R153), `pending` the entry of the SAVE or MIGRATE being performed and the host
function that sent it, `rekeying` those of a REKEY with the blocks it has left (R397). -/
structure Ctx where
  state : CtxState
  parts : List Nat
  world : Bool
  tag : BitVec 8
  keyGen : Nat
  keyKid : Nat
  oldKids : List Nat
  rekeyLeft : List Nat
  rekeying : Option (JRef × Option Nat)
  root : Nat
  quota : Word
  trapBase : Dword
  fqBase : Dword
  fqCtl : Word
  fqHead : Word
  fqTail : Word
  fqStuck : Bool
  supk : Nat
  saveBase : Dword
  savedSlots : Table (Table TreeSlot)
  nextInst : Word
  faultRecs : List FaultRec
  evOps : List EvOp
  cmds : List Cmd
  migrate : List (Nat × Option Nat)
  pending : Option (JRef × Option Nat)
  deriving DecidableEq, Repr

/-- A partition's registers (R143, R185, R326, R337, R361). -/
structure Part where
  ageLimit : Nat
  restoreLimit : Nat
  dlgt : List Word
  qtBase : Dword
  jBase : Dword
  jSeq : Dword
  wdog : Word
  deriving DecidableEq, Repr

/-- A leaf cache entry (R284): slot, leaf origin, generation, leaf index, context tag. -/
structure LeafEntry where
  slot : Nat
  x : Int
  y : Int
  z : Int
  gen : Nat
  leaf : Nat
  tag : BitVec 8
  deriving DecidableEq, Repr

/-- A scratch region of an instance on a core (R317): context, instance, first 16 KiB step, steps, bytes. -/
structure Region where
  ctx : Nat
  inst : Nat
  start : Nat
  steps : Nat
  bytes : Nat
  deriving DecidableEq, Repr

/-- What a core holds beside its firn (R19). `excl` are the words held exclusive for atomics, with their context tags (R210); `icache` the
words of code it holds, by context and virtual address div 8 (R239). -/
structure Core where
  dropped : Word
  misses : Word
  tagNext : BitVec 8
  gtOff : Int
  gtHold : Nat
  halted : Bool
  sleepGt : Option Nat
  quarantined : Bool
  l1 : Table L1Line
  excl : Table (BitVec 8)
  tlb : List TlbEntry
  descCache : Table (BitVec 8 × List Byte)
  icache : Table Dword
  scratch : List Region
  regStart : Nat
  slots : Table TreeSlot
  leafCache : List LeafEntry
  mxWait : List Nat
  mxLast : Bool
  deriving DecidableEq, Repr

/-! ## The tile (R242-R274) -/

/-- The states of a matrix context (R242). -/
inductive MxState where
  | free | held | slaved | draining
  deriving DecidableEq, Repr

/-- What a tile operation does. -/
inductive TileKind where
  | mma | mmap | mmag | mmax | mld | mst | mzero | tpset (mask : Bool) | tpscan
  deriving DecidableEq, Repr

/-- An issued tile operation (R249): its stream, instruction fields, firn byte offsets read at issue, the gathered row indices of MMAG
(none for an invalid word), the value of TPSET, whether an address or value was invalid (R247, R272), and the operations whose effect it
reads (R184, R250). `early` are elements of its images that it has read before its turn, for an MST those that it has written (R250, R245). -/
structure TileOp where
  floe : Nat
  tag : BitVec 8
  ctx : Nat
  inst : Nat
  stream : Nat
  kind : TileKind
  d : Nat
  pred : Option Nat
  m : Nat
  y : Nat
  a : Nat
  b : Nat
  sa : Nat
  sb : Nat
  rows : List (Option Nat)
  val : Word
  dead : Bool
  after : List Nat
  early : Table Nat
  deriving DecidableEq, Repr

/-- A matrix context (R242): the words of its tiles by tile·4096 + 64·m + n, its predicates, RCFALLBACK and issued operations. -/
structure Matrix where
  st : MxState
  holder : Option Nat
  pair : Bool
  tiles : Table Word
  preds : BitVec 16
  rcf : Bool
  ops : List TileOp
  deriving DecidableEq, Repr

/-! ## Kernels, instances, events (R312-R325), packs and barriers (R341-R356), queues (R326-R340) -/

/-- A pack entry as the load command read it, with the bitmap's bytes (R341, R342). -/
structure Pack where
  id : Nat
  bitmap : Bool
  flags : Nat
  bound : Bool
  colour : Nat
  first : Nat
  count : Nat
  stride : Nat
  bits : List Byte
  deriving DecidableEq, Repr

/-- The states of a kernel (R315). -/
inductive KState where
  | unloaded | loaded | placed | bound | active | draining
  deriving DecidableEq, Repr

/-- A kernel of a context's table (R312-R316): state, the state before ACTIVE, the header's values, relocations (word, coordinate,
kind), packs, the image's address, placement set (core, text address), bound queue. -/
structure Kernel where
  st : KState
  prev : KState
  secure : Bool
  textSize : Nat
  regs : Nat
  wregs : Nat
  firn : Nat
  spill : Nat
  role : Role
  lmode : Nat
  floes : Nat
  relocs : List (Nat × Nat × Nat)
  packs : List Pack
  place : Table Dword
  queue : Option Nat
  deriving DecidableEq, Repr

/-- The queue an instance was launched from (R327, R333, R340): its number, the enable it belongs to, its ring and its output ports. -/
structure QRef where
  key : Nat
  epoch : Nat
  base : Dword
  cap : Nat
  big : Bool
  outs : List Nat
  deriving DecidableEq, Repr

/-- An instance that is not done (R318): `src` is 0 for LAUNCH, 1 + its number for a queue, 10^6 for the host; `wait` the event of its
dependence; `born` its place in the order of creation, `taken` the engine's; `placed` the floes placed; `gone` the members that left a
pack (pack, floe); `treeDesc` the descriptor of a LEAF launch and `leaves` its selected leaves with their origins; `savedScratch` the scratch of groups that
are SAVED, by the core it was on (R366). -/
structure Inst where
  kernel : Nat
  prio : Nat
  spread : Bool
  floes : Nat
  args : List Word
  wait : Option (Nat × Nat)
  doneEv : Nat
  tree : Dword
  treeDesc : List Byte
  leaves : List (Nat × Int × Int × Int)
  perLeaf : Nat
  enumerated : Bool
  die : Nat
  src : Nat
  born : Nat
  taken : Option Nat
  placed : Nat
  lastCore : Option Nat
  anchors : Table Nat
  barPart : Option Nat
  gone : List (Nat × Nat)
  queue : Option QRef
  first : Nat
  batch : Nat
  js : List JRef
  savedScratch : Table (Table FirnWord)
  killed : Bool
  deriving DecidableEq, Repr

/-- A launch engine (R317): one more than the source served last at each priority level, 0 for none. -/
structure Engine where
  last : List Nat
  deriving DecidableEq, Repr

/-- Who waits on an event (R321). -/
inductive Waiter where
  | floe (h thr : Nat)
  | launch (inst thr : Nat)
  | queue (q thr : Nat)
  deriving DecidableEq, Repr

/-- A named event (R320, R321). -/
structure Event where
  count : Nat
  waiters : List Waiter
  deriving DecidableEq, Repr

/-- An arrival or leave on its way to the barrier tree, or held in it (R350-R352): the member's number and cluster, its tag, whether it
arrives, whether it leaves, whether it is a leave at last_exit, when it was sent, the operations that come first (R353), and when it has
reached the tree (R354). -/
structure Arrival where
  num : Nat
  cluster : Nat
  tag : Bool
  arr : Bool
  leave : Bool
  exit : Bool
  gt : Nat
  after : List Nat
  reached : Option Nat
  deriving DecidableEq, Repr

/-- The states of a colour (R350). -/
inductive ColState where
  | idle | gathering | releasing
  deriving DecidableEq, Repr

/-- A bound colour (R348-R354): its pack, state and phase bit, whether an arrival or leave has taken place in the phase, the members
arrived in it, the live members, arrivals sent and not counted, arrivals held while releasing, first and last cluster and the number of
counted arrivals, whether a leave at last_exit completed the phase, the place of its completion among those of the package (R354), and the
members the release has not reached. -/
structure Colour where
  ctx : Nat
  inst : Nat
  pack : Nat
  st : ColState
  phase : Bool
  any : Bool
  arrived : List Nat
  live : List Nat
  sent : List Arrival
  held : List Arrival
  first : Option Nat
  last : Option Nat
  counted : Nat
  byExit : Bool
  order : Nat
  spread : List Nat
  deriving DecidableEq, Repr

/-- A record in a queue's ring from HEAD on (R327): acceptance time, journal entry, freed. -/
structure Rec where
  gt : Nat
  j : JRef
  freed : Bool
  deriving DecidableEq, Repr

/-- A buffered blender sample (R335): region, KEY, X, Y and the four components. -/
structure Sample where
  region : Nat
  key : Nat
  x : Nat
  y : Nat
  c : List Word
  deriving DecidableEq, Repr

/-- A queue (R326-R336): the number of its enable, the table entry read then, the counters, the records from HEAD to TAIL, instances not
done, the blender's regions (NEXTKEY, FRAMEPOS) and buffer. -/
structure Queue where
  ctx : Nat
  enabled : Bool
  epoch : Nat
  base : Dword
  cap : Nat
  big : Bool
  drop : Bool
  remote : Bool
  cons : Nat
  prio : Nat
  spread : Bool
  kidx : Nat
  batch : Nat
  maxInst : Nat
  timeout : Nat
  evName : Nat
  evThr : Nat
  evMet : Bool
  timedOut : Bool
  ncfg : Dword
  outs : List Nat
  tail : Word
  launch : Word
  head : Word
  recs : List Rec
  insts : Nat
  regions : Table (Nat × Nat)
  buffer : List Sample
  deriving DecidableEq, Repr

/-- A record on its way to a queue (R329): the queue, the record, source path (R337), world, source partition and device, the
operation it ends, the context whose partitions it may name, the operations that come first, whether it is malformed (R330), the message
to answer, and whether a full queue holds it. -/
structure EnqReq where
  queue : Nat
  bytes : List Byte
  kind : Nat
  secure : Bool
  srcPart : Nat
  srcDev : Nat
  op : Option Nat
  ctx : Option Nat
  after : List Nat
  bad : Bool
  reply : Option Msg
  blocked : Bool
  deriving DecidableEq, Repr

/-- A contribution to a round of a collective group (R420, R421): the group's partition and number, the round, the participant, and
what it sent; the flags of the result are kept with the floe that waits. -/
structure Contribution where
  part : Nat
  group : Nat
  round : Nat
  member : Nat
  n : Nat
  op : Nat
  ty : Nat
  vals : List (Word × Bool)
  deriving DecidableEq, Repr

/-! ## Device life (R423-R434) -/

/-- The boot states (R423). -/
inductive Boot where
  | rom | verify | recovery | init | ready | failed
  deriving DecidableEq, Repr

/-- A mailbox entry (R432): 16 bytes. -/
abbrev MailEntry := BitVec 128

/-- The management block and the locked registers (R423-R434). Only the steps of device life write it. `attPend` is the nonce of a report
being built, `clearSince` when the condition of R434 was first found clear. -/
structure Life where
  boot : Boot
  failures : Nat
  fromFlash : Bool
  digest : BitVec 256
  svn : Word
  locked : Bool
  saCore : List (BitVec 256)
  saMover : List (BitVec 256)
  saPort : Word
  saQueue : List (BitVec 4096)
  regions : List (BitVec 128)
  sealRegions : List (Nat × Nat)
  repairMap : List (BitVec 2048)
  moved : List Nat
  counts : Table Word
  lockViol : Word
  fwViol : Word
  mgDrop : Word
  tmax : BitVec 8
  pwr : BitVec 12
  throt : Bool
  gate : Bool
  clearSince : Option Nat
  plimit : Word
  attNonce : BitVec 256
  attStat : BitVec 2
  attRep : Option (BitVec 4096)
  attPend : Option (BitVec 256)
  window : Table Byte
  mailbox : Table MailEntry
  mbHead : Word
  mbTail : Word
  mgmtSeen : Table Nat
  mgmtSecond : Nat
  restarting : Bool
  powered : Bool
  deriving DecidableEq, Repr

/-! ## The link (R400-R422) -/

/-- The states of a link (R402). -/
inductive LinkState where
  | untrained | training | active | marginal | retraining | repaired | degraded | down
  deriving DecidableEq, Repr

/-- A link's block (R401-R405): its state, lane groups or lanes and spares in service, thresholds, AUTO and IE, the margins and corrected
errors of its lanes as last sampled, a retraining that waits for a refresh window, and the per-bank counts of an HBM4 channel (R409). -/
structure Link where
  st : LinkState
  units : Nat
  spares : Nat
  hth : BitVec 6
  vth : BitVec 8
  auto : Bool
  ie : Bool
  lanes : List (BitVec 6 × BitVec 8 × BitVec 16)
  pend : Bool
  banks : List (BitVec 16)
  deriving DecidableEq, Repr

/-- A request sent to another device and not acknowledged (R412): the operation, copy or floe and the lane it belongs to, and the port of its
stream (R413). -/
structure NetReq where
  op : Nat
  lane : Nat
  msg : Msg
  sentGt : Nat
  port : Nat
  deriving DecidableEq, Repr

/-- A message on its way out, which leaves once the operations in `after` have ended (R227). -/
structure OutMsg where
  msg : Msg
  after : List Nat
  deriving DecidableEq, Repr

/-- The fabric side of the device: links, isolated dies and those of them that Ainar isolated (R408), the route table (R413), messages on their way out, unacknowledged requests,
collective groups with the rounds their partitions have contributed to (R420), and the SEQ counts (R411) received and sent. -/
structure Net where
  links : Table Link
  isolated : List Nat
  cut : List Nat
  routes : Table Dword
  outbox : List OutMsg
  reqs : List NetReq
  groups : Table (BitVec 4096)
  rounds : Table Nat
  seqIn : Table (List Nat)
  seqOut : Table Nat
  deriving DecidableEq, Repr

/-! ## The whole state -/

/-- Who takes the next step (log 1): a slice of a core issues, its slots in `busy` having no instruction fetched, or an operand or unit
not free in time (R140); the same, and the redundant lanes of what it issues disagree, once or also at the replay (R153, log 66); or an
agent takes one step of the table. The others are parts of such steps, which the manual lets come apart: the requests of an operation leave
the core, its own readers getting a store's bytes or not (R166, R200); some of its requests are performed (R172, R226); an element of a
copy is moved before those ahead of it (R181); a core's instruction cache takes a word, or a floe fetches one ahead (R239); a word of a
descriptor that a core's cache holds is read again (R186); an operation of a matrix context, at its place among those issued, reads an element
of its images early, or an MST writes one (R250, R245); an arrival sent to a barrier reaches the tree (R354); a partition's next journal write reaches memory
(R337); a word of a halo's destination is copied before the rest (R448); the create command of a context has written what it sets (R359). -/
inductive Agent where
  | issue (core slice : Nat) (busy : List (Nat × Bool))
  | mismatch (core slice : Nat) (busy : List (Nat × Bool)) (again : Bool)
  | send (op : Nat) (core : Bool)
  | part (op : Nat) (lanes : Mask)
  | elem (copy k : Nat)
  | code (core ctx : Nat) (va : Dword)
  | ahead (floe : Nat) (va : Dword)
  | desc (core ctx : Nat) (pa word : Nat)
  | tile (core mctx pos key : Nat)
  | reach (part colour pos : Nat)
  | journal (part : Nat)
  | halo (op dest k : Nat)
  | created (ctx : Nat)
  | event (i : Instr)
  deriving DecidableEq, Repr

/-- One entry of the schedule: the gt that pass first, and who moves. -/
structure Turn where
  dt : Nat
  who : Agent
  deriving DecidableEq, Repr

/-- How far a cluster's clock has come (R5, R434): thousandths of a ck counted, and gt gated, up to the GT `gt`. -/
structure Pace where
  mck : Nat
  stop : Nat
  gt : Nat
  deriving DecidableEq, Repr

/-- The machine. `turns`, `cur`, `fresh` and `nextId` are the model's own (logs 1-3); `hcmdStat` is HCMDSTAT of each function (R382),
`irqs` the interrupts raised to the host, by function (R372, R403); `clkDue` are the clock steps due, each with the place of its phase's completion
(R354), `jOut` the journal writes on their way, in order. -/
structure State where
  turns : List Turn
  cur : Nat × Bool
  fresh : Nat
  nextId : Nat
  gt : Nat
  clk : Table Nat
  gated : Table Bool
  pace : Table Pace
  firn : Table FirnWord
  ms : Ms
  cores : Table Core
  floes : Table Floe
  mx : Table Matrix
  kernels : Table Kernel
  insts : Table Inst
  engines : Table Engine
  events : Table Event
  colours : Table Colour
  queues : Table Queue
  enqs : List EnqReq
  colls : List Contribution
  clkDue : List (Nat × Nat × Nat)
  jOut : List JWrite
  ops : Table Op
  copies : Table Copy
  ctxs : Table Ctx
  parts : Table Part
  hcmdStat : Table Dword
  irqs : List Nat
  life : Life
  net : Net
  deriving DecidableEq, Repr

/-- The protocol slots at reset (R205): lease lengths, and the tables of R207 that slots 0 to 3 act by. Slots 0 and 1 are the tables
of R209; those of MIG and WO follow R204 to R206 (log 23). -/
def ProtoSlot.builtIn : List ProtoSlot :=
  [⟨256, some (1, 0, [0x59, 0x28, 0x10008, 0x88, 0x8, 0x8, 0x59, 0x20528, 0x30508, 0x89, 0x9, 0x9])⟩,
   ⟨256, some (1, 0, [0x59, 0x28, 0x10008, 0x88, 0x8, 0x8, 0x59, 0x629, 0x30508, 0x89, 0x9, 0x9])⟩,
   ⟨128, some (2, 4, [0x59, 0x82A, 0x82A, 0x88, 0x8, 0x8, 0x59, 0x20D2A, 0x20D2A, 0x89, 0x9, 0x9,
     0x281A, 0x282A, 0x282A, 0x1008, 0xA, 0xA])⟩,
   ⟨4096, some (1, 0, [0x59, 0x8028, 0x18008, 0x88, 0x8, 0x8, 0x59, 0x28528, 0x38508, 0x89, 0x9, 0x9])⟩,
   ⟨0, none⟩, ⟨0, none⟩, ⟨0, none⟩, ⟨0, none⟩]

/-- The memory system at reset: memory with nothing listed, no copy, lease or mark (R205, R206; logs 7-9). -/
def Ms.reset : Ms :=
  { mem := [], poison := [], sealTab := [], sealHeld := [], nextKid := 0, slice := [], dir := [], l2 := [], marks := [],
    slots := ProtoSlot.builtIn, predictor := [], homePredictor := [], decayed := 0, migrations := [], pins := [], tlb2 := [] }

/-- Device life at reset: the state ROM (R423), the mailbox empty (R432), the rest as log 4 names it. -/
def Life.reset : Life :=
  { boot := .rom, failures := 0, fromFlash := true, digest := 0, svn := 0, locked := false, saCore := [0, 0, 0, 0],
    saMover := [0, 0, 0, 0], saPort := 0, saQueue := List.replicate 12 0, regions := List.replicate 64 0, sealRegions := [],
    repairMap := [0, 0, 0, 0], moved := [15, 15, 15, 15], counts := [], lockViol := 0, fwViol := 0, mgDrop := 0, tmax := 0, pwr := 0,
    throt := false, gate := false, clearSince := none, plimit := 3800, attNonce := 0, attStat := 0, attRep := none, attPend := none, window := [],
    mailbox := [], mbHead := 0, mbTail := 0, mgmtSeen := [], mgmtSecond := 0, restarting := false, powered := true }

/-- The fabric at reset: no trained link, every route entry zero (R402, R413). -/
def Net.reset : Net :=
  { links := [], isolated := [], cut := [], routes := [], outbox := [], reqs := [], groups := [], rounds := [], seqIn := [], seqOut := [] }

/-- The machine right after power-on reset (R423): the state ROM, no context, no instance, no floe. -/
def State.reset : State :=
  { turns := [], cur := (0, false), fresh := 0, nextId := 0, gt := 0, clk := [], gated := [], pace := [], firn := [], ms := Ms.reset, cores := [],
    floes := [], mx := [], kernels := [], insts := [], engines := [], events := [], colours := [], queues := [], enqs := [],
    colls := [], clkDue := [], jOut := [], ops := [], copies := [], ctxs := [], parts := [], hcmdStat := [], irqs := [], life := Life.reset, net := Net.reset }

end Sys2Proof.Machine
end

