-- ==== Sys2Proof/Machine/Ops.lean ====
section
/-! DEFINITION. The named operations over cores, floes, registers and slots, and taking and leaving a trap: the shared ground of every
meaning. -/

namespace Sys2Proof.Machine

/-! ## Coordinates (R16-R18) -/

/-- The partition of a core (R18). -/
def partOf (c : Nat) : Nat := 3 * coreDie c + coreRow c / 4

/-- The cluster of a core, keyed by its coordinate with column 0 (R18). -/
def clusterOf (c : Nat) : Nat := c / 16

/-- The other core of the pair (R17). -/
def corePartner (c : Nat) : Nat := if c % 2 = 0 then c + 1 else c - 1

/-- The logical cores of the package. -/
def allCores : List Nat := (List.range 1024).filter coreValid

/-- The logical cores of a partition (R18). -/
def coresOfPart (p : Nat) : List Nat := (List.range 64).map (fun i => (p / 3) * 256 + (4 * (p % 3) + i / 16) * 16 + i % 16)

/-- The logical row of die `d` that was moved to the spare row; 15 when none was (R15). -/
def movedRow (s : State) (d : Nat) : Nat := s.life.moved.getD d 15

/-- The physical coordinate of a logical core (R15, R16). -/
def physOf (s : State) (c : Nat) : Nat :=
  if coreRow c = movedRow s (coreDie c) then coreDie c * 256 + 12 * 16 + coreCol c else c

/-- The logical core at a physical coordinate; none where no logical core is (R15, R16). That a coordinate on the spare row names none
where no row was moved there, and a row that was moved away none either, is the model's reading (log 89): a COORD there is a bad
coordinate (R56). -/
def logicalOf (s : State) (p : Nat) : Option Nat :=
  let d := coreDie p
  if 1024 ≤ p then none
  else if coreRow p < 12 then (if coreRow p = movedRow s d then none else some p)
  else if coreRow p = 12 ∧ movedRow s d < 12 then some (d * 256 + movedRow s d * 16 + coreCol p)
  else none

/-- The lowest core of a partition, where its engines' accesses are translated. -/
def partCore (p : Nat) : Nat := (p / 3) * 256 + (4 * (p % 3)) * 16

/-! ## Access to the parts of the state -/

/-- A core that nothing has touched since reset. -/
def Core.fresh : Core :=
  { dropped := 0, misses := 0, tagNext := 0, gtOff := 0, gtHold := 0, halted := false, sleepGt := none, quarantined := false,
    l1 := [], excl := [], tlb := [], descCache := [], icache := [], scratch := [], regStart := 0, slots := [], leafCache := [],
    mxWait := [], mxLast := true }

def State.core (s : State) (c : Nat) : Core := Table.getD s.cores Core.fresh c
def State.setCore (s : State) (c : Nat) (k : Core) : State := { s with cores := Table.setD s.cores Core.fresh c k }
def State.modCore (s : State) (c : Nat) (f : Core → Core) : State := s.setCore c (f (s.core c))

def State.floe? (s : State) (h : Nat) : Option Floe := Table.find? s.floes h
def State.setFloe (s : State) (h : Nat) (f : Floe) : State := { s with floes := Table.insert s.floes h f }

/-- The floe changed, where there is one. -/
def State.modFloe (s : State) (h : Nat) (g : Floe → Floe) : State :=
  match s.floe? h with
  | some f => s.setFloe h (g f)
  | none => s

def State.modOp (s : State) (o : Nat) (g : Op → Op) : State :=
  match Table.find? s.ops o with
  | some p => { s with ops := Table.insert s.ops o (g p) }
  | none => s

def State.modCopy (s : State) (o : Nat) (g : Copy → Copy) : State :=
  match Table.find? s.copies o with
  | some p => { s with copies := Table.insert s.copies o (g p) }
  | none => s

/-- A context number that is not FREE (R359). -/
def State.ctx? (s : State) (c : Nat) : Option Ctx := (Table.find? s.ctxs c).bind (fun x => if x.state = .free then none else some x)
def State.setCtx (s : State) (c : Nat) (x : Ctx) : State := { s with ctxs := Table.insert s.ctxs c x }
def State.modCtx (s : State) (c : Nat) (g : Ctx → Ctx) : State :=
  match s.ctx? c with
  | some x => s.setCtx c (g x)
  | none => s

/-- The registers of a partition after reset (R143, R185, R361). -/
def Part.fresh : Part :=
  { ageLimit := 256, restoreLimit := 500, dlgt := [10000, 100000, 1000000], qtBase := 0, jBase := 0, jSeq := 0, wdog := 0 }

def State.part (s : State) (p : Nat) : Part := Table.getD s.parts Part.fresh p
def State.setPart (s : State) (p : Nat) (x : Part) : State := { s with parts := Table.setD s.parts Part.fresh p x }
def State.modPart (s : State) (p : Nat) (g : Part → Part) : State := s.setPart p (g (s.part p))

/-! ### Objects kept by a number made of two -/

def instKey (ctx inst : Nat) : Nat := ctx * 2 ^ 32 + inst
def kernKey (ctx k : Nat) : Nat := ctx * 4096 + k
def evKey (ctx n : Nat) : Nat := ctx * 65536 + n
def colKey (p c : Nat) : Nat := p * 16 + c
def queueKey (p q : Nat) : Nat := p * 4096 + q
def mxKey (core m : Nat) : Nat := core * 2 + m

def State.inst? (s : State) (ctx inst : Nat) : Option Inst := Table.find? s.insts (instKey ctx inst)
def State.modInst (s : State) (ctx inst : Nat) (g : Inst → Inst) : State :=
  match s.inst? ctx inst with
  | some x => { s with insts := Table.insert s.insts (instKey ctx inst) (g x) }
  | none => s

/-- A kernel index that is UNLOADED (R315). -/
def Kernel.empty : Kernel :=
  { st := .unloaded, prev := .unloaded, secure := false, textSize := 0, regs := 0, wregs := 0, firn := 0, spill := 0, role := .math,
    lmode := 0, floes := 0, relocs := [], packs := [], place := [], queue := none }

def State.kernel (s : State) (ctx k : Nat) : Kernel := Table.getD s.kernels Kernel.empty (kernKey ctx k)
def State.setKernel (s : State) (ctx k : Nat) (x : Kernel) : State :=
  { s with kernels := Table.setD s.kernels Kernel.empty (kernKey ctx k) x }

def Event.fresh : Event := ⟨0, []⟩
def State.event (s : State) (ctx n : Nat) : Event := Table.getD s.events Event.fresh (evKey ctx n)
def State.setEvent (s : State) (ctx n : Nat) (x : Event) : State :=
  { s with events := Table.setD s.events Event.fresh (evKey ctx n) x }

/-- A FREE matrix context (R242). -/
def Matrix.fresh : Matrix :=
  { st := .free, holder := none, pair := false, tiles := [], preds := 0xFFFF, rcf := false, ops := [] }

def State.matrix (s : State) (core m : Nat) : Matrix := Table.getD s.mx Matrix.fresh (mxKey core m)
def State.setMatrix (s : State) (core m : Nat) (x : Matrix) : State :=
  { s with mx := Table.setD s.mx Matrix.fresh (mxKey core m) x }

/-- The matrix context of its core that a floe holds (R243). -/
def State.heldMx (s : State) (h : Nat) (core : Nat) : Option Nat :=
  (List.range 2).find? (fun m => (s.matrix core m).holder == some h && (s.matrix core m).st == .held)

def State.colour? (s : State) (p c : Nat) : Option Colour := Table.find? s.colours (colKey p c)
def State.setColour (s : State) (p c : Nat) (x : Colour) : State := { s with colours := Table.insert s.colours (colKey p c) x }
def State.queue? (s : State) (k : Nat) : Option Queue := Table.find? s.queues k
def State.modQueue (s : State) (k : Nat) (g : Queue → Queue) : State :=
  match s.queue? k with
  | some x => { s with queues := Table.insert s.queues k (g x) }
  | none => s

/-- The event-home partition of a context, its lowest-numbered one (R320). -/
def Ctx.home (c : Ctx) : Nat := c.parts.foldl min 12

/-- The context that owns a partition (R357). -/
def State.ownerOf (s : State) (p : Nat) : Option Nat :=
  (Table.search s.ctxs (fun _ c => c.state != .free && c.parts.contains p)).map Prod.fst

/-- A new number for an operation, floe or copy of the model (log 3). -/
def State.takeId (s : State) : Nat × State := (s.nextId, { s with nextId := s.nextId + 1 })

/-- The copy of GT that a core reads: the package's time with the core's error, held where a correction holds it (R21). -/
def State.coreGt (s : State) (c : Nat) : Nat := max ((s.gt : Int) + (s.core c).gtOff).toNat (s.core c).gtHold % 2 ^ 64

/-- The clock of a core's cluster in MHz (R20). -/
def State.coreClk (s : State) (c : Nat) : Nat := Table.getD s.clk 940 (clusterOf c)

/-! ## Clocks (R5, R20, R434) -/

/-- A cluster whose clock has run at 940 MHz since reset. -/
def Pace.fresh : Pace := ⟨0, 0, 0⟩

/-- How far a cluster's clock has come by now: it counts its MHz each gt, and nothing while gated (R434). -/
def State.paceNow (s : State) (k : Nat) : Pace :=
  let p := Table.getD s.pace Pace.fresh k
  let dt := s.gt - p.gt
  if Table.getD s.gated false k then ⟨p.mck, p.stop + dt, s.gt⟩ else ⟨p.mck + dt * Table.getD s.clk 940 k, p.stop, s.gt⟩

/-- Thousandths of a ck that a core's cluster has counted (R5). -/
def State.mck (s : State) (c : Nat) : Nat := (s.paceNow (clusterOf c)).mck

/-- The gt for which a core's cluster has been gated, by which a bound in gt of its floes is longer (R5, R151, R434). -/
def State.gatedFor (s : State) (c : Nat) : Nat := (s.paceNow (clusterOf c)).stop

/-- A cluster's clock or gate changed, what it has counted kept. -/
def State.setClock (s : State) (k mhz : Nat) (gate : Bool) : State :=
  { s with pace := Table.setD s.pace Pace.fresh k (s.paceNow k), clk := Table.setD s.clk 940 k mhz, gated := Table.setD s.gated false k gate }

/-- The next free value, as a byte or word of the manual that has none (log 2); the counter advances. -/
def State.takeFresh (s : State) (n : Nat) : State := { s with fresh := s.fresh + n }

/-! ## Firn and registers (R106, R110, R112, R114) -/

/-- The words of one core's firn (R19). -/
def firnWords : Nat := 393216

/-- Firn of a core after repair: 1,572,864 · (16 − K)/16 bytes (R361, R425). -/
def firnSteps (s : State) (c : Nat) : Nat :=
  let p := physOf s c
  let m := s.life.repairMap.getD (coreDie c) 0
  16 - (m >>> (8 * (16 * coreRow p + coreCol p))).toNat % 16

def firnKey (core word : Nat) : Nat := core * firnWords + word
def FirnWord.empty : FirnWord := ⟨0, false⟩
def State.firnAt (s : State) (core word : Nat) : FirnWord := Table.getD s.firn FirnWord.empty (firnKey core word)
def State.setFirn (s : State) (core word : Nat) (w : FirnWord) : State :=
  { s with firn := Table.setD s.firn FirnWord.empty (firnKey core word) w }

/-- The firn word of a register as a lane sees it (R106). -/
def regWord (f : Floe) (r : Reg) (lane : Nat) : Nat :=
  if r.uni then f.rbase / 4 + 32 * f.regs + r.n else f.rbase / 4 + 32 * r.n + lane

def State.rdReg (s : State) (f : Floe) (r : Reg) (lane : Nat) : FirnWord := s.firnAt f.core (regWord f r lane)

/-- One register word written; under FULL lane l + 16 takes every write of lane l (R152). -/
def State.wrReg (s : State) (f : Floe) (r : Reg) (lane : Nat) (w : FirnWord) : State :=
  let s1 := s.setFirn f.core (regWord f r lane) w
  if r.uni = false ∧ f.dmr = .full ∧ lane < 16 then s1.setFirn f.core (regWord f r (lane + 16)) w else s1

/-- `write` and `invalidate` of R114 on a group of registers, word `i` of `val` in the `i`-th register. -/
def State.wrGroup (s : State) (f : Floe) (lane : Nat) (valid : Bool) : List Reg → Nat → State
  | [], _ => s
  | r :: rs, val =>
    let old := s.rdReg f r lane
    State.wrGroup (s.wrReg f r lane (if valid then ⟨BitVec.ofNat 32 val, true⟩ else { old with v := false })) f lane valid rs
      (val / 2 ^ 32)

/-- A group of register words as one number, the first lowest, and whether all are valid (R112). -/
def State.rdGroup (s : State) (f : Floe) (lane : Nat) : List Reg → Nat × Bool
  | [] => (0, true)
  | r :: rs =>
    let w := s.rdReg f r lane
    let t := State.rdGroup s f lane rs
    (w.data.toNat + 2 ^ 32 * t.1, w.v && t.2)

/-- Lanes of a mask in ascending order. -/
def maskLanes (m : Mask) : List Nat := (List.range 32).filter (fun l => m.getLsbD l)

/-- The mask of a list of lanes. -/
def lanesMask (l : List Nat) : Mask := l.foldl (fun m i => m ||| (1#32 <<< i)) 0

/-! ## Packs (R342-R346) -/

/-- The index of a floe number in a pack's list; none when it is not listed (R342). -/
def Pack.rankOf (p : Pack) (n : Nat) : Option Nat :=
  if p.bitmap then
    let bit (i : Nat) : Bool := (p.bits.getD (i / 8) 0).getLsbD (i % 8)
    if n < p.count ∧ bit n then some ((List.range n).filter bit).length else none
  else if p.first ≤ n ∧ (n - p.first) % p.stride = 0 ∧ (n - p.first) / p.stride < p.count then some ((n - p.first) / p.stride)
  else none

/-- The members of a pack in an instance of `floes` floes (R342). -/
def Pack.members (p : Pack) (floes : Nat) : List Nat := (List.range floes).filter (fun n => (p.rankOf n).isSome)

/-- The packs of a floe number of a kernel, in ascending ID (R346). -/
def Kernel.packsOf (k : Kernel) (n : Nat) : List Pack := k.packs.filter (fun p => (p.rankOf n).isSome)

/-- Whether a member has left a pack of its instance, by BARA.LEAVE or by retiring (R344). -/
def State.hasLeft (s : State) (ctx inst pack num : Nat) : Bool :=
  match s.inst? ctx inst with
  | some i => i.gone.contains (pack, num)
  | none => false

/-- The word that %packk reads (R346). -/
def packWord (s : State) (f : Floe) (k : Nat) : Word :=
  match ((s.kernel f.ctx f.kernel).packsOf f.num)[k]? with
  | none => 0
  | some p => BitVec.ofNat 32 (p.id + 2 ^ 8 + (if s.hasLeft f.ctx f.inst p.id f.num then 2 ^ 9 else 0) + p.flags * 2 ^ 10
      + (if p.bound then 2 ^ 12 else 0) + p.colour * 2 ^ 13)

/-! ## Slots and the reconvergence stack (R139, R145-R148) -/

def Floe.slot (f : Floe) (b : Bool) : Option Slot := if b then f.s1 else f.s0
def Floe.setSlot (f : Floe) (b : Bool) (v : Option Slot) : Floe := if b then { f with s1 := v } else { f with s0 := v }

/-- A slot that has arrived at its reconvergence PC parks its lanes and becomes FREE (R146). -/
def Floe.arrive (f : Floe) (b : Bool) : Option Floe :=
  match f.slot b with
  | some sl => if sl.rpc = some sl.pc then some { f.setSlot b none with parked := f.parked ||| sl.mask } else none
  | none => none

/-- The topmost complete JOIN or CALL entry (the list's head is the top), and the stack without it. -/
def takeComplete (parked : Mask) : List StackEntry → Option (StackEntry × List StackEntry)
  | [] => none
  | e :: t =>
    if e.kind ≠ .path ∧ e.mask &&& parked = e.mask then some (e, t)
    else match takeComplete parked t with
      | some (x, r) => some (x, e :: r)
      | none => none

/-- The topmost PATH entry, and the stack without it. -/
def takePath : List StackEntry → Option (StackEntry × List StackEntry)
  | [] => none
  | e :: t =>
    if e.kind = .path then some (e, t)
    else match takePath t with
      | some (x, r) => some (x, e :: r)
      | none => none

/-- Whether slot `b` is FREE for a path: in a handler only the entering slot is, since the handler runs in one slot (R370). -/
def Floe.takes (f : Floe) (b : Bool) : Bool :=
  (f.slot b).isNone && (match f.frame with | some fr => fr.slot1 == b | none => true)

/-- A path put into a FREE slot, slot 0 before slot 1, or pushed as a PATH entry (R146). -/
def Floe.place (f : Floe) (e : StackEntry) : Floe :=
  let sl : Slot := ⟨e.pc, e.mask, e.rpc, e.via⟩
  if f.takes false then { f with s0 := some sl }
  else if f.takes true then { f with s1 := some sl }
  else { f with stack := { e with kind := .path } :: f.stack }

/-- One change of R146: an arrival, else a completion, else a FREE slot taking the topmost PATH entry. That a complete entry comes before
a PATH entry where both could take the slot is the model's choice, the rule giving no order between them (log 90). -/
def Floe.settle1 (f : Floe) : Option Floe :=
  match f.arrive false with
  | some g => some g
  | none =>
    match f.arrive true with
    | some g => some g
    | none =>
      match takeComplete f.parked f.stack with
      | some (e, rest) => some (Floe.place { f with stack := rest, parked := f.parked &&& ~~~e.mask } e)
      | none =>
        if f.takes false || f.takes true then
          match takePath f.stack with
          | some (e, rest) => some (Floe.place { f with stack := rest } e)
          | none => none
        else none

/-- R146 until nothing changes; `n` bounds the changes (each removes an entry or frees a slot). -/
def Floe.settleN : Nat → Floe → Floe
  | 0, f => f
  | n + 1, f => match f.settle1 with | some g => Floe.settleN n g | none => f

/-- Arrivals and completions after a change of a PC or a mask (R146). -/
def Floe.settle (f : Floe) : Floe := Floe.settleN (4 * f.stack.length + 12) f

/-- The lanes of the floe that have not retired (R148). -/
def Floe.liveLanes (f : Floe) : Mask :=
  (match f.s0 with | some s => s.mask | none => 0) ||| (match f.s1 with | some s => s.mask | none => 0) ||| f.parked
    ||| f.stack.foldl (fun m e => if e.kind = .path then m ||| e.mask else m) 0

/-- Lanes removed from the mask of every stack entry, and the entries left empty removed (R148). -/
def stackRemove (m : Mask) (st : List StackEntry) : List StackEntry :=
  (st.map (fun e => { e with mask := e.mask &&& ~~~m })).filter (fun e => e.mask != 0)

/-! ## Traps (R369-R371) -/

/-- The code of a cause (R369). -/
def Cause.code : Cause → Nat
  | .illegalOpcode => 0x01 | .illegalModifier => 0x02 | .illegalOperands => 0x03 | .orphanExtension => 0x04
  | .misalignedTarget => 0x05 | .registerRange => 0x06 | .privileged => 0x07 | .pageNotPresent => 0x10
  | .pagePermission => 0x11 | .misalignedAccess => 0x12 | .sealTag => 0x13 | .sealExhausted => 0x14
  | .secureViolation => 0x15 | .descriptorInvalid => 0x16 | .writeOnceViolation => 0x17 | .fpInvalid => 0x20
  | .fpOverflow => 0x21 | .fpDivzero => 0x22 | .stackLimit => 0x31 | .software => 0x40 | .breakpoint => 0x41
  | .noMatrixContext => 0x50 | .treeDescriptor => 0x60 | .linkUnreachable => 0x70 | .watchdog => 0x7F

/-- A number as little-endian bytes. -/
def bytesOf : Nat → Nat → List Byte
  | 0, _ => []
  | n + 1, v => BitVec.ofNat 8 v :: bytesOf n (v / 256)

/-- Little-endian bytes as a number (R3). -/
def natOf : List Byte → Nat
  | [] => 0
  | b :: t => b.toNat + 256 * natOf t

/-- The fields of a fault record (R372). -/
def faultRecord (cause source : Nat) (replay : Bool) (part inst floe core : Nat) (vaddr lane index elem : Nat) (pc : Dword)
    (lanes : Mask) (info aux gt : Nat) : List Byte :=
  bytesOf 64 (cause + source * 2 ^ 8 + (if replay then 2 ^ 11 else 0) + part * 2 ^ 12 + inst * 2 ^ 32 + floe * 2 ^ 64
    + core * 2 ^ 96 + vaddr * 2 ^ 128 + lane * 2 ^ 192 + index * 2 ^ 197 + elem * 2 ^ 224 + pc.toNat * 2 ^ 256
    + lanes.toNat * 2 ^ 320 + info * 2 ^ 352 + aux * 2 ^ 384 + gt * 2 ^ 448)

/-- The record of a trap of a floe. -/
def trapRecord (s : State) (f : Floe) (pc : Dword) (replay : Bool) (t : TrapInfo) : List Byte :=
  faultRecord t.cause.code t.source replay (partOf f.core) f.inst f.num f.core t.vaddr.toNat t.lane t.index t.elem pc t.lanes 0
    t.aux (s.gt % 2 ^ 64)

/-- A record joins those of its context that wait to be written (R372). -/
def State.postRecord (s : State) (ctx : Nat) (r : List Byte) : State :=
  s.modCtx ctx (fun c => { c with faultRecs := c.faultRecs ++ [⟨r⟩] })

/-- fatal (R371): the context becomes FAULTED and a record with REPLAY = 0 is posted. No floe of a FAULTED context issues. -/
def State.fatal (s : State) (ctx : Nat) (r : List Byte) : State :=
  (s.modCtx ctx (fun c => { c with state := .faulted })).postRecord ctx r

/-- fatal of a context that has not been destroyed meanwhile (R359). -/
def State.fatalLive (s : State) (ctx : Nat) (r : List Byte) : State :=
  match s.ctx? ctx with
  | some c => if c.state = .destroyed then s else s.fatal ctx r
  | none => s

/-- Whether a floe's context is FAULTED, its floes stopped in place with their state held (R359, R371). -/
def State.stopped (s : State) (f : Floe) : Bool := match s.ctx? f.ctx with | some c => c.state == .faulted | none => false

/-- Whether a floe's kernel is its context's supervisor kernel (R360). -/
def State.isSupervisor (s : State) (f : Floe) : Bool :=
  match s.ctx? f.ctx with
  | some c => f.kernel == c.supk
  | none => false

/-- Whether a floe holds the privileged level (R360). -/
def State.isPriv (s : State) (f : Floe) : Bool := f.levelPriv || s.isSupervisor f

/-- Handler entry in slot `b` (R370): the trap registers, the entry frame, the level and the handler's address. -/
def handlerEntry (f : Floe) (b : Bool) (trapBase pc next : Dword) (t : TrapInfo) : Floe :=
  match f.slot b with
  | none => f
  | some sl =>
    { f.setSlot b (some ⟨trapBase, sl.mask, none, none⟩) with
      tepc := if t.atNext then next else pc
      tcause := BitVec.ofNat 32 (t.cause.code + t.source * 256 + (if t.half then 2 ^ 11 else 0))
      tlanes := t.lanes
      tinfo := t.tinfo
      frame := some ⟨b, (f.slot (!b)).isSome, sl.mask, sl.rpc, f.stack.length⟩
      latches := []
      levelPriv := true
      levelHandler := true
      state := .ready
      wait := none }

/-- A cause vectored to the handler of floe `h`, in slot `b`, or fatal (R370, R371). -/
def State.vector (s : State) (h : Nat) (b : Bool) (pc next : Dword) (t : TrapInfo) : State :=
  match s.floe? h with
  | none => s
  | some f =>
    match s.ctx? f.ctx with
    | none => s
    | some c =>
      if f.levelHandler ∨ c.trapBase = 0 then s.fatal f.ctx (trapRecord s f pc false t)
      else s.setFloe h (handlerEntry f b c.trapBase pc next t)

/-- Delivery of a trap of floe `h` raised in slot `b` by the word at `pc` (R369-R371). PAGE_NOT_PRESENT from the floe posts a
replayable record and suspends the floe; every other cause enters the handler, or is fatal. -/
def State.deliver (s : State) (h : Nat) (b : Bool) (pc next : Dword) (t : TrapInfo) : State :=
  match s.floe? h with
  | none => s
  | some f =>
    if t.cause = .pageNotPresent ∧ t.source = 0 then
      (s.setFloe h { f with state := .suspended, susp := some ⟨none, b, pc, t, false⟩ }).postRecord f.ctx (trapRecord s f pc true t)
    else s.vector h b pc next t

/-- Whether slot `b` may issue: live, and in a handler the entering slot (R139, R370). -/
def Floe.slotFree (f : Floe) (b : Bool) : Bool :=
  (f.slot b).isSome && (match f.frame with | some fr => fr.slot1 == b | none => true)

/-- The bytes of a floe's register region, and its end (R106). -/
def regBytes (regs wregs : Nat) : Nat := (128 * regs + 4 * wregs + 255) / 256 * 256

/-- Whether a floe is on its core (R137). -/
def Floe.resident (f : Floe) : Bool := f.state != .saved && f.state != .retired

/-- The slot that would issue next (R140): the one that did not issue last, if it can. -/
def Floe.nextSlot (f : Floe) : Bool := if f.slotFree (!f.lastSlot1) then !f.lastSlot1 else f.lastSlot1

/-- Delivery outside the issue of an instruction (R370): in slot `b` if it is still live, else in the slot that would issue next. -/
def State.deliverLater (s : State) (h : Nat) (b : Bool) (pc : Dword) (t : TrapInfo) : State :=
  match s.floe? h with
  | none => s
  | some f => s.deliver h (if (f.slot b).isSome then b else f.nextSlot) pc pc t

/-- condition_met (R137): the instruction that held the floe retires, its own Y hint taking effect then (R142), or issues again; the floe's
age, in thousandths of a ck, restarts at `mck` (R140). -/
def Floe.resume (f : Floe) (mck : Nat) : Floe :=
  let g := { f with state := .ready, wait := none, since := mck, yielded := f.yielded && f.waitLen != 0 }
  match f.slot f.waitSlot1 with
  | some sl => if f.waitLen = 0 then g else
      Floe.settle (g.setSlot f.waitSlot1 (some { sl with pc := sl.pc + BitVec.ofNat 64 f.waitLen, via := none }))
  | none => g

/-! ## Issue and retirement -/

/-- What a meaning knows of the instruction it issues for: the floe and its slot, the word's address and length, the slot's active
mask and exec (R7). -/
structure Env where
  h : Nat
  b : Bool
  f : Floe
  sl : Slot
  len : Nat
  exec : Mask
  deriving DecidableEq, Repr

/-- The end of an instruction's issue: retired with the PC to advance, retired with its own transfer of control, a trap, or not
issued (a stall: the PC stays); `yield` is `done` with the effect of R142. -/
inductive Res where
  | done (s : State)
  | yield (s : State)
  | jump (s : State)
  | stall (s : State)
  | trap (t : TrapInfo) (s : State)
  deriving DecidableEq, Repr

/-- The address of the next word (R31). -/
def Env.next (e : Env) : Dword := e.sl.pc + BitVec.ofNat 64 e.len

/-- The slot goes to `pc`; `via` names the word that passed control, none for fall-through (R46). -/
def Floe.goto (f : Floe) (b : Bool) (pc : Dword) (via : Option Dword) : Floe :=
  match f.slot b with
  | some sl => f.setSlot b (some { sl with pc := pc, via := via })
  | none => f

/-- What one position of an F word leaves in its latch (R51): the vector register read with U set, with its 32 lanes of data and V as
they were read; none where the word writes that register itself. -/
def latchOf (s : State) (f : Floe) (writes : List Reg) (u : Bool) (fd : Field) (c : Code) : Option Latch :=
  if u && fd.src && Code.isVec c && !(fd.reads.any (fun r => writes.contains r)) then
    some ⟨c, fd.reads, fd.reads.flatMap (fun r => (List.range 32).map (fun l => s.rdReg f r l))⟩
  else none

/-- The latches of positions A, B and C after an F word (R51). -/
def latchesOf (s : State) (f : Floe) (w : FWord) (sh : Shape) : List (Option Latch) :=
  [latchOf s f sh.d.writes (w.u.getLsbD 2) sh.a w.a, latchOf s f sh.d.writes (w.u.getLsbD 1) sh.b w.b,
   latchOf s f sh.d.writes (w.u.getLsbD 0) sh.c w.c]

/-- A register written after a latch was filled with it is no longer served by it (R51, R108). -/
def Floe.unlatch (f : Floe) (rs : List Reg) : Floe :=
  { f with latches := f.latches.map (fun l => l.filter (fun x => !(x.regs.any (fun r => rs.contains r)))) }

/-- The bookkeeping of an issue (R137, R140, R142): the floe's age restarts, the slot is the last to have issued, YIELD and the Y hints
give up the next opportunity; the words of other devices that came for it are used up. -/
def Floe.issued (f : Floe) (gt mck : Nat) (b : Bool) (latches : List (Option Latch)) (yields : Bool) : Floe :=
  { f with since := mck, aged := false, yielded := yields, lastSlot1 := b, latches := latches, far := [],
           startGt := (match f.startGt with | some t => some t | none => some gt) }

/-- The end of an instruction that did not transfer control: its PC advances, with the arrivals of R146; one that leaves the floe WAITING
keeps its PC until it retires (R138). -/
def Floe.retired (e : Env) (gt mck : Nat) (latches : List (Option Latch)) (yields : Bool) (f : Floe) : Floe :=
  if f.state = .waiting then { f.issued gt mck e.b latches yields with waitSlot1 := e.b, waitLen := e.len, waitExec := e.exec }
  else Floe.settle ((f.goto e.b e.next none).issued gt mck e.b latches yields)

/-- A branch drops the words fetched ahead before a FENCE.all at CORE scope or wider (R239). -/
def Floe.branched (f : Floe) : Floe := if f.ibufStale then { f with ibuf := [], ibufStale := false } else f

/-- A result made a state: PC advance and arrivals after `done` (R31, R146), delivery after `trap`. An instruction that stalls has not
issued; it ends an earlier hint's hold (R142). -/
def State.retire (e : Env) (latches : List (Option Latch)) (yields : Bool) (r : Res) : State :=
  match r with
  | .done s => s.modFloe e.h (Floe.retired e s.gt (s.mck e.f.core) latches yields)
  | .yield s => s.modFloe e.h (Floe.retired e s.gt (s.mck e.f.core) latches true)
  | .jump s => s.modFloe e.h (fun f => Floe.settle ((f.branched).issued s.gt (s.mck e.f.core) e.b latches yields))
  | .stall s => s.modFloe e.h (fun f => { f with waitSlot1 := e.b, waitLen := 0, waitExec := e.exec, yielded := false })
  | .trap t s => (s.modFloe e.h (fun f => f.issued s.gt (s.mck e.f.core) e.b [] false)).deliver e.h e.b e.sl.pc e.next t

/-- Pre-emption begins (R365): the floe issues no more once it has formed, and `savedGt` holds when. -/
def State.markPreempt (s : State) (h : Nat) : State :=
  s.modFloe h (fun f => { f with preempt := true, savedGt := s.gt, savedStop := s.gatedFor f.core })

/-- Every floe of a core begins to be saved. -/
def State.preemptCore (s : State) (core : Nat) : State :=
  (Table.keys (Table.keep s.floes (fun _ f => f.core == core && f.resident && !f.preempt))).foldl State.markPreempt s

/-! ## Counters of the management block (R431) -/

/-- A saturating 32-bit count (R431). -/
def satInc (w : Word) : Word := if w = 0xFFFFFFFF then w else w + 1

/-- A counter of the management block, by its offset, one up. -/
def State.countUp (s : State) (off : Nat) : State :=
  { s with life := { s.life with counts := Table.setD s.life.counts 0 off (satInc (Table.getD s.life.counts 0 off)) } }

end Sys2Proof.Machine
end

