-- ==== Sys2Proof/Machine/Page.lean ====
section
/-! DEFINITION. Memory as bytes, the page walk, the checks on an access, and the seal blocks (R384-R397, R454, R409). -/

namespace Sys2Proof.Machine

/-! ## Bytes of memory -/

/-- What an address that nothing has written reads as (log 7). -/
def memDefault : Byte := 0

/-- A byte of home memory, as the L2 of its die holds it. -/
def Ms.byte (m : Ms) (pa : Nat) : Byte := Table.getD m.mem memDefault pa

/-- One byte written. -/
def Ms.setByte (m : Ms) (pa : Nat) (v : Byte) : Ms := { m with mem := Table.setD m.mem memDefault pa v }

/-- `n` bytes from `pa` up. -/
def Ms.bytes (m : Ms) (pa n : Nat) : List Byte := (List.range n).map (fun i => m.byte (pa + i))

/-- `n` bytes from `pa` up as a number (R3). -/
def Ms.nat (m : Ms) (pa n : Nat) : Nat := natOf (m.bytes pa n)

/-- Bytes written from `pa` up. -/
def Ms.setBytes (m : Ms) (pa : Nat) : List Byte → Ms
  | [] => m
  | b :: t => Ms.setBytes (m.setByte pa b) (pa + 1) t

/-- The memory is in its canonical form. -/
def Memory.wf (s : State) : Bool := Table.wf memDefault s.ms.mem

/-! ## Physical addresses (R454, R364) -/

/-- Whether a physical address names memory of the package (R454). -/
def paExists (pa : Nat) : Bool := decide (pa < 2 ^ 41) && decide (pa % 2 ^ 39 < 384 * 10 ^ 9)

/-- The home die of a physical address (R454). -/
def homeDie (pa : Nat) : Nat := pa / 2 ^ 39 % 4

/-- Whether a region table entry is used and stands within its values (R4, R364). -/
def regionUsed (e : BitVec 128) : Bool :=
  let base := (e.extractLsb' 0 52).toNat
  let limit := (e.extractLsb' 64 52).toNat
  e.extractLsb' 53 11 == 0 && e.extractLsb' 116 12 == 0 && decide (base % 65536 = 0) && decide (limit % 65536 = 0) && decide (base < limit)

/-- Whether the region table makes an address SECURE (R364). -/
def regionSecure (s : State) (pa : Nat) : Bool :=
  s.life.regions.any (fun e =>
    e.getLsbD 52 && regionUsed e && decide ((e.extractLsb' 0 52).toNat ≤ pa) && decide (pa < (e.extractLsb' 64 52).toNat))

/-- Whether an address lies in the seal metadata firmware reserved (R393). -/
def sealReserved (s : State) (pa : Nat) : Bool := s.life.sealRegions.any (fun r => decide (r.1 ≤ pa) && decide (pa < r.2))

/-- The world of a core, and of its mover (R363, R426). -/
def coreSecure (s : State) (c : Nat) : Bool :=
  let p := physOf s c
  (s.life.saCore.getD (coreDie c) 0).getLsbD (16 * coreRow p + coreCol p)
def moverSecure (s : State) (c : Nat) : Bool :=
  let p := physOf s c
  (s.life.saMover.getD (coreDie c) 0).getLsbD (16 * coreRow p + coreCol p)

/-! ## Page-table entries (R385, R386) -/

def Pte.v (e : Pte) : Bool := e.getLsbD 0
def Pte.w (e : Pte) : Bool := e.getLsbD 1
def Pte.x (e : Pte) : Bool := e.getLsbD 2
def Pte.secure (e : Pte) : Bool := e.getLsbD 3
def Pte.ord (e : Pte) : Nat := (e.extractLsb' 4 2).toNat
def Pte.prot (e : Pte) : Nat := (e.extractLsb' 6 3).toNat
def Pte.sealed (e : Pte) : Bool := e.getLsbD 9
def Pte.uc (e : Pte) : Bool := e.getLsbD 10
def Pte.leaf (e : Pte) : Bool := e.getLsbD 12
def Pte.dev (e : Pte) : Nat := (e.extractLsb' 16 19).toNat
def Pte.dom (e : Pte) : Bool := e.getLsbD 35
def Pte.addr (e : Pte) : Nat := (e.extractLsb' 64 52).toNat

/-- Whether the entry's frame is on another device (R386). -/
def Pte.remote (e : Pte) : Bool := e.dom && e.dev != Config.deviceId.toNat

/-- The lowest address bit a level indexes, how many bits it indexes, and the alignment of the table below (R385). -/
def levelShift : Nat → Nat
  | 4 => 48 | 3 => 39 | 2 => 30 | 1 => 21 | _ => 16
def levelEntries : Nat → Nat
  | 4 => 256 | 0 => 32 | _ => 512
def tableAlign : Nat → Nat
  | 4 => 4096 | 0 => 512 | _ => 8192

/-- A valid entry that breaks R386 at its level. -/
def Pte.malformed (e : Pte) (level : Nat) : Bool :=
  e.getLsbD 11 || (e.extractLsb' 13 3) != 0 || (e.extractLsb' 36 28) != 0 || (e.extractLsb' 116 12) != 0
    || (e.leaf && decide (3 ≤ level)) || (!e.leaf && level == 0)
    || (if e.leaf then decide (e.addr % 2 ^ levelShift level ≠ 0) || (e.sealed && (e.uc || e.dom))
        else decide (e.addr % tableAlign (level - 1) ≠ 0) || (e.extractLsb' 1 11) != 0 || e.dev != 0 || e.dom)

/-- The walk from `level` down for a block of a world (R385, R388): the leaf entry with its level, or the fault of the entry it ends at. A
table outside the package's memory gives PAGE_PERMISSION (R454), as does a poisoned sector of one (R409); one that the block's world does
not reach gives SECURE_VIOLATION (R364), and one on an isolated die LINK_UNREACHABLE (R408). -/
def walkFrom (s : State) (secure : Bool) (va : Nat) : Nat → Nat → Nat → Except Cause (Pte × Nat)
  | 0, _, _ => .error .pagePermission
  | n + 1, level, base =>
    let ea := base + 16 * (va / 2 ^ levelShift level % levelEntries level)
    if !paExists ea then .error .pagePermission
    else if sealReserved s ea || (regionSecure s ea && !secure) then .error .secureViolation
    else if s.net.isolated.contains (homeDie ea) then .error .linkUnreachable
    else if Table.getD s.ms.poison false (ea / 32) then .error .pagePermission
    else
      let e : Pte := BitVec.ofNat 128 (s.ms.nat ea 16)
      if !e.v then .error .pageNotPresent
      else if e.malformed level then .error .pagePermission
      else if e.leaf then .ok (e, level)
      else walkFrom s secure va n (level - 1) e.addr

/-- The walk of a context's tables for an address (R385). -/
def walk (s : State) (c : Ctx) (secure : Bool) (va : Nat) : Except Cause (Pte × Nat) := walkFrom s secure (va % 2 ^ 56) 5 4 c.root

/-- A TLB entry that maps `va` for the context (R389). -/
def TlbEntry.hits (e : TlbEntry) (ctx : Nat) (tag : BitVec 8) (va : Nat) : Bool :=
  e.ctx == ctx && e.tag == tag && decide (e.vbase ≤ va) && decide (va < e.vbase + e.size)

/-- The leaf entry and page size that an access from `core` uses: the core's L1 TLB, its die's L2 TLB, then the walk (R389-R391). -/
def lookupLeaf (s : State) (core ctx : Nat) (secure : Bool) (va : Nat) : Except Cause (Pte × Nat × Nat) :=
  match s.ctx? ctx with
  | none => .error .pagePermission
  | some c =>
    match ((s.core core).tlb ++ Table.getD s.ms.tlb2 [] (coreDie core)).find? (fun e => e.hits ctx c.tag (va % 2 ^ 56)) with
    | some e => .ok (e.pte, e.pbase, e.size)
    | none =>
      match walk s c secure va with
      | .ok (e, level) => .ok (e, e.addr, 2 ^ levelShift level)
      | .error x => .error x

/-- What an access wants (R388). -/
inductive Want where
  | read | write | fetch
  deriving DecidableEq, Repr

/-! ## Reachability of a device (R412, R413) -/

/-- Whether Wanos port `k` can carry a stream (R413). -/
def portUp (s : State) (k : Nat) : Bool :=
  match Table.find? s.net.links (16 + k) with
  | some l => l.st == .active || l.st == .repaired || l.st == .degraded
  | none => false

/-- The candidate ports of a route entry, in index order; none for an entry with an invalid value (R413). -/
def routePorts (e : Dword) : List Nat :=
  let n := (e.extractLsb' 20 3).toNat
  let ports := (List.range n).map (fun k => (e.extractLsb' (5 * k) 5).toNat)
  let all := (List.range 4).map (fun k => (e.extractLsb' (5 * k) 5).toNat)
  if 4 < n ∨ (e.extractLsb' 23 41) ≠ 0 ∨ all.any (fun p => decide (24 ≤ p ∧ p ≤ 30)) ∨ ports.any (fun p => p == 31) then []
  else ports

/-- The ports that could carry a message to a device now (R413). -/
def livePorts (s : State) (dev : Nat) : List Nat := (routePorts (Table.getD s.net.routes 0 dev)).filter (portUp s)

def reachable (s : State) (dev : Nat) : Bool := !(livePorts s dev).isEmpty

/-! ## Seal blocks (R393-R396) -/

def SealMeta.fresh : SealMeta := ⟨0, 0, 0⟩
def State.sealMeta (s : State) (blk : Nat) : SealMeta := Table.getD s.ms.sealTab SealMeta.fresh blk
def State.setSeal (s : State) (blk : Nat) (m : SealMeta) : State :=
  { s with ms := { s.ms with sealTab := Table.setD s.ms.sealTab SealMeta.fresh blk m } }

/-- Whether a key identifier is a key of the context: its key, or during a REKEY the earlier one (R393, R397). -/
def Ctx.holdsKid (c : Ctx) (kid : Nat) : Bool := kid != 0 && (c.keyKid == kid || c.oldKids.contains kid)

/-- The seal check of an access through a sealed page (R388 order 10, R395, R396): a poisoned or failing block of a key of the context
faults; a write to a block at the last version is refused. -/
def sealCheck (s : State) (ctx pa : Nat) (wr : Bool) : Option Cause :=
  let m := s.sealMeta (pa / 4096)
  let own : Bool := match s.ctx? ctx with | some c => c.holdsKid m.kid | none => false
  if m.status = 1 then some .sealTag
  else if own ∧ m.status ≠ 0 then some .sealTag
  else if wr ∧ m.version = 2 ^ 40 - 1 then some .sealExhausted
  else none

/-- A byte read through a page (R394, R396): a sealed page gives the block's data when its key is the context's and zero otherwise; an
unsealed page gives the ciphertext of a block that is sealed. -/
def readThrough (s : State) (ctx : Nat) (e : Pte) (pa : Nat) : Byte :=
  let m := s.sealMeta (pa / 4096)
  if e.sealed then
    (if (match s.ctx? ctx with | some c => c.holdsKid m.kid | none => false) then s.ms.byte pa else 0)
  else if m.kid ≠ 0 ∧ m.status = 0 then
    Config.sealCipher m.kid (pa / 4096) m.version
      ((List.range 4096).map (fun i => (i, s.ms.byte (pa / 4096 * 4096 + i)))) (pa % 4096)
  else s.ms.byte pa

/-- The block made ready for a write through a page (R394, R396): a sealed block of another key is filled with zeros and takes the
context's key; a write through an unsealed page leaves ciphertext in memory and the tag failing. -/
def sealPrepare (s : State) (ctx : Nat) (e : Pte) (pa : Nat) : State :=
  let blk := pa / 4096
  let m := s.sealMeta blk
  if e.sealed then
    match s.ctx? ctx with
    | some c =>
      let s1 := { s with ms := { s.ms with sealHeld := Table.setD s.ms.sealHeld false blk true } }
      if c.holdsKid m.kid then s1
      else
        State.setSeal { s1 with ms := { s1.ms with mem := s1.ms.mem.filter (fun p => p.1 / 4096 != blk) } } blk
          ⟨m.version, c.keyKid, 0⟩
    | none => s
  else if m.kid ≠ 0 ∧ m.status = 0 then
    let cipher := (List.range 4096).map (fun i => readThrough s ctx e (blk * 4096 + i))
    State.setSeal { s with ms := s.ms.setBytes (blk * 4096) cipher } blk { m with status := 2 }
  else s

/-- A dirty sealed block written back whole (SEAL_WRITEBACK, R396): the version rises by one under the context's current key. -/
def State.sealWriteback (s : State) (blk : Nat) (kid : Nat) : State :=
  if Table.getD s.ms.sealHeld false blk then
    let m := s.sealMeta blk
    State.setSeal { s with ms := { s.ms with sealHeld := Table.setD s.ms.sealHeld false blk false } } blk
      { m with version := m.version + 1, kid := kid }
  else s

/-! ## The checks on an access (R388) -/

/-- Orders 2 to 10 of R388, and R454 and R409, for a byte address: the translated address, or the first failing check. -/
def translate (s : State) (core ctx : Nat) (secure : Bool) (want : Want) (va : Dword) : Except Cause Phys :=
  if va.extractLsb' 56 8 ≠ 0 then .error .pagePermission
  else
    match lookupLeaf s core ctx secure va.toNat with
    | .error x => .error x
    | .ok (e, base, size) =>
      let pa := base + va.toNat % size
      if e.ord = 3 then .error .pagePermission
      else if e.remote then
        (if (!secure && e.secure) then .error .secureViolation
         else if want = .write ∧ !e.w ∨ want = .fetch ∧ !e.x then .error .pagePermission
         else if !reachable s e.dev then .error .linkUnreachable
         else .ok ⟨pa, e⟩)
      else if !paExists pa then .error .pagePermission
      else if sealReserved s pa ∨ (regionSecure s pa ∧ !secure) ∨ regionSecure s pa ≠ e.secure then .error .secureViolation
      else if want = .write ∧ !e.w ∨ want = .fetch ∧ !e.x then .error .pagePermission
      else if 4 ≤ e.prot ∧ (s.ms.slots.getD e.prot ⟨0, none⟩).table.isNone then .error .pagePermission
      else if s.net.isolated.contains (homeDie pa) then .error .linkUnreachable
      else if want ≠ .write ∧ Table.getD s.ms.poison false (pa / 32) then .error .pagePermission
      else
        match (if e.sealed then sealCheck s ctx pa (want == .write) else none) with
        | some x => .error x
        | none => .ok ⟨pa, e⟩

/-- An access that a block's seal tag has failed is counted at the block's die (R395). -/
def State.countSeal (s : State) (core ctx : Nat) (secure : Bool) (c : Cause) (va : Dword) : State :=
  if c ≠ .sealTag then s
  else match lookupLeaf s core ctx secure va.toNat with
    | .ok (_, base, size) =>
      let pa := base + va.toNat % size
      if (s.sealMeta (pa / 4096)).status = 2 then s.countUp (0x40 + 4 * homeDie pa) else s
    | .error _ => s

/-- Translation for a floe of a core, in the core's world (R363). -/
def translateCore (s : State) (core ctx : Nat) (want : Want) (va : Dword) : Except Cause Phys :=
  translate s core ctx (coreSecure s core) want va

/-! ## Fetch (R30, R31, R239) -/

/-- The key of a word of code: its context and address. -/
def codeKey (ctx : Nat) (va : Dword) : Nat := ctx * 2 ^ 61 + va.toNat / 8

/-- A word of code as a core fetches it: from its instruction cache, else from memory (R239, log 20). -/
def coreWord (s : State) (core ctx : Nat) (p : Phys) (va : Dword) : Dword :=
  match Table.find? (s.core core).icache (codeKey ctx va) with
  | some w => w
  | none => BitVec.ofNat 64 (natOf ((List.range 8).map (fun i => readThrough s ctx p.pte (p.pa + i))))

/-- The word at an address, fetched for a floe: one it has fetched ahead, else its core's (R239); of a page on another device, the one that
has come from there (R384). A fetch in the firn window reaches no page. -/
def fetchWord (s : State) (f : Floe) (va : Dword) : Except Cause Dword :=
  match translateCore s f.core f.ctx .fetch va with
  | .error x => .error x
  | .ok p =>
    if p.pte.remote then
      match Table.find? f.far (va.toNat / 8) with
      | some w => (match w.err with | some x => .error x | none => .ok w.word)
      | none => .error .linkUnreachable
    else .ok (match Table.find? f.ibuf (codeKey f.ctx va) with | some w => w | none => coreWord s f.core f.ctx p va)

/-- The words of another device that the fetch of the instruction at `pc` needs and that have not come: its own two, and the two before it
that the operand latches rest on (R50, R384). -/
def fetchFar (s : State) (f : Floe) (pc : Dword) : List (Dword × Phys) :=
  [pc - 16, pc - 8, pc, pc + 8].filterMap (fun va => match translateCore s f.core f.ctx .fetch va with
    | .ok p => if p.pte.remote && (Table.find? f.far (va.toNat / 8)).isNone then some (va, p) else none
    | .error _ => none)

/-- A core's instruction cache takes a word of code; a floe fetches one ahead (R239). -/
def State.cacheCode (s : State) (core ctx : Nat) (va : Dword) : State :=
  match translateCore s core ctx .fetch va with
  | .ok p => if p.pte.remote ∨ va.toNat % 8 ≠ 0 then s else
      let w := BitVec.ofNat 64 (natOf ((List.range 8).map (fun i => readThrough s ctx p.pte (p.pa + i))))
      s.modCore core (fun c => { c with icache := Table.insert c.icache (codeKey ctx va) w })
  | .error _ => s

def State.fetchAhead (s : State) (h : Nat) (va : Dword) : State :=
  match s.floe? h with
  | none => s
  | some f =>
    match translateCore s f.core f.ctx .fetch va with
    | .ok p => if p.pte.remote ∨ va.toNat % 8 ≠ 0 then s else s.setFloe h { f with ibuf := Table.insert f.ibuf (codeKey f.ctx va) (coreWord s f.core f.ctx p va) }
    | .error _ => s

end Sys2Proof.Machine
end

