-- ==== Sys2Proof/Machine/Operands.lean ====
section
/-! DEFINITION. Operands and issue: what a source operand reads (R33, R34, R39), the decode checks of R56, exec (R7), and the frame
in which every F instruction runs. -/

namespace Sys2Proof.Machine

/-! ## Sources -/

/-- The value of a special source or vz (R33, R34): 64 bits for %leaf and %gtlo in a 64-bit position, else 32 bits zero-extended. -/
def specialVal (s : State) (f : Floe) (lane : Nat) (c : Code) (wide : Bool) : Nat :=
  match c.toNat with
  | 0xF0 => lane
  | 0xF1 => f.num
  | 0xF2 => f.core
  | 0xF3 => if wide then f.leaf.toNat else f.leaf.toNat % 2 ^ 32
  | 0xF4 => f.leafX.toNat
  | 0xF5 => f.leafY.toNat
  | 0xF6 => f.leafZ.toNat
  | 0xF7 => f.inst
  | 0xF8 => if wide then s.coreGt f.core else s.coreGt f.core % 2 ^ 32
  | 0xF9 => s.coreGt f.core / 2 ^ 32
  | 0xFA => (packWord s f 0).toNat
  | 0xFB => (packWord s f 1).toNat
  | 0xFC => (packWord s f 2).toNat
  | 0xFD => (packWord s f 3).toNat
  | 0xFE => s.coreClk f.core
  | _ => 0

/-- A source operand of `k` words as lane `lane` sees it, and its validity (R114, R112). A special source in a position of more than two
words, the data of a `.b128` store, reads as in a 64-bit position with zeros above: R34 gives no reading there, and this is the model's
choice (log 89). -/
def rdOp (s : State) (f : Floe) (lane : Nat) (c : Code) (k : Nat) : Nat × Bool :=
  match codeRegs c k with
  | [] => (specialVal s f lane c (decide (2 ≤ k)), true)
  | rs => s.rdGroup f lane rs

/-- The words of a field: a pair when wide. -/
def Field.words (fd : Field) : Nat := if fd.wide then 2 else 1

/-- The imm32 of an X word in the B position of an integer instruction (R39). -/
def immInt (w : FWord) (wide : Bool) : Nat :=
  match w.x with
  | none => 0
  | some x => if wide ∧ w.s.getLsbD 2 then (x.imm.signExtend 64).toNat else x.imm.toNat

/-! ## Lanes -/

/-- A lane of `exec` that nothing determines, for an instruction that acts once for the floe and reads %lane (log 22); the
instruction advances one of the counters. -/
def freeLane (s : State) (exec : Mask) : Nat :=
  let ls := maskLanes exec
  ls.getD (Config.freeLane s.fresh s.nextId % ls.length) 0

/-- The lanes whose guard is valid (R32, R111 rule 1). -/
def guardMask (s : State) (f : Floe) (g : Code) : Mask :=
  match codeRegs g 1 with
  | r :: _ => lanesMask ((List.range 32).filter (fun l => (s.rdReg f r l).v))
  | [] => 0xFFFFFFFF

/-- The floe and slot that issue, with the environment of a word of `len` bytes guarded by `g`. -/
def State.env? (s : State) (g : Code) (len : Nat) : Option Env :=
  match s.floe? s.cur.1 with
  | none => none
  | some f =>
    match f.slot s.cur.2 with
    | none => none
    | some sl => some { h := s.cur.1, b := s.cur.2, f := f, sl := sl, len := len, exec := sl.mask &&& guardMask s f g }

/-! ## Decode checks (R56 orders 4 to 7) -/

/-- The physical coordinate an X word names (R44, R16). -/
def xPhys (x : XWord) : Nat := x.coord.toNat / 16

/-- COORD names a core (R45, R47): a kind-10 COORD the issuing core's partner, and the COORD of LDR and STR a core of the issuing core's die
(R173). -/
def coordOk (s : State) (f : Floe) (sh : Shape) (w : FWord) : Bool :=
  match w.x with
  | none => true
  | some x => x.kind == 0 || (decide (xPhys x / 16 % 16 < 13) && (x.kind != 2 || xPhys x == physOf s (corePartner f.core))
      && (sh.xacc != .coord || (match logicalOf s (xPhys x) with | some c => coreDie c == coreDie f.core | none => false)))

/-- What the F word before may serve from its latches (R50): for positions A, B and C the code it names with U set, and its width in
registers. -/
def latchServed (prev : Option (FWord × Shape)) : List (Option (Code × Nat)) :=
  match prev with
  | none => [none, none, none]
  | some (w, sh) =>
    let one (u : Bool) (fd : Field) (c : Code) : Option (Code × Nat) := if u && fd.src then some (c, fd.reads.length) else none
    [one (w.u.getLsbD 2) sh.a w.a, one (w.u.getLsbD 1) sh.b w.b, one (w.u.getLsbD 0) sh.c w.c]

/-- The bank limits of R49: at most two reads from one bank, three for a word that names a 64-bit source. A register that an earlier one of
A, B and C names, as a half of a pair too, and a source the static rule R50 serves, do not count. -/
def bankOk (sh : Shape) (w : FWord) (prev : Option (FWord × Shape)) : Bool :=
  let lt := latchServed prev
  let cnt (fd : Field) (c : Code) (seen : List Reg) (latch : Option (Code × Nat)) : List Reg :=
    if !fd.src || latch == some (c, fd.reads.length) then [] else fd.reads.filter (fun r => !r.uni && !seen.contains r)
  let named (fd : Field) : List Reg := if fd.src then fd.reads else []
  let rs := (if sh.d.src then sh.d.reads.filter (fun r => !r.uni) else []) ++ cnt sh.a w.a [] (lt.getD 0 none)
    ++ cnt sh.b w.b (named sh.a) (lt.getD 1 none) ++ cnt sh.c w.c (named sh.a ++ named sh.b) (lt.getD 2 none)
  let three := (sh.a.src && sh.a.wide) || (sh.b.src && sh.b.wide) || (sh.c.src && sh.c.wide) || (sh.d.src && sh.d.wide)
  let lim := if three then 3 else 2
  decide ((rs.filter (fun r => r.n % 2 == 0)).length ≤ lim) && decide ((rs.filter (fun r => r.n % 2 == 1)).length ≤ lim)

/-- Order 7: inside the floe's allocation (R35). -/
def regsOk (f : Floe) (rs : List Reg) : Bool := rs.all (fun r => decide (r.n < if r.uni then f.wregs else f.regs))

/-- The F word before the word at `pc` in memory (R50); none after a P word or where memory gives none. -/
def prevWord (s : State) (f : Floe) (pc : Dword) : Option (FWord × Shape) :=
  match fetchWord s f (pc - 8) with
  | .error _ => none
  | .ok p =>
    if wordKind p = 3 then
      match fetchWord s f (pc - 16) with
      | .ok q => shapeOf (decode q p)
      | .error _ => none
    else if wordHasX p then none
    else shapeOf (decode p 0)

/-- The first decode check of orders 4 to 7 that the word fails (R56). -/
def decodeTrap (s : State) (e : Env) (priv : Bool) (w : FWord) (sh : Shape) : Option Cause :=
  if priv ∧ !s.isPriv e.f then some .privileged
  else if !modifierOk sh w then some .illegalModifier
  else if !(fieldsOk sh w && coordOk s e.f sh w && bankOk sh w (prevWord s e.f e.sl.pc)) then some .illegalOperands
  else if !regsOk e.f (namedRegs sh w) then some .registerRange
  else none

/-- The bytes an F word takes (R31). -/
def wordLen (w : FWord) : Nat := if w.x.isSome then 16 else 8

/-- Issue of an F instruction by the floe and slot of `cur`: the decode checks, then its body, then retirement. A decode trap concerns
the slot's active mask (R370). -/
def issueF (i : Instr) (body : FWord → Shape → Env → State → Res) (s : State) : Host.Outcome State Fault Refusal :=
  match shapeOf i with
  | none => .next s
  | some (w, sh) =>
    match s.env? w.g (wordLen w) with
    | none => .fault .noIssuer
    | some e =>
      match decodeTrap s e (privOf i) w sh with
      | some c => .next (State.retire e [] false (.trap { cause := c, lanes := e.sl.mask } s))
      | none => .next (State.retire e (latchesOf s e.f w sh) (sh.hint && (w.y == 1 || w.y == 2)) (body w sh e s))

/-! ## The common frame of classes 0 to 4 (R114) -/

/-- The lanes that compute: once for the floe when D is uniform (R37), else every lane of exec. -/
def computeLanes (w : FWord) (e : Env) : List Nat := if Code.isUni w.d then (maskLanes e.exec).take 1 else maskLanes e.exec

/-- The sources A, B and C of one lane; none when some word of them has V = 0 (R111 rule 2). `imm` is B's value under an X word. -/
def laneSrcs (s : State) (w : FWord) (sh : Shape) (e : Env) (imm : Nat) (lane : Nat) : Option (Nat × Nat × Nat) :=
  let a := if sh.a.src then rdOp s e.f lane w.a sh.a.words else (0, true)
  let b := if sh.b.src then rdOp s e.f lane w.b sh.b.words else (imm, true)
  let c := if sh.c.src then rdOp s e.f lane w.c sh.c.words else (0, true)
  if a.2 && b.2 && c.2 then some (a.1, b.1, c.1) else none

/-- Results written to D lane by lane, a lane with none invalidated (R114). -/
def writeLanes (f : Floe) (regs : List Reg) : List (Nat × Option Nat) → State → State
  | [], s => s
  | (l, some v) :: t, s => writeLanes f regs t (s.wrGroup f l true regs v)
  | (l, none) :: t, s => writeLanes f regs t (s.wrGroup f l false regs 0)

/-- Flags ORed into %fpflags (R102). -/
def State.orFlags (s : State) (h : Nat) (x : Fx) : State := s.modFloe h (fun f => { f with fpflags := f.fpflags ||| x.bits })

end Sys2Proof.Machine
end

