-- ==== Sys2Proof/Machine/Flags.lean ====
section
/-! DEFINITION. Flags and FP traps (R101, R102), and the end of a lane-wise instruction: results written, or none of them. -/

namespace Sys2Proof.Machine

/-- The enabled condition of lowest cause code that `x` raises under the trap enables of %fpflags (R101, R102). -/
def fpTrap (fpflags : Word) (x : Fx) : Option Cause :=
  if x.nv ∧ fpflags.getLsbD 8 then some .fpInvalid
  else if x.ofInf ∧ fpflags.getLsbD 9 then some .fpOverflow
  else if x.dz ∧ fpflags.getLsbD 10 then some .fpDivzero
  else none

/-- The lane results of one instruction: none for an invalidated lane, else the value and its conditions. -/
abbrev LaneResults := List (Nat × Option (Nat × Fx))

/-- The conditions of all lanes (R102). -/
def allFx (rs : LaneResults) : Fx :=
  rs.foldl (fun x r => match r.2 with | some v => x.or v.2 | none => x) Fx.none

/-- The lanes in which an enabled condition arose; exec for an instruction computed once for the floe (R102; log 21). -/
def trapLanes (fpflags : Word) (w : FWord) (exec : Mask) (rs : LaneResults) : Mask :=
  if Code.isUni w.d then exec
  else lanesMask ((rs.filter (fun r => match r.2 with | some v => (fpTrap fpflags v.2).isSome | none => false)).map Prod.fst)

/-- The end of a lane-wise instruction (R102, R114): flags ORed; with an enabled condition the trap and no write, else every lane's
result, or its V cleared. `half` marks half 1 of a pair. -/
def finishLanes (w : FWord) (regs : List Reg) (e : Env) (half : Bool) (rs : LaneResults) (s : State) : Res :=
  let x := allFx rs
  let s1 := s.orFlags e.h x
  match fpTrap e.f.fpflags x with
  | some c => .trap { cause := c, half := half, lanes := trapLanes e.f.fpflags w e.exec rs } s1
  | none => .done (writeLanes e.f regs (rs.map (fun r => (r.1, r.2.map Prod.fst))) s1)

/-- The body of an instruction whose lanes compute `op a b c` each on its own (R114). -/
def laneBody (imm : Nat) (op : Nat → Nat → Nat → Nat × Fx) (w : FWord) (sh : Shape) (e : Env) (s : State) : Res :=
  finishLanes w sh.d.writes e false
    ((computeLanes w e).map (fun l => (l, (laneSrcs s w sh e imm l).map (fun v => op v.1 v.2.1 v.2.2)))) s

end Sys2Proof.Machine
end

