-- ==== Sys2Proof/Machine/Int.lean ====
section
/-! DEFINITION. Class 0, the integer instructions (R117-R119): one result function per instruction on the operands' bits, all run in
the common frame. -/

namespace Sys2Proof.Machine

/-- Operand width: 64 under .W (R117). -/
def intW (w : FWord) : Nat := if isW w then 64 else 32

/-- `iv(x)`: the value of the low `n` bits, signed when `sg` (R118). -/
def ival (n : Nat) (sg : Bool) (x : Nat) : Int :=
  let u := x % 2 ^ n
  if sg ∧ 2 ^ (n - 1) ≤ u then (u : Int) - (2 ^ n : Nat) else (u : Int)

/-- An integer as `n` bits. -/
def wrapBits (n : Nat) (x : Int) : Nat := (x % ((2 ^ n : Nat) : Int)).toNat

/-- The bounds of the `n`-bit format (R83). -/
def intLo (n : Nat) (sg : Bool) : Int := if sg then -((2 ^ (n - 1) : Nat) : Int) else 0
def intHi (n : Nat) (sg : Bool) : Int := if sg then ((2 ^ (n - 1) : Nat) : Int) - 1 else ((2 ^ n : Nat) : Int) - 1

/-- `fit(x)` (R118): saturated under .SAT, raising SAT when it changes x, else wrapped. -/
def fit (n : Nat) (sg sat : Bool) (x : Int) : Nat × Fx :=
  if sat then
    let r := saturate x (intLo n sg) (intHi n sg)
    (wrapBits n r.1, { Fx.none with sat := r.2 })
  else (wrapBits n x, Fx.none)

/-- A result with no flag. -/
def plain (x : Nat) : Nat × Fx := (x, Fx.none)

/-- S[5] and S[3] of an integer instruction. -/
def sSigned (w : FWord) : Bool := w.s.getLsbD 2
def sSat (w : FWord) : Bool := w.s.getLsbD 0

/-- `fit` at the word's own width, signedness and saturation. -/
def fitW (w : FWord) (x : Int) : Nat × Fx := fit (intW w) (sSigned w) (sSat w) x

/-- `iv` at the word's own width and signedness. -/
def ivW (w : FWord) (x : Nat) : Int := ival (intW w) (sSigned w) x

/-! ## Results (R118) -/

def opMov (w : FWord) (a _b _c : Nat) : Nat × Fx := plain (a % 2 ^ intW w)
def opIadd (w : FWord) (a b _c : Nat) : Nat × Fx := fitW w (ivW w a + ivW w b)
def opIsub (w : FWord) (a b _c : Nat) : Nat × Fx := fitW w (ivW w a - ivW w b)
def opImul (w : FWord) (a b _c : Nat) : Nat × Fx := fitW w (ivW w a * ivW w b)
def opImulh (w : FWord) (a b _c : Nat) : Nat × Fx := plain (wrapBits (intW w) (ivW w a * ivW w b / ((2 ^ intW w : Nat) : Int)))
def opImad (w : FWord) (a b c : Nat) : Nat × Fx := fitW w (ivW w a * ivW w b + ivW w c)
def opImadw (w : FWord) (a b c : Nat) : Nat × Fx :=
  fit 64 (sSigned w) (sSat w) (ival 32 (sSigned w) a * ival 32 (sSigned w) b + ival 64 (sSigned w) c)
def opImin (w : FWord) (a b _c : Nat) : Nat × Fx := plain (wrapBits (intW w) (min (ivW w a) (ivW w b)))
def opImax (w : FWord) (a b _c : Nat) : Nat × Fx := plain (wrapBits (intW w) (max (ivW w a) (ivW w b)))
def opIabs (w : FWord) (a _b _c : Nat) : Nat × Fx := fit (intW w) true (sSat w) ((ival (intW w) true a).natAbs : Int)

/-! ## Logic, shifts and bit fields (R119) -/

/-- The bitwise function of an 8-entry table over `n` bits. -/
def ltabBits (table a b c : Nat) : Nat → Nat
  | 0 => 0
  | n + 1 =>
    ltabBits table a b c n
      + (if table.testBit ((if a.testBit n then 1 else 0) + (if b.testBit n then 2 else 0) + (if c.testBit n then 4 else 0))
         then 2 ^ n else 0)

/-- The truth table of LTAB: IMM[7:0]. -/
def ltabTable (w : FWord) : Nat := match w.x with | some x => x.imm.toNat % 256 | none => 0

def opLtab (w : FWord) (a b c : Nat) : Nat × Fx := plain (ltabBits (ltabTable w) a b c (intW w))
def opAnd (_w : FWord) (a b _c : Nat) : Nat × Fx := plain (a &&& b)
def opOr (_w : FWord) (a b _c : Nat) : Nat × Fx := plain (a ||| b)
def opXor (_w : FWord) (a b _c : Nat) : Nat × Fx := plain (a ^^^ b)
def opShl (w : FWord) (a b _c : Nat) : Nat × Fx := plain (if intW w ≤ b then 0 else a * 2 ^ b % 2 ^ intW w)
def opShr (w : FWord) (a b _c : Nat) : Nat × Fx := plain (if intW w ≤ b then 0 else a / 2 ^ b)
def opSar (w : FWord) (a b _c : Nat) : Nat × Fx :=
  plain (wrapBits (intW w) (ival (intW w) true a / ((2 ^ min b (intW w) : Nat) : Int)))
def opShf (w : FWord) (a b c : Nat) : Nat × Fx :=
  let n := min c 32
  let f := b * 2 ^ 32 + a
  plain (if w.m.getLsbD 0 then f / 2 ^ n % 2 ^ 32 else f * 2 ^ n % 2 ^ 64 / 2 ^ 32)
def opBfe (w : FWord) (a b _c : Nat) : Nat × Fx :=
  let n := intW w
  let p := min (b % 256) n
  let k := min (b / 256 % 256) n
  let x := wrapBits k (ivW w a / ((2 ^ p : Nat) : Int))
  plain (if k = 0 then 0 else if sSigned w then wrapBits n (ival k true x) else x)
def opBfi (w : FWord) (a b c : Nat) : Nat × Fx :=
  let n := intW w
  let p := min (b % 256) n
  let k := min (b / 256 % 256) n
  let m := (2 ^ k - 1) * 2 ^ p % 2 ^ n
  plain ((c &&& (2 ^ n - 1 - m)) ||| (a * 2 ^ p % 2 ^ n &&& m))

/-- Number of ones in the low `n` bits. -/
def popBits (x : Nat) : Nat → Nat
  | 0 => 0
  | n + 1 => popBits x n + (if x.testBit n then 1 else 0)

/-- The low `n` bits reversed: bit `i` of the result is bit `n - 1 - i`. -/
def revBits (x : Nat) : Nat → Nat
  | 0 => 0
  | n + 1 => revBits (x / 2) n + (if x.testBit 0 then 2 ^ n else 0)

def opPopc (w : FWord) (a _b _c : Nat) : Nat × Fx := plain (popBits a (intW w))
def opClz (w : FWord) (a _b _c : Nat) : Nat × Fx := plain (if a = 0 then intW w else intW w - 1 - Nat.log2 a)
def opBrev (w : FWord) (a _b _c : Nat) : Nat × Fx := plain (revBits a (intW w))
def opLea (w : FWord) (a b _c : Nat) : Nat × Fx :=
  let sh := w.c.toNat
  if isW w then plain (wrapBits 64 ((a : Int) + ival 32 (sSigned w) b * ((2 ^ sh : Nat) : Int)))
  else plain ((a + b * 2 ^ sh) % 2 ^ 32)

/-- Runs an integer result function in the common frame; B's X-word value is extended as S[5] says where B is 64-bit (R39). -/
def intBody (op : FWord → Nat → Nat → Nat → Nat × Fx) (w : FWord) (sh : Shape) (e : Env) (s : State) : Res :=
  laneBody (immInt w sh.b.wide) (op w) w sh e s

/-- MOVI's value: the imm32, sign- or zero-extended to the width (R118). -/
def opMovi (w : FWord) (_a _b _c : Nat) : Nat × Fx := plain (immInt w (isW w))

/-- MOV (R118). -/
def execMov (w : FWord) (s : State) : Host.Outcome State Fault Refusal := issueF (.mov w) (intBody opMov) s

/-- MOVI (R118). -/
def execMovi (w : FWord) (s : State) : Host.Outcome State Fault Refusal := issueF (.movi w) (intBody opMovi) s

/-- IADD (R118). -/
def execIadd (w : FWord) (s : State) : Host.Outcome State Fault Refusal := issueF (.iadd w) (intBody opIadd) s

/-- ISUB (R118). -/
def execIsub (w : FWord) (s : State) : Host.Outcome State Fault Refusal := issueF (.isub w) (intBody opIsub) s

/-- IMUL (R118). -/
def execImul (w : FWord) (s : State) : Host.Outcome State Fault Refusal := issueF (.imul w) (intBody opImul) s

/-- IMULH (R118). -/
def execImulh (w : FWord) (s : State) : Host.Outcome State Fault Refusal := issueF (.imulh w) (intBody opImulh) s

/-- IMAD (R118). -/
def execImad (w : FWord) (s : State) : Host.Outcome State Fault Refusal := issueF (.imad w) (intBody opImad) s

/-- IMADW (R118). -/
def execImadw (w : FWord) (s : State) : Host.Outcome State Fault Refusal := issueF (.imadw w) (intBody opImadw) s

/-- IMIN (R118). -/
def execImin (w : FWord) (s : State) : Host.Outcome State Fault Refusal := issueF (.imin w) (intBody opImin) s

/-- IMAX (R118). -/
def execImax (w : FWord) (s : State) : Host.Outcome State Fault Refusal := issueF (.imax w) (intBody opImax) s

/-- IABS (R118). -/
def execIabs (w : FWord) (s : State) : Host.Outcome State Fault Refusal := issueF (.iabs w) (intBody opIabs) s

/-- LTAB (R119). -/
def execLtab (w : FWord) (s : State) : Host.Outcome State Fault Refusal := issueF (.ltab w) (intBody opLtab) s

/-- AND (R119). -/
def execAnd (w : FWord) (s : State) : Host.Outcome State Fault Refusal := issueF (.and w) (intBody opAnd) s

/-- OR (R119). -/
def execOr (w : FWord) (s : State) : Host.Outcome State Fault Refusal := issueF (.or w) (intBody opOr) s

/-- XOR (R119). -/
def execXor (w : FWord) (s : State) : Host.Outcome State Fault Refusal := issueF (.xor w) (intBody opXor) s

/-- SHL (R119). -/
def execShl (w : FWord) (s : State) : Host.Outcome State Fault Refusal := issueF (.shl w) (intBody opShl) s

/-- SHR (R119). -/
def execShr (w : FWord) (s : State) : Host.Outcome State Fault Refusal := issueF (.shr w) (intBody opShr) s

/-- SAR (R119). -/
def execSar (w : FWord) (s : State) : Host.Outcome State Fault Refusal := issueF (.sar w) (intBody opSar) s

/-- SHF (R119). -/
def execShf (w : FWord) (s : State) : Host.Outcome State Fault Refusal := issueF (.shf w) (intBody opShf) s

/-- BFE (R119). -/
def execBfe (w : FWord) (s : State) : Host.Outcome State Fault Refusal := issueF (.bfe w) (intBody opBfe) s

/-- BFI (R119). -/
def execBfi (w : FWord) (s : State) : Host.Outcome State Fault Refusal := issueF (.bfi w) (intBody opBfi) s

/-- POPC (R119). -/
def execPopc (w : FWord) (s : State) : Host.Outcome State Fault Refusal := issueF (.popc w) (intBody opPopc) s

/-- CLZ (R119). -/
def execClz (w : FWord) (s : State) : Host.Outcome State Fault Refusal := issueF (.clz w) (intBody opClz) s

/-- BREV (R119). -/
def execBrev (w : FWord) (s : State) : Host.Outcome State Fault Refusal := issueF (.brev w) (intBody opBrev) s

/-- LEA (R119). -/
def execLea (w : FWord) (s : State) : Host.Outcome State Fault Refusal := issueF (.lea w) (intBody opLea) s

end Sys2Proof.Machine
end

