-- ==== Sys2Proof/Machine/Retire.lean ====
section
/-! DEFINITION. The end of a floe (R137, R160): what last_exit and kill do to its packs, colours, matrix context, copy groups and
transfers; and the counters of a floe (R174, R180). -/

namespace Sys2Proof.Machine

/-! ## Outstanding operations -/

/-- The operations of a floe that have not ended, in issue order. -/
def State.opsOf (s : State) (h : Nat) : List Nat := Table.keys (Table.keep s.ops (fun _ o => o.floe == h))

/-- Those that store, or write memory as an atomic does. -/
def Op.writes (o : Op) : Bool :=
  (o.isSt && o.kind != .unlock) || (match o.kind with | .atomic _ _ => true | .alloc => true | _ => false)
def State.storesOf (s : State) (h : Nat) : List Nat := Table.keys (Table.keep s.ops (fun _ o => o.floe == h && o.writes))

/-- Whether every operation and copy of a list has ended. -/
def State.ended (s : State) (ids : List Nat) : Bool := ids.all (fun i => (Table.find? s.ops i).isNone && (Table.find? s.copies i).isNone)

/-- Whether an operation that has not ended is a write performed at a scope (R222, R225): at CORE once the readers of its core get its bytes,
up to DIE once every byte lies at the slice of its own die; a wider scope takes its end. -/
def Op.performedAt (o : Op) (scope : Nat) : Bool :=
  let plain : Bool := match o.kind with | .store => true | .compress _ => true | _ => false
  let near : Bool := o.lanes.all (fun la => la.done && (match la.place with | some (.mem p) => p.pa / 2 ^ 39 % 4 == coreDie o.core | _ => true))
  plain && (decide (scope ≤ 1) || (scope == 2 && o.vis) || (decide (scope ≤ 4) && near))

/-- Whether every one of some operations is performed at a scope (R227). -/
def State.endedAt (s : State) (scope : Nat) (ids : List Nat) : Bool :=
  ids.all (fun i => match Table.find? s.ops i with
    | some o => o.performedAt scope
    | none => (Table.find? s.copies i).isNone)

/-! ## Copy groups (R180) -/

/-- Committed groups whose copies have all completed fall away in commit order. -/
def settleGroups (g : List (List Nat)) : List (List Nat) := g.dropWhile List.isEmpty

/-- cp: the committed groups that are not complete (R174). -/
def Floe.cp (f : Floe) : Nat := f.groups.length

/-- CPCOMMIT's effect: the open group, empty where none is open, joins the committed ones. -/
def Floe.commit (f : Floe) : Floe := { f with groups := settleGroups (f.groups ++ [f.openGroup.getD []]), openGroup := none, openCount := 0 }

/-- A copy leaves its group. -/
def Floe.copyDone (f : Floe) (id : Nat) : Floe :=
  { f with openGroup := f.openGroup.map (fun g => g.filter (· != id)), groups := settleGroups (f.groups.map (fun g => g.filter (· != id))) }

/-! ## Arrival counters (R174) -/

def Counter.out (c : Counter) : Nat := (c.issued - c.arrived).toNat
def Floe.ac (f : Floe) (k : Nat) : Counter := f.acs.getD k ⟨0, 0⟩
def Floe.setAc (f : Floe) (k : Nat) (c : Counter) : Floe := { f with acs := f.acs.set k c }
def Floe.acIssue (f : Floe) (k : Nat) : Floe := f.setAc k { f.ac k with issued := (f.ac k).issued + 1 }
/-- An arrival counter rid of a transfer that is ABANDONED: it is not counted any more, and nothing has arrived (R166, R187). -/
def Floe.acForget (f : Floe) (k : Nat) : Floe := f.setAc k { f.ac k with issued := (f.ac k).issued - 1 }
def Floe.acArrive (f : Floe) (k : Nat) : Floe := f.setAc k { f.ac k with arrived := (f.ac k).arrived + 1 }

/-- An EVWAIT counts in ld until its count returns, where it has a destination, and else in st until it is performed at the table (R324). -/
def Floe.evCount (f : Floe) (d : Code) : Floe := if d = 0xFF then { f with st := f.st + 1 } else { f with ld := f.ld + 1 }
def Floe.evReturned (f : Floe) (d : Code) : Floe := if d = 0xFF then f else { f with ld := f.ld - 1 }
def Floe.evPerformed (f : Floe) : Floe := match f.wait with | some (.event _ _ d _) => if d = 0xFF then { f with st := f.st - 1 } else f | _ => f

/-- Whether the class counter of an operation can take no more (R174). -/
def Floe.classFull (f : Floe) (o : Op) : Bool := o.counted && decide (1023 ≤ (if o.isSt then f.st else f.ld))

/-- An operation leaves its class counter, its arrival counter advances (R166, R174), and no operand latch serves its destination (R51). -/
def Floe.opCounted (f0 : Floe) (o : Op) : Floe :=
  let f := f0.unlatch o.d
  let g := if o.counted then (if o.isSt then { f with st := f.st - 1 } else { f with ld := f.ld - 1 }) else f
  match o.ac with
  | some k => g.acArrive k
  | none => g

/-- Whether an operation's floe still holds the allocation that issued it (R115). -/
def State.tagLive (s : State) (o : Op) : Bool :=
  match s.floe? o.floe with
  | some f => f.tag == o.tag && f.state != .retired && f.state != .saved
  | none => false

/-- An operation ends: it leaves the machine, and its floe's counters where the allocation is live. -/
def State.endOp (s : State) (id : Nat) (o : Op) : State :=
  let s1 := { s with ops := Table.erase s.ops id }
  if s.tagLive o then s1.modFloe o.floe (fun f => f.opCounted o) else s1

/-- A return whose tag does not match is dropped and counted (R115). -/
def State.dropReturn (s : State) (id : Nat) (o : Op) : State :=
  State.modCore { s with ops := Table.erase s.ops id } o.core (fun c => { c with dropped := satInc c.dropped })

/-! ## Matrix contexts (R242, R245, R265) -/

/-- A held context, and its slaved partner, to DRAINING (R265), or to FREE with nothing kept (R245). -/
def State.releaseMx (s : State) (h core : Nat) (discard : Bool) : State :=
  match s.heldMx h core with
  | none => s
  | some m =>
    let x := s.matrix core m
    let y : Matrix → Matrix := fun z => if discard then Matrix.fresh else { z with st := .draining }
    let s1 := s.setMatrix core m (y x)
    if x.pair then s1.setMatrix (corePartner core) m (y (s1.matrix (corePartner core) m)) else s1

/-! ## Scratch (R317, R366) -/

/-- The words of a run of a core's firn, numbered from 0, and the machine without them. -/
def State.takeWords (s : State) (core first n : Nat) : Table FirnWord × State :=
  let lo := firnKey core first
  let inside (k : Nat) : Bool := decide (lo ≤ k) && decide (k < lo + n)
  (List.map (fun (p : Nat × FirnWord) => (p.1 - lo, p.2)) (Table.keep s.firn (fun k _ => inside k)), { s with firn := Table.keep s.firn (fun k _ => !inside k) })

/-- Words put back from a word of a core's firn on. -/
def State.putWords (s : State) (core first : Nat) (t : Table FirnWord) : State :=
  List.foldl (fun (u : State) (p : Nat × FirnWord) => u.setFirn core (first + p.1) p.2) s t

/-- Whether a scratch region of a core is in use: a floe of its instance is on the core, or an operation, copy or tile operation of one that
was there has not ended (R265). -/
def scratchUsed (s : State) (core : Nat) (r : Region) : Bool :=
  let tile (c m : Nat) : Bool := (s.matrix c m).ops.any (fun o => o.ctx == r.ctx && o.inst == r.inst)
  (Table.search s.floes (fun _ f => f.core == core && f.ctx == r.ctx && f.inst == r.inst && f.resident)).isSome
    || (Table.search s.ops (fun _ o => o.core == core && o.ctx == r.ctx && o.inst == r.inst)).isSome
    || (Table.search s.copies (fun _ c => c.core == core && c.ctx == r.ctx && c.inst == r.inst && !c.savedIn)).isSome
    || (List.range 2).any (fun m => tile core m || tile (corePartner core) m)

/-- A region that is out of use is given up; where floes of its group are SAVED its words go with them, once for the instance and core. -/
def State.dropRegion (core : Nat) (s : State) (r : Region) : State :=
  if scratchUsed s core r then s
  else
    let t := s.modCore core (fun c => { c with scratch := c.scratch.erase r })
    if (Table.search s.floes (fun _ f => f.core == core && f.ctx == r.ctx && f.inst == r.inst && f.state == .saved)).isSome then
      t.modInst r.ctx r.inst (fun i => { i with savedScratch := Table.insert i.savedScratch core (t.takeWords core (4096 * r.start) (4096 * r.steps)).1 })
    else t

/-- A core has scratch only for instances with floes on it (R317). -/
def State.settleScratch (s : State) (core : Nat) : State := (s.core core).scratch.foldl (State.dropRegion core) s

/-- The same of every core. -/
def State.settleAll (s : State) : State := (Table.keys s.cores).foldl State.settleScratch s

/-! ## Leaving packs (R344, R352) -/

/-- An arrival sent to the tree. -/
def Colour.send (c : Colour) (a : Arrival) : Colour := { c with sent := c.sent ++ [a] }

/-- One pack left for good; a leave of a bound pack at last_exit goes to the barrier tree after the floe's stores (R353), writes of others that it
has read among them (R227), and after its own arrival (R352). -/
def State.leavePack (s : State) (f : Floe) (h : Nat) (p : Pack) : State :=
  if s.hasLeft f.ctx f.inst p.id f.num then s
  else
    let s1 := s.modInst f.ctx f.inst (fun i => { i with gone := i.gone ++ [(p.id, f.num)] })
    match (s.inst? f.ctx f.inst).bind (fun i => i.barPart) with
    | some bp =>
      if p.bound then
        match s1.colour? bp p.colour with
        | some c =>
          s1.setColour bp p.colour (c.send
            { num := f.num, cluster := clusterOf f.core, tag := Table.getD f.barPhase false p.colour, arr := !Table.getD f.barPending false p.colour,
              leave := true, exit := true, gt := s.gt, reached := none,
              after := s.storesOf h ++ f.seen ++ (c.sent.filter (fun a => a.num == f.num)).flatMap (fun a => a.after) })
        | none => s1
      else s1
    | none => s1

/-- Every pack of a floe left. -/
def State.leaveAll (s : State) (f : Floe) (h : Nat) : State :=
  ((s.kernel f.ctx f.kernel).packsOf f.num).foldl (fun t p => t.leavePack f h p) s

/-- A floe leaves every wait list (R321, R243); the page it was moving stays where it is, its lock gone (R392). -/
def State.unlist (s : State) (f : Floe) (h : Nat) : State :=
  let s1 := { s with ms := { s.ms with migrations := s.ms.migrations.filter (fun m => m.floe != h) }, events := Table.map s.events (fun k e =>
    if k / 65536 = f.ctx then { e with waiters := e.waiters.filter (fun w => match w with | .floe g _ => g != h | _ => true) } else e) }
  (s1.modCtx f.ctx (fun c => { c with evOps := c.evOps.filter (fun o => !((o.kind == 1 || o.kind == 3) && o.floe == some h)) })).modCore f.core (fun c =>
    { c with mxWait := c.mxWait.filter (· != h) })

/-- What a floe that leaves a wait unfinished leaves behind: its places in wait lists and its unaccepted record. -/
def State.abandonWait (s : State) (f : Floe) (h : Nat) : State :=
  let s1 := s.unlist f h
  match f.wait with
  | some (.enq op) =>
    let s2 := { s1 with enqs := s1.enqs.filter (fun q => q.op != some op) }
    (match Table.find? s.ops op with | some o => s2.endOp op o | none => s2)
  | some (.event _ _ d _) =>
    let sent : Bool := match s.ctx? f.ctx with | some c => c.evOps.any (fun o => o.floe == some h && (o.kind == 1 || o.kind == 3)) | none => false
    s1.modFloe h (fun g => (if sent then g.evPerformed else g).evReturned d)
  | _ => s1

/-- A halted core that has no floe left enters retention sleep (R379, R202). -/
def State.sleepCore (s : State) (core : Nat) : State :=
  if (s.core core).halted && (s.core core).sleepGt.isNone && (Table.search s.floes (fun _ f => f.core == core && f.resident)).isNone then
    s.modCore core (fun c => { c with sleepGt := some (s.coreGt core) })
  else s

/-- last_exit, and kill where `kill` (R137, R160): the floe becomes RETIRED. A killed floe's faulted transfers are DROPPED; transfers
whose requests have left the core proceed, and their returns are dropped (R115). Scratch that it was the last to use on its core is given
up (R317). -/
def State.floeEnd (s : State) (h : Nat) (kill : Bool) : State :=
  match s.floe? h with
  | none => s
  | some f =>
    let s1 := (s.leaveAll f h).releaseMx h f.core kill
    let s2 := s1.unlist f h
    let s3 := if kill then { s2 with ops := Table.keep s2.ops (fun _ o => !(o.floe == h && o.state == .faulted)) } else s2
    ((s3.setFloe h { (if f.openGroup.isSome then f.commit else f) with
      state := .retired, s0 := none, s1 := none, parked := 0, stack := [], wait := none, frame := none, susp := none, preempt := false,
      pendingTraps := [], savedRegs := [], savedMx := none }).settleScratch f.core).sleepCore f.core

end Sys2Proof.Machine
end

