-- ==== Sys2Proof/Machine/Ctl.lean ====
section
/-! DEFINITION. Class 5, SETROLE and SETMODE (R154-R165), TRAP, BRK, SVC and TRAPRET (R374, R375, R377). -/

namespace Sys2Proof.Machine

/-! ## Divergence (R147) -/

/-- A branch of the slot's lanes to groups of (PC, mask), in the order of R147: not divergent with one group; else a JOIN entry where a
join is given, the first group in the slot, the second in the other slot where FREE, the rest as PATH entries. None when the stack
would exceed its capacity (R145). -/
def Floe.diverge (f : Floe) (b : Bool) (sl : Slot) (join : Option Dword) (groups : List (Dword × Mask)) : Option Floe :=
  match groups with
  | [] => some f
  | [g] => some (f.goto b g.1 (some sl.pc))
  | g0 :: g1 :: rest =>
    let otherFree := f.takes (!b)
    let paths := if otherFree then rest else g1 :: rest
    let need := paths.length + (if join.isSome then 1 else 0)
    if f.spillCap < f.stack.length + need then none
    else
      let base : List StackEntry := match join with
        | some j => ⟨.join, j, sl.mask, sl.rpc, some sl.pc⟩ :: f.stack
        | none => f.stack
      let entries : List StackEntry := paths.map (fun g => ⟨.path, g.1, g.2, join, some sl.pc⟩)
      let f1 := { f with stack := entries ++ base }.setSlot b (some ⟨g0.1, g0.2, join, some sl.pc⟩)
      some (if otherFree then f1.setSlot (!b) (some ⟨g1.1, g1.2, join, some sl.pc⟩) else f1)

/-- A branch made by the issuing floe, or STACK_LIMIT. -/
def branch (e : Env) (join : Option Dword) (groups : List (Dword × Mask)) (s : State) : Res :=
  match e.f.diverge e.b e.sl join groups with
  | some f => .jump (s.modFloe e.h (fun _ => f))
  | none => .trap { cause := .stackLimit, lanes := e.exec } s

/-- A PC-relative address: the F word's plus 8 times a signed word offset (R40). -/
def relTarget (e : Env) (off : Int) : Dword := e.sl.pc + BitVec.ofInt 64 (8 * off)

/-- The signed 24-bit offset of BR and CALL (R40). -/
def brOffset (w : FWord) : Int := (w.a ++ w.b ++ w.c : BitVec 24).toInt

/-- The join of a branch, from the X word (R40). -/
def joinOf (w : FWord) (e : Env) : Option Dword := w.x.map (fun x => relTarget e x.imm.toInt)

/-- NOP (R155). -/
def nopBody (_w : FWord) (_sh : Shape) (_e : Env) (s : State) : Res := .done s

/-- BR (R156). A branch whose lanes all go one way is not divergent. -/
def brBody (w : FWord) (_sh : Shape) (e : Env) (s : State) : Res :=
  let target := relTarget e (brOffset w)
  let fall := e.sl.mask &&& ~~~e.exec
  if e.exec = 0 then .done s
  else if fall = 0 ∨ target = e.next then branch e none [(target, e.sl.mask)] s
  else branch e (joinOf w e) [(e.next, fall), (target, e.exec)] s

/-- A lane joins the group of its PC; groups stand in ascending PC (R147). -/
def addGroup (pc : Dword) (l : Nat) : List (Dword × Mask) → List (Dword × Mask)
  | [] => [(pc, lanesMask [l])]
  | g :: t =>
    if g.1 = pc then (g.1, g.2 ||| lanesMask [l]) :: t
    else if pc.toNat < g.1.toNat then (pc, lanesMask [l]) :: g :: t
    else g :: addGroup pc l t

/-- BRX (R157). -/
def brxBody (w : FWord) (_sh : Shape) (e : Env) (s : State) : Res :=
  let target (l : Nat) : Dword :=
    if e.exec.getLsbD l then (let p := rdOp s e.f l w.a 2; if p.2 then BitVec.ofNat 64 p.1 else e.next) else e.next
  let bad := (maskLanes e.exec).filter (fun l => (target l).toNat % 8 ≠ 0)
  if e.exec = 0 then .done s
  else if !bad.isEmpty then .trap { cause := .misalignedTarget, lanes := lanesMask bad } s
  else branch e (joinOf w e) ((maskLanes e.sl.mask).foldl (fun g l => addGroup (target l) l g) []) s

/-- JMP (R158). -/
def jmpBody (w : FWord) (_sh : Shape) (e : Env) (s : State) : Res :=
  let p := rdOp s e.f 0 w.a 2
  if e.exec = 0 ∨ p.2 = false then .done s
  else if p.1 % 8 ≠ 0 then .trap { cause := .misalignedTarget, lanes := e.exec } s
  else .jump (s.modFloe e.h (fun f => f.goto e.b (BitVec.ofNat 64 p.1) (some e.sl.pc)))

/-- CALL (R159): the return address is the F word plus 8. -/
def callBody (w : FWord) (_sh : Shape) (e : Env) (s : State) : Res :=
  if e.exec = 0 then .done s
  else if e.f.spillCap < e.f.stack.length + 1 then .trap { cause := .stackLimit, lanes := e.exec } s
  else .jump (s.modFloe e.h (fun f =>
    { f with stack := ⟨.call, e.sl.pc + 8, e.sl.mask, e.sl.rpc, some e.sl.pc⟩ :: f.stack }.setSlot e.b
      (some ⟨relTarget e (brOffset w), e.sl.mask, none, some e.sl.pc⟩)))

/-- The stack after a RET of `m`: lanes removed from the entries above the topmost CALL that holds them all; none when there is no such
CALL (R159, R148). The CALL remembers the returning word (R46). -/
def retStack (m : Mask) (pc : Dword) : List StackEntry → Option (List StackEntry)
  | [] => none
  | x :: t =>
    if x.kind = .call ∧ m &&& x.mask = m then some ({ x with via := some pc } :: t)
    else match retStack m pc t with
      | some r => some (stackRemove m [x] ++ r)
      | none => none

/-- A slot without some of its lanes; FREE when none is left (R148). -/
def Floe.dropLanes (f : Floe) (b : Bool) (m : Mask) : Floe :=
  match f.slot b with
  | some sl => f.setSlot b (if sl.mask &&& ~~~m = 0 then none else some { sl with mask := sl.mask &&& ~~~m })
  | none => f

/-- RET (R159). -/
def retBody (_w : FWord) (_sh : Shape) (e : Env) (s : State) : Res :=
  if e.exec = 0 then .done s
  else match retStack e.exec e.sl.pc e.f.stack with
    | none => .trap { cause := .illegalOperands, lanes := e.exec } s
    | some st => .done (s.modFloe e.h (fun f => { f with stack := st, parked := f.parked ||| e.exec }.dropLanes e.b e.exec))

/-- EXIT (R160, R148); last_exit when no live lane is left. -/
def exitBody (_w : FWord) (_sh : Shape) (e : Env) (s : State) : Res :=
  if e.exec = 0 then .done s
  else
    let f1 := { e.f with stack := stackRemove e.exec e.f.stack }.dropLanes e.b e.exec
    if f1.liveLanes = 0 then .jump (State.floeEnd (s.setFloe e.h f1) e.h false)
    else .done (s.modFloe e.h (fun _ => f1))

/-- ELECT (R161). -/
def electBody (w : FWord) (sh : Shape) (e : Env) (s : State) : Res :=
  match maskLanes e.exec with
  | [] => .done s
  | l0 :: _ =>
    if Code.isUni w.d then .done (s.wrGroup e.f l0 true sh.d.writes l0)
    else .done ((maskLanes e.exec).foldl (fun t l =>
      sh.d.writes.foldl (fun u r => u.wrReg e.f r l ⟨if l = l0 then 1 else 0, l == l0⟩) t) s)

/-- YIELD (R162). -/
def yieldBody (_w : FWord) (_sh : Shape) (e : Env) (s : State) : Res := if e.exec = 0 then .done s else .yield s

/-- The floe takes wait_begin (R137, R138). -/
def State.waitOn (s : State) (h : Nat) (c : Wait) : State :=
  s.modFloe h (fun f => { f with state := .waiting, wait := some c, waitSince := s.gt })

/-- The amount of a SLEEP and its validity (R163). %lane has a value for each lane and the floe sleeps once: that of a free
lane of exec (log 22). -/
def sleepAmount (w : FWord) (e : Env) (s : State) : Nat × Bool :=
  match w.x with
  | some x => (x.imm.toNat, true)
  | none => if w.b = 0xF0 then (freeLane s e.exec, true) else rdOp s e.f 0 w.b 1

/-- SLEEP (R163). -/
def sleepBody (w : FWord) (_sh : Shape) (e : Env) (s : State) : Res :=
  let n := sleepAmount w e s
  let s1 := s.takeFresh (if w.b = 0xF0 then 1 else 0)
  if e.exec = 0 ∨ n.2 = false then .done s
  else if n.1 = 0 then .yield s1
  else .done (s1.waitOn e.h (.sleep (s.coreGt e.f.core + n.1)))

/-- SETROLE (R164). -/
def setroleBody (w : FWord) (_sh : Shape) (e : Env) (s : State) : Res :=
  if e.exec = 0 then .done s
  else .done (s.modFloe e.h (fun f => { f with role := match w.m.toNat with | 0 => .loader | 1 => .math | _ => .epilogue }))

/-- SETMODE (R165). -/
def setmodeBody (w : FWord) (_sh : Shape) (e : Env) (s : State) : Res :=
  if e.exec = 0 then .done s
  else if w.m.toNat = 1 ∧ ((e.f.slot (!e.b)).isSome ∨ e.f.stack ≠ [] ∨ e.f.parked ≠ 0 ∨ e.sl.mask &&& 0xFFFF0000 ≠ 0) then
    .trap { cause := .illegalOperands, lanes := e.exec } s
  else .done (s.modFloe e.h (fun f => { f with dmr := match w.m.toNat with | 0 => .off | 1 => .full | _ => .idle }))

/-- TRAP, BRK (R374). -/
def trapBody (c : Cause) (w : FWord) (_sh : Shape) (e : Env) (s : State) : Res :=
  if e.exec = 0 then .done s
  else .trap { cause := c, lanes := e.exec, tinfo := w.c.setWidth 64, atNext := true } s

/-- SVC (R377): a record of SOURCE 5 and the floe SUSPENDED at the next word. -/
def svcBody (w : FWord) (_sh : Shape) (e : Env) (s : State) : Res :=
  if e.exec = 0 then .done s
  else
    let a := rdOp s e.f 0 w.a 1
    let info := w.c.toNat + 256 * ((if a.2 then a.1 else 0) % 2 ^ 24)
    let r := faultRecord 0x40 5 true (partOf e.f.core) e.f.inst e.f.num e.f.core 0 0 0 0 e.sl.pc e.exec info 0 (s.gt % 2 ^ 64)
    let t : TrapInfo := { cause := .software, lanes := e.exec, tinfo := w.c.setWidth 64 }
    .done ((s.modFloe e.h (fun f => { f with state := .suspended, susp := some ⟨none, e.b, e.next, t, true⟩ })).postRecord e.f.ctx r)

/-- TRAPRET (R375). -/
def trapretBody (w : FWord) (_sh : Shape) (e : Env) (s : State) : Res :=
  if e.exec = 0 then .done s
  else match e.f.frame with
    | none => .trap { cause := .illegalOperands, lanes := e.exec } s
    | some fr =>
      if fr.mask ≠ e.sl.mask ∨ fr.depth ≠ e.f.stack.length then .trap { cause := .illegalOperands, lanes := e.exec } s
      else if w.m.getLsbD 0 then .jump (s.floeEnd e.h true)
      else if e.f.tepc.toNat % 8 ≠ 0 then .trap { cause := .misalignedTarget, lanes := e.exec } s
      else .jump (s.modFloe e.h (fun f =>
        { f.setSlot e.b (some ⟨f.tepc, fr.mask, fr.rpc, some e.sl.pc⟩) with frame := none, levelHandler := false, levelPriv := false }))

def execNop (w : FWord) (s : State) : Host.Outcome State Fault Refusal := issueF (.nop w) nopBody s
def execBr (w : FWord) (s : State) : Host.Outcome State Fault Refusal := issueF (.br w) brBody s
def execBrx (w : FWord) (s : State) : Host.Outcome State Fault Refusal := issueF (.brx w) brxBody s
def execJmp (w : FWord) (s : State) : Host.Outcome State Fault Refusal := issueF (.jmp w) jmpBody s
def execCall (w : FWord) (s : State) : Host.Outcome State Fault Refusal := issueF (.call w) callBody s
def execRet (w : FWord) (s : State) : Host.Outcome State Fault Refusal := issueF (.ret w) retBody s
def execExit (w : FWord) (s : State) : Host.Outcome State Fault Refusal := issueF (.exit w) exitBody s
def execElect (w : FWord) (s : State) : Host.Outcome State Fault Refusal := issueF (.elect w) electBody s
def execYield (w : FWord) (s : State) : Host.Outcome State Fault Refusal := issueF (.yield w) yieldBody s
def execTrap (w : FWord) (s : State) : Host.Outcome State Fault Refusal := issueF (.trap w) (trapBody .software) s
def execBrk (w : FWord) (s : State) : Host.Outcome State Fault Refusal := issueF (.brk w) (trapBody .breakpoint) s
def execSleep (w : FWord) (s : State) : Host.Outcome State Fault Refusal := issueF (.sleep w) sleepBody s
def execSvc (w : FWord) (s : State) : Host.Outcome State Fault Refusal := issueF (.svc w) svcBody s
def execTrapret (w : FWord) (s : State) : Host.Outcome State Fault Refusal := issueF (.trapret w) trapretBody s
def execSetrole (w : FWord) (s : State) : Host.Outcome State Fault Refusal := issueF (.setrole w) setroleBody s
def execSetmode (w : FWord) (s : State) : Host.Outcome State Fault Refusal := issueF (.setmode w) setmodeBody s

end Sys2Proof.Machine
end

