-- ==== Sys2Proof/Machine/Hash.lean ====
section
/-! DEFINITION. SHA-256, which the image digest is (R314), RSA-3072 signatures (R314, R427), and CRC-32C, which the journal carries (R337) and a stream's port choice uses
(R413). -/

namespace Sys2Proof.Machine

/-! ## CRC-32C (Castagnoli) -/

/-- One bit of the reflected division. -/
def crcBit (c : Word) : Word := if c.getLsbD 0 then (c >>> 1) ^^^ 0x82F63B78 else c >>> 1
def crcBits : Nat → Word → Word
  | 0, c => c
  | n + 1, c => crcBits n (crcBit c)

/-- CRC-32C of a list of bytes. -/
def crc32c (bs : List Byte) : Word := ~~~(bs.foldl (fun c b => crcBits 8 (c ^^^ b.setWidth 32)) 0xFFFFFFFF)

/-! ## SHA-256 -/

def shaK : List Word :=
   [0x428A2F98, 0x71374491, 0xB5C0FBCF, 0xE9B5DBA5, 0x3956C25B, 0x59F111F1, 0x923F82A4, 0xAB1C5ED5] ++
   [0xD807AA98, 0x12835B01, 0x243185BE, 0x550C7DC3, 0x72BE5D74, 0x80DEB1FE, 0x9BDC06A7, 0xC19BF174] ++
   [0xE49B69C1, 0xEFBE4786, 0x0FC19DC6, 0x240CA1CC, 0x2DE92C6F, 0x4A7484AA, 0x5CB0A9DC, 0x76F988DA] ++
   [0x983E5152, 0xA831C66D, 0xB00327C8, 0xBF597FC7, 0xC6E00BF3, 0xD5A79147, 0x06CA6351, 0x14292967] ++
   [0x27B70A85, 0x2E1B2138, 0x4D2C6DFC, 0x53380D13, 0x650A7354, 0x766A0ABB, 0x81C2C92E, 0x92722C85] ++
   [0xA2BFE8A1, 0xA81A664B, 0xC24B8B70, 0xC76C51A3, 0xD192E819, 0xD6990624, 0xF40E3585, 0x106AA070] ++
   [0x19A4C116, 0x1E376C08, 0x2748774C, 0x34B0BCB5, 0x391C0CB3, 0x4ED8AA4A, 0x5B9CCA4F, 0x682E6FF3] ++
   [0x748F82EE, 0x78A5636F, 0x84C87814, 0x8CC70208, 0x90BEFFFA, 0xA4506CEB, 0xBEF9A3F7, 0xC67178F2]

def shaInit : List Word := [0x6A09E667, 0xBB67AE85, 0x3C6EF372, 0xA54FF53A, 0x510E527F, 0x9B05688C, 0x1F83D9AB, 0x5BE0CD19]

def shaRot (x : Word) (n : Nat) : Word := x.rotateRight n

/-- The schedule's next word, from the sixteen before it, the oldest first. -/
def shaNext (w : List Word) : Word :=
  let a := w.getD 1 0
  let b := w.getD 14 0
  w.getD 0 0 + (shaRot a 7 ^^^ shaRot a 18 ^^^ (a >>> 3)) + w.getD 9 0 + (shaRot b 17 ^^^ shaRot b 19 ^^^ (b >>> 10))

/-- One round on the working words a to h. -/
def shaRound (v : List Word) (k w : Word) : List Word :=
  let a := v.getD 0 0
  let b := v.getD 1 0
  let c := v.getD 2 0
  let d := v.getD 3 0
  let e := v.getD 4 0
  let f := v.getD 5 0
  let g := v.getD 6 0
  let h := v.getD 7 0
  let t1 := h + (shaRot e 6 ^^^ shaRot e 11 ^^^ shaRot e 25) + ((e &&& f) ^^^ (~~~e &&& g)) + k + w
  let t2 := (shaRot a 2 ^^^ shaRot a 13 ^^^ shaRot a 22) + ((a &&& b) ^^^ (a &&& c) ^^^ (b &&& c))
  [t1 + t2, a, b, c, d + t1, e, f, g]

/-- The rounds of a block: the window of sixteen schedule words slides along. -/
def shaRounds : List Word → List Word → List Word → List Word
  | [], _, v => v
  | k :: ks, w, v => shaRounds ks (w.tail ++ [shaNext w]) (shaRound v k (w.headD 0))

/-- Big-endian words of a block's bytes. -/
def shaWords : Nat → List Byte → List Word
  | 0, _ => []
  | n + 1, bs => (bs.getD 0 0 ++ bs.getD 1 0 ++ bs.getD 2 0 ++ bs.getD 3 0 : BitVec 32) :: shaWords n (bs.drop 4)

def shaBlock (h : List Word) (bs : List Byte) : List Word := List.zipWith (· + ·) h (shaRounds shaK (shaWords 16 bs) h)

def shaBlocks : Nat → List Byte → List Word → List Word
  | 0, _, h => h
  | n + 1, bs, h => shaBlocks n (bs.drop 64) (shaBlock h bs)

/-- The padding of a message of `n` bytes. -/
def shaPad (n : Nat) : List Byte :=
  (0x80 : Byte) :: List.replicate ((119 - n % 64) % 64) 0 ++ (List.range 8).map (fun i => BitVec.ofNat 8 (8 * n / 2 ^ (8 * (7 - i))))

/-- The digest of a message, its first byte lowest. -/
def sha256 (msg : List Byte) : List Byte :=
  let m := msg ++ shaPad msg.length
  (shaBlocks (m.length / 64) m shaInit).flatMap (fun w => (List.range 4).map (fun i => w.extractLsb' (8 * (3 - i)) 8))

/-! ## RSASSA-PKCS1-v1_5 (log 15) -/

/-- Bytes as a number, the first most significant. -/
def natBe (bs : List Byte) : Nat := bs.foldl (fun n b => 256 * n + b.toNat) 0

/-- A number as `n` bytes, the most significant first. -/
def bytesBe (n v : Nat) : List Byte := (List.range n).map (fun i => BitVec.ofNat 8 (v / 256 ^ (n - 1 - i)))

/-- A power modulo `m` by squaring; the exponent has at most `k` bits. -/
def modPow (m : Nat) : Nat → Nat → Nat → Nat
  | 0, _, _ => 1 % m
  | k + 1, b, e =>
    let h := modPow m k (b * b % m) (e / 2)
    if e % 2 = 1 then b * h % m else h

/-- A message encoded to be signed: its SHA-256 with the prefix that names the hash, padded to 384 bytes. -/
def rsaPad (msg : List Byte) : List Byte :=
  [0, 1] ++ List.replicate 330 0xFF
    ++ [0, 0x30, 0x31, 0x30, 0x0D, 0x06, 0x09, 0x60, 0x86, 0x48, 0x01, 0x65, 0x03, 0x04, 0x02, 0x01, 0x05, 0x00, 0x04, 0x20] ++ sha256 msg

/-- Whether 384 bytes are a signature of a message under a public key. -/
def rsaVerify (key : BitVec 3072 × BitVec 3072) (msg sig : List Byte) : Bool :=
  sig.length == 384 && decide (natBe sig < key.1.toNat) && modPow key.1.toNat 3072 (natBe sig) key.2.toNat == natBe (rsaPad msg)

/-- The signature of a message under a private key. -/
def rsaSign (key : BitVec 3072 × BitVec 3072) (msg : List Byte) : List Byte :=
  bytesBe 384 (modPow key.1.toNat 3072 (natBe (rsaPad msg)) key.2.toNat)

end Sys2Proof.Machine
end

