-- ==== Sys2Proof/Machine/Net.lean ====
section
/-! DEFINITION. Messages of the fabric as this device sends them (R411-R414): header checks, the port of a stream, sequence counts. -/

namespace Sys2Proof.Machine

/-- Whether every header field stands within its values (R411). -/
def Msg.valid (m : Msg) : Bool :=
  decide (m.cls < 6) && decide (m.op < 32) && !m.rsv && decide (m.payload.length ≤ 2048) && decide (m.srcDev < 2 ^ 19) && decide (m.dstDev < 2 ^ 19)
    && decide (m.dstPart < 12) && decide (m.stream < 2 ^ 32) && decide (m.addr < 2 ^ 52) && decide (m.seq < 2 ^ 64)

/-- The port a stream chooses among those that can carry it (R413). -/
def choosePort (s : State) (dev cls stream : Nat) : Option Nat :=
  let ports := livePorts s dev
  let h := crc32c (bytesOf 8 (dev + cls * 2 ^ 19 + stream * 2 ^ 22))
  ports[h.toNat % ports.length]?

/-- The port of a stream's next message: that of its unacknowledged messages while it is in service, else a new choice. -/
def streamPort (s : State) (m : Msg) : Option Nat :=
  match s.net.reqs.find? (fun r => r.msg.dstDev == m.dstDev && r.msg.cls == m.cls && r.msg.stream == m.stream) with
  | some r => if portUp s r.port then some r.port else choosePort s m.dstDev m.cls m.stream
  | none => choosePort s m.dstDev m.cls m.stream

/-- A message numbered and put on its way after some operations (R411, R227). -/
def State.post (s : State) (m : Msg) (after : List Nat) : State :=
  let k := m.cls * 2 ^ 32 + m.stream
  let n := Table.getD s.net.seqOut 0 k
  let net := { s.net with seqOut := Table.setD s.net.seqOut 0 k (n + 1), outbox := s.net.outbox ++ [⟨{ m with seq := n }, after⟩] }
  { s with net := net }

/-- A request posted for a lane of an operation, to be acknowledged (R412). -/
def State.request (s : State) (op lane : Nat) (m : Msg) (after : List Nat) : State :=
  let n := Table.getD s.net.seqOut 0 (m.cls * 2 ^ 32 + m.stream)
  let t := s.post m after
  { t with net := { t.net with reqs := t.net.reqs ++ [⟨op, lane, { m with seq := n }, t.gt, (streamPort s m).getD 31⟩] } }

/-- A message from this device. -/
def newMsg (cls op : Nat) (rel : Bool) (dev part stream addr : Nat) (payload : List Byte) : Msg :=
  { cls := cls, op := op, rel := rel, rsv := false, srcDev := Config.deviceId.toNat, dstDev := dev, dstPart := part, stream := stream % 2 ^ 32,
    addr := addr, seq := 0, payload := payload }

/-- A read of `n` bytes of another device (R414, R415). -/
def readMsg (p : Phys) (stream n : Nat) : Msg := newMsg 0 0 false p.pte.dev 0 stream p.pa (bytesOf 32 0 ++ bytesOf 8 n)

/-- Words of another device that a floe's next instruction needs, asked for (R384). -/
def State.askFar (s : State) (h : Nat) (l : List (Dword × Phys)) : State :=
  l.foldl (fun t x => t.request h (x.1.toNat / 8) (readMsg ⟨x.2.pa / 8 * 8, x.2.pte⟩ h 8) []) s

/-- Whether words of another device are on their way to a floe. -/
def State.farPending (s : State) (h : Nat) : Bool := s.net.reqs.any (fun r => r.op == h)

/-- The world of the port on which messages of a device come (R426): that of the stream's first live port. -/
def portSecure (s : State) (dev : Nat) : Bool :=
  match livePorts s dev with
  | p :: _ => s.life.saPort.getLsbD p
  | [] => false

/-- The world of a queue (R426). -/
def queueSecure (s : State) (key : Nat) : Bool := (s.life.saQueue.getD (key / 4096) 0).getLsbD (key % 4096)

end Sys2Proof.Machine
end

