-- ==== Sys2Proof/Machine/Coherence.lean ====
section
/-! DEFINITION. Where data is held and how it is kept in step: the firn window (R106-R109, R173), L1 copies and leases (R196-R202),
the directory and its protocol tables (R203-R208), and the steps of the device that move them. -/

namespace Sys2Proof.Machine

/-! ## The firn window (R107, R173) -/

/-- Whether an address lies in the firn window, and its offset there. -/
def inFirn (va : Dword) : Bool := va.extractLsb' 56 8 == 0xFF
def firnOff (va : Dword) : Nat := va.toNat % 2 ^ 56

/-- Whether `n` bytes at a firn offset of a core are registers of a floe of the instance there, or its scratch (R107). -/
def firnAllowed (s : State) (core ctx inst off n : Nat) : Bool :=
  decide (off + n ≤ 98304 * firnSteps s core) &&
    ((Table.search s.floes (fun _ f => f.core == core && f.ctx == ctx && f.inst == inst && f.resident && decide (f.rbase ≤ off)
        && decide (off + n ≤ f.rbase + 128 * f.regs + 4 * f.wregs))).isSome
      || (s.core core).scratch.any (fun r => r.ctx == ctx && r.inst == inst && decide (r.start * 16384 ≤ off)
        && decide (off + n ≤ r.start * 16384 + r.bytes)))

/-- `n` bytes of firn as a number, and the validity of each word touched (R111 rule 4). -/
def State.firnBytes (s : State) (core off n : Nat) : Nat × List Bool :=
  let byte (i : Nat) : Nat := ((s.firnAt core ((off + i) / 4)).data.toNat / 2 ^ (8 * ((off + i) % 4))) % 256
  ((List.range n).foldr (fun i acc => byte i + 256 * acc) 0,
   (List.range ((off % 4 + n + 3) / 4)).map (fun i => (s.firnAt core (off / 4 + i)).v))

/-- One firn byte written, its word's V kept. -/
def State.setFirnByte (s : State) (core off : Nat) (v : Nat) : State :=
  let w := s.firnAt core (off / 4)
  let sh := 8 * (off % 4)
  let d := w.data.toNat
  let d' := d - (d / 2 ^ sh % 256) * 2 ^ sh + (v % 256) * 2 ^ sh
  s.setFirn core (off / 4) { w with data := BitVec.ofNat 32 d' }

/-- The registers of a floe that lie in `n` bytes of its core's firn from `off` up (R106). -/
def regsAt (f : Floe) (off n : Nat) : List Reg :=
  (List.range ((off % 4 + n + 3) / 4)).filterMap (fun i =>
    let w := off / 4 + i
    let k := w - f.rbase / 4
    if w < f.rbase / 4 then none
    else if k < 32 * f.regs then some ⟨false, k / 32⟩
    else if k < 32 * f.regs + f.wregs then some ⟨true, k - 32 * f.regs⟩
    else none)

/-- Operand latches do not outlast a write of the registers they were read from (R108). -/
def State.unlatchFirn (s : State) (core off n : Nat) : State :=
  { s with floes := Table.map s.floes (fun _ f => if f.core = core ∧ f.resident = true ∧ f.latches ≠ [] then f.unlatch (regsAt f off n) else f) }

/-- A store of `n` bytes to firn (R111): a whole word written becomes valid, part of one keeps its V; invalid data clears V. -/
def State.firnStore (s0 : State) (core off n v : Nat) (valid : Bool) : State :=
  let s := s0.unlatchFirn core off n
  if valid then
    let s1 := (List.range n).foldl (fun t i => t.setFirnByte core (off + i) (v / 2 ^ (8 * i))) s
    if 4 ≤ n then (List.range (n / 4)).foldl (fun t i => t.setFirn core (off / 4 + i) { t.firnAt core (off / 4 + i) with v := true }) s1
    else s1
  else (List.range ((n + 3) / 4)).foldl (fun t i => t.setFirn core (off / 4 + i) { t.firnAt core (off / 4 + i) with v := false }) s

/-- One byte written by an engine: its word becomes valid (R111 rule 5). -/
def State.firnEngine (s : State) (core off v : Nat) : State :=
  let t := (s.unlatchFirn core off 1).setFirnByte core off v
  t.setFirn core (off / 4) { t.firnAt core (off / 4) with v := true }

/-! ## L1 (R196, R199) -/

/-- The 16 KiB steps of a core's firn, and those the register area takes above its start (R317). -/
def totalSteps (s : State) (core : Nat) : Nat := 6 * firnSteps s core
def regionEnds (s : State) (core : Nat) : List Nat :=
  (Table.vals (Table.keep s.floes (fun _ f => f.core == core && f.resident))).map (fun f => f.rbase + regBytes f.regs f.wregs)
def areaSteps (s : State) (core : Nat) : Nat :=
  match regionEnds s core with
  | [] => 0
  | ends => (ends.foldl max 0 + 16383) / 16384 - (s.core core).regStart

/-- The lines that a core's L1 holds: 64 in each 16 KiB step of its firn that registers and scratch leave (R196). -/
def l1Lines (s : State) (core : Nat) : Nat :=
  64 * (totalSteps s core - areaSteps s core - ((s.core core).scratch.map (fun r => r.steps)).foldl (· + ·) 0)

/-- Entries given up, one after another, until `n` are gone (log 9). -/
def dropVictims {α : Type} (gt : Nat) : Nat → Table α → Table α
  | 0, t => t
  | n + 1, t => dropVictims gt n (t.eraseIdx (Config.victim gt (Table.keys t) % t.length))

/-- A core's L1 within its region: lines that no longer have room go (R19, R196). -/
def State.l1Fit (s : State) (core : Nat) : State :=
  let n := (s.core core).l1.length - l1Lines s core
  if n = 0 then s else s.modCore core (fun c => { c with l1 := dropVictims s.gt n c.l1 })

/-- Whether a page's lines are held in L1 (R198). -/
def Pte.inL1 (e : Pte) : Bool := !e.uc && e.ord != 1

/-- d of R199, for a tag's end bits at a GT. -/
def leaseLeft (endBits : BitVec 20) (gt : Nat) : Nat := (endBits - BitVec.ofNat 20 gt).toNat

/-- Whether a tag still serves words (R199): its lease runs, and the sweep, which leaves no copy more than 2^18 gt after its lease end, has
not taken it (R202). -/
def L1Line.live (l : L1Line) (gt : Nat) : Bool :=
  decide (1 ≤ leaseLeft l.leaseEnd gt ∧ leaseLeft l.leaseEnd gt ≤ 4098 ∧ gt ≤ l.endGt + 2 ^ 18)

def State.ctxTag (s : State) (ctx : Nat) : BitVec 8 := match s.ctx? ctx with | some c => c.tag | none => 0

/-- The word an L1 serves, where it does (R199). -/
def State.l1Word (s : State) (core ctx pa : Nat) : Option Word :=
  match Table.find? (s.core core).l1 (pa / 256) with
  | some l =>
    if l.tag = s.ctxTag ctx ∧ l.valid.getLsbD (pa % 256 / 4) ∧ l.live (s.coreGt core) then Table.find? l.words (pa % 256 / 4) else none
  | none => none

def sliceKey (die pa : Nat) : Nat := die * 2 ^ 47 + pa / 32
def l2Key (die line : Nat) : Nat := die * 2 ^ 44 + line

/-- The latest lease end a die's slice has granted for a sector; 0 where none (R199). -/
def State.leaseEnd (s : State) (die pa : Nat) : Nat := Table.getD s.ms.slice 0 (sliceKey die pa)

/-- A byte of another die's line held in a die's L2 (R196). -/
def State.l2Byte (s : State) (die pa : Nat) : Option Byte :=
  (Table.find? s.ms.l2 (l2Key die (pa / 256))).bind (fun t => Table.find? t (pa % 256))

/-- Whether a page's lines homed elsewhere are held as copies in L2 (R198, R394). Those of a STRONG page are not: an access to one goes to
the slice, which the model takes for that of its home, so that the accesses have the one order of R230 (log 91). -/
def Pte.inL2 (e : Pte) : Bool := !e.uc && !e.sealed && e.ord != 1

/-- A byte as a core reads it: its L1, its die's L2, then home (R196). -/
def State.readByte (s : State) (core ctx : Nat) (e : Pte) (pa : Nat) : Byte :=
  let l1 := if e.inL1 then s.l1Word core ctx pa else none
  match l1 with
  | some w => w.extractLsb' (8 * (pa % 4)) 8
  | none =>
    match (if e.inL2 && homeDie pa != coreDie core then s.l2Byte (coreDie core) pa else none) with
    | some b => b
    | none => readThrough s ctx e pa

/-- Whether a core's read of `n` bytes needs no READ message first (R203, R207). -/
def State.readReady (s : State) (core ctx : Nat) (e : Pte) (pa n : Nat) : Bool :=
  !e.inL2 || homeDie pa == coreDie core
    || (List.range n).all (fun i => (e.inL1 && (s.l1Word core ctx (pa + i)).isSome) || (s.l2Byte (coreDie core) (pa + i)).isSome)

/-- The lease length of a protocol slot (R205). -/
def State.leaseOf (s : State) (slot : Nat) : Nat := (s.ms.slots.getD slot ⟨0, none⟩).lease

/-- A fill of the words that hold `n` bytes, where a read of them misses in L1 (R197, R199): the slice records the lease by its own GT, the
tag takes the words, and the L1 keeps within its region. -/
def State.l1Fill (s : State) (core ctx : Nat) (e : Pte) (pa n : Nat) (held : Bool) : State :=
  let lease := s.leaseOf e.prot
  let hit := (List.range ((pa % 4 + n + 3) / 4)).all (fun i => (s.l1Word core ctx (pa + 4 * i)).isSome)
  if !e.inL1 || hit || held || lease = 0 || l1Lines s core = 0 then s
  else
    let gt := s.coreGt core
    let stop := s.gt + lease
    let ws := (List.range ((pa % 4 + n + 3) / 4)).map (fun i => pa % 256 / 4 + i)
    let data := ws.map (fun i => (i, (BitVec.ofNat 32 (natOf ((List.range 4).map (fun b =>
      s.readByte core ctx e (pa / 256 * 256 + 4 * i + b)))) : Word)))
    let mask : BitVec 64 := ws.foldl (fun m i => m ||| (1#64 <<< i)) 0
    let fresh : L1Line := { tag := s.ctxTag ctx, valid := mask, words := [], leaseEnd := BitVec.ofNat 20 stop, endGt := stop, unord := e.ord == 2 }
    let line : L1Line := match Table.find? (s.core core).l1 (pa / 256) with
      | some l =>
        if l.tag = s.ctxTag ctx ∧ l.valid ≠ 0 ∧ l.live gt then
          (if l.endGt ≤ stop then { l with valid := l.valid ||| mask }
           else { l with valid := l.valid ||| mask, leaseEnd := BitVec.ofNat 20 stop, endGt := stop })
        else fresh
      | none => fresh
    let line2 := { line with words := data.foldl (fun t p => Table.insert t p.1 p.2) line.words }
    let sectors := ((List.range n).map (fun i => sliceKey (coreDie core) (pa + i))).eraseDups
    let slice := sectors.foldl (fun (t : Table Nat) k => Table.setD t 0 k (max stop (Table.getD t 0 k))) s.ms.slice
    let s1 := { s with ms := { s.ms with slice := slice } }
    (s1.modCore core (fun c => { c with l1 := Table.insert c.l1 (pa / 256) line2 })).l1Fit core

/-- L1 lines of a core dropped where `p` holds. -/
def State.l1Drop (s : State) (core : Nat) (p : Nat → L1Line → Bool) : State :=
  s.modCore core (fun c => { c with l1 := Table.keep c.l1 (fun k l => !p k l) })

/-- What an acquire at PAIR scope or wider does on its core: copies of UNORD lines go (R201), tree slots read GEN again (R283). -/
def State.acquire (s : State) (core scope : Nat) : State :=
  if scope < 3 then s
  else (s.l1Drop core (fun _ l => l.unord)).modCore core (fun c => { c with slots := Table.map c.slots (fun _ t => { t with reread := true }) })

/-- The bytes of a word with one replaced. -/
def wordByte (w : Word) (i : Nat) (v : Byte) : Word :=
  (w &&& ~~~((0xFF#32) <<< (8 * i))) ||| ((v.setWidth 32) <<< (8 * i))

/-- A core's own L1 copy of a byte written (R200). -/
def State.l1Update (s : State) (core ctx pa : Nat) (v : Byte) : State :=
  match Table.find? (s.core core).l1 (pa / 256) with
  | some l =>
    if l.tag = s.ctxTag ctx ∧ l.valid.getLsbD (pa % 256 / 4) then
      let i := pa % 256 / 4
      let l' := { l with words := Table.insert l.words i (wordByte (Table.getD l.words 0 i) (pa % 4) v) }
      s.modCore core (fun c => { c with l1 := Table.insert c.l1 (pa / 256) l' })
    else s
  | none => s

/-- A byte performed at the slice and at home, with its copy in the L2 of the writer's die (R200, R204). -/
def State.homeByte (s : State) (core ctx : Nat) (e : Pte) (pa : Nat) (v : Byte) : State :=
  let s1 := sealPrepare s ctx e pa
  let s2 := { s1 with ms := s1.ms.setByte pa v }
  let k := l2Key (coreDie core) (pa / 256)
  match Table.find? s2.ms.l2 k with
  | some t => if (Table.find? t (pa % 256)).isSome then { s2 with ms := { s2.ms with l2 := Table.insert s2.ms.l2 k (Table.insert t (pa % 256) v) } } else s2
  | none => s2

/-- A byte performed, with the writer's own L1 copy (R200). -/
def State.writeByte (s : State) (core ctx : Nat) (e : Pte) (pa : Nat) (v : Byte) : State := (s.homeByte core ctx e pa v).l1Update core ctx pa v

/-- The words of `n` bytes that other cores hold exclusive go back to their slices, which a request that reaches them asks for (R210). -/
def State.exclReturn (s : State) (core pa n : Nat) : State :=
  { s with cores := Table.map s.cores (fun c k =>
      if c = core ∨ k.excl = [] then k else { k with excl := Table.keep k.excl (fun w _ => !(decide (pa / 4 ≤ w) && decide (4 * w < pa + n))) }) }

/-! ## Write-once marks (R206, R208 WOCHK) -/

/-- An entry of a slot's protocol table. -/
def State.protoEntry (s : State) (slot st m : Nat) : Option Word :=
  (s.ms.slots.getD slot ⟨0, none⟩).table.map (fun t => t.2.2.getD (6 * st + m) 0)
def entNext (w : Word) : Nat := w.toNat % 8
def entAct (w : Word) (k : Nat) : Bool := w.getLsbD (4 + k)
def entRetry (w : Word) : Nat := w.toNat / 2 ^ 20 % 16


def State.marked (s : State) (pa : Nat) : Bool := (Table.getD s.ms.marks 0 (pa / 256)).getLsbD (pa % 256 / 4)
def State.mark (s : State) (pa : Nat) : State :=
  { s with ms := { s.ms with marks := Table.setD s.ms.marks 0 (pa / 256) (Table.getD s.ms.marks 0 (pa / 256) ||| (1#64 <<< (pa % 256 / 4))) } }


/-! ## The directory (R203, R207, R208) -/

def DirEntry.fresh : DirEntry := { st := 0, recs := [], bcast := none, owner := none, out := [], acks := [], returns := [], slot := 0 }
def State.dirAt (s : State) (line : Nat) : DirEntry := Table.getD s.ms.dir DirEntry.fresh line
def State.setDir (s : State) (line : Nat) (d : DirEntry) : State :=
  { s with ms := { s.ms with dir := Table.setD s.ms.dir DirEntry.fresh line d } }

/-- The smallest span that covers two (R203). -/
def spanJoin (a b : Span) : Span :=
  let f := min a.first b.first
  ⟨f, max (a.first + a.count) (b.first + b.count) - f⟩

/-- The dies recorded as holding the line. -/
def DirEntry.holders (d : DirEntry) : List Nat := match d.bcast with | some b => b | none => d.recs.map Prod.fst

/-- A die recorded as a sharer of a span: its record grows, a fifth record switches to broadcast (R203). -/
def DirEntry.addSharer (d : DirEntry) (die : Nat) (sp : Span) : DirEntry :=
  match d.bcast with
  | some b => { d with bcast := some (if b.contains die then b else b ++ [die]) }
  | none =>
    if d.recs.any (fun r => r.1 == die) then { d with recs := d.recs.map (fun r => if r.1 = die then (die, spanJoin r.2 sp) else r) }
    else if d.recs.length < 4 then { d with recs := d.recs ++ [(die, sp)] }
    else { d with recs := [], bcast := some (d.recs.map Prod.fst ++ [die]) }

/-- A die's record removed; broadcast mode ends when every die of the set has evicted (R203). -/
def DirEntry.delSharer (d : DirEntry) (die : Nat) : DirEntry :=
  match d.bcast with
  | some b => let b' := b.filter (· != die); { d with bcast := if b'.isEmpty then none else some b' }
  | none => { d with recs := d.recs.filter (fun r => r.1 != die) }

/-- The sharers an invalidation goes to, each with the span recorded for it: every one but the requester (R203, R208). -/
def DirEntry.targets (d : DirEntry) (req : Nat) : List (Nat × Span) :=
  match d.bcast with
  | some b => (b.filter (· != req)).map (fun t => (t, ⟨0, 64⟩))
  | none => d.recs.filter (fun r => r.1 != req)

/-- Whether writes to a line apply the written marks: always in slot 3, else as the entry for a message in the line's state says, which
governs a line that other dies hold (R206, R208, R210). -/
def State.writeOnce (s : State) (slot line m : Nat) : Bool :=
  slot == 3 || ((s.dirAt line).st != 0 && entAct ((s.protoEntry slot (s.dirAt line).st m).getD 0) 11)

/-- Whether a write of `n` bytes meets a marked word (R388 order 11). -/
def State.markHit (s : State) (e : Pte) (pa n : Nat) : Bool :=
  s.writeOnce e.prot (pa / 256) 1 && (List.range ((pa % 4 + n + 3) / 4)).any (fun i => s.marked (pa + 4 * i))

/-- The words of `n` bytes marked (R206); on a page that no longer applies the marks, the line's go (log 70). -/
def State.markWords (s : State) (once : Bool) (pa n : Nat) : State :=
  if once then (List.range ((pa % 4 + n + 3) / 4)).foldl (fun t i => t.mark (pa + 4 * i)) s
  else if s.ms.marks.isEmpty then s
  else { s with ms := { s.ms with marks := Table.erase s.ms.marks (pa / 256) } }

/-- What the directory answers a message: the changed entry, whether it refused, whether it first recalls the owner, whether the request waits
for acknowledgements, and the entry it acted by, whose DATA, PERFORM, WOCHK and ATOMHOME the requester sees to. -/
structure DirReply where
  entry : DirEntry
  nack : Bool
  callBack : Bool
  wait : Bool
  word : Word
  deriving DecidableEq, Repr

/-- One message handled by its table entry (R207, R208), for operation `op`; `bytes` are the written ones of an UPD. The owner, where it is
not the requester, is recalled before anything else of an entry with RECALL, and the entry is taken again once the span is back (log 24). -/
def dirHandle (s : State) (line slot m req : Nat) (sp : Span) (bytes : List (Nat × Byte)) (op : Nat) : DirReply :=
  let d := s.dirAt line
  let w := (s.protoEntry slot d.st m).getD 0
  if entAct w 10 then ⟨d, true, false, false, w⟩
  else
    match (if entAct w 9 then d.owner.filter (· != req) else none) with
    | some o =>
      if d.out.any (fun x => match x with | .recall _ _ => true | _ => false) || !d.returns.isEmpty then ⟨d, false, true, false, w⟩
      else ⟨{ d with out := d.out ++ [.recall o sp], slot := slot }, false, true, false, w⟩
    | none =>
      let home := line / 2 ^ 31
      let ts := d.targets req
      let d1 := if entAct w 2 && req != home then d.addSharer req sp else d
      let d2 := if entAct w 3 then d1.delSharer req else d1
      let d3 := if entAct w 4 then { d2 with out := d2.out ++ ts.map (fun t => DirMsg.inval t.1 t.2 op) } else d2
      let d4 := if entAct w 5 then { d3 with out := d3.out ++ ts.map (fun t => DirMsg.update t.1 sp bytes op) } else d3
      let d5 := if entAct w 8 then { d4 with owner := none } else d4
      let d6 := if entAct w 7 then { d5 with owner := some req } else d5
      let d7 := if entAct w 13 then { d6 with recs := d6.recs.filter (fun r => r.1 == req), bcast := d6.bcast.map (fun b => b.filter (· == req)) } else d6
      ⟨{ d7 with st := entNext w, slot := slot }, false, false, entAct w 6 && (entAct w 4 || entAct w 5) && !ts.isEmpty, w⟩

/-- Whether two spans of a line have a word in common. -/
def spansMeet (a b : Span) : Bool := decide (a.first < b.first + b.count) && decide (b.first < a.first + a.count)

/-- A span's bytes copied into a die's L2 (R203). -/
def State.l2Install (s : State) (die line : Nat) (sp : Span) : State :=
  let k := l2Key die line
  let t := (Table.find? s.ms.l2 k).getD []
  let t' := (List.range (4 * sp.count)).foldl (fun u i => Table.insert u (4 * sp.first + i) (s.ms.byte (256 * line + 4 * sp.first + i))) t
  { s with ms := { s.ms with l2 := Table.insert s.ms.l2 k t' } }

/-- A span dropped from a die's L2. -/
def State.l2Drop (s : State) (die line : Nat) (sp : Span) : State :=
  let k := l2Key die line
  match Table.find? s.ms.l2 k with
  | none => s
  | some t =>
    let t' := Table.keep t (fun i _ => !(decide (4 * sp.first ≤ i) && decide (i < 4 * (sp.first + sp.count))))
    { s with ms := { s.ms with l2 := if t'.isEmpty then Table.erase s.ms.l2 k else Table.insert s.ms.l2 k t' } }

/-- Whether a die's slice has an unexpired lease, plus 2 gt, on a span (R200, R203). -/
def State.leased (s : State) (die line : Nat) (sp : Span) : Bool :=
  (List.range sp.count).any (fun i =>
    let e := s.leaseEnd die (256 * line + 4 * (sp.first + i))
    e != 0 && decide (s.gt < e + 2))

/-- The words of a line that an operation's lanes still to be done reach, as fixed when they left (R197). -/
def Op.spansOn (o : Op) (line : Nat) : List Span :=
  o.lanes.filterMap (fun la => match la.place with
    | some (.mem p) => if !la.done && p.pa / 256 == line then some ⟨p.pa % 256 / 4, max 1 (o.size / 4)⟩ else none
    | _ => none)

/-- Whether a write the directory has taken on a span of a line is not performed yet: a read of another die waits for it, one of another span
does not (R197). -/
def State.spanBusy (s : State) (line : Nat) (sp : Span) : Bool :=
  (Table.search s.ops (fun _ o => o.state == .inFlight && o.granted.contains line && (o.spansOn line).any (fun x => spansMeet x sp))).isSome

/-- Whether a message of the directory waits for the leases of a die on a word of a line: the die grants no new lease there (R200, R203). -/
def State.dieHeld (s : State) (die pa : Nat) : Bool :=
  let w : Span := ⟨pa % 256 / 4, 1⟩
  (s.dirAt (pa / 256)).out.any (fun m => match m with
    | .inval t sp _ => t == die && spansMeet sp w
    | .update t sp _ _ => t == die && spansMeet sp w
    | .recall _ _ => false)

/-- The lines of other dies that a die's L2 holds at most: its 512 MiB (R196). -/
def l2Lines : Nat := 2097152

/-- A die drops its copy of a line and tells the directory (R207 EVICT). A pinned copy keeps its place (R213). -/
def State.evict (s : State) (die line : Nat) : State :=
  if (Table.find? s.ms.l2 (l2Key die line)).isNone || s.ms.pins.any (fun p => p.2.1 == die && p.2.2 == line) then s
  else
    let r := dirHandle s line (s.dirAt line).slot 3 die ⟨0, 64⟩ [] 0
    (if r.nack || r.callBack then s else s.setDir line r.entry).l2Drop die line ⟨0, 64⟩

/-- A span's copy put into a die's L2, which gives up another line where it is full (R196, log 9). -/
def State.l2Take (s : State) (die line : Nat) (sp : Span) : State :=
  let mine := (Table.keys s.ms.l2).filter (fun k => k / 2 ^ 44 == die)
  let s1 := if l2Lines ≤ mine.length ∧ !mine.contains (l2Key die line) then s.evict die (mine.getD (Config.victim s.gt mine % mine.length) 0 % 2 ^ 44) else s
  s1.l2Install die line sp

/-- A read of a die that misses on a span, handled at the directory at once (PREF, the mover): what it may take is copied (R207, log 24). -/
def State.dieRead (s : State) (die : Nat) (p : Phys) (sp : Span) : State :=
  let line := p.pa / 256
  if !p.pte.inL2 || homeDie p.pa == die || s.spanBusy line sp then s
  else
    let r := dirHandle s line p.pte.prot 0 die sp [] 0
    if r.nack || r.callBack then s.setDir line r.entry
    else if entAct r.word 0 then (s.setDir line r.entry).l2Take die line sp else s.setDir line r.entry

/-- A waiting request of an operation on a line ends its wait when none of its own messages is outstanding there (R208 WACK). -/
def State.ackLine (s : State) (line op : Nat) : State :=
  let d := s.dirAt line
  if d.out.any (fun m => match m with | .inval _ _ o => o == op | .update _ _ _ o => o == op | .recall _ _ => false) || d.acks.any (fun a => a.2 == op) then s
  else s.modOp op (fun o => { o with waitAcks := o.waitAcks.filter (· != line) })

/-- EVICT_MSG: a die drops its copy of a line (R207). -/
def execEvictMsg (die line : Nat) (s : State) : Host.Outcome State Fault Refusal := .next (s.evict die line)

/-- SHARER_INVALIDATE: a die acknowledges once its leases on the span have ended (R203). -/
def execSharerInvalidate (die line : Nat) (s : State) : Host.Outcome State Fault Refusal :=
  let d := s.dirAt line
  match d.out.find? (fun x => match x with | .inval t sp _ => t == die && !s.leased die line sp | _ => false) with
  | some (.inval t sp op) =>
    .next ((s.l2Drop die line sp).setDir line { d with out := d.out.erase (.inval t sp op), acks := d.acks ++ [(die, op)] })
  | _ => .next s

/-- Bytes of an update put into a die's copy (R205). -/
def State.l2Update (s : State) (die line : Nat) (bytes : List (Nat × Byte)) : State :=
  let k := l2Key die line
  match Table.find? s.ms.l2 k with
  | some c =>
    let c' := bytes.foldl (fun u p => if (Table.find? u p.1).isSome then Table.insert u p.1 p.2 else u) c
    { s with ms := { s.ms with l2 := Table.insert s.ms.l2 k c' } }
  | none => s

/-- SHARER_UPDATE: a die applies an update after its leases end, and acknowledges (R203, R205). Updates of one span are applied in the order in
which the directory sent them. -/
def execSharerUpdate (die line : Nat) (s : State) : Host.Outcome State Fault Refusal :=
  let d := s.dirAt line
  match d.out.find? (fun x => match x with | .update t _ _ _ => t == die | _ => false) with
  | some (.update t sp bytes op) =>
    if s.leased die line sp then .next s
    else .next ((s.l2Update die line bytes).setDir line { d with out := d.out.erase (.update t sp bytes op), acks := d.acks ++ [(die, op)] })
  | _ => .next s

/-- ACK_MSG: an acknowledgement reaches the directory (R207). -/
def execAckMsg (die line : Nat) (s : State) : Host.Outcome State Fault Refusal :=
  let d := s.dirAt line
  match d.acks.find? (fun a => a.1 == die) with
  | none => .next s
  | some a =>
    let r := dirHandle s line d.slot 4 die ⟨0, 64⟩ [] 0
    let d' := if r.nack || r.callBack then d else r.entry
    .next ((s.setDir line { d' with acks := d'.acks.erase a }).ackLine line a.2)

/-- RECALL: the owner die receives the recall and sends its span back (R208). -/
def execRecall (die line : Nat) (s : State) : Host.Outcome State Fault Refusal :=
  let d := s.dirAt line
  match d.out.find? (fun x => match x with | .recall t _ => t == die | _ => false) with
  | some m => .next (s.setDir line { d with out := d.out.erase m, returns := d.returns ++ [die] })
  | none => .next s

/-- RETURN_MSG: an owner's span reaches the directory; the line has no owner (R208). -/
def execReturnMsg (die line : Nat) (s : State) : Host.Outcome State Fault Refusal :=
  let d := s.dirAt line
  if d.returns.contains die then
    let d0 := { d with returns := d.returns.erase die, owner := if d.owner = some die then none else d.owner }
    let r := dirHandle (s.setDir line d0) line d0.slot 5 die ⟨0, 64⟩ [] 0
    .next ((s.setDir line (if r.nack || r.callBack then d0 else r.entry)).l2Drop die line ⟨0, 64⟩)
  else .next s

/-- A write or atomic of an engine or of the fabric handled at the directory, its messages to the sharers and their answers taken together, once
no lease holds it (R205, R207, log 24): invalidated copies go, updated ones take the bytes, an owner gives the line back. -/
def State.dirEngine (s : State) (m die : Nat) (p : Phys) (sp : Span) (bytes : List (Nat × Byte)) : State :=
  let line := p.pa / 256
  if !p.pte.inL2 || (homeDie p.pa == die && (s.dirAt line).st == 0) then s
  else
    let free (t : State) : State := match (t.dirAt line).owner with
      | some o => if o = die then t else (t.setDir line { t.dirAt line with owner := none, returns := [] }).l2Drop o line ⟨0, 64⟩
      | none => t
    let r0 := dirHandle s line p.pte.prot m die sp bytes 0
    let s1 := if r0.callBack then free s else s
    let r := dirHandle s1 line p.pte.prot m die sp bytes 0
    if r.nack then s1
    else
      let mine (x : DirMsg) : Bool := match x with | .inval _ _ o => o == 0 | .update _ _ _ o => o == 0 | .recall _ _ => false
      let s2 := s1.setDir line { r.entry with out := r.entry.out.filter (fun x => !mine x) }
      (r.entry.out.filter mine).foldl (fun (t : State) x => match x with
        | .inval d q _ => t.l2Drop d line q
        | .update d _ bs _ => t.l2Update d line bs
        | .recall _ _ => t) s2

/-- L1_TAG_SWEEP: copies more than 2^18 gt past their lease end go (R202). -/
def execL1TagSweep (core : Nat) (s : State) : Host.Outcome State Fault Refusal :=
  .next (s.l1Drop core (fun _ l => decide (l.endGt + 2 ^ 18 < s.coreGt core)))

/-- PREDICTOR_DECAY: each nonzero contention counter falls by 1, every 16,384 gt (R210). -/
def execPredictorDecay (s : State) : Host.Outcome State Fault Refusal :=
  let dec (t : Table Nat) : Table Nat := (Table.map t (fun _ v => v - 1)).filter (fun p => p.2 != 0)
  if s.gt < s.ms.decayed + 16384 then .next s
  else .next { s with ms := { s.ms with predictor := dec s.ms.predictor, homePredictor := dec s.ms.homePredictor, decayed := s.ms.decayed + 16384 } }

end Sys2Proof.Machine
end

