-- ==== Sys2Proof/Machine/Walk.lean ====
section
/-! DEFINITION. Memory as engines read and write it, and the format and walk of sparse trees (R275-R287). -/

namespace Sys2Proof.Machine

/-- Bits of a number. -/
def field (v lo n : Nat) : Nat := v / 2 ^ lo % 2 ^ n

/-- A 32-bit field as a signed number. -/
def sfield (v lo : Nat) : Int := (BitVec.ofNat 32 (v / 2 ^ lo)).toInt

/-! ## Engine accesses to memory -/

/-- Whether a frame is locked while its page moves (R240, R392). -/
def State.locked (s : State) (pa : Nat) : Bool := s.ms.migrations.any (fun m => decide (m.old ≤ pa) && decide (pa < m.old + m.size))

/-- Whether no die's slice holds a write of `n` bytes by an unexpired lease (R200), nor the lock of a migration (R240). -/
def engineClear (s : State) (p : Phys) (n : Nat) : Bool :=
  !s.locked p.pa && (p.pte.ord == 2 || (List.range 4).all (fun d => (List.range n).all (fun i =>
    let e := s.leaseEnd d (p.pa + i)
    e == 0 || decide (e + 2 ≤ s.gt))))

/-- Whether the page that a floe moves can go over to its new frame (R392): no lease on a line of the frame, and nothing holds the entry's bytes
(R200, R240). -/
def State.migrationFree (s : State) (h : Nat) : Bool :=
  match s.ms.migrations.find? (fun m => m.floe == h) with
  | none => true
  | some m =>
    let others := { s with ms := { s.ms with migrations := s.ms.migrations.filter (fun x => x.floe != h) } }
    engineClear others ⟨m.ea, 0⟩ 16
      && (Table.search s.ms.slice (fun k e => decide (m.new / 32 ≤ k % 2 ^ 47) && decide (k % 2 ^ 47 < (m.new + m.size) / 32) && decide (s.gt < e + 2))).isNone

/-- A byte written for an engine of a core, or from the fabric, by message `m` (R207): the directory's exchange, the words held exclusive
returned, the byte performed at home and in any copy the exchange leaves (R204, R237). -/
def State.engineByte (s : State) (m core ctx : Nat) (e : Pte) (pa : Nat) (v : Byte) : State :=
  let s1 := ((s.dirEngine m (coreDie core) ⟨pa, e⟩ ⟨pa % 256 / 4, 1⟩ [(pa % 256, v)]).exclReturn core pa 1).writeByte core ctx e pa v
  { s1 with ms := { s1.ms with l2 := Table.map s1.ms.l2 (fun k t =>
      if k % 2 ^ 44 = pa / 256 ∧ (Table.find? t (pa % 256)).isSome then Table.insert t (pa % 256) v else t) } }

/-- Bytes of a virtual range read by an engine in a world; the first check that fails, with its address. A frame on another device is
no memory an engine reads (log 28). -/
def readVirt (s : State) (core ctx : Nat) (secure : Bool) (va : Dword) (n : Nat) : Except (Cause × Dword) (List Byte) :=
  let one (i : Nat) : Except (Cause × Dword) Byte :=
    let a := va + BitVec.ofNat 64 i
    match translate s core ctx secure .read a with
    | .error c => .error (c, a)
    | .ok p => if p.pte.remote then .error (.pagePermission, a) else .ok (readThrough s ctx p.pte p.pa)
  let rec go : Nat → Nat → Except (Cause × Dword) (List Byte)
    | 0, _ => .ok []
    | k + 1, i => match one i with
      | .error x => .error x
      | .ok b => (match go k (i + 1) with | .error x => .error x | .ok t => .ok (b :: t))
  go n 0

/-- The sectors that lie whole in a list of bytes lose their poison (R409). -/
def State.unpoison (s : State) (pas : List Nat) : State :=
  if s.ms.poison.isEmpty then s
  else { s with ms := { s.ms with poison := s.ms.poison.filter (fun q => !((List.range 32).all (fun i => pas.contains (32 * q.1 + i)))) } }

/-- Bytes of a virtual range written by an engine, words of a write-once page marked; the first check that fails, with nothing written. -/
def writeVirt (s : State) (core ctx : Nat) (secure : Bool) (va : Dword) (bs : List Byte) : Except (Cause × Dword) State :=
  let look (i : Nat) : Except (Cause × Dword) Phys :=
    let a := va + BitVec.ofNat 64 i
    match translate s core ctx secure .write a with
    | .error c => .error (c, a)
    | .ok p => if p.pte.remote then .error (.pagePermission, a) else if s.markHit p.pte p.pa 1 then .error (.writeOnceViolation, a) else .ok p
  match (List.range bs.length).findSome? (fun i => match look i with | .error x => some x | .ok _ => none) with
  | some x => .error x
  | none => .ok (((List.range bs.length).foldl (fun t i => match look i with
      | .ok p => (let u := t.engineByte 1 core ctx p.pte p.pa (bs.getD i 0); u.markWords (s.writeOnce p.pte.prot (p.pa / 256) 1) p.pa 1)
      | .error _ => t) s).unpoison ((List.range bs.length).filterMap (fun i => match look i with | .ok p => some p.pa | .error _ => none)))

/-- Whether every byte of a virtual range that an engine would write can be written now, no lease and no lock holding it (R200, R240). -/
def writeFree (s : State) (core ctx : Nat) (secure : Bool) (va : Dword) (n : Nat) : Bool :=
  (List.range n).all (fun i => match translate s core ctx secure .write (va + BitVec.ofNat 64 i) with
    | .ok p => p.pte.remote || engineClear s p 1
    | .error _ => true)

/-- The next journal write of a partition reaches memory once no lease or lock holds it (R200, R240); one that faults writes nothing (R337). -/
def State.journalPart (s : State) (part : Nat) : State :=
  match s.jOut.find? (fun w => w.part == part) with
  | none => s
  | some w =>
    let core := partCore part
    let t := { s with jOut := s.jOut.erase w }
    if !writeFree s core w.ctx (coreSecure s core) w.va w.bytes.length then s
    else match writeVirt t core w.ctx (coreSecure s core) w.va w.bytes with
      | .ok u => u
      | .error _ => t

/-- A fault met on a walk: its cause and the address; with a place, a word there of another device that has not come (R384). -/
abbrev WalkFault := Cause × Dword × Option Phys

/-! ## Descriptor, header, addresses (R276, R277, R279, R280) -/

structure TreeDesc where
  base : Nat
  leafBase : Nat
  gen : Nat
  hbits : Nat
  fold : Bool
  ch : List Nat
  bg : List Nat
  deriving DecidableEq, Repr

/-- A descriptor's fields; none for an invalid one (R276). A value outside the Values column is invalid. -/
def parseTree (bs : List Byte) : Option TreeDesc :=
  let v := natOf bs
  let ch := (List.range 8).map (fun c => field v (168 + 2 * c) 2)
  let bg := (List.range 8).map (fun c => field v (256 + 32 * c) 32)
  let hb := field v 160 5
  let bad : Bool := field v 0 64 % 4096 != 0 || field v 64 64 % 256 != 0 || decide (hb < 4 ∨ 20 < hb) || decide (2 ≤ field v 165 2)
    || field v 167 1 != 0 || field v 184 72 != 0 || ch.all (· == 0) || (List.range 8).any (fun c => ch.getD c 0 == 0 && bg.getD c 0 != 0)
  if bad then none
  else some { base := field v 0 64, leafBase := field v 64 64, gen := field v 128 32, hbits := hb, fold := field v 165 2 == 1, ch := ch, bg := bg }

/-- The bytes of one element of a channel, and of a channel's block. -/
def chanBytes (t : TreeDesc) (c : Nat) : Nat := match t.ch.getD c 0 with | 0 => 0 | 1 => 4 | _ => 2
def chanFmt (t : TreeDesc) (c : Nat) : Fmt := match t.ch.getD c 0 with | 1 => .fp32 | 2 => .fp16 | _ => .bf16
def chanOff (t : TreeDesc) (c : Nat) : Nat := 256 + ((List.range c).map (fun k => 512 * chanBytes t k)).foldl (· + ·) 0
def leafSize (t : TreeDesc) : Nat := chanOff t 8
def leafAt (t : TreeDesc) (j : Nat) : Nat := t.leafBase + leafSize t * j
def nodeAt (t : TreeDesc) (i : Nat) : Nat := t.base + 64 + 16 * 2 ^ t.hbits + 320 * i
def entryAt (t : TreeDesc) (h : Nat) : Nat := t.base + 64 + 16 * h

/-- The value no list or entry holds. -/
def noIndex : Nat := 0xFFFFFFFF

/-- A coordinate as a 32-bit pattern, and back. -/
def coordBits (x : Int) : Nat := (x % 2 ^ 32).toNat
def coordOf (v : Nat) : Int := (BitVec.ofNat 32 v).toInt
def coordFits (x : Int) : Bool := decide (-(2 ^ 31 : Int) ≤ x) && decide (x < 2 ^ 31)

/-- Child index at a shift, leaf origin and voxel offset (R275). -/
def childIx (sh : Nat) (x y z : Int) : Nat :=
  ((x / 2 ^ sh) % 4).toNat + 4 * ((y / 2 ^ sh) % 4).toNat + 16 * ((z / 2 ^ sh) % 4).toNat
def voxelOf (x y z : Int) : Nat := (x % 8).toNat + 8 * (y % 8).toNat + 64 * (z % 8).toNat
def alignTo (n : Int) (x : Int) : Int := x / n * n

/-- The slot a root key hashes to (R278). -/
def rootSlot (t : TreeDesc) (kx ky kz : Int) : Nat :=
  if t.fold then (coordBits kx ^^^ (coordBits ky * 2 ^ 10 % 2 ^ 32) ^^^ (coordBits kz * 2 ^ 20 % 2 ^ 32)) % 2 ^ t.hbits
  else ((coordBits kx * 0x9E3779B1 % 2 ^ 32) ^^^ (coordBits ky * 0x85EBCA77 % 2 ^ 32) ^^^ (coordBits kz * 0xC2B2AE3D % 2 ^ 32)) / 2 ^ (32 - t.hbits)

/-! ## Reading tree memory -/

/-- The memory a walk reads: the machine, the core and context, the world, and the words of other devices that have come for it. -/
structure TreeView where
  s : State
  core : Nat
  ctx : Nat
  secure : Bool
  far : Table FarWord

/-- A byte of tree memory. -/
def TreeView.byte (v : TreeView) (a : Dword) : Except WalkFault Nat :=
  match translate v.s v.core v.ctx v.secure .read a with
  | .error c => .error (c, a, none)
  | .ok p =>
    if p.pte.remote then
      (match Table.find? v.far (a.toNat / 8) with
       | some w => (match w.err with | some c => .error (c, a, none) | none => .ok (w.word.extractLsb' (8 * (a.toNat % 8)) 8).toNat)
       | none => .error (.pagePermission, a, some ⟨p.pa / 8 * 8, p.pte⟩))
    else .ok (readThrough v.s v.ctx p.pte p.pa).toNat

/-- `n` bytes of tree memory as a number; the first of them that faults. -/
def TreeView.rd (v : TreeView) : Nat → Nat → Except WalkFault Nat
  | _, 0 => .ok 0
  | va, n + 1 => match v.byte (BitVec.ofNat 64 va) with
    | .error e => .error e
    | .ok b => (match TreeView.rd v (va + 1) n with | .error e => .error e | .ok r => .ok (b + 256 * r))

/-- The fault of an index or level that the tree's format forbids (R287, R296). -/
def badTree (va : Nat) : WalkFault := (.treeDescriptor, BitVec.ofNat 64 va, none)

/-- What a probe of the root table finds: the N3 node, else the first empty entry, if any (R278). -/
inductive Probe where
  | found (node : Nat)
  | empty (slot : Nat)
  | full
  deriving DecidableEq, Repr

def probeFrom (v : TreeView) (t : TreeDesc) (kx ky kz : Int) (h : Nat) : Nat → Nat → Except WalkFault Probe
  | 0, _ => .ok .full
  | n + 1, j =>
    let e := (h + j) % 2 ^ t.hbits
    match v.rd (entryAt t e) 16 with
    | .error x => .error x
    | .ok w =>
      if field w 96 32 = noIndex then .ok (.empty e)
      else if field w 0 32 = coordBits kx ∧ field w 32 32 = coordBits ky ∧ field w 64 32 = coordBits kz then .ok (.found (field w 96 32))
      else probeFrom v t kx ky kz h n (j + 1)

def probe (v : TreeView) (t : TreeDesc) (x y z : Int) : Except WalkFault Probe :=
  probeFrom v t (x / 512) (y / 512) (z / 512) (rootSlot t (x / 512) (y / 512) (z / 512)) (2 ^ t.hbits) 0

/-- A node's header: its masks; TREE_DESCRIPTOR for an index or level that does not fit. -/
def readNode (v : TreeView) (t : TreeDesc) (i level : Nat) : Except WalkFault (Nat × Nat) :=
  match v.rd (t.base + 4) 4 with
  | .error x => .error x
  | .ok ncap =>
    if ncap ≤ i then .error (badTree (nodeAt t i))
    else match v.rd (nodeAt t i) 32 with
      | .error x => .error x
      | .ok w => if field w 224 8 ≠ level then .error (badTree (nodeAt t i)) else .ok (field w 0 64, field w 64 64)

/-- A leaf index within the pool. -/
def checkLeaf (v : TreeView) (t : TreeDesc) (j : Nat) : Except WalkFault Nat :=
  match v.rd (t.base + 12) 4 with
  | .error x => .error x
  | .ok lcap => if lcap ≤ j then .error (badTree (leafAt t j)) else .ok j

/-- A path from the root toward a coordinate: the nodes met from N3 down, and the leaf. -/
structure Path where
  nodes : List Nat
  leaf : Option Nat
  deriving DecidableEq, Repr

/-- The shift of a node's children, by its level. -/
def nodeShift : Nat → Nat
  | 3 => 7 | 2 => 5 | _ => 3

/-- `lookup(c)` from a node of a level down (R287). -/
def descend (v : TreeView) (t : TreeDesc) (x y z : Int) : Nat → Nat → List Nat → Except WalkFault Path
  | 0, j, ns => (match checkLeaf v t j with | .error e => .error e | .ok k => .ok ⟨ns, some k⟩)
  | level + 1, i, ns =>
    match readNode v t i (level + 1) with
    | .error e => .error e
    | .ok (cm, _) =>
      let k := childIx (nodeShift (level + 1)) x y z
      if !cm.testBit k then .ok ⟨ns ++ [i], none⟩
      else match v.rd (nodeAt t i + 64 + 4 * k) 4 with
        | .error e => .error e
        | .ok c => descend v t x y z level c (ns ++ [i])

/-- The whole path; no node when the root key is absent. -/
def lookupPath (v : TreeView) (t : TreeDesc) (x y z : Int) : Except WalkFault Path :=
  match probe v t x y z with
  | .error e => .error e
  | .ok (.found n) => descend v t x y z 3 n []
  | .ok _ => .ok ⟨[], none⟩

/-! ## The leaf cache (R284) -/

/-- `lookup(c)` through the core's cache: the leaf, and the machine with the cache filled. -/
def cachedLookup (s : State) (v : TreeView) (t : TreeDesc) (slot : Nat) (x y z : Int) : Except WalkFault (Option Nat × State) :=
  let o := (alignTo 8 x, alignTo 8 y, alignTo 8 z)
  let gs := match Table.find? (s.core v.core).slots slot with | some k => k.gs | none => 0
  match (s.core v.core).leafCache.find? (fun e => e.slot == slot && e.x == o.1 && e.y == o.2.1 && e.z == o.2.2 && e.gen == gs) with
  | some e => .ok (some e.leaf, s)
  | none =>
    match lookupPath v t x y z with
    | .error e => .error e
    | .ok p =>
      match p.leaf with
      | none => .ok (none, s)
      | some j =>
        let e : LeafEntry := ⟨slot, o.1, o.2.1, o.2.2, gs, j, s.ctxTag v.ctx⟩
        .ok (some j, s.modCore v.core (fun c =>
          { c with leafCache := (if 256 ≤ c.leafCache.length then c.leafCache.eraseIdx (Config.victim s.gt (c.leafCache.map (fun k => k.leaf)) % 256) else c.leafCache) ++ [e] }))

/-- A slot whose GEN is to be read again reads it (R283). -/
def slotRefresh (s : State) (v : TreeView) (slot : Nat) : Except WalkFault State :=
  match Table.find? (s.core v.core).slots slot with
  | none => .ok s
  | some k =>
    if !k.reread then .ok s
    else match v.rd (k.addr.toNat + 16) 4 with
      | .error e => .error e
      | .ok g => .ok (s.modCore v.core (fun c => { c with slots := Table.insert c.slots slot { k with gs := g, reread := false } }))

/-- The descriptor a slot of a core is bound to. -/
def boundTree (s : State) (core ctx slot : Nat) : Option (TreeSlot × TreeDesc) :=
  match Table.find? (s.core core).slots slot with
  | some k => if k.ctx = ctx then (parseTree k.desc).map (fun d => (k, d)) else none
  | none => none

/-- The numbers a tree operation holds in `info`: which it is, and its slot. -/
def Op.treeCode (o : Op) : Nat := o.info.getD 0 0
def Op.treeSlot (o : Op) : Nat := o.info.getD 1 0

/-- The bytes of memory that a lane of TWST may write, by physical address and length: its element, and under .bnd the bounds above it (R305). -/
def twstPlaces (s : State) (o : Op) (la : LaneAcc) : List (Nat × Nat) :=
  let v : TreeView := ⟨s, o.core, o.ctx, coreSecure s o.core, o.far⟩
  match boundTree s o.core o.ctx o.treeSlot with
  | none => []
  | some (_, t) =>
    let c := o.word.m.toNat % 8
    let byRef := o.word.m.getLsbD 3
    let at_ (j : Nat) : Option (Int × Int × Int) :=
      if byRef then (match v.rd (leafAt t j) 12 with | .ok w => some (coordOf (field w 0 32), coordOf (field w 32 32), coordOf (field w 64 32)) | .error _ => none)
      else some (coordOf (field la.data 0 32), coordOf (field la.data 32 32), coordOf (field la.data 64 32))
    let leaf : Option Nat :=
      if byRef then (if la.data.testBit 63 then none else some (field la.data 0 32))
      else match at_ 0 with
        | some (x, y, z) => (match cachedLookup s v t o.treeSlot x y z with | .ok r => r.1 | .error _ => none)
        | none => none
    match leaf with
    | none => []
    | some j =>
      let vox := if byRef then field la.data 64 9 else (match at_ 0 with | some (x, y, z) => voxelOf x y z | none => 0)
      let nodes := match (if o.word.y.getLsbD 0 then at_ j else none) with
        | some (x, y, z) => (match lookupPath v t x y z with | .ok p => p.nodes | .error _ => [])
        | none => []
      let bounds := if o.word.y.getLsbD 0 then [leafAt t j + 64 + 4 * c, leafAt t j + 32 + 4 * c] ++ nodes.map (fun k => nodeAt t k + 32 + 4 * c) else []
      let vas := (leafAt t j + chanOff t c + vox * chanBytes t c, chanBytes t c) :: bounds.map (fun a => (a, 4))
      vas.filterMap (fun a => match translate s o.core o.ctx v.secure .write (BitVec.ofNat 64 a.1) with
        | .ok p => if p.pte.remote then none else some (p.pa, a.2)
        | .error _ => none)

end Sys2Proof.Machine
end

