-- ==== Sys2Proof/Machine/Lsu.lean ====
section
/-! DEFINITION. Classes 6 to 8: the lane transfers (R166-R179, R188-R192) and the atomics and pins (R210-R218): their issue, and what
their return, performing and fault do. -/

namespace Sys2Proof.Machine

/-! ## Addresses and data (R168-R170) -/

/-- The byte offset of an access: the X word's, else imm8 times the size where C holds one (R41). -/
def accessOff (w : FWord) (size : Nat) (inC : Bool) : Int :=
  match w.x with
  | some x => x.imm.toInt
  | none => if inC then w.c.toInt * size else 0

/-- A lane's address; none when its base or index is invalid (R168, R170). -/
def laneAddr (s : State) (f : Floe) (w : FWord) (size : Nat) (off : Int) (l : Nat) : Option Dword :=
  let a := rdOp s f l w.a 2
  let b := if w.b = 0xFF then (0, true) else rdOp s f l w.b 1
  if a.2 && b.2 then some (BitVec.ofInt 64 ((a.1 : Int) + (BitVec.ofNat 32 b.1).toInt * size + off)) else none

/-- The registers a word of a lane transfer takes (R169). -/
def accWords (size : Nat) : Nat := max 1 (size / 4)

/-- A lane's access that nothing has happened to yet. -/
def newAcc (lane : Nat) (va : Dword) (data swap : Nat) (valid : Bool) : LaneAcc :=
  { lane := lane, va := va, data := data, swap := swap, valid := valid, reply := none, err := none, place := none, done := false }

/-- A lane of RECV (R340): the word of the batch's record that its indices name, none where one is invalid or out of range. -/
def recvLane (s : State) (f : Floe) (w : FWord) (l : Nat) : Option LaneAcc :=
  let r := rdOp s f l w.a 1
  let o := rdOp s f l w.b 1
  match s.inst? f.ctx f.inst with
  | none => none
  | some i => i.queue.bind (fun q =>
      let size : Nat := if q.big then 256 else 64
      if !(r.2 && o.2) ∨ i.batch ≤ r.1 ∨ size / 4 ≤ o.1 then none
      else some (newAcc l (q.base + BitVec.ofNat 64 ((i.first + r.1) % 2 ^ 32 % q.cap * size + 4 * o.1)) 0 0 true))

/-- The lanes' accesses of an operation over `exec`, and the lanes nullified (R170, R179, R190, R216): a store of invalid data to global memory
is one. An operation that makes one access for the floe reads a lane that nothing determines where %lane is a source (log 22). -/
def opLanes (s : State) (f : Floe) (o : Op) (exec : Mask) : List LaneAcc × List Nat :=
  let ls := if o.uniform then (maskLanes exec).take 1 else maskLanes exec
  let k := accWords o.size
  let n := o.size
  let at_ (l : Nat) : Nat := if o.uniform then freeLane s exec else l
  let each (g : Nat → Dword → Option LaneAcc) : List LaneAcc × List Nat :=
    let rs := ls.map (fun l => (l, (laneAddr s f o.word n o.off (at_ l)).bind (g l)))
    (rs.filterMap Prod.snd, (rs.filter (fun r => r.2.isNone)).map Prod.fst)
  match o.kind with
  | .store | .storeRemote _ => each (fun l va =>
      let d := rdOp s f (at_ l) o.word.d k
      if d.2 || inFirn va then some (newAcc l va d.1 0 d.2) else none)
  | .compress start =>
    match laneAddr s f o.word n o.off 0 with
    | none => ([], [])
    | some base =>
      let vs := (ls.map (fun l => (l, rdOp s f l o.word.d k))).filter (fun p => p.2.2)
      (vs.mapIdx (fun i p => newAcc p.1 (base + BitVec.ofNat 64 ((start + i) * n)) p.2.1 0 true), [])
  | .expand start =>
    match laneAddr s f o.word n o.off 0 with
    | none => ([], ls)
    | some base => (ls.mapIdx (fun i l => newAcc l (base + BitVec.ofNat 64 ((start + i) * n)) 0 0 true), [])
  | .atomic .cas _ =>
    each (fun l va => let d := rdOp s f (at_ l) o.word.d (2 * k)
      if d.2 then some (newAcc l va (d.1 % 2 ^ (32 * k)) (d.1 / 2 ^ (32 * k)) true) else none)
  | .atomic _ _ => each (fun l va => let d := rdOp s f (at_ l) o.word.d k; if d.2 then some (newAcc l va d.1 0 true) else none)
  | .recv =>
    let rs := ls.map (fun l => (l, recvLane s f o.word l))
    (rs.filterMap Prod.snd, (rs.filter (fun r => r.2.isNone)).map Prod.fst)
  | _ => each (fun l va => some (newAcc l va 0 0 true))

/-- An operation with the lanes that have still to take effect (R172). -/
def Op.todo (o : Op) : Op := { o with lanes := o.lanes.filter (fun la => !la.done) }

/-! ## Where a lane's access goes (R168, R173, R388) -/

/-- What an operation wants of the page (R388). -/
def Op.want (o : Op) : Want := if o.writes then .write else .read

/-- The message by which an operation's write asks a directory (R207). -/
def Op.msg (o : Op) : Nat := match o.kind with | .atomic _ _ => 2 | _ => 1

/-- Where a lane's access goes, or the first check of orders 1 to 10 of R388 that fails. -/
def laneLook (s : State) (o : Op) (la : LaneAcc) : Except Cause View :=
  let firn (core : Nat) : Except Cause View :=
    if firnAllowed s core o.ctx o.inst (firnOff la.va) o.size then .ok (.firn core (firnOff la.va)) else .error .pagePermission
  if la.va.toNat % o.size ≠ 0 then .error .misalignedAccess
  else
    match o.kind with
    | .loadRemote c | .storeRemote c => if inFirn la.va then firn c else .error .pagePermission
    | _ =>
      if inFirn la.va then (match o.kind with | .lock | .unlock => .ok (.firn o.core 0) | _ => firn o.core)
      else
        match translateCore s o.core o.ctx o.want la.va with
        | .error x => .error x
        | .ok p => .ok (if p.pte.remote then .remote p else .mem p)

/-- The target of one lane's access, or the first check of R388 that fails: where its request went, once it has left, else where it goes
now; a marked word and an answer of the directory or of another device may still fault it (R206, R208, R412, R415). -/
def laneView (s : State) (o : Op) (la : LaneAcc) : Except Cause View :=
  match (match la.place with | some v => Except.ok v | none => laneLook s o la) with
  | .error x => .error x
  | .ok (.firn c off) => .ok (.firn c off)
  | .ok (.remote p) =>
    (match la.err with
     | some x => .error x
     | none => if o.failed ∧ la.reply = none then .error .linkUnreachable else .ok (.remote p))
  | .ok (.mem p) =>
    let line := p.pa / 256
    let meets : Bool := (List.range ((p.pa % 4 + o.size + 3) / 4)).any (fun i => s.marked (p.pa + 4 * i))
    if o.writes && meets && (p.pte.prot == 3 || (!o.granted.contains line && s.writeOnce p.pte.prot line o.msg)) then .error .writeOnceViolation
    else if o.refused.contains line then .error .pagePermission
    else .ok (.mem p)

/-- The first lane whose access faults, in the operation's order (R177, R179). -/
def Op.fault? (s : State) (o : Op) : Option (LaneAcc × Cause) :=
  o.lanes.findSome? (fun la => match laneView s o la with | .error x => some (la, x) | .ok _ => none)

/-- A key that two accesses share exactly when they are to one place, with its length. -/
def viewKey (v : View) : Nat :=
  match v with
  | .firn c off => 2 ^ 60 + c * 2 ^ 24 + off
  | .mem p => p.pa
  | .remote p => 2 ^ 100 + p.pte.dev * 2 ^ 60 + p.pa

/-- The places of an operation's lanes that do not fault. -/
def Op.views (s : State) (o : Op) : List View := o.lanes.filterMap (fun la => (laneView s o la).toOption)

/-- The places that an operation's lanes have still to reach, each with its length: for TWST those its voxels lie at, for other operations of an
engine none. -/
def Op.touches (s : State) (o : Op) : List (Nat × Nat) :=
  match o.kind with
  | .walker => if o.isSt then o.lanes.flatMap (twstPlaces s o) else []
  | .alloc | .halo | .msg | .coll | .enq | .launch | .event => []
  | _ => (o.todo.views s).map (fun v => (viewKey v, o.size))

/-- Whether two operations have an access to one byte, where it is left to do. -/
def opsMeet (s : State) (a b : Op) : Bool :=
  let vs := b.touches s
  (a.touches s).any (fun u => vs.any (fun v => decide (u.1 < v.1 + v.2) && decide (v.1 < u.1 + u.2)))

/-- Whether an operation is a read of the walker, whose places its walk finds. -/
def Op.walkRead (o : Op) : Bool := o.kind == .walker && !o.isSt

/-! ## Performing -/

/-- One lane of a store performed at its target (R190, R200): valid data written, invalid data only to firn. The core's own L1 copy took the
bytes when the request left, if it has. -/
def storeAt (s : State) (o : Op) (la : LaneAcc) (v : Except Cause View) : State :=
  match v with
  | .ok (.firn core off) => s.firnStore core off o.size la.data la.valid
  | .ok (.mem p) =>
    if la.valid && !o.skip.contains (p.pa / 256) then
      let byte (i : Nat) : Byte := BitVec.ofNat 8 (la.data / 2 ^ (8 * i))
      let s1 := (List.range o.size).foldl (fun t i =>
        if o.left.isSome then t.homeByte o.core o.ctx p.pte (p.pa + i) (byte i) else t.writeByte o.core o.ctx p.pte (p.pa + i) (byte i)) (s.exclReturn o.core p.pa o.size)
      s1.markWords (s.writeOnce p.pte.prot (p.pa / 256) o.msg || o.marks.contains (p.pa / 256)) p.pa o.size
    else s
  | _ => s

def storeLane (s : State) (o : Op) (la : LaneAcc) : State := storeAt s o la (laneView s o la)

/-- The sectors every byte of which an operation writes lose their poison (R409). -/
def clearPoison (s0 : State) (o : Op) (s : State) : State :=
  s.unpoison (o.lanes.flatMap (fun la => match laneView s0 o la with
    | .ok (.mem p) => if la.valid then (List.range o.size).map (fun i => p.pa + i) else []
    | _ => []))

/-- A store performed: the targets as they stand before it, its lanes in ascending order, so that the highest lane wins a byte (R172). -/
def performStore (s : State) (o : Op) : State := clearPoison s o (o.lanes.foldl (fun t la => storeAt t o la (laneView s o la)) s)

/-- Operations in the order in which their requests have left their cores, those that have not by number last. -/
def leftOrder (l : Table Op) : Table Op :=
  let key (p : Nat × Op) : Nat := match p.2.left with | some k => k | none => 2 ^ 64 + p.1
  l.foldl (fun (acc : Table Op) p => acc.takeWhile (fun q => decide (key q ≤ key p)) ++ p :: acc.dropWhile (fun q => decide (key q ≤ key p))) []

/-- Whether an operation reads memory lane by lane, or writes it as an atomic. -/
def Op.laneRead (o : Op) : Bool := match o.kind with | .load => true | .expand _ => true | .recv => true | .atomic _ _ => true | _ => false

/-- Whether an operation is a store of data that it holds. -/
def Op.plainStore (o : Op) : Bool := match o.kind with | .store => true | .storeRemote _ => true | .compress _ => true | _ => false

/-- The machine as an agent of a core sees it: the stores that readers of the core get before they are performed, performed (R222, R225), and
with floe `h` its own before operation `id` (R223). -/
def viewOf (s : State) (core : Nat) (own : Option (Nat × Nat)) : State :=
  (leftOrder (Table.keep s.ops (fun i p => p.plainStore && p.state == .inFlight &&
      ((p.core == core && p.vis) || (match own with | some (h, id) => p.floe == h && decide (i < id) | none => false))))).foldl
    (fun t e => e.2.todo.lanes.foldl (fun u la => storeAt u { e.2 with left := none } la (laneView t e.2 la)) t) s

def ownView (s : State) (id : Nat) (o : Op) : State := viewOf s o.core (some (o.floe, id))

/-- Writes of other floes, not performed yet, that a read of an access's bytes may have returned: those that readers of its core already get,
and those that the directory has let reach some die (R205). -/
def State.seen (s : State) (o : Op) (p : Phys) : List Nat :=
  Table.keys (Table.keep s.ops (fun _ q => q.floe != o.floe && q.writes && q.state == .inFlight
    && ((q.core == o.core && q.vis) || q.granted.contains (p.pa / 256) || q.lanes.any (fun la => la.done))
    && q.lanes.any (fun la => match la.place with
        | some (.mem y) => decide (y.pa < p.pa + o.size) && decide (p.pa < y.pa + q.size)
        | _ => false)))

/-- Writes of others that a floe has read join those its releases cover (R227). -/
def State.noteSeen (s : State) (o : Op) (p : Phys) : State :=
  let new := s.seen o p
  if new.isEmpty then s
  else s.modFloe o.floe (fun f => { f with seen := (f.seen.filter (fun i => (Table.find? s.ops i).isSome && !new.contains i)) ++ new })

/-- The bytes a lane reads, and the validity of each destination word (R170). They are read when the data returns; that a load of the floe's
own registers in the firn window so returns the value after every write before then is the model's choice among those of R108 (log 92). -/
def loadLane (s : State) (o : Op) (la : LaneAcc) : Nat × List Bool :=
  match laneView s o la with
  | .ok (.firn core off) => s.firnBytes core off o.size
  | .ok (.mem p) =>
    (natOf ((List.range o.size).map (fun i => s.readByte o.core o.ctx p.pte (p.pa + i))), List.replicate (accWords o.size) true)
  | _ => (la.reply.getD 0, List.replicate (accWords o.size) true)

/-- Sign or zero extension of a value of `n` bytes (R169). -/
def extendLoad (n : Nat) (signed : Bool) (v : Nat) : Nat :=
  if n < 4 ∧ signed ∧ 2 ^ (8 * n - 1) ≤ v then v + 2 ^ 32 - 2 ^ (8 * n) else v

/-- Register words written with their own validity. -/
def State.wrWords (s : State) (f : Floe) (lane : Nat) : List Reg → Nat → List Bool → State
  | [], _, _ => s
  | r :: rs, v, vs => State.wrWords (s.wrReg f r lane ⟨BitVec.ofNat 32 v, vs.headD true⟩) f lane rs (v / 2 ^ 32) vs.tail

/-- Whether a write that has reached the slice, or a message of the directory, is held there for a sector: no lease is granted on it (R200,
R203). -/
def leaseDenied (s : State) (id : Nat) (o : Op) (p : Phys) : Bool :=
  (Table.search s.ops (fun i q => i != id && q.writes && q.state == .inFlight && (q.left.isSome || !q.granted.isEmpty) && q.lanes.any (fun x =>
    match x.place with | some (.mem y) => !x.done && y.pa / 32 == p.pa / 32 | _ => false))).isSome
    || s.dieHeld (coreDie o.core) p.pa

/-- One lane of a load: the data in its destination, the span in L1 where it missed (R189, R199). A sector with a write pending gives no lease
(R200). -/
def loadLaneDone (id : Nat) (o : Op) (f : Floe) (view s : State) (la : LaneAcc) : State :=
  let r := loadLane view o la
  let s1 := s.wrWords f la.lane o.d (extendLoad o.size o.signed r.1) r.2
  match laneView s o la with
  | .ok (.mem p) => ((s1.exclReturn o.core p.pa o.size).noteSeen o p).l1Fill o.core o.ctx p.pte p.pa o.size (leaseDenied s id o p)
  | _ => s1

/-- Whether an operation goes to the home of memory on another device: LOCK and UNLOCK do not. -/
def Op.travels (o : Op) : Bool := match o.kind with | .lock => false | .unlock => false | _ => true

/-- Whether a lane's reply from another device is in, where it needs one. -/
def Op.answered (s : State) (o : Op) (la : LaneAcc) : Bool :=
  match laneView s o la with | .ok (.remote _) => la.reply.isSome || !o.travels | _ => true

/-- Whether every lane's data is there to return: no READ message to come, every reply of another device in. -/
def Op.dataReady (s : State) (o : Op) : Bool :=
  o.lanes.all (fun la => match laneView s o la with
    | .ok (.mem p) => s.readReady o.core o.ctx p.pte p.pa o.size
    | .ok (.remote _) => o.answered s la
    | .ok _ => true
    | .error _ => false)

/-- Whether an operation's requests may take effect: what it is ordered after has ended, or for a release is performed at its scope, and it is
in flight (R227). -/
def Op.ready (s : State) (o : Op) : Bool := s.endedAt (if o.rel then o.scope else 7) o.after && o.state == .inFlight

/-! ## Writes at the slice and the directory (R200, R208, R210) -/

/-- Whether a write on a line asks the directory (R210): unless the writer is home and no other die is recorded. -/
def asksDirectory (s : State) (o : Op) (p : Phys) : Bool :=
  p.pte.inL2 && (homeDie p.pa != coreDie o.core || (s.dirAt (p.pa / 256)).st != 0)

/-- Whether the directory has taken an operation's writes on a line, where it is asked, no acknowledgement of its own is awaited, and none of
another's on a word of the access (R197, R208). -/
def lineCleared (s : State) (o : Op) (p : Phys) : Bool :=
  let line := p.pa / 256
  let w : Span := ⟨p.pa % 256 / 4, accWords o.size⟩
  (o.granted.contains line || !asksDirectory s o p) && !o.waitAcks.contains line
    && (Table.search s.ops (fun _ q => q.waitAcks.contains line && (q.spansOn line).any (fun x => spansMeet x w))).isNone

/-- Whether a lease holds a write at the slice of its home or of the writer's die (R200), or the lock of a migration does (R240); UNORD writes
are held by no lease (R201). -/
def heldByLease (s : State) (o : Op) (p : Phys) : Bool :=
  let one (die : Nat) : Bool := let e := s.leaseEnd die p.pa; e != 0 && decide (s.gt < e + 2)
  s.locked p.pa || (p.pte.ord != 2 && (one (homeDie p.pa) || one (coreDie o.core)))

/-- Whether what an operation does to the bytes it shares with earlier ones of the machine comes after them: with its floe's (R223), and where
the readers of its core already get another's bytes (R225). A load takes the bytes of its floe's stores from `ownView`. Reads and writes of
the floe around a read of the walker keep their order whatever its walk finds (log 94). -/
def ownFirst (s : State) (id : Nat) (o : Op) : Bool :=
  (Table.search s.ops (fun i p =>
    let mine : Bool := p.floe == o.floe && decide (i < id)
    (mine && p.state == .inFlight && ((p.walkRead && o.writes) || (o.walkRead && p.writes && !p.plainStore && p.kind != .alloc)))
      || (((mine && ((p.state == .inFlight && (o.writes || !p.plainStore)) || (p.writes && p.state == .faulted && o.writes)))
        || (p.core == o.core && i != id && p.vis && o.writes && (match o.left, p.left with | some k, some n => decide (n < k) | _, _ => true)))
      && opsMeet s p o))).isNone

/-- Whether every write that reached the slice of one of an operation's sectors before it has been performed (R200). -/
def arrivalFirst (s : State) (id : Nat) (o : Op) : Bool :=
  let mine := (o.views s).filterMap (fun v => match v with | .mem p => some (p.pa / 32) | _ => none)
  (Table.search s.ops (fun i q => i != id && q.writes && q.state == .inFlight
    && (match q.left, o.left with | some k, some n => decide (k < n) | some _, none => true | none, _ => false)
    && q.lanes.any (fun la => match la.place with | some (.mem p) => !la.done && mine.contains (p.pa / 32) | _ => false))).isNone

/-- Whether an operation's writes can be performed now, leases apart. -/
def Op.writeReady (s : State) (id : Nat) (o : Op) : Bool :=
  o.ready s && ownFirst s id o && arrivalFirst s id o && o.lanes.all (fun la => match laneView s o la with
    | .ok (.mem p) => !o.writes || lineCleared s o p
    | .ok (.remote _) => o.answered s la
    | .ok _ => true
    | .error _ => false)

/-- Whether some lane's write is held by a lease. -/
def Op.leaseHeld (s : State) (o : Op) : Bool :=
  o.writes && o.lanes.any (fun la => match laneView s o la with | .ok (.mem p) => la.valid && heldByLease s o p | _ => false)

/-- The requests of an operation leave the core, each for the place where it goes now (R166): a store's bytes are in the core's own L1 copies
from then on (R200), and where `core` is set every reader of the core gets them, as a release at CORE scope needs (R225). -/
def State.leave (s : State) (id : Nat) (o : Op) (core : Bool) : State :=
  let views := o.lanes.map (fun la => (la, (laneView s o la).toOption))
  let near : Bool := views.all (fun v => match v.2 with | some (.mem p) => p.pte.ord != 1 && decide (p.pte.prot < 3) | some (.firn _ _) => true | _ => false)
  let s1 := (s.takeId.2).modOp id (fun q => { q with
    left := some s.nextId, vis := core && o.plainStore && near, lanes := views.map (fun v => { v.1 with place := v.2 }) })
  if !o.plainStore then s1
  else views.foldl (fun t v => match v.2 with
    | some (.mem p) => if v.1.valid && !p.pte.uc then
        (List.range o.size).foldl (fun u i => u.l1Update o.core o.ctx (p.pa + i) (BitVec.ofNat 8 (v.1.data / 2 ^ (8 * i)))) t else t
    | _ => t) s1

/-- Requests leave once what the operation is ordered after is done, no lane faults, and those of the floe's earlier operations on the same bytes
have left; only lane transfers and atomics have any. -/
def State.sendOp (s : State) (id : Nat) (core : Bool) : State :=
  match Table.find? s.ops id with
  | none => s
  | some o =>
    let first : Bool := (Table.search s.ops (fun i p => decide (i < id) && p.floe == o.floe && p.left.isNone && p.state == .inFlight && opsMeet s p o)).isNone
    if (o.laneRead || o.plainStore) && o.left.isNone && o.ready s && first && (o.fault? s).isNone then s.leave id o core else s

/-- The lanes of an operation that a directory's entry concerns: those still to be done on a line that asks it. -/
def Op.asking (s : State) (o : Op) (line : Nat) : List (LaneAcc × Phys) :=
  o.lanes.filterMap (fun la => match laneView s o la with
    | .ok (.mem p) => if p.pa / 256 = line ∧ asksDirectory s o p then some (la, p) else none
    | _ => none)

/-- WRITE_MSG, ATOMIC_MSG: the directory handles an operation's request on a line, which has then left its core (R207, R208, R210). An entry
with UPD performs the write at home as it sends the updates, once no lease there holds it (R205). -/
def dirRequest (m : Nat) (id line : Nat) (s0 : State) : State :=
  match Table.find? s0.ops id with
  | none => s0
  | some q0 =>
    let o0 := q0.todo
    let go : Bool := o0.ready s0 && ownFirst s0 id o0 && arrivalFirst s0 id o0 && o0.writes && !o0.granted.contains line && o0.msg == m
      && (o0.fault? s0).isNone && !(o0.asking s0 line).isEmpty && !(o0.asking s0 line).any (fun x => s0.locked x.2.pa)
    if !go then s0
    else
      let s := if q0.left.isSome then s0 else s0.leave id q0 false
      let o := match Table.find? s.ops id with | some q => q.todo | none => o0
      match o.asking s line with
      | [] => s
      | (la0, p0) :: rest =>
        let here := (la0, p0) :: rest
        let span (p : Phys) : Span := ⟨p.pa % 256 / 4, accWords o.size⟩
        let sp := here.foldl (fun a x => spanJoin a (span x.2)) (span p0)
        let bytes := here.flatMap (fun x => (List.range o.size).map (fun i => (x.2.pa % 256 + i, (BitVec.ofNat 8 (x.1.data / 2 ^ (8 * i)) : Byte))))
        let busy := s.ops.any (fun q => q.1 != id && q.2.waitAcks.contains line && (q.2.spansOn line).any (fun x => spansMeet x sp))
        let r := dirHandle s line p0.pte.prot m (coreDie o.core) sp bytes id
        let does := entAct r.word (if m = 2 then 12 else 1)
        let upd := entAct r.word 5
        if busy || (upd && here.any (fun x => heldByLease s o x.2)) then s
        else if r.nack then
          s.modOp id (fun q => if entRetry r.word ≤ q.retries then { q with refused := q.refused ++ [line] } else { q with retries := q.retries + 1 })
        else if r.callBack then s.setDir line r.entry
        else
          let s1 := (s.setDir line r.entry).modOp id (fun q =>
            { q with granted := q.granted ++ [line], waitAcks := if r.wait then q.waitAcks ++ [line] else q.waitAcks
                     skip := if does then q.skip else q.skip ++ [line], marks := if entAct r.word 11 then q.marks ++ [line] else q.marks })
          if upd && does && m == 1 then
            let o1 := match Table.find? s1.ops id with | some q => q | none => o
            (here.foldl (fun t x => storeAt t o1 x.1 (.ok (.mem x.2))) s1).modOp id (fun q =>
              { q with lanes := q.lanes.map (fun la => if here.any (fun x => x.1.lane == la.lane) then { la with done := true } else la) })
          else s1

def execWriteMsg (op line : Nat) (s : State) : Host.Outcome State Fault Refusal := .next (dirRequest 1 op line s)
def execAtomicMsg (op line : Nat) (s : State) : Host.Outcome State Fault Refusal := .next (dirRequest 2 op line s)

/-- READ_MSG (R207): a die misses on a span, for a read whose access lies in it; only a die that is not home keeps a copy. A refused read
retries as its entry says, and then fails (R208). -/
def execReadMsg (die line : Nat) (sp : Span) (slot : Nat) (s : State) : Host.Outcome State Fault Refusal :=
  let asks (p : Phys) (n : Nat) : Bool := p.pte.inL2 && p.pa / 256 == line && p.pte.prot == slot
    && decide (sp.first ≤ p.pa % 256 / 4) && decide (p.pa % 256 / 4 + accWords n ≤ sp.first + sp.count)
  let reader := Table.search s.ops (fun _ o => coreDie o.core == die && o.ready s && o.laneRead && o.lanes.any (fun la =>
    !la.done && (match laneView s o la with | .ok (.mem p) => asks p o.size && !s.readReady o.core o.ctx p.pte p.pa o.size | _ => false)))
  if 4 ≤ die ∨ 64 < sp.first + sp.count ∨ sp.count = 0 ∨ die = line / 2 ^ 31 ∨ s.spanBusy line sp = true then .next s
  else match reader with
    | none => .next s
    | some (id, o) =>
      let r := dirHandle s line slot 0 die sp [] 0
      if r.nack then
        .next (s.modOp id (fun q => if entRetry r.word ≤ o.retries then { q with refused := q.refused ++ [line] } else { q with retries := q.retries + 1 }))
      else
        let s1 := s.setDir line r.entry
        .next (if r.callBack || !entAct r.word 0 then s1 else s1.l2Take die line sp)

/-- SLICE_HOLD_END (R200): the hold of a store has ended, and its writes are performed at the slice. -/
def execSliceHoldEnd (op : Nat) (s : State) : Host.Outcome State Fault Refusal :=
  match Table.find? s.ops op with
  | none => .next s
  | some q =>
    let o := q.todo
    if o.plainStore && o.writeReady s op && !o.leaseHeld s then .next ((performStore s o).modOp op (fun q => { q with state := .performed }))
    else .next s

/-! ## Atomics (R210-R217) -/

/-- The new value of an operation on `n` bits (R215, R216). -/
def atomNew (op : AtomOp) (n old x swap : Nat) : Nat :=
  match op with
  | .add => (old + x) % 2 ^ n
  | .smin => wrapBits n (min (ival n true old) (ival n true x))
  | .smax => wrapBits n (max (ival n true old) (ival n true x))
  | .umin => min old x
  | .umax => max old x
  | .and => old &&& x
  | .or => old ||| x
  | .xor => old ^^^ x
  | .exch => x
  | .incw => if x ≤ old then 0 else old + 1
  | .cas => if old = x then swap else old
  | .fadd => (Fmt.fp32.roundEncode .rn (numAdd .rn (Fmt.fp32.decode old) (Fmt.fp32.decode x)).1).1

/-- One lane of an atomic: the machine after, the value from before (at home, of no copy) and its validity (R210-R212). -/
def atomLane (s : State) (o : Op) (op : AtomOp) (la : LaneAcc) : State × Nat × Bool :=
  let r := match laneView s o la with
    | .ok (.mem p) => (natOf ((List.range o.size).map (fun i => readThrough s o.ctx p.pte (p.pa + i))), List.replicate (accWords o.size) true)
    | _ => loadLane s o la
  let old := r.1
  let new := atomNew op (8 * o.size) old la.data la.swap
  let skip : Bool := op == .cas && old != la.data
  match laneView s o la with
  | .ok (.firn core off) =>
    if !(r.2.all id) then (s, old, false)
    else (if skip then s else s.firnStore core off o.size new true, old, true)
  | .ok (.mem _) => (if skip then s else storeLane s o { la with data := new, valid := true }, old, true)
  | _ => (s, la.reply.getD 0, true)

/-- Where an atomic on a line is performed (R210): the home die's atomic unit, the slice of the issuing die, or the core's L1. -/
inductive AtomPlace where
  | home | slice | l1
  deriving DecidableEq, Repr

/-- The entry of a predictor that a line uses. -/
def predKey (die line : Nat) : Nat := die * 1024 + Config.predictorIndex line % 1024

def atomPlace (s : State) (o : Op) (p : Phys) : AtomPlace :=
  let line := p.pa / 256
  let die := coreDie o.core
  let away := homeDie p.pa != die
  if p.pte.uc || (o.granted.contains line && !o.skip.contains line) then .home
  else if away && (p.pte.prot != 2 || decide (2 ≤ Table.getD s.ms.homePredictor 0 (predKey (homeDie p.pa) line))) then .home
  else if 2 ≤ Table.getD s.ms.predictor 0 (predKey die line) then .slice
  else .l1

/-- The bookkeeping of an atomic's place (R210): the predictors count one that finds its words held exclusive by another core's L1 or queues
behind another atomic; the words return to the slice, and become exclusive in the issuing core's L1 where it is performed there, which no page
kept out of L1 allows (R198). -/
def exclusive (s : State) (id : Nat) (o : Op) (p : Phys) : State :=
  let line := p.pa / 256
  let die := coreDie o.core
  let held := (Table.search s.cores (fun c k => c != o.core && k.excl.any (fun e => decide (p.pa / 4 ≤ e.1) && decide (4 * e.1 < p.pa + o.size)))).isSome
  let queued := (Table.search s.ops (fun i q => i != id && q.state == .inFlight && (match q.kind with | .atomic _ _ => true | _ => false)
    && q.lanes.any (fun la => match la.place with | some (.mem y) => !la.done && y.pa / 256 == line | _ => false))).isSome
  let up (t : Table Nat) (k : Nat) : Table Nat := Table.setD t 0 k (min 3 (Table.getD t 0 k + 1))
  let ms := if !(held || queued) then s.ms
    else if homeDie p.pa = die then { s.ms with predictor := up s.ms.predictor (predKey die line) }
    else { s.ms with predictor := up s.ms.predictor (predKey die line), homePredictor := up s.ms.homePredictor (predKey (homeDie p.pa) line) }
  let s1 := State.exclReturn { s with ms := ms } o.core p.pa o.size
  if atomPlace s o p = .l1 ∧ p.pte.inL1 = true then
    (List.range (accWords o.size)).foldl (fun t i => t.modCore o.core (fun q => { q with excl := Table.insert q.excl (p.pa / 4 + i) (t.ctxTag o.ctx) })) s1
  else s1

/-- The first lane of an operation that faults as its effect comes to it: for an atomic, after the lanes before it have had theirs, so that a
second access of one operation to a word that the first has marked faults (R206, R211). -/
def Op.faultNow? (s : State) (o : Op) : Option (LaneAcc × Cause) :=
  match o.kind with
  | .atomic op _ =>
    (o.lanes.foldl (fun (r : State × Option (LaneAcc × Cause)) la =>
      match r.2, laneView r.1 o la with
      | some x, _ => (r.1, some x)
      | none, .error x => (r.1, some (la, x))
      | none, .ok (.mem p) => if 3 ≤ p.pte.prot then ((atomLane r.1 o op la).1, none) else r
      | none, .ok _ => r) (s, none)).2
  | _ => o.fault? s

/-- The lanes of an atomic performed in ascending order (R211), the old values of a returning one written to D. -/
def performAtomic (s : State) (id : Nat) (o : Op) (op : AtomOp) (ret : Bool) (f : Option Floe) (lanes : List LaneAcc) : State :=
  lanes.foldl (fun t la =>
    let r := atomLane t o op la
    let t1 := match laneView t o la with | .ok (.mem p) => (exclusive r.1 id o p).noteSeen o p | _ => r.1
    match f, ret with
    | some g, true => t1.wrWords g la.lane o.d r.2.1 (List.replicate (accWords o.size) r.2.2)
    | _, _ => t1) s

/-! ## LOCK, UNLOCK (R213, R214, R218) -/

/-- The lines a pin at an address takes: the line, or its whole seal block. -/
def pinLines (p : Phys) : List Nat := if p.pte.sealed then (List.range 16).map (fun i => p.pa / 4096 * 16 + i) else [p.pa / 256]

/-- The L2 set of a line: consecutive lines map to distinct sets (R214; log 25). -/
def lineSet (line : Nat) : Nat := line % 131072

def State.pinned (s : State) (ctx line : Nat) : Bool := s.ms.pins.any (fun p => p.1 == ctx && p.2.2 == line)

/-- One lane of LOCK: the machine after and the status. -/
def lockLane (s : State) (o : Op) (la : LaneAcc) : State × Nat :=
  match laneView s o la with
  | .ok (.mem p) =>
    if p.pte.uc then (s, 2)
    else
      let die := coreDie o.core
      let new := (pinLines p).filter (fun l => !s.pinned o.ctx l)
      let quota := match s.ctx? o.ctx with | some c => (c.quota.extractLsb' 0 24).toNat | none => 0
      let have_ := (s.ms.pins.filter (fun q => q.1 == o.ctx)).length
      let full := new.any (fun l =>
        let held := ((s.ms.pins.filter (fun q => q.2.1 == die && lineSet q.2.2 == lineSet l)).map (fun q => q.2.2)).eraseDups
        !held.contains l && decide (8 ≤ held.length))
      if new.isEmpty then (s, 0)
      else if quota < have_ + new.length then (s, 1)
      else if full then (s, if p.pte.sealed then 3 else 4)
      else ({ s with ms := { s.ms with pins := s.ms.pins ++ new.map (fun l => (o.ctx, die, l)) } }, 0)
  | _ => (s, 2)

/-- One lane of UNLOCK. -/
def unlockLane (s : State) (o : Op) (la : LaneAcc) : State :=
  match laneView s o la with
  | .ok (.mem p) => { s with ms := { s.ms with pins := s.ms.pins.filter (fun q => !(q.1 == o.ctx && (pinLines p).contains q.2.2)) } }
  | _ => s

/-! ## Requests to another device (R415, R418) -/

/-- The number of an atomic operation, as C gives it (R215, R417). -/
def atomNum : AtomOp → Nat
  | .add => 0 | .smin => 1 | .smax => 2 | .umin => 3 | .umax => 4 | .and => 5 | .or => 6 | .xor => 7 | .exch => 8 | .incw => 9
  | .cas => 10 | .fadd => 11

/-- Requests to the home of memory on another device, for the lanes before the first that faults whose request is not on its way: class REQ,
in the floe's stream. The manual gives REQ no operation codes and no payload layout: log 26. -/
def sendRemote (s : State) (id : Nat) (o : Op) : State :=
  if !o.travels then s
  else
    let clean := o.lanes.takeWhile (fun la => match laneView s o la with | .ok _ => true | .error _ => false)
    let code : Nat := match o.kind with | .atomic a _ => 8 + atomNum a | _ => if o.isSt then 1 else 0
    clean.foldl (fun (t : State) la =>
      match laneView s o la with
      | .ok (.remote p) =>
        if la.reply.isSome || t.net.reqs.any (fun r => r.op == id && r.lane == la.lane) then t
        else t.request id la.lane
          (newMsg 0 code o.rel p.pte.dev 0 o.floe p.pa (bytesOf 16 la.data ++ bytesOf 16 la.swap ++ bytesOf 8 o.size)) o.after
      | _ => t) s

/-! ## Return and performing of an operation -/

/-- The effect of some lanes of an operation, as on completion; `f` is the floe where its allocation is live. -/
def lanesDone (s : State) (id : Nat) (o : Op) (f : Option Floe) (lanes : List LaneAcc) : State :=
  match o.kind with
  | .load | .loadRemote _ | .expand _ | .recv =>
    (match f with
     | some g => let v := ownView s id o; lanes.foldl (fun t la => loadLaneDone id o g v t la) s
     | none => s)
  | .store | .storeRemote _ | .compress _ => if o.state = .performed then s else performStore s { o with lanes := lanes }
  | .atomic op ret => performAtomic s id o op ret f lanes
  | .lock => lanes.foldl (fun t la => let r := lockLane t o la
      match f with | some g => r.1.wrWords g la.lane o.d r.2 [true] | none => r.1) s
  | .unlock => lanes.foldl (fun t la => unlockLane t o la) s
  | _ => s

/-- The floe of an operation whose allocation is live (R115). -/
def State.liveFloe (s : State) (o : Op) : Option Floe := if s.tagLive o then s.floe? o.floe else none

/-- The nullified lanes of a returning operation invalidated (R170, R189, R216). -/
def nullLanes (s : State) (o : Op) (f : Floe) (lanes : List Nat) : State := lanes.foldl (fun t l => t.wrGroup f l false o.d 0) s

/-- Whether the lanes of an operation can take effect now. -/
def Op.canEnd (s : State) (id : Nat) (o : Op) : Bool :=
  match o.kind with
  | .atomic _ _ => o.writeReady s id && !o.leaseHeld s
  | _ => if o.isSt then o.writeReady s id && !o.leaseHeld s else o.ready s && ownFirst s id o && o.dataReady s

/-- DATA_RETURN of a lane transfer (R115, R189, R216): a return without its allocation is dropped, though an atomic is performed. -/
def laneReturn (s : State) (id : Nat) (q : Op) : State :=
  let o := q.todo
  if !o.canEnd s id || (o.faultNow? s).isSome then (if o.state = .inFlight then sendRemote s id o else s)
  else
    match s.liveFloe o with
    | some f =>
      let s1 := (nullLanes (lanesDone s id o (some f) o.lanes) o f o.nulls).endOp id o
      if o.acq then s1.acquire o.core o.scope else s1
    | none => (match o.kind with | .atomic _ _ => lanesDone s id o none o.lanes | _ => s).dropReturn id o

/-- STORE_PERFORMED of a lane transfer (R166): performed at its scope, it leaves st; an access to a STRONG page is an acquire too (R230). -/
def laneStored (s : State) (id : Nat) (q : Op) : State :=
  let o := q.todo
  let fin (t : State) : State := let u := t.endOp id o; if o.acq then u.acquire o.core o.scope else u
  if o.state = .performed then fin s
  else if o.canEnd s id && (o.faultNow? s).isNone then fin (lanesDone s id o none o.lanes)
  else if o.state = .inFlight then sendRemote s id o
  else s

/-- Some lanes of an operation performed by themselves, in an order of its own (R172, R226). -/
def State.lanesNow (s : State) (id : Nat) (o : Op) (now : List LaneAcc) : State :=
  let f := s.liveFloe o
  let s1 := lanesDone s id { o with lanes := now } f now
  let s2 := if f.isSome then s1.modFloe o.floe (fun g => g.unlatch o.d) else s1
  s2.modOp id (fun p => { p with lanes := p.lanes.map (fun la => if now.any (fun n => n.lane == la.lane) then { la with done := true } else la) })

/-- Some requests of an operation are performed before the others (R172, R226): whole sectors, once its requests have left, where no lane below
them can fault any more. -/
def State.partOp (s : State) (id : Nat) (mask : Mask) : State :=
  match Table.find? s.ops id with
  | none => s
  | some q =>
    let o := q.todo
    let now := o.lanes.filter (fun la => mask.getLsbD la.lane)
    let later := o.lanes.filter (fun la => !mask.getLsbD la.lane)
    let sub := { o with lanes := now }
    let place (la : LaneAcc) : Nat := match la.place with | some v => viewKey v / 32 | none => 0
    let apart : Bool := later.all (fun la => now.all (fun n => place la != place n))
    let sure : Bool := later.all (fun la => match laneView s o la with
      | .ok (.mem p) => decide (p.pte.prot < 3)
      | .ok (.remote _) => la.reply.isSome
      | .ok (.firn _ _) => true
      | .error _ => false)
    if !(o.laneRead || o.plainStore) || o.left.isNone || now.isEmpty || later.isEmpty || !apart || !sure || !sub.canEnd s id || (sub.faultNow? s).isSome then s
    else s.lanesNow id o now

/-! ## Faults (R177) -/

/-- The lanes of exec that a fault at `la` leaves incomplete: those from it on, in the operation's order (R177, R179). -/
def incomplete (o : Op) (la : LaneAcc) : Mask :=
  match o.kind with
  | .compress _ | .expand _ => lanesMask ((o.lanes.dropWhile (fun x => x.lane != la.lane)).map (fun x => x.lane))
  | _ => lanesMask ((maskLanes o.exec).filter (fun l => decide (la.lane ≤ l)))

/-- The number of the faulting element (R177 INDEX). -/
def faultIndex (o : Op) (la : LaneAcc) : Nat :=
  let i := (o.lanes.takeWhile (fun x => x.lane != la.lane)).length
  match o.kind with
  | .compress start => start + i
  | .expand start => start + i
  | _ => 0

/-- Whether an incomplete lane's destination loses its V (R177, R217). -/
def Op.faultClears (o : Op) : Bool := match o.kind with | .load | .loadRemote _ | .expand _ | .recv => true | _ => false

/-- The end of an operation that faulted for a cause, with what is incomplete (R166, R177): replayable, it stays FAULTED and its floe is
SUSPENDED, one that waits breaking its wait off until its instruction begins it again (log 52); else it is ABANDONED and the cause vectors to the handler. -/
def State.faultOp (s0 : State) (id : Nat) (o : Op) (t : TrapInfo) : State :=
  let s := s0.countSeal o.core o.ctx (coreSecure s0 o.core) t.cause t.vaddr
  match s.liveFloe o with
  | none => (s.postRecord o.ctx (faultRecord t.cause.code t.source false (partOf o.core) o.inst 0 o.core t.vaddr.toNat t.lane t.index 0 o.pc
      t.lanes 0 0 (s.gt % 2 ^ 64))).endOp id o
  | some f =>
    let s1 := s.modFloe o.floe (fun g => { g.unlatch o.d with faultmask := t.lanes })
    if t.cause = .pageNotPresent then
      State.postRecord ((s1.modOp id (fun q => { q with state := .faulted })).modFloe o.floe (fun g =>
        { g with state := .suspended, susp := some ⟨some id, o.slot1, o.pc, t, false⟩ })) o.ctx (trapRecord s f o.pc true t)
    else
      ((s1.endOp id o).postRecord o.ctx (trapRecord s f o.pc false t)).abandonWait f o.floe |>.deliverLater o.floe o.slot1 o.pc t

/-- What marks an operation as an RLD. -/
def rldMark : List Nat := [0x380]

/-- Whether an operation is an RLD whose replies were given up while its floe is saved (R365). -/
def Op.rldLost (o : Op) : Bool := o.failed && o.info == rldMark

/-- Whether a fault of an operation can be delivered now: its floe is not SUSPENDED or SAVED, so that one fault is delivered at a time, nor
stopped (R359), and an RLD given up for a save is left until the restore (R365). -/
def State.takesFault (s : State) (o : Op) : Bool :=
  match s.floe? o.floe with
  | some f => f.tag != o.tag || f.state == .retired
      || ((f.state == .ready || f.state == .waiting) && !s.stopped f && !(f.preempt && o.rldLost))
  | none => true

/-- TRANSFER_FAULT of a lane transfer (R177). -/
def laneFault (s : State) (id : Nat) (q : Op) : State :=
  let o := q.todo
  if !o.ready s || !s.takesFault o then s
  else match o.faultNow? s with
    | none => s
    | some (la, c) =>
      let m := incomplete o la
      let before := o.lanes.takeWhile (fun x => x.lane != la.lane)
      let f := s.liveFloe o
      let s1 := lanesDone s id o f before
      let s2 := match f with
        | some g => if o.faultClears then nullLanes s1 o g (maskLanes m ++ o.nulls) else nullLanes s1 o g (o.nulls.filter (fun l => decide (l < la.lane)))
        | none => s1
      if !before.isEmpty && !({ o with lanes := before } : Op).canEnd s id then sendRemote s id o
      else s2.faultOp id { o with exec := m }
        { cause := c, lanes := m, tinfo := la.va, vaddr := la.va, lane := la.lane, index := faultIndex o la }

/-- Y of an access. -/
def yAcq (w : FWord) : Bool := w.y.getLsbD 0
def yRel (w : FWord) : Bool := w.y.getLsbD 1

/-- The operations a new access comes after (R227): acquires not yet performed, and all that a release covers, writes of others that the floe
has read among it. -/
def State.afterOf (s : State) (h : Nat) (rel : Bool) : List Nat :=
  Table.keys (Table.keep s.ops (fun _ o => o.floe == h && (rel || (o.acq && decide (2 ≤ o.scope)))))
    ++ (if rel then (match s.floe? h with | some f => f.seen.filter (fun i => (Table.find? s.ops i).isSome) | none => []) else [])

/-- Whether a lane reaches a STRONG page, which makes the access acquire and release at SYSTEM scope (R230). -/
def reachesStrong (s : State) (o : Op) : Bool :=
  o.lanes.any (fun la => !inFirn la.va && (match translateCore s o.core o.ctx o.want la.va with | .ok p => p.pte.ord == 1 | .error _ => false))

/-- An operation with its order (R225, R227, R230): an access to a STRONG page acquires and releases at SYSTEM, one that is all in firn has at most
DIE scope; a release comes after all that its floe issued before operation `id`, every other access after the acquires. -/
def Op.ordered (o : Op) (s : State) (h id : Nat) : Op :=
  let o1 := if reachesStrong s o then { o with acq := true, rel := true, scope := 7 }
    else if !o.lanes.isEmpty && o.lanes.all (fun la => inFirn la.va) then { o with scope := min o.scope 4 } else o
  { o1 with after := (s.afterOf h (o1.rel && decide (2 ≤ o1.scope))).filter (fun i => decide (i < id) || !(match Table.find? s.ops i with | some q => q.floe == h | none => false)) }

/-- A replay of a FAULTED lane transfer (R178): exec becomes %faultmask, and the sources are read as they stand. -/
def State.replayOp (s : State) (id : Nat) : State :=
  match Table.find? s.ops id with
  | none => s
  | some o =>
    match s.floe? o.floe with
    | none => s
    | some f =>
      let start (k : Nat) : Nat := match f.susp with | some x => x.info.index | none => k
      let kind := match o.kind with | .compress k => .compress (start k) | .expand k => .expand (start k) | k => k
      let o1 := { o with
        kind := kind, exec := f.faultmask, state := .inFlight, granted := [], waitAcks := [], skip := [], marks := [], refused := [], retries := 0,
        failed := false, left := none, vis := false, acq := yAcq o.word, rel := yRel o.word, scope := o.word.s.toNat }
      let r := opLanes s f o1 f.faultmask
      let o2 := ({ o1 with lanes := r.1, nulls := r.2 } : Op).ordered s o.floe id
      sendRemote ((s.takeFresh (if o.uniform then 1 else 0)).modOp id (fun _ => o2)) id o2

/-! ## Issue -/


/-- An operation of the issuing floe, with nothing set but what its issue gives. -/
def newOp (s : State) (e : Env) (w : FWord) (kind : OpKind) : Op :=
  { floe := e.h, ctx := e.f.ctx, core := e.f.core, inst := e.f.inst, tag := e.f.tag, off := 0, word := w, pc := e.sl.pc, slot1 := e.b,
    exec := e.exec, kind := kind, isSt := false, counted := true, ac := none, acq := false, rel := false, scope := w.s.toNat, size := 4,
    signed := false, uniform := false, interlock := true, lanes := [], state := .inFlight, after := [], granted := [], waitAcks := [],
    skip := [], marks := [], nulls := [], far := [], left := none, vis := false, retries := 0, refused := [], failed := false, issueGt := s.gt, d := [], vals := [], info := [] }

/-- An operation put in flight and counted (R166, R174). -/
def State.addOp (s : State) (o : Op) : State :=
  let r := s.takeId
  let s1 := { r.2 with ops := Table.insert r.2.ops r.1 o }
  s1.modFloe o.floe (fun f =>
    let g := if o.counted then (if o.isSt then { f with st := f.st + 1 } else { f with ld := f.ld + 1 }) else f
    match o.ac with | some k => g.acIssue k | none => g)

/-- Whether a write of a floe that the lock of a migration holds is to a line of a new access, which is then not ready (R240). -/
def lockHolds (s : State) (h : Nat) (o : Op) : Bool :=
  !s.ms.migrations.isEmpty &&
    (let mine := (o.views s).filterMap (fun v => match v with | .mem p => if s.locked p.pa then some (p.pa / 256) else none | _ => none)
     (Table.search s.ops (fun _ q => q.floe == h && q.writes && q.state == .inFlight && (q.todo.views s).any (fun v => match v with
      | .mem p => mine.contains (p.pa / 256) | _ => false))).isSome)

/-- The issue of a lane transfer: not ready with a full class counter, stalled on a full arrival counter (R174); else in flight. -/
def issueLanes (o0 : Op) (e : Env) (s : State) : Res :=
  if e.exec = 0 then .done s
  else if e.f.classFull o0 then .stall s
  else if (match o0.ac with | some k => decide (255 ≤ (e.f.ac k).out) | none => false) then
    .stall (s.waitOn e.h (.acFull (o0.ac.getD 0)))
  else
    let r := opLanes s e.f o0 e.exec
    let o1 := { o0 with lanes := r.1, nulls := if o0.isSt then [] else r.2 }
    if (match o0.kind with | .compress _ => r.1.isEmpty | _ => false) then .done s
    else if lockHolds s e.h o1 then .stall s
    else
      let o2 := o1.ordered s e.h s.nextId
      .done (sendRemote (s.addOp o2) s.nextId o2)

/-- Whether a store makes one access for the floe (R171): its operands are all uniform or special. -/
def uniformStore (w : FWord) : Bool := !(Code.isVec w.d) && !(Code.isVec w.a) && !(Code.isVec w.b)

/-- The loads (R189, R191). -/
def loadBody (kind : State → Env → FWord → OpKind) (inC : Bool) (lda : Bool) (w : FWord) (sh : Shape) (e : Env) (s : State) : Res :=
  let n := accessSize w
  issueLanes { newOp s e w (kind s e w) with
    off := accessOff w n inC, size := n, signed := w.m.getLsbD 0, uniform := Code.isUni w.d, d := sh.d.writes, acq := yAcq w,
    ac := (if lda then some w.c.toNat else none), interlock := !lda } e s

/-- The stores (R190, R191). -/
def storeBody (kind : State → Env → FWord → OpKind) (inC : Bool) (w : FWord) (_sh : Shape) (e : Env) (s : State) : Res :=
  let n := accessSize w
  issueLanes { newOp s e w (kind s e w) with
    off := accessOff w n inC, size := n, uniform := uniformStore w, isSt := true, rel := yRel w, interlock := false } e s

/-- The core an X word names, as the model keys cores; ILLEGAL_OPERANDS for one of another die (R173). -/
def remoteCore (s : State) (e : Env) (w : FWord) : Option Nat :=
  match w.x with
  | some x => (logicalOf s (xPhys x)).bind (fun c => if coreDie c = coreDie e.f.core then some c else none)
  | none => none

/-- LDR, STR (R173): a core of another die is refused at issue. -/
def remoteBody (store : Bool) (w : FWord) (sh : Shape) (e : Env) (s : State) : Res :=
  match remoteCore s e w with
  | none => .trap { cause := .illegalOperands, lanes := e.sl.mask } s
  | some c => if store then storeBody (fun _ _ _ => .storeRemote c) false w sh e s else loadBody (fun _ _ _ => .loadRemote c) false false w sh e s

/-- A line brought into the L2 of a core's die where it is homed elsewhere, and under .l1 into its L1, sector by sector under a lease (R192). -/
def prefLine (l1 : Bool) (o : Op) (p : Phys) (s : State) : State :=
  let base := p.pa / 256 * 256
  let t := if s.readReady o.core o.ctx p.pte base 256 then s else s.dieRead (coreDie o.core) p ⟨0, 64⟩
  if !l1 then t
  else (List.range 8).foldl (fun (u : State) i =>
    let q : Phys := ⟨base + 32 * i, p.pte⟩
    if u.readReady o.core o.ctx q.pte q.pa 32 then u.l1Fill o.core o.ctx q.pte q.pa 32 (leaseDenied u u.nextId o q) else u) t

/-- PREF (R192): the lines of the lanes that would not fault. -/
def prefBody (w : FWord) (_sh : Shape) (e : Env) (s : State) : Res :=
  let n := accessSize w
  let o := { newOp s e w .load with off := accessOff w n true, size := n }
  .done ((opLanes s e.f o e.exec).1.foldl (fun t la =>
    if inFirn la.va then t
    else match laneView t o la with
      | .ok (.mem p) => prefLine (w.y == 0) o p t
      | _ => t) s)

/-- The operation of a C field (R215, R417). -/
def atomOpOf : Nat → AtomOp
  | 0 => .add | 1 => .smin | 2 => .smax | 3 => .umin | 4 => .umax | 5 => .and | 6 => .or | 7 => .xor | 8 => .exch | 9 => .incw
  | 10 => .cas | _ => .fadd

/-- The atomics (R216, R217). -/
def atomBody (op : AtomOp) (ret inC : Bool) (w : FWord) (sh : Shape) (e : Env) (s : State) : Res :=
  let n := accessSize w
  issueLanes { newOp s e w (.atomic op ret) with
    off := accessOff w n inC, size := n, uniform := (if ret then Code.isUni w.d else uniformStore w), isSt := !ret,
    d := (if ret then sh.d.writes else []), acq := yAcq w, rel := yRel w, interlock := ret } e s

/-- LOCK and UNLOCK (R218) take whole lines, so any address of one is aligned but as R217 states. -/
def pinBody (kind : OpKind) (w : FWord) (sh : Shape) (e : Env) (s : State) : Res :=
  issueLanes { newOp s e w kind with
    off := accessOff w 4 true, size := 4, uniform := Code.isUni w.d, d := sh.d.writes, isSt := kind == .unlock, scope := 0,
    interlock := kind == .lock } e s

def execLd (w : FWord) (s : State) : Host.Outcome State Fault Refusal := issueF (.ld w) (loadBody (fun _ _ _ => .load) true false) s
def execSt (w : FWord) (s : State) : Host.Outcome State Fault Refusal := issueF (.st w) (storeBody (fun _ _ _ => .store) true) s
def execLda (w : FWord) (s : State) : Host.Outcome State Fault Refusal := issueF (.lda w) (loadBody (fun _ _ _ => .load) false true) s
def execLdx (w : FWord) (s : State) : Host.Outcome State Fault Refusal := issueF (.ldx w) (loadBody (fun _ _ _ => .load) true false) s
def execStx (w : FWord) (s : State) : Host.Outcome State Fault Refusal := issueF (.stx w) (storeBody (fun _ _ _ => .store) true) s
def execStc (w : FWord) (s : State) : Host.Outcome State Fault Refusal := issueF (.stc w) (storeBody (fun _ _ _ => .compress 0) true) s
def execLde (w : FWord) (s : State) : Host.Outcome State Fault Refusal := issueF (.lde w) (loadBody (fun _ _ _ => .expand 0) true false) s
def execLdr (w : FWord) (s : State) : Host.Outcome State Fault Refusal := issueF (.ldr w) (remoteBody false) s
def execStr (w : FWord) (s : State) : Host.Outcome State Fault Refusal := issueF (.str w) (remoteBody true) s
def execPref (w : FWord) (s : State) : Host.Outcome State Fault Refusal := issueF (.pref w) prefBody s
def execAtom (w : FWord) (s : State) : Host.Outcome State Fault Refusal := issueF (.atom w) (atomBody (atomOpOf w.c.toNat) true false) s
def execRed (w : FWord) (s : State) : Host.Outcome State Fault Refusal := issueF (.red w) (atomBody (atomOpOf w.c.toNat) false false) s
def execCas (w : FWord) (s : State) : Host.Outcome State Fault Refusal := issueF (.cas w) (atomBody .cas true true) s
def execAtomf (w : FWord) (s : State) : Host.Outcome State Fault Refusal := issueF (.atomf w) (atomBody .fadd true true) s
def execLock (w : FWord) (s : State) : Host.Outcome State Fault Refusal := issueF (.lock w) (pinBody .lock) s
def execUnlock (w : FWord) (s : State) : Host.Outcome State Fault Refusal := issueF (.unlock w) (pinBody .unlock) s

end Sys2Proof.Machine
end

