-- ==== Sys2Proof/Machine/Mover.lean ====
section
/-! DEFINITION. Class 7 (R180-R187, R193-R195): copies, their groups and descriptors, the mover's steps; and memory as engines read
and write it. -/

namespace Sys2Proof.Machine

/-! ## Blocks that an instruction reads for itself (R453) -/

/-- The words of a block that lie on another device and have not come (R384). -/
def blockFar (s : State) (e : Env) (va : Dword) (n : Nat) : List (Dword × Phys) :=
  ((List.range ((n + 7) / 8)).map (fun i => va + BitVec.ofNat 64 (8 * i))).filterMap (fun a =>
    match translateCore s e.f.core e.f.ctx .read a with
    | .ok p => if p.pte.remote && (Table.find? e.f.far (a.toNat / 8)).isNone then some (a, p) else none
    | .error _ => none)

/-- The bytes of a block that an instruction reads for itself: with its floe's earlier stores (R223), and from another device the words that
have come from there. -/
def blockBytes (s : State) (e : Env) (va : Dword) (n : Nat) : Except (Cause × Dword) (List Byte) :=
  let v := viewOf s e.f.core (some (e.h, s.nextId))
  (List.range n).foldr (fun i r =>
    let a := va + BitVec.ofNat 64 i
    let b : Except (Cause × Dword) Byte := match translateCore s e.f.core e.f.ctx .read a with
      | .error x => .error (x, a)
      | .ok p =>
        if p.pte.remote then
          (match Table.find? e.f.far (a.toNat / 8) with
           | some w => (match w.err with | some x => .error (x, a) | none => .ok (w.word.extractLsb' (8 * (a.toNat % 8)) 8))
           | none => .error (.linkUnreachable, a))
        else .ok (readThrough v e.f.ctx p.pte p.pa)
    match b, r with
    | .error x, _ => .error x
    | .ok _, .error x => .error x
    | .ok y, .ok l => .ok (y :: l)) (.ok [])

/-- A block an instruction reads for itself (R453): a misaligned address, the firn window, and a fault of the read trap precisely. -/
def readBlock (s : State) (e : Env) (va : Dword) (n align : Nat) : Except TrapInfo (List Byte) :=
  let t (c : Cause) (a : Dword) : TrapInfo := { cause := c, lanes := e.exec, tinfo := a, vaddr := a }
  if va.toNat % align ≠ 0 then .error (t .misalignedAccess va)
  else if inFirn va then .error (t .pagePermission va)
  else match blockBytes s e va n with
    | .ok bs => .ok bs
    | .error (c, a) => .error (t c a)

/-- An instruction with a block it reads for itself: where words of it lie on another device, they are asked for, and it issues again when they
have come (R384). -/
def withBlock (s : State) (e : Env) (va : Dword) (n align : Nat) (k : List Byte → Res) : Res :=
  match (if va.toNat % align ≠ 0 ∨ inFirn va = true then [] else blockFar s e va n) with
  | [] => (match readBlock s e va n align with | .error t => .trap t (s.countSeal e.f.core e.f.ctx (coreSecure s e.f.core) t.cause t.vaddr) | .ok bs => k bs)
  | l => .stall ((s.askFar e.h l).waitOn e.h .far)

/-! ## Descriptors (R182, R183) -/

/-- A CPYD descriptor; none for an invalid one (R182). -/
def parseCopy (v : Nat) : Option CopyDesc :=
  let ndim := field v 128 3
  let es : Nat := 2 ^ field v 131 3
  let swz := field v 134 2
  let cnt := (List.range 5).map (fun k => field v (176 + 16 * k) 16)
  let sstr := (List.range 4).map (fun k => sfield v (256 + 32 * k))
  let dstr := (List.range 4).map (fun k => sfield v (384 + 32 * k))
  let src := field v 0 64
  let dst := field v 64 64
  let cta := v.testBit 145
  let cte := v.testBit 146
  let side := if v.testBit 136 then src else dst
  let total := (cnt.take ndim).foldl (· * ·) 1
  let bad : Bool := ndim == 0 || decide (5 < ndim) || decide (4 < field v 131 3) || swz == 3 || field v 151 9 != 0
    || (cnt.mapIdx (fun k c => if k < ndim then c == 0 else c != 0)).any id
    || (sstr.mapIdx (fun k x => decide (ndim ≤ k + 1) && x != 0)).any id || (dstr.mapIdx (fun k x => decide (ndim ≤ k + 1) && x != 0)).any id
    || sstr.any (fun x => x % (es : Int) != 0) || dstr.any (fun x => x % (es : Int) != 0) || src % es != 0 || dst % es != 0
    || (!cta && field v 147 4 != 0) || (!cte && field v 160 16 != 0) || !(v.testBit 144 || cta || cte)
    || (swz == 2 && side % 1024 != 0) || (swz == 1 && side % 256 != 0) || decide (2 ^ 32 < total * es)
  if bad then none
  else some { src := BitVec.ofNat 64 src, dst := BitVec.ofNat 64 dst, esize := es, swz := swz, swSrc := v.testBit 136, acq := v.testBit 137,
              rel := v.testBit 138, scope := field v 139 3, dlc := field v 142 2, ctg := v.testBit 144, cta := cta, cte := cte,
              ac := field v 147 4, event := field v 160 16, cnt := cnt.take ndim, sstr := sstr.take (ndim - 1), dstr := dstr.take (ndim - 1) }

/-- The mapped offset of a swizzle (R183). -/
def swizzle (swz : Nat) (o : Nat) : Nat :=
  match swz with
  | 2 => o - o / 16 % 8 * 16 + ((o / 16 % 8) ^^^ (o / 128 % 8)) * 16
  | 1 => o - o / 16 % 4 * 16 + ((o / 16 % 4) ^^^ (o / 64 % 4)) * 16
  | _ => o

/-- The elements of a copy. -/
def CopyDesc.count (d : CopyDesc) : Nat := d.cnt.foldl (· * ·) 1

/-- The offset of element `k` on a side with strides (R182). -/
def elemOff (esize : Nat) : List Nat → List Int → Nat → Int
  | [], _, _ => 0
  | c :: cs, st, k =>
    let rec rest : List Nat → List Int → Nat → Int
      | [], _, _ => 0
      | n :: ns, x :: xs, j => ((j % n : Nat) : Int) * x + rest ns xs (j / n)
      | _ :: _, [], _ => 0
    ((k % c * esize : Nat) : Int) + rest cs st (k / c)

/-- The source and destination address of element `k`; the swizzle maps the offset on its side, taken modulo 2^64. -/
def CopyDesc.srcAt (d : CopyDesc) (k : Nat) : Dword :=
  let o := elemOff d.esize d.cnt d.sstr k
  d.src + BitVec.ofNat 64 (if d.swSrc then swizzle d.swz (o % 2 ^ 64).toNat else (o % 2 ^ 64).toNat)
def CopyDesc.dstAt (d : CopyDesc) (k : Nat) : Dword :=
  let o := elemOff d.esize d.cnt d.dstr k
  d.dst + BitVec.ofNat 64 (if d.swSrc then (o % 2 ^ 64).toNat else swizzle d.swz (o % 2 ^ 64).toNat)

/-! ## Elements -/

/-- Where an element lies for the mover: firn of its core under the instance's limits, or memory in the mover's world, of this device or
another. -/
def moverLook (s : State) (c : Copy) (want : Want) (va : Dword) (n : Nat) : Except Cause View :=
  if inFirn va then
    (if firnAllowed s c.core c.ctx c.inst (firnOff va) n then .ok (.firn c.core (firnOff va)) else .error .pagePermission)
  else match translate s c.core c.ctx (moverSecure s c.core) want va with
    | .error x => .error x
    | .ok p => .ok (if p.pte.remote then .remote p else .mem p)

/-- An element of which nothing is known. -/
def Elem.fresh : Elem := { src := none, dst := none, data := none, sent := false, acked := false, err := none }
def Copy.elem (c : Copy) (k : Nat) : Elem := Table.getD c.elems Elem.fresh k
def Copy.setElem (c : Copy) (k : Nat) (e : Elem) : Copy := { c with elems := Table.setD c.elems Elem.fresh k e }

/-- The source and the destination of element `k`, where they were fixed or where they are now. -/
def srcView (s : State) (c : Copy) (k : Nat) : Except Cause View :=
  match (c.elem k).src with | some v => .ok v | none => moverLook s c .read (c.desc.srcAt k) c.desc.esize
def dstView (s : State) (c : Copy) (k : Nat) : Except Cause View :=
  match (match (c.elem k).dst with | some v => Except.ok v | none => moverLook s c .write (c.desc.dstAt k) c.desc.esize) with
  | .ok (.mem p) => if s.markHit p.pte p.pa c.desc.esize then .error .writeOnceViolation else .ok (.mem p)
  | r => r

/-- The first check that element `k` fails, with its address; what another device answered for its source comes after those of this one. -/
def elemFault (s : State) (c : Copy) (k : Nat) : Option (Cause × Dword) :=
  match srcView s c k, dstView s c k with
  | .error x, _ => some (x, c.desc.srcAt k)
  | .ok _, .error x => some (x, c.desc.dstAt k)
  | .ok _, .ok _ => (c.elem k).err.map (fun x => (x, if (c.elem k).data.isNone then c.desc.srcAt k else c.desc.dstAt k))

/-- The data of an element's source: firn and memory as the readers of the core see them (R184), of another device what it has answered. -/
def elemData (s : State) (c : Copy) (k : Nat) : Option (List Byte) :=
  let n := c.desc.esize
  match srcView s c k with
  | .ok (.firn core off) => some (bytesOf n (s.firnBytes core off n).1)
  | .ok (.mem p) => let v := viewOf s c.core none; some ((List.range n).map (fun i => v.readByte c.core c.ctx p.pte (p.pa + i)))
  | .ok (.remote _) => (c.elem k).data
  | .error _ => none

/-- One element's data written at its destination: data bits only, V = 1 in firn (R111 rule 5). -/
def putElem (c : Copy) (data : List Byte) (dst : Except Cause View) (s : State) : State :=
  let n := c.desc.esize
  match dst with
  | .ok (.firn core off) => (List.range n).foldl (fun t i => t.firnEngine core (off + i) (data.getD i 0).toNat) s
  | .ok (.mem p) =>
    ((List.range n).foldl (fun t i => t.engineByte 1 c.core c.ctx p.pte (p.pa + i) (data.getD i 0)) s).markWords
      (s.writeOnce p.pte.prot (p.pa / 256) 1) p.pa n
  | _ => s

/-- One element moved, or brought as far as another device lets it: the read of a source there is asked for, the write of a destination there
sent, each once (R193, R414). The element is done when its write is. -/
def moveElem (id k : Nat) (s : State) : State :=
  match Table.find? s.copies id with
  | none => s
  | some c =>
    let e := c.elem k
    let n := c.desc.esize
    match elemData s c k, srcView s c k, dstView s c k with
    | none, .ok (.remote p), _ =>
      if s.net.reqs.any (fun r => r.op == id && r.lane == 2 * k) then s else s.request id (2 * k) (readMsg p id n) []
    | some d, _, .ok (.remote p) =>
      if e.acked then s.modCopy id (fun x => { x with done := x.done ++ [k] })
      else if e.sent then s
      else (s.modCopy id (fun x => x.setElem k { e with data := some d, sent := true })).request id (2 * k + 1)
        (newMsg 0 1 false p.pte.dev 0 id p.pa ((d ++ List.replicate 32 0).take 32 ++ bytesOf 8 n)) []
    | some d, _, .ok dst =>
      let s1 := match srcView s c k with
        | .ok (.mem p) => if s.readReady c.core c.ctx p.pte p.pa n then s else s.dieRead (coreDie c.core) p ⟨p.pa % 256 / 4, (p.pa % 4 + n + 3) / 4⟩
        | _ => s
      (putElem c d (.ok dst) s1).modCopy id (fun x => { x with done := x.done ++ [k] })
    | _, _, _ => s

/-- Elements moved in ascending order. -/
def moveElems (s : State) (id : Nat) (ks : List Nat) : State := ks.foldl (fun t k => moveElem id k t) s

/-- The first of some elements that faults as its turn comes, the ones before it moved: each element is a write of its own, so that one in a word
that an earlier one has marked faults (R187, R206; log 86). -/
def firstFault (s : State) (id : Nat) : List Nat → Option (Nat × Cause × Dword)
  | [] => none
  | k :: t => match (Table.find? s.copies id).bind (fun c => elemFault s c k) with
    | some x => some (k, x)
    | none => firstFault (moveElem id k s) id t

/-- The elements of a copy from `next` on that have not been moved, in number. -/
def Copy.rest (c : Copy) : List Nat := ((List.range (c.desc.count - c.next)).map (fun i => c.next + i)).filter (fun k => !c.done.contains k)

/-- Whether nothing holds the write of an element (R200, R240). -/
def elemClear (s : State) (c : Copy) (k : Nat) : Bool := match dstView s c k with | .ok (.mem p) => engineClear s p c.desc.esize | _ => true

/-- Whether a copy is under way. -/
def Copy.runs (s : State) (c : Copy) : Bool := c.started && !c.waiting && !c.savedIn && s.ended c.after

/-- One element moved before those ahead of it, which by then are known not to fault (R181): where each of them goes is fixed. -/
def State.elemEarly (s : State) (id k : Nat) : State :=
  match Table.find? s.copies id with
  | none => s
  | some c =>
    let ahead := c.rest.filter (fun j => decide (j ≤ k))
    let sure (j : Nat) : Bool := match srcView s c j, dstView s c j with
      | .ok (.remote _), _ => false
      | .ok _, .ok (.mem p) => decide (p.pte.prot < 3)
      | .ok _, .ok (.firn _ _) => true
      | _, _ => false
    if !c.runs s || !c.rest.contains k || !ahead.all (fun j => sure j && (elemFault s c j).isNone) || !elemClear s c k then s
    else
      let c1 := ahead.foldl (fun (x : Copy) j => x.setElem j { x.elem j with src := (srcView s c j).toOption, dst := (dstView s c j).toOption }) c
      moveElem id k (s.modCopy id (fun _ => c1))

/-! ## Issue -/

/-- A core's mover: its copies in flight. -/
def State.copiesOf (s : State) (core : Nat) : Table Copy := Table.keep s.copies (fun _ c => c.core == core && !c.savedIn)

/-- What an engine's operation comes after (R184, R227, R237): the acquires, the stores that are releases at CORE scope or wider, whose writes it
reads, and where it releases itself all that its floe has issued. -/
def State.copyAfter (s : State) (h : Nat) (rel : Bool) : List Nat :=
  let all := s.afterOf h rel
  all ++ (Table.keys (Table.keep s.ops (fun i o => o.floe == h && o.rel && o.writes && decide (2 ≤ o.scope) && !all.contains i)))

/-- A copy issued for the floe (R180, R187): numbered, in the open group where it counts there, in its arrival counter. A full mover
leaves it not ready (R181); cp at 15 or a full arrival counter holds the floe WAITING. -/
def issueCopy (d : CopyDesc) (e : Env) (s : State) : Res :=
  let used := (Table.vals (s.copiesOf e.f.core)).map (fun c => c.num)
  let full := decide (256 ≤ e.f.openCount)
  if 128 ≤ used.length then .stall s
  else if d.ctg && full && decide (15 ≤ e.f.cp) then .stall (s.waitOn e.h .cpFull)
  else if d.cta && decide (255 ≤ (e.f.ac d.ac).out) then .stall (s.waitOn e.h (.acFull d.ac))
  else
    let r := s.takeId
    let dl := match d.dlc with | 0 => none | k => some (s.coreGt e.f.core + ((s.part (partOf e.f.core)).dlgt.getD (k - 1) 0).toNat)
    let c : Copy :=
      { num := freshIn used 128 1, floe := e.h, inst := e.f.inst, floeNum := e.f.num, tag := e.f.tag, ctx := e.f.ctx, core := e.f.core,
        desc := d, next := 0, done := [], elems := [], started := false, waiting := false, replayed := none, deadline := dl, issueGt := s.coreGt e.f.core,
        order := r.1, after := s.copyAfter e.h (d.rel && decide (2 ≤ d.scope)), savedIn := false, faultVa := 0 }
    let s1 := { r.2 with copies := Table.insert r.2.copies r.1 c }
    .done (s1.modFloe e.h (fun f =>
      let f1 := if d.ctg then (let g := if full then f.commit else f; { g with openGroup := some (g.openGroup.getD [] ++ [r.1]), openCount := g.openCount + 1 }) else f
      if d.cta then f1.acIssue d.ac else f1))

/-- CPY (R193). -/
def cpyBody (w : FWord) (_sh : Shape) (e : Env) (s : State) : Res :=
  let src := rdOp s e.f 0 w.a 2
  let dst := rdOp s e.f 0 w.d 2
  let n := match w.x with | some x => (x.imm.toNat, true) | none => rdOp s e.f 0 w.b 1
  if e.exec = 0 ∨ !(src.2 && dst.2 && n.2) ∨ n.1 = 0 then .done s
  else issueCopy { src := BitVec.ofNat 64 src.1, dst := BitVec.ofNat 64 dst.1, esize := 1, swz := 0, swSrc := false, acq := yAcq w, rel := yRel w,
                   scope := w.s.toNat, dlc := 0, ctg := true, cta := false, cte := false, ac := 0, event := 0, cnt := [n.1], sstr := [], dstr := [] } e s

/-- A descriptor put into a core's descriptor cache, which gives up another where it is full (R186, log 9). -/
def State.descPut (s : State) (core pa : Nat) (tag : BitVec 8) (bs : List Byte) : State :=
  s.modCore core (fun c =>
    let kept := if 64 ≤ c.descCache.length ∧ (Table.find? c.descCache pa).isNone then c.descCache.eraseIdx (Config.victim s.gt (Table.keys c.descCache) % 64) else c.descCache
    { c with descCache := Table.insert kept pa (tag, bs) })

/-- The bytes a CPYD uses and the machine after, from those that memory holds at its descriptor's address (R186): those of the core's descriptor
cache, which snoops no store. -/
def descRead (s : State) (e : Env) (va : Dword) (bs : List Byte) : List Byte × State :=
  match translateCore s e.f.core e.f.ctx .read va with
  | .error _ => (bs, s)
  | .ok p =>
    if p.pte.remote then (bs, s)
    else
      let tag := s.ctxTag e.f.ctx
      let now := (List.range 64).map (fun i => readThrough s e.f.ctx p.pte (p.pa + i))
      match Table.find? (s.core e.f.core).descCache p.pa with
      | some (t, old) => if t = tag then (old, s) else (now, s.descPut e.f.core p.pa tag now)
      | none => (now, s.descPut e.f.core p.pa tag now)

/-- A core's descriptor cache takes a descriptor, or reads one word of one it holds again, at any time (R186). -/
def State.descFetch (s : State) (core ctx pa word : Nat) : State :=
  let bs (i n : Nat) : List Byte := s.ms.bytes (pa + i) n
  if pa % 64 ≠ 0 ∨ (s.sealMeta (pa / 4096)).kid ≠ 0 then s
  else match Table.find? (s.core core).descCache pa with
    | some (t, old) => s.descPut core pa t (old.take (8 * (word % 8)) ++ bs (8 * (word % 8)) 8 ++ old.drop (8 * (word % 8) + 8))
    | none => s.descPut core pa (s.ctxTag ctx) (bs 0 64)

/-- CPYD (R194). -/
def cpydBody (w : FWord) (_sh : Shape) (e : Env) (s : State) : Res :=
  let a := rdOp s e.f 0 w.a 2
  if e.exec = 0 ∨ a.2 = false then .done s
  else
    let off : Int := match w.x with | some x => x.imm.toInt | none => w.c.toInt * 64
    let va : Dword := BitVec.ofInt 64 ((a.1 : Int) + off)
    withBlock s e va 64 64 (fun bs =>
      let r := descRead s e va bs
      match parseCopy (natOf r.1) with
      | none => .trap { cause := .descriptorInvalid, lanes := e.exec } r.2
      | some d => issueCopy d e r.2)

/-- CPCOMMIT (R180). -/
def cpcommitBody (_w : FWord) (_sh : Shape) (e : Env) (s : State) : Res :=
  if e.exec = 0 then .done s
  else if 15 ≤ e.f.cp then .stall (s.waitOn e.h .cpFull)
  else .done (s.modFloe e.h Floe.commit)

/-! ## Counters (R175, R176, R195) -/

/-- Whether a wait whose condition lies in the floe or in outstanding operations holds. -/
def waitHolds (s : State) (h : Nat) (f : Floe) (w : Wait) : Bool :=
  match w with
  | .ops ids .used => ids.all (fun i =>
      (match Table.find? s.ops i with | some o => o.state == .faulted | none => true) && (match Table.find? s.copies i with | some c => c.waiting | none => true))
  | .ops ids _ => s.ended ids
  | .fence ids scope _ => s.endedAt scope ids
  | .far => !s.farPending h
  | .migrate _ => s.migrationFree h
  | .counter k t => decide ((f.ac k).out ≤ t)
  | .classes a b c d =>
    (a == 15 || decide (f.ld ≤ a)) && (b == 15 || decide (f.st ≤ b)) && (c == 15 || decide (f.cp ≤ c)) && (d == 15 || decide (f.tl ≤ d))
  | .acreset k => (f.ac k).out == 0
  | .acFull k => decide ((f.ac k).out < 255)
  | .cpFull => decide (f.cp < 15)
  | .stream t => (List.range 2).all (fun m => ((s.matrix f.core m).ops.filter (fun o => o.floe == h && (t == 4 || o.stream == t))).isEmpty
      && ((s.matrix (corePartner f.core) m).ops.filter (fun o => o.floe == h && (t == 4 || o.stream == t))).isEmpty)
  | .barrier c => !Table.getD f.barPending false c
  | .arrive c _ _ => !Table.getD f.barPending false c
  | .enq id => !s.enqs.any (fun r => r.op == some id)
  | _ => false

/-- Holds the floe on a condition, or retires at once where it holds (R175). -/
def waitOr (h : Nat) (w : Wait) (f : Floe) (s : State) (done : State → State) : State :=
  if waitHolds s h f w then done s else s.waitOn h w

/-- WAIT (R175). -/
def waitBody (w : FWord) (_sh : Shape) (e : Env) (s : State) : Res :=
  let c : Wait := if w.m.getLsbD 0 then .classes (w.b.toNat / 16) (w.b.toNat % 16) (w.c.toNat / 16) (w.c.toNat % 16)
    else .counter w.b.toNat w.c.toNat
  if e.exec = 0 then .done s else .done (waitOr e.h c e.f s id)

/-- ACRESET's effect once the counter has drained (R176). -/
def State.acClear (s : State) (h k : Nat) : State := s.modFloe h (fun f => f.setAc k ⟨0, 0⟩)

/-- ACRESET (R176). -/
def acresetBody (w : FWord) (_sh : Shape) (e : Env) (s : State) : Res :=
  if e.exec = 0 then .done s else .done (waitOr e.h (.acreset w.c.toNat) e.f s (fun t => t.acClear e.h w.c.toNat))

/-- The core's descriptor cache emptied (R186). -/
def State.dropDescs (s : State) (core : Nat) : State := s.modCore core (fun c => { c with descCache := [] })

/-- DFENCE (R195). -/
def dfenceBody (_w : FWord) (_sh : Shape) (e : Env) (s : State) : Res :=
  if e.exec = 0 then .done s
  else .done (waitOr e.h (.ops (s.storesOf e.h) .desc) e.f s (fun t => t.dropDescs e.f.core))

def execCpy (w : FWord) (s : State) : Host.Outcome State Fault Refusal := issueF (.cpy w) cpyBody s
def execCpyd (w : FWord) (s : State) : Host.Outcome State Fault Refusal := issueF (.cpyd w) cpydBody s
def execCpcommit (w : FWord) (s : State) : Host.Outcome State Fault Refusal := issueF (.cpcommit w) cpcommitBody s
def execWait (w : FWord) (s : State) : Host.Outcome State Fault Refusal := issueF (.wait w) waitBody s
def execAcreset (w : FWord) (s : State) : Host.Outcome State Fault Refusal := issueF (.acreset w) acresetBody s
def execDfence (w : FWord) (s : State) : Host.Outcome State Fault Refusal := issueF (.dfence w) dfenceBody s

/-! ## The mover's steps -/

/-- Whether a waiting copy may start before another (R185): copies without a deadline that have waited 100 µs, then deadline copies by
latest-service time, then the others in issue order. -/
def copyBefore (gt : Nat) (a b : Copy) : Bool :=
  let rank (c : Copy) : Nat × Nat := match c.deadline with
    | some d => (1, d)
    | none => if c.issueGt + 100000 ≤ gt then (0, c.order) else (2, c.order)
  decide ((rank a).1 < (rank b).1) || ((rank a).1 == (rank b).1 && decide ((rank a).2 ≤ (rank b).2))

/-- COPY_START (R185). -/
def execCopyStart (core copy : Nat) (s : State) : Host.Outcome State Fault Refusal :=
  match Table.find? s.copies copy with
  | none => .next s
  | some c =>
    let gt := s.coreGt core
    let first := (Table.vals (s.copiesOf core)).all (fun d => d.started || !s.ended d.after || copyBefore gt c d)
    if c.core ≠ core ∨ c.started ∨ c.savedIn ∨ !s.ended c.after ∨ !first then .next s
    else
      let s1 := s.modCopy copy (fun d => { d with started := true })
      let s2 := if (match c.deadline with | some d => decide (d < gt) | none => false) then
        s1.modCore core (fun k => { k with misses := satInc k.misses }) else s1
      .next (if c.desc.acq then s2.acquire core c.desc.scope else s2)

/-- A signal sent to a context's event table by an engine (R184, R299, R318). -/
def State.signal (s : State) (ctx name amount : Nat) (after : List Nat) : State :=
  if name = 0 then s else s.modCtx ctx (fun c => { c with evOps := c.evOps ++ [⟨name, 0, amount, none, none, after⟩] })

/-- COPY_COMPLETE (R184): the elements written, then the arrival counter, the group and the event. -/
def execCopyComplete (core copy : Nat) (s : State) : Host.Outcome State Fault Refusal :=
  match Table.find? s.copies copy with
  | none => .next s
  | some c =>
    if c.core ≠ core ∨ !c.runs s ∨ (firstFault s copy c.rest).isSome ∨ (c.rest.any (fun k => !elemClear s c k)) then .next s
    else
      let s1 := moveElems s copy c.rest
      if (match Table.find? s1.copies copy with | some d => !d.rest.isEmpty | none => true) then .next s1
      else
      let s2 := { s1 with copies := Table.erase s1.copies copy }
      let live : Bool := match s2.floe? c.floe with | some f => f.state != .retired | none => false
      let s3 := if live then s2.modFloe c.floe (fun f => (if c.desc.cta then f.acArrive c.desc.ac else f).copyDone copy) else s2
      .next (if c.desc.cte then s3.signal c.ctx c.desc.event 1 [] else s3)

/-- What a fault of a copy does for a cause (R187): a record is posted in every case, as for every transfer that faults (R166). -/
def copyFaultCause (s0 : State) (copy : Nat) (c : Copy) (k : Nat) (x : Cause) (va : Dword) : State :=
  let s := s0.countSeal c.core c.ctx (moverSecure s0 c.core) x va
  let r (replay : Bool) := faultRecord x.code 1 replay (partOf c.core) c.inst c.floeNum c.core va.toNat 0 0 k 0 0 0 c.num (s.gt % 2 ^ 64)
  if x = .pageNotPresent then
    (s.modCopy copy (fun d => { d with waiting := true, next := k, faultVa := va })).postRecord c.ctx (r true)
  else
    let s1 := { s with copies := Table.erase s.copies copy }
    let t : TrapInfo := { cause := x, source := 1, tinfo := va, vaddr := va, elem := k, aux := c.num }
    match s1.floe? c.floe with
    | some f =>
      if f.state = .retired then s1.fatalLive c.ctx (r false)
      else (s1.postRecord c.ctx (r false)).modFloe c.floe (fun g =>
        let g1 := if c.desc.cta then g.acForget c.desc.ac else g
        { g1.copyDone copy with pendingTraps := g.pendingTraps ++ [t] })
    | none => s1.fatalLive c.ctx (r false)

/-- COPY_FAULT (R187): the elements before the faulting one are written. -/
def execCopyFault (core copy : Nat) (s : State) : Host.Outcome State Fault Refusal :=
  match Table.find? s.copies copy with
  | none => .next s
  | some c =>
    if c.core ≠ core ∨ !c.runs s then .next s
    else match firstFault s copy c.rest with
      | none => .next s
      | some (k, x) =>
        let before := c.rest.takeWhile (fun j => decide (j < k))
        if !before.all (elemClear s c) then .next s
        else
          let s1 := moveElems s copy before
          .next (match Table.find? s1.copies copy with
            | some d => if d.rest.any (fun j => decide (j < k)) then s1 else copyFaultCause s1 copy d k x.1 x.2
            | none => s1)

/-- MOVER_TRAP_DELIVERY (R187, R370): at the floe's instruction boundary, in the slot that would issue next. -/
def execMoverTrapDelivery (floe : Nat) (s : State) : Host.Outcome State Fault Refusal :=
  match s.floe? floe with
  | none => .next s
  | some f =>
    match f.pendingTraps, f.slot f.nextSlot with
    | t :: rest, some sl =>
      if f.state ≠ .ready ∨ s.stopped f then .next s
      else .next (State.deliver (s.modFloe floe (fun g => { g with pendingTraps := rest })) floe f.nextSlot sl.pc sl.pc t)
    | _, _ => .next s

end Sys2Proof.Machine
end

