-- ==== Sys2Proof/Machine/Ord.lean ====
section
/-! DEFINITION. Class 9 (R219, R236, R378), and the steps that time and age drive: SLEEP_DEADLINE, FLOE_AGED, WATCHDOG, GT_CORRECTION. -/

namespace Sys2Proof.Machine

/-- Whether an operation is a load, LDA, returning atomic, RLD or RATOM, or a store, RED or RWR (R236). -/
def Op.isRead (o : Op) : Bool := match o.kind with | .load | .loadRemote _ | .expand _ | .atomic _ true => true | _ => false
def Op.isWrite (o : Op) : Bool := match o.kind with | .store | .storeRemote _ | .compress _ | .atomic _ false => true | _ => false

/-- The effect of the load side of a FENCE at PAIR scope or wider (R201, R236). -/
def State.dropUnord (s : State) (core : Nat) : State := s.acquire core 3

/-- FENCE (R236): its loads complete, and for .st and .all its writes, and those of others that it has read, performed at its scope. With .all at
CORE or wider, the words the floe has fetched ahead go at its next branch (R239). -/
def fenceBody (w : FWord) (_sh : Shape) (e : Env) (s : State) : Res :=
  if e.exec = 0 ∨ w.s.toNat ≤ 1 then .done s
  else
    let writes := w.m.getLsbD 1
    let ids := Table.keys (Table.keep s.ops (fun i o => (o.floe == e.h && (o.isRead || (writes && o.isWrite))) || (writes && e.f.seen.contains i)))
    let drop := w.m.getLsbD 0 && decide (3 ≤ w.s.toNat)
    let s1 := if w.m.getLsbD 0 && writes then s.modFloe e.h (fun f => { f with ibufStale := true }) else s
    .done (waitOr e.h (.fence ids w.s.toNat drop) e.f s1 (fun t => if drop then t.dropUnord e.f.core else t))

/-- LEASEDROP (R219): the core's copies go and its exclusive spans return to their slices. -/
def leasedropBody (_w : FWord) (_sh : Shape) (e : Env) (s : State) : Res :=
  if e.exec = 0 then .done s else .done (s.modCore e.f.core (fun c => { c with l1 := [], excl := [] }))

/-- FLUSHTAG (R378). -/
def flushtagBody (w : FWord) (_sh : Shape) (e : Env) (s : State) : Res :=
  let a := rdOp s e.f 0 w.a 1
  if e.exec = 0 ∨ a.2 = false then .done s
  else
    let tag : BitVec 8 := BitVec.ofNat 8 a.1
    let s1 := s.modCore e.f.core (fun c =>
      { c with l1 := Table.keep c.l1 (fun _ l => l.tag != tag), excl := Table.keep c.excl (fun _ t => t != tag),
               tlb := c.tlb.filter (fun t => t.tag != tag), leafCache := c.leafCache.filter (fun t => t.tag != tag),
               descCache := Table.keep c.descCache (fun _ t => t.1 != tag) })
    let ids := Table.keys (Table.keep s1.ops (fun _ o => o.core == e.f.core && o.writes && s1.ctxTag o.ctx == tag))
    .done (waitOr e.h (.ops ids .none) e.f s1 id)

def execFence (w : FWord) (s : State) : Host.Outcome State Fault Refusal := issueF (.fence w) fenceBody s
def execLeasedrop (w : FWord) (s : State) : Host.Outcome State Fault Refusal := issueF (.leasedrop w) leasedropBody s
def execFlushtag (w : FWord) (s : State) : Host.Outcome State Fault Refusal := issueF (.flushtag w) flushtagBody s

/-! ## Time -/

/-- FLOE_AGED (R141): the age, in ck of the floe's cluster, has reached AGE_LIMIT − 16. -/
def execFloeAged (floe : Nat) (s : State) : Host.Outcome State Fault Refusal :=
  match s.floe? floe with
  | none => .next s
  | some f =>
    let age := (s.mck f.core - f.since) / 1000
    .next (if f.state = .ready ∧ (s.part (partOf f.core)).ageLimit - 16 ≤ age then s.setFloe floe { f with aged := true } else s)

/-- SLEEP_DEADLINE (R163). -/
def execSleepDeadline (floe : Nat) (s : State) : Host.Outcome State Fault Refusal :=
  match s.floe? floe with
  | none => .next s
  | some f =>
    if s.stopped f then .next s
    else match f.state, f.wait with
    | .waiting, some (.sleep d) => .next (if d ≤ s.coreGt f.core then s.setFloe floe (f.resume (s.mck f.core)) else s)
    | _, _ => .next s

/-- WATCHDOG (R369): a floe WAITING for WDOG·1,024 gt takes the trap at the instruction that holds it. -/
def execWatchdog (floe : Nat) (s : State) : Host.Outcome State Fault Refusal :=
  match s.floe? floe with
  | none => .next s
  | some f =>
    let limit := (s.part (partOf f.core)).wdog.toNat * 1024
    let held : Option Op := match f.wait with | some (.enq op) => Table.find? s.ops op | _ => none
    if f.state ≠ .waiting ∨ s.stopped f ∨ limit = 0 ∨ s.gt < f.waitSince + limit then .next s
    else
      match held, f.slot f.waitSlot1 with
      | some o, _ => .next ((s.abandonWait f floe).deliverLater floe o.slot1 o.pc { cause := .watchdog, lanes := o.exec })
      | none, some sl => .next ((s.abandonWait f floe).deliver floe f.waitSlot1 sl.pc sl.pc { cause := .watchdog, lanes := f.waitExec })
      | none, none => .next s

/-- GT_CORRECTION (R21): a core's copy steps forward to its corrected value, or holds until GT has come up to it. Each copy keeps within 1 gt of
the package's time, so that any two agree within 2. -/
def execGtCorrection (core : Nat) (target : Int) (s : State) : Host.Outcome State Fault Refusal :=
  let now := max ((s.gt : Int) + (s.core core).gtOff).toNat (s.core core).gtHold
  .next (if coreValid core ∧ -1 ≤ target ∧ target ≤ 1 then s.modCore core (fun c => { c with gtOff := target, gtHold := now }) else s)

end Sys2Proof.Machine
end

