-- ==== Sys2Proof/Machine/Barrier.lean ====
section
/-! DEFINITION. Class 13: packs (R341-R347) and the barrier (R348-R356), with the steps of the barrier tree and the clock steps it drives
(R20, R354). -/

namespace Sys2Proof.Machine

/-! ## PACKQ (R347) -/

/-- A number written once for a uniform D, or in each lane of exec; none invalidates. -/
def writeTargets (w : FWord) (sh : Shape) (e : Env) (r : Option Nat) (s : State) : State :=
  writeLanes e.f sh.d.writes ((computeLanes w e).map (fun l => (l, r))) s

/-- The floes of a floe's instance. -/
def State.floesOf (s : State) (f : Floe) : Nat := match s.inst? f.ctx f.inst with | some i => i.floes | none => 0

/-- PACKQ (R347). A member listed has its rank even after it has left. -/
def packqBody (w : FWord) (sh : Shape) (e : Env) (s : State) : Res :=
  let n := s.floesOf e.f
  let p? := ((s.kernel e.f.ctx e.f.kernel).packs.find? (fun p => p.id == w.c.toNat))
  let members := match p? with | some p => p.members n | none => []
  let r : Option Nat := match w.m.toNat with
    | 0 => p?.bind (fun p => p.rankOf e.f.num)
    | 1 => some members.length
    | _ => some (members.filter (fun m => !s.hasLeft e.f.ctx e.f.inst w.c.toNat m)).length
  if e.exec = 0 then .done s else .done (writeTargets w sh e r s)

/-! ## Arriving (R351-R353, R356) -/

/-- The pack that the floe's instance binds to a colour, where the floe is a member of it (R355). -/
def boundPack (s : State) (f : Floe) (colour : Nat) : Option Pack :=
  ((s.kernel f.ctx f.kernel).packsOf f.num).find? (fun p => p.bound && p.colour == colour)

/-- The barrier partition of a floe's instance. -/
def State.barPart (s : State) (f : Floe) : Option Nat := (s.inst? f.ctx f.inst).bind (fun i => i.barPart)

/-- The arrival itself: sent after what its release covers, the floe's phase bit flipped, the member leaving under .LEAVE. -/
def State.arriveAt (s : State) (h : Nat) (f : Floe) (colour : Nat) (leave : Bool) : State :=
  match boundPack s f colour, s.barPart f with
  | some p, some bp =>
    (match s.colour? bp colour with
     | some c =>
       let tag := Table.getD f.barPhase false colour
       let a : Arrival := { num := f.num, cluster := clusterOf f.core, tag := tag, arr := true, leave := leave, exit := false, gt := s.gt, after := s.opsOf h ++ f.seen, reached := none }
       let s1 := (s.setColour bp colour (c.send a)).modFloe h (fun g =>
         { g with barPhase := Table.setD g.barPhase false colour (!tag), barPending := Table.setD g.barPending false colour true })
       if leave then s1.modInst f.ctx f.inst (fun i => { i with gone := i.gone ++ [(p.id, f.num)] }) else s1
     | none => s)
  | _, _ => s

/-- Whether a floe may name a colour (R355): bound by its instance to a pack it belongs to, which it has not left where it arrives. -/
def colourOk (s : State) (f : Floe) (colour : Nat) (arrives : Bool) : Bool :=
  match boundPack s f colour, s.barPart f with
  | some p, some bp => (s.colour? bp colour).isSome && !(arrives && s.hasLeft f.ctx f.inst p.id f.num)
  | _, _ => false

/-- The acquire of a return (R353): PKG is scope 5. -/
def State.barAcquire (s : State) (core : Nat) : State := s.acquire core 5

/-- BARA, BARW and BARS: an unreleased arrival holds the floe before it arrives; BARW and BARS wait for the release (R356). -/
def barBody (arrives waits : Bool) (w : FWord) (_sh : Shape) (e : Env) (s : State) : Res :=
  let c := w.c.toNat
  let leave := arrives && w.m.getLsbD 0
  let pending := Table.getD e.f.barPending false c
  if e.exec = 0 then .done s
  else if !colourOk s e.f c arrives then .trap { cause := .illegalOperands, lanes := e.exec } s
  else if arrives then
    if pending then .done (s.waitOn e.h (.arrive c leave waits))
    else
      let s1 := s.arriveAt e.h e.f c leave
      .done (if waits then s1.waitOn e.h (.barrier c) else s1)
  else if pending then .done (s.waitOn e.h (.barrier c))
  else .done (s.barAcquire e.f.core)

/-- BART (R356): a condition word. -/
def bartBody (w : FWord) (sh : Shape) (e : Env) (s : State) : Res :=
  let c := w.c.toNat
  let r := !Table.getD e.f.barPending false c
  if e.exec = 0 then .done s
  else if !colourOk s e.f c false then .trap { cause := .illegalOperands, lanes := e.exec } s
  else
    let s1 := if r then s.barAcquire e.f.core else s
    .done ((computeLanes w e).foldl (fun (t : State) l =>
      sh.d.writes.foldl (fun (u : State) x => u.wrReg e.f x l ⟨if r then 1 else 0, r⟩) t) s1)

def execPackq (w : FWord) (s : State) : Host.Outcome State Fault Refusal := issueF (.packq w) packqBody s
def execBara (w : FWord) (s : State) : Host.Outcome State Fault Refusal := issueF (.bara w) (barBody true false) s
def execBarw (w : FWord) (s : State) : Host.Outcome State Fault Refusal := issueF (.barw w) (barBody false true) s
def execBars (w : FWord) (s : State) : Host.Outcome State Fault Refusal := issueF (.bars w) (barBody true true) s
def execBart (w : FWord) (s : State) : Host.Outcome State Fault Refusal := issueF (.bart w) bartBody s

/-! ## The tree (R350, R352) -/

/-- One arrival or leave taken by the tree: counted in its phase, or held while a release spreads. A phase that it completes is the `n`-th. -/
def Colour.take (n : Nat) (c : Colour) (a : Arrival) : Colour :=
  if c.st = .releasing then { c with held := c.held ++ [a] }
  else
    let arrived := if a.arr then c.arrived ++ [a.num] else c.arrived
    let live := if a.leave then c.live.filter (· != a.num) else c.live
    let c1 := { c with
      st := .gathering, any := true, arrived := arrived, live := live, counted := c.counted + (if a.arr then 1 else 0),
      first := (match c.first with | some k => some k | none => if a.arr then some a.cluster else none) }
    if live.all (fun n => arrived.contains n) then
      { c1 with st := .releasing, last := some a.cluster, byExit := a.exit, order := n, spread := arrived }
    else c1

/-- Whether a sent arrival can be in the tree: its release covers nothing outstanding, and those of its own member come before it. -/
def Colour.canReach (s : State) (c : Colour) (a : Arrival) : Bool :=
  s.ended a.after && ((c.sent.takeWhile (fun x => x != a)).all (fun x => x.num != a.num || x.reached.isSome))

/-- An arrival reaches the tree (R354). -/
def State.arrivalReaches (s : State) (part colour pos : Nat) : State :=
  match s.colour? part colour with
  | none => s
  | some c =>
    match c.sent[pos]? with
    | none => s
    | some a => if a.reached.isNone && c.canReach s a then s.setColour part colour { c with sent := c.sent.set pos { a with reached := some s.gt } } else s

/-- The arrival that the tree takes next: the first to have reached it, those of one gt in ascending cluster number, die·12 + row (R354); else
those that can all do now. It is of the phase that gathers, or of the next while a release spreads (R351). -/
def Colour.nextSent (s : State) (c : Colour) : Option Arrival :=
  let fits (a : Arrival) : Bool := a.tag == (if c.st = .releasing then !c.phase else c.phase)
  let n (a : Arrival) : Nat := a.cluster / 16 * 12 + a.cluster % 16
  let first (a b : Arrival) : Bool := match a.reached, b.reached with
    | some x, some y => decide (y < x) || (x == y && decide (n b < n a))
    | none, some _ => true
    | some _, none => false
    | none, none => decide (n b < n a)
  match c.sent.filter (fun a => fits a && (a.reached.isSome || c.canReach s a)) with
  | [] => none
  | a :: t => some (t.foldl (fun x y => if first x y then y else x) a)

/-- BARRIER_ARRIVAL (R350). -/
def execBarrierArrival (part colour : Nat) (s : State) : Host.Outcome State Fault Refusal :=
  match s.colour? part colour with
  | none => .next s
  | some c =>
    match c.nextSent s with
    | none => .next s
    | some a => .next ((s.takeId.2).setColour part colour (Colour.take s.nextId { c with sent := c.sent.erase a } a))

/-- The handle of an instance's floe number that has not retired. -/
def State.memberOf (s : State) (ctx inst num : Nat) : Option Nat :=
  (Table.search s.floes (fun _ f => f.ctx == ctx && f.inst == inst && f.num == num && f.state != .retired)).map Prod.fst

/-- RELEASE_REACHES_FLOE (R350): the release reaches one member, whose arrival is released. -/
def execReleaseReachesFloe (part colour floe : Nat) (s : State) : Host.Outcome State Fault Refusal :=
  match s.colour? part colour, s.floe? floe with
  | some c, some f =>
    if c.st = .releasing ∧ c.spread.contains f.num = true ∧ s.memberOf c.ctx c.inst f.num = some floe then
      .next ((s.setColour part colour { c with spread := c.spread.filter (· != f.num) }).modFloe floe (fun g =>
        { g with barPending := Table.setD g.barPending false colour false }))
    else .next s
  | _, _ => .next s

/-- A clock step that is due, among those due in the order in which their phases completed (R354). -/
def dueStep (x : Nat × Nat × Nat) (l : List (Nat × Nat × Nat)) : List (Nat × Nat × Nat) :=
  l.takeWhile (fun y => decide (y.1 ≤ x.1)) ++ x :: l.dropWhile (fun y => decide (y.1 ≤ x.1))

/-- RELEASE_DONE (R350): the phase bit flips and held arrivals are counted; a clock step becomes due (R354). -/
def execReleaseDone (part colour : Nat) (s : State) : Host.Outcome State Fault Refusal :=
  match s.colour? part colour with
  | none => .next s
  | some c =>
    if c.st ≠ .releasing ∨ c.spread.any (fun n => (s.memberOf c.ctx c.inst n).isSome) then .next s
    else
      let c1 := { c with st := .idle, phase := !c.phase, any := false, arrived := [], first := none, last := none, counted := 0, byExit := false,
                         spread := [], held := [] }
      let c2 := c.held.foldl (Colour.take s.nextId) c1
      let due := match c.last, c.first with
        | some l, some f => if c.byExit ∨ c.counted ≤ 1 then s.clkDue else dueStep (c.order, l, f) s.clkDue
        | _, _ => s.clkDue
      .next { (s.takeId.2).setColour part colour c2 with clkDue := due }

/-- CLOCK_STEP (R20, R354): the first due step moves both clocks or is discarded; `refuse` is the choice that R20 leaves open above
PLIMIT − 100 W (log 14). -/
def execClockStep (refuse : Bool) (s : State) : Host.Outcome State Fault Refusal :=
  match s.clkDue with
  | [] => .next s
  | (_, last, first) :: rest =>
    let s1 := { s with clkDue := rest }
    let up := Table.getD s.clk 940 last + 20
    let down := Table.getD s.clk 940 first - 20
    let power := decide (s.life.plimit.toNat - 100 < 2 * s.life.pwr.toNat)
    if last = first ∨ 1100 < up ∨ down < 780 ∨ s.life.throt ∨ (power && refuse) then .next s1
    else .next ((s1.setClock last up (Table.getD s.gated false last)).setClock first down (Table.getD s.gated false first))

end Sys2Proof.Machine
end

