-- ==== Sys2Proof/Machine/Event.lean ====
section
/-! DEFINITION. Named events (R320-R325): EVSIG, EVWAIT, EVCLR, and the operations of the event table. -/

namespace Sys2Proof.Machine

/-! ## Operands (R324) -/

/-- The name an event instruction gives, and whether it is valid. -/
def eventName (s : State) (e : Env) (w : FWord) : Nat × Bool :=
  if w.a = 0xFF then ((match w.x with | some x => x.imm.toNat % 65536 | none => 0), true)
  else let r := rdOp s e.f 0 w.a 1; (r.1 % 65536, r.2)

/-- The amount or threshold it gives. -/
def eventAmount (s : State) (e : Env) (w : FWord) : Nat × Bool :=
  if w.b = 0xFF then ((match w.x with | some x => x.imm.toNat / 65536 | none => 1), true) else rdOp s e.f 0 w.b 1

/-- A uniform destination of one floe-wide result; none invalidates. -/
def writeUni (f : Floe) (regs : List Reg) (v : Option Nat) (s : State) : State := s.wrGroup f 0 v.isSome regs (v.getD 0)

/-- An operation sent to a context's event table. -/
def State.sendEv (s : State) (ctx : Nat) (o : EvOp) : State := s.modCtx ctx (fun c => { c with evOps := c.evOps ++ [o] })

/-! ## The instructions (R325) -/

/-- EVSIG: a release at its scope; it counts in st until it is performed. -/
def evsigBody (w : FWord) (_sh : Shape) (e : Env) (s : State) : Res :=
  let n := eventName s e w
  let a := eventAmount s e w
  if e.exec = 0 ∨ !(n.2 && a.2) ∨ n.1 = 0 then .done s
  else
    let after := s.afterOf e.h (decide (2 ≤ w.s.toNat))
    let id := s.nextId
    let o := { newOp s e w .event with isSt := true, interlock := false, rel := true, after := after }
    if e.f.classFull o then .stall s else .done ((s.addOp o).sendEv e.f.ctx ⟨n.1, 0, a.1, some id, some e.h, after⟩)

/-- EVWAIT: the floe waits until the event's count meets the threshold; it counts while it does, and is not ready where its counter is full. -/
def evwaitBody (w : FWord) (sh : Shape) (e : Env) (s : State) : Res :=
  let n := eventName s e w
  let t := eventAmount s e w
  if e.exec = 0 then .done s
  else if !(n.2 && t.2) then .done (writeUni e.f sh.d.writes none s)
  else if n.1 = 0 then .done (writeUni e.f sh.d.writes (some 0) s)
  else if 1023 ≤ (if w.d = 0xFF then e.f.st else e.f.ld) then .stall s
  else .done (((s.waitOn e.h (.event n.1 t.1 w.d e.exec)).modFloe e.h (fun f => f.evCount w.d)).sendEv e.f.ctx
    ⟨n.1, 1, t.1, none, some e.h, s.afterOf e.h false⟩)

/-- EVCLR: the count before comes back where D names a register; without one it counts in st. -/
def evclrBody (w : FWord) (sh : Shape) (e : Env) (s : State) : Res :=
  let n := eventName s e w
  if e.exec = 0 then .done s
  else if !n.2 then .done (writeUni e.f sh.d.writes none s)
  else if n.1 = 0 then .done (writeUni e.f sh.d.writes (some 0) s)
  else
    let after := s.afterOf e.h false
    let id := s.nextId
    let st := sh.d.writes.isEmpty
    let o := { newOp s e w .event with isSt := st, interlock := !st, uniform := true, d := sh.d.writes, after := after }
    if e.f.classFull o then .stall s else .done ((s.addOp o).sendEv e.f.ctx ⟨n.1, 2, 0, some id, some e.h, after⟩)

def execEvsig (w : FWord) (s : State) : Host.Outcome State Fault Refusal := issueF (.evsig w) evsigBody s
def execEvwait (w : FWord) (s : State) : Host.Outcome State Fault Refusal := issueF (.evwait w) evwaitBody s
def execEvclr (w : FWord) (s : State) : Host.Outcome State Fault Refusal := issueF (.evclr w) evclrBody s

/-! ## The table (R321-R323) -/

/-- A uniform register of a SAVED floe written. -/
def Floe.wrSaved (f : Floe) (d : Code) (v : Nat) : Floe :=
  { f with savedRegs := (codeRegs d 1).foldl (fun t r => Table.insert t (32 * f.regs + r.n) ⟨BitVec.ofNat 32 v, true⟩) f.savedRegs }

/-- A floe's wait is satisfied at a count (R322): D is written, a SYSTEM acquire is made and the floe becomes READY; one that is SAVED
or SUSPENDED keeps its state and no longer waits. -/
def State.eventMet (s : State) (h n : Nat) : State :=
  match s.floe? h with
  | none => s
  | some f =>
    match f.wait with
    | some (.event _ _ d _) =>
      (match f.state with
       | .waiting => (((writeUni f (codeRegs d 1) (some n) s).acquire f.core 7)).modFloe h (fun g => (g.evReturned d).resume (s.mck f.core))
       | .saved => s.modFloe h (fun g => { (g.wrSaved d n).evReturned d with wait := some (.ops [] .unord) })
       | .suspended => (writeUni f (codeRegs d 1) (some n) s).modFloe h (fun g => { g.evReturned d with wait := some (.ops [] .unord) })
       | .ready => (writeUni f (codeRegs d 1) (some n) s).modFloe h (fun g => { g.evReturned d with wait := some (.ops [] .unord) })
       | _ => s)
    | _ => s

/-- One waiter satisfied. -/
def State.wake (ctx n : Nat) (s : State) (w : Waiter) : State :=
  match w with
  | .floe h _ => s.eventMet h n
  | .launch i _ => s.modInst ctx i (fun x => { x with wait := none })
  | .queue q _ => s.modQueue q (fun x => { x with evMet := true })

def Waiter.thr : Waiter → Nat
  | .floe _ t => t
  | .launch _ t => t
  | .queue _ t => t

/-- Signal by `a` (R322). -/
def State.signalNow (s : State) (ctx name a : Nat) : State :=
  let ev := s.event ctx name
  let n := min (ev.count + a) 0xFFFFFFFF
  let s1 := s.setEvent ctx name ⟨n, ev.waiters.filter (fun w => decide (n < w.thr))⟩
  (ev.waiters.filter (fun w => decide (w.thr ≤ n))).foldl (State.wake ctx n) s1

/-- The wait records of a context's spill area (R321). -/
def spillRecords : Nat := 98304

/-- The waiters of a context's events that its spill area holds: those beyond the 32 of each entry for the name resident in it, taken to be that
of the most waiters (log 95). -/
def State.spilled (s : State) (ctx : Nat) : Nat :=
  let evs : List (Nat × Nat) := List.map (fun p => (p.1 % 1024, p.2.waiters.length)) (Table.keep s.events (fun k _ => k / 65536 == ctx))
  let held (k : Nat) : Nat := min 32 (((evs.filter (fun e => e.1 == k)).map Prod.snd).foldl max 0)
  (evs.map Prod.snd).foldl (· + ·) 0 - (((evs.map Prod.fst).eraseDups).map held).foldl (· + ·) 0

/-- Whether a record is free for one more waiter of a name. -/
def State.recordFree (s : State) (ctx name : Nat) : Bool :=
  let ev := s.event ctx name
  decide ((s.setEvent ctx name { ev with waiters := ev.waiters ++ [.floe 0 0] }).spilled ctx ≤ spillRecords)

/-- The scope at which what an operation on an event follows is performed: an EVSIG's own (R323). -/
def State.evScope (s : State) (o : EvOp) : Nat :=
  match o.op.bind (fun i => Table.find? s.ops i) with | some p => if p.rel then p.scope else 7 | none => 7

/-- The first operation of a kind that may be performed: what it follows has ended, and no earlier one of its floe is on its event. A wait that
found no record is checked again where one is free (R321). -/
def nextEv (s : State) (ctx kind : Nat) : List EvOp → List EvOp → Option EvOp
  | [], _ => none
  | o :: t, seen =>
    if (o.kind = kind ∨ kind = 1 ∧ o.kind = 3 ∧ s.recordFree ctx o.name = true) ∧ s.endedAt (s.evScope o) o.after = true
        ∧ !(seen.any (fun p => p.name == o.name && p.floe.isSome && p.floe == o.floe)) then some o
    else nextEv s ctx kind t (seen ++ [o])

/-- One operation leaves a context's waiting operations. -/
def State.dropEv (s : State) (ctx : Nat) (o : EvOp) : State := s.modCtx ctx (fun c => { c with evOps := c.evOps.erase o })

/-- The operation of kind `kind` that a context's table performs next. -/
def State.evHead (s : State) (ctx kind : Nat) : Option EvOp := (s.ctx? ctx).bind (fun c => nextEv s ctx kind c.evOps [])

/-- An outstanding EVSIG or EVCLR without a destination ends. -/
def State.evOpEnds (s : State) (o : EvOp) (vals : List Nat) : State :=
  match o.op with
  | none => s
  | some id =>
    match Table.find? s.ops id with
    | none => s
    | some p => if p.isSt then s.endOp id p else s.modOp id (fun q => { q with state := .performed, vals := vals })

/-- EVENT_SIGNAL. -/
def execEventSignal (ctx : Nat) (s : State) : Host.Outcome State Fault Refusal :=
  match s.evHead ctx 0 with
  | none => .next s
  | some o => .next (((s.dropEv ctx o).evOpEnds o []).signalNow ctx o.name o.arg)

/-- EVENT_WAIT: satisfied at once, or listed where a record is free; else it keeps its floe WAITING until one is (R321). -/
def execEventWait (ctx : Nat) (s : State) : Host.Outcome State Fault Refusal :=
  match s.evHead ctx 1 with
  | none => .next s
  | some o =>
    let ev := s.event ctx o.name
    let h := o.floe.getD 0
    let s1 := (s.dropEv ctx o).modFloe h Floe.evPerformed
    if o.arg ≤ ev.count then .next (s1.eventMet h ev.count)
    else if s.recordFree ctx o.name then
      .next (s1.setEvent ctx o.name { ev with waiters := ev.waiters ++ [.floe h o.arg] })
    else .next (s.modCtx ctx (fun c => { c with evOps := c.evOps.map (fun x => if x = o then { x with kind := 3 } else x) }))

/-- EVENT_CLEAR. -/
def execEventClear (ctx : Nat) (s : State) : Host.Outcome State Fault Refusal :=
  match s.evHead ctx 2 with
  | none => .next s
  | some o =>
    let ev := s.event ctx o.name
    .next (((s.dropEv ctx o).evOpEnds o [ev.count]).setEvent ctx o.name { ev with count := 0 })

/-- DATA_RETURN of an EVCLR (R115): the count before, to the floe whose allocation is live. -/
def eventReturn (s : State) (id : Nat) (o : Op) : State :=
  if o.state ≠ .performed then s
  else match s.liveFloe o with
    | some f => (writeUni f o.d (some (o.vals.headD 0)) s).endOp id o
    | none => s.dropReturn id o

end Sys2Proof.Machine
end

