-- ==== Sys2Proof/Machine/Elementary.lean ====
section
/-! DEFINITION. Reciprocal, square root and the faithful functions (R120, R122, R123). The transcendental functions are computed
to 512 fractional bits; a result that is not exact is one of the two neighbours, chosen by Config.faithfulUp (log 13, log 18). -/

namespace Sys2Proof.Machine

/-- 1 with 512 fractional bits. -/
def fixOne : Nat := 2 ^ 512

/-- π with 512 fractional bits. -/
def fixPi : Nat :=
  0x3243f6a8885a308d313198a2e03707344a4093822299f31d0082efa98ec4e6c89452821e638d01377be5466cf34e90c6cc0ac29b7c97c50dd3f84d5b5b5470917

/-- ln 2 with 512 fractional bits. -/
def fixLn2 : Nat :=
  0xb17217f7d1cf79abc9e3b39803f2f6af40f343267298b62d8a0d175b8baafa2be7b876206debac98559552fb4afa1b10ed2eae35c138214427573b291169b825

/-- Product of two fixed-point numbers. -/
def fixMul (a b : Nat) : Nat := a * b / fixOne

/-- Horner steps of the exponential series. -/
def expGo (t : Nat) : Nat → Nat → Nat
  | 0, acc => acc
  | k + 1, acc => expGo t k (fixOne + fixMul t acc / (k + 1))

/-- Horner steps of the sine and cosine series: `off` is 1 for the sine and 0 for the cosine. -/
def trigGo (r2 off : Nat) : Nat → Nat → Nat
  | 0, acc => acc
  | k + 1, acc => trigGo r2 off k (fixOne - fixMul r2 acc / ((2 * (k + 1) - 1 + off) * (2 * (k + 1) + off)))

/-- Sine and cosine of a fixed-point angle in the first quadrant. -/
def fixSin (r : Nat) : Nat := fixMul r (trigGo (fixMul r r) 1 60 fixOne)
def fixCos (r : Nat) : Nat := trigGo (fixMul r r) 0 60 fixOne

/-- Fraction bits of log2 of `y` in [1, 2), by repeated squaring. -/
def logGo : Nat → Nat → Nat → Nat
  | 0, _, acc => acc
  | n + 1, y, acc =>
    let y2 := fixMul y y
    if 2 * fixOne ≤ y2 then logGo n (y2 / 2) (2 * acc + 1) else logGo n y2 (2 * acc)

/-- A faithful result (R122): exact when representable, else one of the two neighbours; NX when inexact, UF when also tiny. -/
def faithful (f : Fmt) (op : Nat) (input : Nat) (x : FVal) : FVal × Fx :=
  let lo := roundTo f.spec .rz x
  let rn := roundTo f.spec .rn x
  if !lo.2.nx then lo
  else if rn.2.of then rn
  else if Config.faithfulUp op (BitVec.ofNat 64 input) then
    ((roundTo f.spec (if x.isNeg then .rd else .ru) x).1, rn.2)
  else (lo.1, rn.2)

/-- NaN with NV. -/
def numInvalid : FVal × Fx := (.nan, { Fx.none with nv := true })

/-- `round(1 / a)` (R120, R122, R123). -/
def fpRecip (f : Fmt) (mode : Rnd) (x : FVal) : FVal × Fx :=
  match x with
  | .nan => (.nan, Fx.none)
  | .inf n => (.fin n 0 0, Fx.none)
  | .fin n m e =>
    if m = 0 then (.inf n, { Fx.none with dz := true })
    else let r := recipMag (f.mb + 2) m e; roundTo f.spec mode (.fin n r.1 r.2)

/-- `round(√a)` (R120, R122). -/
def fpSqrt (f : Fmt) (mode : Rnd) (x : FVal) : FVal × Fx :=
  match x with
  | .nan => (.nan, Fx.none)
  | .inf n => if n then numInvalid else (.inf false, Fx.none)
  | .fin n m e =>
    if m = 0 then (.fin n 0 0, Fx.none)
    else if n then numInvalid
    else let r := sqrtMag (f.mb + 2) m e; roundTo f.spec mode (.fin false r.1 r.2)

/-- `1/√a`, faithful (R122). -/
def fpRsqrt (f : Fmt) (op input : Nat) (x : FVal) : FVal × Fx :=
  match x with
  | .nan => (.nan, Fx.none)
  | .inf n => if n then numInvalid else (.fin false 0 0, Fx.none)
  | .fin n m e =>
    if m = 0 then (.inf n, { Fx.none with dz := true })
    else if n then numInvalid
    else let r := rsqrtMag (f.mb + 2) m e; faithful f op input (.fin false r.1 r.2)

/-- `2^a`, faithful (R122). Exponents beyond ±2,048 are clamped: they overflow or underflow every format. -/
def fpExp2 (f : Fmt) (op input : Nat) (x : FVal) : FVal × Fx :=
  match x with
  | .nan => (.nan, Fx.none)
  | .inf n => (if n then .fin false 0 0 else .inf false, Fx.none)
  | .fin n m e =>
    if m = 0 then (.fin false 1 0, Fx.none)
    else if 12 ≤ (Nat.log2 m : Int) + e then faithful f op input (.fin false 1 (if n then -2048 else 2048))
    else
      -- the value in units of 2^-512 (an FP32 source has e ≥ -149)
      let u : Int := if -512 ≤ e then (scaleTo m e (-512) : Int) else 0
      let u := if n then -u else u
      let k := u / (fixOne : Int)
      let fr := (u % (fixOne : Int)).toNat
      if fr = 0 then faithful f op input (.fin false 1 k)
      else faithful f op input (.fin false (2 * expGo (fixMul fr fixLn2) 120 fixOne + 1) (k - 513))

/-- `log2 a`, faithful (R122). -/
def fpLog2 (f : Fmt) (op input : Nat) (x : FVal) : FVal × Fx :=
  match x with
  | .nan => (.nan, Fx.none)
  | .inf n => if n then numInvalid else (.inf false, Fx.none)
  | .fin n m e =>
    if m = 0 then (.inf true, { Fx.none with dz := true })
    else if n then numInvalid
    else
      let l := Nat.log2 m
      let k : Int := (l : Int) + e
      if m = 2 ^ l then roundTo f.spec .rn (numOfInt k)
      else
        let lf := logGo 220 (m * fixOne / 2 ^ l) 0
        -- the exact value lies strictly between k + lf/2^220 and k + (lf+1)/2^220
        if 0 ≤ k then faithful f op input (.fin false (2 * (k.toNat * 2 ^ 220 + lf) + 1) (-221))
        else faithful f op input (.fin true (2 * ((-k).toNat * 2 ^ 220 - lf - 1) + 1) (-221))

/-- Sine (`quarter = 0`) or cosine (`quarter = 1`), faithful, every finite argument reduced exactly (R122). -/
def fpTrig (f : Fmt) (op input : Nat) (quarter : Nat) (x : FVal) : FVal × Fx :=
  match x with
  | .nan => (.nan, Fx.none)
  | .inf _ => numInvalid
  | .fin n m e =>
    if m = 0 then (if quarter = 0 then .fin n 0 0 else .fin false 1 0, Fx.none)
    else
      let u := if -512 ≤ e then scaleTo m e (-512) else 0
      let k := u / (fixPi / 2) + quarter
      let r := u % (fixPi / 2)
      let mag := if k % 2 = 0 then fixSin r else fixCos r
      let neg := (decide (2 ≤ k % 4)) != (n && quarter == 0)
      faithful f op input (.fin neg (2 * mag + 1) (-513))

end Sys2Proof.Machine
end

