-- ==== Sys2Proof/Machine/Fp.lean ====
section
/-! DEFINITION. Classes 1 and 2: FP32, packed half-width and FP64 arithmetic (R120-R123, R85). -/

namespace Sys2Proof.Machine

/-- .ftz of an FP32 instruction (R85). -/
def isFtz (w : FWord) : Bool := w.m.getLsbD 0

/-- An FP32 or FP64 result in the common frame: sources decoded (and flushed under .ftz), the exact value rounded once in mode S, and
the result flushed under .ftz (R85, R95). -/
def fpRound (f : Fmt) (ftz : Bool) (mode : Rnd) (x : FVal × Fx) : Nat × Fx :=
  let r := roundTo f.spec mode x.1
  let r := (r.1, x.2.or r.2)
  let r := if ftz then ftzOut r else r
  (f.encode r.1, r.2)

/-- A source of an FP instruction. -/
def fpSrc (f : Fmt) (ftz : Bool) (bits : Nat) : FVal := if ftz then ftzIn (f.decode bits) else f.decode bits

/-- The result of a function that rounds by itself. -/
def fpDone (f : Fmt) (ftz : Bool) (r : FVal × Fx) : Nat × Fx :=
  let r := if ftz then ftzOut r else r
  (f.encode r.1, r.2)

/-- FADD, FSUB, FMUL, FFMA and their FP64 and half forms on one format (R120). -/
def fpAddR (f : Fmt) (ftz : Bool) (mode : Rnd) (a b : Nat) : Nat × Fx :=
  fpRound f ftz mode (numAdd mode (fpSrc f ftz a) (fpSrc f ftz b))
def fpSubR (f : Fmt) (ftz : Bool) (mode : Rnd) (a b : Nat) : Nat × Fx :=
  fpRound f ftz mode (numAdd mode (fpSrc f ftz a) (fpSrc f ftz b).neg)
def fpMulR (f : Fmt) (ftz : Bool) (mode : Rnd) (a b : Nat) : Nat × Fx :=
  fpRound f ftz mode (numMul (fpSrc f ftz a) (fpSrc f ftz b))
def fpFmaR (f : Fmt) (ftz : Bool) (mode : Rnd) (a b c : Nat) : Nat × Fx :=
  fpRound f ftz mode (numFma mode (fpSrc f ftz a) (fpSrc f ftz b) (fpSrc f ftz c))

/-- FMIN, FMAX (R121): no flag; a NaN result is canonical. -/
def fpMinR (f : Fmt) (ftz : Bool) (a b : Nat) : Nat × Fx := (f.encode (numMin (fpSrc f ftz a) (fpSrc f ftz b)), Fx.none)
def fpMaxR (f : Fmt) (ftz : Bool) (a b : Nat) : Nat × Fx := (f.encode (numMax (fpSrc f ftz a) (fpSrc f ftz b)), Fx.none)

/-- FMOV, DMOV (R121): sign flipped under .neg, cleared under .abs, set under both. -/
def fpMovR (f : Fmt) (ftz neg abs : Bool) (a : Nat) : Nat × Fx :=
  let x := fpSrc f ftz a
  let x := if abs then x.abs else x
  (f.encode (if neg then x.neg else x), Fx.none)

/-- S of the word as a mode. -/
def modeOf (w : FWord) : Rnd := Rnd.ofS w.s

/-- The half format of a packed instruction: M[10] (R120). -/
def halfFmt (w : FWord) : Fmt := if w.m.getLsbD 1 then .bf16 else .fp16

/-- Both halves of a packed word, their conditions ORed (R120). -/
def packedR (op : Nat → Nat → Nat → Nat × Fx) (a b c : Nat) : Nat × Fx :=
  let lo := op (a % 2 ^ 16) (b % 2 ^ 16) (c % 2 ^ 16)
  let hi := op (a / 2 ^ 16) (b / 2 ^ 16) (c / 2 ^ 16)
  (lo.1 + 2 ^ 16 * hi.1, lo.2.or hi.2)

/-! ## Class 1 results -/

def opFadd (w : FWord) (a b _c : Nat) : Nat × Fx := fpAddR .fp32 (isFtz w) (modeOf w) a b
def opFsub (w : FWord) (a b _c : Nat) : Nat × Fx := fpSubR .fp32 (isFtz w) (modeOf w) a b
def opFmul (w : FWord) (a b _c : Nat) : Nat × Fx := fpMulR .fp32 (isFtz w) (modeOf w) a b
def opFfma (w : FWord) (a b c : Nat) : Nat × Fx := fpFmaR .fp32 (isFtz w) (modeOf w) a b c
def opFmin (w : FWord) (a b _c : Nat) : Nat × Fx := fpMinR .fp32 (isFtz w) a b
def opFmax (w : FWord) (a b _c : Nat) : Nat × Fx := fpMaxR .fp32 (isFtz w) a b
def opFmov (w : FWord) (a _b _c : Nat) : Nat × Fx := fpMovR .fp32 (isFtz w) (w.m.getLsbD 1) (w.m.getLsbD 2) a
def opFrcp (w : FWord) (a _b _c : Nat) : Nat × Fx := fpDone .fp32 (isFtz w) (fpRecip .fp32 (modeOf w) (fpSrc .fp32 (isFtz w) a))
def opFrsq (w : FWord) (a _b _c : Nat) : Nat × Fx := fpDone .fp32 (isFtz w) (fpRsqrt .fp32 0x048 a (fpSrc .fp32 (isFtz w) a))
def opFsqrt (w : FWord) (a _b _c : Nat) : Nat × Fx := fpDone .fp32 (isFtz w) (fpSqrt .fp32 (modeOf w) (fpSrc .fp32 (isFtz w) a))
def opFex2 (w : FWord) (a _b _c : Nat) : Nat × Fx := fpDone .fp32 (isFtz w) (fpExp2 .fp32 0x04A a (fpSrc .fp32 (isFtz w) a))
def opFlg2 (w : FWord) (a _b _c : Nat) : Nat × Fx := fpDone .fp32 (isFtz w) (fpLog2 .fp32 0x04B a (fpSrc .fp32 (isFtz w) a))
def opFsin (w : FWord) (a _b _c : Nat) : Nat × Fx := fpDone .fp32 (isFtz w) (fpTrig .fp32 0x04C a 0 (fpSrc .fp32 (isFtz w) a))
def opFcos (w : FWord) (a _b _c : Nat) : Nat × Fx := fpDone .fp32 (isFtz w) (fpTrig .fp32 0x04D a 1 (fpSrc .fp32 (isFtz w) a))
def opHadd2 (w : FWord) (a b c : Nat) : Nat × Fx := packedR (fun x y _ => fpAddR (halfFmt w) false (modeOf w) x y) a b c
def opHmul2 (w : FWord) (a b c : Nat) : Nat × Fx := packedR (fun x y _ => fpMulR (halfFmt w) false (modeOf w) x y) a b c
def opHfma2 (w : FWord) (a b c : Nat) : Nat × Fx := packedR (fun x y z => fpFmaR (halfFmt w) false (modeOf w) x y z) a b c

/-! ## Class 2 results (R123) -/

def opDadd (w : FWord) (a b _c : Nat) : Nat × Fx := fpAddR .fp64 false (modeOf w) a b
def opDmul (w : FWord) (a b _c : Nat) : Nat × Fx := fpMulR .fp64 false (modeOf w) a b
def opDfma (w : FWord) (a b c : Nat) : Nat × Fx := fpFmaR .fp64 false (modeOf w) a b c
def opDmin (_w : FWord) (a b _c : Nat) : Nat × Fx := fpMinR .fp64 false a b
def opDmax (_w : FWord) (a b _c : Nat) : Nat × Fx := fpMaxR .fp64 false a b
def opDrcp (w : FWord) (a _b _c : Nat) : Nat × Fx := fpDone .fp64 false (fpRecip .fp64 (modeOf w) (Fmt.fp64.decode a))
def opDrsq (_w : FWord) (a _b _c : Nat) : Nat × Fx := fpDone .fp64 false (fpRsqrt .fp64 0x086 a (Fmt.fp64.decode a))
def opDmov (w : FWord) (a _b _c : Nat) : Nat × Fx := fpMovR .fp64 false (w.m.getLsbD 1) (w.m.getLsbD 2) a

/-- B's value under an X word: the imm32 as it stands, or widened exactly to FP64 in an FP64 position (R39). -/
def immFp (w : FWord) (wide : Bool) : Nat :=
  match w.x with
  | none => 0
  | some x => if wide then Fmt.fp64.encode (Fmt.fp32.decode x.imm.toNat) else x.imm.toNat

/-- Runs an FP result function in the common frame. -/
def fpBody (op : FWord → Nat → Nat → Nat → Nat × Fx) (w : FWord) (sh : Shape) (e : Env) (s : State) : Res :=
  laneBody (immFp w sh.b.wide) (op w) w sh e s

/-- FADD (R120, R122). -/
def execFadd (w : FWord) (s : State) : Host.Outcome State Fault Refusal := issueF (.fadd w) (fpBody opFadd) s

/-- FSUB (R120, R122). -/
def execFsub (w : FWord) (s : State) : Host.Outcome State Fault Refusal := issueF (.fsub w) (fpBody opFsub) s

/-- FMUL (R120, R122). -/
def execFmul (w : FWord) (s : State) : Host.Outcome State Fault Refusal := issueF (.fmul w) (fpBody opFmul) s

/-- FFMA (R120, R122). -/
def execFfma (w : FWord) (s : State) : Host.Outcome State Fault Refusal := issueF (.ffma w) (fpBody opFfma) s

/-- FMIN (R121). -/
def execFmin (w : FWord) (s : State) : Host.Outcome State Fault Refusal := issueF (.fmin w) (fpBody opFmin) s

/-- FMAX (R121). -/
def execFmax (w : FWord) (s : State) : Host.Outcome State Fault Refusal := issueF (.fmax w) (fpBody opFmax) s

/-- FMOV (R121). -/
def execFmov (w : FWord) (s : State) : Host.Outcome State Fault Refusal := issueF (.fmov w) (fpBody opFmov) s

/-- FRCP (R120, R122). -/
def execFrcp (w : FWord) (s : State) : Host.Outcome State Fault Refusal := issueF (.frcp w) (fpBody opFrcp) s

/-- FRSQ (R120, R122). -/
def execFrsq (w : FWord) (s : State) : Host.Outcome State Fault Refusal := issueF (.frsq w) (fpBody opFrsq) s

/-- FSQRT (R120, R122). -/
def execFsqrt (w : FWord) (s : State) : Host.Outcome State Fault Refusal := issueF (.fsqrt w) (fpBody opFsqrt) s

/-- FEX2 (R120, R122). -/
def execFex2 (w : FWord) (s : State) : Host.Outcome State Fault Refusal := issueF (.fex2 w) (fpBody opFex2) s

/-- FLG2 (R120, R122). -/
def execFlg2 (w : FWord) (s : State) : Host.Outcome State Fault Refusal := issueF (.flg2 w) (fpBody opFlg2) s

/-- FSIN (R120, R122). -/
def execFsin (w : FWord) (s : State) : Host.Outcome State Fault Refusal := issueF (.fsin w) (fpBody opFsin) s

/-- FCOS (R120, R122). -/
def execFcos (w : FWord) (s : State) : Host.Outcome State Fault Refusal := issueF (.fcos w) (fpBody opFcos) s

/-- HADD2 (R120, R122). -/
def execHadd2 (w : FWord) (s : State) : Host.Outcome State Fault Refusal := issueF (.hadd2 w) (fpBody opHadd2) s

/-- HMUL2 (R120, R122). -/
def execHmul2 (w : FWord) (s : State) : Host.Outcome State Fault Refusal := issueF (.hmul2 w) (fpBody opHmul2) s

/-- HFMA2 (R120, R122). -/
def execHfma2 (w : FWord) (s : State) : Host.Outcome State Fault Refusal := issueF (.hfma2 w) (fpBody opHfma2) s

/-- DADD (R123). -/
def execDadd (w : FWord) (s : State) : Host.Outcome State Fault Refusal := issueF (.dadd w) (fpBody opDadd) s

/-- DMUL (R123). -/
def execDmul (w : FWord) (s : State) : Host.Outcome State Fault Refusal := issueF (.dmul w) (fpBody opDmul) s

/-- DFMA (R123). -/
def execDfma (w : FWord) (s : State) : Host.Outcome State Fault Refusal := issueF (.dfma w) (fpBody opDfma) s

/-- DMIN (R123). -/
def execDmin (w : FWord) (s : State) : Host.Outcome State Fault Refusal := issueF (.dmin w) (fpBody opDmin) s

/-- DMAX (R123). -/
def execDmax (w : FWord) (s : State) : Host.Outcome State Fault Refusal := issueF (.dmax w) (fpBody opDmax) s

/-- DRCP (R123). -/
def execDrcp (w : FWord) (s : State) : Host.Outcome State Fault Refusal := issueF (.drcp w) (fpBody opDrcp) s

/-- DRSQ (R123). -/
def execDrsq (w : FWord) (s : State) : Host.Outcome State Fault Refusal := issueF (.drsq w) (fpBody opDrsq) s

/-- DMOV (R123). -/
def execDmov (w : FWord) (s : State) : Host.Outcome State Fault Refusal := issueF (.dmov w) (fpBody opDmov) s

end Sys2Proof.Machine
end

