-- ==== Sys2Proof/Machine/Pair.lean ====
section
/-! DEFINITION. The P word (R52-R55), and the words that are no instruction (R46, R67). -/

namespace Sys2Proof.Machine

/-- The result of a half on its operands (R53). -/
def halfOp (h : HalfWord) (a b : Nat) : Nat × Fx :=
  let w := halfWord h
  let i := (h.b.signExtend 32).toNat
  match h.pop with
  | .mov => opMov w a 0 0
  | .iadd => opIadd w a b 0
  | .isub => opIsub w a b 0
  | .and => plain (a &&& b)
  | .or => plain (a ||| b)
  | .xor => plain (a ^^^ b)
  | .shl => opShl w a b 0
  | .shr => opShr w a b 0
  | .sar => opSar w a b 0
  | .imin => opImin w a b 0
  | .imax => opImax w a b 0
  | .fadd => opFadd w a b 0
  | .fmul => opFmul w a b 0
  | .fmin => opFmin w a b 0
  | .fmax => opFmax w a b 0
  | .hadd2 => opHadd2 w a b 0
  | .hmul2 => opHmul2 w a b 0
  | .mov8 => plain i
  | .iadd8 => opIadd w a i 0
  | .shl8 => opShl w a i 0

/-- The lane results of one half over the slot's active mask. -/
def halfResults (s : State) (e : Env) (h : HalfWord) : LaneResults :=
  let w := halfWord h
  let sh := halfShape h
  (computeLanes w e).map (fun l => (l, (laneSrcs s w sh e 0 l).map (fun v => halfOp h v.1 v.2.1)))

/-- The issue of a P word (R54): both halves read, then neither writes or both do. Where both halves raise an enabled condition, R54, R102
and R370 do not say which half the record names; the model's choice is half 0, with its cause and the lanes of its conditions (log 89). -/
def execPairWord (h0 h1 : HalfWord) (s : State) : Host.Outcome State Fault Refusal :=
  match s.env? 0xFF 8 with
  | none => .fault .noIssuer
  | some e =>
    let regs := namedRegs (halfShape h0) (halfWord h0) ++ namedRegs (halfShape h1) (halfWord h1)
    if !pairOk h0 h1 then .next (State.retire e [] false (.trap { cause := .illegalOperands, lanes := e.sl.mask } s))
    else if !regsOk e.f regs then .next (State.retire e [] false (.trap { cause := .registerRange, lanes := e.sl.mask } s))
    else
      let r0 := halfResults s e h0
      let r1 := halfResults s e h1
      let x0 := allFx r0
      let x1 := allFx r1
      let s1 := s.orFlags e.h (x0.or x1)
      match fpTrap e.f.fpflags x0, fpTrap e.f.fpflags x1 with
      | some c, _ => .next (State.retire e [] false (.trap { cause := c, lanes := trapLanes e.f.fpflags (halfWord h0) e.exec r0 } s1))
      | none, some c =>
        .next (State.retire e [] false (.trap { cause := c, half := true, lanes := trapLanes e.f.fpflags (halfWord h1) e.exec r1 } s1))
      | none, none =>
        .next (State.retire e [] false (.done (writeLanes e.f (halfShape h1).d.writes (r1.map (fun r => (r.1, r.2.map Prod.fst)))
          (writeLanes e.f (halfShape h0).d.writes (r0.map (fun r => (r.1, r.2.map Prod.fst))) s1))))

/-- A word whose opcode is unassigned, a reserved pOP, or X = 1 without an X word (R56 order 3, R67): TINFO is the word's OP (R370). A P word
has no OP field (R52); that TINFO is bits [62:53] of the word there too is the model's choice (log 89). -/
def execReservedOpcode (w : Dword) (s : State) : Host.Outcome State Fault Refusal :=
  match s.env? 0xFF 8 with
  | none => .fault .noIssuer
  | some e => .next (State.retire e [] false (.trap
    { cause := .illegalOpcode, lanes := e.sl.mask,
      tinfo := (w.extractLsb' 53 10).setWidth 64 } s))

/-- An X word reached by a slot (R46): TINFO is the address of the word that passed control. Where no word did (a kernel's first word, the
handler's address at TRAPBASE), and for a second X word after an F word with X = 1, the rule names none; the model's choice is the address
of the X word − 8 (log 89). -/
def execOrphanExtension (_w : Dword) (s : State) : Host.Outcome State Fault Refusal :=
  match s.env? 0xFF 8 with
  | none => .fault .noIssuer
  | some e => .next (State.retire e [] false (.trap
    { cause := .orphanExtension, lanes := e.sl.mask,
      tinfo := (match e.sl.via with | some p => p | none => e.sl.pc - 8) } s))

end Sys2Proof.Machine
end

