-- ==== Sys2Proof/Machine/Tile.lean ====
section
/-! DEFINITION. Class 10: matrix contexts (R242-R245), tile operations and their images (R246-R253), multiply-accumulate in classical and
recombined order (R254-R262), and the instructions and steps of the matrix engine (R263-R274). -/

namespace Sys2Proof.Machine

/-! ## Tiles and images (R246-R248) -/

/-- The scratch of an instance on a core (R317). -/
def State.scratchOf (s : State) (core ctx inst : Nat) : Option Region :=
  (s.core core).scratch.find? (fun r => r.ctx == ctx && r.inst == inst)

/-- A word of a tile. -/
def Matrix.word (x : Matrix) (t i : Nat) : Word := Table.getD x.tiles 0 (4096 * t + i)

/-- A tile with every word given anew. -/
def Matrix.setTile (x : Matrix) (t : Nat) (ws : List Word) : Matrix :=
  let lo := Table.keep x.tiles (fun k _ => decide (k < 4096 * t))
  let hi := Table.keep x.tiles (fun k _ => decide (4096 * (t + 1) ≤ k))
  { x with tiles := lo ++ ((ws.mapIdx (fun i w => (4096 * t + i, w))).filter (fun p => p.2 != 0)) ++ hi }

/-- A byte of an operand image: the byte at offset `o` lies where SW128 maps it, from base `b` of a scratch (R247). -/
def imgByte (s : State) (core : Nat) (r : Region) (b o : Nat) : Nat :=
  let at_ := r.start * 16384 + b + swizzle 2 o
  (s.firnAt core (at_ / 4)).data.toNat / 2 ^ (8 * (at_ % 4)) % 256

/-- An element of `bits` bits at index `k` of a row whose bytes `f` gives (R93). -/
def rowElem (f : Nat → Nat) (bits k : Nat) : Nat :=
  let lo := bits * k / 8
  let hi := (bits * k + bits - 1) / 8
  ((List.range (hi - lo + 1)).foldr (fun i acc => f (lo + i) + 256 * acc) 0) / 2 ^ (bits * k % 8) % 2 ^ bits

/-- A byte of a scale array: unswizzled (R248). -/
def scaleByte (s : State) (core : Nat) (r : Region) (b i : Nat) : Nat :=
  let at_ := r.start * 16384 + b + i
  (s.firnAt core (at_ / 4)).data.toNat / 2 ^ (8 * (at_ % 4)) % 256

/-! ## Multiply-accumulate (R254-R262) -/

/-- The input formats of a multiply (R254): per operand the width of an element and its decoding. -/
structure MulFmt where
  k : Nat
  g : Nat
  bits : Nat
  mx : Bool
  l6 : Bool
  fa : Fmt
  fb : Fmt
  acc : Fmt
  deriving DecidableEq, Repr

/-- The table of R254. -/
def mulFmt (kind : TileKind) (m : Nat) : MulFmt :=
  if kind = .mmax then
    (if m % 8 = 0 then ⟨256, 32, 4, true, false, .e2m1, .e2m1, .fp32⟩ else ⟨256, 32, 6, true, true, .e2m1, .e2m1, .fp32⟩)
  else match m % 8 with
    | 0 => ⟨64, 16, 16, false, false, .bf16, .bf16, .fp32⟩
    | 1 => ⟨64, 16, 16, false, false, .fp16, .fp16, .fp32⟩
    | 2 => ⟨128, 32, 8, false, false, .e4m3, .e4m3, .fp32⟩
    | 3 => ⟨128, 32, 8, false, false, .e4m3, .e5m2, .fp32⟩
    | 4 => ⟨128, 32, 8, false, false, .e5m2, .e4m3, .fp32⟩
    | 5 => ⟨128, 32, 8, false, false, .e5m2, .e5m2, .fp32⟩
    | _ => ⟨16, 16, 64, false, false, .fp64, .fp64, .fp64⟩

/-- The operands of one multiply: element codes and block scales of A by (row, k) and of B by (column, k). -/
structure Operands where
  a : Nat → Nat → Nat
  b : Nat → Nat → Nat
  sa : Nat → Nat → Nat
  sb : Nat → Nat → Nat

/-- `l6_product` (R104). -/
def l6Product (a sa b sb : Nat) : FVal :=
  if sa = 255 ∨ sb = 255 then .nan
  else
    let neg := (a / 32 + b / 32) % 2 == 1
    let ca := l6code a
    let cb := l6code b
    if ca = -16 ∨ cb = -16 then .fin neg 0 0
    else
      let q := ca + cb
      let t := q / 4 + ((sa : Int) - 127) + ((sb : Int) - 127)
      .fin neg (l6lin (q % 4).toNat) (min (max t (-160)) 160 - 23)

/-- `mx_product` (R104). -/
def mxProduct (a sa b sb : Nat) : FVal :=
  if sa = 255 ∨ sb = 255 then .nan
  else ((numMul (Fmt.e2m1.decode a) (Fmt.e2m1.decode b)).1).scale ((sa : Int) + sb - 254)

/-- The exact product at (m, n, k), with NV of 0·∞ (R255). -/
def product (f : MulFmt) (o : Operands) (m n k : Nat) : FVal × Fx :=
  if f.l6 then (l6Product (o.a m k) (o.sa m k) (o.b n k) (o.sb n k), Fx.none)
  else if f.mx then (mxProduct (o.a m k) (o.sa m k) (o.b n k) (o.sb n k), Fx.none)
  else numMul (f.fa.decode (o.a m k)) (f.fb.decode (o.b n k))

/-- The exact sum of a group (R105). A NaN among the terms gives a NaN and raises nothing, infinities of both signs beside it or not: the rule
leaves NV open there (log 93). -/
def groupSum (ps : List FVal) : FVal × Fx :=
  let isInf (n : Bool) (x : FVal) : Bool := x == .inf n
  if ps.any (· == .nan) then (.nan, Fx.none)
  else if ps.any (isInf false) && ps.any (isInf true) then (.nan, { Fx.none with nv := true })
  else if ps.any (isInf false) then (.inf false, Fx.none)
  else if ps.any (isInf true) then (.inf true, Fx.none)
  else match ps with
    | [] => (.fin false 0 0, Fx.none)
    | p :: t => (t.foldl (fun a b => (numAdd .rn a b).1) p, Fx.none)

/-- `sum_group` (R105) over the products of `n` groups. -/
def sumGroup (acc : FVal) (p : Nat → FVal × Fx) (k g : Nat) (af : Fmt) (mode : Rnd) : FVal × Fx :=
  (List.range (k / g)).foldl (fun st i =>
    let ps := (List.range g).map (fun j => p (i * g + j))
    let fx := ps.foldl (fun x q => x.or q.2) st.2
    let e := groupSum (ps.map Prod.fst)
    let r := roundTo af.spec mode e.1
    let a := numAdd mode st.1 r.1
    let q := roundTo af.spec mode a.1
    (q.1, ((((fx.or e.2).or r.2).or a.2).or q.2))) (acc, Fx.none)

/-- The classical element (m, n) of a tile (R255): its new bits and flags. -/
def classical (f : MulFmt) (o : Operands) (mode : Rnd) (old : Nat) (m n : Nat) : Nat × Fx :=
  let r := sumGroup (f.acc.decode old) (product f o m n) f.k f.g f.acc mode
  (f.acc.encode r.1, r.2)

/-- The guard format of an input format (R258). -/
def guardSpec : Fmt → FmtSpec
  | .bf16 => ⟨10, -126, 2 ^ 11 - 1, 117, true⟩
  | .fp16 => ⟨13, -30, 2 ^ 14 - 1, 18, true⟩
  | .e4m3 => ⟨5, -14, 2 ^ 6 - 1, 10, true⟩
  | .e5m2 => ⟨4, -30, 2 ^ 5 - 1, 27, true⟩
  | _ => ⟨3, -6, 2 ^ 4 - 1, 4, true⟩

/-- `trunc(v·2^-d·16)/16` (R259). -/
def truncMx (v : FVal) (d : Nat) : FVal :=
  match v with
  | .fin n m e => .fin n (roundQ .rz n m (e - d) (-4)).1 (-4)
  | x => x

/-- `gadd_mx` (R259). -/
def gaddMx (x sx y sy : Nat) (neg : Bool) : FVal × Fx :=
  if sx = 255 ∨ sy = 255 then (.nan, Fx.none)
  else
    let dx := Fmt.e2m1.decode x
    let dy := let v := Fmt.e2m1.decode y; if neg then v.neg else v
    let t := if sy ≤ sx then (dx, sx, truncMx dy (sx - sy)) else (dy, sy, truncMx dx (sy - sx))
    let r := roundTo (guardSpec .e2m1) .rn (numAdd .rn t.1 t.2.2).1
    (r.1.scale ((t.2.1 : Int) - 127), r.2)

/-- `gadd` of two element codes with their scales (R257). -/
def gadd (mx : Bool) (f : Fmt) (x sx y sy : Nat) (neg : Bool) : FVal × Fx :=
  if mx then gaddMx x sx y sy neg
  else
    let v := f.decode y
    let a := numAdd .rn (f.decode x) (if neg then v.neg else v)
    let r := roundTo (guardSpec f) .rn a.1
    (r.1, a.2.or r.2)

/-- An operand that no pre-addition pairs, decoded exactly (R257, R259). -/
def lone (mx : Bool) (f : Fmt) (x sx : Nat) : FVal × Fx :=
  if mx then (if sx = 255 then .nan else (Fmt.e2m1.decode x).scale ((sx : Int) - 127), Fx.none) else (f.decode x, Fx.none)

/-- The left factor Pi at (r, k) and the right factor Qi at (k, c) (R257); `h` is K/2. -/
def recP (f : MulFmt) (o : Operands) (i r k : Nat) : FVal × Fx :=
  let h := f.k / 2
  let at_ (br bk : Nat) : Nat × Nat := (o.a (32 * br + r) (h * bk + k), o.sa (32 * br + r) (h * bk + k))
  let pair (x y : Nat × Nat) (neg : Bool) := gadd f.mx f.fa x.1 x.2 y.1 y.2 neg
  let one (x : Nat × Nat) := lone f.mx f.fa x.1 x.2
  match i with
  | 1 => pair (at_ 0 0) (at_ 1 1) false
  | 2 => pair (at_ 1 0) (at_ 1 1) false
  | 3 => one (at_ 0 0)
  | 4 => one (at_ 1 1)
  | 5 => pair (at_ 0 0) (at_ 0 1) false
  | 6 => pair (at_ 1 0) (at_ 0 0) true
  | _ => pair (at_ 0 1) (at_ 1 1) true
def recQ (f : MulFmt) (o : Operands) (i k c : Nat) : FVal × Fx :=
  let h := f.k / 2
  let at_ (bk bc : Nat) : Nat × Nat := (o.b (32 * bc + c) (h * bk + k), o.sb (32 * bc + c) (h * bk + k))
  let pair (x y : Nat × Nat) (neg : Bool) := gadd f.mx f.fb x.1 x.2 y.1 y.2 neg
  let one (x : Nat × Nat) := lone f.mx f.fb x.1 x.2
  match i with
  | 1 => pair (at_ 0 0) (at_ 1 1) false
  | 2 => one (at_ 0 0)
  | 3 => pair (at_ 0 1) (at_ 1 1) true
  | 4 => pair (at_ 1 0) (at_ 0 0) true
  | 5 => one (at_ 1 1)
  | 6 => pair (at_ 0 0) (at_ 0 1) false
  | _ => pair (at_ 1 0) (at_ 1 1) false

/-- A block product Mi at (r, c) (R257). -/
def recM (f : MulFmt) (o : Operands) (mode : Rnd) (i r c : Nat) : FVal × Fx :=
  sumGroup (.fin false 0 0) (fun k =>
    let p := recP f o i r k
    let q := recQ f o i k c
    let x := numMul p.1 q.1
    (x.1, (x.2.or p.2).or q.2)) (f.k / 2) f.g .fp32 mode

/-- `s(x ± y)` of R257. -/
def recStep (mode : Rnd) (x y : FVal × Fx) (neg : Bool) : FVal × Fx :=
  let a := numAdd mode x.1 (if neg then y.1.neg else y.1)
  let r := roundTo Fmt.fp32.spec mode a.1
  (r.1, (((x.2.or y.2).or a.2).or r.2))

/-- The recombined element (m, n) (R257). -/
def recombined (f : MulFmt) (o : Operands) (mode : Rnd) (old m n : Nat) : Nat × Fx :=
  let r := m % 32
  let c := n % 32
  let M (i : Nat) := recM f o mode i r c
  let st := recStep mode
  let cij := match m / 32, n / 32 with
    | 0, 0 => st (st (st (M 1) (M 4) false) (M 5) true) (M 7) false
    | 0, _ => st (M 3) (M 5) false
    | _, 0 => st (M 2) (M 4) false
    | _, _ => st (st (st (M 1) (M 2) true) (M 3) false) (M 6) false
  let t := st (Fmt.fp32.decode old, Fx.none) cij false
  (Fmt.fp32.encode t.1, t.2)

/-- Whether the scan of RECOMB.SAFE finds a NaN or infinity, or a NaN scale (R262). -/
def safeFinds (f : MulFmt) (o : Operands) : Bool :=
  let odd (x : FVal) : Bool := match x with | .fin _ _ _ => false | _ => true
  (List.range 64).any (fun r => (List.range f.k).any (fun k =>
    if f.mx then o.sa r k == 255 || o.sb r k == 255 else odd (f.fa.decode (o.a r k)) || odd (f.fb.decode (o.b r k))))

/-- A tile after a multiply: its words (of `d`, and of `d + 1` for FP64), flags, and whether RECOMB.SAFE fell back. -/
def multiply (f : MulFmt) (o : Operands) (y : Nat) (mode : Rnd) (x : Matrix) (d : Nat) : Matrix × Fx × Bool :=
  let back := y == 2 && safeFinds f o
  let rec_ := y == 1 || (y == 2 && !back)
  let old (i : Nat) : Nat := (x.word d i).toNat + (if f.acc = .fp64 then 2 ^ 32 * (x.word (d + 1) i).toNat else 0)
  let rs := (List.range 4096).map (fun i =>
    if rec_ then recombined f o mode (old i) (i / 64) (i % 64) else classical f o mode (old i) (i / 64) (i % 64))
  let x1 := x.setTile d (rs.map (fun r => BitVec.ofNat 32 r.1))
  let x2 := if f.acc = .fp64 then x1.setTile (d + 1) (rs.map (fun r => BitVec.ofNat 32 (r.1 / 2 ^ 32))) else x1
  (x2, rs.foldl (fun a r => a.or r.2) Fx.none, back)

/-! ## Accumulator images (R247, R270) -/

/-- The element format of an accumulator image, by M[11:9]; none for .f32 and .f64, whose bits are copied. -/
def accFmt (m : Nat) : Option Fmt :=
  match m % 8 with | 1 => some .bf16 | 2 => some .fp16 | 3 => some .e4m3 | 4 => some .e5m2 | _ => none

/-- The element of a tile that an element of an image decodes to, a NaN the canonical one (R86, R270). -/
def mldVal (m v : Nat) : Nat :=
  match accFmt m with
  | some f => Fmt.fp32.encode (f.decode v)
  | none => if m % 8 = 5 then Fmt.fp64.encode (Fmt.fp64.decode v) else Fmt.fp32.encode (Fmt.fp32.decode v)
def accBytes (m : Nat) : Nat := match m % 8 with | 0 => 4 | 5 => 8 | 1 => 2 | 2 => 2 | _ => 1

/-- The key of an element among those of an operation's images: 0 for A, 1 for B, 2 and 3 for their scales, 4 for an accumulator image, 5 for the
bytes of TPSCAN, 8 more for the follower's; its row and its place in it, the last two in one count from 4 on. -/
def elemKey (part row k : Nat) : Nat := part * 2 ^ 24 + row * 4096 + k

/-- The part of a key of what `core` reads itself. -/
def partIn (leader core part : Nat) : Nat := if core = leader then part else part + 8

/-- An element of an accumulator image. -/
def accElem (s : State) (core : Nat) (r : Region) (o : TileOp) (i : Nat) : Nat :=
  let n := accBytes o.m
  (List.range n).foldr (fun b acc => imgByte s core r o.a (n * i + b) + 256 * acc) 0

/-- MLD on one context (R270). -/
def mldTile (s : State) (leader core : Nat) (r : Region) (o : TileOp) (x : Matrix) : Matrix :=
  let n := accBytes o.m
  let val (i : Nat) : Nat := mldVal o.m ((Table.find? o.early (elemKey (partIn leader core 4) 0 i)).getD (accElem s core r o i))
  let x1 := x.setTile o.d ((List.range 4096).map (fun i => BitVec.ofNat 32 (val i)))
  if n = 8 then x1.setTile (o.d + 1) ((List.range 4096).map (fun i => BitVec.ofNat 32 (val i / 2 ^ 32))) else x1

/-- The element that an MST writes, and its flags (R270). -/
def mstVal (o : TileOp) (x : Matrix) (i : Nat) : Nat × Fx :=
  let w := (x.word o.d i).toNat
  match accFmt o.m with
  | some f => f.roundEncode (if 8 ≤ o.m then .sat else .rn) (Fmt.fp32.decode w)
  | none => (w + (if accBytes o.m = 8 then 2 ^ 32 * (x.word (o.d + 1) i).toNat else 0), Fx.none)

/-- One element of an MST's image written. -/
def mstPut (core : Nat) (r : Region) (o : TileOp) (x : Matrix) (i : Nat) (s : State) : State :=
  let n := accBytes o.m
  let v := (mstVal o x i).1
  (List.range n).foldl (fun (t : State) b => t.firnEngine core (r.start * 16384 + o.a + swizzle 2 (n * i + b)) (v / 256 ^ b)) s

/-- MST on one context: the firn after, with the elements not written before, and the flags (R270). -/
def mstTile (s : State) (leader core : Nat) (r : Region) (o : TileOp) (x : Matrix) : State × Fx :=
  (List.range 4096).foldl (fun st i =>
    (if (Table.find? o.early (elemKey (partIn leader core 4) 0 i)).isSome then st.1 else mstPut core r o x i st.1, st.2.or (mstVal o x i).2)) (s, Fx.none)

/-! ## Performing a tile operation (R249-R253) -/

/-- An element of an operand or a scale of a multiply of `core`'s half, by its part, row and place: A from `acore`, B from `core` (R267). -/
def mulElem (s : State) (f : MulFmt) (o : TileOp) (acore : Nat) (ra : Region) (core : Nat) (rb : Region) (part row k : Nat) : Nat :=
  let rs := f.k * f.bits / 8
  match part with
  | 0 => rowElem (fun i =>
      if o.kind = .mmag then (match o.rows.getD row none with | some j => imgByte s acore ra 0 (128 * j + i) | none => 0)
      else imgByte s acore ra o.a (rs * row + i)) f.bits k
  | 1 => rowElem (fun i => imgByte s core rb o.b (rs * row + i)) f.bits k
  | 2 => if f.mx then scaleByte s acore ra o.sa (8 * row + k) else 0
  | _ => if f.mx then scaleByte s core rb o.sb (8 * row + k) else 0

/-- The operands of a multiply of `core`'s half, with the elements that were read early (R250). -/
def operandsOf (s : State) (f : MulFmt) (o : TileOp) (acore : Nat) (ra : Region) (core : Nat) (rb : Region) : Operands :=
  let get (part key row k : Nat) : Nat := (Table.find? o.early (elemKey key row k)).getD (mulElem s f o acore ra core rb part row k)
  { a := fun m k => get 0 0 m k
    b := fun n k => get 1 (partIn acore core 1) n k
    sa := fun m k => get 2 2 m (k / 32)
    sb := fun n k => get 3 3 n (k / 32) }

/-- The cores an operation acts on: the leader's, and the follower's in pair mode for those that reach it (R267, R270, R271). -/
def tileCores (o : TileOp) (x : Matrix) (core : Nat) : List Nat :=
  let both : Bool := match o.kind with | .mmap => true | .mld => true | .mst => true | .mzero => true | _ => false
  if x.pair && both then [core, corePartner core] else [core]

/-- The effect on one core's context. -/
def tileEffect (s : State) (o : TileOp) (leader m core : Nat) : State × Fx :=
  let x := s.matrix core m
  match s.scratchOf core o.ctx o.inst, s.scratchOf leader o.ctx o.inst with
  | some r, some ra =>
    (match o.kind with
     | .mld => (s.setMatrix core m (mldTile s leader core r o x), Fx.none)
     | .mst => mstTile s leader core r o x
     | .mma | .mmap | .mmag | .mmax =>
       let f := mulFmt o.kind o.m
       let q := multiply f (operandsOf s f o leader ra core r) o.y (if 8 ≤ o.m then .sat else .rn) x o.d
       let s1 := s.setMatrix core m q.1
       let lead := s1.matrix leader m
       (if q.2.2 then s1.setMatrix leader m { lead with rcf := true } else s1, q.2.1)
     | .tpscan =>
       let n := match o.m % 4 with | 0 => 8192 | 1 => 12288 | _ => 16384
       let any := (List.range n).any (fun i => (Table.find? o.early (elemKey 5 0 i)).getD (imgByte s core r o.a i) != 0)
       let one : BitVec 16 := (1#16) <<< o.b
       (s.setMatrix core m { x with preds := (x.preds &&& ~~~one) ||| (if any then one else 0) }, Fx.none)
     | _ => (s, Fx.none))
  | _, _ => (s, Fx.none)

/-- What needs no scratch: MZERO (R271) and TPSET (R272). -/
def tilePlain (s : State) (o : TileOp) (m core : Nat) : State :=
  let x := s.matrix core m
  match o.kind with
  | .mzero =>
    let x1 := x.setTile o.d []
    s.setMatrix core m (if o.m % 2 = 1 then x1.setTile (o.d + 1) [] else x1)
  | .tpset mask =>
    let one : BitVec 16 := (1#16) <<< o.b
    let p : BitVec 16 := if mask then BitVec.ofNat 16 o.val.toNat else (x.preds &&& ~~~one) ||| (if o.val = 0 then 0 else one)
    s.setMatrix core m { x with preds := p }
  | _ => s

/-- A whole tile operation as one step: skipped under a false predicate or an invalid address (R253, R247). -/
def performTile (s : State) (core m : Nat) (o : TileOp) : State × Fx :=
  let x := s.matrix core m
  if o.dead || (match o.pred with | some p => !x.preds.getLsbD p | none => false) then (s, Fx.none)
  else
    let plain : Bool := match o.kind with | .mzero => true | .tpset _ => true | _ => false
    (tileCores o x core).foldl (fun st c =>
      if plain then (tilePlain st.1 o m c, st.2) else (let r := tileEffect st.1 o core m c; (r.1, st.2.or r.2))) (s, Fx.none)

/-- Whether an MST has written some of its image. -/
def TileOp.begun (o : TileOp) : Bool := o.kind == .mst && !o.early.isEmpty

/-- The operations of a context that can be performed: the first of each stream, once the stores it reads are performed (R184, R249, R250); one that
has begun comes before any other, of either context (R249, R252). -/
def mxReady (s : State) (core m : Nat) : List TileOp :=
  let x := s.matrix core m
  let firsts := (List.range 8).filterMap (fun t => x.ops.find? (fun o => o.stream == t))
  let can := if x.st = .held ∨ x.st = .draining then firsts.filter (fun o => s.endedAt 2 o.after) else []
  if (s.matrix core (1 - m)).ops.any TileOp.begun then [] else if x.ops.any TileOp.begun then can.filter TileOp.begun else can

/-- Whether it is a context's turn: the array alternates between the two where both have operations ready (R252). -/
def mxTurn (s : State) (core m : Nat) : Bool :=
  (mxReady s core (1 - m)).isEmpty || (s.core core).mxLast != (m == 1) || (s.matrix core m).ops.any TileOp.begun

/-- What the operations of a context have read early is forgotten, since an image is being written (R249). -/
def State.mxForget (s : State) (core m : Nat) : State :=
  let x := s.matrix core m
  s.setMatrix core m { x with ops := x.ops.map (fun o => if o.kind = .mst then o else { o with early := [] }) }

/-- An element of an image of operation number `pos` of a context is read before the operation's turn, which sees the floe's stores from then on or
not (R250): after the images that its stream writes before it, and while none is being written. -/
def State.tileRead (s : State) (core m pos key : Nat) : State :=
  let x := s.matrix core m
  match x.ops[pos]? with
  | none => s
  | some o =>
    let part := key / 2 ^ 24
    let row := key / 4096 % 4096
    let k := key % 4096
    let c := if 8 ≤ part then corePartner core else core
    let waits : Bool := x.ops.any TileOp.begun || (x.ops.take pos).any (fun p => p.stream == o.stream && p.kind == .mst)
    match s.scratchOf c o.ctx o.inst, s.scratchOf core o.ctx o.inst with
    | some r, some ra =>
      let v : Option Nat := match o.kind with
        | .mld => if part % 8 = 4 then some (accElem s c r o (row * 4096 + k)) else none
        | .tpscan => if part = 5 then some (imgByte s c r o.a (row * 4096 + k)) else none
        | .mma | .mmap | .mmag | .mmax => if part % 8 < 4 then some (mulElem s (mulFmt o.kind o.m) o core ra c r (part % 8) row k) else none
        | _ => none
      (match v with
       | some v => if waits || o.dead then s else s.setMatrix core m { x with ops := x.ops.set pos { o with early := Table.insert o.early key v } }
       | none => s)
    | _, _ => s

/-- One element of an MST's image is written before the others (R245, R250), from when no other operation is performed until it is done. -/
def State.tileWrite (s : State) (core m pos key : Nat) : State :=
  let x := s.matrix core m
  match x.ops[pos]? with
  | none => s
  | some o =>
    let part := key / 2 ^ 24
    let c := if 8 ≤ part then corePartner core else core
    let runs : Bool := !o.dead && (match o.pred with | some p => x.preds.getLsbD p | none => true)
    match s.scratchOf c o.ctx o.inst with
    | some r =>
      if o.kind = .mst ∧ runs = true ∧ (mxReady s core m).contains o = true ∧ mxTurn s core m = true ∧ part % 8 = 4 ∧ key % 2 ^ 24 < 4096
          ∧ (8 ≤ part → x.pair = true) ∧ (Table.find? o.early key).isNone = true then
        let s1 := mstPut c r o (s.matrix c m) (key % 4096) (s.mxForget core m)
        let y := s1.matrix core m
        s1.setMatrix core m { y with ops := y.ops.set pos { o with early := Table.insert o.early key 0 } }
      else s
    | none => s

/-- A step of the matrix engine that is part of an operation. -/
def State.tilePart (s : State) (core m pos key : Nat) : State :=
  if ((s.matrix core m).ops[pos]?).any (fun o => o.kind == .mst) then s.tileWrite core m pos key else s.tileRead core m pos key

/-- TILE_OPERATION_PERFORM (R249-R252): the first operation of a stream, at its context's turn; its flags and its unit of tl go to the floe that
issued it. -/
def execTileOperationPerform (core mctx stream : Nat) (s : State) : Host.Outcome State Fault Refusal :=
  match (if mxTurn s core mctx then (mxReady s core mctx).find? (fun o => o.stream == stream) else none) with
  | none => .next s
  | some o =>
    let s0 := if o.kind = .mst then s.mxForget core mctx else s
    let r := performTile s0 core mctx o
    let y := r.1.matrix core mctx
    let s1 := (r.1.setMatrix core mctx { y with ops := y.ops.erase o }).modCore core (fun c => { c with mxLast := mctx == 1 })
    .next (match s1.floe? o.floe with
      | some f => if f.tag = o.tag then s1.modFloe o.floe (fun g => { g with tl := g.tl - 1, fpflags := g.fpflags ||| r.2.bits }) else s1
      | none => s1)

/-! ## Contexts (R242, R243, R264, R265) -/

/-- The lowest context free on a core, and on its partner for a pair. -/
def freeMx (s : State) (core : Nat) (pair : Bool) : Option Nat :=
  (List.range 2).find? (fun m => (s.matrix core m).st == .free && (!pair || (s.matrix (corePartner core) m).st == .free))

/-- acquire, acquire_pair (R242). -/
def State.acquireMx (s : State) (h core m : Nat) (pair : Bool) : State :=
  let s1 := s.setMatrix core m { Matrix.fresh with st := .held, holder := some h, pair := pair }
  if pair then s1.setMatrix (corePartner core) m { Matrix.fresh with st := .slaved } else s1

/-- MCTX (R264). -/
def mctxBody (w : FWord) (_sh : Shape) (e : Env) (s : State) : Res :=
  let pair := w.m.getLsbD 0
  if e.exec = 0 then .done s
  else if (s.heldMx e.h e.f.core).isSome ∨ (pair ∧ e.f.core % 2 = 1) then .trap { cause := .illegalOperands, lanes := e.exec } s
  else if pair ∧ (s.scratchOf (corePartner e.f.core) e.f.ctx e.f.inst).isNone then .trap { cause := .pagePermission, lanes := e.exec } s
  else match freeMx s e.f.core pair with
    | some m => .done (s.acquireMx e.h e.f.core m pair)
    | none => .done ((s.modCore e.f.core (fun c => { c with mxWait := c.mxWait ++ [e.h] })).waitOn e.h (.matrix pair))

/-- MREL (R265). -/
def mrelBody (_w : FWord) (_sh : Shape) (e : Env) (s : State) : Res :=
  if e.exec = 0 ∨ (s.heldMx e.h e.f.core).isNone then .done s
  else .done (waitOr e.h (.stream 4) e.f (s.releaseMx e.h e.f.core false) id)

/-- MSYNC (R274). -/
def msyncBody (w : FWord) (_sh : Shape) (e : Env) (s : State) : Res :=
  if e.exec = 0 ∨ (s.heldMx e.h e.f.core).isNone then .done s
  else .done (waitOr e.h (.stream (if w.m.getLsbD 0 then 4 else w.s.toNat)) e.f s id)

/-- MATRIX_CONTEXT_GRANT (R243): to the MCTX that has waited longest. -/
def execMatrixContextGrant (core : Nat) (s : State) : Host.Outcome State Fault Refusal :=
  match (s.core core).mxWait with
  | [] => .next s
  | h :: rest =>
    match s.floe? h with
    | none => .next (s.modCore core (fun c => { c with mxWait := rest }))
    | some f =>
      match f.wait with
      | some (.matrix pair) =>
        (match freeMx s core pair with
         | some m => if f.state ≠ .waiting then .next s else
             .next (((s.acquireMx h core m pair).modCore core (fun c => { c with mxWait := rest })).modFloe h (fun g => g.resume (s.mck core)))
         | none => .next s)
      | _ => .next (s.modCore core (fun c => { c with mxWait := rest }))

/-- MATRIX_CONTEXT_DRAINED (R242): with its partner where it has one. -/
def execMatrixContextDrained (core mctx : Nat) (s : State) : Host.Outcome State Fault Refusal :=
  let x := s.matrix core mctx
  if x.st = .draining ∧ x.ops.isEmpty ∧ x.holder.isSome then
    let s1 := s.setMatrix core mctx Matrix.fresh
    .next (if x.pair then s1.setMatrix (corePartner core) mctx Matrix.fresh else s1)
  else .next s

/-! ## Issue of a tile operation (R243, R247, R263) -/

/-- An image or scale array that an instruction names: the core whose scratch holds it, its offset, size and alignment. -/
structure ImageRef where
  core : Nat
  off : Nat
  size : Nat
  align : Nat
  deriving DecidableEq, Repr

/-- The check of one image at issue (R247, R248). -/
def imageFault (s : State) (e : Env) (i : ImageRef) : Option TrapInfo :=
  let t (c : Cause) : TrapInfo := { cause := c, lanes := e.exec, tinfo := BitVec.ofNat 64 i.off }
  if i.off % i.align ≠ 0 then some (t .misalignedAccess)
  else match s.scratchOf i.core e.f.ctx e.f.inst with
    | some r => if r.bytes < i.off + i.size then some (t .pagePermission) else none
    | none => some (t .pagePermission)

/-- A tile operation joins its stream and counts in tl (R249, R250), which makes it not ready at 1,023 (R174); its checks come first, an invalid
address register before them. It reads the floe's earlier releases, as a copy does (R184). -/
def issueTile (o : TileOp) (imgs : List ImageRef) (pairOnly : Bool) (e : Env) (s : State) : Res :=
  if e.exec = 0 then .done s
  else match s.heldMx e.h e.f.core with
    | none => .trap { cause := .noMatrixContext, lanes := e.exec } s
    | some m =>
      let x := s.matrix e.f.core m
      if pairOnly && !x.pair then .trap { cause := .noMatrixContext, lanes := e.exec } s
      else match (if o.dead then none else imgs.findSome? (imageFault s e)) with
        | some t => .trap t s
        | none =>
          if 1023 ≤ e.f.tl then .stall s
          else .done ((s.setMatrix e.f.core m { x with ops := x.ops ++ [{ o with after := s.copyAfter e.h false }] }).modFloe e.h (fun f => { f with tl := f.tl + 1 }))

/-- A tile operation with the fields its word gives. -/
def newTile (e : Env) (w : FWord) (k : TileKind) : TileOp :=
  { floe := e.h, tag := e.f.tag, ctx := e.f.ctx, inst := e.f.inst, stream := w.s.toNat, kind := k, d := w.d.toNat,
    pred := if w.c = 0xFF then none else some w.c.toNat, m := w.m.toNat, y := w.y.toNat, a := 0, b := 0, sa := 0, sb := 0, rows := [], val := 0,
    dead := false, after := [], early := [] }

/-- Whether the floe's context is held in pair mode. -/
def inPair (s : State) (e : Env) : Bool :=
  match s.heldMx e.h e.f.core with | some m => (s.matrix e.f.core m).pair | none => false

/-- MMA, MMAP, MMAX (R266, R267, R269). -/
def mulBody (k : TileKind) (w : FWord) (_sh : Shape) (e : Env) (s : State) : Res :=
  let n := if k = .mmax then 2 else 1
  let a := rdOp s e.f 0 w.a n
  let b := rdOp s e.f 0 w.b n
  let f := mulFmt k w.m.toNat
  let size := 64 * (f.k * f.bits / 8)
  let ao := a.1 % 2 ^ 32
  let bo := b.1 % 2 ^ 32
  let c := e.f.core
  let imgs := [⟨c, ao, size, 1024⟩, ⟨c, bo, size, 1024⟩] ++ (if k = .mmax then [⟨c, a.1 / 2 ^ 32, 512, 64⟩, ⟨c, b.1 / 2 ^ 32, 512, 64⟩] else [])
    ++ (if k = .mmap then [⟨corePartner c, bo, size, 1024⟩] else [])
  issueTile { newTile e w k with a := ao, b := bo, sa := a.1 / 2 ^ 32, sb := b.1 / 2 ^ 32, dead := !(a.2 && b.2) } imgs (k == .mmap) e s

/-- MMAG (R268): the row indices read at issue, rows 2l and 2l + 1 from lane l. -/
def mmagBody (w : FWord) (_sh : Shape) (e : Env) (s : State) : Res :=
  let b := rdOp s e.f 0 w.b 1
  let row (i : Nat) : Option Nat :=
    let r := s.rdReg e.f ⟨false, w.a.toNat + i % 2⟩ (i / 2)
    if r.v then some (r.data.toNat % 2 ^ 16) else none
  let rows := (List.range 64).map row
  let c := e.f.core
  let imgs : List ImageRef := rows.filterMap (fun r => r.map (fun i => ⟨c, 128 * i, 128, 1⟩)) ++ [⟨c, b.1, 8192, 1024⟩]
  issueTile { newTile e w .mmag with b := b.1, rows := rows, dead := !b.2 } imgs false e s

/-- MLD, MST (R270). -/
def accBody (k : TileKind) (w : FWord) (_sh : Shape) (e : Env) (s : State) : Res :=
  let a := rdOp s e.f 0 w.a 1
  let size := 4096 * accBytes w.m.toNat
  let c := e.f.core
  let imgs : List ImageRef := ⟨c, a.1, size, 1024⟩ :: (if inPair s e then [⟨corePartner c, a.1, size, 1024⟩] else [])
  issueTile { newTile e w k with a := a.1, dead := !a.2 } imgs false e s

/-- MZERO (R271). -/
def mzeroBody (w : FWord) (_sh : Shape) (e : Env) (s : State) : Res := issueTile (newTile e w .mzero) [] false e s

/-- TPSET (R272): the value of a is read at issue. -/
def tpsetBody (w : FWord) (_sh : Shape) (e : Env) (s : State) : Res :=
  let a := rdOp s e.f 0 w.a 1
  issueTile { newTile e w (.tpset (w.m.getLsbD 0)) with pred := none, b := w.c.toNat % 16, val := BitVec.ofNat 32 a.1, dead := !a.2 } [] false e s

/-- TPSCAN (R273). -/
def tpscanBody (w : FWord) (_sh : Shape) (e : Env) (s : State) : Res :=
  let a := rdOp s e.f 0 w.a 1
  let size := match w.m.toNat % 4 with | 0 => 8192 | 1 => 12288 | _ => 16384
  issueTile { newTile e w .tpscan with pred := none, a := a.1, b := w.c.toNat % 16, dead := !a.2 } [⟨e.f.core, a.1, size, 1024⟩] false e s

def execMctx (w : FWord) (s : State) : Host.Outcome State Fault Refusal := issueF (.mctx w) mctxBody s
def execMrel (w : FWord) (s : State) : Host.Outcome State Fault Refusal := issueF (.mrel w) mrelBody s
def execMma (w : FWord) (s : State) : Host.Outcome State Fault Refusal := issueF (.mma w) (mulBody .mma) s
def execMmap (w : FWord) (s : State) : Host.Outcome State Fault Refusal := issueF (.mmap w) (mulBody .mmap) s
def execMmag (w : FWord) (s : State) : Host.Outcome State Fault Refusal := issueF (.mmag w) mmagBody s
def execMmax (w : FWord) (s : State) : Host.Outcome State Fault Refusal := issueF (.mmax w) (mulBody .mmax) s
def execMld (w : FWord) (s : State) : Host.Outcome State Fault Refusal := issueF (.mld w) (accBody .mld) s
def execMst (w : FWord) (s : State) : Host.Outcome State Fault Refusal := issueF (.mst w) (accBody .mst) s
def execMzero (w : FWord) (s : State) : Host.Outcome State Fault Refusal := issueF (.mzero w) mzeroBody s
def execTpset (w : FWord) (s : State) : Host.Outcome State Fault Refusal := issueF (.tpset w) tpsetBody s
def execTpscan (w : FWord) (s : State) : Host.Outcome State Fault Refusal := issueF (.tpscan w) tpscanBody s
def execMsync (w : FWord) (s : State) : Host.Outcome State Fault Refusal := issueF (.msync w) msyncBody s

end Sys2Proof.Machine
end

