-- ==== Sys2Proof/Machine/Issue.lean ====
section
/-! DEFINITION. Which floe a slice issues (R139-R142, R150, R370), the fetch of its next instruction (R31, R56), and what a turn of the
schedule comes to: the instruction that executes, or a state in which nothing does. -/

namespace Sys2Proof.Machine

/-! ## The next instruction of a slot -/

/-- The instruction at an address and, where it has one, its X word; the fault of the fetch (R56 order 1). -/
def fetchInstr (s : State) (f : Floe) (pc : Dword) : Except Cause Instr :=
  match fetchWord s f pc with
  | .error x => .error x
  | .ok w =>
    if wordBytes w = 16 then
      match fetchWord s f (pc + 8) with
      | .error x => .error x
      | .ok y => .ok (decode w y)
    else .ok (decode w 0)

/-- Every register an instruction names (R35). -/
def instrRegs (i : Instr) : List Reg :=
  match shapeOf i with
  | some (w, sh) => namedRegs sh w
  | none =>
    match i with
    | .pairWord h0 h1 => namedRegs (halfShape h0) (halfWord h0) ++ namedRegs (halfShape h1) (halfWord h1)
    | _ => []

/-- Whether no outstanding operation is still to write a register the slot's next instruction names (R171, R189). -/
def operandsFree (s : State) (h : Nat) (f : Floe) (b : Bool) : Bool :=
  let pend := (Table.vals (Table.keep s.ops (fun _ o => o.floe == h && o.interlock && o.tag == f.tag))).flatMap (fun o => o.d)
  if pend.isEmpty then true
  else match f.slot b with
    | none => false
    | some sl => match fetchInstr s f sl.pc with
      | .error _ => true
      | .ok i => (instrRegs i).all (fun r => !pend.contains r)

/-! ## The choice of a slice (R140) -/

/-- Whether floes of a context issue in its state (R359, R371). -/
def CtxState.issues : CtxState → Bool
  | .running => true
  | .preempting => true
  | .migrating => true
  | _ => false

/-- The cores on which a context's kernel may place floes now, in ascending order (R316, R379). -/
def placeCores (s : State) (ctx : Nat) (k : Kernel) : List Nat :=
  let parts := match s.ctx? ctx with | some c => c.parts | none => []
  let left (x : Nat) : Bool := match s.ctx? ctx with | some c => c.migrate.any (fun m => m.1 == x) | none => false
  (Table.keys k.place).filter (fun c => coreValid c && parts.contains (partOf c) && !(s.core c).halted && !(s.core c).quarantined
    && !s.net.isolated.contains (coreDie c) && !left c)

/-- The priority of a floe's instance. -/
def floePrio (s : State) (f : Floe) : Nat := match s.inst? f.ctx f.inst with | some i => i.prio | none => 3

/-- Whether a floe waits for its restore under the promise of R150: started, SAVED, no unserviced fault holding it, and with some core that its
kernel may use (R151). -/
def Floe.owed (s : State) (g : Floe) : Bool :=
  g.state == .saved && g.startGt.isSome && (g.savedFrom != .suspended || g.replayMark.isSome) && !(placeCores s g.ctx (s.kernel g.ctx g.kernel)).isEmpty

/-- Whether an owed floe of the context comes before work of level `p`: one of equal or higher priority, of any partition (R150). -/
def restoreFirst (s : State) (ctx p : Nat) : Bool :=
  (Table.search s.floes (fun _ g => g.ctx == ctx && g.owed s && decide (floePrio s g ≤ p))).isSome

/-- Whether a floe may issue its first instruction: every floe of its instance with a lower number has started (R149), and no owed floe of its
instance, or of equal or higher priority, waits (R150). A floe that has started may go on. -/
def mayStart (s : State) (f : Floe) : Bool :=
  f.startGt.isSome || ((Table.search s.floes (fun _ g => g.ctx == f.ctx && g.inst == f.inst && decide (g.num < f.num) && g.startGt.isNone
    && g.state != .retired)).isNone && !restoreFirst s f.ctx (floePrio s f))

/-- Whether a full queue holds a record that a floe sent: the floe waits until it is accepted (R331). -/
def enqHeld (s : State) (h : Nat) : Bool :=
  s.enqs.any (fun r => r.blocked && (r.op.bind (fun id => Table.find? s.ops id)).any (fun o => o.floe == h))

/-- Whether a floe competes for issue: READY with no wait to begin again, free to start, not being saved, with no trap of the mover to take first and no record that a
full queue holds, on a core that runs (R137, R149, R331, R365, R370, R379, R434). -/
def Floe.competes (s : State) (h : Nat) (f : Floe) : Bool :=
  f.state == .ready && f.wait.isNone && mayStart s f && !enqHeld s h && !f.preempt && f.pendingTraps.isEmpty && !(s.core f.core).halted && !Table.getD s.gated false (clusterOf f.core)
    && (match s.ctx? f.ctx with | some c => c.state.issues | none => false)

/-- Whether an instruction may reach global memory or acquires: those of classes 6 to 9 and 11 to 14, and those of class 15 that read
memory or wait for it. -/
def reachesMemory (i : Instr) : Bool :=
  match fParts i with
  | some (op, _) =>
    let c := op.toNat / 64
    (decide (6 ≤ c) && decide (c ≤ 9)) || (decide (11 ≤ c) && decide (c ≤ 14)) || op == 0x3C6 || op == 0x3C7 || op == 0x3C8
  | none => false

/-- Whether a migrated floe's next instruction waits for the flush of the core it came from (R368). -/
def flushHolds (s : State) (f : Floe) (b : Bool) : Bool :=
  f.flushWait.isSome && (match f.slot b with
    | some sl => (match fetchInstr s f sl.pc with | .ok i => reachesMemory i | .error _ => false)
    | none => false)

/-- Whether words of another device that a slot's next instruction is fetched from are on their way (R384). -/
def fetchWaits (s : State) (h : Nat) (f : Floe) (b : Bool) : Bool :=
  s.farPending h && (match f.slot b with | some sl => !(fetchFar s f sl.pc).isEmpty | none => false)

/-- The slot a floe would issue from: the one that did not issue last, else the other (R140). -/
def Floe.issueSlot (s : State) (h : Nat) (f : Floe) (busy : List (Nat × Bool)) : Option Bool :=
  let can (b : Bool) : Bool := f.slotFree b && !busy.contains (h, b) && operandsFree s h f b && !flushHolds s f b && !fetchWaits s h f b
  if can (!f.lastSlot1) then some (!f.lastSlot1) else if can f.lastSlot1 then some f.lastSlot1 else none

/-- The floes of a slice that can issue, with their slots. -/
def sliceReady (s : State) (core slice : Nat) (busy : List (Nat × Bool)) : List (Nat × Floe × Bool) :=
  List.filterMap (fun (p : Nat × Floe) =>
    if p.2.core = core ∧ p.2.slice = slice ∧ p.2.competes s p.1 = true then (p.2.issueSlot s p.1 busy).map (fun b => (p.1, p.2, b)) else none) s.floes

/-- Whether floe `a` is chosen before floe `b` (R140): aged first, then role, then age, then position. -/
def Floe.before (a b : Floe) : Bool :=
  let role (f : Floe) : Nat := if f.aged then 0 else match f.role with | .loader => 1 | .math => 2 | .epilogue => 3
  decide (role a < role b) || (role a == role b && (decide (a.since < b.since) || (a.since == b.since && decide (a.pos < b.pos))))

/-- Whether a floe's last hint still holds: GT lies in the ck it was given in or the next one of its cluster (R142). -/
def Floe.gaveWay (s : State) (f : Floe) : Bool := f.yielded && decide (s.mck f.core / 1000 ≤ f.since / 1000 + 1)

/-- The floe that a slice issues, and its slot; one that yielded in the ck before gives way (R142). -/
def issueChoice (s : State) (core slice : Nat) (busy : List (Nat × Bool)) : Option (Nat × Bool) :=
  let all := sliceReady s core slice busy
  let fresh := all.filter (fun c => !c.2.1.gaveWay s)
  let pool := if fresh.isEmpty then all else fresh
  match pool with
  | [] => none
  | c :: t => let best := t.foldl (fun x y => if y.2.1.before x.2.1 then y else x) c; some (best.1, best.2.2)

/-! ## A turn -/

/-- What a turn comes to. -/
inductive Action where
  | run (i : Instr) (s : State)
  | still (s : State)
  deriving DecidableEq, Repr

/-- Whether an instruction is a step of an agent, not a word that a floe issues. -/
def isEvent (i : Instr) : Bool :=
  match i with
  | .pairWord _ _ => false
  | .reservedOpcode _ => false
  | .orphanExtension _ => false
  | _ => (fParts i).isNone

/-- The slice issues: the slot's next instruction executes, or the fault of its fetch is delivered; words of it on another device are asked for
(R384). -/
def issueTurn (s : State) (core slice : Nat) (busy : List (Nat × Bool)) : Action :=
  if s.life.boot ≠ .ready then .still s
  else
    match issueChoice s core slice busy with
    | none => .still s
    | some (h, b) =>
      match s.floe? h with
      | none => .still s
      | some f =>
        match f.slot b with
        | none => .still s
        | some sl =>
          match fetchFar s f sl.pc, fetchInstr s f sl.pc with
          | x :: t, _ => .still (s.askFar h (x :: t))
          | [], .ok i => .run i { s with cur := (h, b) }
          | [], .error x => .still ((s.countSeal f.core f.ctx (coreSecure s f.core) x sl.pc).deliver h b sl.pc sl.pc { cause := x, lanes := sl.mask, tinfo := sl.pc, vaddr := sl.pc })

/-! ## Redundant lanes that disagree (R153) -/

/-- A core is quarantined: the event is counted, and every group on it is pre-empted to move to another core of its context, which is
MIGRATING until they have (R153, R359, R368). A context that is being saved takes its floes off the core by that. -/
def State.quarantine (s : State) (core : Nat) : State :=
  if (s.core core).quarantined then s
  else
    let s1 := ((s.modCore core (fun c => { c with quarantined := true })).countUp (0x50 + 4 * coreDie core)).preemptCore core
    match s.ownerOf (partOf core) with
    | none => s1
    | some n => s1.modCtx n (fun c =>
        if c.state = .running ∨ c.state = .migrating then { c with state := .migrating, migrate := c.migrate ++ [(core, none)] } else c)

/-- The slice issues, and the redundant lanes of its instruction disagree: it is replayed, with no effect written, and has its effect if they
agree then; if they disagree again the core is quarantined, and the instruction runs again where its floe is restored. A floe whose mode
is OFF has no redundant lanes. -/
def mismatchTurn (s : State) (core slice : Nat) (busy : List (Nat × Bool)) (again : Bool) : Action :=
  match issueTurn s core slice busy with
  | .still t => .still t
  | .run i t => match s.floe? t.cur.1 with
    | some f => if again && f.dmr != .off then .still (s.quarantine f.core) else .run i t
    | none => .run i t

/-! ## An instruction placed to run next -/

/-- A context whose every register is zero (R382). -/
def Ctx.fresh : Ctx :=
  { state := .loading, parts := [], world := false, tag := 0, keyGen := 0, keyKid := 0, oldKids := [], rekeyLeft := [], rekeying := none, root := 0,
    quota := 0, trapBase := 0, fqBase := 0, fqCtl := 0, fqHead := 0, fqTail := 0, fqStuck := false, supk := 0, saveBase := 0, savedSlots := [], nextInst := 1, faultRecs := [],
    evOps := [], cmds := [], migrate := [], pending := none }

/-- A floe that the launch engine has formed (R139, R137). -/
def Floe.formed : Floe :=
  { ctx := 0, inst := 0, num := 0, kernel := 0, core := 0, slice := 0, pos := 0, rbase := 0, regs := 0, wregs := 0, tag := 0, state := .forming,
    savedFrom := .ready, s0 := none, s1 := none, parked := 0, stack := [], spillCap := 0, ld := 0, st := 0, tl := 0,
    acs := List.replicate 16 ⟨0, 0⟩, openGroup := none, openCount := 0, groups := [], wait := none, waitSlot1 := false, waitLen := 0, waitExec := 0, role := .math, dmr := .off, since := 0, aged := false,
    yielded := false, lastSlot1 := true, startGt := none, waitSince := 0, fpflags := 0, faultmask := 0, tcause := 0, tepc := 0, tlanes := 0,
    tinfo := 0, levelPriv := false, levelHandler := false, frame := none, hiHeld := [], latches := [], leaf := 0, leafX := 0, leafY := 0,
    leafZ := 0, barPhase := [], barPending := [], pendingTraps := [], savedRegs := [], savedGt := 0, savedMx := none, restoredGt := none,
    preempt := false, replayMark := none, susp := none, flushWait := none, savedStop := 0, seen := [], ibuf := [], ibufStale := false, far := [] }

/-- The address the placed instruction runs from. -/
def placedPc : Nat := 0x100

/-- The machine with one running context and one floe, whose next word is the instruction given (log 31): context 0 of partition 0,
a floe of 192 vector and 48 uniform registers on core 0, a page of memory mapped one to one. -/
def State.placeWord (s : State) (w : Nat) : State :=
  let page : TlbEntry := { tag := 0, ctx := 0, vbase := 0, size := 65536, pbase := 0, pte := 0x1007 }
  let f := { Floe.formed with
    inst := 1, kernel := 1, regs := 192, wregs := 48, spillCap := 16, state := .ready, s0 := some ⟨BitVec.ofNat 64 placedPc, 0xFFFFFFFF, none, none⟩ }
  let ms := { s.ms with mem := (s.ms.setBytes placedPc (bytesOf 16 w)).mem }
  let s1 := { s with ms := ms, life := { s.life with boot := .ready }, turns := [⟨0, .issue 0 0 []⟩] }
  let s2 := { s1 with ctxs := Table.insert s1.ctxs 0 { Ctx.fresh with state := .running, parts := [0] }, floes := [(0, f)], nextId := 1 }
  s2.modCore 0 (fun c => { c with tlb := [page] })

end Sys2Proof.Machine
end

