-- ==== Sys2Proof/Machine/Tree.lean ====
section
/-! DEFINITION. Sparse trees (R275-R311): the descriptor, the walk, the readers and writers of voxels, ray marching, the allocator's
operations, and the instructions of class 11. -/

namespace Sys2Proof.Machine

/-! ## Voxels (R287, R288, R305) -/

/-- A stored element of a leaf as FP32 bits. -/
def readVoxel (v : TreeView) (t : TreeDesc) (c j vox : Nat) : Except WalkFault Nat :=
  let n := chanBytes t c
  match v.rd (leafAt t j + chanOff t c + vox * n) n with
  | .error e => .error e
  | .ok b => .ok (if n = 4 then b else Fmt.fp32.encode ((chanFmt t c).decode b))

/-- The value TWSTEN takes from a leaf (R287). -/
def stencilVoxel (v : TreeView) (t : TreeDesc) (c j vox : Nat) : Except WalkFault Nat :=
  match v.rd (leafAt t j + 12) 4, v.rd (leafAt t j + 128 + vox / 8) 1 with
  | .ok fl, .ok m =>
    if fl.testBit 1 || (fl.testBit 0 && m.testBit (vox % 8)) then readVoxel v t c j vox else .ok (t.bg.getD c 0)
  | .error e, _ => .error e
  | _, .error e => .error e

/-- The offsets of R288. -/
def stencil : List (Int × Int × Int) :=
  [(0, 0, 0), (-1, 0, 0), (1, 0, 0), (0, -1, 0), (0, 1, 0), (0, 0, -1), (0, 0, 1), (-1, -1, 0), (1, -1, 0), (-1, 1, 0), (1, 1, 0), (-1, 0, -1),
   (1, 0, -1), (-1, 0, 1)] ++
  [(1, 0, 1), (0, -1, -1), (0, 1, -1), (0, -1, 1), (0, 1, 1), (-1, -1, -1), (1, -1, -1), (-1, 1, -1), (1, 1, -1), (-1, -1, 1), (1, -1, 1),
   (-1, 1, 1), (1, 1, 1)]

/-! ## Ray marching (R289) -/

/-- A cube that the march may skip, or the leaf it may hit. -/
structure Box where
  lo : Int × Int × Int
  size : Nat
  leaf : Option Nat
  deriving DecidableEq, Repr

/-- Whether a recorded bound is below the threshold; a NaN bound rules nothing out. -/
def boundBelow (b th : Nat) : Bool := numCmp (Fmt.fp32.decode b) (Fmt.fp32.decode th) == some .lt

def boxAt (size : Nat) (x y z : Int) (leaf : Option Nat) : Box := ⟨(alignTo size x, alignTo size y, alignTo size z), size, leaf⟩

/-- `empty_box` from a node down (R289). -/
def emptyFrom (v : TreeView) (t : TreeDesc) (ch th : Nat) (x y z : Int) : Nat → Nat → Except WalkFault Box
  | 0, j => .ok (boxAt 8 x y z (some j))
  | level + 1, i =>
    match readNode v t i (level + 1) with
    | .error e => .error e
    | .ok (cm, am) =>
      let sh := nodeShift (level + 1)
      let k := childIx sh x y z
      if !cm.testBit k || !am.testBit k then .ok (boxAt (2 ^ sh) x y z none)
      else match v.rd (nodeAt t i + 64 + 4 * k) 4 with
        | .error e => .error e
        | .ok c =>
          let bound : Except WalkFault Nat :=
            if level = 0 then (match checkLeaf v t c with | .error e => .error e | .ok j => v.rd (leafAt t j + 64 + 4 * ch) 4)
            else (match readNode v t c level with | .error e => .error e | .ok _ => v.rd (nodeAt t c + 32 + 4 * ch) 4)
          match bound with
          | .error e => .error e
          | .ok b => if boundBelow b th then .ok (boxAt (2 ^ sh) x y z none) else emptyFrom v t ch th x y z level c

def emptyBox (v : TreeView) (t : TreeDesc) (ch th : Nat) (x y z : Int) : Except WalkFault Box :=
  match probe v t x y z with
  | .error e => .error e
  | .ok (.found n) => emptyFrom v t ch th x y z 3 n
  | .ok _ => .ok (boxAt 512 x y z none)

/-- ACTIVE, not GHOST, bound at or above the threshold. -/
def leafQualifies (v : TreeView) (t : TreeDesc) (ch th j : Nat) : Except WalkFault Bool :=
  match v.rd (leafAt t j + 12) 4, v.rd (leafAt t j + 64 + 4 * ch) 4 with
  | .ok fl, .ok b =>
    let c := numCmp (Fmt.fp32.decode b) (Fmt.fp32.decode th)
    .ok (fl.testBit 0 && !fl.testBit 1 && (c == some .gt || c == some .eq))
  | .error e, _ => .error e
  | _, .error e => .error e

/-- A ray: origin, direction, their bits decoded; the threshold as bits. -/
structure Ray where
  o : List FVal
  e : List FVal
  tmin : FVal
  tmax : FVal
  th : Nat
  ch : Nat
  deriving DecidableEq, Repr

/-- The outcome of a march: none, limit or a leaf, with t and the exit. -/
structure Hit where
  leaf : Option Nat
  limit : Bool
  t : FVal
  x : FVal
  deriving DecidableEq, Repr

def rnd32 (x : FVal) : FVal := (roundTo Fmt.fp32.spec .rn x).1
def fpLt (a b : FVal) : Bool := numCmp a b == some .lt

/-- The least FP32 above a value that is not NaN. -/
def nextUp (x : FVal) : FVal :=
  let b := Fmt.fp32.encode x
  if x.isZero then Fmt.fp32.decode 1 else Fmt.fp32.decode (if x.isNeg then b - 1 else b + 1)

/-- The cell of a point on one axis; none outside the 32-bit range. -/
def rayCell (e p : FVal) : Option Int :=
  match p with
  | .fin n m ex =>
    let q := roundQ .rd n m ex 0
    let c : Int := if n then -(q.1 : Int) else (q.1 : Int)
    let c' := if e.isNeg && !e.isZero && !q.2 then c - 1 else c
    if coordFits c' then some c' else none
  | _ => none

/-- `exit(lo, size)`. -/
def rayExit (r : Ray) (b : Box) : FVal :=
  let lo := [b.lo.1, b.lo.2.1, b.lo.2.2]
  let one (i : Nat) : Option FVal :=
    let e := r.e.getD i .nan
    if e.isZero then none
    else
      let inv := rnd32 (match e with | .fin n m ex => let q := recipMag 30 m ex; .fin n q.1 q.2 | .inf n => .fin n 0 0 | x => x)
      let l := lo.getD i 0
      let d := rnd32 (numAdd .rn (numOfInt (if e.isNeg then l else l + b.size)) (r.o.getD i .nan).neg).1
      some (rnd32 (numMul d inv).1)
  match (List.range 3).filterMap one with
  | [] => .nan
  | x :: t => t.foldl numMin x

/-- The march from t, with `n` steps left (R289). -/
def march (v : TreeView) (d : TreeDesc) (r : Ray) : Nat → FVal → Except WalkFault Hit
  | 0, t => .ok (if fpLt r.tmax t then ⟨none, false, t, r.tmax⟩ else ⟨none, true, t, r.tmax⟩)
  | n + 1, t =>
    if fpLt r.tmax t then .ok ⟨none, false, t, r.tmax⟩
    else
      let p (i : Nat) : FVal := rnd32 (numFma .rn t (r.e.getD i .nan) (r.o.getD i .nan)).1
      match rayCell (r.e.getD 0 .nan) (p 0), rayCell (r.e.getD 1 .nan) (p 1), rayCell (r.e.getD 2 .nan) (p 2) with
      | some x, some y, some z =>
        (match emptyBox v d r.ch r.th x y z with
         | .error e => .error e
         | .ok b =>
           let ex := rayExit r b
           match (match b.leaf with | some j => leafQualifies v d r.ch r.th j | none => .ok false) with
           | .error e => .error e
           | .ok q =>
             if q then .ok ⟨b.leaf, false, t, ex⟩
             else march v d r n (if fpLt t ex then ex else nextUp t))
      | _, _, _ => .ok ⟨none, false, t, r.tmax⟩

/-- TWRAY on eight words and a threshold (R289). -/
def castRay (v : TreeView) (d : TreeDesc) (ch : Nat) (ws : List Nat) (th : Nat) : Except WalkFault Hit :=
  let f (i : Nat) : FVal := Fmt.fp32.decode (ws.getD i 0)
  let r : Ray := { o := [f 0, f 1, f 2], e := [f 3, f 4, f 5], tmin := f 6, tmax := f 7, th := th, ch := ch }
  let isNan (x : FVal) : Bool := x == .nan
  if (List.range 8).any (fun i => isNan (f i)) || isNan (Fmt.fp32.decode th) || fpLt r.tmax r.tmin || r.e.all FVal.isZero then
    .ok ⟨none, false, r.tmin, r.tmax⟩
  else march v d r 4096 r.tmin

/-- A leaf reference (R281). -/
def leafRef (leaf : Option Nat) (limit : Bool) : Nat :=
  match leaf with
  | some j => j
  | none => if limit then 2 ^ 63 + 2 ^ 62 else 2 ^ 63

/-! ## Writing tree memory -/

/-- A write to tree memory: address, length, value. -/
abbrev TreeWrite := Nat × Nat × Nat

/-- Several writes, none kept where one faults. -/
def writeAll (v : TreeView) (ws : List TreeWrite) : Except WalkFault State :=
  ws.foldl (fun (st : Except WalkFault State) w =>
    match st with
    | .error e => .error e
    | .ok s => (match writeVirt s v.core v.ctx v.secure (BitVec.ofNat 64 w.1) (bytesOf w.2.1 w.2.2) with
      | .error e => .error (e.1, e.2, none)
      | .ok t => .ok t)) (.ok v.s)

/-- The first location of several that an allocator operation cannot read (R296). -/
def readAll (v : TreeView) (ws : List TreeWrite) : Except WalkFault Unit :=
  ws.foldl (fun st w => match st with | .error e => .error e | .ok _ => (match v.rd w.1 w.2.1 with | .error e => .error e | .ok _ => .ok ())) (.ok ())

/-- Whether no lease and no lock holds any of several writes (R200, R240). -/
def writesFree (v : TreeView) (ws : List TreeWrite) : Bool := ws.all (fun w => writeFree v.s v.core v.ctx v.secure (BitVec.ofNat 64 w.1) w.2.1)

/-- The FMAX and FMIN of two FP32 patterns (R121). -/
def bitsMax (a b : Nat) : Nat := Fmt.fp32.encode (numMax (Fmt.fp32.decode a) (Fmt.fp32.decode b))
def bitsMin (a b : Nat) : Nat := Fmt.fp32.encode (numMin (Fmt.fp32.decode a) (Fmt.fp32.decode b))

/-- The writes that raise a bound word, and lower one. -/
def raise (v : TreeView) (va val : Nat) : Except WalkFault TreeWrite :=
  match v.rd va 4 with | .error e => .error e | .ok b => .ok (va, 4, bitsMax b val)
def lower (v : TreeView) (va val : Nat) : Except WalkFault TreeWrite :=
  match v.rd va 4 with | .error e => .error e | .ok b => .ok (va, 4, bitsMin b val)

/-- A list of results, or the first fault. -/
def sequence {α : Type} : List (Except WalkFault α) → Except WalkFault (List α)
  | [] => .ok []
  | .error e :: _ => .error e
  | .ok a :: t => (match sequence t with | .error e => .error e | .ok r => .ok (a :: r))

/-- What TWST writes to one leaf (R305): the element, a NaN as the canonical one (R86), and under .bnd the bounds on the path; with the flags. -/
def storeVoxel (v : TreeView) (t : TreeDesc) (c j vox data : Nat) (bnd : Bool) : Except WalkFault (List TreeWrite × Fx) :=
  let n := chanBytes t c
  let r := (chanFmt t c).roundEncode .rn (Fmt.fp32.decode data)
  let stored := Fmt.fp32.encode ((chanFmt t c).decode r.1)
  let elem := (leafAt t j + chanOff t c + vox * n, n, r.1)
  let nan : Bool := match Fmt.fp32.decode stored with | .nan => true | _ => false
  if !bnd || nan then .ok ([elem], r.2)
  else
    match v.rd (leafAt t j) 12 with
    | .error e => .error e
    | .ok og =>
      match lookupPath v t (coordOf (field og 0 32)) (coordOf (field og 32 32)) (coordOf (field og 64 32)) with
      | .error e => .error e
      | .ok p =>
        match sequence ([raise v (leafAt t j + 64 + 4 * c) stored, lower v (leafAt t j + 32 + 4 * c) stored]
            ++ p.nodes.map (fun k => raise v (nodeAt t k + 32 + 4 * c) stored)) with
        | .error e => .error e
        | .ok ws => .ok (elem :: ws, r.2)

/-! ## The allocator (R291-R296) -/

/-- What an allocator operation comes to: its writes, its index and its status. -/
abbrev AllocAnswer := List TreeWrite × Nat × Nat

/-- Channels that are present. -/
def chans (t : TreeDesc) : List Nat := (List.range 8).filter (fun c => t.ch.getD c 0 != 0)

/-- The words of a new leaf (R292 step 5). -/
def newLeaf (t : TreeDesc) (j gen : Nat) (x y z : Int) (act ghost : Bool) : List (Nat × Nat × Nat) :=
  let a := leafAt t j
  [(a, 12, coordBits (alignTo 8 x) + 2 ^ 32 * coordBits (alignTo 8 y) + 2 ^ 64 * coordBits (alignTo 8 z)),
   (a + 12, 4, (if act then 1 else 0) + (if ghost then 2 else 0)), (a + 16, 4, (gen + 1) % 2 ^ 32), (a + 128, 64, 2 ^ 512 - 1)]
  ++ (chans t).flatMap (fun c =>
    let b := t.bg.getD c 0
    let n := chanBytes t c
    let e := if n = 4 then b else ((chanFmt t c).roundEncode .rn (Fmt.fp32.decode b)).1
    [(a + 32 + 4 * c, 4, b), (a + 64 + 4 * c, 4, b)] ++ (List.range 512).map (fun i => (a + chanOff t c + i * n, n, e)))

/-- A new node above a coordinate (R292 step 6), with the one child it gets and its bound at least the background (step 7). -/
def newNode (t : TreeDesc) (i level : Nat) (x y z : Int) (child : Nat) (act : Bool) : List (Nat × Nat × Nat) :=
  let a := nodeAt t i
  let n : Int := 4 * 2 ^ nodeShift level
  let k := childIx (nodeShift level) x y z
  [(a, 8, 2 ^ k), (a + 8, 8, if act then 2 ^ k else 0),
   (a + 16, 12, coordBits (alignTo n x) + 2 ^ 32 * coordBits (alignTo n y) + 2 ^ 64 * coordBits (alignTo n z)), (a + 28, 1, level), (a + 64 + 4 * k, 4, child)]
  ++ (List.range 8).map (fun c => (a + 32 + 4 * c, 4, if t.ch.getD c 0 != 0 then bitsMax 0xFF800000 (t.bg.getD c 0) else 0xFF800000))

/-- The writes on a node that was there, level `level`, when a leaf appears under it. -/
def touchNode (v : TreeView) (t : TreeDesc) (i level : Nat) (x y z : Int) (child : Option Nat) (act : Bool) : Except WalkFault (List (Nat × Nat × Nat)) :=
  match readNode v t i level with
  | .error e => .error e
  | .ok (cm, am) =>
    let k := childIx (nodeShift level) x y z
    match sequence ((chans t).map (fun c => raise v (nodeAt t i + 32 + 4 * c) (t.bg.getD c 0))) with
    | .error e => .error e
    | .ok bs =>
      .ok ((match child with | some j => [(nodeAt t i, 8, cm ||| 2 ^ k), (nodeAt t i + 64 + 4 * k, 4, j)] | none => [])
        ++ (if act then [(nodeAt t i + 8, 8, am ||| 2 ^ k)] else []) ++ bs)

/-- TAINS on one coordinate (R292): new nodes are numbered from N3 down (log 32). -/
def insertLeaf (v : TreeView) (t : TreeDesc) (descAddr : Nat) (x y z : Int) (act ghost : Bool) : Except WalkFault AllocAnswer :=
  match lookupPath v t x y z, probe v t x y z, v.rd t.base 32, v.rd (descAddr + 16) 4 with
  | .error e, _, _, _ => .error e
  | _, .error e, _, _ => .error e
  | _, _, .error e, _ => .error e
  | _, _, _, .error e => .error e
  | .ok p, .ok pr, .ok hd, .ok gen =>
    match p.leaf with
    | some j => .ok ([], j, 0)
    | none =>
      let have_ := p.nodes.length
      let need := 3 - have_
      let nnext := field hd 0 32
      let lfree := field hd 128 32
      let lnext := field hd 64 32
      if pr = .full then .ok ([], noIndex, 3)
      else if field hd 32 32 < nnext + need ∨ (lfree = noIndex ∧ lnext = field hd 96 32) then .ok ([], noIndex, 2)
      else
        let j := if lfree = noIndex then lnext else lfree
        match (if lfree = noIndex then .ok noIndex else v.rd (leafAt t lfree + 20) 4), checkLeaf v t j with
        | .error e, _ => .error e
        | _, .error e => .error e
        | .ok link, .ok _ =>
          -- the nodes of the path by level 3, 2, 1: those met, then the new ones
          let all := p.nodes ++ (List.range need).map (fun i => nnext + i)
          let child (i : Nat) : Nat := if i = 2 then j else all.getD (i + 1) 0
          match sequence ((List.range have_).map (fun i =>
            touchNode v t (all.getD i 0) (3 - i) x y z (if i + 1 = have_ then some (child i) else none) act)) with
          | .error e => .error e
          | .ok olds =>
            let news := (List.range need).flatMap (fun i => newNode t (all.getD (have_ + i) 0) (3 - (have_ + i)) x y z (child (have_ + i)) act)
            let root := match pr with
              | .empty h => [(entryAt t h, 16, coordBits (x / 512) + 2 ^ 32 * coordBits (y / 512) + 2 ^ 64 * coordBits (z / 512) + 2 ^ 96 * all.getD 0 0)]
              | _ => []
            let head := [(t.base, 4, nnext + need), (t.base + 28, 4, (field hd 224 32 + 1) % 2 ^ 32)]
              ++ (if lfree = noIndex then [(t.base + 8, 4, lnext + 1)] else [(t.base + 16, 4, link)])
            .ok (newLeaf t j gen x y z act ghost ++ news ++ olds.flatten ++ root ++ head, j, 1)

/-- The clearing of an active bit in N1 and, where a child's mask has become 0, above it (R293, R294). -/
def clearActive (v : TreeView) (t : TreeDesc) (x y z : Int) : List Nat → Nat → Except WalkFault (List (Nat × Nat × Nat))
  | [], _ => .ok []
  | i :: up, level =>
    match readNode v t i level with
    | .error e => .error e
    | .ok (_, am) =>
      let k := childIx (nodeShift level) x y z
      let am' := if am.testBit k then am - 2 ^ k else am
      if am' ≠ 0 then .ok [(nodeAt t i + 8, 8, am')]
      else match clearActive v t x y z up (level + 1) with
        | .error e => .error e
        | .ok ws => .ok ((nodeAt t i + 8, 8, am') :: ws)

/-- TADEL (R293). -/
def deleteLeaf (v : TreeView) (t : TreeDesc) (x y z : Int) : Except WalkFault AllocAnswer :=
  match lookupPath v t x y z, v.rd t.base 32 with
  | .error e, _ => .error e
  | _, .error e => .error e
  | .ok p, .ok hd =>
    match p.leaf, p.nodes.reverse with
    | some j, n1 :: up =>
      (match readNode v t n1 1, clearActive v t x y z (n1 :: up) 1 with
       | .error e, _ => .error e
       | _, .error e => .error e
       | .ok (cm, _), .ok ws =>
         let k := childIx 3 x y z
         .ok ([(nodeAt t n1, 8, if cm.testBit k then cm - 2 ^ k else cm)] ++ ws
           ++ [(leafAt t j + 20, 4, field hd 160 32), (t.base + 20, 4, j), (t.base + 28, 4, (field hd 224 32 + 2 ^ 32 - 1) % 2 ^ 32)], 0, 1))
    | _, _ => .ok ([], 0, 0)

/-- TAMASK (R294). -/
def maskLeaf (v : TreeView) (t : TreeDesc) (x y z : Int) (clr vox : Bool) : Except WalkFault AllocAnswer :=
  match lookupPath v t x y z with
  | .error e => .error e
  | .ok p =>
    match p.leaf with
    | none => .ok ([], 0, 0)
    | some j =>
      let ws : Except WalkFault (List TreeWrite) :=
        if vox then
          let va := leafAt t j + 128 + voxelOf x y z / 8
          let b := voxelOf x y z % 8
          (match v.rd va 1 with
           | .error e => .error e
           | .ok m => .ok [(va, 1, if clr then (if m.testBit b then m - 2 ^ b else m) else m ||| 2 ^ b)])
        else
          match v.rd (leafAt t j + 12) 4 with
          | .error e => .error e
          | .ok fl =>
            let me := (leafAt t j + 12, 4, if clr then fl / 2 * 2 else fl ||| 1)
            if clr then (match clearActive v t x y z p.nodes.reverse 1 with | .error e => .error e | .ok r => .ok (me :: r))
            else match sequence (p.nodes.mapIdx (fun i n => match readNode v t n (3 - i) with
                | .error e => .error e
                | .ok (_, am) => .ok (nodeAt t n + 8, 8, am ||| 2 ^ childIx (nodeShift (3 - i)) x y z))) with
              | .error e => .error e
              | .ok r => .ok (me :: r)
      match ws with
      | .error e => .error e
      | .ok l => .ok (l, 0, 1)

/-- The last leaf of a list, within `n` links. -/
def listTail (v : TreeView) (t : TreeDesc) : Nat → Nat → Except WalkFault Nat
  | 0, j => .error (badTree (leafAt t j))
  | n + 1, j =>
    match checkLeaf v t j with
    | .error e => .error e
    | .ok _ => (match v.rd (leafAt t j + 20) 4 with
      | .error e => .error e
      | .ok k => if k = noIndex then .ok j else listTail v t n k)

/-- TACOMMIT (R295): the new GEN. -/
def commitTree (v : TreeView) (t : TreeDesc) (descAddr : Nat) : Except WalkFault AllocAnswer :=
  match v.rd t.base 32, v.rd (descAddr + 16) 4 with
  | .error e, _ => .error e
  | _, .error e => .error e
  | .ok hd, .ok gen =>
    let lfree := field hd 128 32
    let p0 := field hd 160 32
    let p1 := field hd 192 32
    let link : Except WalkFault (List TreeWrite) :=
      if p1 = noIndex then .ok []
      else if lfree = noIndex then .ok [(t.base + 16, 4, p1)]
      else (match listTail v t (field hd 96 32 + 1) lfree with | .error e => .error e | .ok j => .ok [(leafAt t j + 20, 4, p1)])
    let g := (gen + 1) % 2 ^ 32
    match link with
    | .error e => .error e
    | .ok l => .ok (l ++ [(t.base + 24, 4, p0), (t.base + 20, 4, noIndex), (descAddr + 16, 4, g)], g, 0)

/-! ## Slots -/

/-- A slot bound to a descriptor's bytes at an address; its cache entries go (R303). -/
def State.bindSlot (s : State) (core ctx slot : Nat) (addr : Dword) (bs : List Byte) : State :=
  match parseTree bs with
  | none => s
  | some d => s.modCore core (fun c =>
      { c with slots := Table.insert c.slots slot ⟨bs, addr, d.gen, false, ctx⟩, leafCache := c.leafCache.filter (fun e => e.slot != slot) })

/-- TWBIND (R303). -/
def twbindBody (w : FWord) (_sh : Shape) (e : Env) (s : State) : Res :=
  let a := rdOp s e.f 0 w.a 2
  let va : Dword := BitVec.ofNat 64 a.1
  if e.exec = 0 ∨ a.2 = false then .done s
  else withBlock s e va 64 64 (fun bs =>
    if (parseTree bs).isNone then .trap { cause := .treeDescriptor, lanes := e.exec } s
    else .done (s.bindSlot e.f.core e.f.ctx w.s.toNat va bs))

/-- TWINV (R309). -/
def twinvBody (w : FWord) (_sh : Shape) (e : Env) (s : State) : Res :=
  if e.exec = 0 then .done s
  else .done (s.modCore e.f.core (fun c =>
    { c with leafCache := if w.m.getLsbD 0 then [] else c.leafCache.filter (fun t => t.slot != w.s.toNat) }))

/-! ## Issue (R301, R302) -/

/-- The tree operations, as an operation holds them in `info`. -/
inductive TreeOp where
  | twlk | twld | twst | twsten | twray | twleaf | tains | tadel | tamask | tacommit
  deriving DecidableEq, Repr

def TreeOp.code : TreeOp → Nat
  | .twlk => 0 | .twld => 1 | .twst => 2 | .twsten => 3 | .twray => 4 | .twleaf => 5 | .tains => 6 | .tadel => 7 | .tamask => 8 | .tacommit => 9

/-- Whether the operation names a channel, which must be present (R301). -/
def TreeOp.hasCh : TreeOp → Bool
  | .twld => true | .twst => true | .twsten => true | .twray => true | _ => false

/-- The sources of one lane packed: coordinates at 0, 32 and 64, or a reference and an offset; eight ray words and the threshold. TWST's
data stands in `swap`. None where one is invalid. -/
def treeLane (s : State) (f : Floe) (w : FWord) (op : TreeOp) (l : Nat) : Option LaneAcc :=
  let byRef : Bool := (op == .twld || op == .twst) && w.m.getLsbD 3
  let a := rdOp s f l w.a (if op = .twray then 8 else if byRef || op == .twleaf then 2 else 1)
  let b := rdOp s f l w.b 1
  let c := rdOp s f l w.c 1
  let d := if op = .twst then rdOp s f l w.d 1 else (0, true)
  let v : Nat × Bool := match op with
    | .twray => (a.1 + 2 ^ 256 * b.1, a.2 && b.2)
    | .twleaf => (a.1, a.2)
    | .tacommit => (0, true)
    | _ => if byRef then (a.1 + 2 ^ 64 * b.1, a.2 && b.2) else (a.1 + 2 ^ 32 * b.1 + 2 ^ 64 * c.1, a.2 && b.2 && c.2)
  if v.2 && d.2 then some (newAcc l 0 v.1 d.1 true) else none

/-- Issue of a walker or allocator instruction: the slot bound and its channel present, then an operation of its lanes; not ready with a full class
counter (R174). -/
def issueTree (op : TreeOp) (w : FWord) (sh : Shape) (e : Env) (s : State) : Res :=
  if e.exec = 0 then .done s
  else match boundTree s e.f.core e.f.ctx w.s.toNat with
    | none => .trap { cause := .treeDescriptor, lanes := e.exec } s
    | some (_, d) =>
      if op.hasCh && d.ch.getD (w.m.toNat % 8) 0 == 0 then .trap { cause := .treeDescriptor, lanes := e.exec } s
      else
        let store : Bool := op == .twst
        let uni : Bool := match op with | .tacommit => true | .twst => false | _ => Code.isUni w.d
        let ls := if uni then (maskLanes e.exec).take 1 else maskLanes e.exec
        let rs := ls.map (fun l => (l, treeLane s e.f w op l))
        let alloc : Bool := match op with | .tains => true | .tadel => true | .tamask => true | .tacommit => true | _ => false
        let o := { newOp s e w (if alloc then .alloc else .walker) with
          lanes := rs.filterMap Prod.snd, nulls := (if store then [] else (rs.filter (fun r => r.2.isNone)).map Prod.fst), d := sh.d.writes, isSt := store,
          uniform := uni, scope := (if op = .tacommit then w.m.toNat % 8 else 7), interlock := !store, after := s.afterOf e.h (op == .tacommit),
          info := [op.code, w.s.toNat] }
        if e.f.classFull o then .stall s else .done (s.addOp o)

/-! ## What the operations do -/

/-- The view of the operation's floe, its own earlier stores performed (R223, R237). -/
def treeView (s : State) (id : Nat) (o : Op) : TreeView := ⟨ownView s id o, o.core, o.ctx, coreSecure s o.core, o.far⟩

/-- The value of one neighbour (R288, R306). -/
def neighbour (s : State) (v : TreeView) (t : TreeDesc) (o : Op) (c : Nat) (x y z : Int) : Except WalkFault (Nat × State) :=
  if !(coordFits x && coordFits y && coordFits z) then .ok (t.bg.getD c 0, s)
  else match cachedLookup s v t o.treeSlot x y z with
    | .error e => .error e
    | .ok (none, s1) => .ok (t.bg.getD c 0, s1)
    | .ok (some j, s1) => (match stencilVoxel v t c j (voxelOf x y z) with | .error e => .error e | .ok b => .ok (b, s1))

/-- TWSTEN's words, neighbour by neighbour. -/
def neighbours (v : TreeView) (t : TreeDesc) (o : Op) (c : Nat) (x y z : Int) : List (Int × Int × Int) → State → Except WalkFault (List Nat × State)
  | [], s => .ok ([], s)
  | d :: ds, s =>
    match neighbour s v t o c (x + d.1) (y + d.2.1) (z + d.2.2) with
    | .error e => .error e
    | .ok (b, s1) => (match neighbours v t o c x y z ds s1 with | .error e => .error e | .ok (bs, s2) => .ok (b :: bs, s2))

/-- One lane of a reader: its result words, none to invalidate (R308), and the machine with caches filled. -/
def readerLane (s : State) (id : Nat) (o : Op) (la : LaneAcc) : Except WalkFault (Option (List Nat) × State) :=
  let v := treeView s id o
  match slotRefresh s v o.treeSlot with
  | .error e => .error e
  | .ok s0 =>
    match boundTree s0 o.core o.ctx o.treeSlot with
    | none => .error (badTree 0)
    | some (_, t) =>
      let c := o.word.m.toNat % 8
      let x := coordOf (field la.data 0 32)
      let y := coordOf (field la.data 32 32)
      let z := coordOf (field la.data 64 32)
      match o.treeCode with
      | 0 =>
        (match cachedLookup s0 v t o.treeSlot x y z with
         | .error e => .error e
         | .ok (j, s1) => let r := leafRef j false; .ok (some [r % 2 ^ 32, r / 2 ^ 32, voxelOf x y z], s1))
      | 1 =>
        if o.word.m.getLsbD 3 then
          (if la.data.testBit 63 then .ok (some [t.bg.getD c 0], s0)
           else match checkLeaf v t (field la.data 0 32) with
             | .error e => .error e
             | .ok j => (match readVoxel v t c j (field la.data 64 9) with | .error e => .error e | .ok b => .ok (some [b], s0)))
        else
          (match cachedLookup s0 v t o.treeSlot x y z with
           | .error e => .error e
           | .ok (none, s1) => .ok (some [t.bg.getD c 0], s1)
           | .ok (some j, s1) => (match readVoxel v t c j (voxelOf x y z) with | .error e => .error e | .ok b => .ok (some [b], s1)))
      | 3 =>
        let n := match o.word.y.toNat with | 0 => 7 | 1 => 19 | _ => 27
        (match neighbours v t o c x y z (stencil.take n) s0 with | .error e => .error e | .ok (bs, s1) => .ok (some bs, s1))
      | 4 =>
        (match castRay v t c ((List.range 8).map (fun i => field la.data (32 * i) 32)) (la.data / 2 ^ 256) with
         | .error e => .error e
         | .ok h =>
           let r := leafRef h.leaf h.limit
           .ok (some [Fmt.fp32.encode h.t, Fmt.fp32.encode h.x, r % 2 ^ 32, r / 2 ^ 32], s0))
      | _ =>
        if la.data.testBit 63 then .ok (none, s0)
        else match checkLeaf v t (field la.data 0 32) with
          | .error e => .error e
          | .ok j => (match v.rd (leafAt t j) 16 with
            | .error e => .error e
            | .ok w => .ok (some [field w 0 32, field w 32 32, field w 64 32, field w 96 32], s0))

/-- What one lane of TWST writes, with its flags and the machine with caches filled; a lane whose leaf is absent writes nothing. -/
def twstWrites (s : State) (id : Nat) (o : Op) (la : LaneAcc) : Except WalkFault (State × List TreeWrite × Fx) :=
  let v := treeView s id o
  match slotRefresh s v o.treeSlot with
  | .error e => .error e
  | .ok s0 =>
    match boundTree s0 o.core o.ctx o.treeSlot with
    | none => .error (badTree 0)
    | some (_, t) =>
      let c := o.word.m.toNat % 8
      let bnd := o.word.y.getLsbD 0
      let put (s1 : State) (j vox : Nat) : Except WalkFault (State × List TreeWrite × Fx) :=
        match storeVoxel ⟨s1, o.core, o.ctx, v.secure, o.far⟩ t c j vox la.swap bnd with | .error e => .error e | .ok r => .ok (s1, r)
      if o.word.m.getLsbD 3 then
        (if la.data.testBit 63 then .ok (s0, [], Fx.none)
         else match checkLeaf v t (field la.data 0 32) with | .error e => .error e | .ok j => put s0 j (field la.data 64 9))
      else
        let x := coordOf (field la.data 0 32)
        let y := coordOf (field la.data 32 32)
        let z := coordOf (field la.data 64 32)
        match cachedLookup s0 v t o.treeSlot x y z with
        | .error e => .error e
        | .ok (none, s1) => .ok (s1, [], Fx.none)
        | .ok (some j, s1) => put s1 j (voxelOf x y z)

/-- The place on another device that a lane's element lies at, where it does: it alone is written there (log 28). -/
def elemFar (s : State) (o : Op) (ws : List TreeWrite) : Option Phys :=
  match ws with
  | [w] => (match translateCore s o.core o.ctx .write (BitVec.ofNat 64 w.1) with | .ok p => if p.pte.remote then some p else none | .error _ => none)
  | _ => none

/-- One lane of TWST performed: the machine after and its flags. A write to another device is done when it is acknowledged (R415). -/
def twstLane (s : State) (id : Nat) (o : Op) (la : LaneAcc) : Except WalkFault (State × Fx) :=
  match twstWrites s id o la with
  | .error e => .error e
  | .ok (s1, ws, fx) =>
    match elemFar s o ws, la.err with
    | some _, some c => .error (c, BitVec.ofNat 64 ((ws.map Prod.fst).headD 0), none)
    | some p, none => if la.reply.isSome then .ok (s1, fx)
        else .error (if o.failed then .linkUnreachable else .pagePermission, BitVec.ofNat 64 ((ws.map Prod.fst).headD 0), if o.failed then none else some p)
    | none, _ => (match writeAll ⟨s1, o.core, o.ctx, coreSecure s o.core, o.far⟩ ws with | .error e => .error e | .ok s2 => .ok (s2, fx))

/-- Whether nothing holds the writes of an operation's lanes (R200, R240). -/
def twstFree (s : State) (id : Nat) (o : Op) : Bool :=
  o.lanes.all (fun la => match twstWrites s id o la with
    | .ok (s1, ws, _) => writesFree ⟨s1, o.core, o.ctx, coreSecure s o.core, o.far⟩ ws
    | .error _ => true)

/-- One lane of an allocator instruction (R291, R310): the engine reads and writes memory itself. -/
def allocLane (s : State) (o : Op) (la : LaneAcc) : Except WalkFault AllocAnswer :=
  match boundTree s o.core o.ctx o.treeSlot with
  | none => .error (badTree 0)
  | some (k, t) =>
    let v : TreeView := ⟨s, o.core, o.ctx, coreSecure s o.core, []⟩
    let x := coordOf (field la.data 0 32)
    let y := coordOf (field la.data 32 32)
    let z := coordOf (field la.data 64 32)
    match o.treeCode with
    | 6 => insertLeaf v t k.addr.toNat x y z (o.word.m.getLsbD 1) (o.word.m.getLsbD 0)
    | 7 => deleteLeaf v t x y z
    | 8 => maskLeaf v t x y z (o.word.m.getLsbD 0) (o.word.m.getLsbD 1)
    | _ => commitTree v t k.addr.toNat

/-- The result words of an allocator operation, from its index and status. -/
def allocWords (o : Op) (r : Nat × Nat) : List Nat :=
  match o.treeCode with | 6 => [r.1, r.2] | 9 => [r.1] | _ => [r.2]

/-- A lane of an allocator instruction performed: every location it will write is read first, and nothing is written where one faults (R296). -/
def allocDone (s : State) (o : Op) (la : LaneAcc) : Except WalkFault (State × Nat × Nat) :=
  let v : TreeView := ⟨s, o.core, o.ctx, coreSecure s o.core, []⟩
  match allocLane s o la with
  | .error e => .error e
  | .ok r => (match readAll v r.1, writeAll v r.1 with
    | .error e, _ => .error e
    | _, .error e => .error e
    | .ok _, .ok t => .ok (t, r.2))

/-- Whether nothing holds the writes of a lane (R200, R240). -/
def allocFree (s : State) (o : Op) (la : LaneAcc) : Bool :=
  match allocLane s o la with | .ok r => writesFree ⟨s, o.core, o.ctx, coreSecure s o.core, []⟩ r.1 | .error _ => true

/-- ALLOCATOR_OPERATION (R291): the next lane of an instruction; its answer waits in `vals` with its lane. -/
def execAllocatorOperation (op : Nat) (s : State) : Host.Outcome State Fault Refusal :=
  match Table.find? s.ops op with
  | none => .next s
  | some o =>
    match o.kind, o.lanes with
    | .alloc, la :: rest =>
      if !o.ready s || !allocFree s o la then .next s
      else match allocDone s o la with
        | .error _ => .next s
        | .ok r => .next (r.1.modOp op (fun q => { q with lanes := rest, vals := q.vals ++ (la.lane :: allocWords o r.2) }))
    | _, _ => .next s

/-- Words written to D of one lane, each with V = 1. -/
def State.wrResults (s : State) (f : Floe) (lane : Nat) (d : List Reg) (ws : List Nat) : State :=
  (d.zip ws).foldl (fun (t : State) p => t.wrReg f p.1 lane ⟨BitVec.ofNat 32 p.2, true⟩) s

/-- The answers of an allocator instruction written lane by lane. -/
def writeAnswers (f : Floe) (d : List Reg) (n : Nat) : Nat → List Nat → State → State
  | 0, _, s => s
  | k + 1, vs, s =>
    match vs with
    | [] => s
    | l :: ws => writeAnswers f d n k (ws.drop n) (s.wrResults f l d (ws.take n))

/-- The readers' lanes in ascending order, up to the first that faults. -/
def readerLanes (id : Nat) (o : Op) (f : Option Floe) : List LaneAcc → State → State × Option (LaneAcc × WalkFault)
  | [], s => (s, none)
  | la :: t, s =>
    match readerLane s id o la with
    | .error x => (s, some (la, x))
    | .ok (ws, s1) =>
      readerLanes id o f t (match f, ws with
        | some g, some l => s1.wrResults g la.lane o.d l
        | some g, none => s1.wrGroup g la.lane false o.d 0
        | none, _ => s1)

/-- TWST's lanes in ascending order, up to the first that faults, with their flags. -/
def twstLanes (id : Nat) (o : Op) : List LaneAcc → State → Fx → State × Fx × Option (LaneAcc × WalkFault)
  | [], s, x => (s, x, none)
  | la :: t, s, x =>
    match twstLane s id o la with
    | .error y => (s, x, some (la, y))
    | .ok (s1, fx) => twstLanes id o t s1 (x.or fx)

/-- A word of another device that a walk needs, asked for once (R384, R414). -/
def State.askWord (s : State) (id : Nat) (x : WalkFault) : State :=
  match x.2.2 with
  | some p => let k := 32 + x.2.1.toNat / 8
              if s.net.reqs.any (fun r => r.op == id && r.lane == k) then s else s.request id k (readMsg p id 8) []
  | none => s

/-- Whether a walk's end is a fault, not a word that has still to come from another device. -/
def WalkFault.real (x : WalkFault) : Bool := x.2.2.isNone

/-- Writes of others, not performed yet, that a walk may have read join those its floe's releases cover (R227). -/
def State.noteWalk (s : State) (o : Op) : State :=
  let new := Table.keys (Table.keep s.ops (fun _ q => q.floe != o.floe && q.ctx == o.ctx && q.writes && q.state == .inFlight
    && (!q.granted.isEmpty || q.lanes.any (fun la => la.done))))
  if new.isEmpty then s else s.modFloe o.floe (fun f => { f with seen := f.seen.filter (fun i => !new.contains i) ++ new })

/-- DATA_RETURN of a walker or allocator instruction; words of a walk that lie on another device are asked for first. -/
def treeReturn (s : State) (id : Nat) (o : Op) : State :=
  let f := s.liveFloe o
  if !o.ready s then s
  else if o.kind = .alloc then
    (if !o.lanes.isEmpty then s
     else match f with
       | some g => State.endOp (nullLanes (writeAnswers g o.d (allocWords o (0, 0)).length 32 o.vals s) o g o.nulls) id o
       | none => s.dropReturn id o)
  else if !ownFirst s id o then s
  else
    let r := readerLanes id o f o.lanes s
    match r.2, f with
    | some x, _ => s.askWord id x.2
    | none, some g => ((nullLanes r.1 o g o.nulls).noteWalk o).endOp id o
    | none, none => r.1.dropReturn id o

/-- STORE_PERFORMED of TWST (R305): the flags join %fpflags when it completes. A lane that ends on another device is sent there, once. -/
def twstStored (s : State) (id : Nat) (o : Op) : State :=
  if !o.ready s || !ownFirst s id o || !twstFree s id o then s
  else
    let r := twstLanes id o o.lanes s Fx.none
    match r.2.2 with
    | some (la, x) =>
      (match x.2.2, twstWrites s id o la with
       | some p, .ok (_, [w], _) =>
         if s.net.reqs.any (fun q => q.op == id && q.lane == la.lane) then s
         else s.request id la.lane (newMsg 0 1 false p.pte.dev 0 o.floe p.pa ((bytesOf 32 w.2.2) ++ bytesOf 8 w.2.1)) o.after
       | _, _ => s.askWord id x)
    | none =>
      let s1 := r.1.endOp id o
      if s.tagLive o then s1.orFlags o.floe r.2.1 else s1

/-- TRANSFER_FAULT of a walker or allocator instruction (R296): lane by lane as R177, source 2. -/
def treeFault (s : State) (id : Nat) (o : Op) : State :=
  let f := s.liveFloe o
  if !o.ready s || !s.takesFault o || !(o.kind == .alloc || ownFirst s id o) || (o.isSt && !twstFree s id o) then s
  else
    let r : State × Fx × Option (LaneAcc × WalkFault) :=
      if o.kind = .alloc then
        (match o.lanes with
         | la :: _ => (match allocDone s o la with
           | .error x => (match f with | some g => writeAnswers g o.d (allocWords o (0, 0)).length 32 o.vals s | none => s, Fx.none, some (la, (x.1, x.2.1, none)))
           | .ok _ => (s, Fx.none, none))
         | [] => (s, Fx.none, none))
      else if o.isSt then twstLanes id o o.lanes s Fx.none
      else (let q := readerLanes id o f o.lanes s; (q.1, Fx.none, q.2))
    match r.2.2 with
    | none => s
    | some (la, x) =>
      if !WalkFault.real x then s
      else
        let m := lanesMask ((maskLanes o.exec).filter (fun l => decide (la.lane ≤ l)))
        let s1 := match f with
          | some g => if o.isSt then r.1.orFlags o.floe r.2.1
              else nullLanes r.1 o g (maskLanes m ++ o.nulls)
          | none => r.1
        s1.faultOp id { o with exec := m } { cause := x.1, source := 2, lanes := m, tinfo := x.2.1, vaddr := x.2.1, lane := la.lane }

/-- A replay of a walker or allocator instruction: the incomplete lanes' sources are read as they stand (R178). -/
def treeReplay (s : State) (id : Nat) (o : Op) (f : Floe) : State :=
  let ops : List TreeOp := [.twlk, .twld, .twst, .twsten, .twray, .twleaf, .tains, .tadel, .tamask, .tacommit]
  let op := ops.getD o.treeCode .twlk
  let ls := if o.uniform then (maskLanes f.faultmask).take 1 else maskLanes f.faultmask
  let rs := ls.map (fun l => (l, treeLane s f o.word op l))
  s.modOp id (fun _ => { o with
    exec := f.faultmask, state := .inFlight, vals := [], far := [], failed := false, lanes := rs.filterMap Prod.snd,
    nulls := if o.isSt then [] else (rs.filter (fun r => r.2.isNone)).map Prod.fst })

def execTwbind (w : FWord) (s : State) : Host.Outcome State Fault Refusal := issueF (.twbind w) twbindBody s
def execTwlk (w : FWord) (s : State) : Host.Outcome State Fault Refusal := issueF (.twlk w) (issueTree .twlk) s
def execTwld (w : FWord) (s : State) : Host.Outcome State Fault Refusal := issueF (.twld w) (issueTree .twld) s
def execTwst (w : FWord) (s : State) : Host.Outcome State Fault Refusal := issueF (.twst w) (issueTree .twst) s
def execTwsten (w : FWord) (s : State) : Host.Outcome State Fault Refusal := issueF (.twsten w) (issueTree .twsten) s
def execTwray (w : FWord) (s : State) : Host.Outcome State Fault Refusal := issueF (.twray w) (issueTree .twray) s
def execTwleaf (w : FWord) (s : State) : Host.Outcome State Fault Refusal := issueF (.twleaf w) (issueTree .twleaf) s
def execTwinv (w : FWord) (s : State) : Host.Outcome State Fault Refusal := issueF (.twinv w) twinvBody s
def execTains (w : FWord) (s : State) : Host.Outcome State Fault Refusal := issueF (.tains w) (issueTree .tains) s
def execTadel (w : FWord) (s : State) : Host.Outcome State Fault Refusal := issueF (.tadel w) (issueTree .tadel) s
def execTamask (w : FWord) (s : State) : Host.Outcome State Fault Refusal := issueF (.tamask w) (issueTree .tamask) s
def execTacommit (w : FWord) (s : State) : Host.Outcome State Fault Refusal := issueF (.tacommit w) (issueTree .tacommit) s

end Sys2Proof.Machine
end

