-- ==== Sys2Proof/Machine/Launch.lean ====
section
/-! DEFINITION. Launches (R312-R319, R325): the descriptor, the instance, LAUNCH, the launch engines, placement in firn and slices, and the
enumeration of a tree's leaves. -/

namespace Sys2Proof.Machine

/-! ## The descriptor (R325) -/

/-- Whether a launch's arguments, floe count and tree stand within the values that its kernel sets; only a queue launches a RECORD kernel. -/
def Kernel.takes (k : Kernel) (queued : Bool) (narg floes tree : Nat) : Bool :=
  decide (narg ≤ k.wregs) && (queued || k.lmode != 2) && (k.lmode == 0 || floes == 0) && (k.lmode == 1 || tree == 0)

/-- Whether a descriptor's fields stand within their values for the kernel it names; an UNLOADED kernel gives no bound of its own. -/
def launchOk (k : Kernel) (v : Nat) : Bool :=
  let narg := field v 16 4
  !v.testBit 15 && field v 20 12 == 0 && field v 192 64 == 0 && decide (narg ≤ 8) && decide (field v 32 32 ≤ 16777216)
    && (List.range 8).all (fun i => decide (i < narg) || field v (256 + 32 * i) 32 == 0)
    && (k.st == .unloaded || k.takes false narg (field v 32 32) (field v 128 64))

/-! ## Room in firn (R317, R106) -/

/-- Runs of steps held on a core: scratch regions, and the register area. -/
def heldSteps (s : State) (core : Nat) : List (Nat × Nat) :=
  let area := areaSteps s core
  (s.core core).scratch.map (fun r => (r.start, r.steps)) ++ (if area = 0 then [] else [((s.core core).regStart, area)])

def runsMeet (a b : Nat × Nat) : Bool := decide (a.1 < b.1 + b.2) && decide (b.1 < a.1 + a.2)

/-- The lowest run of `n` free steps among `total`. -/
def freeRun (held : List (Nat × Nat)) (total n : Nat) : Option Nat :=
  (List.range (total + 1)).find? (fun i => decide (i + n ≤ total) && held.all (fun r => !runsMeet (i, n) r))

/-- The register regions of a core, as (first byte, bytes). -/
def regRegions (s : State) (core : Nat) : List (Nat × Nat) :=
  (Table.vals (Table.keep s.floes (fun _ f => f.core == core && f.resident))).map (fun f => (f.rbase, regBytes f.regs f.wregs))

/-- A place on a core: a scratch region to make, the register area's first step, and RBASE. -/
structure Room where
  region : Option Region
  regStart : Nat
  rbase : Nat
  deriving DecidableEq, Repr

/-- Where a register region of `n` bytes goes beside the held steps: the lowest gap in the area or in the steps it can take directly
above, else, for an empty area, the lowest run of free steps. -/
def regRoom (s : State) (core : Nat) (scratch : List (Nat × Nat)) (n : Nat) : Option (Nat × Nat) :=
  let total := totalSteps s core
  let rs := regRegions s core
  if rs.isEmpty then (freeRun scratch total ((n + 16383) / 16384)).map (fun i => (i, 16384 * i))
  else
    let start := (s.core core).regStart
    let top := (scratch.filter (fun r => decide (start ≤ r.1))).foldl (fun m r => min m r.1) total
    let tries := (16384 * start) :: rs.map (fun r => r.1 + r.2)
    let ok := tries.filter (fun o => decide (o + n ≤ 16384 * top) && rs.all (fun r => !runsMeet (o, n) r))
    match ok with
    | [] => none
    | o :: t => some (start, t.foldl min o)

/-- The steps of a kernel's scratch. -/
def Kernel.scratchSteps (k : Kernel) : Nat := (k.firn + 16383) / 16384

/-- Room for a floe's regions on a core: scratch where its instance has none there, then its registers. -/
def firnRoom (s : State) (core ctx inst firn regs wregs : Nat) : Option Room :=
  let old := (s.core core).scratch
  let n := regBytes regs wregs
  let steps := (firn + 16383) / 16384
  if firn = 0 ∨ old.any (fun r => r.ctx == ctx && r.inst == inst) then
    (regRoom s core (old.map (fun r => (r.start, r.steps))) n).map (fun p => ⟨none, p.1, p.2⟩)
  else
    match freeRun (heldSteps s core) (totalSteps s core) steps with
    | none => none
    | some i =>
      (regRoom s core ((i, steps) :: old.map (fun r => (r.start, r.steps))) n).map (fun p => ⟨some ⟨ctx, inst, i, steps, firn⟩, p.1, p.2⟩)

/-! ## Slices and tags (R19, R115) -/

/-- The floes in a slice of a core. -/
def sliceFloes (s : State) (core slice : Nat) : List Floe := Table.vals (Table.keep s.floes (fun _ f => f.core == core && f.slice == slice && f.resident))

/-- The slice with the fewest floes, the lowest on a tie; none when every slice is full. -/
def pickSlice (s : State) (core : Nat) : Option Nat :=
  let n (k : Nat) : Nat := (sliceFloes s core k).length
  let best := (List.range 4).foldl (fun b k => if n k < n b then k else b) 0
  if n best < 16 then some best else none

/-- The lowest free position of a slice. -/
def pickPos (s : State) (core slice : Nat) : Nat := freshIn ((sliceFloes s core slice).map (fun f => f.pos)) 16 0

/-- A tag that no allocation and no outstanding return of the core holds. -/
def pickTag (s : State) (core : Nat) : Option (BitVec 8) :=
  let held := Table.vals (Table.map (Table.keep s.ops (fun _ o => o.core == core)) (fun _ o => o.tag)) ++
    Table.vals (Table.map (Table.keep s.floes (fun _ f => f.core == core && f.resident)) (fun _ f => f.tag))
  ((List.range 256).map (fun i => (s.core core).tagNext + BitVec.ofNat 8 i)).find? (fun t => !held.contains t)

/-- Where a floe goes on a core. -/
structure Seat where
  room : Room
  slice : Nat
  pos : Nat
  tag : BitVec 8
  deriving DecidableEq, Repr

def seatOn (s : State) (core ctx inst firn regs wregs : Nat) : Option Seat :=
  match firnRoom s core ctx inst firn regs wregs, pickSlice s core, pickTag s core with
  | some r, some k, some t => some ⟨r, k, pickPos s core k, t⟩
  | _, _, _ => none

/-- A seat taken on a core: its scratch region made, the area's start, the next tag; the floe's words empty. -/
def State.takeSeat (s : State) (core : Nat) (seat : Seat) (bytes : Nat) : State :=
  let s1 := s.modCore core (fun c =>
    { c with scratch := c.scratch ++ seat.room.region.toList, regStart := seat.room.regStart, tagNext := seat.tag + 1 })
  let lo := firnKey core (seat.room.rbase / 4)
  { s1 with firn := Table.keep s1.firn (fun k _ => !(decide (lo ≤ k) && decide (k < lo + bytes / 4))) }

/-! ## Cores that packs allow (R345) -/

/-- The cores that a pack flag ties to a core: 1 LOCAL, 2 PAIR, 3 DIE. -/
def sameDomain (flags a b : Nat) : Bool :=
  match flags with
  | 1 => a == b
  | 2 => a / 2 == b / 2
  | 3 => coreDie a == coreDie b
  | _ => true

/-- The floes of a kernel that an empty core holds. -/
def emptyCapacity (s : State) (core : Nat) (k : Kernel) : Nat :=
  min 64 ((totalSteps s core - k.scratchSteps) * 16384 / max 256 (regBytes k.regs k.wregs))

/-- The number of members of a pack in an instance of `floes` floes (R342). -/
def Pack.size (p : Pack) (floes : Nat) : Nat :=
  if p.bitmap then (p.members (min floes p.count)).length else min p.count ((floes - p.first + p.stride - 1) / p.stride)

/-- Whether every pack of an instance could be held when the cores are empty (R345). -/
def packsFit (s : State) (k : Kernel) (floes : Nat) : Bool :=
  k.packs.all (fun p =>
    let n := p.size floes
    p.flags == 0 || n == 0 || (Table.keys k.place).any (fun a =>
      decide (n ≤ (((Table.keys k.place).filter (sameDomain p.flags a)).map (fun c => emptyCapacity s c k)).foldl (· + ·) 0)))

/-- Whether a core meets the flags of a floe's packs whose anchors are placed. -/
def packsAllow (k : Kernel) (i : Inst) (num core : Nat) : Bool :=
  (k.packsOf num).all (fun p => match Table.find? i.anchors p.id with | some a => sameDomain p.flags a core | none => true)

/-! ## Creating an instance (R315, R318) -/

/-- What a launch asks for. -/
structure LaunchReq where
  kernel : Nat
  prio : Nat
  spread : Bool
  floes : Nat
  args : List Word
  dep : Nat × Nat
  doneEv : Nat
  tree : Dword
  die : Nat
  src : Nat
  queue : Option QRef
  first : Nat
  batch : Nat
  js : List JRef
  deriving DecidableEq, Repr

/-- The launch of a descriptor from a source to a die's engine. -/
def launchReq (v die src : Nat) : LaunchReq :=
  { kernel := field v 0 12, prio := field v 12 2, spread := v.testBit 14, floes := field v 32 32,
    args := (List.range (field v 16 4)).map (fun i => BitVec.ofNat 32 (field v (256 + 32 * i) 32)), dep := (field v 64 16, field v 80 32),
    doneEv := field v 112 16, tree := BitVec.ofNat 64 (field v 128 64), die := die, src := src, queue := none, first := 0, batch := 0, js := [] }

/-- The next instance number: 0 and those held are passed over. -/
def nextInstNum (s : State) (ctx : Nat) : Nat → Word → Word
  | 0, n => n
  | fuel + 1, n => if n = 0 ∨ (s.inst? ctx n.toNat).isSome = true then nextInstNum s ctx fuel (n + 1) else n

def State.instsOf (s : State) (ctx : Nat) : Table Inst := Table.keep s.insts (fun k _ => k / 2 ^ 32 == ctx)

/-- The number of floes of a launch: the descriptor's, or the kernel's where it gives 0; a LEAF launch has them from its leaves. -/
def launchFloes (k : Kernel) (r : LaunchReq) : Nat := if k.lmode = 1 then 0 else if r.floes = 0 then k.floes else r.floes

/-- The number of floes that a launch's packs are judged by: every floe they list, where the leaves are not counted yet (log 97). -/
def packFloes (k : Kernel) (r : LaunchReq) : Nat := if k.lmode = 1 then 16777216 else launchFloes k r

/-- A launch judged at its engine, in the state its predecessor left the kernel (R315): the status of R325 and the instance's number. One whose
descriptor the kernel no longer admits is refused with status 1 (log 96). -/
def State.createInst (s : State) (ctx : Nat) (r : LaunchReq) : State × Nat × Nat :=
  let k := s.kernel ctx r.kernel
  let n := launchFloes k r
  if !(k.st == .placed || k.st == .bound || k.st == .active) || !packsFit s k (packFloes k r)
      || !k.takes r.queue.isSome r.args.length r.floes r.tree.toNat then (s, 1, 0)
  else if 65536 ≤ (s.instsOf ctx).length then (s, 2, 0)
  else
    match s.ctx? ctx with
    | none => (s, 1, 0)
    | some c =>
      let num := nextInstNum s ctx ((s.instsOf ctx).length + 2) c.nextInst
      let id := s.takeId
      let ev := s.event ctx r.dep.1
      let waits := r.dep.1 != 0 && decide (ev.count < r.dep.2)
      let i : Inst :=
        { kernel := r.kernel, prio := r.prio, spread := r.spread, floes := n, args := r.args, wait := if waits then some r.dep else none,
          doneEv := r.doneEv, tree := r.tree, treeDesc := [], leaves := [], perLeaf := k.floes, enumerated := k.lmode != 1, die := r.die,
          src := r.src, born := id.1, taken := none, placed := 0, lastCore := none, anchors := [], barPart := none, gone := [],
          queue := r.queue, first := r.first, batch := r.batch, js := r.js, savedScratch := [], killed := false }
      let s1 := { id.2 with insts := Table.insert id.2.insts (instKey ctx num.toNat) i }
      let s2 := s1.setKernel ctx r.kernel (if k.st = .active then k else { k with st := .active, prev := k.st })
      let s3 := s2.modCtx ctx (fun x => { x with nextInst := num + 1, state := if x.state = .resident then .running else x.state })
      (if waits then s3.setEvent ctx r.dep.1 { ev with waiters := ev.waiters ++ [.launch num.toNat r.dep.2] } else s3, 0, num.toNat)

/-! ## LAUNCH (R325) -/

/-- LAUNCH: the descriptor is read and checked at issue; the launch reaches its engine after what its PKG release covers. -/
def launchBody (w : FWord) (sh : Shape) (e : Env) (s : State) : Res :=
  let a := rdOp s e.f 0 w.a 2
  if e.exec = 0 then .done s
  else if !a.2 then .done (writeUni e.f sh.d.writes none s)
  else
    let va : Dword := BitVec.ofInt 64 ((a.1 : Int) + (match w.x with | some x => x.imm.toInt | none => 0))
    withBlock s e va 64 64 (fun bs =>
      let v := natOf bs
      let st := sh.d.writes.isEmpty
      let o : Op := { newOp s e w .launch with
        isSt := st, interlock := !st, rel := true, scope := 5, uniform := true, d := sh.d.writes, vals := [v], after := s.afterOf e.h true }
      if !launchOk (s.kernel e.f.ctx (field v 0 12)) v then .trap { cause := .descriptorInvalid, lanes := e.exec } s
      else if e.f.classFull o then .stall s
      else .done (s.addOp o))

def execLaunch (w : FWord) (s : State) : Host.Outcome State Fault Refusal := issueF (.launch w) launchBody s

/-- A LAUNCH reaches its engine: judged there, its status and instance returned to D. -/
def launchArrive (s : State) (id : Nat) (o : Op) : State :=
  if !s.ended o.after then s
  else
    let r := s.createInst o.ctx (launchReq (o.vals.headD 0) (coreDie o.core) 0)
    if o.isSt then r.1.endOp id o
    else match s.liveFloe o with
      | some f => (r.1.wrGroup f 0 true o.d (r.2.1 + 2 ^ 32 * r.2.2)).endOp id o
      | none => r.1.dropReturn id o

/-! ## The engine takes instances (R317) -/

def Engine.fresh : Engine := ⟨[0, 0, 0, 0]⟩

/-- Whether a context's state lets the engines place floes. -/
def CtxState.places : CtxState → Bool
  | .running => true
  | .migrating => true
  | _ => false

def State.ctxPlaces (s : State) (ctx : Nat) : Bool := match s.ctx? ctx with | some c => c.state.places | none => false

/-- The instances an engine has not taken, of one level. -/
def engineWaiting (s : State) (die : Nat) : Table Inst :=
  Table.keep s.insts (fun k i => i.die == die && i.taken.isNone && i.wait.isNone && s.ctxPlaces (k / 2 ^ 32))

/-- The source of a level to serve: the lowest after the one served last, else the lowest. -/
def nextSource (last : Nat) (srcs : List Nat) : Option Nat :=
  let up := srcs.filter (fun x => decide (last < x + 1))
  match (if up.isEmpty then srcs else up) with
  | [] => none
  | a :: t => some (t.foldl min a)

/-- LAUNCH_ENGINE_TAKE (R317): the highest level with a waiting instance, its next source, that source's oldest. -/
def execLaunchEngineTake (die : Nat) (s : State) : Host.Outcome State Fault Refusal :=
  let all := engineWaiting s die
  let eng := Table.getD s.engines Engine.fresh die
  match (List.range 4).find? (fun p => (Table.search all (fun _ i => i.prio == p)).isSome) with
  | none => .next s
  | some p =>
    let level := Table.keep all (fun _ i => i.prio == p)
    match nextSource (eng.last.getD p 0) ((Table.vals level).map (fun i => i.src)) with
    | none => .next s
    | some src =>
      match Table.keep level (fun _ i => i.src == src) with
      | [] => .next s
      | e :: t =>
        let best := t.foldl (fun a b => if b.2.born < a.2.born then b else a) e
        let id := s.takeId
        .next { id.2 with insts := Table.insert s.insts best.1 { best.2 with taken := some id.1 },
                          engines := Table.setD s.engines Engine.fresh die { eng with last := eng.last.set p (src + 1) } }

/-! ## Placement (R149, R317, R345, R348) -/

/-- The order in which the policy tries cores after the previous floe's. -/
def policyOrder (spread : Bool) (prev : Option Nat) (cores : List Nat) : List Nat :=
  match prev with
  | none => cores
  | some p =>
    if spread then (List.range 4).flatMap (fun i => cores.filter (fun c => coreDie c == (coreDie p + 1 + i) % 4))
    else cores.filter (fun c => decide (p ≤ c)) ++ cores.filter (fun c => decide (c < p))

/-- Whether the colours that an instance binds at a partition are free there (R348). -/
def coloursFree (s : State) (k : Kernel) (bp : Nat) : Bool := k.packs.all (fun p => !p.bound || (s.colour? bp p.colour).isNone)

/-- The colours bound when floe 0 is placed (R348): state IDLE, phase 0, every member live. -/
def State.bindColours (s : State) (ctx inst : Nat) (i : Inst) (k : Kernel) (bp : Nat) : State :=
  (k.packs.filter (fun p => p.bound)).foldl (fun (t : State) p => t.setColour bp p.colour
    { ctx := ctx, inst := inst, pack := p.id, st := .idle, phase := false, any := false, arrived := [], live := p.members i.floes, sent := [],
      held := [], first := none, last := none, counted := 0, byExit := false, order := 0, spread := [] }) s

/-- The leaf registers of floe `num` of a LEAF launch: reference and origin (R297). -/
def Inst.leafOf (i : Inst) (num : Nat) : Option (Nat × Int × Int × Int) := if i.perLeaf = 0 then none else i.leaves[num / i.perLeaf]?

/-- The tree of a LEAF launch bound to t0 before its first floe starts, on every core of the placement set: those that floes can come to (R297,
log 98). -/
def State.bindLeaf (s : State) (ctx : Nat) (i : Inst) (k : Kernel) : State :=
  if i.treeDesc.isEmpty then s else (Table.keys k.place).foldl (fun (t : State) c => t.bindSlot c ctx 0 i.tree i.treeDesc) s

/-- A floe of an instance formed on a core; L1 stays within what is left of firn (R196). -/
def State.formFloe (s : State) (ctx inst : Nat) (i : Inst) (k : Kernel) (core : Nat) (seat : Seat) : State :=
  let num := i.placed
  let text := Table.getD k.place 0 core
  let bytes := regBytes k.regs k.wregs
  let s0 := s.takeSeat core seat bytes
  let lf := i.leafOf num
  let f := { Floe.formed with
    ctx := ctx, inst := inst, num := num, kernel := i.kernel, core := core, slice := seat.slice, pos := seat.pos, rbase := seat.room.rbase,
    regs := k.regs, wregs := k.wregs, tag := seat.tag, s0 := some ⟨text, 0xFFFFFFFF, none, none⟩, spillCap := k.spill / 16, role := k.role,
    leaf := BitVec.ofNat 64 ((lf.map Prod.fst).getD 0), leafX := BitVec.ofInt 32 ((lf.map (fun p => p.2.1)).getD 0),
    leafY := BitVec.ofInt 32 ((lf.map (fun p => p.2.2.1)).getD 0), leafZ := BitVec.ofInt 32 ((lf.map (fun p => p.2.2.2)).getD 0) }
  let s1 := i.args.zipIdx.foldl (fun (t : State) p => t.setFirn core (regWord f ⟨true, p.2⟩ 0) ⟨p.1, true⟩) s0
  let s2 := if num = 0 then s1.bindLeaf ctx i k else s1
  let id := s2.takeId
  let s3 := (id.2.setFloe id.1 f).l1Fit core
  let bp := if num = 0 then some (partOf core) else i.barPart
  let s4 := if num = 0 then s3.bindColours ctx inst i k (partOf core) else s3
  let anchors := (k.packsOf num).foldl (fun t p => if (Table.find? t p.id).isSome then t else Table.insert t p.id core) i.anchors
  s4.modInst ctx inst (fun x => { x with placed := num + 1, lastCore := some core, barPart := bp, anchors := anchors })

/-- The cores that may take the next floe of an instance, in the policy's order. -/
def nextCores (s : State) (ctx : Nat) (i : Inst) (k : Kernel) : List Nat :=
  (policyOrder i.spread i.lastCore (placeCores s ctx k)).filter (packsAllow k i i.placed)

/-- The first core in order with room, and the seat there. -/
def firstSeat (s : State) (ctx inst : Nat) (k : Kernel) (cores : List Nat) : Option (Nat × Seat) :=
  cores.findSome? (fun c => (seatOn s c ctx inst k.firn k.regs k.wregs).map (fun r => (c, r)))

/-- Whether an instance has a floe to place. -/
def Inst.unplaced (i : Inst) : Bool := i.taken.isSome && i.enumerated && !i.killed && decide (i.placed < i.floes)

/-- Whether floe `a` is pre-empted before `b`: the later start first, then the later instance, then the higher number (R317). -/
def preemptBefore (s : State) (a b : Floe) : Bool :=
  let born (f : Floe) : Nat := match s.inst? f.ctx f.inst with | some i => i.born | none => 0
  let st (f : Floe) : Nat := f.startGt.getD 0
  decide (st b < st a) || (st a == st b && (decide (born b < born a) || (born a == born b && decide (b.num < a.num))))

/-- Whether a floe can be pre-empted: started, on a core, not being saved already. -/
def Floe.canPreempt (f : Floe) : Bool := f.startGt.isSome && f.resident && !f.preempt && f.state != .forming

/-- The floe to pre-empt next on some cores, among those allowed; none while one of them is being saved. -/
def preemptVictim (s : State) (cores : List Nat) (ok : Floe → Bool) : Option Nat :=
  if (Table.search s.floes (fun _ f => f.preempt && f.resident && cores.contains f.core)).isSome then none
  else
    match Table.keep s.floes (fun _ f => cores.contains f.core && f.canPreempt && ok f) with
    | [] => none
    | e :: t => some (t.foldl (fun a b => if preemptBefore s b.2 a.2 then b else a) e).1

/-- Whether the deadline rule protects a floe: restored under it less than 100 µs ago (R317). -/
def Floe.protected (f : Floe) (gt : Nat) : Bool := match f.restoredGt with | some t => decide (gt < t + 100000) | none => false

/-- Whether the deadline rule restores a floe: owed, of a RUNNING context, half of RESTORE_LIMIT past since it was saved, the time its cluster
was gated since not counted (R317, R5, R151). -/
def Floe.due (s : State) (f : Floe) : Bool :=
  f.owed s && (match s.ctx? f.ctx with | some c => c.state == .running | none => false)
    && decide (f.savedGt + (s.part (partOf f.core)).restoreLimit * 500 + (s.gatedFor f.core - f.savedStop) ≤ s.gt)

/-- Whether a floe of the context is due: it is restored ahead of every source (R317). -/
def anyDue (s : State) (ctx : Nat) : Bool := (Table.search s.floes (fun _ g => g.ctx == ctx && g.due s)).isSome

/-- Whether the restore of a SAVED floe waits for another's: for one that is due (R317), and as work that an owed floe comes before, of
higher priority or, where this one has not started, of equal priority or the same instance (R150). -/
def restoreHeld (s : State) (f : Floe) : Bool :=
  (!f.due s && anyDue s f.ctx) || (if f.startGt.isSome then decide (0 < floePrio s f) && restoreFirst s f.ctx (floePrio s f - 1)
    else restoreFirst s f.ctx (floePrio s f))

/-- One instance's next floe placed, or room being made for it; none where neither can be done. -/
def placeOne (s : State) (ctx inst : Nat) (i : Inst) : Option State :=
  let k := s.kernel ctx i.kernel
  let cores := nextCores s ctx i k
  if restoreFirst s ctx i.prio || anyDue s ctx then none
  else match firstSeat s ctx inst k cores with
  | some (c, seat) => if i.placed = 0 ∧ coloursFree s k (partOf c) = false then none else some (s.formFloe ctx inst i k c seat)
  | none => (preemptVictim s cores (fun f => decide (i.prio < floePrio s f) && !f.protected s.gt)).map s.markPreempt

/-- The instances with floes to place of an engine, by priority and then by the order in which it took them. -/
def insertByPrio (e : Nat × Inst) : List (Nat × Inst) → List (Nat × Inst)
  | [] => [e]
  | x :: t =>
    if e.2.prio < x.2.prio ∨ (e.2.prio = x.2.prio ∧ e.2.taken.getD 0 < x.2.taken.getD 0) then e :: x :: t else x :: insertByPrio e t

def engineQueue (s : State) (die : Nat) : List (Nat × Inst) :=
  (Table.keep s.insts (fun k i => i.die == die && i.unplaced && s.ctxPlaces (k / 2 ^ 32))).foldl (fun l e => insertByPrio e l) []

/-- FLOE_PLACEMENT (R317): the first instance in order whose next floe has room, or that pre-empts for it. -/
def execFloePlacement (die : Nat) (s : State) : Host.Outcome State Fault Refusal :=
  .next (((engineQueue s die).findSome? (fun e => placeOne s.settleAll (e.1 / 2 ^ 32) (e.1 % 2 ^ 32) e.2)).getD s)

/-- LAUNCH_DONE (R137): the formed floe becomes READY, with the acquire of its launch (R325, R332, R383); it starts once it may (R149, R150). A
floe that is to be pre-empted forms first. -/
def execLaunchDone (floe : Nat) (s : State) : Host.Outcome State Fault Refusal :=
  match s.floe? floe with
  | none => .next s
  | some f =>
    if f.state = .forming then .next ((s.acquire f.core 7).modFloe floe (fun g => { g with state := .ready, since := s.mck f.core }))
    else .next s

/-! ## LEAF launches (R297) -/

/-- The selected leaves under a node, in ascending child index: AMASK set at every level, ACTIVE set and GHOST clear. -/
def enumNode (v : TreeView) (t : TreeDesc) : Nat → Nat → Except WalkFault (List (Nat × Int × Int × Int))
  | 0, j =>
    (match checkLeaf v t j, v.rd (leafAt t j) 16 with
     | .error e, _ => .error e
     | _, .error e => .error e
     | .ok _, .ok h =>
       .ok (if field h 96 2 = 1 then [(j, coordOf (field h 0 32), coordOf (field h 32 32), coordOf (field h 64 32))] else []))
  | level + 1, i =>
    match readNode v t i (level + 1) with
    | .error e => .error e
    | .ok (cm, am) =>
      match sequence (((List.range 64).filter (fun k => cm.testBit k && am.testBit k)).map (fun k =>
        match v.rd (nodeAt t i + 64 + 4 * k) 4 with | .error e => .error e | .ok c => enumNode v t level c)) with
      | .error e => .error e
      | .ok ls => .ok ls.flatten

/-- The selected leaves of a tree, in ascending root-table slot. -/
def enumTree (v : TreeView) (t : TreeDesc) : Except WalkFault (List (Nat × Int × Int × Int)) :=
  match sequence ((List.range (2 ^ t.hbits)).map (fun h =>
    match v.rd (entryAt t h) 16 with
    | .error e => .error e
    | .ok w => if field w 96 32 = noIndex then .ok [] else enumNode v t 3 (field w 96 32))) with
  | .error e => .error e
  | .ok ls => .ok ls.flatten

/-- The lowest core of a context on a die, else of the context: where an engine's reads are translated. -/
def engineCore (s : State) (ctx die : Nat) : Nat :=
  match s.ctx? ctx with
  | none => 256 * die
  | some c =>
    let cs := c.parts.map (fun p => (p / 3) * 256 + (4 * (p % 3)) * 16)
    (cs.find? (fun x => coreDie x == die)).getD (cs.headD (256 * die))

/-- LEAF_ENUMERATION: reads the descriptor and the tree from memory, where its acquire finds every write performed at PKG scope; a fault or an
invalid descriptor leaves the launch as it is (log 33). -/
def execLeafEnumeration (ctx inst : Nat) (s : State) : Host.Outcome State Fault Refusal :=
  match s.inst? ctx inst with
  | none => .next s
  | some i =>
    if i.enumerated ∨ i.wait.isSome ∨ i.killed ∨ !s.ctxPlaces ctx then .next s
    else
      let core := engineCore s ctx i.die
      let v : TreeView := ⟨s, core, ctx, coreSecure s core, []⟩
      match readVirt s core ctx (coreSecure s core) i.tree 64 with
      | .error _ => .next s
      | .ok bs =>
        match parseTree bs with
        | none => .next s
        | some t =>
          match enumTree v t with
          | .error _ => .next s
          | .ok ls => .next (s.modInst ctx inst (fun x =>
              { x with enumerated := true, treeDesc := bs, leaves := ls, floes := ls.length * x.perLeaf }))

end Sys2Proof.Machine
end

