-- ==== Sys2Proof/Machine/Queue.lean ====
section
/-! DEFINITION. Queues (R326-R340): the table entry, acceptance, the journal, launches of batches, ENQ, NODEOUT, RECV, the walker and
blender nodes; and the end of an instance (R318). -/

namespace Sys2Proof.Machine

/-! ## The journal (R337) -/

/-- Bytes 16-31 of an entry with STATUS, REASON and INST zero. -/
def jHigh (kind : Nat) (secure : Bool) (srcPart queue crc srcDev : Nat) : Nat :=
  kind * 2 ^ 2 + (if secure then 2 ^ 5 else 0) + srcPart * 2 ^ 6 + queue % 4096 * 2 ^ 12 + crc * 2 ^ 32 + srcDev * 2 ^ 96

/-- Bytes of an entry on their way from byte `off`, in the owner's address space; JBASE = 0 or no owner writes nothing. -/
def State.jWrite (s : State) (j : JRef) (off : Nat) (bs : List Byte) : State :=
  let base := (s.part j.part).jBase
  if base = 0 then s
  else match s.ownerOf j.part with
    | none => s
    | some ctx => { s with jOut := s.jOut ++ [⟨j.part, ctx, base + BitVec.ofNat 64 (32 * (j.seq % 32768) + off), bs⟩] }

/-- A journal write made at once, where none of its partition is on its way before it and nothing holds it. -/
def State.jNow (s : State) (j : JRef) (off : Nat) (bs : List Byte) : State :=
  let t := s.jWrite j off bs
  if s.jOut.any (fun w => w.part == j.part) then t else t.journalPart j.part

/-- Bytes 16-31 with a status, a reason and an instance. -/
def JRef.words (j : JRef) (status reason inst : Nat) : List Byte := bytesOf 16 (j.high + status + reason * 2 ^ 24 + inst * 2 ^ 64)

/-- A new entry of a partition's journal. -/
def State.jNew (s : State) (part high status reason : Nat) (inst : Nat := 0) : State × JRef :=
  let n := (s.part part).jSeq
  let j : JRef := ⟨part, n.toNat, high⟩
  ((s.modPart part (fun p => { p with jSeq := n + 1 })).jNow j 0 (bytesOf 8 n.toNat ++ bytesOf 8 (s.gt % 2 ^ 64) ++ j.words status reason inst), j)

/-- A status change of an entry that no wrap has overwritten: bytes 16-31, and GT, which follows in a step of its own. -/
def State.jSet (s : State) (j : JRef) (status reason inst : Nat) : State :=
  if 32768 ≤ (s.part j.part).jSeq.toNat - j.seq - 1 then s
  else (s.jNow j 16 (j.words status reason inst)).jWrite j 8 (bytesOf 8 (s.gt % 2 ^ 64))

/-! ## The table entry (R326) -/

def Queue.fresh : Queue :=
  { ctx := 0, enabled := false, epoch := 0, base := 0, cap := 1, big := false, drop := false, remote := false, cons := 0, prio := 0,
    spread := false, kidx := 0, batch := 1, maxInst := 1, timeout := 0, evName := 0, evThr := 0, evMet := false, timedOut := false, ncfg := 0,
    outs := [], tail := 0, launch := 0, head := 0, recs := [], insts := 0, regions := [], buffer := [] }

/-- An entry read at enable for the queue `key` of a context; none for one outside its Values column. -/
def parseQueue (s : State) (ctx key v : Nat) : Option Queue :=
  let cap := 2 ^ field v 64 5
  let cons := field v 72 2
  let batch := field v 96 16
  let kidx := field v 80 12
  let k := s.kernel ctx kidx
  let outs := (List.range 4).map (fun i => field v (320 + 16 * i) 16)
  let bad : Bool := field v 0 12 != 0 || decide (20 < field v 64 5) || decide (cap < batch) || cons == 3 || field v 77 3 != 0 || field v 92 4 != 0
    || batch == 0 || decide (4096 < batch) || field v 112 8 == 0 || field v 120 8 != 0 || field v 176 16 != 0 || field v 224 32 != 0
    || field v 384 128 != 0 || outs.any (fun o => field o 12 3 != 0)
    || (if cons = 0 then k.lmode != 2 || k.st == .unloaded || k.queue != some key || field v 256 64 != 0 else kidx != 0 || batch != 1)
  if bad then none
  else some { Queue.fresh with
    ctx := ctx, enabled := true, base := BitVec.ofNat 64 (field v 0 64), cap := cap, big := v.testBit 69, drop := v.testBit 70,
    remote := v.testBit 71, cons := cons, prio := field v 74 2, spread := v.testBit 76, kidx := kidx, batch := batch, maxInst := field v 112 8,
    timeout := field v 128 32, evName := field v 160 16, evThr := field v 192 32, ncfg := BitVec.ofNat 64 (field v 256 64), outs := outs }

def Queue.rsize (q : Queue) : Nat := if q.big then 256 else 64
def Queue.used (q : Queue) : Nat := (q.tail - q.head).toNat
def Queue.waiting (q : Queue) : Nat := (q.tail - q.launch).toNat
def Queue.full (q : Queue) : Bool := q.used == q.cap
def Queue.slotAddr (q : Queue) (n : Nat) : Dword := q.base + BitVec.ofNat 64 (n % q.cap * q.rsize)

/-- A queue's slots freed from HEAD on, in slot order (R327). -/
def Queue.advance (q : Queue) : Queue :=
  let rest := q.recs.dropWhile (fun r => r.freed)
  { q with recs := rest, head := q.head + BitVec.ofNat 32 (q.recs.length - rest.length) }

/-- The records `first` to `first + n − 1` freed. -/
def Queue.free (q : Queue) (first n : Nat) : Queue :=
  let at0 := (BitVec.ofNat 32 first - q.head).toNat
  Queue.advance { q with recs := q.recs.mapIdx (fun i r => if at0 ≤ i ∧ i < at0 + n then { r with freed := true } else r) }

/-! ## Launch conditions and states (R328, R332) -/

/-- Whether a launch condition holds. -/
def Queue.condition (s : State) (q : Queue) : Bool :=
  decide (0 < q.waiting) && (decide (q.batch ≤ q.waiting) || q.timedOut
    || (q.evName != 0 && (q.evMet || decide (q.evThr ≤ (s.event q.ctx q.evName).count))))

/-- The number of records of the next batch. -/
def Queue.batchSize (q : Queue) : Nat := min q.waiting q.batch

/-- The launch of a queue's next batch, for the engine of its partition's die (R317, R332). -/
def Queue.request (q : Queue) (key : Nat) : LaunchReq :=
  { kernel := q.kidx, prio := q.prio, spread := q.spread, floes := 0, args := [], dep := (0, 0), doneEv := 0, tree := 0, die := key / 4096 / 3,
    src := 1 + key, queue := some ⟨key, q.epoch, q.base, q.cap, q.big, q.outs⟩, first := q.launch.toNat, batch := q.batchSize,
    js := ((q.recs.drop (q.launch - q.head).toNat).take q.batchSize).map (fun r => r.j) }

/-- Whether the consumer can take a batch: fewer than MAXINST instances not done, and an engine that does not refuse it (R315, R345). -/
def Queue.canLaunch (s : State) (key : Nat) (q : Queue) : Bool :=
  decide (q.insts < q.maxInst) && (s.createInst q.ctx (q.request key)).2.1 == 0

/-- The number of a queue's state (R328, R330); LAUNCHING while an instance of it has floes to place. A node has no launch condition. -/
def Queue.state (s : State) (key : Nat) (q : Queue) : Nat :=
  let forming := (Table.search s.insts (fun _ i => (match i.queue with | some r => r.key == key && r.epoch == q.epoch | none => false)
    && decide (i.placed < i.floes))).isSome
  if !q.enabled then 0 else if q.full then 5 else if forming then 3
  else if q.cons == 0 && q.condition s && !q.canLaunch s key then 4 else if 0 < q.waiting then 2 else 1

/-- The status word that a read of the aperture returns (R330). -/
def Queue.statusWord (s : State) (key : Nat) (q : Queue) : Nat := q.state s key + q.used * 2 ^ 8

/-- What a read of a function's queue aperture returns: eight bytes at offset 0 of a page read the queue's status word (R330). -/
def apertureRead (s : State) (fn offset n : Nat) : Option Dword :=
  let key := queueKey (fn - 1) (offset / 4096)
  if fn = 0 ∨ 12 < fn ∨ 4096 ≤ offset / 4096 ∨ offset % 4096 ≠ 0 ∨ n ≠ 8 then none
  else some (BitVec.ofNat 64 (((s.queue? key).getD Queue.fresh).statusWord s key))

/-- The queue joins its event's waiters while records wait (R332). -/
def State.queueWaits (s : State) (key : Nat) : State :=
  match s.queue? key with
  | none => s
  | some q =>
    let ev := s.event q.ctx q.evName
    if q.evName = 0 ∨ q.evMet ∨ q.waiting = 0 ∨ q.evThr ≤ ev.count
      ∨ ev.waiters.any (fun w => match w with | .queue k _ => k == key | _ => false) then s
    else s.setEvent q.ctx q.evName { ev with waiters := ev.waiters ++ [.queue key q.evThr] }

/-! ## Acceptance (R329, R331) -/

/-- What acceptance makes of a record: refused with a code, held by a full queue, or accepted. -/
inductive Verdict where
  | refuse (code : Nat)
  | full
  | accept
  deriving DecidableEq, Repr

def judge (s : State) (r : EnqReq) : Verdict :=
  let part := r.queue / 4096
  if r.bad then .refuse 5
  else match s.ownerOf part with
    | none => .refuse 3
    | some owner =>
      let q := (s.queue? r.queue).getD Queue.fresh
      if (match r.ctx with | some c => c != owner | none => false) || (s.part part).qtBase == 0
        || (r.kind == 3 && (s.queue? r.queue).isSome && !q.remote) || (!r.secure && queueSecure s r.queue) then .refuse 3
      else if !q.enabled then .refuse 2
      else if r.bytes.length ≠ q.rsize then .refuse (if r.kind = 2 then 5 else 4)
      else if q.full then (if q.drop || r.kind == 2 then .refuse 1 else .full)
      else .accept

/-- The answer to the message that brought a record (R414): class RSP, naming the request (log 26). -/
def replyTo (m : Msg) (status value : Nat) : Msg :=
  newMsg 1 m.op false m.srcDev 0 0 0 (bytesOf 8 m.seq ++ bytesOf 4 m.stream ++ bytesOf 4 m.cls ++ bytesOf 8 status ++ bytesOf 16 value)

/-- The outcome of an enqueue reaches its source: the operation's status, the message's answer; a floe held by a full queue goes on. -/
def State.enqAnswer (s : State) (r : EnqReq) (status seq : Nat) : State :=
  let s1 := match r.reply with
    | some m => s.post (replyTo m status seq) []
    | none => s
  match r.op with
  | none => s1
  | some id =>
    match Table.find? s1.ops id with
    | none => s1
    | some o =>
      let s2 := if o.isSt then s1.endOp id o else s1.modOp id (fun p => { p with state := .performed, vals := [status, seq] })
      s2.modFloe o.floe (fun f => if f.state = .waiting ∧ f.wait = some (.enq id) then f.resume (s2.mck f.core) else f)

def enqHigh (r : EnqReq) : Nat := jHigh r.kind r.secure r.srcPart r.queue (crc32c r.bytes).toNat r.srcDev

/-- Whether no lease or lock holds the write of a record's slot (R200, R240). -/
def Queue.slotFree (s : State) (r : EnqReq) (q : Queue) : Bool :=
  writeFree s (partCore (r.queue / 4096)) q.ctx (queueSecure s r.queue) (q.slotAddr q.tail.toNat) r.bytes.length

/-- A record written into the ring and journaled ACCEPTED; none where the write of the slot faults. -/
def State.ringWrite (s : State) (r : EnqReq) (q : Queue) : Option (State × JRef) :=
  let part := r.queue / 4096
  match writeVirt s (partCore part) q.ctx (queueSecure s r.queue) (q.slotAddr q.tail.toNat) r.bytes with
  | .error _ => none
  | .ok s1 =>
    let j := s1.jNew part (enqHigh r) 0 0
    let s2 := j.1.modQueue r.queue (fun x => { x with tail := x.tail + 1, recs := x.recs ++ [⟨s.gt, j.2, false⟩] })
    some (s2.queueWaits r.queue, j.2)

/-- Whether two records come from one source to one queue, and so keep their order (R329): a floe is one source, by whichever instruction. -/
def sameSource (s : State) (a b : EnqReq) : Bool :=
  let src (r : EnqReq) : Option Nat := r.op.bind (fun id => (Table.find? s.ops id).map (fun o => o.floe))
  a.queue == b.queue && a.srcDev == b.srcDev && a.srcPart == b.srcPart && src a == src b && ((src a).isSome || a.kind == b.kind)

/-- Whether the floe of a record is on a core (R331: a pre-empted floe enqueues again on its restore). -/
def enqResident (s : State) (r : EnqReq) : Bool :=
  match r.op.bind (fun id => Table.find? s.ops id) with
  | some o => (match s.floe? o.floe with | some f => f.state != .saved | none => true)
  | none => true

/-- Whether a full queue is still to make a record's floe WAITING: one that waits for something else is held when it would go on (R331). -/
def toHold (s : State) (r : EnqReq) : Bool :=
  match (r.op.bind (fun id => Table.find? s.ops id)).bind (fun o => s.floe? o.floe) with
  | some f => f.state == .ready
  | none => false

/-- The first record at a partition's queues that acceptance can act on: one that is refused or accepted, or whose floe is still to be held. -/
def nextEnq (s : State) (part : Nat) : List EnqReq → List EnqReq → Option EnqReq
  | [], _ => none
  | r :: t, seen =>
    if r.queue / 4096 = part ∧ s.ended r.after = true ∧ enqResident s r = true ∧ !seen.any (sameSource s r)
      ∧ !(r.blocked && judge s r == .full && !toHold s r) then some r
    else nextEnq s part t (seen ++ [r])

/-- ACCEPT (R329): one record judged. -/
def execAccept (part : Nat) (s : State) : Host.Outcome State Fault Refusal :=
  match nextEnq s part s.enqs [] with
  | none => .next s
  | some r =>
    let s1 := { s with enqs := s.enqs.erase r }
    match judge s r with
    | .refuse code => .next (((s1.jNew part (enqHigh r) 3 code).1).enqAnswer r code 0)
    | .full =>
      let s2 := { s with enqs := s.enqs.map (fun x => if x = r then { r with blocked := true } else x) }
      .next (match r.op.bind (fun id => (Table.find? s.ops id).map (fun o => (id, o.floe))) with
        | some (id, h) => (match s2.floe? h with
          | some f => if f.state = .ready then (s2.waitOn h (.enq id)).modFloe h (fun g => { g with waitLen := 0 }) else s2
          | none => s2)
        | none => s2)
    | .accept =>
      match s.queue? r.queue with
      | none => .next s
      | some q =>
        if !q.slotFree s r then .next s
        else match s1.ringWrite r q with
        | none => .next s
        | some (s2, j) => .next (s2.enqAnswer r 0 (j.seq % 2 ^ 32))

/-- HOST_APERTURE_RECORD (R330): a host write to page `offset / 4096` of BAR 2 of a partition's function. -/
def execHostApertureRecord (fn offset : Nat) (bytes : List Byte) (s : State) : Host.Outcome State Fault Refusal :=
  if fn = 0 ∨ 12 < fn ∨ 4096 ≤ offset / 4096 ∨ s.life.boot ≠ .ready then .next s
  else
    let key := queueKey (fn - 1) (offset / 4096)
    let bad := offset % 4096 != 0 || !(bytes.length == 64 || bytes.length == 256)
    .next { s with enqs := s.enqs ++ [⟨key, bytes, 2, false, 15, Config.deviceId.toNat, none, none, [], bad, none, false⟩] }

/-! ## Batches (R332) -/

/-- QUEUE_TIMEOUT: the oldest waiting record has waited TIMEOUT. -/
def execQueueTimeout (part queue : Nat) (s : State) : Host.Outcome State Fault Refusal :=
  let key := queueKey part queue
  match s.queue? key with
  | none => .next s
  | some q =>
    match q.recs[(q.launch - q.head).toNat]? with
    | none => .next s
    | some r =>
      if q.enabled ∧ q.timeout ≠ 0 ∧ r.gt + q.timeout ≤ s.gt then .next (s.modQueue key (fun x => { x with timedOut := true })) else .next s

/-- QUEUE_BATCH_LAUNCH: a batch given to the launch engine of the partition's die, its entries LAUNCHED. -/
def execQueueBatchLaunch (part queue : Nat) (s : State) : Host.Outcome State Fault Refusal :=
  let key := queueKey part queue
  match s.queue? key with
  | none => .next s
  | some q =>
    let places := match s.ctx? q.ctx with | some c => c.state == .resident || c.state.places | none => false
    if !(q.enabled && q.cons == 0 && places && q.condition s && q.canLaunch s key) then .next s
    else
      let c := s.createInst q.ctx (q.request key)
      let s1 := (q.request key).js.foldl (fun (t : State) j => t.jSet j 1 0 c.2.2) c.1
      let s2 := s1.modQueue key (fun x => { x with launch := x.launch + BitVec.ofNat 32 q.batchSize, insts := x.insts + 1, timedOut := false, evMet := false })
      .next (s2.queueWaits key)

/-! ## The end of an instance (R318) -/

/-- Whether an instance is done: every floe placed and RETIRED, its stores performed, those of its tile operations among them (R265), its copies
complete. -/
def instDone (s : State) (ctx inst : Nat) (i : Inst) : Bool :=
  (i.killed || (i.enumerated && i.wait.isNone && i.placed == i.floes))
    && (Table.search s.floes (fun _ f => f.ctx == ctx && f.inst == inst && f.state != .retired)).isNone
    && (Table.search s.ops (fun _ o => o.ctx == ctx && o.inst == inst && o.writes)).isNone
    && (Table.search s.copies (fun _ c => c.ctx == ctx && c.inst == inst)).isNone
    && (Table.search s.mx (fun _ m => m.ops.any (fun o => o.ctx == ctx && o.inst == inst))).isNone

/-- A kernel after an instance of it is done (R315). -/
def State.kernelRests (s : State) (ctx k : Nat) : State :=
  if ((s.instsOf ctx).filter (fun p => p.2.kernel == k)).isEmpty then
    let x := s.kernel ctx k
    match x.st with
    | .active => s.setKernel ctx k { x with st := x.prev }
    | .draining => s.setKernel ctx k Kernel.empty
    | _ => s
  else s

/-- What an instance held, given up: colours, scratch, floes, the number itself. -/
def State.dropInst (s : State) (ctx inst : Nat) : State :=
  let s1 := { s with
    colours := Table.keep s.colours (fun _ c => !(c.ctx == ctx && c.inst == inst))
    floes := Table.keep s.floes (fun _ f => !(f.ctx == ctx && f.inst == inst))
    insts := Table.erase s.insts (instKey ctx inst) }
  (Table.keys s.cores).foldl (fun (t : State) c => t.modCore c (fun k =>
    { k with scratch := k.scratch.filter (fun r => !(r.ctx == ctx && r.inst == inst)) })) s1

/-- INSTANCE_DONE (R318): DONEEV signalled, the queue's slots freed and their entries COMPLETED, or FAILED where it was killed; all_done. -/
def execInstanceDone (ctx inst : Nat) (s : State) : Host.Outcome State Fault Refusal :=
  match s.inst? ctx inst with
  | none => .next s
  | some i =>
    if !instDone s ctx inst i then .next s
    else
      let s1 := s.signal ctx i.doneEv 1 []
      let s2 := match i.queue with
        | none => s1
        | some r =>
          let t := i.js.foldl (fun (t : State) j => t.jSet j (if i.killed then 3 else 2) (if i.killed then 7 else 0) inst) s1
          t.modQueue r.key (fun q => { (if q.epoch = r.epoch then q.free i.first i.batch else q) with insts := q.insts - 1 })
      let s3 := (s2.dropInst ctx inst).kernelRests ctx i.kernel
      .next (if (s3.instsOf ctx).isEmpty then
        s3.modCtx ctx (fun c => { c with state := if c.state = .running then .resident else c.state }) else s3)

/-! ## ENQ, NODEOUT, RECV (R338-R340) -/

/-- The record's bytes, and whether every word is valid. -/
def enqRecord (s : State) (e : Env) (w : FWord) : List Byte × Bool :=
  let words := if w.m.getLsbD 0 then
      (List.range 32).map (fun l => s.rdReg e.f ⟨false, w.a.toNat⟩ l) ++ (List.range 32).map (fun l => s.rdReg e.f ⟨false, w.a.toNat + 1⟩ l)
    else (List.range 16).map (fun l => s.rdReg e.f ⟨false, w.a.toNat⟩ l)
  (words.flatMap (fun x => bytesOf 4 x.data.toNat), words.all (fun x => x.v))

/-- The status and sequence number in D. -/
def enqStatus (e : Env) (sh : Shape) (status : Nat) (s : State) : State := s.wrGroup e.f 0 true sh.d.writes status

/-- The operation of an ENQ or NODEOUT that comes after others. -/
def enqOp (s : State) (w : FWord) (sh : Shape) (e : Env) (after : List Nat) : Op :=
  let st := sh.d.writes.isEmpty
  { newOp s e w .enq with isSt := st, interlock := !st, uniform := true, rel := yRel w, d := sh.d.writes, after := after }

/-- A record sent to a queue of this device, as an operation of the floe. -/
def enqLocal (w : FWord) (sh : Shape) (e : Env) (kind key : Nat) (ctx : Option Nat) (bs : List Byte) (s : State) : Res :=
  let after := s.afterOf e.h (yRel w && decide (2 ≤ w.s.toNat))
  let o := enqOp s w sh e after
  if e.f.classFull o then .stall s
  else
    let s1 := s.addOp o
    .done { s1 with enqs := s1.enqs ++
      [⟨key, bs, kind, coreSecure s e.f.core, partOf e.f.core, Config.deviceId.toNat, some s.nextId, ctx, after, false, none, false⟩] }

/-- The writes of a floe to another device that have not been performed there (R339). -/
def writesTo (s : State) (h dev : Nat) : List Nat :=
  Table.keys (Table.keep s.ops (fun id o => o.floe == h && o.writes
    && (s.net.reqs.any (fun r => r.op == id && r.msg.dstDev == dev)
      || o.lanes.any (fun la => !la.done && !inFirn la.va && (match translateCore s o.core o.ctx .write la.va with | .ok p => p.pte.remote && p.pte.dev == dev | .error _ => false)))))

/-- A record sent to a queue of another device (R339, R412): class ENQ, in the stream of floe and queue; one that releases comes after the floe's
writes to that device, whatever its scope. -/
def enqRemote (w : FWord) (sh : Shape) (e : Env) (dev key : Nat) (bs : List Byte) (s : State) : Res :=
  if !reachable s dev then .trap { cause := .linkUnreachable, lanes := e.exec } s
  else
    let after := s.afterOf e.h (yRel w && decide (2 ≤ w.s.toNat)) ++ (if yRel w then writesTo s e.h dev else [])
    let id := s.nextId
    let o := enqOp s w sh e after
    if e.f.classFull o then .stall s
    else .done ((s.addOp o).request id 0 (newMsg 2 0 (yRel w) dev (key / 4096) (e.h * 65536 + key) key (BitVec.ofNat 8 (partOf e.f.core) :: bs)) after)

/-- ENQ (R339). -/
def enqBody (w : FWord) (sh : Shape) (e : Env) (s : State) : Res :=
  let r := enqRecord s e w
  let a := rdOp s e.f 0 w.b 2
  if e.exec = 0 then .done s
  else if !(r.2 && a.2) then .done (writeUni e.f sh.d.writes none s)
  else
    let q := field a.1 0 12
    let part := field a.1 12 4
    let dev := field a.1 16 19
    let remote := a.1.testBit 35
    let key := queueKey part q
    let mine : Bool := match s.ctx? e.f.ctx with | some c => c.parts.contains part | none => false
    if field a.1 36 28 ≠ 0 ∨ 12 ≤ part ∨ (!remote ∧ !mine) then
      let j := s.jNew (partOf e.f.core) (jHigh 0 (coreSecure s e.f.core) (partOf e.f.core) q (crc32c r.1).toNat Config.deviceId.toNat) 3 3
      .done (enqStatus e sh 3 j.1)
    else if remote ∧ dev ≠ Config.deviceId.toNat then enqRemote w sh e dev key r.1 s
    else enqLocal w sh e (if remote then 3 else 0) key (if remote then none else some e.f.ctx) r.1 s

/-- NODEOUT (R333, R339): the queue of an output port of the node that launched the instance; without such a port the record is refused with 3,
and its entry names the queue that the port's field gives, 0 for an instance of no node (log 99). -/
def nodeoutBody (w : FWord) (sh : Shape) (e : Env) (s : State) : Res :=
  let r := enqRecord s e w
  let node := (s.inst? e.f.ctx e.f.inst).bind (fun i => i.queue)
  let o := match node with | some q => q.outs.getD w.c.toNat 0 | none => 0
  let part := partOf e.f.core
  if e.exec = 0 then .done s
  else if !r.2 then .done (writeUni e.f sh.d.writes none s)
  else match node, o.testBit 15 with
    | some q, true => enqLocal w sh e 1 (q.key / 4096 * 4096 + o % 4096) (some e.f.ctx) r.1 s
    | _, _ => .done (enqStatus e sh 3 (s.jNew part (jHigh 1 (coreSecure s e.f.core) part (o % 4096) (crc32c r.1).toNat Config.deviceId.toNat) 3 3).1)

/-- RECV (R340). -/
def recvBody (w : FWord) (sh : Shape) (e : Env) (s : State) : Res :=
  if e.exec = 0 then .done s
  else if w.m.getLsbD 0 then
    let n := match s.inst? e.f.ctx e.f.inst with | some i => (if i.queue.isSome then i.batch else 0) | none => 0
    .done (writeUni e.f sh.d.writes (some n) s)
  else issueLanes { newOp s e w .recv with d := sh.d.writes, scope := 0 } e s

def execEnq (w : FWord) (s : State) : Host.Outcome State Fault Refusal := issueF (.enq w) enqBody s
def execNodeout (w : FWord) (s : State) : Host.Outcome State Fault Refusal := issueF (.nodeout w) nodeoutBody s
def execRecv (w : FWord) (s : State) : Host.Outcome State Fault Refusal := issueF (.recv w) recvBody s

/-- DATA_RETURN of an ENQ or NODEOUT: status and sequence number. -/
def enqReturn (s : State) (id : Nat) (o : Op) : State :=
  if o.state ≠ .performed then s
  else match s.liveFloe o with
    | some f => (s.wrGroup f 0 true o.d (o.vals.getD 0 0 + 2 ^ 32 * o.vals.getD 1 0)).endOp id o
    | none => s.dropReturn id o

/-! ## Nodes (R333-R336) -/

/-- The bytes of the record a node takes next. -/
def nodeRecord (s : State) (part key : Nat) (q : Queue) : Option (List Byte) :=
  if q.waiting = 0 then none
  else match readVirt s (partCore part) q.ctx (queueSecure s key) (q.slotAddr q.launch.toNat) q.rsize with
    | .ok bs => some bs
    | .error _ => none

/-- A node's record taken: LAUNCH advances and the slot is freed. -/
def State.nodeTaken (s : State) (key : Nat) : State :=
  s.modQueue key (fun q => { q.free q.launch.toNat 1 with launch := q.launch + 1 })

/-- The hit record of a ray record (R300). -/
def hitRecord (v : TreeView) (t : TreeDesc) (bs : List Byte) : Except WalkFault (List Byte) :=
  let n (i k : Nat) : Nat := natOf ((bs.drop i).take k)
  let ch := n 36 1
  if 8 ≤ ch ∨ n 37 3 ≠ 0 ∨ t.ch.getD ch 0 = 0 then .ok (bytesOf 4 0 ++ [3] ++ bytesOf 59 0)
  else match castRay v t ch ((List.range 8).map (fun i => n (4 * i) 4)) (n 32 4) with
    | .error e => .error e
    | .ok h =>
      let lim := h.limit
      let st : Nat := if lim then 2 else if h.leaf.isSome then 0 else 1
      .ok (bytesOf 4 (n 40 4) ++ [BitVec.ofNat 8 st] ++ bytesOf 3 0 ++ bytesOf 4 (Fmt.fp32.encode h.t) ++ bytesOf 4 (Fmt.fp32.encode h.x) ++ bytesOf 8 (leafRef h.leaf lim)
        ++ bytesOf 20 (n 44 20) ++ bytesOf 20 0)

/-- WALKER_NODE_RECORD (R334): one ray cast, its hit record sent through OUT0 under R329, and the slot freed. While OUT0 is full, or a read
faults, nothing happens; a record refused otherwise is journaled FAILED and goes with its slot (log 34). -/
def execWalkerNodeRecord (part queue : Nat) (s : State) : Host.Outcome State Fault Refusal :=
  let key := queueKey part queue
  match s.queue? key with
  | none => .next s
  | some q =>
    match nodeRecord s part key q with
    | none => .next s
    | some bs =>
      let core := partCore part
      let v : TreeView := ⟨s, core, q.ctx, queueSecure s key, []⟩
      let places := match s.ctx? q.ctx with | some c => c.state == .resident || c.state.places | none => false
      match readVirt s core q.ctx (queueSecure s key) q.ncfg 64 with
      | .error _ => .next s
      | .ok db =>
        match parseTree db with
        | none => .next s
        | some t =>
          match hitRecord v t bs with
          | .error _ => .next s
          | .ok hit =>
            let o := q.outs.getD 0 0
            let r : EnqReq := ⟨queueKey part (o % 4096), hit, 1, queueSecure s key, part, Config.deviceId.toNat, none, some q.ctx, [], false, none, false⟩
            let refuse (code : Nat) : State := (s.jNew part (enqHigh r) 3 code).1.nodeTaken key
            if !(q.enabled && q.cons == 1 && places) then .next s
            else if !o.testBit 15 then .next (refuse 3)
            else match judge s r, s.queue? r.queue with
              | .full, _ => .next s
              | .refuse code, _ => .next (if code = 1 then s else refuse code)
              | .accept, none => .next s
              | .accept, some out =>
                if !out.slotFree s r then .next s
                else match s.ringWrite r out with
                  | none => .next s
                  | some (s1, _) => .next (s1.nodeTaken key)

/-- The blender's target (R335); none for a descriptor outside its Values column. -/
structure Target where
  image : Dword
  width : Nat
  height : Nat
  pitch : Nat
  endKey : Nat
  doneEv : Nat
  nanpol : Nat
  deriving DecidableEq, Repr

def parseTarget (v : Nat) : Option Target :=
  let w := field v 64 16
  let h := field v 80 16
  let p := field v 96 32
  let side (x : Nat) : Bool := x % 64 == 0 && decide (64 ≤ x) && decide (x ≤ 16384)
  if field v 0 8 = 0 ∧ side w = true ∧ side h = true ∧ p % 256 = 0 ∧ 16 * w ≤ p ∧ field v 128 32 ≠ 0 ∧ field v 176 2 ≠ 3 ∧ field v 178 334 = 0 then
    some ⟨BitVec.ofNat 64 (field v 0 64), w, h, p, field v 128 32, field v 160 16, field v 176 2⟩
  else none

/-- The region of a pixel. -/
def Target.region (t : Target) (x y : Nat) : Nat := y / 64 * (t.width / 64) + x / 64

/-- A region's NEXTKEY and FRAMEPOS. -/
def Queue.regionAt (q : Queue) (r : Nat) : Nat × Nat := Table.getD q.regions (0, 0) r

/-- One blended component: `round(d + t·s)`, a NaN sample component 0 under ZERO. -/
def blendOne (nanpol : Nat) (t d x : Nat) : Nat :=
  let sv := Fmt.fp32.decode x
  let sv' := if nanpol = 1 ∧ sv = .nan then .fin false 0 0 else sv
  (Fmt.fp32.roundEncode .rn (numFma .rn (Fmt.fp32.decode t) sv' (Fmt.fp32.decode d)).1).1

/-- The pixel after a sample (R335). -/
def blendPixel (nanpol : Nat) (px : List Nat) (smp : Sample) : List Nat :=
  let t := (Fmt.fp32.roundEncode .rn (numAdd .rn (Fmt.fp32.decode 0x3F800000) (Fmt.fp32.decode (px.getD 3 0)).neg).1).1
  (List.range 4).map (fun i => blendOne nanpol t (px.getD i 0) (smp.c.getD i 0).toNat)

/-- Blends a region's keys in order while its buffer holds the next; a NaN under TRAP posts a record and disables the queue (R336). A
fault at a pixel, and a lease or lock that holds its write, leave the rest buffered (log 34). -/
def blendRegion (part key : Nat) (t : Target) (r : Nat) : Nat → State → State
  | 0, s => s
  | n + 1, s =>
    match s.queue? key with
    | none => s
    | some q =>
      let nk := q.regionAt r
      match q.buffer.find? (fun x => x.region == r && x.key == nk.1) with
      | none => s
      | some smp =>
        if t.nanpol = 2 ∧ smp.c.any (fun c => Fmt.fp32.decode c.toNat == .nan) = true then
          let rec0 := faultRecord 0x20 4 false part 0 0 0 0 0 0 0 0 0 smp.key (smp.x + smp.y * 2 ^ 16) (s.gt % 2 ^ 64)
          (s.postRecord q.ctx rec0).modQueue key (fun x => { x with enabled := false })
        else
          let va := t.image + BitVec.ofNat 64 (smp.y * t.pitch + 16 * smp.x)
          match readVirt s (partCore part) q.ctx (queueSecure s key) va 16 with
          | .error _ => s
          | .ok bs =>
            let px := (List.range 4).map (fun i => natOf ((bs.drop (4 * i)).take 4))
            if !writeFree s (partCore part) q.ctx (queueSecure s key) va 16 then s
            else match writeVirt s (partCore part) q.ctx (queueSecure s key) va ((blendPixel t.nanpol px smp).flatMap (bytesOf 4)) with
            | .error _ => s
            | .ok s1 =>
              let done := nk.2 + 1 == t.endKey
              let s2 := s1.modQueue key (fun x => { x with
                regions := Table.setD x.regions (0, 0) r ((nk.1 + 1) % 2 ^ 32, if done then 0 else nk.2 + 1)
                buffer := x.buffer.erase smp })
              blendRegion part key t r n (if done then s2.signal q.ctx t.doneEv 1 [] else s2)

/-- A sample record (R335). -/
def sampleOf (t : Target) (bs : List Byte) : Sample :=
  let n (i k : Nat) : Nat := natOf ((bs.drop i).take k)
  { region := t.region (n 4 2) (n 6 2), key := n 0 4, x := n 4 2, y := n 6 2, c := (List.range 4).map (fun i => BitVec.ofNat 32 (n (8 + 4 * i) 4)) }

/-- BLENDER_RECORD (R335): a region that holds its next key blended on, else one sample taken, dropped or held, and its region blended as far
as its keys go. -/
def execBlenderRecord (part queue : Nat) (s : State) : Host.Outcome State Fault Refusal :=
  let key := queueKey part queue
  match s.queue? key with
  | none => .next s
  | some q =>
    let places := match s.ctx? q.ctx with | some c => c.state == .resident || c.state.places | none => false
    if !(q.enabled && q.cons == 2 && places) then .next s
    else match readVirt s (partCore part) q.ctx (queueSecure s key) q.ncfg 64 with
      | .ok db =>
        (match parseTarget (natOf db), q.buffer.find? (fun x => x.key == (q.regionAt x.region).1), nodeRecord s part key q with
         | none, _, _ => .next s
         | some t, some x, _ => .next (blendRegion part key t x.region 4096 s)
         | some _, none, none => .next s
         | some t, none, some bs =>
           let smp := sampleOf t bs
           let delta := (smp.key + 2 ^ 32 - (q.regionAt smp.region).1) % 2 ^ 32
           if t.width ≤ smp.x ∨ t.height ≤ smp.y ∨ 2 ^ 31 ≤ delta then
             let j := q.recs[(q.launch - q.head).toNat]?.map (fun r => r.j)
             let s1 := match j with | some j => s.jSet j 3 6 0 | none => s
             .next (s1.nodeTaken key)
           else if 4096 ≤ delta then .next s
           else
             let s1 := (s.nodeTaken key).modQueue key (fun x =>
               { x with buffer := x.buffer.filter (fun y => !(y.region == smp.region && y.key == smp.key)) ++ [smp] })
             .next (blendRegion part key t smp.region 4096 s1))
      | .error _ => .next s

end Sys2Proof.Machine
end

