-- ==== Sys2Proof/Machine/Sys.lean ====
section
/-! DEFINITION. System registers (R361, R362): RDSR and WRSR; HALT; CTXCMD and the acceptance of a command (R380). -/

namespace Sys2Proof.Machine

/-! ## Reading (R361) -/

/-- MSTAT (R244). -/
def mstat (s : State) (h : Nat) (f : Floe) : Nat :=
  match s.heldMx h f.core with
  | none => 0
  | some m => let x := s.matrix f.core m; (if x.rcf then 1 else 0) + 2 + 4 * m + (if x.pair then 8 else 0)

/-- SAVESZ: what a save of the whole context would write now, the state of floes that are SAVED included (R366). -/
def saveSize (s : State) (ctx : Nat) : Word :=
  let fs := Table.vals (Table.keep s.floes (fun _ f => f.ctx == ctx && f.state != .retired))
  let cores := Table.vals s.cores
  let scratch := (cores.flatMap (fun c => c.scratch.filter (fun r => r.ctx == ctx))).map (fun r => r.bytes)
    ++ (Table.vals (s.instsOf ctx)).flatMap (fun i => (Table.keys i.savedScratch).map (fun _ => (s.kernel ctx i.kernel).firn))
  let saved := match s.ctx? ctx with | some c => (Table.vals c.savedSlots).map List.length | none => []
  Config.saveBytes (fs.map (fun f => (f.regs, f.wregs, f.stack.length))) (scratch.foldl (· + ·) 0)
    ((Table.keep s.mx (fun _ m => match m.holder.bind (fun h => s.floe? h) with | some f => f.ctx == ctx | none => false)).length
      + ((fs.filterMap (fun f => f.savedMx)).map (fun m => if m.pair then 2 else 1)).foldl (· + ·) 0)
    ((cores.flatMap (fun c => Table.keep c.slots (fun _ t => t.ctx == ctx))).length + saved.foldl (· + ·) 0)
    (Table.keep s.colours (fun _ c => c.ctx == ctx)).length (Table.keep s.events (fun k _ => k / 65536 == ctx)).length
    (Table.keep s.copies (fun _ c => c.ctx == ctx && c.waiting)).length

def lo32 (v : Dword) : Nat := v.toNat % 2 ^ 32
def hi32 (v : Dword) : Nat := v.toNat / 2 ^ 32

/-- The lines a context has pinned (R213). -/
def State.pinCount (s : State) (ctx : Nat) : Nat := (s.ms.pins.filter (fun p => p.1 == ctx)).length

/-- PSCHED (R143). -/
def psched (p : Part) : Nat := p.ageLimit + p.restoreLimit * 2 ^ 16

/-- CTXID (R361). -/
def ctxId (n : Nat) (c : Ctx) (part : Nat) : Nat :=
  n + (if c.world then 16 else 0) + c.tag.toNat * 2 ^ 8 + part * 2 ^ 16 + c.keyGen % 4096 * 2 ^ 20

/-- The value of a system register as a floe reads it. -/
def readSr (s : State) (h : Nat) (f : Floe) (n : Nat) : Nat :=
  let part := partOf f.core
  let p := s.part part
  let k := s.core f.core
  let c (g : Ctx → Nat) : Nat := match s.ctx? f.ctx with | some x => g x | none => 0
  match n with
  | 0x00 => f.fpflags.toNat
  | 0x01 => f.faultmask.toNat
  | 0x02 => mstat s h f
  | 0x03 => f.tcause.toNat
  | 0x04 => lo32 f.tepc
  | 0x05 => hi32 f.tepc
  | 0x06 => f.tlanes.toNat
  | 0x07 => lo32 f.tinfo
  | 0x08 => hi32 f.tinfo
  | 0x09 => (if s.isPriv f then 1 else 0) + (if f.levelHandler then 2 else 0)
  | 0x10 => psched p
  | 0x11 => (p.dlgt.getD 0 0).toNat
  | 0x12 => (p.dlgt.getD 1 0).toNat
  | 0x13 => (p.dlgt.getD 2 0).toNat
  | 0x14 => lo32 p.qtBase
  | 0x15 => hi32 p.qtBase
  | 0x16 => lo32 p.jBase
  | 0x17 => hi32 p.jBase
  | 0x18 => lo32 p.jSeq
  | 0x19 => hi32 p.jSeq
  | 0x1A => p.wdog.toNat
  | 0x20 => c (fun x => ctxId f.ctx x part)
  | 0x21 => c (fun x => x.quota.toNat)
  | 0x22 => s.pinCount f.ctx
  | 0x23 => c (fun x => lo32 x.trapBase)
  | 0x24 => c (fun x => hi32 x.trapBase)
  | 0x25 => c (fun x => lo32 x.fqBase)
  | 0x26 => c (fun x => hi32 x.fqBase)
  | 0x27 => c (fun x => x.fqCtl.toNat)
  | 0x28 => c (fun x => x.fqHead.toNat)
  | 0x29 => c (fun x => x.fqTail.toNat)
  | 0x2A => c (fun x => x.supk)
  | 0x2B => c (fun x => lo32 x.saveBase)
  | 0x2C => c (fun x => hi32 x.saveBase)
  | 0x2D => (saveSize s f.ctx).toNat
  | 0x30 => k.dropped.toNat
  | 0x31 => k.misses.toNat
  | 0x32 => 98304 * firnSteps s f.core
  | _ => 0

/-- RDSR (R376). -/
def rdsrBody (w : FWord) (sh : Shape) (e : Env) (s : State) : Res :=
  if e.exec = 0 then .done s else .done (writeTargets w sh e (some (readSr s e.h e.f w.c.toNat)) s)

/-! ## Writing (R362) -/

/-- A partition register written with a value, 64 bits for a _LO register (R143, R185, R326, R337, R361). -/
def writePart (s : State) (part n v : Nat) : Option State :=
  let put (g : Part → Part) : Option State := some (s.modPart part g)
  let w : Word := BitVec.ofNat 32 v
  match n with
  | 0x10 => put (fun p => { p with
      ageLimit := max 16 (field v 0 16), restoreLimit := max 1 (min 10000 (field v 16 14)) })
  | 0x11 => put (fun p => { p with dlgt := p.dlgt.set 0 w })
  | 0x12 => put (fun p => { p with dlgt := p.dlgt.set 1 w })
  | 0x13 => put (fun p => { p with dlgt := p.dlgt.set 2 w })
  | 0x14 => put (fun p => { p with qtBase := BitVec.ofNat 64 v })
  | 0x16 => put (fun p => { p with jBase := BitVec.ofNat 64 v })
  | 0x1A => put (fun p => { p with wdog := w })
  | _ => none

/-- A context register written; none for a value outside its field's range (R362). Reserved bits are ignored (R4). -/
def writeCtx (s : State) (ctx n v : Nat) : Option State :=
  let put (g : Ctx → Ctx) : Option State := some (s.modCtx ctx g)
  let w : Word := BitVec.ofNat 32 v
  let d : Dword := BitVec.ofNat 64 v
  match n with
  | 0x21 => put (fun c => { c with quota := w &&& 0xFFFFFF })
  | 0x23 => if v % 256 = 0 then put (fun c => { c with trapBase := d }) else none
  | 0x25 => if v % 4096 = 0 then put (fun c => { c with fqBase := d, fqStuck := false }) else none
  | 0x27 => if 4 ≤ v % 32 ∧ v % 32 ≤ 16 then put (fun c => { c with fqCtl := w &&& 0xFFFF001F, fqStuck := false }) else none
  | 0x28 => put (fun c => { c with fqHead := w, fqStuck := false })
  | 0x2A => put (fun c => { c with supk := v % 4096 })
  | 0x2B => if v % 4096 = 0 then put (fun c => { c with saveBase := d }) else none
  | _ => none

/-- A floe register written. -/
def writeFloeSr (s : State) (h : Nat) (f : Floe) (n v : Nat) : Option State :=
  match n with
  | 0x00 => some (s.modFloe h (fun g => { g with fpflags := BitVec.ofNat 32 v &&& 0x73F }))
  | 0x02 => some (match s.heldMx h f.core with
      | some m => s.setMatrix f.core m { s.matrix f.core m with rcf := v % 2 == 1 }
      | none => s)
  | 0x04 => some (s.modFloe h (fun g => { g with tepc := BitVec.ofNat 64 v }))
  | _ => none

/-- The registers that hold the high half of another's value, and those that take one. -/
def srIsHi (n : Nat) : Bool := n == 0x05 || n == 0x15 || n == 0x17 || n == 0x24 || n == 0x26 || n == 0x2C
def srIsLo (n : Nat) : Bool := n == 0x04 || n == 0x14 || n == 0x16 || n == 0x23 || n == 0x25 || n == 0x2B

/-- The registers any level may write. -/
def srAny (n : Nat) : Bool := n == 0x00 || n == 0x02

/-- A write by a floe: a _HI value is held until the next write of its _LO register. -/
def writeSr (s : State) (h : Nat) (f : Floe) (n v : Nat) : Option State :=
  if srIsHi n then some (s.modFloe h (fun g => { g with hiHeld := Table.insert g.hiHeld n (BitVec.ofNat 32 v) }))
  else
    let hi := match Table.find? f.hiHeld (n + 1) with | some x => x.toNat | none => readSr s h f (n + 1)
    let full := if srIsLo n then v + 2 ^ 32 * hi else v
    let r := if n < 0x10 then writeFloeSr s h f n full else if n < 0x20 then writePart s (partOf f.core) n full else writeCtx s f.ctx n full
    r.map (fun t => if srIsLo n then t.modFloe h (fun g => { g with hiHeld := Table.erase g.hiHeld (n + 1) }) else t)

/-- WRSR (R362, R376): an invalid A has no effect, whatever the register. -/
def wrsrBody (w : FWord) (_sh : Shape) (e : Env) (s : State) : Res :=
  let n := w.c.toNat
  let a := rdOp s e.f 0 w.a 1
  if e.exec = 0 ∨ a.2 = false then .done s
  else if !srWritable n then .trap { cause := .illegalOperands, lanes := e.exec } s
  else if !srAny n ∧ !s.isPriv e.f then .trap { cause := .privileged, lanes := e.exec } s
  else match writeSr s e.h e.f n a.1 with
    | some t => .done t
    | none => .trap { cause := .illegalOperands, lanes := e.exec } s

/-! ## HALT (R379) -/

/-- HALT: the core leaves every placement and its floes are pre-empted; retention sleep begins once they have left. -/
def haltBody (_w : FWord) (_sh : Shape) (e : Env) (s : State) : Res :=
  if e.exec = 0 then .done s
  else .done ((s.preemptCore e.f.core).modCore e.f.core (fun c => { c with halted := true }))

/-! ## CTXCMD (R380) -/

/-- The number that a command's journal entry carries in QUEUE (R337): the kernel's index, or the queue. -/
def cmdQueue (code : Nat) (args : List Dword) : Nat :=
  let a (i : Nat) : Nat := (args.getD i 0).toNat % 4096
  match code with
  | 0x06 | 0x07 => a 1
  | 0x08 | 0x09 | 0x0A | 0x0B | 0x0C => a 0
  | _ => 0

/-- CTXCMD: the block is read and judged at issue, the command journaled and left to be performed in order. -/
def ctxcmdBody (w : FWord) (sh : Shape) (e : Env) (s : State) : Res :=
  let a := rdOp s e.f 0 w.a 2
  let va : Dword := BitVec.ofNat 64 a.1
  if e.exec = 0 then .done s
  else if !a.2 then .done (writeUni e.f sh.d.writes none s)
  else if !sh.d.writes.isEmpty ∧ 1023 ≤ e.f.ld then .stall s
  else withBlock s e va 64 64 (fun bs =>
      let v := natOf bs
      let code := w.c.toNat
      let args : List Dword := (List.range 4).map (fun i => BitVec.ofNat 64 (field v (64 * i) 64))
      let part := partOf e.f.core
      let high := jHigh 4 (coreSecure s e.f.core) part (cmdQueue code args) 0 Config.deviceId.toNat
      if field v 256 256 ≠ 0 then .done (s.wrGroup e.f 0 true sh.d.writes 1 |>.jNew part high 3 8).1
      else
        let j := s.jNew part high 0 0
        let t := j.1.modCtx e.f.ctx (fun c => { c with cmds := c.cmds ++ [⟨code, args, j.2, s.storesOf e.h, none⟩] })
        .done (t.wrGroup e.f 0 true sh.d.writes (2 ^ 32 * (j.2.seq % 2 ^ 32))))

def execRdsr (w : FWord) (s : State) : Host.Outcome State Fault Refusal := issueF (.rdsr w) rdsrBody s
def execWrsr (w : FWord) (s : State) : Host.Outcome State Fault Refusal := issueF (.wrsr w) wrsrBody s
def execHalt (w : FWord) (s : State) : Host.Outcome State Fault Refusal := issueF (.halt w) haltBody s
def execCtxcmd (w : FWord) (s : State) : Host.Outcome State Fault Refusal := issueF (.ctxcmd w) ctxcmdBody s

end Sys2Proof.Machine
end

