-- ==== Sys2Proof/Machine/Context.lean ====
section
/-! DEFINITION. Saving, restoring and migrating floes (R365-R368, R150, R317), the states of a context they lead to (R359), REPLAY's
effect on a floe and on a copy (R381), and the fault queue (R372). -/

namespace Sys2Proof.Machine

/-! ## Replay (R137, R178, R381) -/

/-- The transfer of a suspension goes on, by its kind. -/
def State.replayTransfer (s : State) (id : Nat) (f : Floe) : State :=
  match Table.find? s.ops id with
  | none => s
  | some o => match o.kind with
    | .walker => treeReplay s id o f
    | .alloc => treeReplay s id o f
    | .halo => s.modOp id (fun q => { q with state := .inFlight })
    | _ => s.replayOp id

/-- REPLAY of a SUSPENDED floe by ARG1: 0 replays, 1 kills, 2 delivers the cause to its handler. The floe becomes READY (R137); where its
instruction waited, that begins its wait again (log 52). -/
def State.replayFloe (s : State) (h arg : Nat) : State :=
  match s.floe? h with
  | none => s
  | some f =>
    match f.susp with
    | none => s
    | some x =>
      if arg = 1 then s.floeEnd h true
      else if arg = 2 then
        let s1 := match x.op.bind (fun id => (Table.find? s.ops id).map (fun o => (id, o))) with
          | some (id, o) => s.endOp id o
          | none => s
        let b := if (f.slot x.slot1).isSome then x.slot1 else f.nextSlot
        ((s1.abandonWait f h).modFloe h (fun g => { g with susp := none, state := .ready, wait := none })).vector h b x.pc x.pc { x.info with atNext := false }
      else
        let s1 := match x.op with | some id => s.replayTransfer id f | none => s
        s1.modFloe h (fun g => { g with susp := none, state := .ready, since := s.mck f.core })

/-- REPLAY of a waiting copy by ARG1: 0 resumes it, 1 abandons it and kills its floe, 2 abandons it and delivers the cause (R187).
An abandoned copy leaves its group and its arrival counter, so that no WAIT or ACRESET waits on it (R166); its event takes nothing. -/
def State.replayCopy (s : State) (id : Nat) (c : Copy) (arg : Nat) : State :=
  let gone := { s with copies := Table.erase s.copies id }
  match arg with
  | 0 => s.modCopy id (fun d => { d with waiting := false, replayed := none })
  | 1 => gone.floeEnd c.floe true
  | _ =>
    match gone.floe? c.floe with
    | some f =>
      if f.state = .retired then
        gone.fatalLive c.ctx (faultRecord 0x10 1 false (partOf c.core) c.inst c.floeNum c.core c.faultVa.toNat 0 0 c.next 0 0 0 c.num (s.gt % 2 ^ 64))
      else gone.modFloe c.floe (fun g => { (if c.desc.cta then g.acForget c.desc.ac else g).copyDone id with pendingTraps := g.pendingTraps ++
        [{ cause := .pageNotPresent, source := 1, tinfo := c.faultVa, vaddr := c.faultVa, elem := c.next, aux := c.num }] })
    | none => gone

/-! ## Saving (R365, R366) -/

/-- Whether a floe is saved to move to another core: its stores need only have left (R368). -/
def State.moving (s : State) (f : Floe) : Bool :=
  match s.ctx? f.ctx with
  | some c => c.migrate.any (fun m => m.1 == f.core)
  | none => false

/-- A store that has left its core: none of its accesses is to firn, and nothing is returned. -/
def Op.leftCore (o : Op) : Bool :=
  (match o.kind with | .store => true | .compress _ => true | .atomic _ false => true | _ => false) && o.state == .inFlight
    && o.lanes.all (fun la => !inFirn la.va)

/-- Whether an operation may be outstanding when its floe is saved: a faulted transfer of a SUSPENDED floe, an RLD given up, a record that a
full queue holds, a store of a migration that has left. -/
def mayRemain (s : State) (f : Floe) (id : Nat) (o : Op) : Bool :=
  o.state == .faulted || o.rldLost || s.enqs.any (fun r => r.blocked && r.op == some id) || (s.moving f && o.leftCore)

/-- Whether a floe that is being pre-empted has drained (R365): it has formed (R137), a trap to be taken enters its handler first, and a
TLBINV retires first (R399). -/
def drained (s : State) (h : Nat) (f : Floe) : Bool :=
  f.preempt && f.resident && f.state != .forming && (f.pendingTraps.isEmpty || f.state != .ready) && f.tl == 0
    && !(match f.wait with | some (.ops _ (.tlbinv _ _)) => f.state == .waiting | some (.migrate _) => true | _ => false)
    && (Table.search s.ops (fun i o => o.floe == h && !mayRemain s f i o)).isNone
    && (Table.search s.copies (fun _ c => c.floe == h && !c.savedIn && !c.waiting)).isNone

/-- The words of a floe's registers. -/
def Floe.regWords (f : Floe) : Nat := 32 * f.regs + f.wregs

/-- The first address of the save area that a write of it would fault at, in steps of 4,096 bytes from SAVEBASE, a multiple of that; a
save writes one byte at least (R366). -/
def saveFault (s : State) (ctx : Nat) : Option (Cause × Dword) :=
  match s.ctx? ctx with
  | none => none
  | some c =>
    let core := partCore c.home
    (List.range ((max 1 (saveSize s ctx).toNat + 4095) / 4096)).findSome? (fun i =>
      let a := c.saveBase + BitVec.ofNat 64 (4096 * i)
      match translateCore s core ctx .write a with
      | .error x => some (x, a)
      | .ok p => if p.pte.remote then some (.pagePermission, a) else none)

/-- The matrix context that a floe holds, as it is saved (R245). -/
def State.mxSaved (s : State) (h core : Nat) : Option MxSave :=
  (s.heldMx h core).map (fun m =>
    let x := s.matrix core m
    let y := s.matrix (corePartner core) m
    { num := m, pair := x.pair, tiles := x.tiles, preds := x.preds, rcf := x.rcf, tiles2 := if x.pair then y.tiles else [],
      preds2 := if x.pair then y.preds else 0xFFFF })

/-- A drained floe leaves its core. -/
def State.saveFloe (s : State) (h : Nat) (f : Floe) : State :=
  let mx := s.mxSaved h f.core
  let t := s.takeWords f.core (f.rbase / 4) f.regWords
  let s1 := (t.2.releaseMx h f.core true).modCore f.core (fun c => { c with mxWait := c.mxWait.filter (· != h) })
  let s2 := { s1 with copies := Table.map s1.copies (fun _ c => if c.floe = h then { c with savedIn := true } else c) }
  let s3 := s2.setFloe h { f with
    state := .saved, savedFrom := f.state, savedRegs := t.1, savedMx := mx, savedGt := s.gt, savedStop := s.gatedFor f.core, preempt := false,
    latches := [], yielded := false, ibuf := [], far := [], flushWait := if s.moving f then some f.core else f.flushWait }
  (s3.settleScratch f.core).sleepCore f.core

/-- FLOE_SAVED (R365): a write of saved state that faults is fatal (R366). -/
def execFloeSaved (floe : Nat) (s : State) : Host.Outcome State Fault Refusal :=
  match s.floe? floe with
  | none => .next s
  | some f =>
    if s.stopped f || !drained s floe f then .next s
    else if s.moving f then .next (s.saveFloe floe f)
    else match saveFault s f.ctx with
      | none => .next (s.saveFloe floe f)
      | some (x, a) =>
        .next (s.fatal f.ctx (faultRecord x.code 0 false (partOf f.core) f.inst f.num f.core a.toNat 0 0 0 0 0 0 0 (s.gt % 2 ^ 64)))

/-- SAVE_RLD_TIMEOUT (R365): the replies of an RLD are given up 100 µs after its floe's save began. -/
def execSaveRldTimeout (op : Nat) (s : State) : Host.Outcome State Fault Refusal :=
  match Table.find? s.ops op with
  | none => .next s
  | some o =>
    match s.floe? o.floe with
    | none => .next s
    | some f =>
      let open_ := s.net.reqs.any (fun r => r.op == op)
      if f.preempt ∧ f.savedGt + 100000 ≤ s.gt ∧ o.info = rldMark ∧ o.state = .inFlight ∧ open_ then
        .next (s.modOp op (fun q => { q with failed := true }))
      else .next s

/-! ## Restoring (R367) -/

/-- Whether a floe is on a core or SAVED from it, as one of a group. -/
def Floe.inGroup (f : Floe) (ctx inst core : Nat) : Bool := f.ctx == ctx && f.inst == inst && f.core == core && f.state != .retired

/-- The SAVED floes of a group, in ascending number. -/
def insertByNum (e : Nat × Floe) : List (Nat × Floe) → List (Nat × Floe)
  | [] => [e]
  | x :: t => if e.2.num < x.2.num then e :: x :: t else x :: insertByNum e t
def groupSaved (s : State) (ctx inst core : Nat) : List (Nat × Floe) :=
  (Table.keep s.floes (fun _ f => f.inGroup ctx inst core && f.state == .saved)).foldl (fun l e => insertByNum e l) []

/-- Whether the groups of a core and of its partner stay together: floes of a PAIR pack, or a context held with a partner. -/
def pairGroup (s : State) (ctx inst core : Nat) : Bool :=
  (Table.search s.floes (fun h g => (g.inGroup ctx inst core || g.inGroup ctx inst (corePartner core))
    && (((s.kernel ctx g.kernel).packsOf g.num).any (fun p => p.flags == 2) || (match g.savedMx with | some m => m.pair | none => false)
      || (match s.heldMx h g.core with | some m => g.resident && (s.matrix g.core m).pair | none => false)))).isSome

/-- Waiting MCTX instructions keep the order in which they issued (R243). -/
def insertMxWait (s : State) (h since : Nat) : List Nat → List Nat
  | [] => [h]
  | x :: t => if (match s.floe? x with | some g => decide (since < g.waitSince) | none => false) then h :: x :: t else x :: insertMxWait s h since t

/-- The copies of a restored floe in the mover of its core (R187): new numbers; one whose replay was recorded goes on by it, another posts
its record again. -/
def State.restoreCopies (s : State) (h core : Nat) : State :=
  (Table.keys (Table.keep s.copies (fun _ c => c.floe == h && c.savedIn))).foldl (fun (t : State) id =>
    match Table.find? t.copies id with
    | none => t
    | some c =>
      let num := freshIn ((Table.vals (t.copiesOf core)).map (fun d => d.num)) 128 1
      let c1 := { c with core := core, num := num, savedIn := false }
      let t1 := { t with copies := Table.insert t.copies id c1 }
      match c.replayed with
      | some a => t1.replayCopy id c1 a
      | none => t1.postRecord c.ctx (faultRecord 0x10 1 true (partOf core) c.inst c.floeNum core c.faultVa.toNat 0 0 c.next 0 0 0 num (t.gt % 2 ^ 64)))
    s

/-- A saved matrix context acquired anew on a core: the lowest number free there, and on the partner for a pair. -/
def State.restoreMx (s : State) (h core : Nat) (x : MxSave) : Option State :=
  (freeMx s core x.pair).map (fun m =>
    let s1 := s.acquireMx h core m x.pair
    let s2 := s1.setMatrix core m { s1.matrix core m with tiles := x.tiles, preds := x.preds, rcf := x.rcf }
    if x.pair then s2.setMatrix (corePartner core) m { s2.matrix (corePartner core) m with tiles := x.tiles2, preds := x.preds2 } else s2)

/-- Tree slots bound on a core, those bound there already left as they are (R282, log 100). -/
def State.fillSlots (s : State) (core : Nat) (ts : Table TreeSlot) : State :=
  s.modCore core (fun c => { c with slots := List.foldl (fun (t : Table TreeSlot) (p : Nat × TreeSlot) => if (Table.find? t p.1).isSome then t else Table.insert t p.1 p.2) c.slots ts })

/-- The tree slots that go with a group from a core: those saved with its context, else those bound there (R282, R366, R368). -/
def State.slotsFrom (s : State) (ctx old : Nat) : Table TreeSlot :=
  (((s.ctx? ctx).bind (fun c => Table.find? c.savedSlots old)).getD (s.core old).slots)

/-- An address in one copy of a text of `n` bytes as the same address in another (R316). -/
def rebase (a b n : Nat) (pc : Dword) : Dword := if a ≤ pc.toNat ∧ pc.toNat < a + n then BitVec.ofNat 64 (pc.toNat - a + b) else pc

/-- A slot, a stack entry and a floe with their code addresses moved. -/
def Slot.rebased (m : Dword → Dword) (x : Slot) : Slot := { x with pc := m x.pc, rpc := x.rpc.map m, via := x.via.map m }
def StackEntry.rebased (m : Dword → Dword) (x : StackEntry) : StackEntry := { x with pc := m x.pc, rpc := x.rpc.map m, via := x.via.map m }
def Floe.rebased (m : Dword → Dword) (f : Floe) : Floe :=
  { f with s0 := f.s0.map (Slot.rebased m), s1 := f.s1.map (Slot.rebased m), stack := f.stack.map (StackEntry.rebased m), tepc := m f.tepc,
           frame := f.frame.map (fun x => { x with rpc := x.rpc.map m }), susp := f.susp.map (fun x => { x with pc := m x.pc }) }

/-- A floe restored on another core runs that core's own copy of its kernel's text (R316). -/
def Floe.onCopy (f : Floe) (k : Kernel) (old target : Nat) : Floe :=
  match Table.find? k.place old, Table.find? k.place target with
  | some a, some b => if a = b then f else f.rebased (rebase a.toNat b.toNat k.textSize)
  | _, _ => f

/-- One SAVED floe put on a core, under a new tag, into the state it left, its age and hints begun anew (R140-R142); none where it has no
room there. `old` is the core it was saved from: anchors that were placed there move with its group (R345), and tree slots go with it. -/
def State.restoreOne (s : State) (h old target : Nat) : Option State :=
  match s.floe? h with
  | none => none
  | some f =>
    let k := s.kernel f.ctx f.kernel
    match seatOn s target f.ctx f.inst k.firn f.regs f.wregs with
    | none => none
    | some seat =>
      let s1 := s.takeSeat target seat (regBytes f.regs f.wregs)
      let s2 := s1.putWords target (seat.room.rbase / 4) f.savedRegs
      let s3 := match seat.room.region, (s.inst? f.ctx f.inst).bind (fun i => Table.find? i.savedScratch old) with
        | some r, some ws => ((s2.takeWords target (4096 * r.start) (4096 * r.steps)).2.putWords target (4096 * r.start) ws).modInst f.ctx f.inst
            (fun i => { i with savedScratch := Table.erase i.savedScratch old })
        | _, _ => s2
      let s4? := match f.savedMx with | some x => s3.restoreMx h target x | none => some s3
      s4?.map (fun s4 =>
        let g := { f.onCopy k old target with
          core := target, slice := seat.slice, pos := seat.pos, rbase := seat.room.rbase, tag := seat.tag, state := f.savedFrom, savedRegs := [],
          savedMx := none, replayMark := none, since := if f.savedFrom = .ready then s.mck target else f.since, yielded := false }
        let s4a := (s4.fillSlots target (s4.slotsFrom f.ctx old)).modInst f.ctx f.inst (fun i =>
          { i with anchors := Table.map i.anchors (fun _ c => if c = old then target else c) })
        let s5 := (s4a.setFloe h g).l1Fit target
        let s6 := { s5 with ops := Table.map s5.ops (fun _ o =>
          if o.floe = h then { o with tag := seat.tag, core := if o.leftCore then o.core else target } else o) }
        let s7 := match f.savedFrom, f.wait with
          | .waiting, some (.matrix _) => s6.modCore target (fun c => { c with mxWait := insertMxWait s6 h f.waitSince c.mxWait })
          | _, _ => s6
        let s8 := match f.replayMark with | some a => s7.replayFloe h a | none => s7
        s8.restoreCopies h target)

/-- Whether a core can take the groups of `old` of an instance: in its kernel's placement set, and with no other group of the instance. -/
def coreTakes (s : State) (ctx inst old target : Nat) : Bool :=
  match s.inst? ctx inst with
  | none => false
  | some i =>
    (placeCores s ctx (s.kernel ctx i.kernel)).contains target &&
      (target == old || ((Table.search s.floes (fun _ f => f.inGroup ctx inst target)).isNone && (Table.find? i.savedScratch target).isNone
        && (s.scratchOf target ctx inst).isNone && (s.scratchOf old ctx inst).isNone))

/-- A list of floes put on cores, all or none. -/
def restoreAll : List (Nat × Nat × Nat) → State → Option State
  | [], s => some s
  | (h, old, target) :: t, s => (s.restoreOne h old target).bind (restoreAll t)

/-- A floe restored onto a core with all that restores together with it: alone where its group is still on its core, its group where only the
partner's of a pair is still on its own, else the whole group, with the partner core's for a pair. -/
def State.restoreUnit (s : State) (h : Nat) (f : Floe) (target : Nat) : Option State :=
  let there (c : Nat) : Bool := (Table.search s.floes (fun _ g => g.inGroup f.ctx f.inst c && g.resident)).isSome
  let pair := pairGroup s f.ctx f.inst f.core
  let own (l : List (Nat × Nat × Nat)) : Option State :=
    if target = f.core ∧ coreTakes s f.ctx f.inst f.core target then restoreAll l s else none
  if there f.core then own [(h, f.core, target)]
  else if pair && there (corePartner f.core) then own ((groupSaved s f.ctx f.inst f.core).map (fun e => (e.1, f.core, target)))
  else
    let cores := if pair then [(f.core, target), (corePartner f.core, corePartner target)] else [(f.core, target)]
    let floes := cores.flatMap (fun p => (groupSaved s f.ctx f.inst p.1).map (fun e => (e.1, p.1, p.2)))
    if pair ∧ f.core % 2 ≠ target % 2 then none
    else if (cores.all (fun p => (groupSaved s f.ctx f.inst p.1).isEmpty || coreTakes s f.ctx f.inst p.1 p.2)) then restoreAll floes s else none

/-- Whether a SAVED floe may be restored onto a core in its context's state (R359): a group that moves, where its MIGRATE says (R368), any
other in the order of R150 and R317. -/
def mayRestore (s : State) (f : Floe) (target : Nat) : Bool :=
  f.state == .saved && (s.moving f || !restoreHeld s f) && (match s.ctx? f.ctx with
    | some c => c.state.places && c.migrate.all (fun m => m.1 != f.core || (match m.2 with | some q => q == target | none => true))
    | none => false)

/-- FLOE_RESTORE (R367). -/
def execFloeRestore (floe core : Nat) (s : State) : Host.Outcome State Fault Refusal :=
  match s.floe? floe with
  | none => .next s
  | some f => .next (if mayRestore s f core then (s.settleAll.restoreUnit floe f core).getD s else s)

/-- The cores that could take a floe's groups, the one it was saved from first. -/
def restoreCores (s : State) (f : Floe) : List Nat :=
  match s.inst? f.ctx f.inst with
  | none => []
  | some i => let cs := (placeCores s f.ctx (s.kernel f.ctx i.kernel)).filter (fun c => coreTakes s f.ctx f.inst f.core c)
    cs.filter (· == f.core) ++ cs.filter (· != f.core)

/-- DEADLINE_RESTORE (R317): half of RESTORE_LIMIT has passed, gated time not counted; the floe is restored, or room is made for it from floes of
any priority. -/
def execDeadlineRestore (floe : Nat) (s : State) : Host.Outcome State Fault Refusal :=
  match s.floe? floe with
  | none => .next s
  | some f =>
    if !f.due s then .next s
    else
      let cores := restoreCores s.settleAll f
      match cores.findSome? (fun c => s.settleAll.restoreUnit floe f c) with
      | some t => .next { t with floes := Table.map t.floes (fun h g =>
          if g.resident && (match s.floe? h with | some g0 => g0.state == .saved | none => false) then { g with restoredGt := some s.gt } else g) }
      | none => .next (((preemptVictim s cores (fun g => !g.protected s.gt)).map s.markPreempt).getD s)

/-! ## Contexts (R359, R380, R382) -/

/-- HCMDSTAT of a function (R382). -/
def State.hcmd (s : State) (fn status reason num seq : Nat) : State :=
  { s with hcmdStat := Table.setD s.hcmdStat 0 fn (BitVec.ofNat 64 (status + reason * 4 + num * 2 ^ 10 + seq % 2 ^ 32 * 2 ^ 32)) }

/-- The SAVE or MIGRATE of a context ends. -/
def State.endPending (s : State) (ctx : Nat) (ok : Bool) : State :=
  match (s.ctx? ctx).bind (fun c => c.pending) with
  | none => s
  | some (j, fn) =>
    let s1 := (s.jSet j (if ok then 2 else 3) (if ok then 0 else 8) 0).modCtx ctx (fun c => { c with pending := none })
    match fn with
    | some n => s1.hcmd n (if ok then 2 else 3) (if ok then 0 else 8) 0 j.seq
    | none => s1

/-- Whether nothing of a context is left on a core: every floe SAVED, with what may stay beside it. -/
def allSaved (s : State) (ctx : Nat) : Bool :=
  (Table.search s.floes (fun _ f => f.ctx == ctx && f.resident)).isNone
    && (Table.search s.ops (fun _ o => o.ctx == ctx && (match s.floe? o.floe with | some f => f.state == .retired | none => true))).isNone
    && (Table.search s.copies (fun _ c => c.ctx == ctx && !c.savedIn && !c.waiting)).isNone

/-- A context SAVED: its tree slots leave its cores (R282, R366). -/
def State.saveSlots (s : State) (ctx : Nat) : State :=
  let held := List.filterMap (fun (p : Nat × Core) =>
    match Table.keep p.2.slots (fun _ t => t.ctx == ctx) with | [] => none | l => some (p.1, l)) s.cores
  (List.foldl (fun (t : State) (p : Nat × Table TreeSlot) => t.modCore p.1 (fun c => { c with slots := Table.keep c.slots (fun _ x => x.ctx != ctx) })) s held).modCtx ctx
    (fun c => { c with state := .saved, savedSlots := held })

/-- The tree slots of a restored context bound again: those of a core whose groups went elsewhere went with them. -/
def State.restoreSlots (s : State) (ctx : Nat) (moved : List Nat) : State :=
  match s.ctx? ctx with
  | none => s
  | some c =>
    (List.foldl (fun (t : State) (p : Nat × Table TreeSlot) => if moved.contains p.1 then t else t.fillSlots p.1 p.2) s c.savedSlots).modCtx ctx
      (fun x => { x with savedSlots := [] })

/-- CONTEXT_SAVED (R359): with the copies that wait for a retired floe. A save that FAULTED or DESTROYED has overtaken ends FAILED. -/
def execContextSaved (ctx : Nat) (s : State) : Host.Outcome State Fault Refusal :=
  match s.ctx? ctx with
  | none => .next s
  | some c =>
    if c.state = .preempting then
      if !allSaved s ctx then .next s
      else
        let s1 := { s with copies := Table.map s.copies (fun _ x => if x.ctx = ctx then { x with savedIn := true } else x) }
        .next ((s1.saveSlots ctx).endPending ctx true)
    else if c.state = .faulted ∨ c.state = .destroyed then .next (s.endPending ctx false)
    else .next s

/-- What the flush of a core for a tag drops (R378). -/
def State.flushCore (s : State) (core : Nat) (tag : BitVec 8) : State :=
  s.modCore core (fun c =>
    { c with l1 := Table.keep c.l1 (fun _ l => l.tag != tag), excl := Table.keep c.excl (fun _ t => t != tag),
             tlb := c.tlb.filter (fun t => t.tag != tag), leafCache := c.leafCache.filter (fun t => t.tag != tag),
             descCache := Table.keep c.descCache (fun _ t => t.1 != tag) })

/-- Whether a core that a context's groups move away from has none left of them, nor a store that left it and is not performed. -/
def movedOff (s : State) (ctx p : Nat) : Bool :=
  (Table.search s.floes (fun _ f => f.ctx == ctx && f.core == p && f.state != .retired)).isNone
    && (Table.search s.ops (fun _ o => o.ctx == ctx && o.core == p && o.writes)).isNone

/-- MIGRATION_FLUSH_ACK (R368): the groups are on other cores, the stores that left theirs are performed, and its flush is acknowledged; with the last of
a context's migrations the context runs on. -/
def execMigrationFlushAck (ctx : Nat) (s : State) : Host.Outcome State Fault Refusal :=
  match s.ctx? ctx with
  | none => .next s
  | some c =>
    match c.migrate.find? (fun m => movedOff s ctx m.1) with
    | none => .next s
    | some m =>
      if c.state ≠ .migrating then .next s
      else
        let s1 := s.flushCore m.1 c.tag
        let s2 := { s1 with floes := Table.map s1.floes (fun _ f => if f.ctx = ctx ∧ f.flushWait = some m.1 then { f with flushWait := none } else f) }
        let left := c.migrate.filter (fun x => x.1 != m.1)
        let s3 := s2.modCtx ctx (fun x => { x with migrate := left })
        .next (if left.isEmpty then
          (s3.modCtx ctx (fun x => { x with state := if (s.instsOf ctx).isEmpty then .resident else .running })).endPending ctx true else s3)

/-! ## The fault queue (R372) -/

/-- FAULT_RECORD_POST: the oldest waiting record of a context is written where the ring has room, signals the FQCTL event and raises the
function's interrupt. -/
def execFaultRecordPost (ctx : Nat) (s : State) : Host.Outcome State Fault Refusal :=
  match s.ctx? ctx with
  | none => .next s
  | some c =>
    let lg := c.fqCtl.toNat % 32
    match c.faultRecs with
    | [] => .next s
    | r :: rest =>
      if c.fqBase = 0 ∨ lg < 4 ∨ 16 < lg ∨ c.fqStuck ∨ 2 ^ lg ≤ (c.fqTail - c.fqHead).toNat then .next s
      else
        let core := partCore c.home
        let va := c.fqBase + BitVec.ofNat 64 (64 * (c.fqTail.toNat % 2 ^ lg))
        if !writeFree s core ctx (coreSecure s core) va 64 then .next s
        else match writeVirt s core ctx (coreSecure s core) va r.bytes with
        | .error _ => .next (s.modCtx ctx (fun x => { x with fqStuck := true }))
        | .ok t =>
          let t1 := (t.modCtx ctx (fun x => { x with faultRecs := rest, fqTail := x.fqTail + 1 })).signal ctx (c.fqCtl.toNat / 65536) 1 []
          .next { t1 with irqs := if t1.irqs.contains (c.home + 1) then t1.irqs else t1.irqs ++ [c.home + 1] }

end Sys2Proof.Machine
end

