-- ==== Sys2Proof/Machine/Command.lean ====
section
/-! DEFINITION. Context commands (R380-R383): where they come from, the journal entry they leave, and the effect of each, but REKEY. -/

namespace Sys2Proof.Machine

/-! ## Performing a command -/

/-- What performing a command comes to: accepted or refused, the instance an HLAUNCH made, the number CREATE assigned; `later` where the
entry changes when the command ends. -/
structure CmdRes where
  s : State
  ok : Bool
  inst : Nat := 0
  num : Nat := 0
  later : Bool := false
  deriving DecidableEq, Repr

/-- A command on a context: its operands, its entry, and the host function that sent it. -/
abbrev CmdBody := Nat → Ctx → List Dword → JRef × Option Nat → State → CmdRes

def CmdRes.done (s : State) : CmdRes := { s := s, ok := true }
def CmdRes.refused (s : State) : CmdRes := { s := s, ok := false }

/-- The entry and HCMDSTAT of a command that was performed (R337, R382). -/
def CmdRes.finish (r : CmdRes) (j : JRef) (fn : Option Nat) : State :=
  if r.later then r.s
  else
    let status := if r.ok then 2 else 3
    let reason := if r.ok then 0 else 8
    let s1 := r.s.jSet j status reason r.inst
    match fn with
    | some n => s1.hcmd n status reason r.num j.seq
    | none => s1

/-- Whether a SAVE or MIGRATE of the context is being performed, which the commands after it wait for; a CREATE holds none back (R381). -/
def Ctx.busy (c : Ctx) : Bool := c.pending.isSome && c.state != .loading

/-- The oldest command of a context is performed, once the stores before it are (R314, R390) and none before it runs. -/
def runQueued (code ctx : Nat) (body : CmdBody) (s : State) : State :=
  match s.ctx? ctx with
  | none => s
  | some c =>
    match c.cmds with
    | [] => s
    | k :: rest =>
      if k.code ≠ code ∨ !s.ended k.after ∨ c.busy then s
      else
        let s1 := s.modCtx ctx (fun x => { x with cmds := rest })
        let r := if c.state = .destroyed then CmdRes.refused s1 else body ctx c k.args (k.j, k.fn) s1
        r.finish k.j k.fn

/-- The context that a host command acts on: by its function and CTX for codes 0x01 to 0x0E, by ARG0 for the others (R381). -/
def hostTarget (s : State) (code fn ctx : Nat) (args : List Dword) : Option Nat :=
  let named := (args.getD 0 0).toNat
  let own := if fn = 0 then none else s.ownerOf (fn - 1)
  let n? := if 1 ≤ code ∧ code ≤ 0x0E then (if fn = 0 then some ctx else if ctx = 0 then own else none)
    else if ctx ≠ 0 then none
    else if fn = 0 then some named
    else if code ≠ 0x11 ∧ own = some named then own else none
  n?.bind (fun n => match s.ctx? n with | some c => if c.state = .destroyed then none else some n | none => none)

/-- A host command on a context (R381): refused before it reaches one, it leaves HCMDSTAT only. It is performed in journal order with the
commands that its context has accepted, at once where none waits (R380); DESTROY waits for none (R359, log 101). -/
def runHost (code fn ctx : Nat) (rsv : Bool) (args : List Dword) (body : CmdBody) (s : State) : State :=
  if 12 < fn ∨ s.life.boot ≠ .ready then s
  else match (if rsv then none else hostTarget s code fn ctx args) with
    | none => s.hcmd fn 3 8 0 0
    | some n =>
      match s.ctx? n with
      | none => s
      | some c =>
        let part := if fn = 0 then c.home else fn - 1
        let j := s.jNew part (jHigh 4 false 15 (cmdQueue code args) 0 Config.deviceId.toNat) 0 0
        let s1 := j.1.hcmd fn 0 0 0 j.2.seq
        if code ≠ 0x11 ∧ (c.busy ∨ c.cmds ≠ []) then s1.modCtx n (fun x => { x with cmds := x.cmds ++ [⟨code, args, j.2, [], some fn⟩] })
        else (body n c args (j.2, some fn) s1).finish j.2 (some fn)

/-- A command from either path. -/
def runCmd (code : Nat) (body : CmdBody) (src : CmdSource) (s : State) : Host.Outcome State Fault Refusal :=
  match src with
  | .queued ctx => .next (runQueued code ctx body s)
  | .host fn ctx rsv a b c d => .next (runHost code fn ctx rsv [a, b, c, d] body s)

def arg (args : List Dword) (i : Nat) : Nat := (args.getD i 0).toNat

/-! ## REPLAY (R381) -/

/-- REPLAY of a floe: SUSPENDED, or SAVED SUSPENDED, where it is recorded; a second one of the same suspension is refused. -/
def replayFloeCmd (ctx inst num a : Nat) (s : State) : CmdRes :=
  match Table.search s.floes (fun _ f => f.ctx == ctx && f.inst == inst && f.num == num) with
  | none => .refused s
  | some (h, f) =>
    if f.state = .suspended then .done (s.replayFloe h a)
    else if f.state = .saved ∧ f.savedFrom = .suspended ∧ f.replayMark = none then
      .done (if a = 1 then s.floeEnd h true else s.modFloe h (fun g => { g with replayMark := some a }))
    else .refused s

/-- REPLAY of a waiting copy; one that is saved takes effect at the restore. -/
def replayCopyCmd (ctx inst num a cp : Nat) (s : State) : CmdRes :=
  match Table.search s.copies (fun _ c => c.ctx == ctx && c.inst == inst && c.floeNum == num && c.num == cp && c.waiting && c.replayed.isNone) with
  | none => .refused s
  | some (id, c) => if c.savedIn then .done (s.modCopy id (fun d => { d with replayed := some a })) else .done (s.replayCopy id c a)

def replayBody : CmdBody := fun ctx c args _ s =>
  let inst := arg args 0 % 2 ^ 32
  let num := arg args 0 / 2 ^ 32
  if 2 < arg args 1 ∨ 128 < arg args 2 ∨ c.state = .faulted ∨ c.state = .destroyed then .refused s
  else if arg args 2 = 0 then replayFloeCmd ctx inst num (arg args 1) s
  else replayCopyCmd ctx inst num (arg args 1) (arg args 2) s

def execReplay (src : CmdSource) (s : State) : Host.Outcome State Fault Refusal := runCmd 0x01 replayBody src s

/-! ## SAVE, RESTORE, MIGRATE (R359, R365-R368) -/

def saveBody : CmdBody := fun ctx c _ j s =>
  match c.state with
  | .resident => .done (s.modCtx ctx (fun x => { x with state := .saved }))
  | .running =>
    let s1 := (Table.keys (Table.keep s.floes (fun _ f => f.ctx == ctx && f.resident && !f.preempt))).foldl State.markPreempt s
    { s := s1.modCtx ctx (fun x => { x with state := .preempting, pending := some j }), ok := true, later := true }
  | _ => .refused s

/-- Every SAVED floe of a list restored with its group, all or none (R367). -/
def restoreEach : List Nat → State → Option State
  | [], s => some s
  | h :: t, s =>
    match s.floe? h with
    | none => restoreEach t s
    | some f =>
      if f.state ≠ .saved then restoreEach t s
      else ((restoreCores s f).findSome? (fun c => s.restoreUnit h f c)).bind (restoreEach t)

def restoreBody : CmdBody := fun ctx c _ _ s =>
  if c.state ≠ .saved then .refused s
  else
    let run := if (s.instsOf ctx).isEmpty then CtxState.resident else CtxState.running
    let s1 := s.modCtx ctx (fun x => { x with state := run })
    match restoreEach (Table.keys (Table.keep s.floes (fun _ f => f.ctx == ctx && f.state == .saved))) s1 with
    | none => .refused s
    | some t =>
      let left := Table.keep t.copies (fun _ k => k.ctx == ctx && k.savedIn)
      let on (u : State) (core : Nat) : Bool := (Table.search u.floes (fun _ f => f.ctx == ctx && f.core == core && f.state != .retired)).isSome
      let moved := (Table.keys c.savedSlots).filter (fun x => on s x && !on t x)
      .done ((List.foldl (fun (u : State) (p : Nat × Copy) => u.restoreCopies p.2.floe p.2.core) t left).restoreSlots ctx moved)

def execSave (src : CmdSource) (s : State) : Host.Outcome State Fault Refusal := runCmd 0x03 saveBody src s
def execRestore (src : CmdSource) (s : State) : Host.Outcome State Fault Refusal := runCmd 0x04 restoreBody src s

/-- MIGRATE: both cores are the context's, and the destination is in placement. -/
def migrateBody : CmdBody := fun ctx c args j s =>
  let p := arg args 0
  let q := arg args 1
  let mine (x : Nat) : Bool := coreValid x && c.parts.contains (partOf x)
  if c.state ≠ .running ∨ p = q ∨ !(mine p && mine q) ∨ (s.core q).halted ∨ (s.core q).quarantined then .refused s
  else
    let s1 := (Table.keys (Table.keep s.floes (fun _ f => f.ctx == ctx && f.core == p && f.resident && !f.preempt))).foldl State.markPreempt s
    { s := s1.modCtx ctx (fun x => { x with state := .migrating, migrate := [(p, some q)], pending := some j }), ok := true, later := true }

def execMigrate (src : CmdSource) (s : State) : Host.Outcome State Fault Refusal := runCmd 0x05 migrateBody src s

/-! ## KLOAD (R312-R314, R341-R343) -/

/-- Whether an entry of a pack table lists a floe (R342). -/
def Pack.lists (p : Pack) (n : Nat) : Bool :=
  if p.bitmap then decide (n < p.count) && (p.bits.getD (n / 8) 0).getLsbD (n % 8)
  else decide (p.first ≤ n) && decide ((n - p.first) % p.stride = 0) && decide ((n - p.first) / p.stride < p.count)

/-- The floe numbers that an entry lists. -/
def Pack.listed (p : Pack) : List Nat :=
  if p.bitmap then (List.range (min p.count 16777216)).filter p.lists
  else ((List.range p.count).map (fun j => p.first + j * p.stride)).filter (fun n => decide (n ≤ 16777215))

/-- Whether two entries agree (R343): no floe in common, or ANY, or the same flag with the same floes, or nested. -/
def packsAgree (p q : Pack) : Bool :=
  p.flags == 0 || q.flags == 0 || p.listed.all (fun n => !q.lists n)
    || (if p.flags = q.flags then p.listed.all q.lists && q.listed.all p.lists
        else if p.flags < q.flags then p.listed.all q.lists else q.listed.all p.lists)

/-- The rules of R343 on a whole pack section. -/
def packsValid (ps : List Pack) : Bool :=
  let most (p : Pack) : Nat := match p.flags with | 1 => 64 | 2 => 128 | 3 => 12288 | _ => 16777216
  ps.all (fun p => decide (p.listed.length ≤ most p) && p.listed.all (fun n => decide ((ps.filter (fun q => q.lists n)).length ≤ 4)))
    && ps.all (fun p => ps.all (fun q => p.id == q.id || packsAgree p q))

/-- Strictly rising numbers. -/
def rising : List Nat → Bool
  | [] => true
  | [_] => true
  | a :: b :: t => decide (a < b) && rising (b :: t)

/-- A pack entry within its Values column (R341); a bitmap's bytes come from the data section. -/
def parsePack (data : List Byte) (v : Nat) : Option Pack :=
  let p : Pack :=
    { id := field v 0 8, bitmap := v.testBit 8, flags := field v 9 2, bound := v.testBit 11, colour := field v 12 4, first := field v 32 32,
      count := field v 64 32, stride := field v 96 32, bits := [] }
  let n := (p.count + 7) / 8
  if field v 16 16 ≠ 0 ∨ (!p.bound ∧ p.colour ≠ 0) ∨ p.count = 0 ∨ 16777216 < p.count then none
  else if p.bitmap then
    if p.stride ≠ 0 ∨ data.length < p.first + n then none else some { p with bits := (data.drop p.first).take n }
  else if 16777215 < p.first ∨ p.stride = 0 ∨ 16777216 < p.stride then none
  else some p

/-- A relocation entry that names an X word of its kind (R313, R314). -/
def parseReloc (text : List Byte) (v : Nat) : Option (Nat × Nat × Nat) :=
  let woff := field v 0 24
  let coord := field v 32 10
  let kind := field v 48 2
  let word := natOf ((text.drop (8 * woff)).take 8)
  if field v 24 8 ≠ 0 ∨ field v 42 6 ≠ 0 ∨ field v 50 14 ≠ 0 ∨ text.length < 8 * woff + 8 ∨ field word 62 2 ≠ 3 ∨ field word 46 2 ≠ kind then none
  else if kind = 1 then (if coreValid coord then some (woff, coord, kind) else none)
  else if kind = 2 ∧ coord = 0 then some (woff, coord, kind)
  else none

/-- A list of options, all present. -/
def allSome {α : Type} : List (Option α) → Option (List α)
  | [] => some []
  | none :: _ => none
  | some a :: t => (allSome t).map (fun l => a :: l)

/-- The records of `n` bytes in a section. -/
def records (n : Nat) : Nat → List Byte → List Nat
  | 0, _ => []
  | k + 1, bs => natOf (bs.take n) :: records n k (bs.drop n)

/-- Whether a header's fields stand within their values (R312, R63). -/
def headerOk (v : Nat) : Bool :=
  let f := field v
  let signed := v.testBit 48
  let lmode := f 386 2
  let floes := f 416 32
  f 0 32 == 0x594C5A4B && f 32 16 == 1 && f 50 14 == 0 && f 64 32 % 4096 == 0 && f 96 32 % 8 == 0 && f 192 32 % 8 == 0
    && decide (f 288 16 ≤ 256) && f 304 8 % 8 == 0 && decide (8 ≤ f 304 8) && decide (f 304 8 ≤ 192) && decide (f 312 8 ≤ 48)
    && f 320 32 % 256 == 0 && decide (f 320 32 ≤ 1310720) && f 352 32 % 16 == 0 && decide (4096 ≤ f 352 32) && decide (f 352 32 ≤ 65536)
    && f 384 2 != 3 && lmode != 3 && f 388 28 == 0
    && (if lmode = 1 then [1, 2, 4, 8, 16].contains floes else decide (1 ≤ floes) && decide (floes ≤ 16777216))
    && (signed || (f 704 32 == 0 && !v.testBit 49)) && f 736 288 == 0

/-- The image at an address, read and verified (R314); none where a check or a read fails. -/
def readImage (s : State) (c : Ctx) (ctx : Nat) (va : Dword) : Option Kernel :=
  let core := partCore c.home
  let rd (off n : Nat) : Option (List Byte) :=
    match readVirt s core ctx (coreSecure s core) (va + BitVec.ofNat 64 off) n with | .ok bs => some bs | .error _ => none
  match rd 0 128 with
  | none => none
  | some hb =>
    let v := natOf hb
    let f := field v
    if va.toNat % 256 ≠ 0 ∨ !headerOk v ∨ (v.testBit 49 ∧ !c.world) then none
    else match rd (f 64 32) (f 96 32), rd (f 128 32) (f 160 32), rd (f 192 32) (8 * f 224 32), rd (f 256 32) (16 * f 288 16),
      (if v.testBit 48 then rd (f 704 32) 384 else some []) with
      | some text, some data, some rel, some pk, some sig =>
        let zeroed := hb.take 56 ++ List.replicate 36 0 ++ hb.drop 92
        let digest := sha256 (zeroed ++ text ++ data ++ rel ++ pk)
        let relocs? := allSome ((records 8 (f 224 32) rel).map (parseReloc text))
        let packs? := allSome ((records 16 (f 288 16) pk).map (parsePack data))
        (match relocs?, packs? with
         | some relocs, some packs =>
           let colours := (packs.filter (fun p => p.bound)).map (fun p => p.colour)
           let ok := digest == (hb.drop 56).take 32
             && (!v.testBit 48 || rsaVerify (Config.kernelKey s.life.digest) digest sig)
             && rising (relocs.map (fun r => r.1)) && rising (packs.map (fun p => p.id)) && decide colours.Nodup && packsValid packs
           if ok then some { Kernel.empty with
             st := .loaded, prev := .loaded, secure := v.testBit 49, textSize := f 96 32, regs := f 304 8, wregs := f 312 8, firn := f 320 32,
             spill := f 352 32, role := (match f 384 2 with | 0 => .loader | 1 => .math | _ => .epilogue), lmode := f 386 2, floes := f 416 32,
             relocs := relocs, packs := packs }
           else none
         | _, _ => none)
      | _, _, _, _, _ => none

def kloadBody : CmdBody := fun ctx c args _ s =>
  let k := arg args 1
  if 4096 ≤ k ∨ (s.kernel ctx k).st ≠ .unloaded then .refused s
  else match readImage s c ctx (args.getD 0 0) with
    | some x => .done (s.setKernel ctx k x)
    | none => .refused s

def execKload (src : CmdSource) (s : State) : Host.Outcome State Fault Refusal := runCmd 0x06 kloadBody src s

/-! ## The kernel's other commands (R315, R316) -/

/-- KPLACE: the placement set, by logical core. -/
def kplaceBody : CmdBody := fun ctx c args _ s =>
  let k := arg args 1
  let n := arg args 2
  let core := partCore c.home
  let x := s.kernel ctx k
  if 4096 ≤ k ∨ x.st ≠ .loaded ∨ 768 < n then .refused s
  else match readVirt s core ctx (coreSecure s core) (args.getD 0 0) (16 * n) with
    | .error _ => .refused s
    | .ok bs =>
      let one (v : Nat) : Option (Nat × Dword) :=
        if field v 10 54 ≠ 0 ∨ field v 64 64 % 8 ≠ 0 then none
        else (logicalOf s (field v 0 10)).bind (fun l => if coreValid l && c.parts.contains (partOf l) then some (l, BitVec.ofNat 64 (field v 64 64)) else none)
      match allSome ((records 16 n bs).map one) with
      | none => .refused s
      | some es =>
        if decide (es.map Prod.fst).Nodup then
          .done (s.setKernel ctx k { x with st := .placed, prev := .placed, place := es.foldl (fun t e => Table.insert t e.1 e.2) [] })
        else .refused s

/-- A queue named by a command: its number among the context's partitions. -/
def cmdQueueKey (c : Ctx) (a : Nat) : Option Nat :=
  if field a 35 29 = 0 ∧ field a 12 4 < 12 ∧ c.parts.contains (field a 12 4) = true then some (queueKey (field a 12 4) (field a 0 12)) else none

def kbindBody : CmdBody := fun ctx c args _ s =>
  let k := arg args 0
  let x := s.kernel ctx k
  if 4096 ≤ k ∨ x.st ≠ .placed then .refused s
  else match cmdQueueKey c (arg args 1) with
    | some q => .done (s.setKernel ctx k { x with st := .bound, prev := .bound, queue := some q })
    | none => .refused s

def kunbindBody : CmdBody := fun ctx _ args _ s =>
  let k := arg args 0
  let x := s.kernel ctx k
  if 4096 ≤ k ∨ x.st ≠ .bound then .refused s else .done (s.setKernel ctx k { x with st := .placed, prev := .placed, queue := none })

def kunloadBody : CmdBody := fun ctx _ args _ s =>
  let k := arg args 0
  let x := s.kernel ctx k
  if 4096 ≤ k then .refused s
  else match x.st with
    | .active => .done (s.setKernel ctx k { x with st := .draining })
    | .unloaded => .refused s
    | .draining => .refused s
    | _ => .done (s.setKernel ctx k Kernel.empty)

def execKplace (src : CmdSource) (s : State) : Host.Outcome State Fault Refusal := runCmd 0x07 kplaceBody src s
def execKbind (src : CmdSource) (s : State) : Host.Outcome State Fault Refusal := runCmd 0x08 kbindBody src s
def execKunbind (src : CmdSource) (s : State) : Host.Outcome State Fault Refusal := runCmd 0x09 kunbindBody src s
def execKunload (src : CmdSource) (s : State) : Host.Outcome State Fault Refusal := runCmd 0x0A kunloadBody src s

/-! ## Queues (R326, R328) -/

/-- A queue no longer waits on any event. -/
def State.unlistQueue (s : State) (key : Nat) : State :=
  { s with events := Table.map s.events (fun _ e => { e with waiters := e.waiters.filter (fun w => match w with | .queue k _ => k != key | _ => true) }) }

def qenableBody : CmdBody := fun ctx c args _ s =>
  match cmdQueueKey c (arg args 0) with
  | none => .refused s
  | some key =>
    let part := key / 4096
    let base := (s.part part).qtBase
    let enabled : Bool := match s.queue? key with | some q => q.enabled | none => false
    if enabled ∨ base = 0 then .refused s
    else match readVirt s (partCore part) ctx (queueSecure s key) (base + BitVec.ofNat 64 (64 * (key % 4096))) 64 with
      | .error _ => .refused s
      | .ok bs => match parseQueue s ctx key (natOf bs) with
        | none => .refused s
        | some q =>
          let id := s.takeId
          let n := (Table.keep s.insts (fun k i => k / 2 ^ 32 == ctx && (match i.queue with | some r => r.key == key | none => false))).length
          let s1 := id.2.unlistQueue key
          .done { s1 with queues := Table.insert s1.queues key { q with epoch := id.1, insts := n } }

/-- QDISABLE takes effect between two records; a disable of a queue that is not enabled changes nothing. -/
def qdisableBody : CmdBody := fun _ c args _ s =>
  match cmdQueueKey c (arg args 0) with
  | none => .refused s
  | some key => .done ((s.unlistQueue key).modQueue key (fun q => { q with enabled := false }))

def execQenable (src : CmdSource) (s : State) : Host.Outcome State Fault Refusal := runCmd 0x0B qenableBody src s
def execQdisable (src : CmdSource) (s : State) : Host.Outcome State Fault Refusal := runCmd 0x0C qdisableBody src s

/-! ## KILL, UNHALT -/

/-- A floe killed; copies saved with it come back to its core's mover, to complete or wait there (R180, R187). -/
def State.killFloe (s : State) (h : Nat) : State :=
  match s.floe? h with
  | none => s
  | some f =>
    let s1 := s.floeEnd h true
    if f.state = .saved ∧ s.ctxPlaces f.ctx = true then s1.restoreCopies h f.core else s1

/-- Every floe of an instance killed; none is placed any more. -/
def State.killInst (s : State) (ctx inst : Nat) : State :=
  let hs := Table.keys (Table.keep s.floes (fun _ f => f.ctx == ctx && f.inst == inst && f.state != .retired))
  let s1 := hs.foldl State.killFloe s
  let s2 := { s1 with events := Table.map s1.events (fun k e =>
    if k / 65536 = ctx then { e with waiters := e.waiters.filter (fun w => match w with | .launch i _ => i != inst | _ => true) } else e) }
  s2.modInst ctx inst (fun i => { i with killed := true, wait := none })

def killBody : CmdBody := fun ctx _ args _ s =>
  let i := arg args 0
  if i < 2 ^ 32 ∧ (s.inst? ctx i).isSome = true then .done (s.killInst ctx i) else .refused s

/-- A core leaves retention sleep, where it has entered it (R202): after 2^19 gt or more its L1 copies go. -/
def State.wakeCore (s : State) (core : Nat) : State :=
  let gt := s.coreGt core
  s.modCore core (fun c => { c with
    halted := false, sleepGt := none, l1 := match c.sleepGt with | some g => if g + 2 ^ 19 ≤ gt then [] else c.l1 | none => c.l1 })

def unhaltBody : CmdBody := fun _ c args _ s =>
  let core := arg args 0
  if coreValid core ∧ c.parts.contains (partOf core) = true ∧ (s.core core).halted = true then .done (s.wakeCore core) else .refused s

def execKill (src : CmdSource) (s : State) : Host.Outcome State Fault Refusal := runCmd 0x0D killBody src s
def execUnhalt (src : CmdSource) (s : State) : Host.Outcome State Fault Refusal := runCmd 0x0E unhaltBody src s

/-! ## CREATE, DESTROY (R357, R359, R382) -/

/-- The lowest context number that is FREE. -/
def freeCtx (s : State) : Option Nat := (List.range 12).find? (fun n => (s.ctx? n).isNone)

/-- A tag for context number `n`: none that a context holds, nor the one the number held before. -/
def newTag (s : State) (n : Nat) : BitVec 8 :=
  let used := (Table.vals (Table.keep s.ctxs (fun k c => k == n || c.state != .free))).map (fun c => c.tag)
  (((List.range 256).map (fun i => Config.tagStart n + BitVec.ofNat 8 i)).find? (fun t => !used.contains t)).getD 0

/-- Whether every core of a partition is of a world (R363). -/
def partWorld (s : State) (world : Bool) (p : Nat) : Bool := (coresOfPart p).all (fun c => coreSecure s c == world)

/-- CREATE: a host command of the physical function that names no context. The context is LOADING, its event counts 0 (R320). -/
def createCtx (args : List Dword) (s : State) : Option (State × Nat × Ctx) :=
  let a := arg args 0
  let parts := (List.range 12).filter (fun p => a.testBit p)
  let world := a.testBit 12
  let kid := s.ms.nextKid + 1
  if a / 2 ^ 13 ≠ 0 ∨ arg args 3 / 2 ^ 12 ≠ 0 ∨ parts.isEmpty ∨ parts.any (fun p => (s.ownerOf p).isSome) ∨ arg args 1 % 4096 ≠ 0
    ∨ arg args 2 % 4096 ≠ 0 ∨ !parts.all (partWorld s world) ∨ 2 ^ 20 ≤ kid then none
  else (freeCtx s).map (fun n =>
    let c : Ctx := { Ctx.fresh with
      state := .loading, parts := parts, world := world, tag := newTag s n, keyKid := kid, root := arg args 1, supk := arg args 3,
      saveBase := BitVec.ofNat 64 (arg args 2) }
    let s1 := parts.foldl (fun (t : State) p => t.setPart p Part.fresh) { s with ms := { s.ms with nextKid := kid }, events := Table.keep s.events (fun k _ => k / 65536 != n) }
    (s1.setCtx n c, n, c))

def execCreate (src : CmdSource) (s : State) : Host.Outcome State Fault Refusal :=
  match src with
  | .queued _ => .next s
  | .host fn ctx rsv a b c d =>
    if 12 < fn ∨ s.life.boot ≠ .ready then .next s
    else match (if fn = 0 ∧ ctx = 0 ∧ rsv = false then createCtx [a, b, c, d] s else none) with
      | none => .next (s.hcmd fn 3 8 0 0)
      | some (t, n, x) =>
        let j := t.jNew x.home (jHigh 4 false 15 0 0 Config.deviceId.toNat) 0 0
        .next ((j.1.modCtx n (fun y => { y with pending := some (j.2, some fn) })).hcmd fn 0 0 0 j.2.seq)

/-- create_done (R359): the context is RESIDENT, the command COMPLETED with the number it assigned (R382). -/
def State.created (s : State) (ctx : Nat) : State :=
  match s.ctx? ctx with
  | none => s
  | some c =>
    match c.state, c.pending with
    | .loading, some (j, fn) =>
      let s1 := (s.modCtx ctx (fun x => { x with state := .resident, pending := none })).jSet j 2 0 0
      (match fn with | some n => s1.hcmd n 2 0 ctx j.seq | none => s1)
    | _, _ => s

/-- DESTROY: floes killed, the entries of its instances' batches FAILED with REASON 7 (R332), colours, pins and events freed, queues
disabled, the key discarded; commands that wait fail. -/
def destroyBody : CmdBody := fun ctx c _ _ s =>
  let s1 := { s with ctxs := Table.map s.ctxs (fun k x => if k = ctx then { x with state := .destroyed } else x) }
  let s2 := (Table.keys (Table.keep s1.floes (fun _ f => f.ctx == ctx && f.state != .retired))).foldl (fun (t : State) h => t.floeEnd h true) s1
  let s2a := List.foldl (fun (t : State) (p : Nat × Inst) => p.2.js.foldl (fun (u : State) j => u.jSet j 3 7 (p.1 % 2 ^ 32)) t) s2 (s2.instsOf ctx)
  let s3 := c.cmds.foldl (fun (t : State) k => (match k.fn with | some n => t.hcmd n 3 8 0 k.j.seq | none => t).jSet k.j 3 8 0) s2a
  let s4 := { s3 with
    insts := Table.map s3.insts (fun k i => if k / 2 ^ 32 = ctx then { i with killed := true, wait := none, js := [] } else i)
    colours := Table.keep s3.colours (fun _ x => x.ctx != ctx)
    events := Table.keep s3.events (fun k _ => k / 65536 != ctx)
    queues := Table.map s3.queues (fun _ q => if q.ctx = ctx then { q with enabled := false } else q)
    ms := { s3.ms with pins := s3.ms.pins.filter (fun p => p.1 != ctx) } }
  .done ((s4.modCtx ctx (fun x => { x with keyKid := 0, oldKids := [], rekeyLeft := [], cmds := [], evOps := [], faultRecs := [] })).endPending ctx false)

def execDestroy (src : CmdSource) (s : State) : Host.Outcome State Fault Refusal := runCmd 0x11 destroyBody src s

/-- What a core of a destroyed context keeps of it: nothing. -/
def Core.scrub (ctx : Nat) (tag : BitVec 8) (mine : Bool) (c : Core) : Core :=
  { c with
    l1 := Table.keep c.l1 (fun _ l => l.tag != tag), excl := Table.keep c.excl (fun _ t => t != tag), tlb := c.tlb.filter (fun t => t.tag != tag)
    descCache := Table.keep c.descCache (fun _ t => t.1 != tag), leafCache := c.leafCache.filter (fun t => t.tag != tag)
    scratch := c.scratch.filter (fun r => r.ctx != ctx), slots := Table.keep c.slots (fun _ t => t.ctx != ctx)
    icache := Table.keep c.icache (fun k _ => k / 2 ^ 61 != ctx)
    mxWait := if mine then [] else c.mxWait, halted := if mine then false else c.halted }

/-- SCRUBBED (R359): the partitions' firn is zero with V = 0, every cache and TLB entry of the tag is gone, and the number is FREE. The
number keeps its tag, which its next context may not take. -/
def execScrubbed (ctx : Nat) (s : State) : Host.Outcome State Fault Refusal :=
  match s.ctx? ctx with
  | none => .next s
  | some c =>
    if c.state ≠ .destroyed then .next s
    else
      let mine (core : Nat) : Bool := c.parts.contains (partOf core)
      let wake := (allCores.filter (fun x => mine x && (s.core x).halted)).foldl State.wakeCore s
      let s1 := (Table.keys wake.cores).foldl (fun (t : State) x => t.modCore x (Core.scrub ctx c.tag (mine x))) wake
      let ms := { s1.ms with tlb2 := Table.map s1.ms.tlb2 (fun _ l => l.filter (fun t => t.tag != c.tag)) }
      .next { s1 with
        ms := ms
        firn := Table.keep s1.firn (fun k _ => !mine (k / firnWords))
        mx := Table.keep s1.mx (fun k _ => !mine (k / 2))
        floes := Table.keep s1.floes (fun _ f => f.ctx != ctx)
        insts := Table.keep s1.insts (fun k _ => k / 2 ^ 32 != ctx)
        kernels := Table.keep s1.kernels (fun k _ => k / 4096 != ctx)
        events := Table.keep s1.events (fun k _ => k / 65536 != ctx)
        queues := Table.keep s1.queues (fun _ q => q.ctx != ctx)
        ops := Table.keep s1.ops (fun _ o => o.ctx != ctx)
        copies := Table.keep s1.copies (fun _ k => k.ctx != ctx)
        ctxs := Table.insert s1.ctxs ctx { Ctx.fresh with state := .free, tag := c.tag } }

/-! ## SETSR, HLAUNCH (R383) -/

/-- The registers SETSR may name: those software may write, and SUPK. -/
def setsrPart (n : Nat) : Bool := [0x10, 0x11, 0x12, 0x13, 0x14, 0x16, 0x1A].contains n
def setsrCtx (n : Nat) : Bool := [0x21, 0x23, 0x25, 0x27, 0x28, 0x2A, 0x2B].contains n

def setsrBody : CmdBody := fun ctx c args _ s =>
  let n := arg args 1 % 256
  let part := arg args 1 / 256
  let v := arg args 2
  let may : Bool := match c.state with | .loading => true | .resident => true | .running => true | .saved => true | _ => false
  let t? := if !may ∨ 16 ≤ part ∨ (!srIsLo n ∧ 2 ^ 32 ≤ v) then none
    else if setsrPart n then (if c.parts.contains part then writePart s part n v else none)
    else if setsrCtx n then writeCtx s ctx n v else none
  match t? with
  | some t => .done t
  | none => .refused s

def execSetsr (src : CmdSource) (s : State) : Host.Outcome State Fault Refusal := runCmd 0x12 setsrBody src s

/-- The source number of the host's launches. -/
def hostSource : Nat := 1000000

def hlaunchBody : CmdBody := fun ctx c args _ s =>
  let die := arg args 2
  let va := args.getD 1 0
  let core := engineCore s ctx die
  let may : Bool := c.state == .resident || c.state == .running
  if !may ∨ 4 ≤ die ∨ !c.parts.any (fun p => p / 3 == die) ∨ va.toNat % 64 ≠ 0 ∨ inFirn va then .refused s
  else match readVirt s core ctx (coreSecure s core) va 64 with
    | .error _ => .refused s
    | .ok bs =>
      let v := natOf bs
      if !launchOk (s.kernel ctx (field v 0 12)) v then .refused s
      else
        let r := s.createInst ctx (launchReq v die hostSource)
        if r.2.1 = 0 then { s := r.1, ok := true, inst := r.2.2 } else .refused s

def execHlaunch (src : CmdSource) (s : State) : Host.Outcome State Fault Refusal := runCmd 0x13 hlaunchBody src s

end Sys2Proof.Machine
end

