-- ==== Sys2Proof/Machine/Cvt.lean ====
section
/-! DEFINITION. Class 3, conversions: CVT, CVTI, PACK, UNPK and QSCAN (R124-R129). -/

namespace Sys2Proof.Machine

/-- The formats of CVT's two-bit codes (R124). -/
def cvtFmt : Nat → Fmt
  | 0 => .fp32 | 1 => .fp64 | 2 => .fp16 | _ => .bf16

/-- The bits a source of a format reads (R124). -/
def cvtBits (f : Fmt) (a : Nat) : Nat := a % 2 ^ (1 + f.eb + f.mb)

def opCvt (w : FWord) (a _b _c : Nat) : Nat × Fx :=
  let src := cvtFmt (w.m.toNat / 4)
  let dst := cvtFmt (w.m.toNat % 4)
  fpRound dst false (modeOf w) (src.decode (cvtBits src a), Fx.none)

/-- CVT (R124). -/
def execCvt (w : FWord) (s : State) : Host.Outcome State Fault Refusal := issueF (.cvt w) (fpBody opCvt) s

def opCvti (w : FWord) (a _b _c : Nat) : Nat × Fx :=
  let f : Fmt := if w.m.getLsbD 3 then .fp64 else .fp32
  let n := if w.m.getLsbD 1 then 64 else 32
  let sg := w.m.getLsbD 0
  if w.m.getLsbD 2 then
    let r := numToInt n sg (modeOf w) (f.decode a)
    (wrapBits n r.1, r.2)
  else fpRound f false (modeOf w) (numOfInt (ival n sg a), Fx.none)

/-- CVTI (R125). -/
def execCvti (w : FWord) (s : State) : Host.Outcome State Fault Refusal := issueF (.cvti w) (fpBody opCvti) s

/-! ## Narrow formats (R126) -/

/-- The per-lane format of PACK and UNPK. -/
def narrowFmt (w : FWord) : Fmt :=
  match w.m.toNat with
  | 0 => .fp16 | 1 => .bf16 | 2 => .e4m3 | _ => .e5m2

/-- One element encoded from an FP32 value (R92, R96). -/
def packElem (f : Fmt) (mode : Rnd) (a : Nat) : Nat × Fx := f.roundEncode mode (Fmt.fp32.decode a)

def opPack2 (w : FWord) (a b _c : Nat) : Nat × Fx :=
  let lo := packElem (narrowFmt w) (modeOf w) a
  let hi := packElem (narrowFmt w) (modeOf w) b
  (lo.1 + 2 ^ 16 * hi.1, lo.2.or hi.2)

/-- Four 8-bit elements of the words of a group, the first lowest. -/
def packFour (f : Fmt) (mode : Rnd) (v : Nat) : Nat × Fx :=
  (List.range 4).foldl (fun acc i =>
    let r := packElem f mode (v / 2 ^ (32 * i) % 2 ^ 32)
    (acc.1 + r.1 * 2 ^ (8 * i), acc.2.or r.2)) (0, Fx.none)

/-- The block scale B of a block form (R127, R128): its value for the floe, and its validity. A %lane scale has no one value for the
floe and is a free value (log 22). -/
def blockScale (s : State) (w : FWord) (sh : Shape) (e : Env) : Nat × Bool :=
  if sh.b.src then
    (if w.b = 0xF0 then ((Config.freeWord s.fresh).toNat % 256, true)
     else let r := rdOp s e.f 0 w.b 1; (r.1 % 256, r.2))
  else (immFp w false % 256, true)

/-- The codes of a block's 32 elements, whether a NaN was met, and the conditions raised (R127). -/
def packBlock (l6 : Bool) (mode : Rnd) (e : Nat) (elems : List (Option Nat)) : List Nat × Bool × Fx :=
  let z0 := if l6 then 16 else 0
  elems.foldl (fun acc x =>
    match x with
    | none => (acc.1 ++ [z0], acc.2)
    | some bits =>
      if acc.2.1 then (acc.1 ++ [z0], acc.2)
      else
        let v := Fmt.fp32.decode bits
        let nan := v == .nan
        let r := if l6 then encodeL6 mode (v.scale (127 - (e : Int))) else Fmt.e2m1.roundEncode mode (v.scale (127 - (e : Int)))
        (acc.1 ++ [r.1], nan, acc.2.2.or r.2)) ([], decide (e = 255), Fx.none)

/-- Elements of `bits` bits each as one number, the first lowest (R93). -/
def joinCodes (bits : Nat) : List Nat → Nat
  | [] => 0
  | c :: t => c + 2 ^ bits * joinCodes bits t

/-- PACK's block forms (R127): all 32 lanes of d are written. -/
def packBlockBody (w : FWord) (sh : Shape) (e : Env) (s : State) : Res :=
  if e.exec = 0 then .done s
  else
    let sc := blockScale s w sh e
    let s := if w.b = 0xF0 ∧ sh.b.src then s.takeFresh 1 else s
    if !sc.2 then .done (writeLanes e.f sh.d.writes ((List.range 32).map (fun l => (l, none))) s)
    else
      let l6 := w.m.toNat == 5
      let elems := (List.range 32).map (fun l =>
        let a := rdOp s e.f l w.a 1
        if e.exec.getLsbD l && a.2 then some a.1 else none)
      let r := packBlock l6 (modeOf w) sc.1 elems
      let n := joinCodes (if l6 then 6 else 4) r.1
      let words := if l6 then 6 else 4
      let val (l : Nat) : Nat := if l < words then n / 2 ^ (32 * l) % 2 ^ 32 else if l = 31 then (if r.2.1 then 255 else sc.1) else 0
      .done (writeLanes e.f sh.d.writes ((List.range 32).map (fun l => (l, some (val l)))) (s.orFlags e.h r.2.2))

/-- PACK's body (R127). -/
def packBody (w : FWord) (sh : Shape) (e : Env) (s : State) : Res :=
  if w.m.toNat ≤ 1 then fpBody opPack2 w sh e s
  else if w.m.toNat ≤ 3 then
    finishLanes w sh.d.writes e false ((computeLanes w e).map (fun l =>
      let a := s.rdGroup e.f l sh.a.reads
      (l, if a.2 then some (packFour (narrowFmt w) (modeOf w) a.1) else none))) s
  else packBlockBody w sh e s

/-- PACK (R127). -/
def execPack (w : FWord) (s : State) : Host.Outcome State Fault Refusal := issueF (.pack w) packBody s

/-- UNPK's per-lane forms: element C of the word, exactly (R128). -/
def opUnpk1 (w : FWord) (a _b _c : Nat) : Nat × Fx :=
  let f := narrowFmt w
  let bits := if w.m.toNat ≤ 1 then 16 else 8
  (Fmt.fp32.encode (f.decode (a / 2 ^ (bits * w.c.toNat) % 2 ^ bits)), Fx.none)

/-- UNPK's block forms (R128). -/
def unpkBlockBody (w : FWord) (sh : Shape) (e : Env) (s : State) : Res :=
  let sc := blockScale s w sh e
  let l6 := w.m.toNat == 5
  let bits := if l6 then 6 else 4
  let word (l : Nat) : Nat × Bool := rdOp s e.f l w.a 1
  let one (l : Nat) : Option (Nat × Fx) :=
    let lo := bits * l / 32
    let hi := (bits * l + bits - 1) / 32
    if !(sc.2 && (word lo).2 && (word hi).2) then none
    else
      let code := ((word lo).1 + (if hi = lo then 0 else 2 ^ 32 * (word hi).1)) / 2 ^ (bits * l % 32) % 2 ^ bits
      let v := if l6 then decodeL6 code else Fmt.e2m1.decode code
      if sc.1 = 255 then some (Fmt.fp32.encode .nan, Fx.none)
      else some (fpRound .fp32 false (modeOf w) (v.scale ((sc.1 : Int) - 127), Fx.none))
  let s1 := if w.b = 0xF0 ∧ sh.b.src then s.takeFresh 1 else s
  finishLanes w sh.d.writes e false ((computeLanes w e).map (fun l => (l, one l))) s1

/-- UNPK's body (R128). -/
def unpkBody (w : FWord) (sh : Shape) (e : Env) (s : State) : Res :=
  if w.m.toNat ≤ 3 then fpBody opUnpk1 w sh e s else unpkBlockBody w sh e s

/-- UNPK (R128). -/
def execUnpk (w : FWord) (s : State) : Host.Outcome State Fault Refusal := issueF (.unpk w) unpkBody s

/-- One value for the floe written under R133: once to a uniform D, to every lane of exec of a vector D. -/
def finishFloe (w : FWord) (sh : Shape) (e : Env) (r : Nat × Fx) (s : State) : Res :=
  finishLanes w sh.d.writes e false ((computeLanes w e).map (fun l => (l, some r))) s

/-- The contributing values of a floe-wide instruction: lanes of exec with valid A, ascending (R129, R136). -/
def contributing (s : State) (w : FWord) (e : Env) : List (Nat × Nat) :=
  (maskLanes e.exec).filterMap (fun l => let a := rdOp s e.f l w.a 1; if a.2 then some (l, a.1) else none)

/-- QSCAN's result (R129). -/
def qscanVal (m : Nat) (vals : List Nat) : Nat × Fx :=
  let xs := vals.map (fun v => Fmt.fp32.decode v)
  let emax : Int := match m with | 2 => 8 | 3 => 15 | 4 => 2 | _ => 3
  if xs.any (fun x => match x with | .nan => true | .inf _ => true | _ => false) then (255, Fx.none)
  else
    let big := xs.foldl (fun acc x => numMax acc x.abs) (.fin false 0 0)
    match big with
    | .fin _ n ex => if n = 0 then (0, Fx.none) else encodeE8m0 ((Nat.log2 n : Int) + ex - emax)
    | _ => (0, Fx.none)

/-- QSCAN's body (R129, R133). -/
def qscanBody (w : FWord) (sh : Shape) (e : Env) (s : State) : Res :=
  finishFloe w sh e (qscanVal w.m.toNat ((contributing s w e).map Prod.snd)) s

/-- QSCAN (R129). -/
def execQscan (w : FWord) (s : State) : Host.Outcome State Fault Refusal := issueF (.qscan w) qscanBody s

end Sys2Proof.Machine
end

