-- ==== Sys2Proof/Machine/PageStep.lean ====
section
/-! DEFINITION. The page's instructions and steps: TLBINV and the migration of a page (R391, R392, R398, R399), PAGE_WALK (R389), SEAL_FILL
and REKEY (R393-R397), and PTLOAD (R209, R220). -/

namespace Sys2Proof.Machine

/-! ## TLBINV (R398, R399) -/

/-- Whether a core's hardware lies in the scope of an instruction of `core`: 2 .core, 4 .die, 5 .pkg. -/
def inScope (scope core c : Nat) : Bool :=
  match scope with
  | 2 => c == core
  | 4 => coreDie c == coreDie core
  | _ => true

/-- The entries that a form selects: 0 .va, 1 .all, 2 .tag. -/
def tlbSelects (form ctx a : Nat) (e : TlbEntry) : Bool :=
  match form with
  | 0 => e.ctx == ctx && a / 2 ^ 56 == 0 && decide (e.vbase ≤ a) && decide (a < e.vbase + e.size)
  | 1 => e.ctx == ctx
  | _ => e.tag.toNat == a % 256

/-- The leaf entries under a table, from a level down. -/
def leavesFrom (s : State) : Nat → Nat → Nat → List (Pte × Nat)
  | 0, _, _ => []
  | n + 1, level, base =>
    (List.range (levelEntries level)).flatMap (fun i =>
      let ea := base + 16 * i
      let e : Pte := BitVec.ofNat 128 (s.ms.nat ea 16)
      if !paExists ea || !e.v || e.malformed level then [] else if e.leaf then [(e, level)] else leavesFrom s n (level - 1) e.addr)

/-- The frames in this device that a context's leaf entries name, as (base, size, protocol slot). -/
def framesOf (s : State) (c : Ctx) : List (Nat × Nat × Nat) :=
  (leavesFrom s 5 4 c.root).filterMap (fun l => if l.1.remote then none else some (l.1.addr, 2 ^ levelShift l.2, l.1.prot))

/-- Pins of a context on lines that no leaf of it maps any more are released (R213), and the marks of its pages that have left slot 3 are
cleared (R206). -/
def State.settlePages (s : State) (ctx : Nat) : State :=
  match s.ctx? ctx with
  | none => s
  | some c =>
    if s.ms.marks.isEmpty ∧ !(s.ms.pins.any (fun p => p.1 == ctx)) then s
    else
      let frames := framesOf s c
      let inside (line : Nat) (f : Nat × Nat × Nat) : Bool := decide (f.1 / 256 ≤ line) && decide (line < (f.1 + f.2.1) / 256)
      { s with ms := { s.ms with
          pins := s.ms.pins.filter (fun p => p.1 != ctx || frames.any (inside p.2.2))
          marks := Table.keep s.ms.marks (fun k _ => !frames.any (fun f => inside k f && f.2.2 != 3) || frames.any (fun f => inside k f && f.2.2 == 3)) } }

/-- Entries dropped from the TLBs in scope, whose descriptor caches are emptied and where the words of code that `code` names by context and
address are discarded, those that floes have fetched ahead with them. -/
def State.tlbDrop (s : State) (core scope : Nat) (sel : TlbEntry → Bool) (code : Nat → Nat → Bool) : State :=
  let dies := if scope = 5 then [0, 1, 2, 3] else [coreDie core]
  let ms := { s.ms with tlb2 := Table.map s.ms.tlb2 (fun d l => if dies.contains d then l.filter (fun e => !sel e) else l) }
  let stays (k : Nat) : Bool := !code (k / 2 ^ 61) (k % 2 ^ 61 * 8)
  { s with
    ms := ms
    cores := Table.map s.cores (fun c k => if inScope scope core c then
      { k with tlb := k.tlb.filter (fun e => !sel e), descCache := [], icache := Table.keep k.icache (fun w _ => stays w) } else k)
    floes := Table.map s.floes (fun _ f => if inScope scope core f.core then { f with ibuf := Table.keep f.ibuf (fun w _ => stays w) } else f) }

/-- The words of code that a form names: those in the largest page that may hold the address, of the context, or of contexts with the tag. -/
def codeSelects (s : State) (form ctx a c va : Nat) : Bool :=
  match form with
  | 0 => c == ctx && va / 2 ^ 30 == a / 2 ^ 30
  | 1 => c == ctx
  | _ => (s.ctxTag c).toNat == a % 256

/-- Whether an access that went to a place of this device or another was translated by an entry that a form selects: for .va by one of a size
at which the page of the access holds the address. -/
def accessSelects (s : State) (form ctx a c : Nat) (va : Dword) (v : View) : Bool :=
  match v with
  | .firn _ _ => false
  | .mem p | .remote p =>
    match form with
    | 0 => c == ctx && [16, 21, 30].any (fun k =>
        let base := va.toNat - (p.pa - p.pte.addr)
        base % 2 ^ k == 0 && p.pte.addr % 2 ^ k == 0 && decide (base ≤ a) && decide (a < base + 2 ^ k) && decide (va.toNat < base + 2 ^ k))
    | 1 => c == ctx
    | _ => (s.ctxTag c).toNat == a % 256

/-- The operations and copies in scope with an access on its way that a selected entry has translated (R399). -/
def State.tlbUsers (s : State) (core ctx : Nat) (w : FWord) (a : Nat) : List Nat :=
  let form := w.m.toNat % 4
  Table.keys (Table.keep s.ops (fun _ o => inScope w.s.toNat core o.core && o.state == .inFlight && o.lanes.any (fun la =>
      !la.done && (match la.place with | some v => accessSelects s form ctx a o.ctx la.va v | none => false))))
    ++ Table.keys (Table.keep s.copies (fun _ c => inScope w.s.toNat core c.core && c.rest.any (fun k =>
      (match (c.elem k).src with | some v => accessSelects s form ctx a c.ctx (c.desc.srcAt k) v | none => false)
        || (match (c.elem k).dst with | some v => accessSelects s form ctx a c.ctx (c.desc.dstAt k) v | none => false))))

/-- The effect of .va, .all and .tag. -/
def State.tlbinv (s : State) (core ctx : Nat) (w : FWord) (a : Nat) : State :=
  let form := w.m.toNat % 4
  let t := s.tlbDrop core w.s.toNat (tlbSelects form ctx a) (codeSelects s form ctx a)
  if form = 2 then (Table.keys (Table.keep s.ctxs (fun _ c => c.tag.toNat == a % 256))).foldl State.settlePages t else t.settlePages ctx

/-! ## The migration of a page (R392) -/

/-- The leaf entry for an address, with the physical address it lies at and its level. -/
def leafEntry (s : State) (va : Nat) : Nat → Nat → Nat → Option (Nat × Pte × Nat)
  | 0, _, _ => none
  | n + 1, level, base =>
    let ea := base + 16 * (va / 2 ^ levelShift level % levelEntries level)
    let e : Pte := BitVec.ofNat 128 (s.ms.nat ea 16)
    if !paExists ea || !e.v || e.malformed level then none
    else if e.leaf then some (ea, e, level)
    else leafEntry s va n (level - 1) e.addr

/-- A table with the keys of a range replaced by those of another range. -/
def shiftRange {α : Type} (t : Table α) (src dst n : Nat) (f : Nat → α → Option α) : Table α :=
  let kept := Table.keep t (fun k _ => !(decide (dst ≤ k) && decide (k < dst + n)))
  List.foldl (fun (u : Table α) (p : Nat × α) => match f p.1 p.2 with | some v => Table.insert u (p.1 - src + dst) v | none => u) kept
    (Table.keep t (fun k _ => decide (src ≤ k) && decide (k < src + n)))

/-- The copies of a frame's lines and their directory entries gone, dirty seal blocks written back, pins released; a write that waits for an
acknowledgement on one waits no more. -/
def State.recallFrame (s0 : State) (c : Ctx) (pa n : Nat) : State :=
  let dirty := (Table.keys s0.ms.sealHeld).filter (fun b => decide (pa / 4096 ≤ b) && decide (b < (pa + n) / 4096))
  let s := dirty.foldl (fun (t : State) b => t.sealWriteback b (if c.holdsKid (t.sealMeta b).kid then c.keyKid else (t.sealMeta b).kid)) s0
  let mine (line : Nat) : Bool := decide (pa / 256 ≤ line) && decide (line < (pa + n) / 256)
  let ms := { s.ms with
    l2 := Table.keep s.ms.l2 (fun k _ => !mine (k % 2 ^ 44)), dir := Table.keep s.ms.dir (fun k _ => !mine k)
    pins := s.ms.pins.filter (fun p => !mine p.2.2) }
  { s with
    ms := ms
    cores := Table.map s.cores (fun _ k => { k with l1 := Table.keep k.l1 (fun l _ => !mine l), excl := Table.keep k.excl (fun w _ => !mine (w / 64)) })
    ops := Table.map s.ops (fun _ o => { o with waitAcks := o.waitAcks.filter (fun l => !mine l), granted := o.granted.filter (fun l => !mine l) }) }

/-- The write-once marks of a frame cleared (R206). -/
def State.clearMarks (s : State) (pa n : Nat) : State :=
  { s with ms := { s.ms with marks := Table.keep s.ms.marks (fun line _ => !(decide (pa / 256 ≤ line) && decide (line < (pa + n) / 256))) } }

/-- The frame's bytes at the new place: data of a sealed page under the next version, a block that fails its check poisoned; the bytes that
an unsealed page reads otherwise. -/
def State.copyFrame (s : State) (ctx : Nat) (c : Ctx) (e : Pte) (old new n : Nat) : State :=
  let blocks := n / 4096
  let cipher := (Table.keys (Table.keep s.ms.sealTab (fun k m => decide (old / 4096 ≤ k) && decide (k < (old + n) / 4096) && m.kid != 0 && m.status == 0)))
  let mem := shiftRange s.ms.mem old new n (fun k v =>
    if e.sealed then (if c.holdsKid (s.sealMeta (k / 4096)).kid && (s.sealMeta (k / 4096)).status == 0 then some v else none) else some v)
  let s1 : State := { s with ms := { s.ms with mem := mem, poison := shiftRange s.ms.poison (old / 32) (new / 32) (n / 32) (fun _ v => some v) } }
  if e.sealed then
    (List.range blocks).foldl (fun (t : State) i =>
      let m := s.sealMeta (old / 4096 + i)
      let st := if m.status = 0 ∨ !c.holdsKid m.kid then 0 else 1
      t.setSeal (new / 4096 + i) ⟨m.version + 1, c.keyKid, st⟩) s1
  else
    let s2 := (Table.keys (Table.keep s.ms.sealTab (fun k m => decide (new / 4096 ≤ k) && decide (k < (new + n) / 4096) && m.kid != 0 && m.status == 0))).foldl
      (fun (t : State) b => t.setSeal b { t.sealMeta b with status := 2 }) s1
    cipher.foldl (fun (t : State) b => { t with ms := t.ms.setBytes (4096 * b - old + new) ((List.range 4096).map (fun i => readThrough s ctx e (4096 * b + i))) }) s2

/-- Whether two frames of one size overlap. -/
def framesMeet (x y n : Nat) : Bool := decide (x < y + n) && decide (y < x + n)

/-- Whether some block of a frame has the last version. -/
def lastVersion (s : State) (pa n : Nat) : Bool :=
  (Table.search s.ms.sealTab (fun k m => decide (pa / 4096 ≤ k) && decide (k < (pa + n) / 4096) && m.version == 2 ^ 40 - 1)).isSome

/-- The start of TLBINV.mig: the machine with the page under way and its frame locked, or the status it ends with. -/
def State.migrateStart (s : State) (h : Nat) (f : Floe) (a b : Nat) : State × Option Nat :=
  match s.ctx? f.ctx with
  | none => (s, some 2)
  | some c =>
    let found : Bool := decide (a / 2 ^ 56 = 0) && (match walk s c (coreSecure s f.core) a with | .ok _ => true | .error _ => false)
    match (if found then leafEntry s a 5 4 c.root else none) with
    | none => (s, some 2)
    | some (ea, e, level) =>
      let n := 2 ^ levelShift level
      let old := e.addr
      let world := (List.range (n / 65536)).all (fun i => regionSecure s (b + 65536 * i) == e.secure && !sealReserved s (b + 65536 * i))
      if e.dom then (s, some 2)
      else if s.ms.migrations.any (fun m => m.ea == ea) then (s, some 3)
      else if b % n ≠ 0 ∨ !paExists b ∨ !paExists (b + n - 1) ∨ framesMeet old b n ∨ !world then (s, some 1)
      else
        let s1 := s.recallFrame c old n
        if e.sealed && lastVersion s1 old n then (s1, some 4)
        else ({ s1 with ms := { s1.ms with migrations := s1.ms.migrations ++ [⟨f.ctx, h, a, ea, e, old, b, n⟩] } }, none)

/-- A place in a frame that has moved, in its new frame. -/
def Migration.moves (m : Migration) : View → View
  | .mem p => if m.old ≤ p.pa ∧ p.pa < m.old + m.size then .mem { p with pa := p.pa - m.old + m.new } else .mem p
  | v => v

/-- Accesses on their way go to the new frame: those of the context, and every write, which the lock has held (R240, R392). -/
def State.moveAccesses (s : State) (m : Migration) : State :=
  { s with
    ops := Table.map s.ops (fun _ o => if o.writes ∨ o.ctx = m.ctx then { o with lanes := o.lanes.map (fun la => { la with place := la.place.map m.moves }) } else o)
    copies := Table.map s.copies (fun _ c => { c with
      elems := Table.map c.elems (fun _ x => { x with dst := x.dst.map m.moves, src := if c.ctx = m.ctx then x.src.map m.moves else x.src }) }) }

/-- A held write performed on the new frame, in its turn. -/
def State.heldWrite (m : Migration) (s : State) (id : Nat) : State :=
  match Table.find? s.ops id with
  | none => s
  | some q =>
    let o := q.todo
    let now := o.lanes.filter (fun la => match la.place with | some (.mem p) => decide (m.new ≤ p.pa) && decide (p.pa < m.new + m.size) | _ => false)
    if !q.writes || q.left.isNone || q.state != .inFlight || now.isEmpty || (o.faultNow? s).isSome || !ownFirst s id o || !arrivalFirst s id o then s
    else s.lanesNow id o now

/-- The end of TLBINV.mig: the frame copied and the entry written, its translations dropped, the switch, the held writes performed in their
order of arrival, and status 0. -/
def State.migrateEnd (s : State) (h : Nat) (f : Floe) (d : List Reg) : State :=
  match s.ms.migrations.find? (fun m => m.floe == h), s.ctx? f.ctx with
  | some m, some c =>
    let s1 := ((((s.copyFrame m.ctx c m.pte m.old m.new m.size).recallFrame c m.old m.size).recallFrame c m.new m.size).clearMarks m.old m.size).clearMarks m.new m.size
    let entry := bytesOf 16 (m.pte.toNat % 2 ^ 64 + m.new * 2 ^ 64)
    let s2 := (List.range 16).foldl (fun (t : State) i => t.engineByte 1 f.core f.ctx 0 (m.ea + i) (entry.getD i 0)) s1
    let s3 := s2.tlbDrop f.core 5 (tlbSelects 0 f.ctx m.va) (codeSelects s2 0 f.ctx m.va)
    let s4 := State.moveAccesses { s3 with ms := { s3.ms with migrations := s3.ms.migrations.filter (fun x => x.floe != h) } } m
    let s5 := (Table.keys (leftOrder (Table.keep s4.ops (fun _ o => o.left.isSome)))).foldl (State.heldWrite m) s4
    s5.wrGroup f 0 true d 0
  | _, _ => s

/-- The drop of a TLBINV, which then waits for the accesses that what it dropped has translated. -/
def State.tlbinvWait (s : State) (h : Nat) (f : Floe) (w : FWord) (a : Nat) : State :=
  let left := s.tlbUsers f.core f.ctx w a
  let t := s.tlbinv f.core f.ctx w a
  if left.isEmpty then t else t.waitOn h (.ops left .used)

/-- TLBINV. -/
def tlbinvBody (w : FWord) (sh : Shape) (e : Env) (s : State) : Res :=
  let form := w.m.toNat % 4
  let a := if form = 1 then (0, true) else rdOp s e.f 0 w.a (if form = 2 then 1 else 2)
  let b := if form = 3 then rdOp s e.f 0 w.b 2 else (0, true)
  if e.exec = 0 ∨ !(a.2 && b.2) then .done s
  else if form = 3 then
    match s.migrateStart e.h e.f a.1 b.1 with
    | (t, some st) => .done (t.wrGroup e.f 0 true sh.d.writes st)
    | (t, none) => .done (t.waitOn e.h (.migrate sh.d.writes))
  else .done (waitOr e.h (.ops (s.storesOf e.h) (.tlbinv w a.1)) e.f s (fun t => t.tlbinvWait e.h e.f w a.1))

def execTlbinv (w : FWord) (s : State) : Host.Outcome State Fault Refusal := issueF (.tlbinv w) tlbinvBody s

/-! ## PAGE_WALK (R389) -/

/-- An entry joins a TLB of `n` entries; a full one gives up an entry (log 9). -/
def tlbAdd (gt n : Nat) (l : List TlbEntry) (e : TlbEntry) : List TlbEntry :=
  (if n ≤ l.length then l.eraseIdx (Config.victim gt (l.map (fun k => k.vbase)) % n) else l) ++ [e]

/-- PAGE_WALK: a walk for an address of a context ends at a leaf, which the TLBs of the core and its die then hold, in the place of what they held
for the address, as replacement may (R389, R391); one that ends at a fault or a malformed entry holds nothing (R390). -/
def execPageWalk (core ctx : Nat) (va : Dword) (s : State) : Host.Outcome State Fault Refusal :=
  match s.ctx? ctx with
  | none => .next s
  | some c =>
    let d := coreDie core
    let others (l : List TlbEntry) : List TlbEntry := l.filter (fun e => !e.hits ctx c.tag va.toNat)
    let hold (e : List TlbEntry) : State :=
      let ms := { s.ms with tlb2 := Table.insert s.ms.tlb2 d (e.foldl (tlbAdd s.gt 16384) (others (Table.getD s.ms.tlb2 [] d))) }
      State.modCore { s with ms := ms } core (fun k => { k with tlb := e.foldl (tlbAdd s.gt 64) (others k.tlb) })
    if !coreValid core || va.extractLsb' 56 8 != 0 then .next s
    else match walk s c (coreSecure s core) va.toNat with
      | .error _ => .next (hold [])
      | .ok (p, level) =>
        let n := 2 ^ levelShift level
        .next (hold [{ tag := c.tag, ctx := ctx, vbase := va.toNat / n * n, size := n, pbase := p.addr, pte := p }])

/-! ## Seal blocks: REKEY, SEAL_FILL (R394-R397) -/

/-- The blocks of a key in the sealed frames of a context. -/
def blocksOf (s : State) (c : Ctx) (kid : Nat) : List Nat :=
  let frames := (leavesFrom s 5 4 c.root).filter (fun l => l.1.sealed)
  Table.keys (Table.keep s.ms.sealTab (fun b m => m.kid == kid &&
    frames.any (fun l => decide (l.1.addr / 4096 ≤ b) && decide (b < (l.1.addr + 2 ^ levelShift l.2) / 4096))))

/-- The last block of a REKEY is done: the old key goes, the key generation rises, the command is COMPLETED. -/
def State.endRekey (s : State) (ctx : Nat) : State :=
  match s.ctx? ctx with
  | none => s
  | some c =>
    match c.rekeying with
    | none => s
    | some (j, fn) =>
      if !c.rekeyLeft.isEmpty then s
      else
        let s1 := (s.jSet j 2 0 0).modCtx ctx (fun x => { x with rekeying := none, oldKids := [], keyGen := x.keyGen + 1 })
        match fn with | some n => s1.hcmd n 2 0 0 j.seq | none => s1

/-- REKEY (R397): a new key, and the blocks of the old one to be encrypted again. -/
def rekeyBody : CmdBody := fun ctx c args j s =>
  let kid := s.ms.nextKid + 1
  let may : Bool := c.state == .running || c.state == .resident
  if !may ∨ args.any (fun x => x != 0) = true ∨ c.rekeying.isSome ∨ 2 ^ 20 ≤ kid then .refused s
  else
    let s1 : State := { s with ms := { s.ms with nextKid := kid } }
    let s2 := s1.modCtx ctx (fun x => { x with keyKid := kid, oldKids := [c.keyKid], rekeyLeft := blocksOf s c c.keyKid, rekeying := some j })
    { s := s2.endRekey ctx, ok := true, later := true }

def execRekey (src : CmdSource) (s : State) : Host.Outcome State Fault Refusal := runCmd 0x02 rekeyBody src s

/-- SEAL_FILL (R394-R397): the fill of a block of the context's key at its home. A block that was held there with data not written back has
been evicted, and so written back, before. A block whose tag fails is counted there; a block that a REKEY has left is encrypted under the new key with version 0, or poisoned where its check fails. -/
def execSealFill (ctx block : Nat) (s0 : State) : Host.Outcome State Fault Refusal :=
  match s0.ctx? ctx with
  | none => .next s0
  | some c =>
    if !paExists (4096 * block) ∨ !c.holdsKid (s0.sealMeta block).kid then .next s0
    else
      let s := s0.sealWriteback block c.keyKid
      let m := s.sealMeta block
      let s1 := if m.status = 2 then s.countUp (0x40 + 4 * homeDie (4096 * block)) else s
      if c.rekeyLeft.contains block then
        let new : SealMeta := if m.status = 0 then ⟨0, c.keyKid, 0⟩ else { m with status := 1 }
        let s2 := if c.oldKids.contains m.kid then s1.setSeal block new else s1
        .next ((s2.modCtx ctx (fun x => { x with rekeyLeft := x.rekeyLeft.filter (· != block) })).endRekey ctx)
      else .next s1

/-! ## PTLOAD (R207, R209, R220) -/

/-- The entries of a table image, and its header fields NST, OWNED, LEASE. -/
def tableEntries (v : Nat) : List Word := (List.range 48).map (fun i => BitVec.ofNat 32 (field v (512 + 32 * i) 32))

/-- The states reachable from state 0 through NEXT. -/
def reachStates (nst : Nat) (es : List Word) : Nat → List Nat → List Nat
  | 0, l => l
  | n + 1, l => reachStates nst es n (((List.range (nst + 1)).filter (fun t => l.contains t ||
      l.any (fun q => (List.range 6).any (fun m => entNext (es.getD (6 * q + m) 0) == t)))))

/-- The first check of R209 that a table fails; 0 for one that passes. -/
def tableStatus (v : Nat) : Nat :=
  let nst := field v 0 3
  let owned (q : Nat) : Bool := (field v 8 8).testBit q
  let es := tableEntries v
  let at_ (q m : Nat) : Word := es.getD (6 * q + m) 0
  let each (p : Nat → Nat → Word → Bool) : Bool := (List.range 8).all (fun q => (List.range 6).all (fun m => p q m (at_ q m)))
  let acts (w : Word) : Nat := field w.toNat 4 16
  if field v 3 5 ≠ 0 ∨ field v 29 483 ≠ 0 ∨ 4096 < field v 16 13 then 1
  else if !each (fun q _ w => if nst < q then w == 0
      else !(entAct w 10 && acts w != 2 ^ 10) && !(entAct w 4 && entAct w 5) && !(entAct w 7 && entAct w 8) && decide (entNext w ≤ nst)) then 2
  else if !each (fun q m w => (!entAct w 7 || !owned q || (entAct w 9 && entAct w 8)) && (!(owned q && (m == 1 || m == 2) && decide (q ≤ nst)) || entAct w 9 || entAct w 10)) then 3
  else if !each (fun q _ w => decide (nst < q) || (w.getLsbD 3 && (!entAct w 10 || entRetry w != 0))) then 4
  else if !each (fun _ _ w => decide (acts w < 2 ^ 14) && field w.toNat 24 8 == 0) then 5
  else if !((List.range (nst + 1)).all (fun q => (reachStates nst es 8 [0]).contains q)) then 6
  else 0

/-- A table installed in a slot: every copy of its lines is recalled. -/
def State.installTable (s : State) (slot v : Nat) : State :=
  let lines := Table.keys (Table.keep s.ms.dir (fun _ d => d.slot == slot))
  let ms := { s.ms with
    slots := s.ms.slots.set slot ⟨field v 16 13, some (field v 0 3, field v 8 8, tableEntries v)⟩
    dir := Table.keep s.ms.dir (fun k _ => !lines.contains k), l2 := Table.keep s.ms.l2 (fun k _ => !lines.contains (k % 2 ^ 44)) }
  { s with
    ms := ms
    cores := Table.map s.cores (fun _ c => { c with l1 := [], excl := [] })
    ops := Table.map s.ops (fun _ o => { o with waitAcks := o.waitAcks.filter (fun l => !lines.contains l), granted := o.granted.filter (fun l => !lines.contains l) }) }

/-- PTLOAD. -/
def ptloadBody (w : FWord) (sh : Shape) (e : Env) (s : State) : Res :=
  let slot := w.c.toNat
  let put (n : Nat) (t : State) : Res := .done (t.wrGroup e.f 0 true sh.d.writes n)
  if e.exec = 0 then .done s
  else if w.m.getLsbD 0 then
    let b := rdOp s e.f 0 w.b 1
    if !b.2 ∨ 4096 < b.1 then put 1 s
    else
      let old := s.ms.slots.getD slot ⟨0, none⟩
      put 0 { s with ms := { s.ms with slots := s.ms.slots.set slot { old with lease := b.1 } } }
  else
    let a := rdOp s e.f 0 w.a 2
    if !a.2 then .done (writeUni e.f sh.d.writes none s)
    else withBlock s e (BitVec.ofNat 64 a.1) 256 256 (fun bs =>
      let st := tableStatus (natOf bs)
      if st ≠ 0 then put st s else put 0 (s.installTable slot (natOf bs)))

def execPtload (w : FWord) (s : State) : Host.Outcome State Fault Refusal := issueF (.ptload w) ptloadBody s

end Sys2Proof.Machine
end

