-- ==== Sys2Proof/Machine/Link.lean ====
section
/-! DEFINITION. Class 14 (R417-R422): RLD, RWR, RATOM, HALO, COLL and MSG; the messages of the fabric as they are delivered here (R411-R414);
requests that are never answered (R412). -/

namespace Sys2Proof.Machine

/-! ## RLD, RWR, RATOM (R418) -/

/-- RLD: LDA, whose lanes on another device travel. -/
def rldBody (w : FWord) (sh : Shape) (e : Env) (s : State) : Res :=
  let n := accessSize w
  issueLanes { newOp s e w .load with
    off := accessOff w n false, size := n, signed := w.m.getLsbD 0, uniform := Code.isUni w.d, d := sh.d.writes, acq := yAcq w,
    ac := some w.c.toNat, interlock := false, info := rldMark } e s

def execRld (w : FWord) (s : State) : Host.Outcome State Fault Refusal := issueF (.rld w) rldBody s
def execRwr (w : FWord) (s : State) : Host.Outcome State Fault Refusal := issueF (.rwr w) (storeBody (fun _ _ _ => .store) true) s
def execRatom (w : FWord) (s : State) : Host.Outcome State Fault Refusal := issueF (.ratom w) (atomBody (atomOpOf w.c.toNat) true false) s

/-! ## HALO (R298, R299, R419) -/

/-- The entries of a halo descriptor: source leaf, destination leaf, destination (device·4 + die), channel mask. -/
def haloEntries (v : Nat) : List (Nat × Nat × Nat × Nat) :=
  (List.range (field v 0 16)).map (fun i =>
    let e := field v (512 + 128 * i) 128
    (field e 0 32, field e 32 32, field e 64 19 * 4 + field e 83 2, field e 88 8))

/-- Whether a halo descriptor stands within its values for a source tree of `lcap` leaves. -/
def haloOk (t : TreeDesc) (slot : Nat) (lcap v : Nat) : Bool :=
  let n := field v 0 16
  decide (1 ≤ n) && decide (n ≤ 4096) && field v 64 64 % 256 == 0 && field v 128 16 == field slot 168 16 && field v 144 368 == 0
    && (List.range n).all (fun i =>
      let e := field v (512 + 128 * i) 128
      decide (field e 0 32 < lcap) && field e 85 3 == 0 && field e 88 8 != 0 && field e 96 32 == 0
        && (List.range 8).all (fun c => !(field e 88 8).testBit c || t.ch.getD c 0 != 0))

/-- The destinations of a descriptor, each once. -/
def haloDests (v : Nat) : List Nat := ((haloEntries v).map (fun e => e.2.2.1)).eraseDups

/-- HALO's operation for a descriptor against a slot's tree, once it stands within its values. -/
def haloIssue (w : FWord) (e : Env) (s : State) (t : TreeDesc) (slot lcap v : Nat) : Res :=
  let o := { newOp s e w .halo with
    isSt := true, interlock := false, uniform := true, rel := true, scope := 5, vals := [v, slot], after := s.afterOf e.h true }
  if !haloOk t slot lcap v then .trap { cause := .descriptorInvalid, lanes := e.exec } s
  else if (haloDests v).any (fun d => d / 4 != Config.deviceId.toNat && !reachable s (d / 4)) then .trap { cause := .linkUnreachable, lanes := e.exec } s
  else if e.f.classFull o then .stall s
  else .done (s.addOp o)

/-- HALO: the descriptor is read and checked at issue; the sources are read after what its release covers. -/
def haloBody (w : FWord) (_sh : Shape) (e : Env) (s : State) : Res :=
  let a := rdOp s e.f 0 w.a 2
  let va : Dword := BitVec.ofNat 64 a.1
  if e.exec = 0 ∨ a.2 = false then .done s
  else match Table.find? (s.core e.f.core).slots w.s.toNat with
    | none => .trap { cause := .treeDescriptor, lanes := e.exec } s
    | some sl =>
      match parseTree sl.desc with
      | none => .trap { cause := .treeDescriptor, lanes := e.exec } s
      | some t =>
        withBlock s e va 64 64 (fun hd =>
          let n := field (natOf hd) 0 16
          if n = 0 ∨ 4096 < n then .trap { cause := .descriptorInvalid, lanes := e.exec } s
          else withBlock s e va (64 + 16 * n) 64 (fun bs =>
            withBlock s e (BitVec.ofNat 64 (t.base + 12)) 4 4 (fun lc => haloIssue w e s t (natOf sl.desc) (natOf lc) (natOf bs))))

def execHalo (w : FWord) (s : State) : Host.Outcome State Fault Refusal := issueF (.halo w) haloBody s

/-- The runs of bytes that a descriptor copies to one destination: source address, destination address, length. -/
def haloRuns (t : TreeDesc) (v dest : Nat) : List (Nat × Nat × Nat) :=
  ((haloEntries v).filter (fun e => e.2.2.1 == dest)).flatMap (fun e =>
    let src := leafAt t e.1
    let dst := field v 64 64 + leafSize t * e.2.1
    ((List.range 8).filter (fun c => e.2.2.2.testBit c)).flatMap (fun c =>
      [(src + chanOff t c, dst + chanOff t c, 512 * chanBytes t c), (src + 32 + 4 * c, dst + 32 + 4 * c, 4), (src + 64 + 4 * c, dst + 64 + 4 * c, 4)]))

/-- The words of some runs in order: source and destination address (R448). -/
def haloWords (runs : List (Nat × Nat × Nat)) : List (Nat × Nat) :=
  runs.flatMap (fun r => (List.range (r.2.2 / 4)).map (fun i => (r.1 + 4 * i, r.2.1 + 4 * i)))

/-- One word copied on this device. -/
def haloCopy (core ctx : Nat) (s : State) (r : Nat × Nat) : Except (Cause × Dword) State :=
  match readVirt s core ctx (coreSecure s core) (BitVec.ofNat 64 r.1) 4 with
  | .error x => .error x
  | .ok bs => writeVirt s core ctx (coreSecure s core) (BitVec.ofNat 64 r.2) bs

/-- Whether nothing holds the writes of some words (R200, R240). -/
def haloFree (core ctx : Nat) (s : State) (ws : List (Nat × Nat)) : Bool :=
  ws.all (fun r => writeFree s core ctx (coreSecure s core) (BitVec.ofNat 64 r.2) 4)

/-- Words copied in order, or the first fault. -/
def haloCopies (core ctx : Nat) : List (Nat × Nat) → State → Except (Cause × Dword) State
  | [], s => .ok s
  | r :: t, s => match haloCopy core ctx s r with | .error x => .error x | .ok s1 => haloCopies core ctx t s1

/-- A run read and cut into pieces for messages. -/
def haloPieces (core ctx : Nat) (s : State) (r : Nat × Nat × Nat) : Except (Cause × Dword) (List (Nat × List Byte)) :=
  match readVirt s core ctx (coreSecure s core) (BitVec.ofNat 64 r.1) r.2.2 with
  | .error x => .error x
  | .ok bs => .ok ((List.range ((bs.length + 2039) / 2040)).map (fun i => (r.2.1 + 2040 * i, (bs.drop (2040 * i)).take 2040)))

/-- The pieces of every run, or the first fault. -/
def haloAll (core ctx : Nat) (s : State) : List (Nat × Nat × Nat) → Except (Cause × Dword) (List (Nat × List Byte))
  | [] => .ok []
  | r :: t => match haloPieces core ctx s r, haloAll core ctx s t with
    | .error x, _ => .error x
    | _, .error x => .error x
    | .ok a, .ok b => .ok (a ++ b)

/-- The parts of a HALO operation: the descriptor and the tree. -/
def haloOf (o : Op) : Nat × Option TreeDesc := (o.vals.getD 0 0, parseTree (bytesOf 64 (o.vals.getD 1 0)))

/-- The words that a HALO has still to copy to a destination of this device, each with the key it is noted by once it has. -/
def haloLeft (o : Op) (t : TreeDesc) (dest : Nat) : List ((Nat × Nat) × Nat) :=
  ((haloWords (haloRuns t (haloOf o).1 dest)).mapIdx (fun i w => (w, 4 * i + dest % 4))).filter (fun w => (Table.find? o.far w.2).isNone)

/-- One word of a destination of this device copied before those ahead of it, none of which goes to the same place (R448). -/
def State.haloEarly (s : State) (op dest k : Nat) : State :=
  match Table.find? s.ops op with
  | none => s
  | some o =>
    match (if o.kind = .halo ∧ o.ready s = true ∧ dest / 4 = Config.deviceId.toNat ∧ !o.info.contains dest then (haloOf o).2 else none) with
    | none => s
    | some t =>
      match (haloLeft o t dest)[k]? with
      | none => s
      | some w =>
        if ((haloLeft o t dest).take k).any (fun x => x.1.2 == w.1.2) || !haloFree o.core o.ctx s [w.1] then s else match haloCopy o.core o.ctx s w.1 with
        | .error _ => s
        | .ok s1 => s1.modOp op (fun q => { q with far := Table.insert q.far w.2 ⟨0, none⟩ })

/-- HALO_DESTINATION_SIGNAL (R299): a descriptor's writes at a destination and then its event there; to another device, its messages with the
marker last (log 26). -/
def execHaloDestinationSignal (op dest : Nat) (s : State) : Host.Outcome State Fault Refusal :=
  match Table.find? s.ops op with
  | none => .next s
  | some o =>
    let v := (haloOf o).1
    match (if o.kind = .halo ∧ o.ready s = true ∧ (haloDests v).contains dest = true ∧ !o.info.contains dest ∧ !o.granted.contains dest then (haloOf o).2 else none) with
    | none => .next s
    | some t =>
      let runs := haloRuns t v dest
      let ev := field v 16 16
      if dest / 4 = Config.deviceId.toNat then
        let ws := (haloLeft o t dest).map Prod.fst
        .next (if !haloFree o.core o.ctx s ws then s else match haloCopies o.core o.ctx ws s with
          | .error _ => s
          | .ok s1 => (s1.signal o.ctx ev 1 []).modOp op (fun q => { q with info := q.info ++ [dest] }))
      else if !reachable s (dest / 4) then .next (s.modOp op (fun q => { q with failed := true }))
      else match haloAll o.core o.ctx s runs with
        | .error _ => .next s
        | .ok ps =>
          let msg (code addr : Nat) (bs : List Byte) : Msg := newMsg 4 code true (dest / 4) (partOf o.core) (field v 32 32) addr bs
          let s1 := ps.foldl (fun (t : State) p => t.request op dest (msg 0 0 (bytesOf 8 p.1 ++ p.2)) []) s
          .next ((s1.request op dest (msg 1 ev []) []).modOp op (fun q => { q with granted := q.granted ++ [dest] }))

/-- STORE_PERFORMED of a HALO: every destination has signalled. -/
def haloStored (s : State) (id : Nat) (o : Op) : State :=
  if (haloDests (haloOf o).1).all (fun d => o.info.contains d) then s.endOp id o else s

/-- The cause with a code of R369. -/
def Cause.ofCode (n : Nat) : Cause :=
  let all : List Cause := [.illegalOpcode, .illegalModifier, .illegalOperands, .orphanExtension, .misalignedTarget, .registerRange, .privileged,
    .pageNotPresent, .pagePermission, .misalignedAccess, .sealTag, .sealExhausted, .secureViolation, .descriptorInvalid, .writeOnceViolation,
    .fpInvalid, .fpOverflow, .fpDivzero, .stackLimit, .software, .breakpoint, .noMatrixContext, .treeDescriptor, .linkUnreachable, .watchdog]
  (all.find? (fun c => c.code == n)).getD .linkUnreachable

/-- TRANSFER_FAULT of a HALO, MSG, COLL or a record sent to another device: given up, refused at the destination, or a fault of a halo's own
reads and writes. Source 3 is the link. -/
def linkFault (s : State) (id : Nat) (o : Op) : State :=
  let found : Option (Cause × Dword) :=
    if o.failed then some (.linkUnreachable, 0)
    else match o.refused with
      | c :: _ => some (Cause.ofCode c, 0)
      | [] =>
        if o.kind = .halo then
          (haloOf o).2.bind (fun t => (haloDests (haloOf o).1).findSome? (fun d =>
            if o.info.contains d || o.granted.contains d then none
            else
              let runs := haloRuns t (haloOf o).1 d
              if d / 4 = Config.deviceId.toNat then (match haloCopies o.core o.ctx ((haloLeft o t d).map Prod.fst) s with | .error x => some x | .ok _ => none)
              else match haloAll o.core o.ctx s runs with | .error x => some x | .ok _ => none))
        else none
  if !o.ready s || !s.takesFault o then s
  else match found with
    | none => s
    | some (c, va) => s.faultOp id o { cause := c, source := 3, lanes := o.exec, tinfo := va, vaddr := va }

/-! ## COLL (R420, R421) -/

/-- A group's participants (device, partition); none for an unused one, or one outside its values. -/
def groupOf (s : State) (part g : Nat) : Option (List (Nat × Nat)) :=
  let v := (Table.getD s.net.groups 0 (part * 256 + g)).toNat
  let n := field v 0 8
  let ms := (List.range 64).map (fun k => field v (512 + 32 * k) 32)
  if n < 2 ∨ 64 < n ∨ field v 8 504 ≠ 0 ∨ ms.any (fun m => field m 23 9 != 0 || decide (11 < field m 19 4)) = true ∨ (ms.drop n).any (fun m => m != 0) = true then none
  else some ((ms.take n).map (fun m => (field m 0 19, field m 19 4)))

/-- COLL: the contribution goes out after what its release covers; the floe waits for the round. -/
def collBody (w : FWord) (_sh : Shape) (e : Env) (s : State) : Res :=
  let b := rdOp s e.f 0 w.b 1
  let g := b.1 % 256
  let part := partOf e.f.core
  let n := w.c.toNat
  if e.exec = 0 then .done s
  else if !b.2 then .done ((List.range n).foldl (fun (t : State) l => t.wrGroup e.f l false (codeRegs w.d 1) 0) s)
  else match groupOf s part g with
    | none => .trap { cause := .illegalOperands, lanes := e.exec } s
    | some ms =>
      if (ms.filter (fun m => m == (Config.deviceId.toNat, part))).length ≠ 1 then .trap { cause := .illegalOperands, lanes := e.exec } s
      else if ms.any (fun m => m.1 != Config.deviceId.toNat && !reachable s m.1) then .trap { cause := .linkUnreachable, lanes := e.exec } s
      else
        let vals := (List.range n).map (fun l => let x := s.rdReg e.f ⟨false, w.a.toNat⟩ l; x.data.toNat + (if x.v then 2 ^ 32 else 0))
        let me := ms.idxOf (Config.deviceId.toNat, part)
        let root := w.s.toNat == 1 && me != 0
        let s1 := s.addOp { newOp s e w .coll with
          isSt := true, counted := false, interlock := false, uniform := true, rel := true, scope := 7, after := s.afterOf e.h true,
          vals := [part, g, me, n, w.m.toNat % 4, w.m.toNat / 4] ++ vals }
        .done (s1.waitOn e.h (.coll part g none w.d n root))

def execColl (w : FWord) (s : State) : Host.Outcome State Fault Refusal := issueF (.coll w) collBody s

/-- A contribution's fields as a list of numbers, as an operation holds them, and behind the round as a message carries them. -/
def contribution (part round : Nat) (l : List Nat) : Contribution :=
  { part := part, group := l.getD 1 0, round := round, member := l.getD 2 0, n := l.getD 3 0, op := l.getD 4 0, ty := l.getD 5 0,
    vals := (l.drop 6).map (fun x => (BitVec.ofNat 32 x, decide (2 ^ 32 ≤ x))) }

/-- STORE_PERFORMED of a COLL: its contribution to the partition's next round of the group (R420) reaches the participants here, and goes to the
others (log 26). -/
def collStored (s : State) (id : Nat) (o : Op) : State :=
  if !o.ready s then s
  else
    let part := o.vals.getD 0 0
    let g := o.vals.getD 1 0
    let round := Table.getD s.net.rounds 0 (part * 256 + g)
    let ms := (groupOf s part g).getD []
    let here := (ms.filter (fun m => m.1 == Config.deviceId.toNat)).map (fun m => contribution m.2 round o.vals)
    let there := ms.filter (fun m => m.1 != Config.deviceId.toNat)
    let s1 : State := { s with colls := s.colls ++ here, net := { s.net with rounds := Table.insert s.net.rounds (part * 256 + g) (round + 1) } }
    let s2 := there.foldl (fun (t : State) m => t.post (newMsg 0 3 true m.1 m.2 o.floe 0 ((round :: o.vals).flatMap (bytesOf 8))) []) s1
    (s2.modFloe o.floe (fun f => match f.wait with
      | some (.coll p k none d n root) => { f with wait := some (.coll p k (some round) d n root) }
      | _ => f)).endOp id o

/-- One reduction step of a round (R421): operation 0 .add, 1 .min, 2 .max; type 0 .f32, 1 .s32, 2 .u32. -/
def collStep (op ty a b : Nat) : Nat × Fx :=
  match ty, op with
  | 0, 0 =>
    let x := numAdd .rn (Fmt.fp32.decode a) (Fmt.fp32.decode b)
    let r := Fmt.fp32.roundEncode .rn x.1
    (r.1, x.2.or r.2)
  | 0, 1 => fpMinR .fp32 false a b
  | 0, _ => fpMaxR .fp32 false a b
  | _, 0 => ((a + b) % 2 ^ 32, Fx.none)
  | t, 1 => (wrapBits 32 (min (ival 32 (t == 1) a) (ival 32 (t == 1) b)), Fx.none)
  | t, _ => (wrapBits 32 (max (ival 32 (t == 1) a) (ival 32 (t == 1) b)), Fx.none)

/-- Lane `i` of a round's result, none where it is invalid, and its flags. -/
def collLane (cs : List Contribution) (i : Nat) : Option Nat × Fx :=
  match cs with
  | [] => (none, Fx.none)
  | c :: t =>
    let x (d : Contribution) : Word × Bool := d.vals.getD i (0, false)
    if t.any (fun d => d.n != c.n || d.op != c.op || d.ty != c.ty) || !cs.all (fun d => (x d).2) then (none, Fx.none)
    else
      let r := t.foldl (fun (a : Nat × Fx) d => let q := collStep c.op c.ty a.1 (x d).1.toNat; (q.1, a.2.or q.2)) ((x c).1.toNat, Fx.none)
      (some r.1, r.2)

/-- A vector register of a SAVED floe written in one lane. -/
def Floe.wrSavedLane (f : Floe) (d : Code) (l : Nat) (v : Option Nat) : Floe :=
  let put (k : Nat) : Table FirnWord → Table FirnWord := fun t =>
    let old := Table.getD t FirnWord.empty k
    Table.setD t FirnWord.empty k (match v with | some x => ⟨BitVec.ofNat 32 x, true⟩ | none => { old with v := false })
  let t1 := put (32 * d.toNat + l) f.savedRegs
  { f with savedRegs := if f.dmr = .full ∧ l < 16 then put (32 * d.toNat + l + 16) t1 else t1 }

/-- The end of a round for the floe that waits for it: the lanes written, the flags joined, a SYSTEM acquire; a floe that is SAVED or
SUSPENDED waits no more. -/
def State.collEnds (s : State) (h : Nat) (f : Floe) (d : Code) (n : Nat) (root : Bool) (cs : List Contribution) : State :=
  let rs := (List.range n).map (collLane cs)
  let s1 := s.orFlags h (rs.foldl (fun a r => a.or r.2) Fx.none)
  let wr (t : State) : State :=
    if root then t
    else rs.zipIdx.foldl (fun (u : State) r => u.wrGroup f r.2 r.1.1.isSome (codeRegs d 1) (r.1.1.getD 0)) t
  match f.state with
  | .waiting => ((wr s1).acquire f.core 7).modFloe h (fun g => g.resume (s.mck f.core))
  | .suspended => (wr s1).modFloe h (fun g => { g with wait := some (.ops [] .unord) })
  | .saved => s1.modFloe h (fun g =>
      { (if root then g else rs.zipIdx.foldl (fun (q : Floe) r => q.wrSavedLane d r.2 r.1.1) g) with wait := some (.ops [] .unord) })
  | _ => s1

/-- The floe that waits for a round of a partition's group. -/
def collWaiter (s : State) (part group round : Nat) : Option (Nat × Floe) :=
  Table.search s.floes (fun _ f => f.state != .retired && (match f.wait with | some (.coll p g r _ _ _) => p == part && g == group && r == some round | _ => false))

/-- COLL_ROUND_COMPLETE (R421): every contribution has arrived; or the round waits and a participant is unreachable, which raises
LINK_UNREACHABLE at the floe that still waits. -/
def execCollRoundComplete (part group round : Nat) (s : State) : Host.Outcome State Fault Refusal :=
  match groupOf s part group with
  | none => .next s
  | some ms =>
    let mine (c : Contribution) : Bool := c.part == part && c.group == group && c.round == round
    let at_ (k : Nat) : Option Contribution := s.colls.find? (fun c => mine c && c.member == k)
    let rest := { s with colls := s.colls.filter (fun c => !mine c) }
    let lost := ms.any (fun m => m.1 != Config.deviceId.toNat && !reachable s m.1)
    match allSome ((List.range ms.length).map at_), collWaiter s part group round with
    | some cs, some (h, f) =>
      (match f.wait with
       | some (.coll _ _ _ d n root) => .next (rest.collEnds h f d n root cs)
       | _ => .next rest)
    | some _, none => .next rest
    | none, some (h, f) =>
      (match f.slot f.waitSlot1 with
       | some sl => if lost ∧ f.state = .waiting then
           .next ((rest.abandonWait f h).deliver h f.waitSlot1 sl.pc sl.pc { cause := .linkUnreachable, source := 3, lanes := f.waitExec })
         else .next s
       | none => .next s)
    | none, none => .next s

/-! ## MSG (R422) -/

/-- MSG. -/
def msgBody (w : FWord) (_sh : Shape) (e : Env) (s : State) : Res :=
  let a := rdOp s e.f 0 w.a 2
  let b := if w.b = 0xFF then (1, true) else rdOp s e.f 0 w.b 1
  let form := w.m.toNat
  let ev := field a.1 0 16
  let part := field a.1 16 4
  let dev := field a.1 20 19
  if e.exec = 0 then .done s
  else if form = 2 ∧ !s.isPriv e.f then .trap { cause := .privileged, lanes := e.exec } s
  else if !(a.2 && b.2) then .done s
  else if field a.1 39 25 ≠ 0 ∨ 12 ≤ part then .trap { cause := .illegalOperands, lanes := e.exec } s
  else if dev ≠ Config.deviceId.toNat ∧ !reachable s dev then .trap { cause := .linkUnreachable, lanes := e.exec } s
  else
    let after := if form = 2 then s.afterOf e.h false else s.afterOf e.h (decide (2 ≤ w.s.toNat))
    let o := { newOp s e w .msg with
      isSt := true, interlock := false, uniform := true, rel := form != 2, after := after, vals := [form, ev, part, dev, b.1] }
    let cls := match form with | 0 => 0 | 1 => 3 | _ => 5
    let stream := match form with | 0 => e.h | 1 => w.c.toNat | _ => 0
    let m := newMsg cls (if form = 0 then 2 else 0) (form != 2) dev part stream ev (BitVec.ofNat 8 (partOf e.f.core) :: bytesOf 4 b.1)
    if e.f.classFull o then .stall s
    else .done (if dev = Config.deviceId.toNat then s.addOp o else (s.addOp o).request s.nextId 0 m after)

def execMsg (w : FWord) (s : State) : Host.Outcome State Fault Refusal := issueF (.msg w) msgBody s

/-- An event signal from the fabric (R358): on the context that owns the partition; with none, it is dropped and journaled FAILED. -/
def State.fabricSignal (s : State) (part ev amount srcPart srcDev : Nat) (secure : Bool) : State :=
  match s.ownerOf part with
  | some ctx => s.signal ctx ev amount []
  | none => (s.jNew part (jHigh 3 secure srcPart 0 0 srcDev) 3 3).1

/-- An entry of the Ainar mailbox (R432), within the rate limit of R414; what is over it, or has no room, is dropped and counted. -/
def State.mail (s : State) (srcDev srcPart ev amount : Nat) : State :=
  let second := s.gt / 1000000000
  let seen := if s.life.mgmtSecond = second then s.life.mgmtSeen else []
  let n := Table.getD seen 0 srcDev
  let full := 256 ≤ (s.life.mbTail - s.life.mbHead).toNat
  let life := { s.life with mgmtSecond := second, mgmtSeen := Table.insert seen srcDev (n + 1) }
  if 4096 ≤ n ∨ full then { s with life := { life with mgDrop := satInc life.mgDrop } }
  else
    let entry : MailEntry := BitVec.ofNat 128 (srcDev + srcPart * 2 ^ 19 + ev * 2 ^ 32 + amount * 2 ^ 64 + s.gt % 2 ^ 32 * 2 ^ 96)
    { s with life := { life with mailbox := Table.insert life.mailbox (life.mbTail.toNat % 256) entry, mbTail := life.mbTail + 1 } }

/-- STORE_PERFORMED of a MSG: performed here, or acknowledged from afar. -/
def msgStored (s : State) (id : Nat) (o : Op) : State :=
  let v (i : Nat) : Nat := o.vals.getD i 0
  if v 3 ≠ Config.deviceId.toNat then (if o.state = .performed then s.endOp id o else s)
  else if !o.ready s then s
  else
    let me := Config.deviceId.toNat
    let s1 := if v 0 = 2 then s.mail me (partOf o.core) (v 1) (v 4) else s.fabricSignal (v 2) (v 1) (v 4) (partOf o.core) me (coreSecure s o.core)
    s1.endOp id o

/-! ## Messages delivered here (R411, R414) -/

/-- The stream of a message, as the sequence counts of arrivals are kept. -/
def Msg.key (m : Msg) : Nat := (m.srcDev * 8 + m.cls) * 2 ^ 32 + m.stream

/-- Whether a message of a class is taken: a valid header for this device, a sequence number not seen, and in a class that is ordered by stream,
or of a request for the same 16 bytes, none after it already taken (R414). -/
def State.takes (s : State) (cls : Nat) (m : Msg) : Bool :=
  let seen := Table.getD s.net.seqIn [] (Msg.key m)
  let ordered := cls == 2 || cls == 3 || cls == 4
  s.life.powered && m.cls == cls && (Msg.valid m) && m.dstDev == Config.deviceId.toNat
    && seen.all (fun n => decide (n % 2 ^ 64 < m.seq) || (n % 2 ^ 64 != m.seq && !ordered && !(cls == 0 && n / 2 ^ 64 == m.addr / 16)))

/-- A message taken: its number and the 16 bytes it is for are kept. -/
def State.noteSeq (s : State) (m : Msg) : State :=
  { s with net := { s.net with seqIn := Table.insert s.net.seqIn (Msg.key m) (Table.getD s.net.seqIn [] (Msg.key m) ++ [m.seq + m.addr / 16 * 2 ^ 64]) } }

/-- The page that an access from the fabric sees at its home: readable and writable, write-once where the line has a mark, else under the
protocol of the line's entry (log 26). -/
def homePte (s : State) (pa : Nat) : Pte :=
  BitVec.ofNat 128 (3 + (if (Table.find? s.ms.marks (pa / 256)).isSome then 3 else (s.dirAt (pa / 256)).slot) * 2 ^ 6 + 2 ^ 12)

/-- The first check of R364, R408, R409 and R454 that a fabric access fails at its home. -/
def homeFault (s : State) (secure wr : Bool) (pa n : Nat) : Option Cause :=
  if !(n == 1 || n == 2 || n == 4 || n == 8 || n == 16) || pa % n != 0 then some .misalignedAccess
  else if !paExists pa then some .pagePermission
  else if sealReserved s pa ∨ (regionSecure s pa ∧ !secure) then some .secureViolation
  else if s.net.isolated.contains (homeDie pa) then some .linkUnreachable
  else if !wr && Table.getD s.ms.poison false (pa / 32) then some .pagePermission
  else if wr && s.markHit (homePte s pa) pa n then some .writeOnceViolation
  else none

/-- A read, write or atomic from another device performed at its home (R415): the machine after, a status (0, or the code of a cause) and the
value from before. -/
def homeAccess (s : State) (m : Msg) : State × Nat × Nat :=
  let data := natOf (m.payload.take 16)
  let swap := natOf ((m.payload.drop 16).take 16)
  let n := natOf ((m.payload.drop 32).take 8)
  let pte := homePte s m.addr
  let core := 256 * homeDie m.addr
  match homeFault s (portSecure s m.srcDev) (m.op != 0) m.addr n with
  | some c => (s, c.code, 0)
  | none =>
    let old := natOf ((List.range n).map (fun i => readThrough s 12 pte (m.addr + i)))
    let kind : Nat := if m.op = 1 then 1 else 2
    let put (v : Nat) : State :=
      ((List.range n).foldl (fun (t : State) i => t.engineByte kind core 12 pte (m.addr + i) (BitVec.ofNat 8 (v / 256 ^ i))) s).markWords
        (s.writeOnce pte.prot (m.addr / 256) kind) m.addr n
    if m.op = 0 then (s, 0, old)
    else if m.op = 1 then (put data, 0, 0)
    else
      let a := atomOpOf (m.op - 8)
      if a = .cas ∧ old ≠ data then (s, 0, old) else (put (atomNew a (8 * n) old data swap), 0, old)

/-- REQ_MESSAGE: a memory access (operations 0, 1 and 8 to 19), an event signal (2), or a contribution to a collective (3). A write waits while
a lease at its home holds it (R200). -/
def execReqMessage (m : Msg) (s : State) : Host.Outcome State Fault Refusal :=
  let held := (m.op == 1 || decide (8 ≤ m.op)) && !engineClear s ⟨m.addr, homePte s m.addr⟩ (natOf ((m.payload.drop 32).take 8))
  if !s.takes 0 m ∨ held then .next s
  else
    let s1 := s.noteSeq m
    if m.op = 2 then
      let s2 := s1.fabricSignal m.dstPart (m.addr % 65536) (natOf ((m.payload.drop 1).take 4)) (natOf (m.payload.take 1)) m.srcDev (portSecure s m.srcDev)
      .next (s2.post (replyTo m 0 0) [])
    else if m.op = 3 then
      let l := (List.range (m.payload.length / 8)).map (fun i => natOf ((m.payload.drop (8 * i)).take 8))
      .next { s1 with colls := s1.colls ++ [contribution m.dstPart (l.getD 0 0) (l.drop 1)] }
    else if m.op = 0 ∨ m.op = 1 ∨ (8 ≤ m.op ∧ m.op ≤ 19) then
      let r := homeAccess s1 m
      .next (r.1.post (replyTo m r.2.1 r.2.2) [])
    else .next s

/-- An answer for a lane of an operation (R414): a lane's data, or the cause it was refused for; from 32 on, a word that a walk needs, by its
address div 8. -/
def Op.laneAnswer (o : Op) (lane status value : Nat) : Op :=
  if 32 ≤ lane then
    { o with far := Table.insert o.far (lane - 32) ⟨BitVec.ofNat 64 value, if status = 0 then none else some (Cause.ofCode status)⟩ }
  else
    { o with lanes := o.lanes.map (fun la =>
        if la.lane = lane then (if status = 0 then { la with reply := some value } else { la with err := some (Cause.ofCode status) }) else la) }

/-- An answer for a copy: the data of element `lane / 2`, or for an odd lane the acknowledgement of its write. -/
def Copy.answer (c : Copy) (lane status value : Nat) : Copy :=
  let e := c.elem (lane / 2)
  c.setElem (lane / 2)
    (if status ≠ 0 then { e with err := some (Cause.ofCode status) }
     else if lane % 2 = 0 then { e with data := some (bytesOf c.desc.esize value) }
     else { e with acked := true })

/-- An answer taken for a request: of an operation, the outcome of a record, a destination of a halo done, or a lane's; of a copy; of a floe a word
that its next instruction needs. What ends after it is given up, or was already, takes none. -/
def State.answer (s : State) (r : NetReq) (status value : Nat) : State :=
  match Table.find? s.ops r.op with
  | some o =>
    if o.failed then s
    else (match o.kind with
      | .enq =>
        if o.isSt then s.endOp r.op o else s.modOp r.op (fun q => { q with state := .performed, vals := [status, value] })
      | .msg => s.modOp r.op (fun q => { q with state := .performed })
      | .halo =>
        if status ≠ 0 then s.modOp r.op (fun q => { q with refused := q.refused ++ [status] })
        else if r.msg.op = 1 then s.modOp r.op (fun q => { q with info := q.info ++ [r.lane] })
        else s
      | _ => s.modOp r.op (fun q => q.laneAnswer r.lane status value))
  | none =>
    (s.modCopy r.op (fun c => c.answer r.lane status value)).modFloe r.op (fun f =>
      { f with far := Table.insert f.far r.lane ⟨BitVec.ofNat 64 value, if status = 0 then none else some (Cause.ofCode status)⟩ })

/-- Whether a request has left: what it was sent after has ended. -/
def State.requestSent (s : State) (r : NetReq) : Bool := s.net.outbox.all (fun x => x.msg != r.msg || s.ended x.after)

/-- RSP_MESSAGE: the answer to a request, named by its sequence number, stream and class (log 26); one that answers none is dropped. -/
def execRspMessage (m : Msg) (s : State) : Host.Outcome State Fault Refusal :=
  if !s.takes 1 m then .next s
  else
    let n (i k : Nat) : Nat := natOf ((m.payload.drop i).take k)
    let s1 := s.noteSeq m
    match s1.net.reqs.find? (fun r => r.msg.dstDev == m.srcDev && r.msg.seq == n 0 8 && r.msg.stream == n 8 4 && r.msg.cls == n 12 4) with
    | none => .next s1
    | some r =>
      if !s.requestSent r then .next s
      else .next (State.answer { s1 with net := { s1.net with reqs := s1.net.reqs.erase r } } r (n 16 8) (n 24 16))

/-- ENQ_MESSAGE (R329): a whole record for a queue of the partition it names. -/
def execEnqMessage (m : Msg) (s : State) : Host.Outcome State Fault Refusal :=
  if !s.takes 2 m then .next s
  else
    let bs := m.payload.drop 1
    let r : EnqReq := ⟨queueKey m.dstPart (m.addr % 4096), bs, 3, portSecure s m.srcDev, natOf (m.payload.take 1) % 16, m.srcDev, none, none, [], false,
      some m, false⟩
    .next { s.noteSeq m with enqs := s.enqs ++ [r] }

/-- BAR_MESSAGE (R422): an event signal in the order of its channel. -/
def execBarMessage (m : Msg) (s : State) : Host.Outcome State Fault Refusal :=
  if !s.takes 3 m then .next s
  else
    let s1 := (s.noteSeq m).fabricSignal m.dstPart (m.addr % 65536) (natOf ((m.payload.drop 1).take 4)) (natOf (m.payload.take 1)) m.srcDev (portSecure s m.srcDev)
    .next (s1.post (replyTo m 0 0) [])

/-- HALO_MESSAGE (R299, R419): a piece of a channel block at its virtual address in the context that owns the partition, or the marker that
signals the event. -/
def execHaloMessage (m : Msg) (s : State) : Host.Outcome State Fault Refusal :=
  if !s.takes 4 m then .next s
  else
    let s1 := s.noteSeq m
    if m.op = 1 then
      .next ((s1.fabricSignal m.dstPart (m.addr % 65536) 1 m.dstPart m.srcDev (portSecure s m.srcDev)).post (replyTo m 0 0) [])
    else match s1.ownerOf m.dstPart with
      | none => .next (s1.post (replyTo m 0 0) [])
      | some ctx =>
        if !writeFree s1 (partCore m.dstPart) ctx (portSecure s m.srcDev) (BitVec.ofNat 64 (natOf (m.payload.take 8))) (m.payload.length - 8) then .next s
        else match writeVirt s1 (partCore m.dstPart) ctx (portSecure s m.srcDev) (BitVec.ofNat 64 (natOf (m.payload.take 8))) (m.payload.drop 8) with
        | .error (c, _) => .next (s1.post (replyTo m c.code 0) [])
        | .ok s2 => .next (s2.post (replyTo m 0 0) [])

/-- MGMT_MESSAGE (R432): acknowledged whether or not it has room. -/
def execMgmtMessage (m : Msg) (s : State) : Host.Outcome State Fault Refusal :=
  if !s.takes 5 m then .next s
  else
    let s1 := (s.noteSeq m).mail m.srcDev (natOf (m.payload.take 1) % 16) (m.addr % 65536) (natOf ((m.payload.drop 1).take 4))
    .next (s1.post (replyTo m 0 0) [])

/-- A request given up (R412): the lane it belongs to fails, or the record, event or halo as a whole. -/
def State.giveUp (s : State) (r : NetReq) : State :=
  let t := { s with net := { s.net with reqs := s.net.reqs.erase r } }
  let whole : Bool := match Table.find? s.ops r.op with
    | some o => (match o.kind with | .enq => true | .msg => true | .halo => true | _ => false)
    | none => false
  if whole then t.modOp r.op (fun q => { q with failed := true }) else t.answer r Cause.linkUnreachable.code 0

/-- REQUEST_TIMEOUT (R412): what an operation, copy or floe has sent and has waited 2 ms for is given up. -/
def execRequestTimeout (op : Nat) (s : State) : Host.Outcome State Fault Refusal :=
  .next ((s.net.reqs.filter (fun r => r.op == op && decide (r.sentGt + 2000000 ≤ s.gt) && s.requestSent r)).foldl State.giveUp s)

end Sys2Proof.Machine
end

