-- ==== Sys2Proof/Machine/LinkState.lean ====
section
/-! DEFINITION. The links themselves (R400-R408, R416): states, margins, retraining, isolation of a die; and the registers of BAR 4 that
the host writes. -/

namespace Sys2Proof.Machine

/-! ## The links (R400, R402) -/

/-- Lane groups or lanes in service at full width, and the minimum (R400). -/
def linkFull (n : Nat) : Nat := if n < 4 then 64 else if n < 40 then 8 else if n = 48 then 16 else 64
def linkMin (n : Nat) : Nat := if n < 4 then 48 else if n < 40 then 4 else if n = 48 then 1 else 64

/-- A link that nothing has touched since reset. -/
def Link.fresh : Link :=
  { st := .untrained, units := 0, spares := 0, hth := 0, vth := 0, auto := false, ie := false, lanes := [], pend := false, banks := [] }

def State.link (s : State) (n : Nat) : Link := Table.getD s.net.links Link.fresh n

/-- A link written. -/
def State.putLink (s : State) (n : Nat) (l : Link) : State :=
  { s with net := { s.net with links := Table.setD s.net.links Link.fresh n l } }

/-- Whether a die boundary is out of service: DOWN (R408). -/
def boundaryDown (s : State) (b : Nat) : Bool := (s.link b).st == .down

/-- The dies whose boundaries are both DOWN, and those Ainar isolated (R408). -/
def isolatedDies (s : State) : List Nat :=
  (List.range 4).filter (fun d => s.net.cut.contains d || (boundaryDown s d && boundaryDown s ((d + 3) % 4)))

/-- A floe on a die: one that is not retired and not saved. -/
def Floe.onDie (f : Floe) (d : Nat) : Bool := f.state != .retired && f.state != .saved && coreDie f.core == d

/-- Isolation brought up to date: every context with a floe on a die newly isolated takes fatal (R408). -/
def State.isolate (s : State) : State :=
  let dies := isolatedDies s
  let new := dies.filter (fun d => !s.net.isolated.contains d)
  let s1 := { s with net := { s.net with isolated := dies } }
  let hit (c : Nat) : Option (Nat × Floe) := Table.search s.floes (fun _ f => f.ctx == c && new.any f.onDie)
  (Table.keys s.ctxs).foldl (fun (t : State) c =>
    match hit c with
    | some (_, f) => t.fatalLive c (faultRecord 0x70 3 false (partOf f.core) f.inst f.num f.core 0 0 0 0 0 0 0 0 (s.gt % 2 ^ 64))
    | none => t) s1

/-- The unacknowledged messages of a port out of service go to the port their stream now chooses (R413). -/
def State.reroute (s : State) : State :=
  { s with net := { s.net with reqs := s.net.reqs.map (fun r =>
      if r.port < 24 ∧ portUp s r.port then r
      else { r with port := (choosePort s r.msg.dstDev r.msg.cls r.msg.stream).getD 31 }) } }

/-- A link in another state: the change interrupts the physical function where IE is set, isolation and routes follow. -/
def State.linkTo (s : State) (n : Nat) (l : Link) : State :=
  let s1 := s.putLink n l
  let s2 := if l.ie ∧ l.st ≠ (s.link n).st then { s1 with irqs := s1.irqs ++ [0] } else s1
  s2.isolate.reroute

/-- Whether a link carries traffic, held or not: the states that a fail or a disable takes DOWN. -/
def LinkState.inUse (x : LinkState) : Bool :=
  x == .active || x == .marginal || x == .retraining || x == .repaired || x == .degraded

/-- Whether a link can begin to retrain. -/
def LinkState.canRetrain (x : LinkState) : Bool := x == .active || x == .marginal || x == .repaired || x == .degraded

/-- The state after retraining (R402): below the minimum width DOWN, narrowed DEGRADED, with a spare in use REPAIRED, else ACTIVE. -/
def retrained (n : Nat) (l : Link) (spares units : Nat) (clean : Bool) : Link :=
  let u := min units (linkFull n)
  let st := if u < linkMin n then .down else if u < linkFull n then .degraded else if 0 < spares ∧ !clean then .repaired else .active
  { l with st := st, units := if st = .down then 0 else u, spares := min spares 255, pend := false, lanes := [] }

/-! ## Margins (R403-R405) -/

/-- Whether a lane is below a threshold. -/
def laneLow (l : Link) (hm : BitVec 6) (vm : BitVec 8) : Bool := decide (hm < l.hth) || decide (vm < l.vth)

/-- A sample taken: margins replaced, corrected errors added. -/
def takeSample (l : Link) (xs : List LaneSample) : Link :=
  { l with lanes := xs.zipIdx.map (fun x =>
      let old := (l.lanes.getD x.2 (0, 0, 0)).2.2
      (x.1.hm, x.1.vm, if 0xFFFF < old.toNat + x.1.cerr.toNat then 0xFFFF else old + x.1.cerr)) }

/-- A MARGINAL link with AUTO retrains at its next opportunity: at once on a die boundary and on a Wanos port (R404, R405). -/
def State.autoRetrain (s : State) (n : Nat) : State :=
  if (s.link n).st = .marginal ∧ (s.link n).auto ∧ n < 48 then s.linkTo n { s.link n with st := .retraining } else s

/-- MARGIN_SAMPLE (R404): two samples together give margin_low, or margin_ok; a MARGINAL link with AUTO retrains where it may. -/
def execMarginSample (link : Nat) (lanes : List LaneSample) (s : State) : Host.Outcome State Fault Refusal :=
  let l := s.link link
  if !linkValid link ∨ !l.st.inUse ∨ lanes.isEmpty ∨ 448 < lanes.length then .next s
  else
    let l1 := takeSample l lanes
    let both := l.lanes.length = lanes.length
    let low (i : Nat) : Bool :=
      let o := l.lanes.getD i (0, 0, 0)
      let n := l1.lanes.getD i (0, 0, 0)
      laneLow l o.1 o.2.1 && laneLow l n.1 n.2.1
    let ok (i : Nat) : Bool :=
      let o := l.lanes.getD i (0, 0, 0)
      let n := l1.lanes.getD i (0, 0, 0)
      !laneLow l o.1 o.2.1 && !laneLow l n.1 n.2.1
    if both ∧ (List.range lanes.length).any low ∧ (l.st = .active ∨ l.st = .repaired) then
      .next ((s.linkTo link { l1 with st := .marginal }).autoRetrain link)
    else if both ∧ (List.range lanes.length).all ok ∧ l.st = .marginal then .next (s.linkTo link { l1 with st := .active })
    else .next ((s.putLink link l1).autoRetrain link)

/-- MARGIN_WORD_READ (R403): the read clears CERR. -/
def execMarginWordRead (link lane : Nat) (s : State) : Host.Outcome State Fault Refusal :=
  let l := s.link link
  if !linkValid link then .next s
  else .next (s.putLink link { l with lanes := l.lanes.zipIdx.map (fun x => if x.2 = lane then (x.1.1, x.1.2.1, 0) else x.1) })

/-! ## Changes of state (R402, R403, R405) -/

/-- The state after CMD retrain: at once, or for an HBM4 channel in its next refresh window. -/
def State.retrain (s : State) (n : Nat) : State :=
  let l := s.link n
  if !linkValid n ∨ !l.st.canRetrain then s
  else if 256 ≤ n then s.putLink n { l with pend := true }
  else s.linkTo n { l with st := .retraining }

/-- The state after CMD disable, or a fail. -/
def State.linkDown (s : State) (n : Nat) : State :=
  let l := s.link n
  if !linkValid n ∨ !l.st.inUse then s else s.linkTo n { l with st := .down, units := 0, pend := false, lanes := [] }

/-- The state after CMD enable, and after the train that follows reset. -/
def State.enableLink (s : State) (n : Nat) : State :=
  let l := s.link n
  if linkValid n ∧ (l.st = .down ∨ l.st = .untrained) then s.linkTo n { l with st := .training } else s

def execLinkRetrain (link : Nat) (s : State) : Host.Outcome State Fault Refusal := .next (s.retrain link)
def execLinkDisable (link : Nat) (s : State) : Host.Outcome State Fault Refusal := .next (s.linkDown link)
def execLinkEnable (link : Nat) (s : State) : Host.Outcome State Fault Refusal := .next (s.enableLink link)

/-- LINK_FAIL (R402); while a link retrains, RETRAINING_DONE says that it failed. -/
def execLinkFail (link : Nat) (s : State) : Host.Outcome State Fault Refusal := .next (if (s.link link).st = .retraining then s else s.linkDown link)

/-- TRAINING_DONE (R402). -/
def execTrainingDone (link : Nat) (ok : Bool) (s : State) : Host.Outcome State Fault Refusal :=
  let l := s.link link
  if !linkValid link ∨ l.st ≠ .training then .next s
  else .next (s.linkTo link (if ok then { l with st := .active, units := linkFull link, spares := 0, lanes := [] }
    else { l with st := .down, units := 0, lanes := [] }))

/-- RETRAINING_DONE (R402); an HBM4 channel ends its retraining in a refresh window. -/
def execRetrainingDone (link spares units : Nat) (clean : Bool) (s : State) : Host.Outcome State Fault Refusal :=
  let l := s.link link
  if !linkValid link ∨ 256 ≤ link ∨ l.st ≠ .retraining then .next s
  else .next (s.linkTo link (retrained link l spares units clean))

/-- REFRESH_WINDOW (R405, R409): a pending retraining begins, goes on or ends; the per-bank counts are brought up to date. -/
def execRefreshWindow (link spares units : Nat) (clean done : Bool) (counts : List (BitVec 16)) (s : State) : Host.Outcome State Fault Refusal :=
  let l := s.link link
  if !linkValid link ∨ link < 256 then .next s
  else
    let l0 := if counts.isEmpty then l else { l with banks := counts }
    let begins : Bool := l.st.canRetrain && (l.pend || (l.st == .marginal && l.auto))
    let s0 := s.putLink link l0
    let s1 := if begins then s0.linkTo link { l0 with st := .retraining, pend := false } else s0
    .next (if (begins || l.st == .retraining) && done then s1.linkTo link (retrained link { l0 with st := .retraining } spares units clean) else s1)

/-- LTSSM_RECOVERY (R416): the host port retrains. -/
def execLtssmRecovery (s : State) : Host.Outcome State Fault Refusal := .next (s.retrain 48)

/-- AINAR_DIE_ISOLATION (R408). -/
def execAinarDieIsolation (die : Nat) (s : State) : Host.Outcome State Fault Refusal :=
  if 4 ≤ die ∨ s.net.cut.contains die then .next s
  else .next (State.isolate { s with net := { s.net with cut := s.net.cut ++ [die] } })

/-! ## The registers of BAR 4 (R401, R403, R413, R420, R431) -/

/-- A register of `n` bytes at `base`, holding `old`, after a write of `size` bytes at `off`. -/
def mergeAt (base n old off size value : Nat) : Nat :=
  natOf ((List.range n).map (fun i =>
    let a := base + i
    if off ≤ a ∧ a < off + size then BitVec.ofNat 8 (value / 256 ^ (a - off)) else BitVec.ofNat 8 (old / 256 ^ i)))

/-- Whether a write covers all of a register, or some of it. -/
def covers (base n off size : Nat) : Bool := decide (off ≤ base) && decide (base + n ≤ off + size)
def overlaps (base n off size : Nat) : Bool := decide (off < base + n) && decide (base < off + size)

/-- A write to a link's control word (R403): HTH, VTH, AUTO and IE stay as written, CMD acts, and AUTO itself on a MARGINAL link. -/
def State.writeControl (s : State) (n off size value : Nat) : State :=
  let l := s.link n
  let old := l.hth.toNat * 2 ^ 24 + l.vth.toNat * 2 ^ 32 + l.auto.toNat * 2 ^ 40 + l.ie.toNat * 2 ^ 41
  let v := mergeAt (4096 * n) 8 old off size value
  let s1 := s.putLink n { l with
    hth := BitVec.ofNat 6 (field v 24 6), vth := BitVec.ofNat 8 (field v 32 8), auto := v.testBit 40, ie := v.testBit 41 }
  match field v 42 2 with
  | 1 => s1.retrain n
  | 2 => s1.linkDown n
  | 3 => s1.enableLink n
  | _ => s1.autoRetrain n

/-- The counters of R431: a write of 0 clears. -/
def State.clearCounter (s : State) (off : Nat) : State :=
  let life := s.life
  match off with
  | 0x60 => { s with life := { life with lockViol := 0 } }
  | 0x64 => { s with life := { life with fwViol := 0 } }
  | 0x68 => { s with life := { life with mgDrop := 0 } }
  | k => { s with life := { life with counts := Table.setD life.counts 0 k 0 } }

/-- Offsets of the counters in the management block. -/
def counterOffsets : List Nat := (List.range 16).map (fun i => 0x20 + 4 * i) ++ [0x60, 0x64, 0x68]

/-- Whether a block offset lies in a locked register (R431). -/
def lockedOffset (m : Nat) : Bool :=
  (decide (0x400 ≤ m) && decide (m < 0x904)) || (decide (0xC00 ≤ m) && decide (m < 0x1000)) || (decide (0x4000 ≤ m) && decide (m < 0x5800))

/-- A write to a locked register is ignored, and counted once the locks are set (R424). -/
def State.lockedWrite (s : State) : State :=
  if s.life.locked then { s with life := { s.life with lockViol := satInc s.life.lockViol } } else s

/-- The power limit after a write (R431): above 3,800 it is 3,800; below 1,000 the manual states no value. -/
def plimitOf (s : State) (v : Nat) : Word := if 3800 < v then 3800 else if v < 1000 then Config.freeWord s.fresh else BitVec.ofNat 32 v

/-- A write to the management block at block offset `m` (R431): counters, PLIMIT, ATTNONCE and the recovery window; to a locked register none. -/
def State.writeMgmt (s0 : State) (m size value : Nat) : State :=
  let s := if (List.range size).any (fun i => lockedOffset (m + i)) then s0.lockedWrite else s0
  let s1 := (counterOffsets.filter (fun c => covers c 4 m size && mergeAt c 4 1 m size value == 0)).foldl State.clearCounter s
  let s2 := if overlaps 0x108 4 m size then
      let v := mergeAt 0x108 4 s1.life.plimit.toNat m size value
      { s1 with life := { s1.life with plimit := plimitOf s1 v }, fresh := s1.fresh + 1 } else s1
  let s3 := if overlaps 0x1000 32 m size then
      { s2 with life := { s2.life with attNonce := BitVec.ofNat 256 (mergeAt 0x1000 32 s2.life.attNonce.toNat m size value) } } else s2
  (List.range size).foldl (fun (t : State) i =>
    let a := m + i
    if 0x1000000 ≤ a ∧ a < 0x2000000 then
      { t with life := { t.life with window := Table.setD t.life.window 0 (a - 0x1000000) (BitVec.ofNat 8 (value / 256 ^ i)) } } else t) s3

/-- The entries of `w` bytes from `base` on that a write touches, of a table of `n`. -/
def touched (base w n off size : Nat) : List Nat :=
  if off + size ≤ base then []
  else
    let first := if off < base then 0 else (off - base) / w
    ((List.range (size / w + 2)).map (first + ·)).filter (fun i => decide (i < n) && overlaps (base + w * i) w off size)

/-- BAR_REGISTER_WRITE (R401): each register that the write touches. With FAILED, only BOOTSTAT and BOOTCMD respond (R423). -/
def execBarRegisterWrite (offset size : Nat) (value : BitVec 512) (s : State) : Host.Outcome State Fault Refusal :=
  let v := value.toNat
  if s.life.boot = .failed ∨ !s.life.powered ∨ 64 < size then .next s
  else if offset < 0x300000 then
    .next (if linkValid (offset / 4096) ∧ offset % 4096 < 8 then s.writeControl (offset / 4096) offset size v else s)
  else if 0x800000 ≤ offset ∧ offset < 0x2800000 then .next (s.writeMgmt (offset - 0x800000) size v)
  else if 0x3000000 ≤ offset ∧ offset < 0x3400000 then
    .next ((touched 0x3000000 8 (2 ^ 19) offset size).foldl (fun (t : State) d =>
      let e := mergeAt (0x3000000 + 8 * d) 8 (Table.getD t.net.routes 0 d).toNat offset size v
      { t with net := { t.net with routes := Table.setD t.net.routes 0 d (BitVec.ofNat 64 e) } }) s)
  else if 0x4000000 ≤ offset ∧ offset < 0x4180000 then
    .next ((touched 0x4000000 512 3072 offset size).foldl (fun (t : State) g =>
      let e := mergeAt (0x4000000 + 512 * g) 512 (Table.getD t.net.groups 0 g).toNat offset size v
      { t with net := { t.net with groups := Table.setD t.net.groups 0 g (BitVec.ofNat 4096 e) } }) s)
  else .next s

end Sys2Proof.Machine
end

