-- ==== Sys2Proof/Machine/Life.lean ====
section
/-! DEFINITION. Device life (R423-R434): boot, the locks, attestation, scrub, the mailbox, power and temperature, loss of power; and what
the host reads in BAR 0 and BAR 4. -/

namespace Sys2Proof.Machine

/-! ## Reset and power (R396, R423) -/

/-- The metadata of a block after power is lost: its key is gone, so that its tag fails under any key that comes to have its number. -/
def SealMeta.orphan (m : SealMeta) : SealMeta := if m.kid ≠ 0 ∧ m.status = 0 then { m with status := 2 } else m

/-- The machine after a reset: everything at its reset value, but the contents of memory and the model's own counters (log 4). -/
def State.restart (s : State) : State :=
  { State.reset with
    turns := s.turns
    cur := s.cur
    fresh := s.fresh
    nextId := s.nextId
    ms := { Ms.reset with mem := s.ms.mem, poison := s.ms.poison, sealTab := s.ms.sealTab, nextKid := s.ms.nextKid } }

/-- The machine without power: all state ends, and each sealed block with its metadata stays whole (R396). -/
def State.powerOff (s : State) : State :=
  let r := s.restart
  { r with
    ms := { r.ms with sealTab := Table.map r.ms.sealTab (fun _ m => m.orphan), nextKid := 0 }
    life := { r.life with powered := false } }

def execPowerOnReset (s : State) : Host.Outcome State Fault Refusal := .next s.restart
def execPowerLoss (s : State) : Host.Outcome State Fault Refusal := .next s.powerOff

/-- OVERTEMP_SHUTDOWN (R434): at 125 °C. -/
def execOvertempShutdown (tmax : BitVec 8) (s : State) : Host.Outcome State Fault Refusal :=
  .next (if 125 ≤ tmax.toNat ∧ s.life.powered then s.powerOff else s)

/-! ## Boot (R423) -/

/-- IMAGE_READ: the flash image is there, with its digest and security version, or it is absent. -/
def execImageRead (present : Bool) (digest : BitVec 256) (svn : Word) (s : State) : Host.Outcome State Fault Refusal :=
  if s.life.boot ≠ .rom ∨ !s.life.powered then .next s
  else if present then .next { s with life := { s.life with boot := .verify, fromFlash := true, digest := digest, svn := svn } }
  else .next { s with life := { s.life with boot := .recovery } }

/-- VERIFY_RESULT: the second failure in one boot gives FAILED. -/
def execVerifyResult (ok : Bool) (s : State) : Host.Outcome State Fault Refusal :=
  if s.life.boot ≠ .verify then .next s
  else if ok then .next { s with life := { s.life with boot := .init } }
  else .next { s with life := { s.life with
    boot := if s.life.failures = 0 then .recovery else .failed, failures := s.life.failures + 1 } }

/-- BOOTCMD: a write of 1 in RECOVERY. -/
def execBootcmd (value : Word) (s : State) : Host.Outcome State Fault Refusal :=
  if s.life.boot ≠ .recovery ∨ value ≠ 1 then .next s
  else
    let img := Config.recoveryImage s.life.window
    .next { s with life := { s.life with boot := .verify, fromFlash := false, digest := img.1, svn := img.2 } }

/-- A repair map with its reserved bits zero (R425): five bits for each of the 208 cores of a die. -/
def repairBits (m : BitVec 2048) : BitVec 2048 := m &&& BitVec.ofNat 2048 (natOf (List.replicate 208 0x1F))

/-- A region table entry as it reads, its reserved bits zero (R4, R364). -/
def regionShown (e : BitVec 128) : BitVec 128 := e &&& BitVec.ofNat 128 ((2 ^ 52 - 1) * 2 ^ 64 + (2 ^ 53 - 1))

/-- INIT_DONE: the locked registers as the firmware wrote them, their reserved bits zero (R423-R426); a region table entry with a nonzero
reserved field stays, and is invalid (R4). -/
def execInitDone (ok : Bool) (locks : LockSet) (s : State) : Host.Outcome State Fault Refusal :=
  if s.life.boot ≠ .init then .next s
  else if !ok then .next { s with life := { s.life with boot := .failed } }
  else
    let rows (l : List (BitVec 256)) : List (BitVec 256) := (l.take 4).map (fun x => x &&& BitVec.ofNat 256 (2 ^ 208 - 1))
    .next { s with life := { s.life with
      boot := .ready, locked := true, saCore := rows locks.saCore, saMover := rows locks.saMover, saPort := locks.saPort &&& 0xFFFFFF,
      saQueue := locks.saQueue.take 12, regions := locks.regions.take 64, repairMap := (locks.repairMap.take 4).map repairBits, moved := locks.moved.take 4,
      sealRegions := locks.sealRegions } }

/-- LOCKED_REGISTER_WRITE (R424): ignored, and counted once the locks are set. -/
def execLockedRegisterWrite (offset : Nat) (_value : Dword) (s : State) : Host.Outcome State Fault Refusal :=
  .next (if lockedOffset offset then s.lockedWrite else s)

/-! ## Attestation and the watchdog of the firmware (R427, R428) -/

/-- The bytes that LOCKDIGEST covers (R426). -/
def lockBytes (l : Life) : List Byte :=
  (List.range 4).flatMap (fun d => bytesOf 32 (l.saCore.getD d 0).toNat)
    ++ (List.range 4).flatMap (fun d => bytesOf 32 (l.saMover.getD d 0).toNat)
    ++ bytesOf 4 l.saPort.toNat
    ++ (List.range 12).flatMap (fun p => bytesOf 512 (l.saQueue.getD p 0).toNat)
    ++ (List.range 64).flatMap (fun r => bytesOf 16 (regionShown (l.regions.getD r 0)).toNat)
    ++ (List.range 4).flatMap (fun d => bytesOf 256 (l.repairMap.getD d 0).toNat)

/-- Bytes 0-127 of a report. -/
def reportBody (l : Life) (nonce : BitVec 256) : List Byte :=
  bytesOf 32 nonce.toNat ++ bytesOf 4 Config.romVersion.toNat ++ bytesOf 32 l.digest.toNat ++ bytesOf 4 l.svn.toNat ++ sha256 (lockBytes l)
    ++ bytesOf 24 (if l.fromFlash then 0 else 1)

/-- A report signed by the device key (log 15). -/
def report (l : Life) (nonce : BitVec 256) : BitVec 4096 :=
  let b := reportBody l nonce
  BitVec.ofNat 4096 (natOf (b ++ rsaSign Config.deviceKey b))

/-- ATTCMD: a request, or busy while a report is built or firmware restarts. -/
def execAttcmd (value : Word) (s : State) : Host.Outcome State Fault Refusal :=
  if s.life.boot ≠ .ready ∨ !value.getLsbD 0 then .next s
  else if s.life.attPend.isSome ∨ s.life.restarting then .next { s with life := { s.life with attStat := 2 } }
  else .next { s with life := { s.life with attStat := 0, attPend := some s.life.attNonce } }

/-- ATTESTATION_REPORT_READY: building stalls while firmware restarts. -/
def execAttestationReportReady (s : State) : Host.Outcome State Fault Refusal :=
  match s.life.attPend with
  | none => .next s
  | some n =>
    if s.life.restarting then .next s
    else .next { s with life := { s.life with attRep := some (report s.life n), attStat := 1, attPend := none } }

/-- FIRMWARE_WATCHDOG (R428): the firmware restarts, or has restarted; nothing else changes. -/
def execFirmwareWatchdog (restarted : Bool) (s : State) : Host.Outcome State Fault Refusal :=
  if s.life.boot ≠ .ready then .next s else .next { s with life := { s.life with restarting := !restarted } }

/-- MBHEAD (R432): entries consumed, never beyond MBTAIL. -/
def execMbheadWrite (value : Word) (s : State) : Host.Outcome State Fault Refusal :=
  if s.life.boot = .failed ∨ !s.life.powered ∨ (s.life.mbTail - s.life.mbHead).toNat < (value - s.life.mbHead).toNat then .next s
  else .next { s with life := { s.life with mbHead := value } }

/-! ## Scrub (R430) -/

/-- PATROL_SCRUB: a correctable error is corrected and counted; an uncorrectable one poisons the sector, or empties the firn word. -/
def execPatrolScrub (t : ScrubTarget) (correctable : Bool) (s : State) : Host.Outcome State Fault Refusal :=
  let poisoned (pa : Nat) (u : State) : State := { u with ms := { u.ms with poison := Table.setD u.ms.poison false (pa / 32) true } }
  match t with
  | .sector pa =>
    if !paExists pa ∨ correctable then .next s else .next (poisoned pa (s.countUp (0x30 + 4 * homeDie pa)))
  | .l2 die pa =>
    if !paExists pa ∨ 4 ≤ die then .next s
    else if correctable then .next (s.countUp (0x20 + 4 * die))
    else .next (poisoned pa (s.countUp (0x30 + 4 * die)))
  | .firn core word =>
    if !coreValid core ∨ firnWords ≤ word then .next s
    else if correctable then .next (s.countUp (0x20 + 4 * coreDie core))
    else .next (((s.countUp (0x30 + 4 * coreDie core)).unlatchFirn core (4 * word) 4).setFirn core word ⟨0, false⟩)

/-! ## Power and temperature (R433, R434) -/

/-- Whether the power limit or the temperature limit is passed. -/
def overLimit (s : State) (tmax : BitVec 8) (pwr : BitVec 12) : Bool := decide (s.life.plimit.toNat < 2 * pwr.toNat) || decide (105 ≤ tmax.toNat)

/-- The clusters of the package (R18). -/
def allClusters : List Nat := (List.range 64).filter (fun k => decide (k % 16 < 12))

/-- A cluster lowered by 20 MHz, or gated at 780 MHz. -/
def State.lowerCluster (s : State) (k : Nat) : State :=
  let f := Table.getD s.clk 940 k
  if f ≤ 780 then State.setClock { s with life := { s.life with gate := true } } k f true
  else s.setClock k (f - 20) (Table.getD s.gated false k)

/-- THROTTLE_STEP: the sensors as measured; over a limit every cluster is lowered. -/
def execThrottleStep (tmax : BitVec 8) (pwr : BitVec 12) (s : State) : Host.Outcome State Fault Refusal :=
  if !s.life.powered then .next s
  else if overLimit s tmax pwr then
    .next (allClusters.foldl State.lowerCluster { s with life := { s.life with tmax := tmax, pwr := pwr, throt := true, clearSince := none } })
  else
    .next { s with life := { s.life with tmax := tmax, pwr := pwr, clearSince := some (s.life.clearSince.getD s.gt) } }

/-- THROTTLE_CLEAR: the condition has been clear for 1 ms. -/
def execThrottleClear (tmax : BitVec 8) (pwr : BitVec 12) (s : State) : Host.Outcome State Fault Refusal :=
  match s.life.clearSince with
  | none => .next s
  | some t =>
    if overLimit s tmax pwr ∨ s.gt < t + 1000000 then .next s
    else
      let s1 := (Table.keys s.gated).foldl (fun (u : State) k => u.setClock k (Table.getD u.clk 940 k) false) s
      .next { s1 with life := { s1.life with tmax := tmax, pwr := pwr, throt := false, gate := false } }

/-! ## What the host reads (R382, R401, R403, R429, R431) -/

/-- The value of a boot state in BOOTSTAT. -/
def Boot.code : Boot → Nat
  | .rom => 0 | .verify => 1 | .recovery => 2 | .init => 3 | .ready => 4 | .failed => 5

/-- LSTATE of a link. -/
def LinkState.code : LinkState → Nat
  | .untrained => 0 | .training => 1 | .active => 2 | .marginal => 3 | .retraining => 4 | .repaired => 5 | .degraded => 6 | .down => 7

/-- A link's control word. -/
def controlWord (l : Link) : Nat :=
  l.st.code + l.units * 2 ^ 4 + l.spares * 2 ^ 16 + l.hth.toNat * 2 ^ 24 + l.vth.toNat * 2 ^ 32 + l.auto.toNat * 2 ^ 40 + l.ie.toNat * 2 ^ 41

/-- THERM. -/
def therm (l : Life) : Nat := l.tmax.toNat + l.pwr.toNat * 2 ^ 8 + l.throt.toNat * 2 ^ 20 + l.gate.toNat * 2 ^ 21

/-- REPAIRd (R431): the moved row, and the number of exposed cores with reduced firn. -/
def repairWord (l : Life) (d : Nat) : Nat :=
  let m := (l.repairMap.getD d 0).toNat
  let cut := (List.range 208).filter (fun i => field m (8 * i) 4 != 0 && !m.testBit (8 * i + 4))
  l.moved.getD d 15 + cut.length * 2 ^ 4

/-- The four bytes at `o` of a list of registers of `n` bytes. -/
def wordIn {k : Nat} (l : List (BitVec k)) (n o : Nat) : Nat := field (l.getD (o / n) 0).toNat (8 * (o % n)) 32

/-- A 32-bit read of the management block at block offset `m`, a multiple of 4; ATTREP before any report and every offset without a
register read as zero. -/
def mgmtRead (s : State) (m : Nat) : Nat :=
  let l := s.life
  if l.boot = .failed ∧ m ≠ 0 ∧ m ≠ 8 then 0
  else if m = 0 then l.boot.code
  else if 0x10 ≤ m ∧ m < 0x20 then repairWord l ((m - 0x10) / 4)
  else if 0x20 ≤ m ∧ m < 0x60 then (Table.getD l.counts 0 m).toNat
  else if m = 0x60 then l.lockViol.toNat
  else if m = 0x64 then l.fwViol.toNat
  else if m = 0x68 then l.mgDrop.toNat
  else if m = 0x100 then therm l
  else if m = 0x108 then l.plimit.toNat
  else if 0x400 ≤ m ∧ m < 0x800 then wordIn l.repairMap 256 (m - 0x400)
  else if 0x800 ≤ m ∧ m < 0x880 then wordIn l.saCore 32 (m - 0x800)
  else if 0x880 ≤ m ∧ m < 0x900 then wordIn l.saMover 32 (m - 0x880)
  else if m = 0x900 then l.saPort.toNat
  else if 0xC00 ≤ m ∧ m < 0x1000 then wordIn (l.regions.map regionShown) 16 (m - 0xC00)
  else if 0x1000 ≤ m ∧ m < 0x1020 then field l.attNonce.toNat (8 * (m - 0x1000)) 32
  else if m = 0x1020 then l.attStat.toNat * 2 ^ 8
  else if 0x1200 ≤ m ∧ m < 0x1400 then field (l.attRep.getD 0).toNat (8 * (m - 0x1200)) 32
  else if 0x2000 ≤ m ∧ m < 0x3000 then field (Table.getD l.mailbox 0 ((m - 0x2000) / 16)).toNat (8 * (m % 16)) 32
  else if m = 0x3000 then l.mbHead.toNat
  else if m = 0x3004 then l.mbTail.toNat
  else if 0x4000 ≤ m ∧ m < 0x5800 then wordIn l.saQueue 512 (m - 0x4000)
  else if 0x1000000 ≤ m ∧ m < 0x2000000 then natOf ((List.range 4).map (fun i => Table.getD l.window 0 (m - 0x1000000 + i)))
  else 0

/-- A 32-bit read of BAR 4 (R401), its offset a multiple of 4. The read of a margin word is MARGIN_WORD_READ besides. -/
def bar4Read (s : State) (o : Nat) : Nat :=
  if s.life.boot = .failed ∧ (o < 0x800000 ∨ 0x2800000 ≤ o) then 0
  else if o < 0x300000 then
    let l := s.link (o / 4096)
    let b := o % 4096
    if !linkValid (o / 4096) then 0
    else if b < 8 then field (controlWord l) (8 * b) 32
    else if 0x100 ≤ b ∧ b < 0x800 then
      (match l.lanes[(b - 0x100) / 4]? with | some x => x.1.toNat + x.2.1.toNat * 2 ^ 8 + x.2.2.toNat * 2 ^ 16 | none => 0)
    else if 0x800 ≤ b then (l.banks.getD ((b - 0x800) / 2) 0).toNat + (l.banks.getD ((b - 0x800) / 2 + 1) 0).toNat * 2 ^ 16
    else 0
  else if 0x800000 ≤ o ∧ o < 0x2800000 then mgmtRead s (o - 0x800000)
  else if 0x3000000 ≤ o ∧ o < 0x3400000 then field (Table.getD s.net.routes 0 ((o - 0x3000000) / 8)).toNat (8 * (o % 8)) 32
  else if 0x4000000 ≤ o ∧ o < 0x4180000 then field (Table.getD s.net.groups 0 ((o - 0x4000000) / 512)).toNat (8 * (o % 512)) 32
  else 0

/-- A 64-bit read of BAR 0 of function `fn` (R382, R429): JSEQ and JBASE of its partition, and HCMDSTAT. -/
def bar0Read (s : State) (fn o : Nat) : Dword :=
  if o = 0x50 then Table.getD s.hcmdStat 0 fn
  else if fn = 0 then 0
  else if o = 0x40 then (s.part (fn - 1)).jSeq
  else if o = 0x48 then (s.part (fn - 1)).jBase
  else 0

end Sys2Proof.Machine
end

