-- ==== Sys2Proof/Machine/Return.lean ====
section
/-! DEFINITION. The ends of outstanding operations, whichever unit performs them (R115, R166, R177), and the end of a wait (R137, R150). -/

namespace Sys2Proof.Machine

/-- DATA_RETURN (R115): the operation's data arrives, or its answer. -/
def execDataReturn (op : Nat) (s : State) : Host.Outcome State Fault Refusal :=
  match Table.find? s.ops op with
  | none => .next s
  | some o =>
    if o.isSt then .next s
    else match o.kind with
      | .walker => .next (treeReturn s op o)
      | .alloc => .next (treeReturn s op o)
      | .event => .next (eventReturn s op o)
      | .launch => .next (launchArrive s op o)
      | .enq => .next (enqReturn s op o)
      | .halo => .next s
      | .msg => .next s
      | .coll => .next s
      | _ => .next (laneReturn s op o)

/-- STORE_PERFORMED (R166): the operation is performed at its scope and leaves st. -/
def execStorePerformed (op : Nat) (s : State) : Host.Outcome State Fault Refusal :=
  match Table.find? s.ops op with
  | none => .next s
  | some o =>
    if !o.isSt then .next s
    else match o.kind with
      | .walker => .next (twstStored s op o)
      | .launch => .next (launchArrive s op o)
      | .halo => .next (haloStored s op o)
      | .msg => .next (msgStored s op o)
      | .coll => .next (collStored s op o)
      | .alloc => .next s
      | .event => .next s
      | .enq => .next s
      | _ => .next (laneStored s op o)

/-- TRANSFER_FAULT (R177). -/
def execTransferFault (op : Nat) (s : State) : Host.Outcome State Fault Refusal :=
  match Table.find? s.ops op with
  | none => .next s
  | some o =>
    match o.kind with
    | .walker => .next (treeFault s op o)
    | .alloc => .next (treeFault s op o)
    | .halo => .next (linkFault s op o)
    | .msg => .next (linkFault s op o)
    | .coll => .next (linkFault s op o)
    | .enq => .next (linkFault s op o)
    | .event => .next s
    | .launch => .next s
    | _ => .next (laneFault s op o)

/-- The effect of the instruction that held a floe, once what it waited for holds. -/
def waitEffect (s : State) (h : Nat) (f : Floe) (w : Wait) : State :=
  match w with
  | .ops _ .none => s
  | .ops _ .used => s
  | .ops _ .unord => s.dropUnord f.core
  | .ops _ .desc => s.dropDescs f.core
  | .ops _ (.tlbinv i a) => s.tlbinv f.core f.ctx i a
  | .fence _ _ drop => if drop then s.dropUnord f.core else s
  | .migrate d => s.migrateEnd h f d
  | .acreset k => s.acClear h k
  | .barrier _ => s.barAcquire f.core
  | .arrive c leave _ => s.arriveAt h f c leave
  | _ => s

/-- CONDITION_MET (R137, R150): the floe's instruction has its effect and retires, or issues again; BARS then waits for its release. A floe
that a fault took out of a wait begins it again first (wait_begin, log 52); one of a FAULTED context is stopped in place (R359). -/
def execConditionMet (floe : Nat) (s : State) : Host.Outcome State Fault Refusal :=
  match s.floe? floe with
  | none => .next s
  | some f =>
    if s.stopped f then .next s
    else match f.state, f.wait with
    | .ready, some _ => .next (s.modFloe floe (fun g => { g with state := .waiting }))
    | .waiting, some w =>
      if !waitHolds s floe f w then .next s
      else
        let s1 := waitEffect s floe f w
        (match w with
         | .arrive c _ true => .next (s1.modFloe floe (fun g => { g with wait := some (.barrier c) }))
         | .ops _ (.tlbinv i a) =>
           let left := s.tlbUsers f.core f.ctx i a
           .next (s1.modFloe floe (fun g => if left.isEmpty then g.resume (s.mck f.core) else { g with wait := some (.ops left .used) }))
         | _ => .next (s1.modFloe floe (fun g => g.resume (s.mck f.core))))
    | _, _ => .next s

end Sys2Proof.Machine
end

