-- ==== Sys2Proof/Machine/Val.lean ====
section
/-! DEFINITION. Class 4: compares, validity, selection, votes, shuffles, reductions and prefixes (R130-R136). -/

namespace Sys2Proof.Machine

/-- Register words written with data and V as given. -/
def writeRaw (f : Floe) : List (Nat × Reg × FirnWord) → State → State
  | [], s => s
  | (l, r, x) :: t, s => writeRaw f t (s.wrReg f r l x)

/-- A one-word register group with data and V given lane by lane. -/
def rawLanes (regs : List Reg) (rs : List (Nat × FirnWord)) : List (Nat × Reg × FirnWord) :=
  rs.flatMap (fun p => (regs.take 1).map (fun r => (p.1, r, p.2)))

/-! ## Compares (R130) -/

/-- The condition of M[11:9] on an ordering; `none` is unordered. -/
def condHolds (m : Nat) (o : Option Ordering) : Bool :=
  match m, o with
  | 0, some .eq => true
  | 1, some .eq => false
  | 1, _ => true
  | 2, some .lt => true
  | 3, some .lt => true
  | 3, some .eq => true
  | 4, some .gt => true
  | 5, some .gt => true
  | 5, some .eq => true
  | 6, some _ => true
  | 7, none => true
  | _, _ => false

/-- Writes a condition word, and its complement to d + 1 under .p (R130). -/
def condWrites (regs : List Reg) (l : Nat) (r : Bool) : List (Nat × Reg × FirnWord) :=
  match regs with
  | [d] => [(l, d, ⟨if r then 1 else 0, r⟩)]
  | d :: d1 :: _ => [(l, d, ⟨if r then 1 else 0, r⟩), (l, d1, ⟨if r then 0 else 1, !r⟩)]
  | [] => []

/-- A compare's body: `cmp` orders the operands' bits. -/
def cmpBody (imm : Nat) (cmp : Nat → Nat → Option Ordering) (w : FWord) (sh : Shape) (e : Env) (s : State) : Res :=
  .done ((computeLanes w e).foldl (fun t l =>
    match laneSrcs s w sh e imm l with
    | none => t.wrGroup e.f l false sh.d.writes 0
    | some v => writeRaw e.f (condWrites sh.d.writes l (condHolds (w.m.toNat % 8) (cmp v.1 v.2.1))) t) s)

def icmpOrd (w : FWord) (a b : Nat) : Option Ordering := some (compare (ivW w a) (ivW w b))
def fcmpOrd (f : Fmt) (a b : Nat) : Option Ordering := numCmp (f.decode a) (f.decode b)

/-- ICMP, FCMP, DCMP (R130). -/
def icmpBody (w : FWord) (sh : Shape) (e : Env) (s : State) : Res := cmpBody (immInt w sh.b.wide) (icmpOrd w) w sh e s
def fcmpBody (w : FWord) (sh : Shape) (e : Env) (s : State) : Res := cmpBody (immFp w false) (fcmpOrd .fp32) w sh e s
def dcmpBody (w : FWord) (sh : Shape) (e : Env) (s : State) : Res := cmpBody (immFp w true) (fcmpOrd .fp64) w sh e s
def execIcmp (w : FWord) (s : State) : Host.Outcome State Fault Refusal := issueF (.icmp w) icmpBody s
def execFcmp (w : FWord) (s : State) : Host.Outcome State Fault Refusal := issueF (.fcmp w) fcmpBody s
def execDcmp (w : FWord) (s : State) : Host.Outcome State Fault Refusal := issueF (.dcmp w) dcmpBody s

/-! ## Validity as data (R131) -/

/-- A body that writes each computing lane's D with data and V given; no V rule 2. -/
def rawBody (val : State → Env → Nat → FirnWord) (w : FWord) (sh : Shape) (e : Env) (s : State) : Res :=
  .done (writeRaw e.f (rawLanes sh.d.writes ((computeLanes w e).map (fun l => (l, val s e l)))) s)

/-- Data and V of source A and of source B (an immediate is valid, R39). -/
def srcA (w : FWord) (s : State) (e : Env) (l : Nat) : Nat × Bool := rdOp s e.f l w.a 1
def srcB (w : FWord) (s : State) (e : Env) (l : Nat) : Nat × Bool :=
  match w.x with
  | some x => (x.imm.toNat, true)
  | none => rdOp s e.f l w.b 1

def vsetVal (w : FWord) (s : State) (e : Env) (l : Nat) : FirnWord := ⟨BitVec.ofNat 32 (srcA w s e l).1, true⟩
def vclrVal (w : FWord) (s : State) (e : Env) (l : Nat) : FirnWord := ⟨BitVec.ofNat 32 (srcA w s e l).1, false⟩
def vtestVal (w : FWord) (s : State) (e : Env) (l : Nat) : FirnWord := ⟨if (srcA w s e l).2 then 1 else 0, true⟩
def vandVal (w : FWord) (s : State) (e : Env) (l : Nat) : FirnWord :=
  let a := (srcA w s e l).2
  let b := (srcB w s e l).2
  let v := match w.m.toNat with | 0 => a && b | 1 => a && !b | _ => a || b
  ⟨if v then 1 else 0, v⟩

def execVset (w : FWord) (s : State) : Host.Outcome State Fault Refusal := issueF (.vset w) (fun v => rawBody (vsetVal v) v) s
def execVclr (w : FWord) (s : State) : Host.Outcome State Fault Refusal := issueF (.vclr w) (fun v => rawBody (vclrVal v) v) s
def execVtest (w : FWord) (s : State) : Host.Outcome State Fault Refusal := issueF (.vtest w) (fun v => rawBody (vtestVal v) v) s
def execVand (w : FWord) (s : State) : Host.Outcome State Fault Refusal := issueF (.vand w) (fun v => rawBody (vandVal v) v) s

/-! ## SEL (R132) -/

/-- SEL acts in every lane of the active mask, once for a uniform D; exec of a uniform SEL is the active mask (R37, R132). That the V of the
lowest active lane's guard word chooses where D is uniform and the guard a vector register is the model's choice (log 102). -/
def selBody (w : FWord) (sh : Shape) (e : Env) (s : State) : Res :=
  let lanes := if Code.isUni w.d then (maskLanes e.sl.mask).take 1 else maskLanes e.sl.mask
  let imm := immInt w sh.b.wide
  .done (writeLanes e.f sh.d.writes (lanes.map (fun l =>
    let g := match codeRegs w.g 1 with | r :: _ => (s.rdReg e.f r l).v | [] => true
    let v := if g then rdOp s e.f l w.a sh.a.words else if sh.b.src then rdOp s e.f l w.b sh.b.words else (imm, true)
    (l, if v.2 then some v.1 else none))) s)

def execSel (w : FWord) (s : State) : Host.Outcome State Fault Refusal := issueF (.sel w) selBody s

/-! ## Votes (R133, R134) -/

/-- The lanes of exec whose A is valid and not zero. -/
def truthy (s : State) (w : FWord) (e : Env) (l : Nat) : Bool := let a := srcA w s e l; a.2 && a.1 != 0

def ballotBody (w : FWord) (sh : Shape) (e : Env) (s : State) : Res :=
  finishFloe w sh e ((lanesMask ((maskLanes e.exec).filter (truthy s w e))).toNat, Fx.none) s

/-- VOTE's condition (R134). -/
def voteVal (s : State) (w : FWord) (e : Env) : Bool :=
  let ls := maskLanes e.exec
  match w.m.toNat with
  | 0 => ls.any (truthy s w e)
  | 1 => ls.all (truthy s w e)
  | _ => ls.all (fun l => (srcA w s e l).2)
      && (match ls with | l0 :: _ => ls.all (fun l => (srcA w s e l).1 == (srcA w s e l0).1) | [] => true)

def voteBody (w : FWord) (sh : Shape) (e : Env) (s : State) : Res :=
  rawBody (fun s e _ => let r := voteVal s w e; ⟨if r then 1 else 0, r⟩) w sh e s

def execBallot (w : FWord) (s : State) : Host.Outcome State Fault Refusal := issueF (.ballot w) ballotBody s
def execVote (w : FWord) (s : State) : Host.Outcome State Fault Refusal := issueF (.vote w) voteBody s

/-! ## SHFL (R135) -/

/-- The lane a shuffle reads. -/
def shflSrc (mode : Nat) (l n : Nat) : Nat :=
  let src : Int := match mode with
    | 0 => ((n % 32 : Nat) : Int)
    | 1 => (l : Int) - (n : Int)
    | 2 => (l : Int) + (n : Int)
    | _ => ((l ^^^ (n % 32) : Nat) : Int)
  if src < 0 ∨ 31 < src then l else src.toNat

def shflBody (w : FWord) (sh : Shape) (e : Env) (s : State) : Res :=
  .done (writeLanes e.f sh.d.writes ((computeLanes w e).map (fun l =>
    let b := srcB w s e l
    if !b.2 then (l, none)
    else
      let a := rdOp s e.f (shflSrc (w.m.toNat % 4) l b.1) w.a sh.a.words
      (l, if a.2 then some a.1 else none))) s)

def execShfl (w : FWord) (s : State) : Host.Outcome State Fault Refusal := issueF (.shfl w) shflBody s

/-! ## REDUX and SCAN (R136) -/

/-- One step of the operation of M. -/
def reduxStep (w : FWord) (x y : Nat) : Nat × Fx :=
  let sg := sSigned w
  match w.m.toNat with
  | 0 => plain ((x + y) % 2 ^ 32)
  | 1 => plain (wrapBits 32 (min (ival 32 sg x) (ival 32 sg y)))
  | 2 => plain (wrapBits 32 (max (ival 32 sg x) (ival 32 sg y)))
  | 3 => plain (x &&& y)
  | 4 => plain (x ||| y)
  | 5 => plain (x ^^^ y)
  | 6 => fpAddR .fp32 false (modeOf w) x y
  | 7 => fpMinR .fp32 false x y
  | _ => fpMaxR .fp32 false x y

/-- The identity of the operation of M (R136). -/
def reduxId (w : FWord) : Nat :=
  match w.m.toNat with
  | 1 => if sSigned w then 0x7FFFFFFF else 0xFFFFFFFF
  | 2 => if sSigned w then 0x80000000 else 0
  | 3 => 0xFFFFFFFF
  | 7 => 0x7F800000
  | 8 => 0xFF800000
  | _ => 0

/-- A NaN that an FP operation writes is the canonical one, also where one value contributes (R86). -/
def reduxCanon (w : FWord) (x : Nat) : Nat := if 6 ≤ w.m.toNat ∧ 0x7F800000 < x % 2 ^ 31 then 0x7FC00000 else x

/-- The reduction of the lanes' values in order, starting from the first, with the conditions of its steps by the lane whose value each takes. -/
def reduce (w : FWord) : List (Nat × Nat) → Nat × List (Nat × Fx)
  | [] => (reduxId w, [])
  | x :: t =>
    let r := t.foldl (fun (acc : Nat × List (Nat × Fx)) y => let r := reduxStep w acc.1 y.2; (r.1, acc.2 ++ [(y.1, r.2)])) (x.2, [])
    (reduxCanon w r.1, r.2)

/-- The end of REDUX and SCAN: one trap for the whole instruction, in the lanes whose steps raise an enabled condition (R102, log 21). -/
def finishWide (regs : List Reg) (e : Env) (steps : List (Nat × Fx)) (rs : List (Nat × Nat)) (s : State) : Res :=
  let x := steps.foldl (fun a r => a.or r.2) Fx.none
  let s1 := s.orFlags e.h x
  match fpTrap e.f.fpflags x with
  | some c => .trap { cause := c, lanes := lanesMask ((steps.filter (fun r => (fpTrap e.f.fpflags r.2).isSome)).map Prod.fst) } s1
  | none => .done (writeLanes e.f regs (rs.map (fun r => (r.1, some r.2))) s1)

def reduxBody (w : FWord) (sh : Shape) (e : Env) (s : State) : Res :=
  if e.exec = 0 then .done s
  else
    let r := reduce w (contributing s w e)
    finishWide sh.d.writes e r.2 ((computeLanes w e).map (fun l => (l, r.1))) s

/-- SCAN: each lane's prefix, the steps being those of the longest: that an exclusive SCAN makes none for a value no prefix holds is the model's
choice (log 75). -/
def scanBody (w : FWord) (sh : Shape) (e : Env) (s : State) : Res :=
  let vals := contributing s w e
  let upto (l : Nat) : List (Nat × Nat) := vals.filter (fun p => if w.c = 0 then decide (p.1 ≤ l) else decide (p.1 < l))
  let ls := maskLanes e.exec
  finishWide sh.d.writes e (reduce w (upto (ls.foldl max 0))).2 (ls.map (fun l => (l, (reduce w (upto l)).1))) s

def execRedux (w : FWord) (s : State) : Host.Outcome State Fault Refusal := issueF (.redux w) reduxBody s
def execScan (w : FWord) (s : State) : Host.Outcome State Fault Refusal := issueF (.scan w) scanBody s

end Sys2Proof.Machine
end

