-- ==== Sys2Proof/Machine/Dispatch.lean ====
section
/-! DEFINITION. Every instruction to its meaning. -/

namespace Sys2Proof.Machine

def exec (i : Instr) (s : State) : Host.Outcome State Fault Refusal :=
  match i with
  | .mov w => Sys2Proof.Machine.execMov w s
  | .movi w => Sys2Proof.Machine.execMovi w s
  | .iadd w => Sys2Proof.Machine.execIadd w s
  | .isub w => Sys2Proof.Machine.execIsub w s
  | .imul w => Sys2Proof.Machine.execImul w s
  | .imulh w => Sys2Proof.Machine.execImulh w s
  | .imad w => Sys2Proof.Machine.execImad w s
  | .imadw w => Sys2Proof.Machine.execImadw w s
  | .imin w => Sys2Proof.Machine.execImin w s
  | .imax w => Sys2Proof.Machine.execImax w s
  | .iabs w => Sys2Proof.Machine.execIabs w s
  | .ltab w => Sys2Proof.Machine.execLtab w s
  | .and w => Sys2Proof.Machine.execAnd w s
  | .or w => Sys2Proof.Machine.execOr w s
  | .xor w => Sys2Proof.Machine.execXor w s
  | .shl w => Sys2Proof.Machine.execShl w s
  | .shr w => Sys2Proof.Machine.execShr w s
  | .sar w => Sys2Proof.Machine.execSar w s
  | .shf w => Sys2Proof.Machine.execShf w s
  | .bfe w => Sys2Proof.Machine.execBfe w s
  | .bfi w => Sys2Proof.Machine.execBfi w s
  | .popc w => Sys2Proof.Machine.execPopc w s
  | .clz w => Sys2Proof.Machine.execClz w s
  | .brev w => Sys2Proof.Machine.execBrev w s
  | .lea w => Sys2Proof.Machine.execLea w s
  | .fadd w => Sys2Proof.Machine.execFadd w s
  | .fsub w => Sys2Proof.Machine.execFsub w s
  | .fmul w => Sys2Proof.Machine.execFmul w s
  | .ffma w => Sys2Proof.Machine.execFfma w s
  | .fmin w => Sys2Proof.Machine.execFmin w s
  | .fmax w => Sys2Proof.Machine.execFmax w s
  | .fmov w => Sys2Proof.Machine.execFmov w s
  | .frcp w => Sys2Proof.Machine.execFrcp w s
  | .frsq w => Sys2Proof.Machine.execFrsq w s
  | .fsqrt w => Sys2Proof.Machine.execFsqrt w s
  | .fex2 w => Sys2Proof.Machine.execFex2 w s
  | .flg2 w => Sys2Proof.Machine.execFlg2 w s
  | .fsin w => Sys2Proof.Machine.execFsin w s
  | .fcos w => Sys2Proof.Machine.execFcos w s
  | .hadd2 w => Sys2Proof.Machine.execHadd2 w s
  | .hmul2 w => Sys2Proof.Machine.execHmul2 w s
  | .hfma2 w => Sys2Proof.Machine.execHfma2 w s
  | .dadd w => Sys2Proof.Machine.execDadd w s
  | .dmul w => Sys2Proof.Machine.execDmul w s
  | .dfma w => Sys2Proof.Machine.execDfma w s
  | .dmin w => Sys2Proof.Machine.execDmin w s
  | .dmax w => Sys2Proof.Machine.execDmax w s
  | .drcp w => Sys2Proof.Machine.execDrcp w s
  | .drsq w => Sys2Proof.Machine.execDrsq w s
  | .dmov w => Sys2Proof.Machine.execDmov w s
  | .cvt w => Sys2Proof.Machine.execCvt w s
  | .cvti w => Sys2Proof.Machine.execCvti w s
  | .pack w => Sys2Proof.Machine.execPack w s
  | .unpk w => Sys2Proof.Machine.execUnpk w s
  | .qscan w => Sys2Proof.Machine.execQscan w s
  | .icmp w => Sys2Proof.Machine.execIcmp w s
  | .fcmp w => Sys2Proof.Machine.execFcmp w s
  | .dcmp w => Sys2Proof.Machine.execDcmp w s
  | .vset w => Sys2Proof.Machine.execVset w s
  | .vclr w => Sys2Proof.Machine.execVclr w s
  | .vtest w => Sys2Proof.Machine.execVtest w s
  | .vand w => Sys2Proof.Machine.execVand w s
  | .sel w => Sys2Proof.Machine.execSel w s
  | .ballot w => Sys2Proof.Machine.execBallot w s
  | .vote w => Sys2Proof.Machine.execVote w s
  | .shfl w => Sys2Proof.Machine.execShfl w s
  | .redux w => Sys2Proof.Machine.execRedux w s
  | .scan w => Sys2Proof.Machine.execScan w s
  | .nop w => Sys2Proof.Machine.execNop w s
  | .br w => Sys2Proof.Machine.execBr w s
  | .brx w => Sys2Proof.Machine.execBrx w s
  | .jmp w => Sys2Proof.Machine.execJmp w s
  | .call w => Sys2Proof.Machine.execCall w s
  | .ret w => Sys2Proof.Machine.execRet w s
  | .exit w => Sys2Proof.Machine.execExit w s
  | .elect w => Sys2Proof.Machine.execElect w s
  | .yield w => Sys2Proof.Machine.execYield w s
  | .trap w => Sys2Proof.Machine.execTrap w s
  | .brk w => Sys2Proof.Machine.execBrk w s
  | .sleep w => Sys2Proof.Machine.execSleep w s
  | .ld w => Sys2Proof.Machine.execLd w s
  | .st w => Sys2Proof.Machine.execSt w s
  | .lda w => Sys2Proof.Machine.execLda w s
  | .ldx w => Sys2Proof.Machine.execLdx w s
  | .stx w => Sys2Proof.Machine.execStx w s
  | .stc w => Sys2Proof.Machine.execStc w s
  | .lde w => Sys2Proof.Machine.execLde w s
  | .ldr w => Sys2Proof.Machine.execLdr w s
  | .str w => Sys2Proof.Machine.execStr w s
  | .pref w => Sys2Proof.Machine.execPref w s
  | .cpy w => Sys2Proof.Machine.execCpy w s
  | .cpyd w => Sys2Proof.Machine.execCpyd w s
  | .cpcommit w => Sys2Proof.Machine.execCpcommit w s
  | .wait w => Sys2Proof.Machine.execWait w s
  | .acreset w => Sys2Proof.Machine.execAcreset w s
  | .dfence w => Sys2Proof.Machine.execDfence w s
  | .atom w => Sys2Proof.Machine.execAtom w s
  | .red w => Sys2Proof.Machine.execRed w s
  | .cas w => Sys2Proof.Machine.execCas w s
  | .atomf w => Sys2Proof.Machine.execAtomf w s
  | .lock w => Sys2Proof.Machine.execLock w s
  | .unlock w => Sys2Proof.Machine.execUnlock w s
  | .fence w => Sys2Proof.Machine.execFence w s
  | .flushtag w => Sys2Proof.Machine.execFlushtag w s
  | .leasedrop w => Sys2Proof.Machine.execLeasedrop w s
  | .mctx w => Sys2Proof.Machine.execMctx w s
  | .mrel w => Sys2Proof.Machine.execMrel w s
  | .mma w => Sys2Proof.Machine.execMma w s
  | .mmap w => Sys2Proof.Machine.execMmap w s
  | .mmag w => Sys2Proof.Machine.execMmag w s
  | .mmax w => Sys2Proof.Machine.execMmax w s
  | .mld w => Sys2Proof.Machine.execMld w s
  | .mst w => Sys2Proof.Machine.execMst w s
  | .mzero w => Sys2Proof.Machine.execMzero w s
  | .tpset w => Sys2Proof.Machine.execTpset w s
  | .tpscan w => Sys2Proof.Machine.execTpscan w s
  | .msync w => Sys2Proof.Machine.execMsync w s
  | .twbind w => Sys2Proof.Machine.execTwbind w s
  | .twlk w => Sys2Proof.Machine.execTwlk w s
  | .twld w => Sys2Proof.Machine.execTwld w s
  | .twst w => Sys2Proof.Machine.execTwst w s
  | .twsten w => Sys2Proof.Machine.execTwsten w s
  | .twray w => Sys2Proof.Machine.execTwray w s
  | .twleaf w => Sys2Proof.Machine.execTwleaf w s
  | .twinv w => Sys2Proof.Machine.execTwinv w s
  | .tains w => Sys2Proof.Machine.execTains w s
  | .tadel w => Sys2Proof.Machine.execTadel w s
  | .tamask w => Sys2Proof.Machine.execTamask w s
  | .tacommit w => Sys2Proof.Machine.execTacommit w s
  | .enq w => Sys2Proof.Machine.execEnq w s
  | .nodeout w => Sys2Proof.Machine.execNodeout w s
  | .recv w => Sys2Proof.Machine.execRecv w s
  | .evsig w => Sys2Proof.Machine.execEvsig w s
  | .evwait w => Sys2Proof.Machine.execEvwait w s
  | .evclr w => Sys2Proof.Machine.execEvclr w s
  | .launch w => Sys2Proof.Machine.execLaunch w s
  | .bara w => Sys2Proof.Machine.execBara w s
  | .barw w => Sys2Proof.Machine.execBarw w s
  | .bars w => Sys2Proof.Machine.execBars w s
  | .bart w => Sys2Proof.Machine.execBart w s
  | .packq w => Sys2Proof.Machine.execPackq w s
  | .rld w => Sys2Proof.Machine.execRld w s
  | .rwr w => Sys2Proof.Machine.execRwr w s
  | .ratom w => Sys2Proof.Machine.execRatom w s
  | .halo w => Sys2Proof.Machine.execHalo w s
  | .coll w => Sys2Proof.Machine.execColl w s
  | .msg w => Sys2Proof.Machine.execMsg w s
  | .rdsr w => Sys2Proof.Machine.execRdsr w s
  | .wrsr w => Sys2Proof.Machine.execWrsr w s
  | .svc w => Sys2Proof.Machine.execSvc w s
  | .trapret w => Sys2Proof.Machine.execTrapret w s
  | .setrole w => Sys2Proof.Machine.execSetrole w s
  | .setmode w => Sys2Proof.Machine.execSetmode w s
  | .tlbinv w => Sys2Proof.Machine.execTlbinv w s
  | .ctxcmd w => Sys2Proof.Machine.execCtxcmd w s
  | .ptload w => Sys2Proof.Machine.execPtload w s
  | .halt w => Sys2Proof.Machine.execHalt w s
  | .pairWord h0 h1 => Sys2Proof.Machine.execPairWord h0 h1 s
  | .reservedOpcode w => Sys2Proof.Machine.execReservedOpcode w s
  | .orphanExtension w => Sys2Proof.Machine.execOrphanExtension w s
  | .floeAged floe => Sys2Proof.Machine.execFloeAged floe s
  | .conditionMet floe => Sys2Proof.Machine.execConditionMet floe s
  | .sleepDeadline floe => Sys2Proof.Machine.execSleepDeadline floe s
  | .launchDone floe => Sys2Proof.Machine.execLaunchDone floe s
  | .dataReturn op => Sys2Proof.Machine.execDataReturn op s
  | .storePerformed op => Sys2Proof.Machine.execStorePerformed op s
  | .transferFault op => Sys2Proof.Machine.execTransferFault op s
  | .copyStart core copy => Sys2Proof.Machine.execCopyStart core copy s
  | .copyComplete core copy => Sys2Proof.Machine.execCopyComplete core copy s
  | .copyFault core copy => Sys2Proof.Machine.execCopyFault core copy s
  | .moverTrapDelivery floe => Sys2Proof.Machine.execMoverTrapDelivery floe s
  | .sliceHoldEnd op => Sys2Proof.Machine.execSliceHoldEnd op s
  | .l1TagSweep core => Sys2Proof.Machine.execL1TagSweep core s
  | .predictorDecay => Sys2Proof.Machine.execPredictorDecay s
  | .readMsg die line span slot => Sys2Proof.Machine.execReadMsg die line span slot s
  | .writeMsg op line => Sys2Proof.Machine.execWriteMsg op line s
  | .atomicMsg op line => Sys2Proof.Machine.execAtomicMsg op line s
  | .evictMsg die line => Sys2Proof.Machine.execEvictMsg die line s
  | .ackMsg die line => Sys2Proof.Machine.execAckMsg die line s
  | .returnMsg die line => Sys2Proof.Machine.execReturnMsg die line s
  | .sharerInvalidate die line => Sys2Proof.Machine.execSharerInvalidate die line s
  | .sharerUpdate die line => Sys2Proof.Machine.execSharerUpdate die line s
  | .recall die line => Sys2Proof.Machine.execRecall die line s
  | .tileOperationPerform core mctx stream => Sys2Proof.Machine.execTileOperationPerform core mctx stream s
  | .matrixContextGrant core => Sys2Proof.Machine.execMatrixContextGrant core s
  | .matrixContextDrained core mctx => Sys2Proof.Machine.execMatrixContextDrained core mctx s
  | .allocatorOperation op => Sys2Proof.Machine.execAllocatorOperation op s
  | .leafEnumeration ctx inst => Sys2Proof.Machine.execLeafEnumeration ctx inst s
  | .haloDestinationSignal op dest => Sys2Proof.Machine.execHaloDestinationSignal op dest s
  | .walkerNodeRecord part queue => Sys2Proof.Machine.execWalkerNodeRecord part queue s
  | .blenderRecord part queue => Sys2Proof.Machine.execBlenderRecord part queue s
  | .launchEngineTake die => Sys2Proof.Machine.execLaunchEngineTake die s
  | .floePlacement die => Sys2Proof.Machine.execFloePlacement die s
  | .deadlineRestore floe => Sys2Proof.Machine.execDeadlineRestore floe s
  | .floeSaved floe => Sys2Proof.Machine.execFloeSaved floe s
  | .floeRestore floe core => Sys2Proof.Machine.execFloeRestore floe core s
  | .saveRldTimeout op => Sys2Proof.Machine.execSaveRldTimeout op s
  | .instanceDone ctx inst => Sys2Proof.Machine.execInstanceDone ctx inst s
  | .eventSignal ctx => Sys2Proof.Machine.execEventSignal ctx s
  | .eventWait ctx => Sys2Proof.Machine.execEventWait ctx s
  | .eventClear ctx => Sys2Proof.Machine.execEventClear ctx s
  | .accept part => Sys2Proof.Machine.execAccept part s
  | .hostApertureRecord fn offset bytes => Sys2Proof.Machine.execHostApertureRecord fn offset bytes s
  | .queueTimeout part queue => Sys2Proof.Machine.execQueueTimeout part queue s
  | .queueBatchLaunch part queue => Sys2Proof.Machine.execQueueBatchLaunch part queue s
  | .barrierArrival part colour => Sys2Proof.Machine.execBarrierArrival part colour s
  | .releaseDone part colour => Sys2Proof.Machine.execReleaseDone part colour s
  | .clockStep refuse => Sys2Proof.Machine.execClockStep refuse s
  | .gtCorrection core target => Sys2Proof.Machine.execGtCorrection core target s
  | .contextSaved ctx => Sys2Proof.Machine.execContextSaved ctx s
  | .scrubbed ctx => Sys2Proof.Machine.execScrubbed ctx s
  | .migrationFlushAck ctx => Sys2Proof.Machine.execMigrationFlushAck ctx s
  | .faultRecordPost ctx => Sys2Proof.Machine.execFaultRecordPost ctx s
  | .watchdog floe => Sys2Proof.Machine.execWatchdog floe s
  | .replay src => Sys2Proof.Machine.execReplay src s
  | .rekey src => Sys2Proof.Machine.execRekey src s
  | .save src => Sys2Proof.Machine.execSave src s
  | .restore src => Sys2Proof.Machine.execRestore src s
  | .migrate src => Sys2Proof.Machine.execMigrate src s
  | .kload src => Sys2Proof.Machine.execKload src s
  | .kplace src => Sys2Proof.Machine.execKplace src s
  | .kbind src => Sys2Proof.Machine.execKbind src s
  | .kunbind src => Sys2Proof.Machine.execKunbind src s
  | .kunload src => Sys2Proof.Machine.execKunload src s
  | .qenable src => Sys2Proof.Machine.execQenable src s
  | .qdisable src => Sys2Proof.Machine.execQdisable src s
  | .kill src => Sys2Proof.Machine.execKill src s
  | .unhalt src => Sys2Proof.Machine.execUnhalt src s
  | .create src => Sys2Proof.Machine.execCreate src s
  | .destroy src => Sys2Proof.Machine.execDestroy src s
  | .setsr src => Sys2Proof.Machine.execSetsr src s
  | .hlaunch src => Sys2Proof.Machine.execHlaunch src s
  | .pageWalk core ctx va => Sys2Proof.Machine.execPageWalk core ctx va s
  | .sealFill ctx block => Sys2Proof.Machine.execSealFill ctx block s
  | .marginSample link lanes => Sys2Proof.Machine.execMarginSample link lanes s
  | .linkRetrain link => Sys2Proof.Machine.execLinkRetrain link s
  | .linkDisable link => Sys2Proof.Machine.execLinkDisable link s
  | .linkEnable link => Sys2Proof.Machine.execLinkEnable link s
  | .trainingDone link ok => Sys2Proof.Machine.execTrainingDone link ok s
  | .retrainingDone link spares units clean => Sys2Proof.Machine.execRetrainingDone link spares units clean s
  | .linkFail link => Sys2Proof.Machine.execLinkFail link s
  | .marginWordRead link lane => Sys2Proof.Machine.execMarginWordRead link lane s
  | .reqMessage m => Sys2Proof.Machine.execReqMessage m s
  | .rspMessage m => Sys2Proof.Machine.execRspMessage m s
  | .enqMessage m => Sys2Proof.Machine.execEnqMessage m s
  | .barMessage m => Sys2Proof.Machine.execBarMessage m s
  | .haloMessage m => Sys2Proof.Machine.execHaloMessage m s
  | .mgmtMessage m => Sys2Proof.Machine.execMgmtMessage m s
  | .requestTimeout op => Sys2Proof.Machine.execRequestTimeout op s
  | .collRoundComplete part group round => Sys2Proof.Machine.execCollRoundComplete part group round s
  | .patrolScrub t correctable => Sys2Proof.Machine.execPatrolScrub t correctable s
  | .powerOnReset => Sys2Proof.Machine.execPowerOnReset s
  | .imageRead present digest svn => Sys2Proof.Machine.execImageRead present digest svn s
  | .verifyResult ok => Sys2Proof.Machine.execVerifyResult ok s
  | .bootcmd value => Sys2Proof.Machine.execBootcmd value s
  | .initDone ok locks => Sys2Proof.Machine.execInitDone ok locks s
  | .lockedRegisterWrite offset value => Sys2Proof.Machine.execLockedRegisterWrite offset value s
  | .attcmd value => Sys2Proof.Machine.execAttcmd value s
  | .attestationReportReady => Sys2Proof.Machine.execAttestationReportReady s
  | .firmwareWatchdog restarted => Sys2Proof.Machine.execFirmwareWatchdog restarted s
  | .mbheadWrite value => Sys2Proof.Machine.execMbheadWrite value s
  | .throttleStep tmax pwr => Sys2Proof.Machine.execThrottleStep tmax pwr s
  | .throttleClear tmax pwr => Sys2Proof.Machine.execThrottleClear tmax pwr s
  | .overtempShutdown tmax => Sys2Proof.Machine.execOvertempShutdown tmax s
  | .barRegisterWrite offset size value => Sys2Proof.Machine.execBarRegisterWrite offset size value s
  | .refreshWindow link spares units clean done counts => Sys2Proof.Machine.execRefreshWindow link spares units clean done counts s
  | .ltssmRecovery => Sys2Proof.Machine.execLtssmRecovery s
  | .powerLoss => Sys2Proof.Machine.execPowerLoss s
  | .ainarDieIsolation die => Sys2Proof.Machine.execAinarDieIsolation die s
  | .releaseReachesFloe part colour floe => Sys2Proof.Machine.execReleaseReachesFloe part colour floe s

end Sys2Proof.Machine
end

