-- ==== Sys2Proof/Machine/Turn.lean ====
section
/-! DEFINITION. The next turn of the schedule (log 1): who moves, and what comes of it. -/

namespace Sys2Proof.Machine

/-- The slice that issues when the schedule is empty: the first, in the order of its floes, that can. -/
def defaultSlice (s : State) : Option (Nat × Nat) :=
  (Table.search s.floes (fun _ f => (issueChoice s f.core f.slice []).isSome)).map (fun p => (p.2.core, p.2.slice))

/-- The next turn taken off the schedule, GT advanced (log 1). -/
def takeTurn (s : State) : Action :=
  match s.turns with
  | [] => (match defaultSlice s with | some (c, k) => issueTurn s c k [] | none => .still s)
  | t :: rest =>
    let s1 := { s with turns := rest, gt := s.gt + t.dt }
    match t.who with
    | .issue c k busy => issueTurn s1 c k busy
    | .mismatch c k busy again => mismatchTurn s1 c k busy again
    | .send op core => .still (s1.sendOp op core)
    | .part op lanes => .still (s1.partOp op lanes)
    | .elem copy k => .still (s1.elemEarly copy k)
    | .code core ctx va => .still (s1.cacheCode core ctx va)
    | .ahead floe va => .still (s1.fetchAhead floe va)
    | .desc core ctx pa word => .still (s1.descFetch core ctx pa word)
    | .tile core m pos key => .still (s1.tilePart core m pos key)
    | .reach part colour pos => .still (s1.arrivalReaches part colour pos)
    | .journal part => .still (s1.journalPart part)
    | .halo op dest k => .still (s1.haloEarly op dest k)
    | .created ctx => .still (s1.created ctx)
    | .event i => if isEvent i then .run i s1 else .still s1

end Sys2Proof.Machine
end

