-- ==== Sys2Proof/Machine/Step.lean ====
section
/-! DEFINITION. One step of the machine. -/

namespace Sys2Proof.Machine

/-- One step: the next turn of the schedule, and the instruction it runs. -/
def step (s : State) : Host.Outcome State Fault Refusal :=
  match takeTurn s with
  | .run i t => exec i t
  | .still t => .next t

/-- The machine with an instruction where the next step fetches it (fixed name of the host's interface). The bits above `nbits` are zero. -/
def State.withFetchWord (s : State) (nbits w : Nat) : State := s.placeWord (w % 2 ^ nbits)

end Sys2Proof.Machine
end

