-- ==== Sys2Proof/Safety.lean ====
section
/-! DEFINITION. The terms in which statements speak of a step: that a word issues, what it leaves in the registers, in its floe and in
memory, and what it leaves alone. -/

namespace Sys2Proof.Machine

/-! ## Issue -/

/-- The F word `i` issues in state `s`: its fields are `w` with the description `sh`, the issuing floe has the slot live (`e`), and no
decode check of R56 fails. -/
structure Issues (i : Instr) (w : FWord) (sh : Shape) (e : Env) (s : State) : Prop where
  shape : shapeOf i = some (w, sh)
  env : s.env? w.g (wordLen w) = some e
  clean : decodeTrap s e (privOf i) w sh = none

/-- Whether the word's Y hint gives up the next opportunity (R38, R142). -/
def hintYields (w : FWord) (sh : Shape) : Bool := sh.hint && (w.y == 1 || w.y == 2)

/-- The floe of `e`, left as `g` by the instruction, once the instruction has retired: the PC at the next word and the arrivals of R146,
the age restarted, the latches as R51 leaves them. -/
def Env.after (e : Env) (w : FWord) (sh : Shape) (s : State) (g : Floe) : Floe :=
  Floe.retired e s.gt (s.mck e.f.core) (latchesOf s e.f w sh) (hintYields w sh) g

/-- The same floe after YIELD, or SLEEP of 0, which give up the next opportunity (R142, R162). -/
def Env.afterHint (e : Env) (w : FWord) (sh : Shape) (s : State) (g : Floe) : Floe := Floe.retired e s.gt (s.mck e.f.core) (latchesOf s e.f w sh) true g

/-- The same floe after an instruction that set its own PC: a branch drops words of code fetched before a FENCE (R239). -/
def Env.afterJump (e : Env) (w : FWord) (sh : Shape) (s : State) (g : Floe) : Floe :=
  Floe.settle (g.branched.issued s.gt (s.mck e.f.core) e.b (latchesOf s e.f w sh) (hintYields w sh))

/-- The same floe after an instruction that was not ready: at the same word, to issue again; an earlier hint holds no longer (R142, R174). -/
def Env.unready (e : Env) (g : Floe) : Floe := { g with waitSlot1 := e.b, waitLen := 0, waitExec := e.exec, yielded := false }

/-- Every byte of memory reads as before. -/
def SameMem (s t : State) : Prop := ∀ a, t.ms.byte a = s.ms.byte a

/-- Every floe but `h` is as before. -/
def OtherFloes (h : Nat) (s t : State) : Prop := ∀ k, k ≠ h → t.floe? k = s.floe? k

/-- Nothing but firn words and floes differs: memory, caches, cores, counters of other agents, contexts, queues, everything. -/
def OnlyFirnFloes (s t : State) : Prop := { t with firn := s.firn, floes := s.floes } = s

/-- Nothing but floes differs. -/
def OnlyFloes (s t : State) : Prop := { t with floes := s.floes } = s

/-- Only floe `h` differs, and it is now `g`: every register, byte of memory, core, context and other floe is as before. -/
structure FloeEffect (h : Nat) (g : Floe) (s t : State) : Prop where
  floe : t.floe? h = some g
  others : OtherFloes h s t
  mem : SameMem s t
  rest : OnlyFloes s t

/-- `t` is `u`, which differs from `s` by no floe, with floe `h` now `g`. -/
structure FloeAnd (h : Nat) (g : Floe) (s u t : State) : Prop where
  floe : t.floe? h = some g
  others : OtherFloes h s t
  rest : { t with floes := s.floes } = u

/-- A floe that its instruction leaves WAITING. -/
def Floe.held (f : Floe) (c : Wait) (gt : Nat) : Floe := { f with state := .waiting, wait := some c, waitSince := gt }

/-- A floe whose instruction waits for `c` and issues again. -/
def Env.stalled (e : Env) (c : Wait) (s : State) (g : Floe) : Floe := e.unready (g.held c s.gt)

/-- A floe whose copy `id` was issued: in its open group, a 257th opening a new one, and in its arrival counter (R180, R182). -/
def copyPlaced (d : CopyDesc) (id : Nat) (f : Floe) : Floe :=
  let g := if 256 ≤ f.openCount then f.commit else f
  let f1 := if d.ctg then { g with openGroup := some (g.openGroup.getD [] ++ [id]), openCount := g.openCount + 1 } else f
  if d.cta then f1.acIssue d.ac else f1

/-- The descriptor of a CPY's `n` bytes (R193). -/
def bytesCopy (w : FWord) (src dst n : Nat) : CopyDesc :=
  { src := BitVec.ofNat 64 src, dst := BitVec.ofNat 64 dst, esize := 1, swz := 0, swSrc := false, acq := w.y.getLsbD 0, rel := w.y.getLsbD 1,
    scope := w.s.toNat, dlc := 0, ctg := true, cta := false, cte := false, ac := 0, event := 0, cnt := [n], sstr := [], dstr := [] }

/-! ## Results in registers (R106, R114, R152) -/

/-- The words of a value, the first lowest, all valid (R112). -/
def wordsOf (n v : Nat) : List FirnWord := (List.range n).map (fun i => ⟨BitVec.ofNat 32 (v / 2 ^ (32 * i)), true⟩)

/-- The firn words that a write of registers `regs` in lanes `ls` may change, the mirrored lanes of FULL included. -/
def writtenKeys (f : Floe) (regs : List Reg) (ls : List Nat) : List Nat :=
  regs.flatMap (fun r => ls.flatMap (fun l =>
    firnKey f.core (regWord f r l) :: (if r.uni = false ∧ f.dmr = .full ∧ l < 16 then [firnKey f.core (regWord f r (l + 16))] else [])))

/-- `t` is `s` with D, the registers `regs` of floe `f`, written lane by lane: a lane with words holds them; a lane with none has its V
cleared and its data kept (R114); lane l + 16 of a FULL floe holds what lane l was given (R152); and no other firn word changes. -/
structure Wrote (f : Floe) (regs : List Reg) (rs : List (Nat × Option (List FirnWord))) (s t : State) : Prop where
  value : ∀ l ws, (l, some ws) ∈ rs → ∀ k (hk : k < regs.length), t.rdReg f regs[k] l = ws.getD k FirnWord.empty
  invalid : ∀ l, (l, none) ∈ rs → ∀ r ∈ regs, (t.rdReg f r l).v = false
  kept : ∀ l, (l, none) ∈ rs → (f.dmr = .full → l < 16) → ∀ r ∈ regs, (t.rdReg f r l).data = (s.rdReg f r l).data
  mirror : f.dmr = .full → ∀ p ∈ rs, p.1 < 16 → (∀ q ∈ rs, q.1 ≠ p.1 + 16) → ∀ r ∈ regs, r.uni = false →
    t.rdReg f r (p.1 + 16) = t.rdReg f r p.1
  frame : ∀ k, k ∉ writtenKeys f regs (rs.map Prod.fst) → Table.getD t.firn FirnWord.empty k = Table.getD s.firn FirnWord.empty k

/-- What a lane-wise instruction of classes 0 to 4 comes to: D written with `rs`, flags ORed, the floe moved on, and nothing else. -/
structure LaneEffect (w : FWord) (sh : Shape) (e : Env) (x : Fx) (rs : List (Nat × Option (List FirnWord))) (s t : State) : Prop where
  result : Wrote e.f sh.d.writes rs s t
  floe : t.floe? e.h = some (e.after w sh s { e.f with fpflags := e.f.fpflags ||| x.bits })
  others : OtherFloes e.h s t
  mem : SameMem s t
  rest : OnlyFirnFloes s t

/-! ## Lane-wise instructions (R114) -/

/-- The results of an instruction whose lanes compute `op` on their sources, `imm` standing for B under an X word: none in a lane with
an invalid source. -/
def laneResults (s : State) (w : FWord) (sh : Shape) (e : Env) (imm : Nat) (op : Nat → Nat → Nat → Nat × Fx) : LaneResults :=
  (computeLanes w e).map (fun l => (l, (laneSrcs s w sh e imm l).map (fun v => op v.1 v.2.1 v.2.2)))

/-- Lane results as words of a destination of `n` registers. -/
def laneWords (n : Nat) (rs : LaneResults) : List (Nat × Option (List FirnWord)) := rs.map (fun r => (r.1, r.2.map (fun v => wordsOf n v.1)))

/-- The flags of the steps of a REDUX or SCAN (R136). -/
def allSteps (steps : List (Nat × Fx)) : Fx := steps.foldl (fun a r => a.or r.2) Fx.none

/-- The integer instructions (R117) with their result functions. -/
def intInstrs : List ((FWord → Instr) × (FWord → Nat → Nat → Nat → Nat × Fx)) :=
  [(.mov, opMov), (.movi, opMovi), (.iadd, opIadd), (.isub, opIsub), (.imul, opImul), (.imulh, opImulh), (.imad, opImad), (.imadw, opImadw),
   (.imin, opImin), (.imax, opImax), (.iabs, opIabs), (.ltab, opLtab), (.and, opAnd), (.or, opOr), (.xor, opXor), (.shl, opShl), (.shr, opShr),
   (.sar, opSar), (.shf, opShf), (.bfe, opBfe), (.bfi, opBfi), (.popc, opPopc), (.clz, opClz), (.brev, opBrev), (.lea, opLea)]

/-- The floating-point instructions and the conversions that act lane by lane (R120, R123-R125) with their result functions. -/
def fpInstrs : List ((FWord → Instr) × (FWord → Nat → Nat → Nat → Nat × Fx)) :=
  [(.fadd, opFadd), (.fsub, opFsub), (.fmul, opFmul), (.ffma, opFfma), (.fmin, opFmin), (.fmax, opFmax), (.fmov, opFmov), (.frcp, opFrcp),
   (.frsq, opFrsq), (.fsqrt, opFsqrt), (.fex2, opFex2), (.flg2, opFlg2), (.fsin, opFsin), (.fcos, opFcos), (.hadd2, opHadd2),
   (.hmul2, opHmul2), (.hfma2, opHfma2), (.dadd, opDadd), (.dmul, opDmul), (.dfma, opDfma), (.dmin, opDmin), (.dmax, opDmax), (.drcp, opDrcp),
   (.drsq, opDrsq), (.dmov, opDmov), (.cvt, opCvt), (.cvti, opCvti)]

/-- What a trap taken by the issuing floe with a handler comes to (R370, R371): the floe stands in its handler, and nothing else has
changed but %fpflags, which took `x`. -/
structure TrapEffect (e : Env) (base : Dword) (c : Cause) (half : Bool) (lanes : Mask) (tinfo epc : Dword) (x : Fx) (s t : State) : Prop where
  floe : ∃ g, t.floe? e.h = some g ∧ g.slot e.b = some ⟨base, e.sl.mask, none, none⟩ ∧ g.slot (!e.b) = e.f.slot (!e.b) ∧ g.tepc = epc
    ∧ g.tcause = BitVec.ofNat 32 (c.code + (if half then 2 ^ 11 else 0)) ∧ g.tlanes = lanes ∧ g.tinfo = tinfo ∧ g.levelPriv = true
    ∧ g.levelHandler = true ∧ g.latches = [] ∧ g.fpflags = e.f.fpflags ||| x.bits ∧ g.stack = e.f.stack
    ∧ g.frame = some ⟨e.b, (e.f.slot (!e.b)).isSome, e.sl.mask, e.sl.rpc, e.f.stack.length⟩
  others : OtherFloes e.h s t
  mem : SameMem s t
  rest : OnlyFloes s t

/-! ## Memory accesses -/

/-- A load's operation before its lanes are known (R189, R191). -/
def loadOp (kind : OpKind) (inC lda : Bool) (w : FWord) (sh : Shape) (e : Env) (s : State) : Op :=
  { newOp s e w kind with
    off := accessOff w (accessSize w) inC, size := accessSize w, signed := w.m.getLsbD 0, uniform := Code.isUni w.d, d := sh.d.writes,
    acq := w.y.getLsbD 0, ac := (if lda then some w.c.toNat else none), interlock := !lda }

/-- A store's (R190, R191). -/
def storeOp (kind : OpKind) (inC : Bool) (w : FWord) (_sh : Shape) (e : Env) (s : State) : Op :=
  { newOp s e w kind with
    off := accessOff w (accessSize w) inC, size := accessSize w, uniform := uniformStore w, isSt := true, rel := w.y.getLsbD 1, interlock := false }

/-- An atomic's (R216, R217). -/
def atomicOp (op : FWord → AtomOp) (ret inC : Bool) (w : FWord) (sh : Shape) (e : Env) (s : State) : Op :=
  { newOp s e w (.atomic (op w) ret) with
    off := accessOff w (accessSize w) inC, size := accessSize w, uniform := (if ret then Code.isUni w.d else uniformStore w), isSt := !ret,
    d := (if ret then sh.d.writes else []), acq := w.y.getLsbD 0, rel := w.y.getLsbD 1, interlock := ret }

/-- A pin's (R218). -/
def pinOp (kind : OpKind) (w : FWord) (sh : Shape) (e : Env) (s : State) : Op :=
  { newOp s e w kind with
    off := accessOff w 4 true, size := 4, uniform := Code.isUni w.d, d := sh.d.writes, isSt := kind == .unlock, scope := 0,
    interlock := kind == .lock }

/-- The lane transfers and atomics of the package's own memory and firn, with the operation each puts in flight. -/
def memInstrs : List ((FWord → Instr) × (FWord → Shape → Env → State → Op)) :=
  [(.ld, loadOp .load true false), (.lda, loadOp .load false true), (.ldx, loadOp .load true false), (.lde, loadOp (.expand 0) true false),
   (.st, storeOp .store true), (.stx, storeOp .store true), (.stc, storeOp (.compress 0) true),
   (.atom, atomicOp (fun w => atomOpOf w.c.toNat) true false), (.red, atomicOp (fun w => atomOpOf w.c.toNat) false false),
   (.cas, atomicOp (fun _ => .cas) true true), (.atomf, atomicOp (fun _ => .fadd) true true),
   (.lock, pinOp .lock), (.unlock, pinOp .unlock)]

/-- The registers of an operation's D lie in the floe's allocation, each once; its lanes ascend below 32, nullified lanes are others, also as FULL
mirrors them, and one lane accesses for a uniform D. -/
structure OpFits (f : Floe) (o : Op) : Prop where
  fits : ∀ r ∈ o.d, r.n < if r.uni then f.wregs else f.regs
  nodup : o.d.Nodup
  sorted : o.lanes.Pairwise (fun a b => a.lane < b.lane)
  lt : ∀ la ∈ o.lanes, la.lane < 32
  nulls : ∀ l ∈ o.nulls, l < 32 ∧ ∀ la ∈ o.lanes, la.lane ≠ l ∧ (f.dmr = .full → la.lane ≠ l + 16)
  uni : (∃ r ∈ o.d, r.uni = true) → o.lanes.length + o.nulls.length ≤ 1
  mask : ∀ l, (∃ r ∈ o.d, r.uni = true) → o.exec.getLsbD l = true → ∀ k, o.exec.getLsbD k = true → k = l

/-- Operation `o` with the lanes that its sources give, and of one that writes D the lanes that have no access, which lose their V as it
returns (R170). -/
def withLanes (s : State) (e : Env) (o : Op) : Op :=
  { o with lanes := (opLanes s e.f o e.exec).1, nulls := if o.isSt then [] else (opLanes s e.f o e.exec).2 }

/-- Operation `q`, made of `o` with its lanes, is in flight under the next number; the floe has moved on with its counters; no register and no
byte of memory changes, and nothing else but messages to other devices (R166, R170, R174, R225, R227, R230). -/
structure OpIssued (o q : Op) (w : FWord) (sh : Shape) (e : Env) (s t : State) : Prop where
  inFlight : Table.find? t.ops s.nextId = some q
  made : { q with acq := o.acq, rel := o.rel, scope := o.scope, after := o.after } = withLanes s e o
  order : if reachesStrong s (withLanes s e o) then q.acq = true ∧ q.rel = true ∧ q.scope = 7
    else q.acq = o.acq ∧ q.rel = o.rel
      ∧ q.scope = if q.lanes ≠ [] ∧ ∀ la ∈ q.lanes, inFirn la.va = true then min o.scope 4 else o.scope
  after : ∀ i, i < s.nextId → (i ∈ q.after ↔
    (∃ p, (i, p) ∈ s.ops ∧ p.floe = e.h ∧ ((q.rel = true ∧ 2 ≤ q.scope) ∨ (p.acq = true ∧ 2 ≤ p.scope)))
    ∨ (q.rel = true ∧ 2 ≤ q.scope ∧ i ∈ e.f.seen ∧ (Table.find? s.ops i).isSome = true))
  ops : ∀ k, k ≠ s.nextId → Table.find? t.ops k = Table.find? s.ops k
  next : t.nextId = s.nextId + 1
  regs : t.firn = s.firn
  floe : t.floe? e.h = some (e.after w sh s (let c := if o.isSt then { e.f with st := e.f.st + 1 } else { e.f with ld := e.f.ld + 1 }
    match o.ac with | some k => c.acIssue k | none => c))
  others : OtherFloes e.h s t
  mem : SameMem s t
  rest : { t with ops := s.ops, floes := s.floes, nextId := s.nextId, net := s.net } = s

/-- What a load's lanes leave in D: the bytes that its floe sees, extended as the access says, with the validity they were stored with; a nullified
lane loses its V (R169, R170, R189, R223). -/
def loadResults (s : State) (id : Nat) (o : Op) : List (Nat × Option (List FirnWord)) :=
  o.lanes.map (fun la => (la.lane, some ((List.range o.d.length).map (fun k =>
      (⟨BitVec.ofNat 32 (extendLoad o.size o.signed (loadLane (ownView s id o) o la).1 / 2 ^ (32 * k)),
        (loadLane (ownView s id o) o la).2.getD k true⟩ : FirnWord)))))
    ++ o.nulls.map (fun l => (l, none))

/-- A floe whose operation `o` has ended, with what it has read of others' writes; none of those it had read before is forgotten while it is not
performed (R115, R166, R227). -/
def OpLeft (o : Op) (f : Floe) (s t : State) : Prop :=
  ∃ sn, t.floe? o.floe = some { f.opCounted o with seen := sn } ∧ ∀ i ∈ f.seen, (Table.find? s.ops i).isSome = true → i ∈ sn

/-- A write through a page leaves the rest of its seal block as it is: the block's key is the context's, or it is no sealed block (R396). -/
def sealQuiet (s : State) (ctx : Nat) (e : Pte) (a : Nat) : Bool :=
  let m := s.sealMeta (a / 4096)
  if e.sealed then (match s.ctx? ctx with | some c => c.holdsKid m.kid | none => true) else m.kid == 0 || m.status != 0

/-! ## Trees -/

/-- The tree instructions with their operations. -/
def treeInstrs : List ((FWord → Instr) × TreeOp) :=
  [(.twlk, .twlk), (.twld, .twld), (.twst, .twst), (.twsten, .twsten), (.twray, .twray), (.twleaf, .twleaf), (.tains, .tains), (.tadel, .tadel),
   (.tamask, .tamask), (.tacommit, .tacommit)]

/-- The lanes a tree instruction acts for: one for the floe for TACOMMIT and a uniform D, else every lane of exec (R301). -/
def treeLanes (op : TreeOp) (w : FWord) (e : Env) : List Nat :=
  if op = .tacommit ∨ (op ≠ .twst ∧ Code.isUni w.d = true) then (maskLanes e.exec).take 1 else maskLanes e.exec

/-! ## Commands -/

/-- The command of `src`, of code `code`, comes to be performed on context `ctx` (`c`) with operands `args`, in state `s1`, under journal
entry `j`, sent by the host function `sent` where one did: from the head of the context's accepted commands, or from a block of the host that
finds none there (R380, R381). -/
def CmdPath (src : CmdSource) (code : Nat) (s : State) (ctx : Nat) (c : Ctx) (args : List Dword) (j : JRef) (sent : Option Nat) (s1 : State) : Prop :=
  s.ctx? ctx = some c ∧ c.state ≠ .destroyed ∧ match src with
    | .queued n => n = ctx ∧ c.busy = false
        ∧ ∃ k rest, c.cmds = k :: rest ∧ k.code = code ∧ s.ended k.after = true ∧ args = k.args ∧ j = k.j ∧ sent = k.fn
          ∧ s1 = s.modCtx ctx (fun x => { x with cmds := rest })
    | .host fn cx rsv a0 a1 a2 a3 => fn ≤ 12 ∧ s.life.boot = .ready ∧ rsv = false ∧ args = [a0, a1, a2, a3] ∧ sent = some fn
        ∧ (code = 0x11 ∨ (c.busy = false ∧ c.cmds = [])) ∧ hostTarget s code fn cx args = some ctx
        ∧ ∃ t, s.jNew (if fn = 0 then c.home else fn - 1) (jHigh 4 false 15 (cmdQueue code args) 0 Config.deviceId.toNat) 0 0 = (t, j)
          ∧ s1 = t.hcmd fn 0 0 0 j.seq

/-- The commands on a context with their codes (R381). -/
def cmdCodes (src : CmdSource) : List (Instr × Nat) :=
  [(.replay src, 0x01), (.rekey src, 0x02), (.save src, 0x03), (.restore src, 0x04), (.migrate src, 0x05), (.kload src, 0x06), (.kplace src, 0x07),
   (.kbind src, 0x08), (.kunbind src, 0x09), (.kunload src, 0x0A), (.qenable src, 0x0B), (.qdisable src, 0x0C), (.kill src, 0x0D), (.unhalt src, 0x0E),
   (.destroy src, 0x11), (.setsr src, 0x12), (.hlaunch src, 0x13)]

/-- `u` with the command's journal entry COMPLETED or FAILED with reason 8, and HCMDSTAT of the function that sent it (R337, R382). -/
def cmdEnd (sent : Option Nat) (j : JRef) (ok : Bool) (inst : Nat) (u : State) : State :=
  let t := u.jSet j (if ok then 2 else 3) (if ok then 0 else 8) inst
  match sent with
  | none => t
  | some fn => t.hcmd fn (if ok then 2 else 3) (if ok then 0 else 8) 0 j.seq

/-- The floes of a context that an entry of `p` selects, all begun to be saved. -/
def State.preemptAll (s : State) (p : Floe → Bool) : State :=
  (Table.keys (Table.keep s.floes (fun _ f => p f && f.resident && !f.preempt))).foldl State.markPreempt s

end Sys2Proof.Machine
end

