-- ==== Sys2Proof/Certificates/Slice0/Obligations.lean ====
section
/-! DEFINITION. The statements for the provers. -/

open Sys2Proof Sys2Proof.Machine

/-! ## Words and their decoding -/

/-- Words written out from the encoding tables decode to the instructions they stand for: the three worked encodings after R56, that of R130, an
all-ones word and a reserved opcode. -/
def Obligations.WorkedEncodingsDecode : Prop :=
  decode 0x0861806102A50008 0 = .ffma ⟨12, 3, 8, 21, 40, 0, 0, 1, none, 0⟩
  ∧ decode 0x0040A13FFFFFE004 0xC000000000012345 = .iadd ⟨5, 9, 0xFF, 0xFF, 0xFF, 0, 0, 0, some ⟨0, 0, 0, 0x12345⟩, 0⟩
  ∧ decode 0x808202030C07090B 0 = .pairWord ⟨.iadd, 4, 4, 6⟩ ⟨.fmul, 7, 9, 11⟩
  ∧ decode 0x2020C0407FFFF400 0 = .fcmp ⟨6, 2, 3, 0xFF, 0xFF, 10, 0, 0, none, 0⟩
  ∧ decode 0xFFFFFFFFFFFFFFFF 0 = .orphanExtension 0xFFFFFFFFFFFFFFFF
  ∧ decode 0x0320000000000000 0 = .reservedOpcode 0x0320000000000000

/-- The decoder gives back every well-formed instruction from the words the encoder writes (R32, R44, R52), with every operand at every value; a step
of the device has no words. -/
def Obligations.DecodeOfEncode : Prop :=
  ∀ i : Instr, i.wf = true → encode i ≠ [] → decodeWords (encode i) = some i

/-- Every 64-bit pattern decodes to one outcome, and no bit of it is dropped: the instruction read encodes to the same words, the second word included
where it is the extension of the first (R56, R82). -/
def Obligations.EncodeOfDecode : Prop :=
  ∀ w next : Dword, encode (decode w next) = if (fParts (decode w next)).isSome ∧ wordHasX w = true then [w, next] else [w]

/-- What is refused: an X word of its own; an F word of an unassigned opcode; an F word with X = 1 that no X word follows; a P word with a reserved
pOP in either half (R46, R56, R67). A reserved word raises ILLEGAL_OPCODE with its OP in TINFO, and an X word reached by a slot raises
ORPHAN_EXTENSION with the address of the word that passed control in TINFO; nothing else changes (R46, R67). -/
def Obligations.ReservedWordsRefusedAndTrap : Prop :=
  (
  ∀ w next : Dword,
    (wordKind w = 3 → decode w next = .orphanExtension w)
    ∧ (w.getLsbD 63 = false → opAssigned (w.extractLsb' 53 10) = false → decode w next = .reservedOpcode w)
    ∧ (w.getLsbD 63 = false → wordHasX w = true → wordKind next ≠ 3 → decode w next = .reservedOpcode w)
    ∧ (wordKind w = 2 → 20 ≤ (w.extractLsb' 55 7).toNat ∨ 20 ≤ (w.extractLsb' 24 7).toNat → decode w next = .reservedOpcode w))
  ∧ (
  ∀ (v : Dword) (e : Env) (s : State) (x : Ctx), s.env? 0xFF 8 = some e → s.ctx? e.f.ctx = some x → e.f.levelHandler = false → x.trapBase ≠ 0 →
    (∃ t, exec (.reservedOpcode v) s = .next t
      ∧ TrapEffect e x.trapBase .illegalOpcode false e.sl.mask ((v.extractLsb' 53 10).setWidth 64) e.sl.pc Fx.none s t)
    ∧ (∃ t, exec (.orphanExtension v) s = .next t
      ∧ TrapEffect e x.trapBase .orphanExtension false e.sl.mask (e.sl.via.getD (e.sl.pc - 8)) e.sl.pc Fx.none s t))

/-! ## A step -/

/-- A step whose turn is a slice that issues runs the instruction decoded from the word at the slot's PC, two words where the first has X = 1, with
the issuing floe and slot noted; the word is the one that the core's instruction cache or the floe's own fetch ahead holds, else that of memory, and
words on another device have been asked for before (R31, R140, R239, R384). -/
def Obligations.StepRunsDecodedWord : Prop :=
  ∀ (s : State) (dt c k : Nat) (busy : List (Nat × Bool)) (rest : List Turn) (h : Nat) (b : Bool) (f : Floe) (sl : Slot) (i : Instr) (w : Dword),
    s.life.boot = .ready → s.turns = ⟨dt, .issue c k busy⟩ :: rest →
    issueChoice { s with turns := rest, gt := s.gt + dt } c k busy = some (h, b) → s.floe? h = some f → f.slot b = some sl →
    fetchFar { s with turns := rest, gt := s.gt + dt } f sl.pc = [] → fetchWord { s with turns := rest, gt := s.gt + dt } f sl.pc = .ok w →
    (wordBytes w = 8 ∧ decode w 0 = i
      ∨ ∃ x, wordBytes w = 16 ∧ fetchWord { s with turns := rest, gt := s.gt + dt } f (sl.pc + 8) = .ok x ∧ decode w x = i) →
    step s = exec i { s with turns := rest, gt := s.gt + dt, cur := (h, b) }
      ∧ (∀ p, translateCore { s with turns := rest, gt := s.gt + dt } f.core f.ctx .fetch sl.pc = .ok p → p.pte.remote = false → p.pte.sealed = false →
          Table.find? f.ibuf (codeKey f.ctx sl.pc) = none → Table.find? (s.core f.core).icache (codeKey f.ctx sl.pc) = none →
          w = BitVec.ofNat 64 (natOf ((List.range 8).map (fun k => s.ms.byte (p.pa + k)))))

/-- A step whose turn is an agent's takes that agent's step of the table; time advances by the turn's gt. A word that cannot be fetched, or whose X
word cannot, is a fault of the fetch at the F word's address, and no instruction runs (R31, R56 order 1). A slice whose redundant lanes disagree, at the
replay too, writes nothing of its instruction: the core is quarantined; a floe under OFF has none and just issues (R152, R153). -/
def Obligations.DeviceStepsAndFetchFaults : Prop :=
  (
  ∀ (s : State) (dt : Nat) (rest : List Turn) (i : Instr), s.turns = ⟨dt, .event i⟩ :: rest → isEvent i = true →
    step s = exec i { s with turns := rest, gt := s.gt + dt })
  ∧ (
  ∀ (s : State) (dt c k : Nat) (busy : List (Nat × Bool)) (rest : List Turn) (h : Nat) (b : Bool) (f : Floe) (sl : Slot) (x : Cause),
    s.life.boot = .ready → s.turns = ⟨dt, .issue c k busy⟩ :: rest →
    issueChoice { s with turns := rest, gt := s.gt + dt } c k busy = some (h, b) → s.floe? h = some f → f.slot b = some sl →
    fetchFar { s with turns := rest, gt := s.gt + dt } f sl.pc = [] →
    (fetchWord { s with turns := rest, gt := s.gt + dt } f sl.pc = .error x
      ∨ ∃ w, fetchWord { s with turns := rest, gt := s.gt + dt } f sl.pc = .ok w ∧ wordBytes w = 16
          ∧ fetchWord { s with turns := rest, gt := s.gt + dt } f (sl.pc + 8) = .error x) →
    step s = .next (State.deliver (State.countSeal { s with turns := rest, gt := s.gt + dt } f.core f.ctx (coreSecure s f.core) x sl.pc) h b sl.pc sl.pc
      { cause := x, lanes := sl.mask, tinfo := sl.pc, vaddr := sl.pc }))
  ∧ (
  ∀ (s t : State) (dt c k : Nat) (busy : List (Nat × Bool)) (again : Bool) (rest : List Turn) (h : Nat) (b : Bool) (f : Floe) (i : Instr),
    s.turns = ⟨dt, .mismatch c k busy again⟩ :: rest → s.floe? h = some f →
    issueTurn { s with turns := rest, gt := s.gt + dt } c k busy = .run i { s with turns := rest, gt := s.gt + dt, cur := (h, b) } →
    (again = false ∨ f.dmr = .off → step s = exec i { s with turns := rest, gt := s.gt + dt, cur := (h, b) })
    ∧ (again = true → f.dmr ≠ .off → step s = .next t → (s.core f.core).quarantined = false →
        (t.core f.core).quarantined = true ∧ t.firn = s.firn ∧ t.ms = s.ms ∧ t.ops = s.ops
        ∧ Table.getD t.life.counts 0 (0x50 + 4 * coreDie f.core) = satInc (Table.getD s.life.counts 0 (0x50 + 4 * coreDie f.core))
        ∧ ∃ g, t.floe? h = some g ∧ g.s0 = f.s0 ∧ g.s1 = f.s1 ∧ (f.resident = true → g.preempt = true)))

/-- Right after reset the machine is in the boot state ROM, holds no context, instance, floe, queue or transfer, and no floe issues: a step changes
nothing (R423). -/
def Obligations.ResetHoldsNothing : Prop :=
  State.reset.life.boot = .rom ∧ State.reset.ctxs = [] ∧ State.reset.floes = [] ∧ State.reset.insts = [] ∧ State.reset.queues = []
    ∧ State.reset.ops = [] ∧ State.reset.copies = [] ∧ Memory.wf State.reset = true ∧ step State.reset = .next State.reset

/-- Memory keeps its canonical form in every step, of every instruction and every agent. -/
def Obligations.StepKeepsMemoryCanonical : Prop :=
  ∀ s t : State, Memory.wf s = true → step s = .next t → Memory.wf t = true

/-! ## Decode traps -/

/-- A word that fails a decode check raises the trap of the first check it fails, in the order of R56, before anything else changes: the floe enters
its handler with TEPC at the word and TLANES the active mask (R56, R370, R371). -/
def Obligations.DecodeTrapTaken : Prop :=
  ∀ (i : Instr) (w : FWord) (sh : Shape) (e : Env) (s : State) (c : Cause) (x : Ctx), shapeOf i = some (w, sh) →
    s.env? w.g (wordLen w) = some e → s.ctx? e.f.ctx = some x → e.f.levelHandler = false → x.trapBase ≠ 0 → decodeTrap s e (privOf i) w sh = some c →
    ∃ t, exec i s = .next t ∧ TrapEffect e x.trapBase c false e.sl.mask 0 e.sl.pc Fx.none s t

/-- The order of the decode checks of an F word: privilege, then modifiers, then operands, then the register range (R56). -/
def Obligations.DecodeCheckOrder : Prop :=
  ∀ (s : State) (e : Env) (priv : Bool) (w : FWord) (sh : Shape),
    (decodeTrap s e priv w sh = some .privileged ↔ priv = true ∧ s.isPriv e.f = false)
    ∧ (decodeTrap s e priv w sh = some .illegalModifier ↔ ¬ (priv = true ∧ s.isPriv e.f = false) ∧ modifierOk sh w = false)
    ∧ (decodeTrap s e priv w sh = some .illegalOperands ↔ ¬ (priv = true ∧ s.isPriv e.f = false) ∧ modifierOk sh w = true
        ∧ ¬ (fieldsOk sh w = true ∧ coordOk s e.f sh w = true ∧ bankOk sh w (prevWord s e.f e.sl.pc) = true))
    ∧ (decodeTrap s e priv w sh = some .registerRange ↔ ¬ (priv = true ∧ s.isPriv e.f = false) ∧ modifierOk sh w = true
        ∧ fieldsOk sh w = true ∧ coordOk s e.f sh w = true ∧ bankOk sh w (prevWord s e.f e.sl.pc) = true
        ∧ ∃ r ∈ namedRegs sh w, ¬ r.n < (if r.uni then e.f.wregs else e.f.regs))

/-- A trap of a floe that is in its handler already, or whose context has TRAPBASE zero, is fatal: the context becomes FAULTED and a record with
REPLAY = 0 is posted; the floe keeps its slots (R371). PAGE_NOT_PRESENT from the floe posts a record with REPLAY = 1 and suspends the floe; the
handler is not entered (R369, R371). -/
def Obligations.TrapWithoutHandlerAndMissingPage : Prop :=
  (
  ∀ (s : State) (h : Nat) (b : Bool) (pc next : Dword) (t : TrapInfo) (f : Floe) (x : Ctx), s.floe? h = some f → s.ctx? f.ctx = some x →
    (f.levelHandler = true ∨ x.trapBase = 0) → ¬ (t.cause = .pageNotPresent ∧ t.source = 0) →
    s.deliver h b pc next t = s.setCtx f.ctx { x with state := .faulted, faultRecs := x.faultRecs ++ [⟨trapRecord s f pc false t⟩] })
  ∧ (
  ∀ (s : State) (h : Nat) (b : Bool) (pc next : Dword) (t : TrapInfo) (f : Floe) (x : Ctx), s.floe? h = some f → s.ctx? f.ctx = some x →
    t.cause = .pageNotPresent → t.source = 0 →
    s.deliver h b pc next t = (s.setFloe h { f with state := .suspended, susp := some ⟨none, b, pc, t, false⟩ }).setCtx f.ctx
      { x with faultRecs := x.faultRecs ++ [⟨trapRecord s f pc true t⟩] })

/-! ## Classes 0 to 4: results in registers -/

/-- The integer instructions: every lane of exec whose sources are valid takes the result, with V = 1 in every word; a lane with an invalid source has
its V cleared and keeps its data; SAT is the one flag; the PC advances and nothing else changes (R114, R117). -/
def Obligations.IntegerInstructionsWriteResults : Prop :=
  ∀ p ∈ intInstrs, ∀ (w : FWord) (sh : Shape) (e : Env) (s : State), Issues (p.1 w) w sh e s →
    ∃ t, exec (p.1 w) s = .next t
      ∧ LaneEffect w sh e (allFx (laneResults s w sh e (immInt w sh.b.wide) (p.2 w)))
          (laneWords sh.d.writes.length (laneResults s w sh e (immInt w sh.b.wide) (p.2 w))) s t

/-- The floating-point instructions and CVT, CVTI with no enabled condition: as the integer instructions, the flags of all lanes ORed into %fpflags
(R102, R114). -/
def Obligations.FloatInstructionsWriteResults : Prop :=
  ∀ p ∈ fpInstrs, ∀ (w : FWord) (sh : Shape) (e : Env) (s : State), Issues (p.1 w) w sh e s →
    fpTrap e.f.fpflags (allFx (laneResults s w sh e (immFp w sh.b.wide) (p.2 w))) = none →
    ∃ t, exec (p.1 w) s = .next t
      ∧ LaneEffect w sh e (allFx (laneResults s w sh e (immFp w sh.b.wide) (p.2 w)))
          (laneWords sh.d.writes.length (laneResults s w sh e (immFp w sh.b.wide) (p.2 w))) s t

/-- With an enabled condition in any lane, the trap of lowest code is taken, no lane's destination is written, and every flag raised by any lane is
set (R102). TLANES of an instruction computed once for the floe is the model's choice (log 21). -/
def Obligations.EnabledConditionTraps : Prop :=
  ∀ p ∈ fpInstrs, ∀ (w : FWord) (sh : Shape) (e : Env) (s : State) (c : Cause) (x : Ctx), Issues (p.1 w) w sh e s →
    s.ctx? e.f.ctx = some x → e.f.levelHandler = false → x.trapBase ≠ 0 →
    fpTrap e.f.fpflags (allFx (laneResults s w sh e (immFp w sh.b.wide) (p.2 w))) = some c →
    ∃ t, exec (p.1 w) s = .next t
      ∧ TrapEffect e x.trapBase c false
          (trapLanes e.f.fpflags w e.exec (laneResults s w sh e (immFp w sh.b.wide) (p.2 w))) 0 e.sl.pc
          (allFx (laneResults s w sh e (immFp w sh.b.wide) (p.2 w))) s t

/-- The two halves of a P word act together: both read before either writes, each lane of the active mask takes both results (R53, R54). A P word
either half of which raises an enabled condition traps, names the half, and writes neither half's destination (R54). -/
def Obligations.PairWords : Prop :=
  (
  ∀ (h0 h1 : HalfWord) (e : Env) (s : State), s.env? 0xFF 8 = some e → pairOk h0 h1 = true →
    regsOk e.f (namedRegs (halfShape h0) (halfWord h0) ++ namedRegs (halfShape h1) (halfWord h1)) = true →
    fpTrap e.f.fpflags (allFx (halfResults s e h0)) = none → fpTrap e.f.fpflags (allFx (halfResults s e h1)) = none →
    ∃ t u, exec (.pairWord h0 h1) s = .next t
      ∧ Wrote e.f (halfShape h0).d.writes (laneWords (halfShape h0).d.writes.length (halfResults s e h0)) s u
      ∧ Wrote e.f (halfShape h1).d.writes (laneWords (halfShape h1).d.writes.length (halfResults s e h1)) u t
      ∧ t.floe? e.h = some (Floe.retired e s.gt (s.mck e.f.core) [] false
          { e.f with fpflags := e.f.fpflags ||| ((allFx (halfResults s e h0)).or (allFx (halfResults s e h1))).bits })
      ∧ OtherFloes e.h s t ∧ SameMem s t ∧ OnlyFirnFloes s t)
  ∧ (
  ∀ (h0 h1 : HalfWord) (e : Env) (s : State) (c : Cause) (half : Bool) (x : Ctx), s.env? 0xFF 8 = some e → pairOk h0 h1 = true →
    regsOk e.f (namedRegs (halfShape h0) (halfWord h0) ++ namedRegs (halfShape h1) (halfWord h1)) = true →
    s.ctx? e.f.ctx = some x → e.f.levelHandler = false → x.trapBase ≠ 0 →
    (half = false ∧ fpTrap e.f.fpflags (allFx (halfResults s e h0)) = some c
      ∨ half = true ∧ fpTrap e.f.fpflags (allFx (halfResults s e h0)) = none ∧ fpTrap e.f.fpflags (allFx (halfResults s e h1)) = some c) →
    ∃ t, exec (.pairWord h0 h1) s = .next t
      ∧ TrapEffect e x.trapBase c half
          (trapLanes e.f.fpflags (halfWord (if half then h1 else h0)) e.exec (halfResults s e (if half then h1 else h0))) 0 e.sl.pc
          ((allFx (halfResults s e h0)).or (allFx (halfResults s e h1))) s t)

/-- PACK's per-lane forms: two elements of a and b, or the four elements of a register group (R127). PACK's block forms: with an invalid scale every
lane of d loses its V; else lane j < W takes word j of the block of 32 element codes, lane 31 the scale or 0xFF for a block with a NaN, and the lanes
between 0; an empty exec does nothing (R127). A %lane scale has no one value for the floe and is a free value (log 22). UNPK: the FP32 value of
element C of each lane's word, exactly; in the block forms the element of each lane of exec scaled and rounded, NaN for a scale of 0xFF, and V cleared
where the scale or a lane that holds a bit of the element is invalid (R128). -/
def Obligations.PackAndUnpackForms : Prop :=
  (
  ∀ (w : FWord) (sh : Shape) (e : Env) (s : State), Issues (.pack w) w sh e s →
    (w.m.toNat ≤ 1 → fpTrap e.f.fpflags (allFx (laneResults s w sh e (immFp w false) (opPack2 w))) = none →
      ∃ t, exec (.pack w) s = .next t ∧ LaneEffect w sh e (allFx (laneResults s w sh e (immFp w false) (opPack2 w)))
        (laneWords sh.d.writes.length (laneResults s w sh e (immFp w false) (opPack2 w))) s t)
    ∧ (∀ rs : LaneResults, 2 ≤ w.m.toNat → w.m.toNat ≤ 3 →
      rs = (computeLanes w e).map (fun l => (l, if (s.rdGroup e.f l sh.a.reads).2
        then some (packFour (narrowFmt w) (modeOf w) (s.rdGroup e.f l sh.a.reads).1) else none)) →
      fpTrap e.f.fpflags (allFx rs) = none →
      ∃ t, exec (.pack w) s = .next t ∧ LaneEffect w sh e (allFx rs) (laneWords sh.d.writes.length rs) s t))
  ∧ (
  ∀ (w : FWord) (sh : Shape) (e : Env) (s : State) (codes : List Nat) (nan : Bool) (x : Fx), Issues (.pack w) w sh e s → 4 ≤ w.m.toNat →
    (codes, nan, x) = packBlock (w.m.toNat == 5) (modeOf w) (blockScale s w sh e).1
      ((List.range 32).map (fun l => if e.exec.getLsbD l && (rdOp s e.f l w.a 1).2 then some (rdOp s e.f l w.a 1).1 else none)) →
    ∃ t, exec (.pack w) s = .next t ∧ OtherFloes e.h s t ∧ SameMem s t ∧ { t with firn := s.firn, floes := s.floes, fresh := s.fresh } = s
      ∧ (e.exec = 0 → t.firn = s.firn ∧ t.floe? e.h = some (e.after w sh s e.f))
      ∧ (e.exec ≠ 0 → (blockScale s w sh e).2 = false → t.floe? e.h = some (e.after w sh s e.f)
          ∧ Wrote e.f sh.d.writes ((List.range 32).map (fun l => (l, none))) s t)
      ∧ (e.exec ≠ 0 → (blockScale s w sh e).2 = true →
          t.floe? e.h = some (e.after w sh s { e.f with fpflags := e.f.fpflags ||| x.bits })
          ∧ Wrote e.f sh.d.writes ((List.range 32).map (fun l => (l, some (wordsOf sh.d.writes.length
              (if l < (if w.m.toNat = 5 then 6 else 4) then joinCodes (if w.m.toNat = 5 then 6 else 4) codes / 2 ^ (32 * l) % 2 ^ 32
               else if l = 31 then (if nan then 255 else (blockScale s w sh e).1) else 0))))) s t))
  ∧ (
  ∀ (w : FWord) (sh : Shape) (e : Env) (s : State) (rs : LaneResults), Issues (.unpk w) w sh e s →
    (rs = if w.m.toNat ≤ 3 then laneResults s w sh e (immFp w false) (opUnpk1 w)
      else (computeLanes w e).map (fun l =>
        let bits := if w.m.toNat = 5 then 6 else 4
        let lo := rdOp s e.f (bits * l / 32) w.a 1
        let hi := rdOp s e.f ((bits * l + bits - 1) / 32) w.a 1
        let code := (lo.1 + (if (bits * l + bits - 1) / 32 = bits * l / 32 then 0 else 2 ^ 32 * hi.1)) / 2 ^ (bits * l % 32) % 2 ^ bits
        (l, if (blockScale s w sh e).2 && lo.2 && hi.2 then
              (if (blockScale s w sh e).1 = 255 then some (Fmt.fp32.encode .nan, Fx.none)
               else some (fpRound .fp32 false (modeOf w)
                 ((if w.m.toNat = 5 then decodeL6 code else Fmt.e2m1.decode code).scale (((blockScale s w sh e).1 : Int) - 127), Fx.none)))
            else none))) →
    fpTrap e.f.fpflags (allFx rs) = none →
    ∃ t, exec (.unpk w) s = .next t ∧ Wrote e.f sh.d.writes (laneWords sh.d.writes.length rs) s t
      ∧ t.floe? e.h = some (e.after w sh s { e.f with fpflags := e.f.fpflags ||| (allFx rs).bits })
      ∧ OtherFloes e.h s t ∧ SameMem s t ∧ { t with firn := s.firn, floes := s.floes, fresh := s.fresh } = s)

/-- QSCAN and BALLOT give one value for the floe: the block scale of the contributing lanes' values, and the mask of the lanes of exec with a valid a
other than zero (R129, R133, R134). REDUX and SCAN with no enabled condition: the operation applied in ascending lane order over the contributing
lanes, for the floe, or for each lane of exec over those at or below it, below it when exclusive (R136). With an enabled condition the trap of lowest
code is taken for the lanes whose steps raise one, and no register is written (R102); the step of a lane is that which takes its value, and the last
value of an exclusive SCAN has none, by the model's choice (logs 21, 75). -/
def Obligations.ScansReductionsAndPrefixes : Prop :=
  (
  ∀ (i : Instr) (w : FWord) (sh : Shape) (e : Env) (s : State) (r : Nat × Fx), Issues i w sh e s →
    (i = .qscan w ∧ r = qscanVal w.m.toNat ((contributing s w e).map Prod.snd)
      ∨ i = .ballot w ∧ r = ((lanesMask ((List.range 32).filter
          (fun l => e.exec.getLsbD l && (rdOp s e.f l w.a 1).2 && (rdOp s e.f l w.a 1).1 != 0))).toNat, Fx.none)) →
    ∃ t, exec i s = .next t
      ∧ LaneEffect w sh e (if computeLanes w e = [] then Fx.none else r.2)
          ((computeLanes w e).map (fun l => (l, some (wordsOf sh.d.writes.length r.1)))) s t)
  ∧ (
  (∀ (w : FWord) (sh : Shape) (e : Env) (s : State) (v : Nat) (steps : List (Nat × Fx)), Issues (.redux w) w sh e s →
    reduce w (contributing s w e) = (v, steps) →
    (fpTrap e.f.fpflags (allSteps steps) = none →
      ∃ t, exec (.redux w) s = .next t ∧ LaneEffect w sh e (if e.exec = 0 then Fx.none else allSteps steps)
        ((computeLanes w e).map (fun l => (l, some (wordsOf sh.d.writes.length v)))) s t)
    ∧ (∀ (c : Cause) (x : Ctx), fpTrap e.f.fpflags (allSteps steps) = some c → s.ctx? e.f.ctx = some x → e.f.levelHandler = false → x.trapBase ≠ 0 →
      ∃ t, exec (.redux w) s = .next t ∧ TrapEffect e x.trapBase c false
        (lanesMask ((steps.filter (fun r => (fpTrap e.f.fpflags r.2).isSome)).map Prod.fst)) 0 e.sl.pc (allSteps steps) s t))
  ∧ (∀ (w : FWord) (sh : Shape) (e : Env) (s : State) (v : Nat → Nat) (steps : List (Nat × Fx)) (top : Nat), Issues (.scan w) w sh e s →
    (∀ l, v l = (reduce w ((contributing s w e).filter (fun p => if w.c = 0 then decide (p.1 ≤ l) else decide (p.1 < l)))).1) →
    top ∈ maskLanes e.exec → (∀ l ∈ maskLanes e.exec, l ≤ top) →
    steps = (reduce w ((contributing s w e).filter (fun p => if w.c = 0 then decide (p.1 ≤ top) else decide (p.1 < top)))).2 →
    (fpTrap e.f.fpflags (allSteps steps) = none →
      ∃ t, exec (.scan w) s = .next t ∧ LaneEffect w sh e (allSteps steps)
        ((maskLanes e.exec).map (fun l => (l, some (wordsOf sh.d.writes.length (v l))))) s t)
    ∧ (∀ (c : Cause) (x : Ctx), fpTrap e.f.fpflags (allSteps steps) = some c → s.ctx? e.f.ctx = some x → e.f.levelHandler = false → x.trapBase ≠ 0 →
      ∃ t, exec (.scan w) s = .next t ∧ TrapEffect e x.trapBase c false
        (lanesMask ((steps.filter (fun r => (fpTrap e.f.fpflags r.2).isSome)).map Prod.fst)) 0 e.sl.pc (allSteps steps) s t)))

/-- The compares: a lane with valid sources takes the condition word, data r and V = r, and under .p the complement in the next register; an invalid
source clears V; no flag (R130). SEL acts in every lane of the active mask and takes a where the guard is valid, else b; the V of the source not
chosen has no effect. SHFL copies a of the lane its mode names, its own lane where that lies outside 0 to 31, whether or not that lane is active
(R132, R135). -/
def Obligations.ComparesSelectAndShuffle : Prop :=
  (
  ∀ (i : Instr) (w : FWord) (sh : Shape) (e : Env) (s : State) (imm : Nat) (ord : Nat → Nat → Option Ordering), Issues i w sh e s →
    (i = .icmp w ∧ imm = immInt w sh.b.wide ∧ ord = icmpOrd w ∨ i = .fcmp w ∧ imm = immFp w false ∧ ord = fcmpOrd .fp32
      ∨ i = .dcmp w ∧ imm = immFp w true ∧ ord = fcmpOrd .fp64) →
    ∃ t, exec i s = .next t
      ∧ LaneEffect w sh e Fx.none ((computeLanes w e).map (fun l => (l, (laneSrcs s w sh e imm l).map (fun v =>
          let r := condHolds (w.m.toNat % 8) (ord v.1 v.2.1)
          ([⟨if r then 1 else 0, r⟩, ⟨if r then 0 else 1, !r⟩] : List FirnWord).take sh.d.writes.length)))) s t)
  ∧ (
  (∀ (w : FWord) (sh : Shape) (e : Env) (s : State) (pick : Nat → Nat × Bool), Issues (.sel w) w sh e s →
    pick = (fun l => if (guardMask s e.f w.g).getLsbD l then rdOp s e.f l w.a sh.a.words
      else if w.x.isSome then (immInt w sh.b.wide, true) else rdOp s e.f l w.b sh.b.words) →
    ∃ t, exec (.sel w) s = .next t
      ∧ LaneEffect w sh e Fx.none ((if Code.isUni w.d then (maskLanes e.sl.mask).take 1 else maskLanes e.sl.mask).map
          (fun l => (l, if (pick l).2 then some (wordsOf sh.d.writes.length (pick l).1) else none))) s t)
  ∧ (∀ (w : FWord) (sh : Shape) (e : Env) (s : State) (n : Nat → Nat × Bool), Issues (.shfl w) w sh e s →
    n = (fun l => match w.x with | some x => (x.imm.toNat, true) | none => rdOp s e.f l w.b 1) →
    ∃ t, exec (.shfl w) s = .next t
      ∧ LaneEffect w sh e Fx.none ((computeLanes w e).map (fun l => (l,
          if (n l).2 && (rdOp s e.f (shflSrc (w.m.toNat % 4) l (n l).1) w.a sh.a.words).2
          then some (wordsOf sh.d.writes.length (rdOp s e.f (shflSrc (w.m.toNat % 4) l (n l).1) w.a sh.a.words).1) else none))) s t))

/-- Validity as data: VSET and VCLR copy the data and set or clear V; VTEST and VAND give V bits as data; rule 2 does not apply. VOTE writes a
condition word (R131, R134). -/
def Obligations.ValidityInstructions : Prop :=
  ∀ (i : Instr) (w : FWord) (sh : Shape) (e : Env) (s : State) (val : Nat → FirnWord), Issues i w sh e s →
    (i = .vset w ∧ val = (fun l => ⟨BitVec.ofNat 32 (rdOp s e.f l w.a 1).1, true⟩)
      ∨ i = .vclr w ∧ val = (fun l => ⟨BitVec.ofNat 32 (rdOp s e.f l w.a 1).1, false⟩)
      ∨ i = .vtest w ∧ val = (fun l => ⟨if (rdOp s e.f l w.a 1).2 then 1 else 0, true⟩)
      ∨ i = .vand w ∧ val = (fun l =>
          let va := (rdOp s e.f l w.a 1).2
          let vb := w.x.isSome || (rdOp s e.f l w.b 1).2
          let v := if w.m = 0 then va && vb else if w.m = 1 then va && !vb else va || vb
          ⟨if v then 1 else 0, v⟩)
      ∨ i = .vote w ∧ val = (fun _ => ⟨if voteVal s w e then 1 else 0, voteVal s w e⟩)) →
    ∃ t, exec i s = .next t ∧ LaneEffect w sh e Fx.none ((computeLanes w e).map (fun l => (l, some ([val l].take sh.d.writes.length)))) s t

/-! ## What the results are -/

/-- Without saturation the integer results are those of arithmetic modulo 2^w: add, subtract, multiply, multiply-add, the bitwise functions, shifts by
any amount, minimum and maximum in the signedness of S[5], and the 32-bit shifted add (R118, R119). The exact value clamped to the bounds of the
format when S[3] is set, with SAT raised exactly when clamping changes it (R103, R118). -/
def Obligations.IntegerResults : Prop :=
  (
  ∀ (w : FWord) (a b c n : Nat), n = (if w.s.getLsbD 1 then 64 else 32) → w.s.getLsbD 0 = false → a < 2 ^ n → b < 2 ^ n → c < 2 ^ n →
    (opIadd w a b c).1 = (BitVec.ofNat n a + BitVec.ofNat n b).toNat
    ∧ (opIsub w a b c).1 = (BitVec.ofNat n a - BitVec.ofNat n b).toNat
    ∧ (opImul w a b c).1 = (BitVec.ofNat n a * BitVec.ofNat n b).toNat
    ∧ (opImad w a b c).1 = (BitVec.ofNat n a * BitVec.ofNat n b + BitVec.ofNat n c).toNat
    ∧ (opAnd w a b c).1 = (BitVec.ofNat n a &&& BitVec.ofNat n b).toNat
    ∧ (opOr w a b c).1 = (BitVec.ofNat n a ||| BitVec.ofNat n b).toNat
    ∧ (opXor w a b c).1 = (BitVec.ofNat n a ^^^ BitVec.ofNat n b).toNat
    ∧ (opShl w a b c).1 = (BitVec.ofNat n a <<< b).toNat
    ∧ (opShr w a b c).1 = (BitVec.ofNat n a >>> b).toNat
    ∧ (opSar w a b c).1 = ((BitVec.ofNat n a).sshiftRight b).toNat
    ∧ (opImin w a b c).1 = (if (if w.s.getLsbD 2 then (BitVec.ofNat n a).slt (BitVec.ofNat n b) else (BitVec.ofNat n a).ult (BitVec.ofNat n b)) then a else b)
    ∧ (opImax w a b c).1 = (if (if w.s.getLsbD 2 then (BitVec.ofNat n a).slt (BitVec.ofNat n b) else (BitVec.ofNat n a).ult (BitVec.ofNat n b)) then b else a)
    ∧ (n = 32 → (opLea w a b c).1 = (BitVec.ofNat 32 a + BitVec.ofNat 32 b <<< w.c.toNat).toNat))
  ∧ (
  ∀ (n : Nat) (sg : Bool) (x : Int), 0 < n →
    ival n sg (fit n sg true x).1 = max (intLo n sg) (min (intHi n sg) x)
    ∧ ((fit n sg true x).2.sat = true ↔ x < intLo n sg ∨ intHi n sg < x)
    ∧ (fit n sg false x).2 = Fx.none ∧ (((fit n sg false x).1 : Int) = x % ((2 ^ n : Nat) : Int)))

/-- A NaN operand of an FP32 instruction gives the canonical NaN, whatever the NaN's bits, and FMIN and FMAX give the other operand of one NaN and the
canonical NaN of two (R86, R121). -/
def Obligations.NanOperandsGiveCanonicalNan : Prop :=
  ∀ (w : FWord) (a b c : Nat), Fmt.fp32.decode a = .nan →
    (opFadd w a b c).1 = 0x7FC00000 ∧ (opFadd w b a c).1 = 0x7FC00000 ∧ (opFsub w a b c).1 = 0x7FC00000 ∧ (opFsub w b a c).1 = 0x7FC00000
    ∧ (opFmul w a b c).1 = 0x7FC00000 ∧ (opFmul w b a c).1 = 0x7FC00000 ∧ (opFfma w a b c).1 = 0x7FC00000 ∧ (opFfma w b a c).1 = 0x7FC00000
    ∧ (opFfma w b c a).1 = 0x7FC00000 ∧ (opFmov w a b c).1 = 0x7FC00000 ∧ (opFrcp w a b c).1 = 0x7FC00000
    ∧ (opFsqrt w a b c).1 = 0x7FC00000
    ∧ (opFmin w a b c).1 = Fmt.fp32.encode (fpSrc .fp32 (isFtz w) b) ∧ (opFmax w b a c).1 = Fmt.fp32.encode (fpSrc .fp32 (isFtz w) b)
    ∧ (Fmt.fp32.decode b = .nan → (opFmin w a b c).1 = 0x7FC00000 ∧ (opFmax w a b c).1 = 0x7FC00000)

/-! ## Class 5 and the roles, modes and traps a floe takes by itself -/

/-- NOP, and every control instruction whose exec is empty, only advances the PC (R32, R155-R165, R374-R377). YIELD, and SLEEP of 0, give up the next
opportunity; SETROLE and SETMODE set the role and the mode; a SETMODE.dmr.full that its three conditions do not allow raises ILLEGAL_OPERANDS (R142,
R162, R163, R164, R165). What SLEEP takes of %lane, which has no one value for the floe, is a free lane of exec (log 22). -/
def Obligations.YieldRoleModeAndEmptyExec : Prop :=
  (
  ∀ (i : Instr) (w : FWord) (sh : Shape) (e : Env) (s : State), Issues i w sh e s →
    (i = .nop w ∨ e.exec = 0 ∧ (i = .br w ∨ i = .brx w ∨ i = .jmp w ∨ i = .call w ∨ i = .ret w ∨ i = .exit w ∨ i = .elect w ∨ i = .yield w
      ∨ i = .trap w ∨ i = .brk w ∨ i = .sleep w ∨ i = .svc w ∨ i = .trapret w ∨ i = .setrole w ∨ i = .setmode w)) →
    ∃ t, exec i s = .next t ∧ FloeEffect e.h (e.after w sh s e.f) s t)
  ∧ (
  ∀ (w : FWord) (sh : Shape) (e : Env) (s : State), e.exec ≠ 0 →
    (Issues (.yield w) w sh e s → ∃ t, exec (.yield w) s = .next t ∧ FloeEffect e.h (e.afterHint w sh s e.f) s t)
    ∧ (Issues (.sleep w) w sh e s → sleepAmount w e s = (0, true) →
      ∃ t, exec (.sleep w) s = .next t ∧ FloeAnd e.h (e.afterHint w sh s e.f) s (s.takeFresh (if w.b = 0xF0 then 1 else 0)) t)
    ∧ (sleepAmount w e s = match w.x with
        | some x => (x.imm.toNat, true)
        | none => if w.b = 0xF0 then (freeLane s e.exec, true) else rdOp s e.f 0 w.b 1)
    ∧ (Issues (.setrole w) w sh e s → ∃ t, exec (.setrole w) s = .next t ∧ FloeEffect e.h
        (e.after w sh s { e.f with role := if w.m = 0 then .loader else if w.m = 1 then .math else .epilogue }) s t)
    ∧ (Issues (.setmode w) w sh e s →
        w.m ≠ 1 ∨ ((e.f.slot (!e.b)).isNone ∧ e.f.stack = [] ∧ e.f.parked = 0 ∧ e.sl.mask &&& 0xFFFF0000 = 0) →
        ∃ t, exec (.setmode w) s = .next t ∧ FloeEffect e.h
          (e.after w sh s { e.f with dmr := if w.m = 0 then .off else if w.m = 1 then .full else .idle }) s t)
    ∧ (∀ x : Ctx, Issues (.setmode w) w sh e s → s.ctx? e.f.ctx = some x → e.f.levelHandler = false → x.trapBase ≠ 0 →
        w.m = 1 ∧ ¬ ((e.f.slot (!e.b)).isNone ∧ e.f.stack = [] ∧ e.f.parked = 0 ∧ e.sl.mask &&& 0xFFFF0000 = 0) →
        ∃ t, exec (.setmode w) s = .next t ∧ TrapEffect e x.trapBase .illegalOperands false e.exec 0 e.sl.pc Fx.none s t))

/-- Transfers of a whole slot: BR whose active lanes all go to one PC, BRX whose lanes all go to one target, JMP to a valid pair, and CALL, which
pushes the return address with the slot's mask and reconvergence PC (R156-R159). Arrivals and completions follow (R146). A target that is not a
multiple of 8 raises MISALIGNED_TARGET on BRX, with the lanes concerned, and on JMP, the PC left there; a CALL without stack space raises STACK_LIMIT
(R48, R145, R157, R158, R159). -/
def Obligations.TransfersOfControl : Prop :=
  (
  ∀ (w : FWord) (sh : Shape) (e : Env) (s : State), e.exec ≠ 0 →
    (Issues (.br w) w sh e s → e.sl.mask &&& ~~~e.exec = 0 ∨ e.sl.pc + BitVec.ofInt 64 (8 * (w.a ++ w.b ++ w.c : BitVec 24).toInt)
        = e.sl.pc + BitVec.ofNat 64 (wordLen w) →
      ∃ t, exec (.br w) s = .next t ∧ FloeEffect e.h (e.afterJump w sh s
        (e.f.setSlot e.b (some ⟨e.sl.pc + BitVec.ofInt 64 (8 * (w.a ++ w.b ++ w.c : BitVec 24).toInt), e.sl.mask, e.sl.rpc, some e.sl.pc⟩))) s t)
    ∧ (∀ p : Dword, Issues (.brx w) w sh e s → e.sl.mask &&& ~~~e.exec = 0 → p.toNat % 8 = 0 →
      (∀ l, e.exec.getLsbD l = true → rdOp s e.f l w.a 2 = (p.toNat, true)) →
      ∃ t, exec (.brx w) s = .next t ∧ FloeEffect e.h (e.afterJump w sh s
        (e.f.setSlot e.b (some ⟨p, e.sl.mask, e.sl.rpc, some e.sl.pc⟩))) s t)
    ∧ (∀ p : Dword, Issues (.jmp w) w sh e s → rdOp s e.f 0 w.a 2 = (p.toNat, true) → p.toNat % 8 = 0 →
      ∃ t, exec (.jmp w) s = .next t ∧ FloeEffect e.h (e.afterJump w sh s
        (e.f.setSlot e.b (some ⟨p, e.sl.mask, e.sl.rpc, some e.sl.pc⟩))) s t)
    ∧ (Issues (.call w) w sh e s → e.f.stack.length + 1 ≤ e.f.spillCap →
      ∃ t, exec (.call w) s = .next t ∧ FloeEffect e.h (e.afterJump w sh s
        ({ e.f with stack := ⟨.call, e.sl.pc + 8, e.sl.mask, e.sl.rpc, some e.sl.pc⟩ :: e.f.stack }.setSlot e.b
          (some ⟨e.sl.pc + BitVec.ofInt 64 (8 * (w.a ++ w.b ++ w.c : BitVec 24).toInt), e.sl.mask, none, some e.sl.pc⟩))) s t))
  ∧ (
  ∀ (w : FWord) (sh : Shape) (e : Env) (s : State) (x : Ctx), e.exec ≠ 0 → s.ctx? e.f.ctx = some x → e.f.levelHandler = false → x.trapBase ≠ 0 →
    (∀ bad, Issues (.brx w) w sh e s →
      bad = (maskLanes e.exec).filter (fun l => (rdOp s e.f l w.a 2).2 && decide ((rdOp s e.f l w.a 2).1 % 8 ≠ 0)) → bad ≠ [] → e.sl.pc.toNat % 8 = 0 →
      ∃ t, exec (.brx w) s = .next t ∧ TrapEffect e x.trapBase .misalignedTarget false (lanesMask bad) 0 e.sl.pc Fx.none s t)
    ∧ (Issues (.jmp w) w sh e s → (rdOp s e.f 0 w.a 2).2 = true → (rdOp s e.f 0 w.a 2).1 % 8 ≠ 0 →
      ∃ t, exec (.jmp w) s = .next t ∧ TrapEffect e x.trapBase .misalignedTarget false e.exec 0 e.sl.pc Fx.none s t)
    ∧ (Issues (.call w) w sh e s → e.f.spillCap < e.f.stack.length + 1 →
      ∃ t, exec (.call w) s = .next t ∧ TrapEffect e x.trapBase .stackLimit false e.exec 0 e.sl.pc Fx.none s t))

/-- A divergent BR: with a join J, JOIN(J, mask, reconvergence) is pushed; the fall-through lanes keep the slot; the taken lanes go to the other slot,
or to a PATH entry where it is live, or the floe is in a handler, which runs in one slot (R370); both reconverge at J. Without space for the entries it raises STACK_LIMIT (R145, R147, R156). A BRX whose active
lanes go to several PCs: the groups, one for each PC and in ascending PC, hold the lanes that go there, the next word's group among them; the first
keeps the slot, the second takes the other slot where it is FREE, the rest become PATH entries, the lowest topmost, over the JOIN entry; without space
for the entries it raises STACK_LIMIT (R145, R147, R157). -/
def Obligations.DivergentBranches : Prop :=
  (
  ∀ (w : FWord) (sh : Shape) (e : Env) (s : State) (fall target : Dword) (join : Option Dword) (need : Nat), Issues (.br w) w sh e s →
    e.exec ≠ 0 → e.sl.mask &&& ~~~e.exec ≠ 0 → fall = e.sl.pc + BitVec.ofNat 64 (wordLen w) →
    target = e.sl.pc + BitVec.ofInt 64 (8 * (w.a ++ w.b ++ w.c : BitVec 24).toInt) → target ≠ fall →
    join = w.x.map (fun x => e.sl.pc + BitVec.ofInt 64 (8 * x.imm.toInt)) →
    need = (if join.isSome then 1 else 0) + (if e.f.takes (!e.b) then 0 else 1) →
    (e.f.stack.length + need ≤ e.f.spillCap →
      ∃ t, exec (.br w) s = .next t ∧ FloeEffect e.h (e.afterJump w sh s
        (let st := (match join with | some j => [⟨.join, j, e.sl.mask, e.sl.rpc, some e.sl.pc⟩] | none => []) ++ e.f.stack
         let first : Slot := ⟨fall, e.sl.mask &&& ~~~e.exec, join, some e.sl.pc⟩
         if e.f.takes (!e.b) = false then { e.f with stack := ⟨.path, target, e.exec, join, some e.sl.pc⟩ :: st }.setSlot e.b (some first)
         else ({ e.f with stack := st }.setSlot e.b (some first)).setSlot (!e.b) (some ⟨target, e.exec, join, some e.sl.pc⟩))) s t)
    ∧ (∀ x : Ctx, e.f.spillCap < e.f.stack.length + need → s.ctx? e.f.ctx = some x → e.f.levelHandler = false → x.trapBase ≠ 0 →
      ∃ t, exec (.br w) s = .next t ∧ TrapEffect e x.trapBase .stackLimit false e.exec 0 e.sl.pc Fx.none s t))
  ∧ (
  ∀ (w : FWord) (sh : Shape) (e : Env) (s : State) (fall : Dword) (target : Nat → Dword) (join : Option Dword) (g0 g1 : Dword × Mask)
    (rest paths : List (Dword × Mask)), Issues (.brx w) w sh e s → e.exec ≠ 0 → fall = e.sl.pc + BitVec.ofNat 64 (wordLen w) →
    target = (fun l => if e.exec.getLsbD l ∧ (rdOp s e.f l w.a 2).2 = true then BitVec.ofNat 64 (rdOp s e.f l w.a 2).1 else fall) →
    (∀ l, e.exec.getLsbD l = true → (target l).toNat % 8 = 0) → join = w.x.map (fun x => e.sl.pc + BitVec.ofInt 64 (8 * x.imm.toInt)) →
    (g0 :: g1 :: rest).Pairwise (fun a b => a.1.toNat < b.1.toNat) →
    (∀ g ∈ g0 :: g1 :: rest, g.2 ≠ 0 ∧ ∀ l, l < 32 → (g.2.getLsbD l = true ↔ e.sl.mask.getLsbD l = true ∧ target l = g.1)) →
    (∀ l, l < 32 → e.sl.mask.getLsbD l = true → ∃ g ∈ g0 :: g1 :: rest, g.1 = target l) →
    paths = (if e.f.takes (!e.b) then rest else g1 :: rest) →
    (e.f.stack.length + (paths.length + (if join.isSome then 1 else 0)) ≤ e.f.spillCap →
      ∃ t, exec (.brx w) s = .next t ∧ FloeEffect e.h (e.afterJump w sh s
        (let st := paths.map (fun g => (⟨.path, g.1, g.2, join, some e.sl.pc⟩ : StackEntry))
           ++ ((match join with | some j => [⟨.join, j, e.sl.mask, e.sl.rpc, some e.sl.pc⟩] | none => []) ++ e.f.stack)
         let f1 := { e.f with stack := st }.setSlot e.b (some ⟨g0.1, g0.2, join, some e.sl.pc⟩)
         if e.f.takes (!e.b) then f1.setSlot (!e.b) (some ⟨g1.1, g1.2, join, some e.sl.pc⟩) else f1)) s t)
    ∧ (∀ x : Ctx, e.f.spillCap < e.f.stack.length + (paths.length + (if join.isSome then 1 else 0)) → s.ctx? e.f.ctx = some x →
      e.f.levelHandler = false → x.trapBase ≠ 0 →
      ∃ t, exec (.brx w) s = .next t ∧ TrapEffect e x.trapBase .stackLimit false e.exec 0 e.sl.pc Fx.none s t))

/-- RET parks the lanes of exec at the topmost CALL entry that holds them all, and takes them off the entries above it and off the slot; with no such
entry it raises ILLEGAL_OPERANDS (R148, R159). EXIT retires the lanes of exec from the slot and from every entry; when the floe's last live lane
retires, the floe is RETIRED with both slots FREE, and no register or byte of memory changes (R137, R148, R160). -/
def Obligations.ReturnAndExit : Prop :=
  (
  ∀ (w : FWord) (sh : Shape) (e : Env) (s : State), Issues (.ret w) w sh e s → e.exec ≠ 0 →
    (∀ (above below : List StackEntry) (c : StackEntry), e.f.stack = above ++ c :: below → c.kind = .call → e.exec &&& c.mask = e.exec →
      (∀ q ∈ above, ¬ (q.kind = .call ∧ e.exec &&& q.mask = e.exec)) →
      ∃ t, exec (.ret w) s = .next t ∧ FloeEffect e.h (e.after w sh s
        ({ e.f with stack := stackRemove e.exec above ++ { c with via := some e.sl.pc } :: below, parked := e.f.parked ||| e.exec }.setSlot e.b
          (if e.sl.mask &&& ~~~e.exec = 0 then none else some { e.sl with mask := e.sl.mask &&& ~~~e.exec }))) s t)
    ∧ (∀ x : Ctx, (∀ q ∈ e.f.stack, ¬ (q.kind = .call ∧ e.exec &&& q.mask = e.exec)) → s.ctx? e.f.ctx = some x → e.f.levelHandler = false →
      x.trapBase ≠ 0 → ∃ t, exec (.ret w) s = .next t ∧ TrapEffect e x.trapBase .illegalOperands false e.exec 0 e.sl.pc Fx.none s t))
  ∧ (
  ∀ (w : FWord) (sh : Shape) (e : Env) (s : State) (g : Floe), Issues (.exit w) w sh e s → e.exec ≠ 0 →
    g = { e.f with stack := stackRemove e.exec e.f.stack }.setSlot e.b
          (if e.sl.mask &&& ~~~e.exec = 0 then none else some { e.sl with mask := e.sl.mask &&& ~~~e.exec }) →
    (g.liveLanes ≠ 0 → ∃ t, exec (.exit w) s = .next t ∧ FloeEffect e.h (e.after w sh s g) s t)
    ∧ (g.liveLanes = 0 → ∃ t r, exec (.exit w) s = .next t ∧ t.floe? e.h = some r ∧ r.state = .retired ∧ r.s0 = none ∧ r.s1 = none
        ∧ r.stack = [] ∧ r.parked = 0 ∧ r.openGroup = none ∧ t.firn = s.firn ∧ SameMem s t ∧ t.ops = s.ops
        ∧ OtherFloes e.h s t))

/-- ELECT chooses the lowest lane of exec: a condition word in every lane of exec of a vector D, the lane's number in a uniform D (R161). -/
def Obligations.ElectChoosesLowestLane : Prop :=
  ∀ (w : FWord) (sh : Shape) (e : Env) (s : State) (l0 : Nat) (rest : List Nat), Issues (.elect w) w sh e s → maskLanes e.exec = l0 :: rest →
    ∃ t, exec (.elect w) s = .next t ∧ LaneEffect w sh e Fx.none (if Code.isUni w.d then [(l0, some (wordsOf 1 l0))]
      else (maskLanes e.exec).map (fun l => (l, some [⟨if l = l0 then 1 else 0, l == l0⟩]))) s t

/-- SLEEP of n gt leaves the floe WAITING at its PC with the deadline the core's GT plus n; SLEEP_DEADLINE after the deadline, and nothing before,
makes it READY at the next word (R137, R138, R163). CONDITION_MET of a floe whose condition holds has the effect its instruction was waiting to have
and makes the floe READY at the next word, or at the same word where the instruction issues again; before the condition holds it changes nothing.
A floe that a fault took out of a wait begins it again (log 52). FLOE_AGED marks a READY floe whose age in ck has come within 16 of its partition's
limit, and no other (R137, R138, R141, R150). -/
def Obligations.SleepAndWaits : Prop :=
  (
  (∀ (w : FWord) (sh : Shape) (e : Env) (s : State) (n : Nat), Issues (.sleep w) w sh e s → e.exec ≠ 0 →
    sleepAmount w e s = (n, true) → 0 < n →
    ∃ t, exec (.sleep w) s = .next t ∧ FloeAnd e.h (e.after w sh s (e.f.held (.sleep (s.coreGt e.f.core + n)) s.gt)) s
      (s.takeFresh (if w.b = 0xF0 then 1 else 0)) t)
  ∧ (∀ (s : State) (h d : Nat) (f : Floe) (sl : Slot), s.floe? h = some f → f.state = .waiting → s.stopped f = false → f.wait = some (.sleep d) →
    f.slot f.waitSlot1 = some sl → f.waitLen ≠ 0 →
    (d ≤ s.coreGt f.core → ∃ t, exec (.sleepDeadline h) s = .next t ∧ FloeEffect h (Floe.settle ({ f with
        state := .ready, wait := none, since := s.mck f.core }.setSlot f.waitSlot1
          (some { sl with pc := sl.pc + BitVec.ofNat 64 f.waitLen, via := none }))) s t)
    ∧ (s.coreGt f.core < d → exec (.sleepDeadline h) s = .next s)))
  ∧ (
  (∀ (s : State) (h : Nat) (f : Floe) (c : Wait), s.floe? h = some f → s.stopped f = false → f.state = .waiting → f.wait = some c →
    (waitHolds s h f c = false → exec (.conditionMet h) s = .next s)
    ∧ (waitHolds s h f c = true → (∀ k lv, c ≠ .arrive k lv true) → (∀ ids i a, c ≠ .ops ids (.tlbinv i a)) →
      exec (.conditionMet h) s = .next ((waitEffect s h f c).modFloe h (fun g => g.resume (s.mck f.core))))
    ∧ (waitHolds s h f c = true → ∀ ids i a, c = .ops ids (.tlbinv i a) →
      exec (.conditionMet h) s = .next ((s.tlbinv f.core f.ctx i a).modFloe h (fun g =>
        if s.tlbUsers f.core f.ctx i a = [] then g.resume (s.mck f.core) else { g with wait := some (.ops (s.tlbUsers f.core f.ctx i a) .used) })))
    ∧ (waitHolds s h f c = true → ∀ k lv, c = .arrive k lv true →
      exec (.conditionMet h) s = .next ((s.arriveAt h f k lv).modFloe h (fun g => { g with wait := some (.barrier k) }))))
  ∧ (∀ (s : State) (h : Nat) (f : Floe) (c : Wait), s.floe? h = some f → s.stopped f = false → f.state = .ready → f.wait = some c →
    exec (.conditionMet h) s = .next (s.setFloe h { f with state := .waiting }))
  ∧ (∀ (s : State) (h : Nat) (f : Floe), s.floe? h = some f →
    (f.state = .ready → (s.part (partOf f.core)).ageLimit - 16 ≤ (s.mck f.core - f.since) / 1000 →
      exec (.floeAged h) s = .next (s.setFloe h { f with aged := true }))
    ∧ ((s.mck f.core - f.since) / 1000 < (s.part (partOf f.core)).ageLimit - 16 → exec (.floeAged h) s = .next s)))

/-- TRAP and BRK enter the handler with their code in TINFO and the next word in TEPC (R370, R374). SVC posts a record of SOURCE 5 with its code and
argument and leaves the floe SUSPENDED at the next word (R377). TRAPRET in a handler whose slot mask and stack depth are the entry frame's: the plain
form returns to TEPC with the frame's mask and reconvergence PC, releases the other slot and lowers the level; .kill retires the floe. Outside a
handler it raises ILLEGAL_OPERANDS (R375). -/
def Obligations.TrapsAndServiceCalls : Prop :=
  (
  ∀ (w : FWord) (sh : Shape) (e : Env) (s : State) (i : Instr) (c : Cause) (x : Ctx), Issues i w sh e s → e.exec ≠ 0 →
    s.ctx? e.f.ctx = some x → e.f.levelHandler = false → x.trapBase ≠ 0 → (i = .trap w ∧ c = .software ∨ i = .brk w ∧ c = .breakpoint) →
    ∃ t, exec i s = .next t ∧ TrapEffect e x.trapBase c false e.exec (w.c.setWidth 64) (e.sl.pc + BitVec.ofNat 64 (wordLen w)) Fx.none s t)
  ∧ (
  ∀ (w : FWord) (sh : Shape) (e : Env) (s : State) (x : Ctx), Issues (.svc w) w sh e s → e.exec ≠ 0 → s.ctx? e.f.ctx = some x →
    ∃ t r, exec (.svc w) s = .next t ∧ t.floe? e.h = some r ∧ r.state = .suspended
      ∧ r = e.after w sh s { e.f with state := .suspended, susp := some ⟨none, e.b, e.sl.pc + BitVec.ofNat 64 (wordLen w),
          { cause := .software, lanes := e.exec, tinfo := w.c.setWidth 64 }, true⟩ }
      ∧ t.ctx? e.f.ctx = some { x with faultRecs := x.faultRecs ++ [⟨faultRecord 0x40 5 true (partOf e.f.core) e.f.inst e.f.num e.f.core 0 0 0 0
          e.sl.pc e.exec (w.c.toNat + 256 * ((if (rdOp s e.f 0 w.a 1).2 then (rdOp s e.f 0 w.a 1).1 else 0) % 2 ^ 24)) 0 (s.gt % 2 ^ 64)⟩] }
      ∧ OtherFloes e.h s t ∧ SameMem s t ∧ { t with floes := s.floes, ctxs := s.ctxs } = s)
  ∧ (
  ∀ (w : FWord) (sh : Shape) (e : Env) (s : State), Issues (.trapret w) w sh e s → e.exec ≠ 0 →
    (∀ fr, e.f.frame = some fr → fr.mask = e.sl.mask → fr.depth = e.f.stack.length → w.m = 0 → e.f.tepc.toNat % 8 = 0 →
      ∃ t, exec (.trapret w) s = .next t ∧ FloeEffect e.h (e.afterJump w sh s
        { e.f.setSlot e.b (some ⟨e.f.tepc, fr.mask, fr.rpc, some e.sl.pc⟩) with frame := none, levelHandler := false, levelPriv := false }) s t)
    ∧ (∀ fr, e.f.frame = some fr → fr.mask = e.sl.mask → fr.depth = e.f.stack.length → w.m = 1 →
      ∃ t r, exec (.trapret w) s = .next t ∧ t.floe? e.h = some r ∧ r.state = .retired ∧ r.s0 = none ∧ r.s1 = none ∧ r.stack = [] ∧ r.parked = 0
        ∧ r.frame = none ∧ t.firn = s.firn ∧ SameMem s t ∧ OtherFloes e.h s t)
    ∧ (∀ x : Ctx, e.f.frame = none → s.ctx? e.f.ctx = some x → e.f.levelHandler = false → x.trapBase ≠ 0 →
      ∃ t, exec (.trapret w) s = .next t ∧ TrapEffect e x.trapBase .illegalOperands false e.exec 0 e.sl.pc Fx.none s t))

/-! ## Classes 6 to 8: the issue of a memory access -/

/-- The issue of a lane transfer or atomic with room in its class and arrival counters: one operation is put in flight, with the address, data and
validity of every lane that reads valid sources, the lanes of exec that do not are nullified, the class counter and the arrival counter count it, and
no register and no byte of memory changes (R166, R168, R170, R174, R189, R190, R216). An empty exec only advances. STC with no valid lane of exec
stores nothing and only advances; an access that would take its class counter above 1,023, or to a line where a migration holds a write of the floe,
is not ready; one through a full arrival counter leaves the floe WAITING at the same word, to issue again (R174, R191, R240). The lanes of a load or a
plain store: each lane of exec with a valid base and index accesses base + index·size + offset; a store of invalid data to global memory accesses
nothing (R168, R170, R190). -/
def Obligations.MemoryInstructionsIssue : Prop :=
  (
  ∀ p ∈ memInstrs, ∀ (w : FWord) (sh : Shape) (e : Env) (s : State), Issues (p.1 w) w sh e s →
    (e.exec = 0 → ∃ t, exec (p.1 w) s = .next t ∧ FloeEffect e.h (e.after w sh s e.f) s t)
    ∧ (e.exec ≠ 0 → (if (p.2 w sh e s).isSt then e.f.st else e.f.ld) < 1023 → (∀ k, (p.2 w sh e s).ac = some k → (e.f.ac k).out < 255) →
        lockHolds s e.h (withLanes s e (p.2 w sh e s)) = false →
        ¬ ((p.2 w sh e s).kind = .compress 0 ∧ (opLanes s e.f (p.2 w sh e s) e.exec).1 = []) →
      ∃ t q, exec (p.1 w) s = .next t ∧ OpIssued (p.2 w sh e s) q w sh e s t))
  ∧ (
  ∀ p ∈ memInstrs, ∀ (w : FWord) (sh : Shape) (e : Env) (s : State) (o : Op), Issues (p.1 w) w sh e s → e.exec ≠ 0 → o = p.2 w sh e s →
    ((if o.isSt then e.f.st else e.f.ld) < 1023 → o.ac = none → o.kind = .compress 0 → (opLanes s e.f o e.exec).1 = [] →
      ∃ t, exec (p.1 w) s = .next t ∧ FloeEffect e.h (e.after w sh s e.f) s t)
    ∧ (1023 ≤ (if o.isSt then e.f.st else e.f.ld) → ∃ t, exec (p.1 w) s = .next t ∧ FloeEffect e.h (e.unready e.f) s t)
    ∧ ((if o.isSt then e.f.st else e.f.ld) < 1023 → ∀ k, o.ac = some k → 255 ≤ (e.f.ac k).out →
      ∃ t, exec (p.1 w) s = .next t ∧ FloeEffect e.h (e.stalled (.acFull k) s e.f) s t)
    ∧ ((if o.isSt then e.f.st else e.f.ld) < 1023 → o.ac = none → o.kind ≠ .compress 0 → lockHolds s e.h (withLanes s e o) = true →
      ∃ t, exec (p.1 w) s = .next t ∧ FloeEffect e.h (e.unready e.f) s t))
  ∧ (
  ∀ (s : State) (f : Floe) (o : Op) (exec : Mask) (l : Nat) (va : Dword) (d : Nat × Bool), o.uniform = false → (o.kind = .load ∨ o.kind = .store) →
    l < 32 → exec.getLsbD l = true → (rdOp s f l o.word.a 2).2 = true → (o.word.b = 0xFF ∨ (rdOp s f l o.word.b 1).2 = true) →
    va = BitVec.ofInt 64 (((rdOp s f l o.word.a 2).1 : Int)
      + (if o.word.b = 0xFF then 0 else (BitVec.ofNat 32 (rdOp s f l o.word.b 1).1).toInt) * o.size + o.off) →
    d = rdOp s f l o.word.d (accWords o.size) →
    (o.kind = .load ∨ d.2 = true ∨ inFirn va = true →
      ∃ la ∈ (opLanes s f o exec).1, la.lane = l ∧ la.va = va ∧ (o.kind = .store → la.data = d.1 ∧ la.valid = d.2))
    ∧ (o.kind = .store → d.2 = false → inFirn va = false → ∀ la ∈ (opLanes s f o exec).1, la.lane ≠ l))

/-- LDR and STR put the same kind of operation in flight, on the firn of the core their X word names on the same die; a COORD that names no core of the
die is an operand no decode check lets pass. PREF changes no register, no byte of memory and no operation (R173, R192). -/
def Obligations.RemoteFirnAndPrefetch : Prop :=
  ∀ (w : FWord) (sh : Shape) (e : Env) (s : State),
    (∀ c, Issues (.ldr w) w sh e s → e.exec ≠ 0 → remoteCore s e w = some c → e.f.ld < 1023 →
      lockHolds s e.h (withLanes s e (loadOp (.loadRemote c) false false w sh e s)) = false →
      ∃ t q, exec (.ldr w) s = .next t ∧ OpIssued (loadOp (.loadRemote c) false false w sh e s) q w sh e s t)
    ∧ (∀ c, Issues (.str w) w sh e s → e.exec ≠ 0 → remoteCore s e w = some c → e.f.st < 1023 →
      lockHolds s e.h (withLanes s e (storeOp (.storeRemote c) false w sh e s)) = false →
      ∃ t q, exec (.str w) s = .next t ∧ OpIssued (storeOp (.storeRemote c) false w sh e s) q w sh e s t)
    ∧ (∀ i x v, (i = .ldr w ∨ i = .str w) → shapeOf i = some (w, sh) → s.env? w.g (wordLen w) = some e → modifierOk sh w = true → w.x = some v →
      v.kind ≠ 0 → remoteCore s e w = none → s.ctx? e.f.ctx = some x → e.f.levelHandler = false → x.trapBase ≠ 0 →
      ∃ t, exec i s = .next t ∧ TrapEffect e x.trapBase .illegalOperands false e.sl.mask 0 e.sl.pc Fx.none s t)
    ∧ (Issues (.pref w) w sh e s → ∃ t, exec (.pref w) s = .next t ∧ t.floe? e.h = some (e.after w sh s e.f) ∧ OtherFloes e.h s t
      ∧ SameMem s t ∧ { t with floes := s.floes, ms := s.ms, cores := s.cores } = s)

/-! ## The ends of accesses -/

/-- DATA_RETURN of a load whose data is there: each lane's registers take the bytes its floe sees, extended as the access says, with the validity they
were stored with, nullified lanes lose their V; the operation ends and leaves its counters; no byte of memory changes. Before the data is there, or
while an earlier access of the floe to the same bytes is to come first, no register changes (R115, R166, R169, R170, R189, R223). Lanes may have
returned before, by themselves (R172). A return whose tag does not match the floe's allocation is dropped: no register changes, and %dropped of the core counts it
(R115). -/
def Obligations.LoadReturns : Prop :=
  (
  ∀ (s : State) (id : Nat) (o : Op) (f : Floe), Table.find? s.ops id = some o → o.isSt = false →
    (o.kind = .load ∨ (∃ c, o.kind = .loadRemote c) ∨ (∃ k, o.kind = .expand k) ∨ o.kind = .recv) → s.tagLive o = true →
    s.floe? o.floe = some f → OpFits f o →
    ((o.ready s && ownFirst s id o.todo && o.todo.dataReady s) = true →
      ∃ t, exec (.dataReturn id) s = .next t ∧ Wrote f o.d (loadResults s id o.todo) s t
        ∧ Table.find? t.ops id = none ∧ (∀ k, k ≠ id → Table.find? t.ops k = Table.find? s.ops k)
        ∧ OpLeft o f s t ∧ OtherFloes o.floe s t ∧ SameMem s t)
    ∧ ((o.ready s && ownFirst s id o.todo && o.todo.dataReady s) = false → ∃ t, exec (.dataReturn id) s = .next t ∧ t.firn = s.firn ∧ t.ops = s.ops ∧ t.floes = s.floes ∧ SameMem s t))
  ∧ (
  ∀ (s : State) (id : Nat) (o : Op), Table.find? s.ops id = some o → o.isSt = false →
    (o.kind = .load ∨ (∃ c, o.kind = .loadRemote c) ∨ (∃ k, o.kind = .expand k)) → s.tagLive o = false →
    (o.ready s && ownFirst s id o.todo && o.todo.dataReady s) = true →
    ∃ t, exec (.dataReturn id) s = .next t ∧ t.firn = s.firn ∧ t.floes = s.floes ∧ SameMem s t ∧ Table.find? t.ops id = none
      ∧ (t.core o.core).dropped = satInc (s.core o.core).dropped)

/-- STORE_PERFORMED of a store to memory that no directory, lease or earlier access holds: the bytes of each valid lane still to be performed stand at
the address its access was translated to, the highest lane winning a byte; every byte outside them reads as before, but in a seal block that the store takes over or spoils; no
register changes; the operation ends (R166, R172, R190, R200, R396). SLICE_HOLD_END performs the same bytes and leaves the operation performed, to be
acknowledged (R200). -/
def Obligations.StorePerformances : Prop :=
  (
  ∀ (s : State) (id : Nat) (o : Op) (sealedPages : Bool), Table.find? s.ops id = some o → o.isSt = true →
    (o.kind = .store ∨ ∃ k, o.kind = .compress k) → o.state = .inFlight → (o.todo.writeReady s id && !o.todo.leaseHeld s) = true →
    (∀ la ∈ o.todo.lanes, ∃ p, laneView s o la = .ok (.mem p) ∧ p.pte.sealed = sealedPages ∧ o.skip.contains (p.pa / 256) = false) → (∀ c, s.ctx? o.ctx = some c → c.keyKid ≠ 0) →
    ∃ t, exec (.storePerformed id) s = .next t ∧ Table.find? t.ops id = none ∧ (∀ k, k ≠ id → Table.find? t.ops k = Table.find? s.ops k)
      ∧ t.firn = s.firn
      ∧ (∀ a, (∀ la ∈ o.todo.lanes, ∀ p, laneView s o la = .ok (.mem p) → la.valid = true →
          ¬ (p.pa ≤ a ∧ a < p.pa + o.size) ∧ (∀ i, i < o.size → (p.pa + i) / 4096 = a / 4096 → sealQuiet s o.ctx p.pte a = true)) → t.ms.byte a = s.ms.byte a)
      ∧ (∀ pre la post p i, o.todo.lanes = pre ++ la :: post → la.valid = true → laneView s o la = .ok (.mem p) → i < o.size →
          (∀ q ∈ post, q.valid = true → ∀ y, laneView s o q = .ok (.mem y) → ¬ (y.pa ≤ p.pa + i ∧ p.pa + i < y.pa + o.size)) →
          t.ms.byte (p.pa + i) = BitVec.ofNat 8 (la.data / 2 ^ (8 * i))))
  ∧ (
  ∀ (s : State) (id : Nat) (o : Op), Table.find? s.ops id = some o → (o.kind = .store ∨ ∃ k, o.kind = .compress k) →
    ((o.todo.writeReady s id && !o.todo.leaseHeld s) = true →
      ∃ t, exec (.sliceHoldEnd id) s = .next t ∧ t.ms = (performStore s o.todo).ms ∧ t.firn = (performStore s o.todo).firn
        ∧ t.floes = (performStore s o.todo).floes ∧ Table.find? t.ops id = some { o with state := .performed } ∧ (∀ k, k ≠ id → Table.find? t.ops k = Table.find? s.ops k))
    ∧ ((o.todo.writeReady s id && !o.todo.leaseHeld s) = false → exec (.sliceHoldEnd id) s = .next s))

/-- An atomic on one word of memory at its home: the old value is that memory holds, the new one is that of its operation, and no other byte changes;
D of a returning atomic takes the old value with V = 1 (R210, R215, R216). A CAS that does not compare equal writes nothing. -/
def Obligations.AtomicReadsModifiesWrites : Prop :=
  ∀ (s : State) (id : Nat) (o : Op) (f : Floe) (op : AtomOp) (la : LaneAcc) (p : Phys) (old : Nat), Table.find? s.ops id = some o → o.isSt = false →
    o.kind = .atomic op true → o.todo.lanes = [la] → laneView s o la = .ok (.mem p) → s.tagLive o = true → s.floe? o.floe = some f → OpFits f o →
    (o.todo.writeReady s id && !o.todo.leaseHeld s) = true → o.skip.contains (p.pa / 256) = false → p.pte.sealed = false → (s.sealMeta (p.pa / 4096)).kid = 0 → p.pa / 4096 = (p.pa + o.size - 1) / 4096 →
    old = natOf ((List.range o.size).map (fun i => s.ms.byte (p.pa + i))) →
    ∃ t, exec (.dataReturn id) s = .next t ∧ Table.find? t.ops id = none
      ∧ Wrote f o.d ((la.lane, some ((List.range o.d.length).map (fun k => (⟨BitVec.ofNat 32 (old / 2 ^ (32 * k)), true⟩ : FirnWord))))
          :: o.nulls.map (fun l => (l, none))) s t
      ∧ (∀ a, ¬ (p.pa ≤ a ∧ a < p.pa + o.size) → t.ms.byte a = s.ms.byte a)
      ∧ (∀ i, i < o.size → t.ms.byte (p.pa + i)
          = if op = .cas ∧ old ≠ la.data then s.ms.byte (p.pa + i) else BitVec.ofNat 8 (atomNew op (8 * o.size) old la.data la.swap / 2 ^ (8 * i)))
      ∧ OpLeft o f s t ∧ OtherFloes o.floe s t

/-- A replayable fault of a load or store of a live floe: the operation stays FAULTED, the floe is SUSPENDED with %faultmask the lanes from the
faulting one on, a record with REPLAY = 1 is posted, and the incomplete and the nullified lanes of a load lose the V of D. REPLAY of the operation
puts it in flight again over %faultmask, its sources read as they stand (R166, R170, R177, R178). -/
def Obligations.FaultedTransferSuspends : Prop :=
  (
  ∀ (s : State) (id : Nat) (o : Op) (f : Floe) (x : Ctx) (la : LaneAcc) (post : List LaneAcc), Table.find? s.ops id = some o →
    (o.kind = .load ∨ o.kind = .store) → s.tagLive o = true → s.floe? o.floe = some f → s.ctx? o.ctx = some x → f.ctx = o.ctx → OpFits f o →
    o.ready s = true → s.takesFault o = true → o.todo.lanes = la :: post → laneView s o la = .error .pageNotPresent →
    ∃ t g, exec (.transferFault id) s = .next t ∧ t.floe? o.floe = some g ∧ g.state = .suspended
      ∧ g.faultmask = lanesMask ((maskLanes o.exec).filter (fun l => decide (la.lane ≤ l)))
      ∧ (∃ u, g.susp = some u ∧ u.op = some id ∧ u.slot1 = o.slot1 ∧ u.pc = o.pc ∧ u.info.cause = .pageNotPresent ∧ u.info.tinfo = la.va)
      ∧ Table.find? t.ops id = some { o with state := .faulted } ∧ SameMem s t ∧ OtherFloes o.floe s t
      ∧ (∃ r, t.ctx? o.ctx = some { x with faultRecs := x.faultRecs ++ [⟨r⟩] })
      ∧ Wrote f o.d ((if o.kind = .load then (maskLanes o.exec).filter (fun l => decide (la.lane ≤ l)) ++ o.nulls
          else o.nulls.filter (fun l => decide (l < la.lane))).map (fun l => (l, none))) s t)
  ∧ (
  ∀ (s : State) (id : Nat) (o : Op) (f : Floe), Table.find? s.ops id = some o → (o.kind = .load ∨ o.kind = .store) → s.floe? o.floe = some f →
    ∃ q, Table.find? (s.replayOp id).ops id = some q ∧ q.state = .inFlight ∧ q.exec = f.faultmask ∧ q.kind = o.kind ∧ q.word = o.word ∧ q.d = o.d
      ∧ q.lanes = (opLanes s f o f.faultmask).1 ∧ q.nulls = (opLanes s f o f.faultmask).2 ∧ q.granted = [] ∧ q.left = none
      ∧ (∀ k, k ≠ id → Table.find? (s.replayOp id).ops k = Table.find? s.ops k) ∧ { s.replayOp id with ops := s.ops, net := s.net, fresh := s.fresh } = s)

/-! ## Copies, waits and ordering -/

/-- CPY and CPYD put one copy in flight in their core's mover, counted in the open group and the arrival counter as the descriptor says, with a number
no copy of the mover holds, behind the acquires of its floe and the release stores that it must see; a descriptor that breaks R182 raises
DESCRIPTOR_INVALID, and words of it on another device are asked for and awaited; CPCOMMIT closes the open group into cp; a 129th copy leaves the
instruction not ready, and a group or counter that is full holds the floe (R174, R180, R181, R182, R184, R187, R193, R194). -/
def Obligations.CopiesIssue : Prop :=
  ∀ (w : FWord) (sh : Shape) (e : Env) (s : State), e.exec ≠ 0 →
    (∀ (i : Instr) (d : CopyDesc) (s1 : State), Issues i w sh e s →
      (i = .cpy w ∧ s1 = s ∧ (∃ src dst n, rdOp s e.f 0 w.a 2 = (src, true) ∧ rdOp s e.f 0 w.d 2 = (dst, true) ∧ 0 < n
          ∧ (match w.x with | some x => (x.imm.toNat, true) | none => rdOp s e.f 0 w.b 1) = (n, true) ∧ d = bytesCopy w src dst n)
        ∨ i = .cpyd w ∧ ∃ a bs va, rdOp s e.f 0 w.a 2 = (a, true) ∧ parseCopy (natOf (descRead s e va bs).1) = some d ∧ s1 = (descRead s e va bs).2
          ∧ va = BitVec.ofInt 64 ((a : Int) + (match w.x with | some x => x.imm.toInt | none => w.c.toInt * 64))
          ∧ blockFar s e va 64 = [] ∧ readBlock s e va 64 64 = .ok bs) →
      ((s.copiesOf e.f.core).length < 128 → (d.ctg = true → e.f.openCount < 256 ∨ e.f.cp < 15) → (d.cta = true → (e.f.ac d.ac).out < 255) →
      ∃ t q, exec i s = .next t
        ∧ FloeAnd e.h (e.after w sh s (copyPlaced d s.nextId e.f)) s
            { s1 with copies := Table.insert s.copies s.nextId q, nextId := s.nextId + 1 } t
        ∧ q.desc = d ∧ q.core = e.f.core ∧ q.floe = e.h ∧ q.ctx = e.f.ctx ∧ q.inst = e.f.inst ∧ q.next = 0 ∧ q.started = false ∧ q.waiting = false
        ∧ q.savedIn = false ∧ q.done = [] ∧ q.elems = [] ∧ q.after = s.copyAfter e.h (d.rel && decide (2 ≤ d.scope)) ∧ 1 ≤ q.num ∧ q.num ≤ 128
        ∧ (∀ c ∈ Table.vals (s.copiesOf e.f.core), c.num ≠ q.num) ∧ { s1 with cores := s.cores } = s)
      ∧ (128 ≤ (s.copiesOf e.f.core).length → ∃ t, exec i s = .next t ∧ FloeAnd e.h (e.unready e.f) s s1 t)
      ∧ ((s.copiesOf e.f.core).length < 128 → d.ctg = true → 256 ≤ e.f.openCount → 15 ≤ e.f.cp →
        ∃ t, exec i s = .next t ∧ FloeAnd e.h (e.stalled .cpFull s e.f) s s1 t)
      ∧ ((s.copiesOf e.f.core).length < 128 → (d.ctg = true → e.f.openCount < 256 ∨ e.f.cp < 15) → d.cta = true → 255 ≤ (e.f.ac d.ac).out →
        ∃ t, exec i s = .next t ∧ FloeAnd e.h (e.stalled (.acFull d.ac) s e.f) s s1 t))
    ∧ (∀ (a : Nat) (bs : List Byte) (va : Dword) (x : Ctx), Issues (.cpyd w) w sh e s → rdOp s e.f 0 w.a 2 = (a, true) →
      va = BitVec.ofInt 64 ((a : Int) + (match w.x with | some x => x.imm.toInt | none => w.c.toInt * 64)) →
      (blockFar s e va 64 = [] → readBlock s e va 64 64 = .ok bs → parseCopy (natOf (descRead s e va bs).1) = none →
        s.ctx? e.f.ctx = some x → e.f.levelHandler = false → x.trapBase ≠ 0 →
        ∃ t, exec (.cpyd w) s = .next t ∧ t.floe? e.h = some (handlerEntry (e.f.issued s.gt (s.mck e.f.core) e.b [] false) e.b x.trapBase e.sl.pc e.next
            { cause := .descriptorInvalid, lanes := e.exec })
          ∧ OtherFloes e.h s t ∧ { t with floes := s.floes, cores := s.cores } = s)
      ∧ (va.toNat % 64 = 0 → inFirn va = false → blockFar s e va 64 ≠ [] →
        ∃ t, exec (.cpyd w) s = .next t ∧ FloeAnd e.h (e.stalled .far s e.f) s (s.askFar e.h (blockFar s e va 64)) t))
    ∧ (Issues (.cpcommit w) w sh e s → e.f.cp < 15 →
      ∃ t, exec (.cpcommit w) s = .next t ∧ FloeEffect e.h (e.after w sh s e.f.commit) s t)
    ∧ (Issues (.cpcommit w) w sh e s → 15 ≤ e.f.cp → ∃ t, exec (.cpcommit w) s = .next t
        ∧ FloeEffect e.h (e.stalled .cpFull s e.f) s t)

/-- The instructions that end once a condition holds: they have their effect and retire at once where it does, and leave the floe WAITING at their
word where it does not (R175, R176, R195, R236, R265, R274, R378, log 19). LEASEDROP empties the core's L1 and exclusive spans; FLUSHTAG drops every
copy of one context tag from its core's caches and TLB, and waits for the stores under the tag; CORE and narrower FENCEs only advance (R219, R236,
R378). -/
def Obligations.ConditionsHoldOrWait : Prop :=
  (
  ∀ (i : Instr) (w : FWord) (sh : Shape) (e : Env) (s u0 u : State) (c : Wait) (g : Floe), Issues i w sh e s → e.exec ≠ 0 →
    (i = .wait w ∧ u0 = s ∧ u = s ∧ g = e.f ∧ c = (if w.m.getLsbD 0
          then .classes (w.b.toNat / 16) (w.b.toNat % 16) (w.c.toNat / 16) (w.c.toNat % 16) else .counter w.b.toNat w.c.toNat)
      ∨ i = .acreset w ∧ u0 = s ∧ u = s ∧ g = e.f.setAc w.c.toNat ⟨0, 0⟩ ∧ c = .acreset w.c.toNat
      ∨ i = .dfence w ∧ u0 = s ∧ u = s.modCore e.f.core (fun k => { k with descCache := [] }) ∧ g = e.f ∧ c = .ops (s.storesOf e.h) .desc
      ∨ i = .fence w ∧ 2 ≤ w.s.toNat ∧ u0 = s ∧ u = (if w.m.getLsbD 0 ∧ 3 ≤ w.s.toNat then s.acquire e.f.core 3 else s)
          ∧ g = (if w.m.getLsbD 0 ∧ w.m.getLsbD 1 then { e.f with ibufStale := true } else e.f)
          ∧ c = .fence (Table.keys (Table.keep s.ops (fun i o =>
              (o.floe == e.h && (o.isRead || (w.m.getLsbD 1 && o.isWrite))) || (w.m.getLsbD 1 && e.f.seen.contains i)))) w.s.toNat
              (w.m.getLsbD 0 && decide (3 ≤ w.s.toNat))
      ∨ i = .mrel w ∧ u0 = s.releaseMx e.h e.f.core false ∧ u = u0 ∧ g = e.f ∧ c = .stream 4 ∧ (s.heldMx e.h e.f.core).isSome = true
      ∨ i = .msync w ∧ u0 = s ∧ u = s ∧ g = e.f ∧ c = .stream (if w.m.getLsbD 0 then 4 else w.s.toNat) ∧ (s.heldMx e.h e.f.core).isSome = true) →
    (waitHolds u0 e.h e.f c = true → ∃ t, exec i s = .next t ∧ FloeAnd e.h (e.after w sh s g) s u t)
    ∧ (waitHolds u0 e.h e.f c = false →
      ∃ t, exec i s = .next t ∧ FloeAnd e.h (e.after w sh s ((if i = .fence w then g else e.f).held c s.gt)) s u0 t))
  ∧ (
  ∀ (w : FWord) (sh : Shape) (e : Env) (s : State), e.exec ≠ 0 →
    (Issues (.leasedrop w) w sh e s → ∃ t, exec (.leasedrop w) s = .next t
      ∧ FloeAnd e.h (e.after w sh s e.f) s (s.modCore e.f.core (fun c => { c with l1 := [], excl := [] })) t)
    ∧ (Issues (.fence w) w sh e s → w.s.toNat ≤ 1 → ∃ t, exec (.fence w) s = .next t ∧ FloeEffect e.h (e.after w sh s e.f) s t)
    ∧ (∀ (a : Nat) (tag : BitVec 8), Issues (.flushtag w) w sh e s → rdOp s e.f 0 w.a 1 = (a, true) → tag = BitVec.ofNat 8 a →
      ∃ t, exec (.flushtag w) s = .next t ∧ OtherFloes e.h s t ∧ { t with floes := s.floes, cores := s.cores } = s
        ∧ (∀ k, k ≠ e.f.core → t.core k = s.core k)
        ∧ t.core e.f.core = { s.core e.f.core with
            l1 := Table.keep (s.core e.f.core).l1 (fun _ l => l.tag != tag), excl := Table.keep (s.core e.f.core).excl (fun _ t => t != tag),
            tlb := (s.core e.f.core).tlb.filter (fun t => t.tag != tag), leafCache := (s.core e.f.core).leafCache.filter (fun t => t.tag != tag),
            descCache := Table.keep (s.core e.f.core).descCache (fun _ t => t.1 != tag) }
        ∧ ((∀ o ∈ Table.vals s.ops, ¬ (o.core = e.f.core ∧ o.writes = true ∧ s.ctxTag o.ctx = tag)) →
            t.floe? e.h = some (e.after w sh s e.f))
        ∧ ((∃ o ∈ Table.vals s.ops, o.core = e.f.core ∧ o.writes = true ∧ s.ctxTag o.ctx = tag) →
            ∃ ids, t.floe? e.h = some (e.after w sh s (e.f.held (.ops ids .none) s.gt)))))

/-- The mover: COPY_START of the first copy in the service order; COPY_COMPLETE moves the elements left and, once none is left, has the copy's
targets take effect; an element is moved with the bytes that readers of its core see; a fault, met as the elements' turns come, leaves the elements before it moved, and waits on its
record, or is recorded and delivered to the floe by MOVER_TRAP_DELIVERY, or is fatal where the floe has retired (R180, R182, R184, R185, R187,
R370). -/
def Obligations.MoverSteps : Prop :=
  (∀ (s : State) (core k : Nat) (c : Copy), Table.find? s.copies k = some c → c.core = core → c.started = false → c.savedIn = false →
    s.ended c.after = true →
    (∀ d ∈ Table.vals (s.copiesOf core), d.started = true ∨ s.ended d.after = false ∨ copyBefore (s.coreGt core) c d = true) →
    ∃ t, exec (.copyStart core k) s = .next t ∧ Table.find? t.copies k = some { c with started := true }
      ∧ (∀ j, j ≠ k → Table.find? t.copies j = Table.find? s.copies j) ∧ { t with copies := s.copies, cores := s.cores } = s
      ∧ (t.core core).misses = (if (match c.deadline with | some d => decide (d < s.coreGt core) | none => false)
          then satInc (s.core core).misses else (s.core core).misses)
      ∧ (t.core core).l1 = (if c.desc.acq = true ∧ 3 ≤ c.desc.scope then Table.keep (s.core core).l1 (fun _ l => !l.unord) else (s.core core).l1))
  ∧ (∀ (s u : State) (core k : Nat) (c d : Copy), Table.find? s.copies k = some c → c.core = core → c.runs s = true →
    firstFault s k c.rest = none → (∀ j ∈ c.rest, elemClear s c j = true) → u = moveElems s k c.rest → Table.find? u.copies k = some d →
    (d.rest ≠ [] → exec (.copyComplete core k) s = .next u)
    ∧ (d.rest = [] → ∃ t, exec (.copyComplete core k) s = .next t ∧ t.ms = u.ms ∧ t.firn = u.firn
      ∧ t.copies = Table.erase u.copies k ∧ OtherFloes c.floe u t
      ∧ (∀ f, u.floe? c.floe = some f → f.state ≠ .retired →
          t.floe? c.floe = some ((if c.desc.cta then f.acArrive c.desc.ac else f).copyDone k))
      ∧ (∀ x, u.ctx? c.ctx = some x → t.ctx? c.ctx = some (if c.desc.cte = true ∧ c.desc.event ≠ 0
          then { x with evOps := x.evOps ++ [⟨c.desc.event, 0, 1, none, none, []⟩] } else x))))
  ∧ (∀ (s u : State) (k j : Nat) (c : Copy) (p q : Phys), Table.find? s.copies k = some c → u = moveElems s k [j] →
    srcView s c j = .ok (.mem p) → dstView s c j = .ok (.mem q) → q.pte.sealed = false → (s.sealMeta (q.pa / 4096)).kid = 0 →
    q.pa / 4096 = (q.pa + c.desc.esize - 1) / 4096 →
    Table.find? u.copies k = some { c with done := c.done ++ [j] }
    ∧ (∀ i, i < c.desc.esize → u.ms.byte (q.pa + i) = (viewOf s c.core none).readByte c.core c.ctx p.pte (p.pa + i))
    ∧ (∀ a, ¬ (q.pa ≤ a ∧ a < q.pa + c.desc.esize) → u.ms.byte a = s.ms.byte a))
  ∧ (∀ (s u : State) (core k : Nat) (c d : Copy) (pre post : List Nat) (j : Nat) (x : Cause) (va : Dword), Table.find? s.copies k = some c →
    c.core = core → c.runs s = true → c.rest = pre ++ j :: post → (∀ i ∈ pre, elemClear s c i = true) →
    firstFault s k c.rest = some (j, x, va) → u = moveElems s k pre → Table.find? u.copies k = some d →
    (∀ i ∈ d.rest, i < j → exec (.copyFault core k) s = .next u)
    ∧ ((∀ i ∈ d.rest, j ≤ i) → ∃ t, exec (.copyFault core k) s = .next t ∧ t.ms = u.ms ∧ t.firn = u.firn
      ∧ (x = .pageNotPresent → Table.find? t.copies k = some { d with waiting := true, next := j, faultVa := va } ∧ t.floes = u.floes
          ∧ ∀ y, u.ctx? d.ctx = some y → ∃ r, t.ctx? d.ctx = some { y with faultRecs := y.faultRecs ++ [⟨r⟩] })
      ∧ (x ≠ .pageNotPresent → t.copies = Table.erase u.copies k
          ∧ (∀ f, u.floe? d.floe = some f → f.state ≠ .retired →
              t.floe? d.floe = some { (if d.desc.cta then f.acForget d.desc.ac else f).copyDone k with pendingTraps := f.pendingTraps ++
                [{ cause := x, source := 1, tinfo := va, vaddr := va, elem := j, aux := d.num }] }
              ∧ ∀ y, u.ctx? d.ctx = some y → ∃ r, t.ctx? d.ctx = some { y with faultRecs := y.faultRecs ++ [⟨r⟩] })
          ∧ (∀ f y, u.floe? d.floe = some f → f.state = .retired → u.ctx? d.ctx = some y → y.state ≠ .destroyed →
              ∃ r, t.ctx? d.ctx = some { y with state := .faulted, faultRecs := y.faultRecs ++ [⟨r⟩] }))))
  ∧ (∀ (s : State) (h : Nat) (f : Floe) (tr : TrapInfo) (rest : List TrapInfo) (sl : Slot) (x : Ctx), s.floe? h = some f → f.pendingTraps = tr :: rest →
    f.slot f.nextSlot = some sl → f.state = .ready → s.ctx? f.ctx = some x → x.state ≠ .faulted → f.levelHandler = false → x.trapBase ≠ 0 →
    tr.source = 1 →
    ∃ t, exec (.moverTrapDelivery h) s = .next t
      ∧ FloeEffect h (handlerEntry { f with pendingTraps := rest } f.nextSlot x.trapBase sl.pc sl.pc tr) s t)

/-! ## Coherence -/

/-- The messages of the directory and what dies do on them: a read that misses installs its span in the die's L2 as its entry says, and is refused
where it says NACK; an eviction removes a line that is not pinned; a sharer drops or updates its copy and acknowledges only once no lease of the die
holds the span; acknowledgements, recalls and returns are taken by the line's protocol table; no such message changes a byte of home memory or a
register (R203, R205, R207, R208, R213). WRITE_MSG and ATOMIC_MSG take an operation's request to its line's directory once: the entry answers it as its
protocol table says, and the operation is granted the line, waits for acknowledgements, or counts a refusal; an update is sent as the write is performed
at home (R205, R207, R208, R210). L1_TAG_SWEEP drops the copies more than 2^18 gt past their lease, PREDICTOR_DECAY takes 1 off every counter once in
16,384 gt, and neither changes a register or a byte of memory (R202, R210). -/
def Obligations.DirectoryAndSweeps : Prop :=
  (
  (∀ (s : State) (id die line slot : Nat) (o : Op) (la : LaneAcc) (p : Phys) (sp : Span) (r : DirReply), (id, o) ∈ s.ops → coreDie o.core = die →
    o.ready s = true → o.laneRead = true → la ∈ o.lanes → la.done = false → laneView s o la = .ok (.mem p) → p.pte.inL2 = true → p.pa / 256 = line →
    p.pte.prot = slot → sp.first ≤ p.pa % 256 / 4 → p.pa % 256 / 4 + accWords o.size ≤ sp.first + sp.count →
    s.readReady o.core o.ctx p.pte p.pa o.size = false → die < 4 → sp.first + sp.count ≤ 64 → sp.count ≠ 0 → die ≠ line / 2 ^ 31 →
    s.spanBusy line sp = false → r = dirHandle s line slot 0 die sp [] 0 →
    (r.nack = true → ∃ t k q y, exec (.readMsg die line sp slot) s = .next t ∧ { t with ops := s.ops } = s ∧ Table.find? s.ops k = some q
      ∧ Table.find? t.ops k = some y ∧ (∀ j, j ≠ k → Table.find? t.ops j = Table.find? s.ops j)
      ∧ (y = { q with retries := q.retries + 1 } ∨ y = { q with refused := q.refused ++ [line] }))
    ∧ (r.nack = false → ∃ t, exec (.readMsg die line sp slot) s = .next t ∧ t.dirAt line = r.entry ∧ SameMem s t ∧ { t with ms := s.ms } = s
      ∧ (((Table.keys s.ms.l2).filter (fun k => k / 2 ^ 44 == die)).length < l2Lines → ∀ l, l ≠ line → t.dirAt l = s.dirAt l)
      ∧ (r.callBack = false → entAct r.word 0 = true → ∀ i, 4 * sp.first ≤ i → i < 4 * (sp.first + sp.count) →
          t.l2Byte die (256 * line + i) = some (s.ms.byte (256 * line + i)))))
  ∧ (∀ (s : State) (die line : Nat), (Table.find? s.ms.l2 (l2Key die line)).isSome = true →
    (s.ms.pins.any (fun p => p.2.1 == die && p.2.2 == line) = true → exec (.evictMsg die line) s = .next s)
    ∧ (s.ms.pins.any (fun p => p.2.1 == die && p.2.2 == line) = false →
      ∃ t, exec (.evictMsg die line) s = .next t ∧ (∀ i, i < 256 → t.l2Byte die (256 * line + i) = none) ∧ SameMem s t ∧ { t with ms := s.ms } = s))
  ∧ (∀ (s : State) (die line : Nat),
    ((∀ sp op, .inval die sp op ∈ (s.dirAt line).out → s.leased die line sp = true) → exec (.sharerInvalidate die line) s = .next s)
    ∧ (∀ sp op, (s.dirAt line).out.find? (fun x => match x with | .inval t q _ => t == die && !s.leased die line q | _ => false) = some (.inval die sp op) →
      s.leased die line sp = false ∧ ∃ t, exec (.sharerInvalidate die line) s = .next t ∧ SameMem s t ∧ { t with ms := s.ms } = s
      ∧ t.dirAt line = { s.dirAt line with out := (s.dirAt line).out.erase (.inval die sp op), acks := (s.dirAt line).acks ++ [(die, op)] }
      ∧ (∀ i, 4 * sp.first ≤ i → i < 4 * (sp.first + sp.count) → i < 256 → t.l2Byte die (256 * line + i) = none)))
  ∧ (∀ (s : State) (die line op : Nat) (sp : Span) (bytes : List (Nat × Byte)),
      (s.dirAt line).out.find? (fun x => match x with | .update t _ _ _ => t == die | _ => false) = some (.update die sp bytes op) →
    (s.leased die line sp = true → exec (.sharerUpdate die line) s = .next s)
    ∧ (s.leased die line sp = false → ∃ t, exec (.sharerUpdate die line) s = .next t ∧ SameMem s t ∧ { t with ms := s.ms } = s
      ∧ t.dirAt line = { s.dirAt line with out := (s.dirAt line).out.erase (.update die sp bytes op), acks := (s.dirAt line).acks ++ [(die, op)] }
      ∧ (∀ i v pre post, bytes = pre ++ (i, v) :: post → (∀ p ∈ post, p.1 ≠ i) → i < 256 → (s.l2Byte die (256 * line + i)).isSome = true →
          t.l2Byte die (256 * line + i) = some v)))
  ∧ (∀ (s : State) (die line op : Nat), (s.dirAt line).acks.find? (fun a => a.1 == die) = some (die, op) →
    ∃ t, exec (.ackMsg die line) s = .next t ∧ t.dirAt line = (let r := dirHandle s line (s.dirAt line).slot 4 die ⟨0, 64⟩ [] 0
        let d := if r.nack || r.callBack then s.dirAt line else r.entry
        { d with acks := d.acks.erase (die, op) }) ∧ SameMem s t ∧ { t with ms := s.ms, ops := s.ops } = s
      ∧ (∀ k, k ≠ op → Table.find? t.ops k = Table.find? s.ops k))
  ∧ (∀ (s : State) (die line : Nat) (sp : Span), (s.dirAt line).out.find? (fun x => match x with | .recall t _ => t == die | _ => false)
      = some (.recall die sp) →
    ∃ t, exec (.recall die line) s = .next t ∧ SameMem s t ∧ { t with ms := s.ms } = s
      ∧ t.dirAt line = { s.dirAt line with out := (s.dirAt line).out.erase (.recall die sp), returns := (s.dirAt line).returns ++ [die] })
  ∧ (∀ (s : State) (die line : Nat), (s.dirAt line).returns.contains die = true →
    ∃ t, exec (.returnMsg die line) s = .next t ∧ SameMem s t ∧ { t with ms := s.ms } = s
      ∧ (∀ i, i < 256 → t.l2Byte die (256 * line + i) = none)))
  ∧ (
  (∀ (s s1 : State) (id : Nat) (o o1 : Op) (la : LaneAcc) (p : Phys) (r : DirReply) (i : Instr), Table.find? s.ops id = some o → o.writes = true →
    (i = .writeMsg id (p.pa / 256) ∧ o.msg = 1 ∨ i = .atomicMsg id (p.pa / 256) ∧ o.msg = 2) →
    o.ready s = true → ownFirst s id o.todo = true → arrivalFirst s id o.todo = true → o.granted.contains (p.pa / 256) = false →
    o.todo.fault? s = none → o.todo.asking s (p.pa / 256) ≠ [] → (∀ x ∈ o.todo.asking s (p.pa / 256), s.locked x.2.pa = false) →
    s1 = (if o.left.isSome then s else s.leave id o false) → Table.find? s1.ops id = some o1 → o1.todo.asking s1 (p.pa / 256) = [(la, p)] →
    (∀ q ∈ s1.ops, q.1 ≠ id → q.2.waitAcks.contains (p.pa / 256) = true →
      ∀ x ∈ q.2.spansOn (p.pa / 256), spansMeet x (⟨p.pa % 256 / 4, accWords o1.size⟩ : Span) = false) →
    r = dirHandle s1 (p.pa / 256) p.pte.prot o.msg (coreDie o1.core) (spanJoin ⟨p.pa % 256 / 4, accWords o1.size⟩ ⟨p.pa % 256 / 4, accWords o1.size⟩)
      ((List.range o1.size).map (fun k => (p.pa % 256 + k, BitVec.ofNat 8 (la.data / 2 ^ (8 * k))))) id →
    (entAct r.word 5 = true → heldByLease s1 o1 p = true → exec i s = .next s1)
    ∧ (¬ (entAct r.word 5 = true ∧ heldByLease s1 o1 p = true) →
      (r.nack = true → ∃ t, exec i s = .next t ∧ { t with ops := s1.ops } = s1 ∧ (∀ k, k ≠ id → Table.find? t.ops k = Table.find? s1.ops k)
        ∧ Table.find? t.ops id = some (if entRetry r.word ≤ o1.retries then { o1 with refused := o1.refused ++ [p.pa / 256] }
          else { o1 with retries := o1.retries + 1 }))
      ∧ (r.nack = false → r.callBack = true → exec i s = .next (s1.setDir (p.pa / 256) r.entry))
      ∧ (r.nack = false → r.callBack = false → ∃ t q, exec i s = .next t ∧ t.dirAt (p.pa / 256) = r.entry ∧ Table.find? t.ops id = some q
        ∧ (∀ k, k ≠ id → Table.find? t.ops k = Table.find? s1.ops k) ∧ q.granted = o1.granted ++ [p.pa / 256]
        ∧ q.waitAcks = (if r.wait then o1.waitAcks ++ [p.pa / 256] else o1.waitAcks)
        ∧ q.skip = (if entAct r.word (if o.msg = 2 then 12 else 1) then o1.skip else o1.skip ++ [p.pa / 256])
        ∧ q.marks = (if entAct r.word 11 then o1.marks ++ [p.pa / 256] else o1.marks)
        ∧ (¬ (entAct r.word 5 = true ∧ entAct r.word 1 = true ∧ o.msg = 1) → q.lanes = o1.lanes ∧ SameMem s1 t)
        ∧ (entAct r.word 5 = true → entAct r.word 1 = true → o.msg = 1 → la.valid = true → o1.skip.contains (p.pa / 256) = false →
            p.pte.sealed = false → (s.sealMeta (p.pa / 4096)).kid = 0 → p.pa / 4096 = (p.pa + o1.size - 1) / 4096 →
            (∀ x ∈ q.lanes, x.lane = la.lane → x.done = true) ∧ (∀ k, k < o1.size → t.ms.byte (p.pa + k) = BitVec.ofNat 8 (la.data / 2 ^ (8 * k)))
            ∧ ∀ a, ¬ (p.pa ≤ a ∧ a < p.pa + o1.size) → t.ms.byte a = s.ms.byte a))))
  ∧ (∀ (s : State) (c : Nat), ∃ t, exec (.l1TagSweep c) s = .next t ∧ { t with cores := s.cores } = s ∧ (∀ k, k ≠ c → t.core k = s.core k)
      ∧ t.core c = { s.core c with l1 := Table.keep (s.core c).l1 (fun _ l => !decide (l.endGt + 2 ^ 18 < s.coreGt c)) })
  ∧ (∀ s : State, s.gt < s.ms.decayed + 16384 → exec .predictorDecay s = .next s)
  ∧ (∀ s : State, s.ms.decayed + 16384 ≤ s.gt → ∃ t, exec .predictorDecay s = .next t ∧ SameMem s t ∧ t.ms.decayed = s.ms.decayed + 16384
      ∧ { t with ms := { t.ms with predictor := s.ms.predictor, homePredictor := s.ms.homePredictor, decayed := s.ms.decayed } } = s
      ∧ (∀ k n, Table.find? s.ms.predictor k = some n → 2 ≤ n → Table.find? t.ms.predictor k = some (n - 1))
      ∧ (∀ k n, Table.find? s.ms.homePredictor k = some n → 2 ≤ n → Table.find? t.ms.homePredictor k = some (n - 1))
      ∧ (∀ k, Table.find? t.ms.predictor k ≠ some 0) ∧ (∀ k, Table.find? t.ms.homePredictor k ≠ some 0)))

/-! ## Class 10: the matrix engine -/

/-- A tile operation of a floe that holds a context joins its stream with what it read at issue, behind its floe's acquires and the release stores it
must see, and counts in tl; nothing is computed yet. With tl at 1,023 it is not ready (R174, R184). A floe without a context, and MMAP without a pair, raises NO_MATRIX_CONTEXT; an image that the scratch does not hold, or that is not aligned, raises
PAGE_PERMISSION or MISALIGNED_ACCESS (R243, R247, R249, R250, R263, R266-R273). -/
def Obligations.TileOperationsIssue : Prop :=
  ∀ (i : Instr) (w : FWord) (sh : Shape) (e : Env) (s : State) (o : TileOp) (imgs : List ImageRef), Issues i w sh e s → e.exec ≠ 0 →
    (i = .mzero w ∧ o = newTile e w .mzero ∧ imgs = []
      ∨ i = .tpset w ∧ imgs = [] ∧ o = { newTile e w (.tpset (w.m.getLsbD 0)) with
          pred := none, b := w.c.toNat % 16, val := BitVec.ofNat 32 (rdOp s e.f 0 w.a 1).1, dead := !(rdOp s e.f 0 w.a 1).2 }
      ∨ i = .tpscan w ∧ imgs = [⟨e.f.core, (rdOp s e.f 0 w.a 1).1, (match w.m.toNat % 4 with | 0 => 8192 | 1 => 12288 | _ => 16384), 1024⟩]
          ∧ o = { newTile e w .tpscan with pred := none, a := (rdOp s e.f 0 w.a 1).1, b := w.c.toNat % 16, dead := !(rdOp s e.f 0 w.a 1).2 }
      ∨ ((i = .mld w ∧ o = { newTile e w .mld with a := (rdOp s e.f 0 w.a 1).1, dead := !(rdOp s e.f 0 w.a 1).2 }
          ∨ i = .mst w ∧ o = { newTile e w .mst with a := (rdOp s e.f 0 w.a 1).1, dead := !(rdOp s e.f 0 w.a 1).2 })
          ∧ imgs = ⟨e.f.core, (rdOp s e.f 0 w.a 1).1, 4096 * accBytes w.m.toNat, 1024⟩
              :: (if inPair s e then [⟨corePartner e.f.core, (rdOp s e.f 0 w.a 1).1, 4096 * accBytes w.m.toNat, 1024⟩] else []))
      ∨ ((i = .mma w ∧ o.kind = .mma ∨ i = .mmap w ∧ o.kind = .mmap) ∧ o = { newTile e w o.kind with
            a := (rdOp s e.f 0 w.a 1).1 % 2 ^ 32, b := (rdOp s e.f 0 w.b 1).1 % 2 ^ 32, sa := (rdOp s e.f 0 w.a 1).1 / 2 ^ 32,
            sb := (rdOp s e.f 0 w.b 1).1 / 2 ^ 32, dead := !((rdOp s e.f 0 w.a 1).2 && (rdOp s e.f 0 w.b 1).2) }
          ∧ imgs = [⟨e.f.core, o.a, 64 * ((mulFmt o.kind w.m.toNat).k * (mulFmt o.kind w.m.toNat).bits / 8), 1024⟩,
              ⟨e.f.core, o.b, 64 * ((mulFmt o.kind w.m.toNat).k * (mulFmt o.kind w.m.toNat).bits / 8), 1024⟩]
            ++ (if o.kind = .mmap then [⟨corePartner e.f.core, o.b, 64 * ((mulFmt o.kind w.m.toNat).k * (mulFmt o.kind w.m.toNat).bits / 8), 1024⟩] else []))
      ∨ i = .mmax w ∧ o = { newTile e w .mmax with
            a := (rdOp s e.f 0 w.a 2).1 % 2 ^ 32, b := (rdOp s e.f 0 w.b 2).1 % 2 ^ 32, sa := (rdOp s e.f 0 w.a 2).1 / 2 ^ 32,
            sb := (rdOp s e.f 0 w.b 2).1 / 2 ^ 32, dead := !((rdOp s e.f 0 w.a 2).2 && (rdOp s e.f 0 w.b 2).2) }
          ∧ imgs = [⟨e.f.core, o.a, 64 * ((mulFmt .mmax w.m.toNat).k * (mulFmt .mmax w.m.toNat).bits / 8), 1024⟩,
              ⟨e.f.core, o.b, 64 * ((mulFmt .mmax w.m.toNat).k * (mulFmt .mmax w.m.toNat).bits / 8), 1024⟩,
              ⟨e.f.core, o.sa, 512, 64⟩, ⟨e.f.core, o.sb, 512, 64⟩]
      ∨ i = .mmag w ∧ ∃ rows : List (Option Nat), rows = (List.range 64).map (fun k =>
            let r := s.rdReg e.f ⟨false, w.a.toNat + k % 2⟩ (k / 2)
            if r.v then some (r.data.toNat % 2 ^ 16) else none)
          ∧ o = { newTile e w .mmag with b := (rdOp s e.f 0 w.b 1).1, rows := rows, dead := !(rdOp s e.f 0 w.b 1).2 }
          ∧ imgs = rows.filterMap (fun r => r.map (fun k => (⟨e.f.core, 128 * k, 128, 1⟩ : ImageRef)))
            ++ [⟨e.f.core, (rdOp s e.f 0 w.b 1).1, 8192, 1024⟩]) →
    (∀ m, s.heldMx e.h e.f.core = some m → (o.kind = .mmap → (s.matrix e.f.core m).pair = true) →
      (o.dead = true ∨ ∀ r ∈ imgs, r.off % r.align = 0 ∧ ∃ g, s.scratchOf r.core e.f.ctx e.f.inst = some g ∧ r.off + r.size ≤ g.bytes) →
      (e.f.tl < 1023 → ∃ t, exec i s = .next t ∧ FloeAnd e.h (e.after w sh s { e.f with tl := e.f.tl + 1 }) s
        (s.setMatrix e.f.core m
          { s.matrix e.f.core m with ops := (s.matrix e.f.core m).ops ++ [{ o with after := s.copyAfter e.h false }] }) t)
      ∧ (1023 ≤ e.f.tl → ∃ t, exec i s = .next t ∧ FloeEffect e.h (e.unready e.f) s t))
    ∧ (∀ x : Ctx, s.ctx? e.f.ctx = some x → e.f.levelHandler = false → x.trapBase ≠ 0 →
        (s.heldMx e.h e.f.core = none ∨ ∃ m, s.heldMx e.h e.f.core = some m ∧ o.kind = .mmap ∧ (s.matrix e.f.core m).pair = false) →
        ∃ t, exec i s = .next t ∧ TrapEffect e x.trapBase .noMatrixContext false e.exec 0 e.sl.pc Fx.none s t)
    ∧ (∀ (x : Ctx) (m : Nat) (r : ImageRef) (pre post : List ImageRef), s.ctx? e.f.ctx = some x → e.f.levelHandler = false → x.trapBase ≠ 0 →
        s.heldMx e.h e.f.core = some m → (o.kind = .mmap → (s.matrix e.f.core m).pair = true) → o.dead = false → imgs = pre ++ r :: post →
        (∀ q ∈ pre, q.off % q.align = 0 ∧ ∃ g, s.scratchOf q.core e.f.ctx e.f.inst = some g ∧ q.off + q.size ≤ g.bytes) →
        (r.off % r.align ≠ 0 ∨ ∀ g, s.scratchOf r.core e.f.ctx e.f.inst = some g → g.bytes < r.off + r.size) →
        ∃ t, exec i s = .next t ∧ TrapEffect e x.trapBase (if r.off % r.align ≠ 0 then .misalignedAccess else .pagePermission) false e.exec
          (BitVec.ofNat 64 r.off) e.sl.pc Fx.none s t)

/-- MCTX takes the lowest context free on its core, and on the partner for a pair, with every accumulator, predicate and flag as a fresh context has
them; with none free the floe waits in order; a second MCTX, or a pair from an odd core, raises ILLEGAL_OPERANDS. MATRIX_CONTEXT_GRANT serves the MCTX
that has waited longest, and a DRAINING context with no operation left becomes FREE (R242, R243, R264). TILE_OPERATION_PERFORM performs the oldest
operation of a stream, at its context's turn, and takes it off: under a false predicate or an invalid operand it changes nothing; MZERO makes a tile's
words zero, TPSET writes predicates, MLD takes the image's elements, and a classical multiply adds the group-rounded sums of exact products to every
word of D, elements of A by row and of B by column; flags and the unit of tl go to the floe that issued it (R247, R250, R252-R255, R266, R270-R272). -/
def Obligations.MatrixContextsAndTiles : Prop :=
  (
  (∀ (w : FWord) (sh : Shape) (e : Env) (s : State) (pair : Bool), Issues (.mctx w) w sh e s → e.exec ≠ 0 → pair = w.m.getLsbD 0 →
    (s.heldMx e.h e.f.core = none → ¬ (pair = true ∧ e.f.core % 2 = 1) →
      (pair = true → (s.scratchOf (corePartner e.f.core) e.f.ctx e.f.inst).isSome = true) →
      (∀ m, freeMx s e.f.core pair = some m → ∃ t, exec (.mctx w) s = .next t ∧ FloeAnd e.h (e.after w sh s e.f) s
        (let s1 := s.setMatrix e.f.core m { Matrix.fresh with st := .held, holder := some e.h, pair := pair }
         if pair then s1.setMatrix (corePartner e.f.core) m { Matrix.fresh with st := .slaved } else s1) t)
      ∧ (freeMx s e.f.core pair = none → ∃ t, exec (.mctx w) s = .next t ∧ FloeAnd e.h (e.after w sh s (e.f.held (.matrix pair) s.gt)) s
        (s.modCore e.f.core (fun c => { c with mxWait := c.mxWait ++ [e.h] })) t))
    ∧ (∀ x : Ctx, s.ctx? e.f.ctx = some x → e.f.levelHandler = false → x.trapBase ≠ 0 →
        (s.heldMx e.h e.f.core).isSome = true ∨ pair = true ∧ e.f.core % 2 = 1 →
        ∃ t, exec (.mctx w) s = .next t ∧ TrapEffect e x.trapBase .illegalOperands false e.exec 0 e.sl.pc Fx.none s t))
  ∧ (∀ (s : State) (core h m : Nat) (rest : List Nat) (f : Floe) (pair : Bool), (s.core core).mxWait = h :: rest → s.floe? h = some f →
    f.state = .waiting → f.wait = some (.matrix pair) → freeMx s core pair = some m →
    ∃ t, exec (.matrixContextGrant core) s = .next t ∧ FloeAnd h (f.resume (s.mck core)) s
      ((let s1 := s.setMatrix core m { Matrix.fresh with st := .held, holder := some h, pair := pair }
        if pair then s1.setMatrix (corePartner core) m { Matrix.fresh with st := .slaved } else s1).modCore core (fun c => { c with mxWait := rest })) t)
  ∧ (∀ (s : State) (core m : Nat), (s.matrix core m).st = .draining → (s.matrix core m).ops = [] → (s.matrix core m).holder.isSome = true →
    ∃ t, exec (.matrixContextDrained core m) s = .next t ∧ t.matrix core m = Matrix.fresh
      ∧ ((s.matrix core m).pair = true → t.matrix (corePartner core) m = Matrix.fresh) ∧ { t with mx := s.mx } = s))
  ∧ (
  (∀ (s : State) (core m st : Nat), (mxTurn s core m = false ∨ ∀ o ∈ mxReady s core m, o.stream ≠ st) →
    exec (.tileOperationPerform core m st) s = .next s)
  ∧ ∀ (s s0 : State) (core m st : Nat) (x : Matrix) (o : TileOp), x = s.matrix core m → mxTurn s core m = true →
    (mxReady s core m).find? (fun q => q.stream == st) = some o → s0 = (if o.kind = .mst then s.mxForget core m else s) →
    ∃ t, exec (.tileOperationPerform core m st) s = .next t ∧ (t.matrix core m).ops = (s0.matrix core m).ops.erase o
      ∧ (∀ f, s.floe? o.floe = some f → f.tag = o.tag → ∃ l, (o.kind ≠ .mst → l = f.latches) ∧
          t.floe? o.floe = some { f with tl := f.tl - 1, fpflags := f.fpflags ||| (performTile s0 core m o).2.bits, latches := l })
      ∧ (∀ k g, k ≠ o.floe → s.floe? k = some g → ∃ l, (o.kind ≠ .mst → l = g.latches) ∧ t.floe? k = some { g with latches := l })
      ∧ SameMem s t ∧ { t with floes := s.floes, mx := s.mx, firn := s.firn, cores := s.cores } = s
      ∧ t.core core = { s.core core with mxLast := m == 1 } ∧ (∀ k, k ≠ core → t.core k = s.core k)
      ∧ (o.dead = true ∨ (∃ p, o.pred = some p ∧ x.preds.getLsbD p = false) →
          t.firn = s.firn ∧ (t.matrix core m).tiles = x.tiles ∧ (t.matrix core m).preds = x.preds)
      ∧ (o.dead = false → (∀ p, o.pred = some p → x.preds.getLsbD p = true) → x.pair = false →
          (o.kind = .mzero → t.firn = s.firn ∧ ∀ i, i < 4096 → (t.matrix core m).word o.d i = 0)
          ∧ (o.kind = .tpset true → (t.matrix core m).preds = BitVec.ofNat 16 o.val.toNat)
          ∧ (o.kind = .tpset false → ∀ b, b < 16 → o.b < 16 →
              (t.matrix core m).preds.getLsbD b = if b = o.b then decide (o.val ≠ 0) else x.preds.getLsbD b)
          ∧ (∀ r i, s.scratchOf core o.ctx o.inst = some r → o.kind = .mld → accBytes o.m ≠ 8 → o.early = [] → i < 4096 →
              t.firn = s.firn ∧ (t.matrix core m).word o.d i = BitVec.ofNat 32 (mldVal o.m (accElem s core r o i)))
          ∧ (∀ r, s.scratchOf core o.ctx o.inst = some r → (o.kind = .mma ∨ o.kind = .mmax ∨ o.kind = .mmag) → o.y = 0 →
              (mulFmt o.kind o.m).acc = .fp32 → t.firn = s.firn ∧ ∀ i, i < 4096 →
              (t.matrix core m).word o.d i = BitVec.ofNat 32 (classical (mulFmt o.kind o.m) (operandsOf s (mulFmt o.kind o.m) o core r core r)
                (if 8 ≤ o.m then .sat else .rn) (x.word o.d i).toNat (i / 64) (i % 64)).1)))

/-! ## Class 11: sparse trees -/

/-- A walker or allocator instruction whose slot is bound, with its channel present, puts one operation in flight over the lanes whose sources are
valid; a full class counter leaves it not ready; an unbound slot or an absent channel raises TREE_DESCRIPTOR. TWBIND binds a slot to a
valid descriptor and TWINV drops leaf cache entries (R174, R282, R284, R301-R310). The ends of tree operations: a reader's lane takes its words with V = 1,
or loses the V of D, as a lane with an invalid source does; the allocator performs the lanes of an instruction one by one, each answer kept with its
lane, and writes nothing where a read or a write would fault (R296). LEAF_ENUMERATION gives a LEAF
launch the selected leaves and as many floes for each as its kernel has (R291, R297, R308). -/
def Obligations.TreeInstructions : Prop :=
  (
  (∀ p ∈ treeInstrs, ∀ (w : FWord) (sh : Shape) (e : Env) (s : State), Issues (p.1 w) w sh e s → e.exec ≠ 0 →
    (∀ k d, boundTree s e.f.core e.f.ctx w.s.toNat = some (k, d) → (p.2.hasCh = true → d.ch.getD (w.m.toNat % 8) 0 ≠ 0) →
      (1023 ≤ (if p.2 = .twst then e.f.st else e.f.ld) → ∃ t, exec (p.1 w) s = .next t ∧ FloeEffect e.h (e.unready e.f) s t)
      ∧ ((if p.2 = .twst then e.f.st else e.f.ld) < 1023 → ∃ t q, exec (p.1 w) s = .next t ∧ Table.find? t.ops s.nextId = some q ∧ t.nextId = s.nextId + 1
        ∧ (∀ k, k ≠ s.nextId → Table.find? t.ops k = Table.find? s.ops k)
        ∧ q.kind = (if 6 ≤ p.2.code then .alloc else .walker) ∧ q.info = [p.2.code, w.s.toNat] ∧ q.word = w ∧ q.exec = e.exec ∧ q.floe = e.h
        ∧ q.isSt = (p.2 == .twst) ∧ q.state = .inFlight ∧ q.d = sh.d.writes ∧ q.after = s.afterOf e.h (p.2 == .tacommit)
        ∧ q.lanes = (treeLanes p.2 w e).filterMap (fun l => treeLane s e.f w p.2 l)
        ∧ q.nulls = (if p.2 = .twst then [] else (treeLanes p.2 w e).filter (fun l => (treeLane s e.f w p.2 l).isNone))
        ∧ t.floe? e.h = some (e.after w sh s (if p.2 = .twst then { e.f with st := e.f.st + 1 } else { e.f with ld := e.f.ld + 1 }))
        ∧ OtherFloes e.h s t ∧ SameMem s t
        ∧ { t with ops := s.ops, floes := s.floes, nextId := s.nextId } = s))
    ∧ (∀ x : Ctx, s.ctx? e.f.ctx = some x → e.f.levelHandler = false → x.trapBase ≠ 0 →
        (boundTree s e.f.core e.f.ctx w.s.toNat = none
          ∨ ∃ k d, boundTree s e.f.core e.f.ctx w.s.toNat = some (k, d) ∧ p.2.hasCh = true ∧ d.ch.getD (w.m.toNat % 8) 0 = 0) →
        ∃ t, exec (p.1 w) s = .next t ∧ TrapEffect e x.trapBase .treeDescriptor false e.exec 0 e.sl.pc Fx.none s t))
  ∧ (∀ (w : FWord) (sh : Shape) (e : Env) (s : State), e.exec ≠ 0 →
    (∀ a bs d, Issues (.twbind w) w sh e s → rdOp s e.f 0 w.a 2 = (a, true) → blockFar s e (BitVec.ofNat 64 a) 64 = [] →
      readBlock s e (BitVec.ofNat 64 a) 64 64 = .ok bs → parseTree bs = some d →
      ∃ t, exec (.twbind w) s = .next t ∧ FloeAnd e.h (e.after w sh s e.f) s (s.modCore e.f.core (fun c => { c with
        slots := Table.insert c.slots w.s.toNat ⟨bs, BitVec.ofNat 64 a, d.gen, false, e.f.ctx⟩
        leafCache := c.leafCache.filter (fun x => x.slot != w.s.toNat) })) t)
    ∧ (∀ a bs x, Issues (.twbind w) w sh e s → rdOp s e.f 0 w.a 2 = (a, true) → blockFar s e (BitVec.ofNat 64 a) 64 = [] →
      readBlock s e (BitVec.ofNat 64 a) 64 64 = .ok bs → parseTree bs = none → s.ctx? e.f.ctx = some x → e.f.levelHandler = false → x.trapBase ≠ 0 →
      ∃ t, exec (.twbind w) s = .next t ∧ TrapEffect e x.trapBase .treeDescriptor false e.exec 0 e.sl.pc Fx.none s t)
    ∧ (Issues (.twinv w) w sh e s → ∃ t, exec (.twinv w) s = .next t ∧ FloeAnd e.h (e.after w sh s e.f) s (s.modCore e.f.core (fun c => { c with
        leafCache := if w.m.getLsbD 0 then [] else c.leafCache.filter (fun x => x.slot != w.s.toNat) })) t)))
  ∧ (
  (∀ (s s1 : State) (id : Nat) (o : Op) (f : Floe) (la : LaneAcc) (ws : Option (List Nat)), Table.find? s.ops id = some o → o.kind = .walker →
    o.isSt = false → o.ready s = true → ownFirst s id o = true → s.tagLive o = true → s.floe? o.floe = some f → OpFits f o → o.lanes = [la] →
    readerLane s id o la = .ok (ws, s1) → (∀ l, ws = some l → l.length = o.d.length) →
    ∃ t, exec (.dataReturn id) s = .next t ∧ Table.find? t.ops id = none ∧ OpLeft o f s t ∧ OtherFloes o.floe s t
      ∧ SameMem s t ∧ Wrote f o.d ((la.lane, ws.map (fun l => l.map (fun v => (⟨BitVec.ofNat 32 v, true⟩ : FirnWord)))) :: o.nulls.map (fun l => (l, none))) s t)
  ∧ (∀ (s : State) (id : Nat) (o : Op) (la : LaneAcc) (rest : List LaneAcc), Table.find? s.ops id = some o → o.kind = .alloc → o.lanes = la :: rest →
    (∀ r, o.ready s = true → allocFree s o la = true → allocDone s o la = .ok r →
      ∃ t, exec (.allocatorOperation id) s = .next t ∧ t.ms = r.1.ms ∧ t.floes = r.1.floes
        ∧ (Table.find? r.1.ops id = some o → Table.find? t.ops id = some { o with lanes := rest, vals := o.vals ++ (la.lane :: allocWords o r.2) }))
    ∧ ((o.ready s = false ∨ allocFree s o la = false ∨ ∃ x, allocDone s o la = .error x) → exec (.allocatorOperation id) s = .next s))
  ∧ (∀ (s : State) (ctx inst core : Nat) (i : Inst) (bs : List Byte) (d : TreeDesc) (ls : List (Nat × Int × Int × Int)), s.inst? ctx inst = some i →
    i.enumerated = false → i.wait = none → i.killed = false → s.ctxPlaces ctx = true → core = engineCore s ctx i.die →
    readVirt s core ctx (coreSecure s core) i.tree 64 = .ok bs → parseTree bs = some d → enumTree ⟨s, core, ctx, coreSecure s core, []⟩ d = .ok ls →
    ∃ t, exec (.leafEnumeration ctx inst) s = .next t ∧ { t with insts := s.insts } = s
      ∧ t.inst? ctx inst = some { i with enumerated := true, treeDesc := bs, leaves := ls, floes := ls.length * i.perLeaf }))

/-! ## Class 12: events -/

/-- EVSIG, EVWAIT and EVCLR send their operation to the context's event table, behind what it must follow, and count in st, or in ld with a D; a full
class counter leaves them not ready; EVWAIT leaves the floe WAITING; with the name 0 nothing is sent and D is 0 (R174, R322, R324, R325). The event table: a signal adds to the count, never
past 2^32 − 1, and satisfies every waiter whose threshold the count has reached, which leaves the list; a wait whose threshold is met is satisfied at
once, else it is listed where a record is free, or kept until one is; a clear makes the count 0 and leaves the waiters. A satisfied EVWAIT gets the
count in D and its floe is READY (R321, R322). -/
def Obligations.Events : Prop :=
  (
  ∀ (w : FWord) (sh : Shape) (e : Env) (s : State) (n a : Nat) (x : Ctx), e.exec ≠ 0 → s.ctx? e.f.ctx = some x → eventName s e w = (n, true) →
    (∀ i, (i = .evsig w ∧ eventAmount s e w = (a, true) ∧ 1023 ≤ e.f.st ∨ i = .evwait w ∧ eventAmount s e w = (a, true)
          ∧ 1023 ≤ (if w.d = 0xFF then e.f.st else e.f.ld) ∨ i = .evclr w ∧ 1023 ≤ (if sh.d.writes = [] then e.f.st else e.f.ld)) →
      Issues i w sh e s → n ≠ 0 → ∃ t, exec i s = .next t ∧ FloeEffect e.h (e.unready e.f) s t)
    ∧ (Issues (.evsig w) w sh e s → eventAmount s e w = (a, true) → n ≠ 0 → e.f.st < 1023 →
      ∃ t q, exec (.evsig w) s = .next t ∧ Table.find? t.ops s.nextId = some q ∧ q.kind = .event ∧ q.isSt = true ∧ q.state = .inFlight
        ∧ t.ctx? e.f.ctx = some { x with
            evOps := x.evOps ++ [⟨n, 0, a, some s.nextId, some e.h, s.afterOf e.h (decide (2 ≤ w.s.toNat))⟩] }
        ∧ t.floe? e.h = some (e.after w sh s { e.f with st := e.f.st + 1 }) ∧ OtherFloes e.h s t
        ∧ { t with ops := s.ops, floes := s.floes, nextId := s.nextId, ctxs := s.ctxs } = s)
    ∧ (Issues (.evsig w) w sh e s → eventAmount s e w = (a, true) → n = 0 →
      ∃ t, exec (.evsig w) s = .next t ∧ FloeEffect e.h (e.after w sh s e.f) s t)
    ∧ (Issues (.evwait w) w sh e s → eventAmount s e w = (a, true) → n ≠ 0 → (if w.d = 0xFF then e.f.st else e.f.ld) < 1023 →
      ∃ t, exec (.evwait w) s = .next t ∧ t.floe? e.h = some (e.after w sh s ((e.f.held (.event n a w.d e.exec) s.gt).evCount w.d))
        ∧ t.ctx? e.f.ctx = some { x with evOps := x.evOps ++ [⟨n, 1, a, none, some e.h, s.afterOf e.h false⟩] }
        ∧ OtherFloes e.h s t ∧ { t with floes := s.floes, ctxs := s.ctxs } = s)
    ∧ (Issues (.evclr w) w sh e s → n ≠ 0 → (if sh.d.writes = [] then e.f.st else e.f.ld) < 1023 →
      ∃ t q, exec (.evclr w) s = .next t ∧ Table.find? t.ops s.nextId = some q ∧ q.kind = .event ∧ q.isSt = sh.d.writes.isEmpty ∧ q.d = sh.d.writes
        ∧ t.ctx? e.f.ctx = some { x with evOps := x.evOps ++ [⟨n, 2, 0, some s.nextId, some e.h, s.afterOf e.h false⟩] }
        ∧ t.floe? e.h = some (e.after w sh s (if sh.d.writes = [] then { e.f with st := e.f.st + 1 } else { e.f with ld := e.f.ld + 1 }))
        ∧ OtherFloes e.h s t ∧ { t with ops := s.ops, floes := s.floes, nextId := s.nextId, ctxs := s.ctxs } = s)
    ∧ (∀ i, (i = .evwait w ∧ eventAmount s e w = (a, true) ∨ i = .evclr w) → Issues i w sh e s → n = 0 →
      ∃ t, exec i s = .next t ∧ Wrote e.f sh.d.writes [(0, some (wordsOf sh.d.writes.length 0))] s t
        ∧ t.floe? e.h = some (e.after w sh s e.f) ∧ OtherFloes e.h s t ∧ OnlyFirnFloes s t))
  ∧ (
  (∀ (s : State) (ctx : Nat) (o : EvOp) (x : Ctx) (n : Nat), s.ctx? ctx = some x → s.evHead ctx 0 = some o →
    n = min ((s.event ctx o.name).count + o.arg) 0xFFFFFFFF →
    ∃ t, exec (.eventSignal ctx) s = .next t ∧ t.event ctx o.name = ⟨n, (s.event ctx o.name).waiters.filter (fun w => decide (n < w.thr))⟩
      ∧ t.ctx? ctx = some { x with evOps := x.evOps.erase o } ∧ SameMem s t
      ∧ (∀ h thr a b d m f, o.op = none → (s.event ctx o.name).waiters = [.floe h thr] → thr ≤ n → s.floe? h = some f → f.state = .waiting →
          f.wait = some (.event a b d m) →
          t.floe? h = some ((f.evReturned d).resume (s.mck f.core)) ∧ OtherFloes h s t ∧ Wrote f (codeRegs d 1) [(0, some (wordsOf 1 n))] s t))
  ∧ (∀ (s : State) (ctx h : Nat) (o : EvOp) (x : Ctx), s.ctx? ctx = some x → s.evHead ctx 1 = some o → o.floe = some h →
    ((s.event ctx o.name).count < o.arg → s.recordFree ctx o.name = true →
      ∃ t, exec (.eventWait ctx) s = .next t
        ∧ t.event ctx o.name = ⟨(s.event ctx o.name).count, (s.event ctx o.name).waiters ++ [.floe h o.arg]⟩
        ∧ (∀ f, s.floe? h = some f → t.floe? h = some f.evPerformed) ∧ OtherFloes h s t
        ∧ t.ctx? ctx = some { x with evOps := x.evOps.erase o } ∧ { t with ctxs := s.ctxs, events := s.events, floes := s.floes } = s)
    ∧ ((s.event ctx o.name).count < o.arg → s.recordFree ctx o.name = false → ∃ t, exec (.eventWait ctx) s = .next t
        ∧ t.ctx? ctx = some { x with evOps := x.evOps.map (fun p => if p = o then { p with kind := 3 } else p) } ∧ { t with ctxs := s.ctxs } = s)
    ∧ (o.arg ≤ (s.event ctx o.name).count → ∀ f a b d m, s.floe? h = some f → f.state = .waiting → f.wait = some (.event a b d m) →
      ∃ t, exec (.eventWait ctx) s = .next t ∧ t.floe? h = some ((f.evPerformed.evReturned d).resume (s.mck f.core)) ∧ OtherFloes h s t ∧ t.events = s.events
        ∧ Wrote f (codeRegs d 1) [(0, some (wordsOf 1 (s.event ctx o.name).count))] s t))
  ∧ (∀ (s : State) (ctx : Nat) (o : EvOp) (x : Ctx), s.ctx? ctx = some x → s.evHead ctx 2 = some o →
    ∃ t, exec (.eventClear ctx) s = .next t ∧ t.event ctx o.name = ⟨0, (s.event ctx o.name).waiters⟩ ∧ SameMem s t ∧ t.firn = s.firn
      ∧ t.ctx? ctx = some { x with evOps := x.evOps.erase o }
      ∧ (∀ id p, o.op = some id → Table.find? s.ops id = some p →
          if p.isSt then Table.find? t.ops id = none
          else Table.find? t.ops id = some { p with state := .performed, vals := [(s.event ctx o.name).count] })))

/-! ## Queues -/

/-- ENQ, NODEOUT and RECV: a record with every word valid goes to the queue its address, or the node's output port, names, as an operation of the
floe; a full class counter leaves it not ready; an address outside the context's partitions, and a port that is not connected, give the status 3 and an
entry in the journal; an invalid word or address gives an invalid D; RECV.count is the batch's records, and RECV otherwise is an access to the ring
(R174, R333, R337-R340). -/
def Obligations.QueueInstructions : Prop :=
  (∀ (w : FWord) (sh : Shape) (e : Env) (s : State) (x : Ctx) (bs : List Byte), e.exec ≠ 0 → s.ctx? e.f.ctx = some x → enqRecord s e w = (bs, true) →
    (∀ i key kind c, Issues i w sh e s →
      (i = .enq w ∧ kind = 0 ∧ c = some e.f.ctx ∧ (∃ a, rdOp s e.f 0 w.b 2 = (a, true) ∧ a / 2 ^ 35 = 0 ∧ field a 12 4 ∈ x.parts ∧ field a 12 4 < 12
            ∧ key = queueKey (field a 12 4) (field a 0 12))
        ∨ i = .enq w ∧ kind = 3 ∧ c = none ∧ (∃ a, rdOp s e.f 0 w.b 2 = (a, true) ∧ a / 2 ^ 35 = 1 ∧ field a 16 19 = Config.deviceId.toNat
            ∧ field a 12 4 < 12 ∧ key = queueKey (field a 12 4) (field a 0 12))
        ∨ i = .nodeout w ∧ kind = 1 ∧ c = some e.f.ctx ∧ ∃ y q o, s.inst? e.f.ctx e.f.inst = some y ∧ y.queue = some q ∧ o = q.outs.getD w.c.toNat 0
            ∧ o.testBit 15 = true ∧ key = q.key / 4096 * 4096 + o % 4096) →
      (1023 ≤ (if sh.d.writes = [] then e.f.st else e.f.ld) → ∃ t, exec i s = .next t ∧ FloeEffect e.h (e.unready e.f) s t)
      ∧ ((if sh.d.writes = [] then e.f.st else e.f.ld) < 1023 → ∃ t q, exec i s = .next t ∧ Table.find? t.ops s.nextId = some q ∧ q.kind = .enq ∧ q.isSt = sh.d.writes.isEmpty ∧ q.d = sh.d.writes
        ∧ t.enqs = s.enqs ++ [⟨key, bs, kind, coreSecure s e.f.core, partOf e.f.core, Config.deviceId.toNat, some s.nextId, c,
            s.afterOf e.h (w.y.getLsbD 1 && decide (2 ≤ w.s.toNat)), false, none, false⟩]
        ∧ t.floe? e.h = some (e.after w sh s (if sh.d.writes = [] then { e.f with st := e.f.st + 1 } else { e.f with ld := e.f.ld + 1 }))
        ∧ OtherFloes e.h s t ∧ { t with ops := s.ops, floes := s.floes, nextId := s.nextId, enqs := s.enqs } = s))
    ∧ (∀ i, Issues i w sh e s →
      (i = .enq w ∧ (∃ a, rdOp s e.f 0 w.b 2 = (a, true) ∧ a / 2 ^ 35 = 0 ∧ field a 12 4 ∉ x.parts)
        ∨ i = .nodeout w ∧ ∀ q, (s.inst? e.f.ctx e.f.inst).bind (fun i => i.queue) = some q → (q.outs.getD w.c.toNat 0).testBit 15 = false) →
      ∃ t, exec i s = .next t ∧ (t.part (partOf e.f.core)).jSeq = (s.part (partOf e.f.core)).jSeq + 1 ∧ t.enqs = s.enqs ∧ t.ops = s.ops ∧ t.floe? e.h = some (e.after w sh s e.f) ∧ OtherFloes e.h s t
        ∧ Wrote e.f sh.d.writes [(0, some (wordsOf sh.d.writes.length 3))] s t))
  ∧ (∀ (w : FWord) (sh : Shape) (e : Env) (s : State) (i : Instr), Issues i w sh e s → e.exec ≠ 0 →
    (i = .enq w ∧ ((enqRecord s e w).2 && (rdOp s e.f 0 w.b 2).2) = false ∨ i = .nodeout w ∧ (enqRecord s e w).2 = false) →
    ∃ t, exec i s = .next t ∧ Wrote e.f sh.d.writes [(0, none)] s t ∧ t.floe? e.h = some (e.after w sh s e.f) ∧ OtherFloes e.h s t
      ∧ OnlyFirnFloes s t)
  ∧ (∀ (w : FWord) (sh : Shape) (e : Env) (s : State) (o : Op), Issues (.recv w) w sh e s → e.exec ≠ 0 →
      o = { newOp s e w .recv with d := sh.d.writes, scope := 0 } →
    (w.m.getLsbD 0 = false → e.f.ld < 1023 → lockHolds s e.h (withLanes s e o) = false → ∃ t q, exec (.recv w) s = .next t ∧ OpIssued o q w sh e s t)
    ∧ (w.m.getLsbD 0 = false → 1023 ≤ e.f.ld → ∃ t, exec (.recv w) s = .next t ∧ FloeEffect e.h (e.unready e.f) s t)
    ∧ (w.m.getLsbD 0 = true → ∃ t, exec (.recv w) s = .next t ∧ t.floe? e.h = some (e.after w sh s e.f) ∧ OtherFloes e.h s t ∧ OnlyFirnFloes s t
        ∧ Wrote e.f sh.d.writes [(0, some (wordsOf sh.d.writes.length
            (match s.inst? e.f.ctx e.f.inst with | some y => if y.queue.isSome then y.batch else 0 | none => 0)))] s t))

/-- ACCEPT judges the next record of a partition: refused, its source gets the code and no queue changes; with the queue full, the record waits and
its floe is WAITING; accepted, it is written at TAIL, TAIL advances, and its source gets status 0. A host's write to an aperture page brings a record,
malformed unless it is 64 or 256 bytes from the page's start (R327, R329-R331). A queue's timeout and batches: a record that has waited TIMEOUT makes
the condition hold; a batch that can be launched becomes one instance, with LAUNCH past its records (R328, R332). A node takes a record at LAUNCH and
frees its slot: the walker with its hit record accepted by OUT0's queue, or journaled FAILED where that refuses it; the blender into its buffer, or
dropped where it lies outside the image or its key is past; a region that holds its next key is blended first (R300, R329, R333-R335). -/
def Obligations.QueueRecords : Prop :=
  (
  (∀ (s : State) (part : Nat) (r : EnqReq), nextEnq s part s.enqs [] = some r →
    (∀ code, judge s r = .refuse code → ∃ t, exec (.accept part) s = .next t ∧ t.enqs = s.enqs.erase r ∧ t.queues = s.queues ∧ t.firn = s.firn
      ∧ (∀ id o, r.op = some id → Table.find? s.ops id = some o →
          Table.find? t.ops id = if o.isSt then none else some { o with state := .performed, vals := [code, 0] }))
    ∧ (judge s r = .full → ∃ t, exec (.accept part) s = .next t ∧ t.queues = s.queues ∧ t.ops = s.ops ∧ SameMem s t ∧ t.firn = s.firn
      ∧ t.enqs = s.enqs.map (fun y => if y = r then { r with blocked := true } else y)
      ∧ (∀ id o f, r.op = some id → Table.find? s.ops id = some o → s.floe? o.floe = some f → f.state = .ready →
          t.floe? o.floe = some { f.held (.enq id) s.gt with waitLen := 0 }))
    ∧ (∀ q u j, judge s r = .accept → s.queue? r.queue = some q → q.slotFree s r = true → State.ringWrite { s with enqs := s.enqs.erase r } r q = some (u, j) →
      ∃ t, exec (.accept part) s = .next t ∧ t.enqs = s.enqs.erase r ∧ t.ms = u.ms
        ∧ t.queue? r.queue = some { q with tail := q.tail + 1, recs := q.recs ++ [⟨s.gt, j, false⟩] }
        ∧ (∀ k, k ≠ r.queue → t.queue? k = s.queue? k)
        ∧ (∀ id o, r.op = some id → Table.find? s.ops id = some o →
            Table.find? t.ops id = if o.isSt then none else some { o with state := .performed, vals := [0, j.seq % 2 ^ 32] })))
  ∧ (∀ (s : State) (fn off : Nat) (bs : List Byte), 1 ≤ fn → fn ≤ 12 → off / 4096 < 4096 → s.life.boot = .ready →
    ∃ t r, exec (.hostApertureRecord fn off bs) s = .next t ∧ t = { s with enqs := s.enqs ++ [r] } ∧ r.queue = queueKey (fn - 1) (off / 4096)
      ∧ r.bytes = bs ∧ r.kind = 2 ∧ r.secure = false ∧ (r.bad = true ↔ off % 4096 ≠ 0 ∨ (bs.length ≠ 64 ∧ bs.length ≠ 256))))
  ∧ (
  (∀ (s : State) (part queue : Nat) (q : Queue) (r : Rec), s.queue? (queueKey part queue) = some q → q.recs[(q.launch - q.head).toNat]? = some r →
    q.enabled = true → q.timeout ≠ 0 →
    (r.gt + q.timeout ≤ s.gt → exec (.queueTimeout part queue) s
        = .next { s with queues := Table.insert s.queues (queueKey part queue) { q with timedOut := true } })
    ∧ (s.gt < r.gt + q.timeout → exec (.queueTimeout part queue) s = .next s))
  ∧ (∀ (s : State) (part queue n : Nat) (q : Queue) (x : Ctx) (k : Kernel), s.queue? (queueKey part queue) = some q → q.enabled = true → q.cons = 0 →
    s.ctx? q.ctx = some x → (x.state = .resident ∨ x.state = .running) → q.condition s = true → q.insts < q.maxInst → k = s.kernel q.ctx q.kidx →
    (k.st = .placed ∨ k.st = .bound ∨ k.st = .active) → packsFit s k (if k.lmode = 1 then 16777216 else k.floes) = true → (s.instsOf q.ctx).length < 65536 →
    n = min q.waiting q.batch →
    ∃ t y, exec (.queueBatchLaunch part queue) s = .next t
      ∧ t.queue? (queueKey part queue) = some { q with
          launch := q.launch + BitVec.ofNat 32 n, insts := q.insts + 1, timedOut := false, evMet := false }
      ∧ (∃ num, t.inst? q.ctx num = some y) ∧ y.kernel = q.kidx ∧ y.batch = n ∧ y.first = q.launch.toNat ∧ y.placed = 0 ∧ y.src = 1 + queueKey part queue
      ∧ (t.kernel q.ctx q.kidx).st = .active)
  ∧ (∀ (s : State) (part queue : Nat) (q : Queue) (x : Ctx) (bs db hit : List Byte) (d : TreeDesc) (r : EnqReq),
    s.queue? (queueKey part queue) = some q → q.enabled = true → q.cons = 1 → s.ctx? q.ctx = some x → (x.state = .resident ∨ x.state = .running) →
    nodeRecord s part (queueKey part queue) q = some bs → readVirt s (partCore part) q.ctx (queueSecure s (queueKey part queue)) q.ncfg 64 = .ok db →
    parseTree db = some d → hitRecord ⟨s, partCore part, q.ctx, queueSecure s (queueKey part queue), []⟩ d bs = .ok hit →
    r = ⟨queueKey part (q.outs.getD 0 0 % 4096), hit, 1, queueSecure s (queueKey part queue), part, Config.deviceId.toNat, none, some q.ctx, [], false,
      none, false⟩ →
    (∀ out u j, (q.outs.getD 0 0).testBit 15 = true → r.queue ≠ queueKey part queue → s.queue? r.queue = some out → judge s r = .accept →
      out.slotFree s r = true → s.ringWrite r out = some (u, j) →
      ∃ t, exec (.walkerNodeRecord part queue) s = .next t ∧ t.ms = u.ms
        ∧ t.queue? r.queue = some { out with tail := out.tail + 1, recs := out.recs ++ [⟨s.gt, j, false⟩] }
        ∧ t.queue? (queueKey part queue) = some { q.free q.launch.toNat 1 with launch := q.launch + 1 })
    ∧ ((q.outs.getD 0 0).testBit 15 = false ∨ (∃ code, judge s r = .refuse code ∧ code ≠ 1) → ∃ t, exec (.walkerNodeRecord part queue) s = .next t
        ∧ (t.part part).jSeq = (s.part part).jSeq + 1 ∧ t.queue? (queueKey part queue) = some { q.free q.launch.toNat 1 with launch := q.launch + 1 })
    ∧ ((q.outs.getD 0 0).testBit 15 = true → judge s r = .full → exec (.walkerNodeRecord part queue) s = .next s))
  ∧ (∀ (s : State) (part queue : Nat) (q : Queue) (x : Ctx) (bs db : List Byte) (g : Target) (smp : Sample) (delta : Nat),
    s.queue? (queueKey part queue) = some q → q.enabled = true → q.cons = 2 → s.ctx? q.ctx = some x → (x.state = .resident ∨ x.state = .running) →
    nodeRecord s part (queueKey part queue) q = some bs → readVirt s (partCore part) q.ctx (queueSecure s (queueKey part queue)) q.ncfg 64 = .ok db →
    parseTarget (natOf db) = some g → (∀ y ∈ q.buffer, y.key ≠ (q.regionAt y.region).1) → smp = sampleOf g bs → delta = (smp.key + 2 ^ 32 - (q.regionAt smp.region).1) % 2 ^ 32 →
    (g.width ≤ smp.x ∨ g.height ≤ smp.y ∨ 2 ^ 31 ≤ delta → ∃ t, exec (.blenderRecord part queue) s = .next t
      ∧ t.queue? (queueKey part queue) = some { q.free q.launch.toNat 1 with launch := q.launch + 1 })
    ∧ (smp.x < g.width → smp.y < g.height → 4096 ≤ delta → delta < 2 ^ 31 → exec (.blenderRecord part queue) s = .next s)
    ∧ (smp.x < g.width → smp.y < g.height → 0 < delta → delta < 4096 →
      ∃ t, exec (.blenderRecord part queue) s = .next t ∧ SameMem s t
        ∧ t.queue? (queueKey part queue) = some { q.free q.launch.toNat 1 with
            launch := q.launch + 1, buffer := q.buffer.filter (fun y => !(y.region == smp.region && y.key == smp.key)) ++ [smp] })
    ∧ (∀ px u, smp.x < g.width → smp.y < g.height → (q.regionAt smp.region).1 = smp.key → g.nanpol ≠ 2 →
      readVirt s (partCore part) q.ctx (queueSecure s (queueKey part queue)) (g.image + BitVec.ofNat 64 (smp.y * g.pitch + 16 * smp.x)) 16 = .ok px →
      writeFree s (partCore part) q.ctx (queueSecure s (queueKey part queue)) (g.image + BitVec.ofNat 64 (smp.y * g.pitch + 16 * smp.x)) 16 = true →
      writeVirt s (partCore part) q.ctx (queueSecure s (queueKey part queue)) (g.image + BitVec.ofNat 64 (smp.y * g.pitch + 16 * smp.x))
        ((blendPixel g.nanpol ((List.range 4).map (fun i => natOf ((px.drop (4 * i)).take 4))) smp).flatMap (bytesOf 4)) = .ok u →
      (q.buffer.all (fun y => !(y.region == smp.region))) = true →
      ∃ t, exec (.blenderRecord part queue) s = .next t ∧ (∀ a, t.ms.byte a = u.ms.byte a)
        ∧ (t.queue? (queueKey part queue)).map (fun y => y.buffer) = some q.buffer))
  ∧ (∀ (s u : State) (part queue : Nat) (q : Queue) (x : Ctx) (db px : List Byte) (g : Target) (smp : Sample),
    s.queue? (queueKey part queue) = some q → q.enabled = true → q.cons = 2 → s.ctx? q.ctx = some x → (x.state = .resident ∨ x.state = .running) →
    readVirt s (partCore part) q.ctx (queueSecure s (queueKey part queue)) q.ncfg 64 = .ok db → parseTarget (natOf db) = some g → g.nanpol ≠ 2 →
    q.buffer = [smp] → (q.regionAt smp.region).1 = smp.key →
    readVirt s (partCore part) q.ctx (queueSecure s (queueKey part queue)) (g.image + BitVec.ofNat 64 (smp.y * g.pitch + 16 * smp.x)) 16 = .ok px →
    writeFree s (partCore part) q.ctx (queueSecure s (queueKey part queue)) (g.image + BitVec.ofNat 64 (smp.y * g.pitch + 16 * smp.x)) 16 = true →
    writeVirt s (partCore part) q.ctx (queueSecure s (queueKey part queue)) (g.image + BitVec.ofNat 64 (smp.y * g.pitch + 16 * smp.x))
      ((blendPixel g.nanpol ((List.range 4).map (fun i => natOf ((px.drop (4 * i)).take 4))) smp).flatMap (bytesOf 4)) = .ok u →
    ∃ t y, exec (.blenderRecord part queue) s = .next t ∧ (∀ a, t.ms.byte a = u.ms.byte a) ∧ t.queue? (queueKey part queue) = some y ∧ y.buffer = []
      ∧ y.launch = q.launch ∧ (y.regionAt smp.region).1 = (smp.key + 1) % 2 ^ 32))

/-! ## Launches and floes -/

/-- LAUNCH with a valid descriptor puts the launch in flight behind what its PKG release covers, or is not ready with a full class counter (R174); an
invalid one raises DESCRIPTOR_INVALID; the launch
reaches its engine with its DATA_RETURN or STORE_PERFORMED. An engine takes the oldest instance of the next source of the highest level (R315, R317,
R318, R325). -/
def Obligations.LaunchesReachEngines : Prop :=
  (∀ (w : FWord) (sh : Shape) (e : Env) (s : State) (a : Nat) (bs : List Byte), Issues (.launch w) w sh e s → e.exec ≠ 0 →
    rdOp s e.f 0 w.a 2 = (a, true) →
    blockFar s e (BitVec.ofInt 64 ((a : Int) + (match w.x with | some x => x.imm.toInt | none => 0))) 64 = [] →
    readBlock s e (BitVec.ofInt 64 ((a : Int) + (match w.x with | some x => x.imm.toInt | none => 0))) 64 64 = .ok bs →
    (launchOk (s.kernel e.f.ctx (field (natOf bs) 0 12)) (natOf bs) = true → 1023 ≤ (if sh.d.writes = [] then e.f.st else e.f.ld) →
      ∃ t, exec (.launch w) s = .next t ∧ FloeEffect e.h (e.unready e.f) s t)
    ∧ (launchOk (s.kernel e.f.ctx (field (natOf bs) 0 12)) (natOf bs) = true → (if sh.d.writes = [] then e.f.st else e.f.ld) < 1023 →
      ∃ t q, exec (.launch w) s = .next t ∧ Table.find? t.ops s.nextId = some q ∧ q.kind = .launch ∧ q.vals = [natOf bs] ∧ q.d = sh.d.writes
        ∧ q.isSt = sh.d.writes.isEmpty ∧ q.after = s.afterOf e.h true
        ∧ t.floe? e.h = some (e.after w sh s (if sh.d.writes = [] then { e.f with st := e.f.st + 1 } else { e.f with ld := e.f.ld + 1 }))
        ∧ OtherFloes e.h s t ∧ { t with ops := s.ops, floes := s.floes, nextId := s.nextId } = s)
    ∧ (∀ x : Ctx, launchOk (s.kernel e.f.ctx (field (natOf bs) 0 12)) (natOf bs) = false → s.ctx? e.f.ctx = some x → e.f.levelHandler = false →
      x.trapBase ≠ 0 → ∃ t, exec (.launch w) s = .next t ∧ TrapEffect e x.trapBase .descriptorInvalid false e.exec 0 e.sl.pc Fx.none s t))
  ∧ (∀ (s : State) (die p src : Nat) (best : Nat × Inst), p < 4 →
    (∀ r < p, ∀ y ∈ engineWaiting s die, y.2.prio ≠ r) → best ∈ engineWaiting s die → best.2.prio = p → best.2.src = src →
    nextSource ((Table.getD s.engines Engine.fresh die).last.getD p 0)
      ((Table.vals (Table.keep (engineWaiting s die) (fun _ i => i.prio == p))).map (fun i => i.src)) = some src →
    (∀ y ∈ engineWaiting s die, y.2.prio = p → y.2.src = src → y = best ∨ best.2.born < y.2.born) →
    ∃ t, exec (.launchEngineTake die) s = .next t ∧ t.nextId = s.nextId + 1
      ∧ Table.find? t.insts best.1 = some { best.2 with taken := some s.nextId }
      ∧ { t with insts := s.insts, engines := s.engines, nextId := s.nextId } = s)

/-- FLOE_PLACEMENT forms the next floe of the first instance in the engine's order on the first core of the policy's order with room, its registers
empty but for the launch's arguments. LAUNCH_DONE makes a FORMING floe READY; a slice issues only a floe that has started, or whose lower-numbered
floes have all started and that waits for no restore; INSTANCE_DONE of an instance whose floes, stores, tile operations and copies have ended frees all
it held (R137, R140, R149, R150, R317, R318). -/
def Obligations.FloesFormAndEnd : Prop :=
  (∀ (s u : State) (die ctx inst core : Nat) (i : Inst) (k : Kernel) (rest : List (Nat × Inst)) (seat : Seat),
    engineQueue s die = (instKey ctx inst, i) :: rest → inst < 2 ^ 32 → u = s.settleAll → k = u.kernel ctx i.kernel → restoreFirst u ctx i.prio = false →
    anyDue u ctx = false → firstSeat u ctx inst k (nextCores u ctx i k) = some (core, seat) →
    (i.placed = 0 → coloursFree u k (partOf core) = true) → s.inst? ctx inst = some i →
    ∃ t h f, exec (.floePlacement die) s = .next t ∧ t.floe? h = some f ∧ s.nextId = h ∧ f.state = .forming ∧ f.ctx = ctx ∧ f.inst = inst ∧ f.num = i.placed
      ∧ f.core = core ∧ f.slice = seat.slice ∧ f.rbase = seat.room.rbase ∧ f.regs = k.regs
      ∧ f.s0 = some ⟨Table.getD k.place 0 core, 0xFFFFFFFF, none, none⟩ ∧ f.s1 = none
      ∧ (∀ k, k ≠ h → t.floe? k = s.floe? k) ∧ SameMem s t ∧ (∃ y, t.inst? ctx inst = some y ∧ y.placed = i.placed + 1)
      ∧ (∀ k (hk : k < i.args.length), t.rdReg f ⟨true, k⟩ 0 = ⟨i.args[k], true⟩))
  ∧ (∀ (s : State) (h : Nat) (f : Floe), s.floe? h = some f →
    (f.state = .forming → ∃ t, exec (.launchDone h) s = .next t ∧ t.floe? h = some { f with state := .ready, since := s.mck f.core } ∧ OtherFloes h s t
      ∧ SameMem s t ∧ { t with floes := s.floes, cores := s.cores } = s)
    ∧ (f.state ≠ .forming → exec (.launchDone h) s = .next s))
  ∧ (∀ (s : State) (core slice h : Nat) (busy : List (Nat × Bool)) (b : Bool), issueChoice s core slice busy = some (h, b) →
    ∃ f, (h, f) ∈ s.floes ∧ f.core = core ∧ f.slice = slice ∧ f.state = .ready ∧ f.preempt = false ∧ (f.startGt.isSome = true ∨
      (∀ p ∈ s.floes, p.2.ctx = f.ctx → p.2.inst = f.inst → p.2.num < f.num → p.2.startGt.isSome = true ∨ p.2.state = .retired)
        ∧ restoreFirst s f.ctx (floePrio s f) = false))
  ∧ (∀ (s : State) (ctx inst : Nat) (i : Inst), s.inst? ctx inst = some i →
    (instDone s ctx inst i = false → exec (.instanceDone ctx inst) s = .next s)
    ∧ (instDone s ctx inst i = true → ∃ t, exec (.instanceDone ctx inst) s = .next t ∧ t.inst? ctx inst = none ∧ t.firn = s.firn
      ∧ (∀ k f, t.floe? k = some f → ¬ (f.ctx = ctx ∧ f.inst = inst)) ∧ (∀ c, ∀ r ∈ (t.core c).scratch, ¬ (r.ctx = ctx ∧ r.inst = inst))
      ∧ (∀ k f, ¬ (f.ctx = ctx ∧ f.inst = inst) → s.floe? k = some f → t.floe? k = some f)))

/-! ## Class 13: packs and barriers -/

/-- PACKQ gives the rank, the size or the live count of a pack, invalid for a rank where the floe is not listed (R347). BARA sends an arrival with the
floe's phase bit, flips the bit and goes on; BARS also waits; with an arrival unreleased both wait first; BARW waits where one is unreleased and else
has its acquire; BART gives the release as a condition word; a colour the floe may not name raises ILLEGAL_OPERANDS (R351, R353, R355, R356). The
barrier tree: an arrival of the gathering phase is counted once its release has ended, the first to reach the tree first and those of one gt in
ascending cluster number, and the phase completes when every live member has arrived; the
release then reaches the members that arrived one by one, and when it has reached all, the phase bit flips and a clock step of 20 MHz up for the last
cluster and down for the first becomes due in the order in which the phases completed, discarded where a limit of R20 forbids it (R20, R350, R351,
R354). -/
def Obligations.Barriers : Prop :=
  (
  (∀ (w : FWord) (sh : Shape) (e : Env) (s : State), Issues (.packq w) w sh e s → e.exec ≠ 0 →
    ∃ t, exec (.packq w) s = .next t ∧ LaneEffect w sh e Fx.none ((computeLanes w e).map (fun l => (l,
      let p := (s.kernel e.f.ctx e.f.kernel).packs.find? (fun p => p.id == w.c.toNat)
      let ms := match p with | some q => q.members (s.floesOf e.f) | none => []
      let r : Option Nat := match w.m.toNat with
        | 0 => p.bind (fun q => q.rankOf e.f.num)
        | 1 => some ms.length
        | _ => some (ms.filter (fun m => !s.hasLeft e.f.ctx e.f.inst w.c.toNat m)).length
      r.map (fun v => wordsOf sh.d.writes.length v)))) s t)
  ∧ (∀ (i : Instr) (w : FWord) (sh : Shape) (e : Env) (s : State) (waits leave : Bool) (p : Pack) (bp : Nat) (c : Colour) (y : Inst), Issues i w sh e s →
    e.exec ≠ 0 → (i = .bara w ∧ waits = false ∨ i = .bars w ∧ waits = true) → leave = w.m.getLsbD 0 →
    boundPack s e.f w.c.toNat = some p → s.barPart e.f = some bp → s.colour? bp w.c.toNat = some c → s.inst? e.f.ctx e.f.inst = some y →
    s.hasLeft e.f.ctx e.f.inst p.id e.f.num = false →
    (Table.getD e.f.barPending false w.c.toNat = true → ∃ t, exec i s = .next t
      ∧ FloeEffect e.h (e.after w sh s (e.f.held (.arrive w.c.toNat leave waits) s.gt)) s t)
    ∧ (Table.getD e.f.barPending false w.c.toNat = false → ∃ t g, exec i s = .next t ∧ t.floe? e.h = some (e.after w sh s g)
      ∧ g = (let f1 := { e.f with barPhase := Table.setD e.f.barPhase false w.c.toNat (!Table.getD e.f.barPhase false w.c.toNat),
                                  barPending := Table.setD e.f.barPending false w.c.toNat true }
             if waits then f1.held (.barrier w.c.toNat) s.gt else f1)
      ∧ t.colour? bp w.c.toNat = some (c.send ⟨e.f.num, clusterOf e.f.core,
          Table.getD e.f.barPhase false w.c.toNat, true, leave, false, s.gt, s.opsOf e.h ++ e.f.seen, none⟩)
      ∧ t.inst? e.f.ctx e.f.inst = some (if leave then { y with gone := y.gone ++ [(p.id, e.f.num)] } else y)
      ∧ OtherFloes e.h s t ∧ { t with floes := s.floes, colours := s.colours, insts := s.insts } = s))
  ∧ (∀ (w : FWord) (sh : Shape) (e : Env) (s : State), e.exec ≠ 0 → colourOk s e.f w.c.toNat false = true →
    (Issues (.barw w) w sh e s → Table.getD e.f.barPending false w.c.toNat = true →
      ∃ t, exec (.barw w) s = .next t ∧ FloeEffect e.h (e.after w sh s (e.f.held (.barrier w.c.toNat) s.gt)) s t)
    ∧ (Issues (.barw w) w sh e s → Table.getD e.f.barPending false w.c.toNat = false →
      ∃ t, exec (.barw w) s = .next t ∧ FloeAnd e.h (e.after w sh s e.f) s (s.acquire e.f.core 5) t)
    ∧ (Issues (.bart w) w sh e s → ∃ t, exec (.bart w) s = .next t ∧ t.floe? e.h = some (e.after w sh s e.f) ∧ OtherFloes e.h s t ∧ SameMem s t
      ∧ { t with floes := s.floes, firn := s.firn, cores := s.cores } = s
      ∧ Wrote e.f sh.d.writes ((computeLanes w e).map (fun l => (l, some (List.replicate sh.d.writes.length
          (let r := !Table.getD e.f.barPending false w.c.toNat; (⟨if r then 1 else 0, r⟩ : FirnWord)))))) s t))
  ∧ (∀ (i : Instr) (w : FWord) (sh : Shape) (e : Env) (s : State) (x : Ctx) (arrives : Bool), Issues i w sh e s → e.exec ≠ 0 →
    ((i = .bara w ∨ i = .bars w) ∧ arrives = true ∨ (i = .barw w ∨ i = .bart w) ∧ arrives = false) → colourOk s e.f w.c.toNat arrives = false →
    s.ctx? e.f.ctx = some x → e.f.levelHandler = false → x.trapBase ≠ 0 →
    ∃ t, exec i s = .next t ∧ TrapEffect e x.trapBase .illegalOperands false e.exec 0 e.sl.pc Fx.none s t))
  ∧ (
  (∀ (s : State) (part colour : Nat) (c : Colour) (a : Arrival), s.colour? part colour = some c → c.nextSent s = some a →
    a.tag = (if c.st = .releasing then !c.phase else c.phase)
    ∧ (∀ b ∈ c.sent, b.tag = a.tag → ∀ y, b.reached = some y → ∃ x, a.reached = some x
        ∧ (x < y ∨ x = y ∧ a.cluster / 16 * 12 + a.cluster % 16 ≤ b.cluster / 16 * 12 + b.cluster % 16))
    ∧ ∃ t d, exec (.barrierArrival part colour) s = .next t ∧ t.colour? part colour = some d
      ∧ { t with colours := s.colours, nextId := s.nextId } = s ∧ t.nextId = s.nextId + 1
      ∧ d.sent = c.sent.erase a ∧ d.phase = c.phase
      ∧ (c.st = .releasing → d.st = .releasing ∧ d.held = c.held ++ [a] ∧ d.arrived = c.arrived ∧ d.live = c.live)
      ∧ (c.st ≠ .releasing → d.held = c.held ∧ d.arrived = (if a.arr then c.arrived ++ [a.num] else c.arrived)
          ∧ d.live = (if a.leave then c.live.filter (· != a.num) else c.live)
          ∧ ((∀ n ∈ d.live, n ∈ d.arrived) → d.st = .releasing ∧ d.spread = d.arrived ∧ d.last = some a.cluster ∧ d.order = s.nextId)
          ∧ ((∃ n ∈ d.live, n ∉ d.arrived) → d.st = .gathering)))
  ∧ (∀ (s : State) (part colour h : Nat) (c : Colour) (f : Floe), s.colour? part colour = some c → s.floe? h = some f → c.st = .releasing →
    f.num ∈ c.spread → s.memberOf c.ctx c.inst f.num = some h →
    ∃ t, exec (.releaseReachesFloe part colour h) s = .next t
      ∧ t.floe? h = some { f with barPending := Table.setD f.barPending false colour false } ∧ OtherFloes h s t
      ∧ t.colour? part colour = some { c with spread := c.spread.filter (· != f.num) } ∧ { t with floes := s.floes, colours := s.colours } = s)
  ∧ (∀ (s : State) (part colour : Nat) (c : Colour), s.colour? part colour = some c →
    (c.st ≠ .releasing ∨ (∃ n ∈ c.spread, (s.memberOf c.ctx c.inst n).isSome = true) → exec (.releaseDone part colour) s = .next s)
    ∧ (c.st = .releasing → (∀ n ∈ c.spread, s.memberOf c.ctx c.inst n = none) → ∃ t d, exec (.releaseDone part colour) s = .next t
      ∧ t.colour? part colour = some d ∧ d.phase = !c.phase ∧ (c.held = [] → d.st = .idle ∧ d.arrived = [] ∧ d.live = c.live)
      ∧ { t with colours := s.colours, clkDue := s.clkDue, nextId := s.nextId } = s
      ∧ t.clkDue = (match c.last, c.first with
          | some l, some f => if c.byExit = true ∨ c.counted ≤ 1 then s.clkDue else dueStep (c.order, l, f) s.clkDue
          | _, _ => s.clkDue)))
  ∧ (∀ (s : State) (n last first : Nat) (rest : List (Nat × Nat × Nat)) (refuse : Bool), s.clkDue = (n, last, first) :: rest →
    (last ≠ first → Table.getD s.clk 940 last + 20 ≤ 1100 → 800 ≤ Table.getD s.clk 940 first → s.life.throt = false →
      (s.life.plimit.toNat - 100 < 2 * s.life.pwr.toNat → refuse = false) →
      ∃ t, exec (.clockStep refuse) s = .next t ∧ t.clkDue = rest ∧ Table.getD t.clk 940 last = Table.getD s.clk 940 last + 20
        ∧ Table.getD t.clk 940 first = Table.getD s.clk 940 first - 20
        ∧ (∀ k, k ≠ last → k ≠ first → Table.getD t.clk 940 k = Table.getD s.clk 940 k) ∧ (∀ k, Table.getD t.gated false k = Table.getD s.gated false k)
        ∧ { t with clk := s.clk, clkDue := s.clkDue, pace := s.pace, gated := s.gated } = s)
    ∧ (last = first ∨ 1100 < Table.getD s.clk 940 last + 20 ∨ Table.getD s.clk 940 first < 800 ∨ s.life.throt = true →
      exec (.clockStep refuse) s = .next { s with clkDue := rest })))

/-! ## Class 14 and the links -/

/-- RLD, RWR and RATOM put in flight what LDA, ST and ATOM do; RLD counts in its arrival counter (R417, R418). MSG sends its event or message behind
what its release covers, and to another device in a stream of its own; HALO checks its descriptor against the slot's tree and waits behind its
release; a full class counter leaves each not ready; COLL leaves the floe WAITING, and takes the next round of its group as its release is performed,
when its contribution reaches the participants; a device that no port reaches raises LINK_UNREACHABLE (R174, R298, R419-R422). -/
def Obligations.LinkInstructions : Prop :=
  (∀ (i : Instr) (w : FWord) (sh : Shape) (e : Env) (s : State) (o : Op), Issues i w sh e s → e.exec ≠ 0 →
    (i = .rld w ∧ o = { loadOp .load false true w sh e s with info := rldMark } ∨ i = .rwr w ∧ o = storeOp .store true w sh e s
      ∨ i = .ratom w ∧ o = atomicOp (fun w => atomOpOf w.c.toNat) true false w sh e s) →
    (1023 ≤ (if o.isSt then e.f.st else e.f.ld) → ∃ t, exec i s = .next t ∧ FloeEffect e.h (e.unready e.f) s t)
    ∧ ((if o.isSt then e.f.st else e.f.ld) < 1023 → (∀ k, o.ac = some k → (e.f.ac k).out < 255) → lockHolds s e.h (withLanes s e o) = false →
      ∃ t q, exec i s = .next t ∧ OpIssued o q w sh e s t))
  ∧ (∀ (w : FWord) (sh : Shape) (e : Env) (s : State) (a b : Nat), Issues (.msg w) w sh e s → e.exec ≠ 0 → rdOp s e.f 0 w.a 2 = (a, true) →
    (if w.b = 0xFF then (1, true) else rdOp s e.f 0 w.b 1) = (b, true) → (w.m.toNat = 2 → s.isPriv e.f = true) → a / 2 ^ 39 = 0 → field a 16 4 < 12 →
    (field a 20 19 = Config.deviceId.toNat ∨ reachable s (field a 20 19) = true → 1023 ≤ e.f.st →
      ∃ t, exec (.msg w) s = .next t ∧ FloeEffect e.h (e.unready e.f) s t)
    ∧ (field a 20 19 = Config.deviceId.toNat ∨ reachable s (field a 20 19) = true → e.f.st < 1023 →
      ∃ t q, exec (.msg w) s = .next t ∧ Table.find? t.ops s.nextId = some q ∧ q.kind = .msg ∧ q.isSt = true
        ∧ q.vals = [w.m.toNat, field a 0 16, field a 16 4, field a 20 19, b]
        ∧ q.after = s.afterOf e.h (w.m.toNat != 2 && decide (2 ≤ w.s.toNat))
        ∧ t.floe? e.h = some (e.after w sh s { e.f with st := e.f.st + 1 }) ∧ OtherFloes e.h s t
        ∧ { t with ops := s.ops, floes := s.floes, nextId := s.nextId, net := s.net } = s
        ∧ (field a 20 19 = Config.deviceId.toNat → t.net = s.net)
        ∧ (field a 20 19 ≠ Config.deviceId.toNat → ∃ m, t.net.outbox = s.net.outbox ++ [⟨m, q.after⟩] ∧ m.dstDev = field a 20 19
            ∧ m.dstPart = field a 16 4 ∧ m.srcDev = Config.deviceId.toNat ∧ m.addr = field a 0 16
            ∧ m.cls = (match w.m.toNat with | 0 => 0 | 1 => 3 | _ => 5)))
    ∧ (∀ x : Ctx, field a 20 19 ≠ Config.deviceId.toNat → reachable s (field a 20 19) = false → s.ctx? e.f.ctx = some x → e.f.levelHandler = false →
      x.trapBase ≠ 0 → ∃ t, exec (.msg w) s = .next t ∧ TrapEffect e x.trapBase .linkUnreachable false e.exec 0 e.sl.pc Fx.none s t))
  ∧ (∀ (w : FWord) (sh : Shape) (e : Env) (s : State) (a n : Nat) (sl : TreeSlot) (d : TreeDesc) (hd bs lc : List Byte), Issues (.halo w) w sh e s →
    e.exec ≠ 0 → rdOp s e.f 0 w.a 2 = (a, true) → Table.find? (s.core e.f.core).slots w.s.toNat = some sl → parseTree sl.desc = some d →
    blockFar s e (BitVec.ofNat 64 a) 64 = [] → readBlock s e (BitVec.ofNat 64 a) 64 64 = .ok hd → n = field (natOf hd) 0 16 → 1 ≤ n → n ≤ 4096 →
    blockFar s e (BitVec.ofNat 64 a) (64 + 16 * n) = [] → readBlock s e (BitVec.ofNat 64 a) (64 + 16 * n) 64 = .ok bs →
    blockFar s e (BitVec.ofNat 64 (d.base + 12)) 4 = [] → readBlock s e (BitVec.ofNat 64 (d.base + 12)) 4 4 = .ok lc →
    haloOk d (natOf sl.desc) (natOf lc) (natOf bs) = true →
    (∀ k ∈ haloDests (natOf bs), k / 4 = Config.deviceId.toNat ∨ reachable s (k / 4) = true) →
    (1023 ≤ e.f.st → ∃ t, exec (.halo w) s = .next t ∧ FloeEffect e.h (e.unready e.f) s t)
    ∧ (e.f.st < 1023 → ∃ t q, exec (.halo w) s = .next t ∧ Table.find? t.ops s.nextId = some q ∧ q.kind = .halo ∧ q.isSt = true ∧ q.vals = [natOf bs, natOf sl.desc]
      ∧ q.after = s.afterOf e.h true ∧ t.floe? e.h = some (e.after w sh s { e.f with st := e.f.st + 1 }) ∧ OtherFloes e.h s t
      ∧ { t with ops := s.ops, floes := s.floes, nextId := s.nextId } = s))
  ∧ (∀ (w : FWord) (sh : Shape) (e : Env) (s : State) (b part : Nat) (ms : List (Nat × Nat)), Issues (.coll w) w sh e s → e.exec ≠ 0 →
    rdOp s e.f 0 w.b 1 = (b, true) → part = partOf e.f.core → groupOf s part (b % 256) = some ms →
    (ms.filter (fun m => m == (Config.deviceId.toNat, part))).length = 1 →
    (∀ m ∈ ms, m.1 = Config.deviceId.toNat ∨ reachable s m.1 = true) →
    ∃ t q, exec (.coll w) s = .next t ∧ Table.find? t.ops s.nextId = some q ∧ q.kind = .coll ∧ q.isSt = true ∧ q.after = s.afterOf e.h true
      ∧ q.vals.take 4 = [part, b % 256, ms.idxOf (Config.deviceId.toNat, part), w.c.toNat]
      ∧ t.floe? e.h = some (e.after w sh s (e.f.held (.coll part (b % 256) none w.d w.c.toNat
          (w.s.toNat == 1 && ms.idxOf (Config.deviceId.toNat, part) != 0)) s.gt))
      ∧ OtherFloes e.h s t ∧ { t with ops := s.ops, floes := s.floes, nextId := s.nextId } = s)
  ∧ (∀ (s : State) (id part g r : Nat) (o : Op) (ms : List (Nat × Nat)), Table.find? s.ops id = some o → o.isSt = true → o.kind = .coll →
    o.ready s = true → part = o.vals.getD 0 0 → g = o.vals.getD 1 0 → groupOf s part g = some ms → r = Table.getD s.net.rounds 0 (part * 256 + g) →
    ∃ t, exec (.storePerformed id) s = .next t ∧ Table.find? t.net.rounds (part * 256 + g) = some (r + 1) ∧ Table.find? t.ops id = none
      ∧ t.colls = s.colls ++ (ms.filter (fun m => m.1 == Config.deviceId.toNat)).map (fun m => contribution m.2 r o.vals)
      ∧ t.net.outbox.length = s.net.outbox.length + (ms.filter (fun m => m.1 != Config.deviceId.toNat)).length
      ∧ (∀ f d n root, s.floe? o.floe = some f → f.wait = some (.coll part g none d n root) →
          ∃ y, t.floe? o.floe = some y ∧ y.wait = some (.coll part g (some r) d n root) ∧ y.state = f.state))

/-- Messages taken: a read, write or atomic from another device is performed at its home and answered; an event signal, a record, a halo piece or
marker and a mailbox entry reach what they name and are acknowledged; an answer ends its request; a message that is not for this device, or whose
number was seen, changes nothing (R411, R414, R415, R419, R422, R432; the codes and layouts of payloads are the model's, log 26). A request unanswered
for 2 ms is given up, and with it the lane, or the record, event or halo that it belongs to (R412). A round with every contribution writes each lane's reduction in member order and the floe goes on (R421). A halo's
destination on this device takes its runs and then its event (R299). -/
def Obligations.FabricMessages : Prop :=
  (
  (∀ (s : State) (m : Msg) (i : Instr) (c : Nat), (i = .reqMessage m ∧ c = 0 ∨ i = .rspMessage m ∧ c = 1 ∨ i = .enqMessage m ∧ c = 2
      ∨ i = .barMessage m ∧ c = 3 ∨ i = .haloMessage m ∧ c = 4 ∨ i = .mgmtMessage m ∧ c = 5) → s.takes c m = false → exec i s = .next s)
  ∧ (∀ (s : State) (m : Msg), s.takes 0 m = true → (m.op = 0 ∨ m.op = 1 ∨ 8 ≤ m.op ∧ m.op ≤ 19) →
    ((m.op = 1 ∨ 8 ≤ m.op) → engineClear s ⟨m.addr, homePte s m.addr⟩ (natOf ((m.payload.drop 32).take 8)) = true) →
    ∃ t, exec (.reqMessage m) s = .next t ∧ t.ms = (homeAccess (s.noteSeq m) m).1.ms ∧ t.firn = s.firn ∧ t.floes = s.floes
      ∧ (∃ r, t.net.outbox = s.net.outbox ++ [⟨r, []⟩] ∧ r.cls = 1 ∧ r.dstDev = m.srcDev)
      ∧ (m.op = 1 → ∀ n, n = natOf ((m.payload.drop 32).take 8) → homeFault (s.noteSeq m) (portSecure s m.srcDev) true m.addr n = none →
          (s.sealMeta (m.addr / 4096)).kid = 0 → (s.dirAt (m.addr / 256)).slot < 8 → m.addr / 4096 = (m.addr + n - 1) / 4096 →
          (∀ k, k < n → t.ms.byte (m.addr + k) = BitVec.ofNat 8 (natOf (m.payload.take 16) / 256 ^ k))
          ∧ ∀ a, ¬ (m.addr ≤ a ∧ a < m.addr + n) → t.ms.byte a = s.ms.byte a))
  ∧ (∀ (s : State) (m : Msg) (ctx : Nat) (x : Ctx) (i : Instr) (n : Nat), s.ownerOf m.dstPart = some ctx → s.ctx? ctx = some x → m.addr % 65536 ≠ 0 →
    (i = .reqMessage m ∧ m.op = 2 ∧ s.takes 0 m = true ∧ n = natOf ((m.payload.drop 1).take 4)
      ∨ i = .barMessage m ∧ s.takes 3 m = true ∧ n = natOf ((m.payload.drop 1).take 4) ∨ i = .haloMessage m ∧ m.op = 1 ∧ s.takes 4 m = true ∧ n = 1) →
    ∃ t, exec i s = .next t ∧ t.ctx? ctx = some { x with evOps := x.evOps ++ [⟨m.addr % 65536, 0, n, none, none, []⟩] } ∧ SameMem s t ∧ t.firn = s.firn
      ∧ (∃ r, t.net.outbox = s.net.outbox ++ [⟨r, []⟩] ∧ r.cls = 1 ∧ r.dstDev = m.srcDev))
  ∧ (∀ (s : State) (m : Msg), s.takes 2 m = true → ∃ t, exec (.enqMessage m) s = .next t ∧ SameMem s t ∧ { t with net := s.net, enqs := s.enqs } = s
      ∧ t.enqs = s.enqs ++ [⟨queueKey m.dstPart (m.addr % 4096), m.payload.drop 1, 3, portSecure s m.srcDev, natOf (m.payload.take 1) % 16, m.srcDev,
          none, none, [], false, some m, false⟩])
  ∧ (∀ (s : State) (m : Msg) (ctx : Nat) (u : State), s.takes 4 m = true → m.op ≠ 1 → s.ownerOf m.dstPart = some ctx →
    writeFree (s.noteSeq m) (partCore m.dstPart) ctx (portSecure s m.srcDev) (BitVec.ofNat 64 (natOf (m.payload.take 8))) (m.payload.length - 8) = true →
    writeVirt (s.noteSeq m) (partCore m.dstPart) ctx (portSecure s m.srcDev) (BitVec.ofNat 64 (natOf (m.payload.take 8))) (m.payload.drop 8) = .ok u →
    ∃ t, exec (.haloMessage m) s = .next t ∧ t.ms = u.ms ∧ (∃ r, t.net.outbox = s.net.outbox ++ [⟨r, []⟩] ∧ r.cls = 1 ∧ r.dstDev = m.srcDev))
  ∧ (∀ (s : State) (m : Msg), s.takes 5 m = true → ∃ t, exec (.mgmtMessage m) s = .next t ∧ { t with net := s.net, life := s.life } = s
      ∧ ((s.life.mbTail - s.life.mbHead).toNat < 256 → s.life.mgmtSecond ≠ s.gt / 1000000000 → t.life.mbTail = s.life.mbTail + 1
          ∧ Table.find? t.life.mailbox (s.life.mbTail.toNat % 256) = some (BitVec.ofNat 128 (m.srcDev + natOf (m.payload.take 1) % 16 * 2 ^ 19
              + m.addr % 65536 * 2 ^ 32 + natOf ((m.payload.drop 1).take 4) * 2 ^ 64 + s.gt % 2 ^ 32 * 2 ^ 96)))
      ∧ (256 ≤ (s.life.mbTail - s.life.mbHead).toNat → t.life.mbTail = s.life.mbTail ∧ t.life.mgDrop = satInc s.life.mgDrop))
  ∧ (∀ (s : State) (m : Msg) (r : NetReq) (o : Op), s.takes 1 m = true →
    s.net.reqs.find? (fun r => r.msg.dstDev == m.srcDev && r.msg.seq == natOf (m.payload.take 8) && r.msg.stream == natOf ((m.payload.drop 8).take 4)
      && r.msg.cls == natOf ((m.payload.drop 12).take 4)) = some r → s.requestSent r = true → Table.find? s.ops r.op = some o → o.failed = false →
    ∃ t, exec (.rspMessage m) s = .next t ∧ t.net.reqs = s.net.reqs.erase r ∧ SameMem s t ∧ t.firn = s.firn
      ∧ (o.kind = .msg → Table.find? t.ops r.op = some { o with state := .performed })
      ∧ (o.kind = .load → r.lane < 32 → Table.find? t.ops r.op = some { o with lanes := o.lanes.map (fun la => if la.lane = r.lane then
            (if natOf ((m.payload.drop 16).take 8) = 0 then { la with reply := some (natOf ((m.payload.drop 24).take 16)) }
             else { la with err := some (Cause.ofCode (natOf ((m.payload.drop 16).take 8))) }) else la) })))
  ∧ (
  (∀ (s : State) (id : Nat) (o : Op), Table.find? s.ops id = some o →
    ((o.kind = .enq ∨ o.kind = .msg ∨ o.kind = .halo) → (∃ r ∈ s.net.reqs, r.op = id ∧ r.sentGt + 2000000 ≤ s.gt ∧ s.requestSent r = true) →
      ∃ t, exec (.requestTimeout id) s = .next t ∧ Table.find? t.ops id = some { o with failed := true }
        ∧ (∀ k, k ≠ id → Table.find? t.ops k = Table.find? s.ops k) ∧ { t with ops := s.ops, net := s.net } = s)
    ∧ (∀ r, (o.kind = .load ∨ o.kind = .store ∨ ∃ a b, o.kind = .atomic a b) → o.failed = false → r.lane < 32 →
      s.net.reqs.filter (fun r => r.op == id && decide (r.sentGt + 2000000 ≤ s.gt) && s.requestSent r) = [r] →
      ∃ t, exec (.requestTimeout id) s = .next t ∧ t.net.reqs = s.net.reqs.erase r ∧ { t with ops := s.ops, net := s.net } = s
        ∧ Table.find? t.ops id = some { o with lanes := o.lanes.map (fun la => if la.lane = r.lane then { la with err := some .linkUnreachable } else la) })
    ∧ ((∀ r ∈ s.net.reqs, r.op = id → s.gt < r.sentGt + 2000000) → exec (.requestTimeout id) s = .next s))
  ∧ (∀ (s : State) (part group round h n : Nat) (ms : List (Nat × Nat)) (cs : List Contribution) (f : Floe) (d : Code) (root : Bool),
    groupOf s part group = some ms → cs.length = ms.length →
    (∀ k (hk : k < cs.length), s.colls.find? (fun c => c.part == part && c.group == group && c.round == round && c.member == k) = some cs[k]) →
    collWaiter s part group round = some (h, f) → s.floe? h = some f → f.wait = some (.coll part group (some round) d n root) → f.state = .waiting →
    n ≤ 32 → f.dmr = .off → codeRegs d 1 ≠ [] → (∀ r ∈ codeRegs d 1, r.uni = false) →
    ∃ t, exec (.collRoundComplete part group round) s = .next t
      ∧ t.colls = s.colls.filter (fun c => !(c.part == part && c.group == group && c.round == round)) ∧ OtherFloes h s t ∧ SameMem s t
      ∧ t.floe? h = some (Floe.resume { f with fpflags := f.fpflags ||| (((List.range n).map (collLane cs)).foldl (fun a r => a.or r.2) Fx.none).bits } (s.mck f.core))
      ∧ (if root then t.firn = s.firn else Wrote f (codeRegs d 1)
          ((List.range n).map (fun l => (l, (collLane cs l).1.map (fun v => wordsOf 1 v)))) s t))
  ∧ (∀ (s u : State) (id dest v : Nat) (o : Op) (d : TreeDesc) (x : Ctx), Table.find? s.ops id = some o → o.kind = .halo → o.ready s = true →
    haloOf o = (v, some d) → dest ∈ haloDests v → dest ∉ o.info → dest ∉ o.granted → dest / 4 = Config.deviceId.toNat →
    haloFree o.core o.ctx s ((haloLeft o d dest).map Prod.fst) = true → haloCopies o.core o.ctx ((haloLeft o d dest).map Prod.fst) s = .ok u → s.ctx? o.ctx = some x → field v 16 16 ≠ 0 →
    ∃ t, exec (.haloDestinationSignal id dest) s = .next t ∧ t.ms = u.ms ∧ t.firn = s.firn ∧ t.floes = s.floes
      ∧ Table.find? t.ops id = some { o with info := o.info ++ [dest] }
      ∧ t.ctx? o.ctx = some { x with evOps := x.evOps ++ [⟨field v 16 16, 0, 1, none, none, []⟩] }))

/-- The links' states: margins below a threshold in two samples together make a link MARGINAL, and MARGINAL with AUTO retrains; retrain, disable,
enable, fail, training and retraining move a link as R402 says; the host port's recovery retrains it; a read of a margin word clears its count; an
isolated die stays isolated (R402-R405, R408, R416). -/
def Obligations.LinkStates : Prop :=
  (∀ (s : State) (n : Nat) (i : Instr) (l' : Link), linkValid n = true →
    (i = .linkRetrain n ∧ n < 256 ∧ (s.link n).st.canRetrain = true ∧ l' = { s.link n with st := .retraining }
      ∨ i = .linkRetrain n ∧ 256 ≤ n ∧ (s.link n).st.canRetrain = true ∧ l' = { s.link n with pend := true }
      ∨ i = .ltssmRecovery ∧ n = 48 ∧ (s.link 48).st.canRetrain = true ∧ l' = { s.link 48 with st := .retraining }
      ∨ (i = .linkDisable n ∨ i = .linkFail n ∧ (s.link n).st ≠ .retraining) ∧ (s.link n).st.inUse = true ∧ l' = { s.link n with st := .down, units := 0, pend := false, lanes := [] }
      ∨ i = .linkEnable n ∧ ((s.link n).st = .down ∨ (s.link n).st = .untrained) ∧ l' = { s.link n with st := .training }
      ∨ i = .trainingDone n true ∧ (s.link n).st = .training ∧ l' = { s.link n with st := .active, units := linkFull n, spares := 0, lanes := [] }
      ∨ i = .trainingDone n false ∧ (s.link n).st = .training ∧ l' = { s.link n with st := .down, units := 0, lanes := [] }
      ∨ (∃ sp u c, i = .retrainingDone n sp u c ∧ n < 256 ∧ (s.link n).st = .retraining ∧ l' = retrained n (s.link n) sp u c)
      ∨ (∃ xs, i = .marginSample n xs ∧ (s.link n).st = .active ∧ (s.link n).auto = false ∧ xs ≠ [] ∧ xs.length ≤ 448
          ∧ (s.link n).lanes.length = xs.length ∧ l' = { takeSample (s.link n) xs with st := .marginal }
          ∧ ∃ k, k < xs.length ∧ laneLow (s.link n) ((s.link n).lanes.getD k (0, 0, 0)).1 ((s.link n).lanes.getD k (0, 0, 0)).2.1 = true
            ∧ laneLow (s.link n) (xs.getD k ⟨0, 0, 0⟩).hm (xs.getD k ⟨0, 0, 0⟩).vm = true)
      ∨ (∃ xs, i = .marginSample n xs ∧ (s.link n).st.inUse = true ∧ ((s.link n).st = .marginal → (s.link n).auto = false ∨ 48 ≤ n) ∧ xs ≠ []
          ∧ xs.length ≤ 448 ∧ (s.link n).lanes = [] ∧ l' = takeSample (s.link n) xs)
      ∨ (∃ xs, i = .marginSample n xs ∧ (s.link n).st = .marginal ∧ (s.link n).auto = true ∧ n < 48 ∧ xs ≠ []
          ∧ xs.length ≤ 448 ∧ (s.link n).lanes = [] ∧ l' = { takeSample (s.link n) xs with st := .retraining })
      ∨ (∃ sp u c cs, i = .refreshWindow n sp u c false cs ∧ 256 ≤ n ∧ (s.link n).st.canRetrain = true ∧ (s.link n).pend = true ∧ cs ≠ []
          ∧ l' = { s.link n with st := .retraining, pend := false, banks := cs })
      ∨ (∃ k, i = .marginWordRead n k ∧ l' = { s.link n with lanes := (s.link n).lanes.zipIdx.map (fun x => if x.2 = k then (x.1.1, x.1.2.1, 0) else x.1) })) →
    ∃ t, exec i s = .next t ∧ t.link n = l' ∧ (∀ k, k ≠ n → t.link k = s.link k) ∧ SameMem s t ∧ t.firn = s.firn ∧ t.floes = s.floes
      ∧ (l'.st = (s.link n).st ∨ l'.ie = false → t.irqs = s.irqs))
  ∧ (∀ (s : State) (d : Nat), d < 4 → d ∉ s.net.cut → ∃ t, exec (.ainarDieIsolation d) s = .next t ∧ t.net.cut = s.net.cut ++ [d]
      ∧ d ∈ t.net.isolated ∧ SameMem s t ∧ t.floes = s.floes ∧ t.firn = s.firn
      ∧ (∀ c x k f, s.ctx? c = some x → x.state ≠ .destroyed → d ∉ s.net.isolated → s.floe? k = some f → f.ctx = c → f.onDie d = true →
          ∃ y, t.ctx? c = some y ∧ y.state = .faulted))

/-! ## System registers, HALT and the page instructions -/

/-- RDSR writes a register's value in every lane of D; WRSR writes one that software may write, from the privileged level but for %fpflags and MSTAT,
and raises ILLEGAL_OPERANDS or PRIVILEGED otherwise; a context register whose new value breaks its rule raises ILLEGAL_OPERANDS. A WRSR with an invalid
A has no effect, whatever the register (R361, R362, R376). -/
def Obligations.SystemRegisters : Prop :=
  ∀ (w : FWord) (sh : Shape) (e : Env) (s : State) (n : Nat), e.exec ≠ 0 → n = w.c.toNat →
    (Issues (.rdsr w) w sh e s → (∃ t, exec (.rdsr w) s = .next t
        ∧ LaneEffect w sh e Fx.none ((computeLanes w e).map (fun l => (l, some (wordsOf sh.d.writes.length (readSr s e.h e.f n))))) s t))
    ∧ (Issues (.wrsr w) w sh e s → (rdOp s e.f 0 w.a 1).2 = false → ∃ t, exec (.wrsr w) s = .next t ∧ FloeEffect e.h (e.after w sh s e.f) s t)
    ∧ (∀ (v : Nat) (x : Ctx), Issues (.wrsr w) w sh e s → rdOp s e.f 0 w.a 1 = (v, true) → s.ctx? e.f.ctx = some x →
      (n = 0 → ∃ t, exec (.wrsr w) s = .next t
        ∧ FloeEffect e.h (e.after w sh s { e.f with fpflags := BitVec.ofNat 32 v &&& 0x73F }) s t)
      ∧ (∀ full : Nat, n ∈ [0x04, 0x10, 0x11, 0x12, 0x13, 0x14, 0x16, 0x1A, 0x21, 0x23, 0x25, 0x27, 0x28, 0x2B] → s.isPriv e.f = true →
          full = (if srIsLo n then v + 2 ^ 32 * (match Table.find? e.f.hiHeld (n + 1) with | some h => h.toNat | none => readSr s e.h e.f (n + 1)) else v) →
          ∀ u : State, (if n = 4 then some s else if n < 0x20 then writePart s (partOf e.f.core) n full else writeCtx s e.f.ctx n full) = some u →
          ∃ t g, exec (.wrsr w) s = .next t ∧ FloeAnd e.h (e.after w sh s g) s u t
            ∧ g = { e.f with
                hiHeld := if srIsLo n then Table.erase e.f.hiHeld (n + 1) else e.f.hiHeld
                tepc := if n = 4 then BitVec.ofNat 64 full else e.f.tepc })
      ∧ (n ∈ [0x05, 0x15, 0x17, 0x24, 0x26, 0x2C] → s.isPriv e.f = true → ∃ t, exec (.wrsr w) s = .next t
          ∧ FloeEffect e.h (e.after w sh s { e.f with hiHeld := Table.insert e.f.hiHeld n (BitVec.ofNat 32 v) }) s t)
      ∧ (e.f.levelHandler = false → x.trapBase ≠ 0 →
          (srWritable n = false ∨ srWritable n = true ∧ s.isPriv e.f = true ∧ n = 0x27 ∧ ¬ (4 ≤ v % 32 ∧ v % 32 ≤ 16) →
            ∃ t, exec (.wrsr w) s = .next t ∧ TrapEffect e x.trapBase .illegalOperands false e.exec 0 e.sl.pc Fx.none s t)
          ∧ (srWritable n = true → n ≠ 0 → n ≠ 2 → s.isPriv e.f = false →
            ∃ t, exec (.wrsr w) s = .next t ∧ TrapEffect e x.trapBase .privileged false e.exec 0 e.sl.pc Fx.none s t)))

/-- HALT takes its core out of every placement and begins the save of each of its floes; the core sleeps once they have left (R379). TLBINV drops the
entries its form selects, of the TLBs in its scope, and their descriptors and code, once the floe's stores are performed, and then waits for the accesses
that an entry it dropped has translated; .mig locks a page and holds its floe while the page moves, or returns why not, and returns 0 with the lock gone
once it has moved (R391, R392, R398, R399). PTLOAD installs a table or sets a lease, or returns the first check that failed (R209). CTXCMD reads its
block, journals the command and returns its sequence number (R380). -/
def Obligations.SystemAndPageInstructions : Prop :=
  ∀ (w : FWord) (sh : Shape) (e : Env) (s : State), e.exec ≠ 0 →
    (Issues (.halt w) w sh e s → e.f.resident = true → ∃ t, exec (.halt w) s = .next t ∧ (t.core e.f.core).halted = true ∧ (t.core e.f.core).sleepGt = (s.core e.f.core).sleepGt
      ∧ SameMem s t ∧ t.firn = s.firn ∧ (∀ k f, s.floe? k = some f → f.core = e.f.core → f.resident = true → ∃ g, t.floe? k = some g ∧ g.preempt = true)
      ∧ (Table.sorted s.floes = true → ∀ k f, k ≠ e.h → s.floe? k = some f → f.core ≠ e.f.core → t.floe? k = some f)
      ∧ t.floe? e.h = some (e.after w sh s { e.f with
                              preempt := true, savedGt := if e.f.preempt then e.f.savedGt else s.gt
                              savedStop := if e.f.preempt then e.f.savedStop else s.gatedFor e.f.core }))
    ∧ (∀ a n : Nat, Issues (.tlbinv w) w sh e s → n = w.m.toNat % 4 → n ≠ 3 →
      (if n = 1 then (0, true) else rdOp s e.f 0 w.a (if n = 2 then 1 else 2)) = (a, true) →
      (s.ended (s.storesOf e.h) = true → ∀ (u : State) (g : Floe), s.tlbinv e.f.core e.f.ctx w a = u → u.floe? e.h = some g →
        (∃ t, exec (.tlbinv w) s = .next t ∧ FloeAnd e.h (e.after w sh s (if s.tlbUsers e.f.core e.f.ctx w a = [] then g
          else g.held (.ops (s.tlbUsers e.f.core e.f.ctx w a) .used) s.gt)) u u t)
        ∧ g = { e.f with ibuf := g.ibuf } ∧ SameMem s u ∧ u.firn = s.firn ∧ u.ctxs = s.ctxs
        ∧ (∀ k, inScope w.s.toNat e.f.core k = true → (u.core k).tlb = (s.core k).tlb.filter (fun x => !tlbSelects n e.f.ctx a x) ∧ (u.core k).descCache = [])
        ∧ (∀ k, inScope w.s.toNat e.f.core k = false → u.core k = s.core k)
        ∧ (∀ d, d < 4 → Table.getD u.ms.tlb2 [] d = if w.s.toNat = 5 ∨ d = coreDie e.f.core then (Table.getD s.ms.tlb2 [] d).filter (fun x => !tlbSelects n e.f.ctx a x)
            else Table.getD s.ms.tlb2 [] d))
      ∧ (s.ended (s.storesOf e.h) = false → ∃ t, exec (.tlbinv w) s = .next t
        ∧ FloeAnd e.h (e.after w sh s (e.f.held (.ops (s.storesOf e.h) (.tlbinv w a)) s.gt)) s s t))
    ∧ (∀ (a b : Nat) (u : State) (o : Option Nat) (r : Reg), Issues (.tlbinv w) w sh e s → w.m.toNat % 4 = 3 → rdOp s e.f 0 w.a 2 = (a, true) →
      rdOp s e.f 0 w.b 2 = (b, true) → s.migrateStart e.h e.f a b = (u, o) → sh.d.writes = [r] →
      (∀ st, o = some st → st ∈ [1, 2, 3, 4] ∧ ∃ t, exec (.tlbinv w) s = .next t
        ∧ FloeAnd e.h (e.after w sh s e.f) s (u.wrReg e.f r 0 ⟨BitVec.ofNat 32 st, true⟩) t)
      ∧ (o = none → (∃ m, u.ms.migrations = s.ms.migrations ++ [m] ∧ m.ctx = e.f.ctx ∧ m.floe = e.h ∧ m.va = a ∧ m.new = b ∧ Pte.leaf m.pte = true
            ∧ m.old = Pte.addr m.pte ∧ b % m.size = 0 ∧ (∀ x ∈ s.ms.migrations, x.ea ≠ m.ea))
          ∧ ∃ t, exec (.tlbinv w) s = .next t ∧ FloeAnd e.h (e.after w sh s (e.f.held (.migrate [r]) s.gt)) s u t))
    ∧ (∀ (h : Nat) (f : Floe) (r : Reg), s.floe? h = some f → f.state = .waiting → f.wait = some (.migrate [r]) → s.stopped f = false →
      (s.migrationFree h = false → exec (.conditionMet h) s = .next s)
      ∧ (s.migrationFree h = true → (∃ m ∈ s.ms.migrations, m.floe = h) → (s.ctx? f.ctx).isSome = true →
          ∃ t g, exec (.conditionMet h) s = .next t ∧ t.floe? h = some g ∧ g.state = .ready ∧ g.wait = none
            ∧ t.rdReg f r 0 = ⟨0, true⟩ ∧ t.ms.migrations = s.ms.migrations.filter (fun m => m.floe != h)))
    ∧ (∀ (r : Reg) (b : Nat), Issues (.ptload w) w sh e s → w.m.getLsbD 0 = true → sh.d.writes = [r] → rdOp s e.f 0 w.b 1 = (b, true) →
      ∃ t, exec (.ptload w) s = .next t ∧ FloeAnd e.h (e.after w sh s e.f) s
        (if 4096 < b then s.wrReg e.f r 0 ⟨1, true⟩
         else State.wrReg { s with ms := { s.ms with
           slots := s.ms.slots.set w.c.toNat { s.ms.slots.getD w.c.toNat ⟨0, none⟩ with lease := b } } } e.f r 0 ⟨0, true⟩) t)
    ∧ (∀ (r : Reg) (a : Nat) (bs : List Byte), Issues (.ptload w) w sh e s → w.m.getLsbD 0 = false → sh.d.writes = [r] →
      rdOp s e.f 0 w.a 2 = (a, true) → blockFar s e (BitVec.ofNat 64 a) 256 = [] → readBlock s e (BitVec.ofNat 64 a) 256 256 = .ok bs →
      ∃ t, exec (.ptload w) s = .next t ∧ FloeAnd e.h (e.after w sh s e.f) s
        (if tableStatus (natOf bs) = 0 then (s.installTable w.c.toNat (natOf bs)).wrReg e.f r 0 ⟨0, true⟩
         else s.wrReg e.f r 0 ⟨BitVec.ofNat 32 (tableStatus (natOf bs)), true⟩) t)
    ∧ (∀ (a : Nat) (bs : List Byte) (args : List Dword) (c : Ctx) (t1 : State) (j : JRef), Issues (.ctxcmd w) w sh e s → rdOp s e.f 0 w.a 2 = (a, true) →
      (sh.d.writes = [] ∨ e.f.ld < 1023) → blockFar s e (BitVec.ofNat 64 a) 64 = [] → readBlock s e (BitVec.ofNat 64 a) 64 64 = .ok bs → field (natOf bs) 256 256 = 0 → s.ctx? e.f.ctx = some c →
      args = (List.range 4).map (fun i => BitVec.ofNat 64 (field (natOf bs) (64 * i) 64)) →
      s.jNew (partOf e.f.core) (jHigh 4 (coreSecure s e.f.core) (partOf e.f.core) (cmdQueue w.c.toNat args) 0 Config.deviceId.toNat) 0 0 = (t1, j) →
      ∃ t, exec (.ctxcmd w) s = .next t ∧ t.floe? e.h = some (e.after w sh s e.f) ∧ OtherFloes e.h s t
        ∧ t.ctx? e.f.ctx = some { c with cmds := c.cmds ++ [⟨w.c.toNat, args, j, s.storesOf e.h, none⟩] } ∧ t.ms = t1.ms ∧ t.parts = t1.parts
        ∧ t = { (t1.modCtx e.f.ctx (fun x => { x with cmds := x.cmds ++ [⟨w.c.toNat, args, j, s.storesOf e.h, none⟩] })).wrGroup e.f 0 true sh.d.writes
              (2 ^ 32 * (j.seq % 2 ^ 32)) with floes := t.floes })

/-! ## Commands -/

/-- What a command that its state allows comes to, from CTXCMD or from the host: its effect, then its entry COMPLETED (R312, R314, R315, R326, R359,
R365, R381-R383). A command in a state that does not allow it changes nothing: its entry is FAILED with reason 8 (R315, R381). -/
def Obligations.CommandsPerformedOrRefused : Prop :=
  (
  ∀ (i : Instr) (src : CmdSource) (code ctx inst : Nat) (c : Ctx) (args : List Dword) (j : JRef) (sent : Option Nat) (s s1 u : State),
    CmdPath src code s ctx c args j sent s1 →
    (i = .replay src ∧ code = 0x01 ∧ c.state ≠ .faulted ∧ inst = 0 ∧ arg args 1 ≤ 2 ∧ arg args 2 = 0
        ∧ (∃ h f, Table.search s1.floes (fun _ f => f.ctx == ctx && f.inst == arg args 0 % 2 ^ 32 && f.num == arg args 0 / 2 ^ 32) = some (h, f)
            ∧ f.state = .suspended ∧ u = s1.replayFloe h (arg args 1))
      ∨ i = .save src ∧ code = 0x03 ∧ c.state = .resident ∧ inst = 0 ∧ u = s1.modCtx ctx (fun x => { x with state := .saved })
      ∨ i = .restore src ∧ code = 0x04 ∧ c.state = .saved ∧ inst = 0 ∧ (∀ f ∈ Table.vals s1.floes, f.ctx = ctx → f.state ≠ .saved)
        ∧ (∀ k ∈ Table.vals s1.copies, k.ctx = ctx → k.savedIn = false) ∧ c.savedSlots = []
        ∧ u = s1.modCtx ctx (fun x => { x with state := if (s.instsOf ctx).isEmpty then .resident else .running })
      ∨ i = .kload src ∧ code = 0x06 ∧ inst = 0 ∧ arg args 1 < 4096 ∧ (s1.kernel ctx (arg args 1)).st = .unloaded
        ∧ (∃ x, readImage s1 c ctx (args.getD 0 0) = some x ∧ u = s1.setKernel ctx (arg args 1) x)
      ∨ i = .kplace src ∧ code = 0x07 ∧ inst = 0 ∧ arg args 1 < 4096 ∧ (s1.kernel ctx (arg args 1)).st = .loaded ∧ arg args 2 ≤ 768
        ∧ (∃ (bs : List Byte) (es : List (Nat × Dword)), readVirt s1 (partCore c.home) ctx (coreSecure s1 (partCore c.home)) (args.getD 0 0) (16 * arg args 2) = .ok bs
            ∧ es.length = arg args 2 ∧ (es.map Prod.fst).Nodup
            ∧ (∀ m (hm : m < es.length), field (natOf ((bs.drop (16 * m)).take 16)) 10 54 = 0 ∧ field (natOf ((bs.drop (16 * m)).take 16)) 64 64 % 8 = 0
                ∧ logicalOf s1 (field (natOf ((bs.drop (16 * m)).take 16)) 0 10) = some es[m].1 ∧ coreValid es[m].1 = true
                ∧ c.parts.contains (partOf es[m].1) = true ∧ es[m].2 = BitVec.ofNat 64 (field (natOf ((bs.drop (16 * m)).take 16)) 64 64))
            ∧ u = s1.setKernel ctx (arg args 1) { s1.kernel ctx (arg args 1) with
                st := .placed, prev := .placed, place := es.foldl (fun t x => Table.insert t x.1 x.2) [] })
      ∨ i = .kbind src ∧ code = 0x08 ∧ inst = 0 ∧ arg args 0 < 4096 ∧ (s1.kernel ctx (arg args 0)).st = .placed
        ∧ (∃ q, cmdQueueKey c (arg args 1) = some q
            ∧ u = s1.setKernel ctx (arg args 0) { s1.kernel ctx (arg args 0) with st := .bound, prev := .bound, queue := some q })
      ∨ i = .kunbind src ∧ code = 0x09 ∧ inst = 0 ∧ arg args 0 < 4096 ∧ (s1.kernel ctx (arg args 0)).st = .bound
        ∧ u = s1.setKernel ctx (arg args 0) { s1.kernel ctx (arg args 0) with st := .placed, prev := .placed, queue := none }
      ∨ i = .kunload src ∧ code = 0x0A ∧ inst = 0 ∧ arg args 0 < 4096
        ∧ ((s1.kernel ctx (arg args 0)).st = .active ∧ u = s1.setKernel ctx (arg args 0) { s1.kernel ctx (arg args 0) with st := .draining }
          ∨ (s1.kernel ctx (arg args 0)).st ∈ [.loaded, .placed, .bound] ∧ u = s1.setKernel ctx (arg args 0) Kernel.empty)
      ∨ i = .qenable src ∧ code = 0x0B ∧ inst = 0
        ∧ (∃ key bs q, cmdQueueKey c (arg args 0) = some key ∧ (∀ q, s1.queue? key = some q → q.enabled = false) ∧ (s1.part (key / 4096)).qtBase ≠ 0
            ∧ readVirt s1 (partCore (key / 4096)) ctx (queueSecure s1 key) ((s1.part (key / 4096)).qtBase + BitVec.ofNat 64 (64 * (key % 4096))) 64 = .ok bs
            ∧ parseQueue s1 ctx key (natOf bs) = some q
            ∧ u = { s1.unlistQueue key with
                nextId := s1.nextId + 1
                queues := Table.insert s1.queues key { q with
                  epoch := s1.nextId
                  insts := (Table.keep s1.insts (fun k x => k / 2 ^ 32 == ctx && (match x.queue with | some r => r.key == key | none => false))).length } })
      ∨ i = .qdisable src ∧ code = 0x0C ∧ inst = 0
        ∧ (∃ key, cmdQueueKey c (arg args 0) = some key ∧ u = (s1.unlistQueue key).modQueue key (fun q => { q with enabled := false }))
      ∨ i = .kill src ∧ code = 0x0D ∧ inst = 0 ∧ arg args 0 < 2 ^ 32 ∧ (s1.inst? ctx (arg args 0)).isSome = true ∧ u = s1.killInst ctx (arg args 0)
      ∨ i = .unhalt src ∧ code = 0x0E ∧ inst = 0 ∧ coreValid (arg args 0) = true ∧ c.parts.contains (partOf (arg args 0)) = true
        ∧ (s1.core (arg args 0)).halted = true
        ∧ u = s1.modCore (arg args 0) (fun k => { k with 
            halted := false, sleepGt := none
            l1 := match k.sleepGt with | some g => if g + 2 ^ 19 ≤ s1.coreGt (arg args 0) then [] else k.l1 | none => k.l1 })
      ∨ i = .setsr src ∧ code = 0x12 ∧ inst = 0 ∧ c.state ∈ [.loading, .resident, .running, .saved]
        ∧ arg args 1 / 256 < 16 ∧ (srIsLo (arg args 1 % 256) = true ∨ arg args 2 < 2 ^ 32)
        ∧ (setsrPart (arg args 1 % 256) = true ∧ c.parts.contains (arg args 1 / 256) = true
            ∧ writePart s1 (arg args 1 / 256) (arg args 1 % 256) (arg args 2) = some u
          ∨ setsrPart (arg args 1 % 256) = false ∧ setsrCtx (arg args 1 % 256) = true ∧ writeCtx s1 ctx (arg args 1 % 256) (arg args 2) = some u)
      ∨ i = .hlaunch src ∧ code = 0x13 ∧ c.state ∈ [.resident, .running] ∧ arg args 2 < 4 ∧ (∃ p ∈ c.parts, p / 3 = arg args 2) ∧ arg args 1 % 64 = 0
        ∧ inFirn (args.getD 1 0) = false
        ∧ (∃ bs, readVirt s1 (engineCore s1 ctx (arg args 2)) ctx (coreSecure s1 (engineCore s1 ctx (arg args 2))) (args.getD 1 0) 64 = .ok bs
            ∧ launchOk (s1.kernel ctx (field (natOf bs) 0 12)) (natOf bs) = true
            ∧ s1.createInst ctx (launchReq (natOf bs) (arg args 2) hostSource) = (u, 0, inst))) →
    exec i s = .next (cmdEnd sent j true inst u))
  ∧ (
  ∀ (i : Instr) (src : CmdSource) (code ctx : Nat) (c : Ctx) (args : List Dword) (j : JRef) (sent : Option Nat) (s s1 : State),
    CmdPath src code s ctx c args j sent s1 →
    (i = .rekey src ∧ code = 0x02 ∧ c.state ∉ [.running, .resident]
      ∨ i = .save src ∧ code = 0x03 ∧ c.state ∉ [.running, .resident] ∨ i = .restore src ∧ code = 0x04 ∧ c.state ≠ .saved
      ∨ i = .migrate src ∧ code = 0x05 ∧ c.state ≠ .running
      ∨ i = .kload src ∧ code = 0x06 ∧ (s1.kernel ctx (arg args 1)).st ≠ .unloaded
      ∨ i = .kplace src ∧ code = 0x07 ∧ (s1.kernel ctx (arg args 1)).st ≠ .loaded
      ∨ i = .kbind src ∧ code = 0x08 ∧ (s1.kernel ctx (arg args 0)).st ≠ .placed
      ∨ i = .kunbind src ∧ code = 0x09 ∧ (s1.kernel ctx (arg args 0)).st ≠ .bound
      ∨ i = .kunload src ∧ code = 0x0A ∧ (s1.kernel ctx (arg args 0)).st ∈ [.unloaded, .draining]
      ∨ i = .qenable src ∧ code = 0x0B ∧ (∃ key q, cmdQueueKey c (arg args 0) = some key ∧ s1.queue? key = some q ∧ q.enabled = true)
      ∨ i = .replay src ∧ code = 0x01 ∧ (2 < arg args 1 ∨ 128 < arg args 2 ∨ c.state = .faulted)
      ∨ (i = .kload src ∧ code = 0x06 ∨ i = .kplace src ∧ code = 0x07) ∧ 4096 ≤ arg args 1
      ∨ (i = .kbind src ∧ code = 0x08 ∨ i = .kunbind src ∧ code = 0x09 ∨ i = .kunload src ∧ code = 0x0A) ∧ 4096 ≤ arg args 0
      ∨ (i = .qenable src ∧ code = 0x0B ∨ i = .qdisable src ∧ code = 0x0C) ∧ cmdQueueKey c (arg args 0) = none
      ∨ i = .kill src ∧ code = 0x0D ∧ (2 ^ 32 ≤ arg args 0 ∨ s1.inst? ctx (arg args 0) = none)
      ∨ i = .unhalt src ∧ code = 0x0E ∧ (coreValid (arg args 0) = false ∨ (s1.core (arg args 0)).halted = false)
      ∨ i = .setsr src ∧ code = 0x12 ∧ (c.state ∉ [.loading, .resident, .running, .saved] ∨ 16 ≤ arg args 1 / 256
          ∨ srIsLo (arg args 1 % 256) = false ∧ 2 ^ 32 ≤ arg args 2)
      ∨ i = .hlaunch src ∧ code = 0x13 ∧ (c.state ∉ [.resident, .running] ∨ 4 ≤ arg args 2)) →
    exec i s = .next (cmdEnd sent j false 0 s1))
  ∧ (
  ∀ (i : Instr) (code fn cx ctx : Nat) (a0 a1 a2 a3 : Dword) (c : Ctx) (j : JRef) (s t : State),
    (i, code) ∈ cmdCodes (.host fn cx false a0 a1 a2 a3) → fn ≤ 12 → s.life.boot = .ready →
    hostTarget s code fn cx [a0, a1, a2, a3] = some ctx → s.ctx? ctx = some c → code ≠ 0x11 → (c.busy = true ∨ c.cmds ≠ []) →
    s.jNew (if fn = 0 then c.home else fn - 1) (jHigh 4 false 15 (cmdQueue code [a0, a1, a2, a3]) 0 Config.deviceId.toNat) 0 0 = (t, j) →
    exec i s = .next ((t.hcmd fn 0 0 0 j.seq).modCtx ctx (fun x => { x with cmds := x.cmds ++ [⟨code, [a0, a1, a2, a3], j, [], some fn⟩] })))

/-- Commands that end later, CREATE and DESTROY: REKEY gives the context a new key and every sealed block of the old one to encrypt again; SAVE of a
RUNNING context and MIGRATE begin the save of its floes; CREATE makes the lowest free number a RESIDENT context with the values of R382; DESTROY kills
every floe and discards the keys; REPLAY's three effects on a suspended floe; what a kill leaves (R178, R357, R359, R368, R381, R382, R397). -/
def Obligations.CommandEffects : Prop :=
  (∀ (i : Instr) (src : CmdSource) (code ctx : Nat) (c : Ctx) (args : List Dword) (j : JRef) (sent : Option Nat) (s s1 u : State),
    CmdPath src code s ctx c args j sent s1 →
    (i = .rekey src ∧ code = 0x02 ∧ c.state ∈ [.running, .resident] ∧ (∀ x ∈ args, x = 0) ∧ c.rekeying = none ∧ s1.ms.nextKid + 1 < 2 ^ 20
        ∧ blocksOf s1 c c.keyKid ≠ []
        ∧ u = State.modCtx { s1 with ms := { s1.ms with nextKid := s1.ms.nextKid + 1 } } ctx (fun x => { x with
            keyKid := s1.ms.nextKid + 1, oldKids := [c.keyKid], rekeyLeft := blocksOf s1 c c.keyKid, rekeying := some (j, sent) })
      ∨ i = .save src ∧ code = 0x03 ∧ c.state = .running
        ∧ u = (s1.preemptAll (fun f => f.ctx == ctx)).modCtx ctx (fun x => { x with state := .preempting, pending := some (j, sent) })
      ∨ i = .migrate src ∧ code = 0x05 ∧ c.state = .running ∧ arg args 0 ≠ arg args 1 ∧ coreValid (arg args 0) = true ∧ coreValid (arg args 1) = true
        ∧ c.parts.contains (partOf (arg args 0)) = true ∧ c.parts.contains (partOf (arg args 1)) = true ∧ (s1.core (arg args 1)).halted = false
        ∧ (s1.core (arg args 1)).quarantined = false
        ∧ u = (s1.preemptAll (fun f => f.ctx == ctx && f.core == arg args 0)).modCtx ctx (fun x =>
            { x with state := .migrating, migrate := [(arg args 0, some (arg args 1))], pending := some (j, sent) })) →
    exec i s = .next u)
  ∧ (∀ (src : CmdSource) (ctx : Nat) (c : Ctx) (args : List Dword) (j : JRef) (sent : Option Nat) (s s1 : State), CmdPath src 0x11 s ctx c args j sent s1 →
    ∃ t, exec (.destroy src) s = .next t ∧ t.ctx? ctx ≠ none ∧ (∀ x, t.ctx? ctx = some x → x.state = .destroyed ∧ x.keyKid = 0 ∧ x.oldKids = [] ∧ x.cmds = [])
      ∧ (∀ h f, t.floe? h = some f → f.ctx = ctx → f.state = .retired) ∧ (∀ p ∈ t.ms.pins, p.1 ≠ ctx)
      ∧ (∀ k q, t.queue? k = some q → q.ctx = ctx → q.enabled = false))
  ∧ (∀ (s : State) (a b c d : Dword) (n : Nat), s.life.boot = .ready → a.toNat < 2 ^ 13 → d.toNat < 2 ^ 12 → a.toNat % 2 ^ 12 ≠ 0 →
    (∀ p, p < 12 → a.toNat.testBit p = true → s.ownerOf p = none ∧ partWorld s (a.toNat.testBit 12) p = true) → b.toNat % 4096 = 0 → c.toNat % 4096 = 0 →
    s.ms.nextKid + 1 < 2 ^ 20 → n < 12 → s.ctx? n = none → (∀ m, m < n → s.ctx? m ≠ none) →
    ∃ t x, exec (.create (.host 0 0 false a b c d)) s = .next t ∧ t.ctx? n = some x ∧ x.state = .loading ∧ x.world = a.toNat.testBit 12
      ∧ x.root = b.toNat ∧ x.saveBase = c ∧ x.supk = d.toNat ∧ x.keyKid = s.ms.nextKid + 1 ∧ x.trapBase = 0 ∧ x.fqBase = 0 ∧ x.fqCtl = 0
      ∧ x.quota = 0 ∧ (∀ p, p ∈ x.parts ↔ p < 12 ∧ a.toNat.testBit p = true) ∧ (∀ m, m ≠ n → t.ctx? m = s.ctx? m) ∧ t.floes = s.floes ∧ t.firn = s.firn
      ∧ (∀ p, p ∈ x.parts → t.part p = { Part.fresh with jSeq := (t.part p).jSeq })
      ∧ (∀ k, k < 65536 → (t.event n k).count = 0)
      ∧ (∃ j, x.pending = some (j, some 0) ∧ Table.getD t.hcmdStat 0 0 = BitVec.ofNat 64 (j.seq % 2 ^ 32 * 2 ^ 32)))
  ∧ (∀ (s : State) (ctx : Nat) (c : Ctx) (j : JRef) (fn : Nat), s.ctx? ctx = some c → c.state = .loading → c.pending = some (j, some fn) →
    ∃ t, s.created ctx = t ∧ t.ctx? ctx = some { c with state := .resident, pending := none } ∧ t.floes = s.floes
      ∧ Table.getD t.hcmdStat 0 fn = BitVec.ofNat 64 (2 + ctx * 2 ^ 10 + j.seq % 2 ^ 32 * 2 ^ 32))
  ∧ (∀ (s : State) (h : Nat) (f : Floe) (x : Suspend), s.floe? h = some f → f.susp = some x → x.op = none →
    (∃ t, s.replayFloe h 0 = t ∧ FloeEffect h { f with susp := none, state := .ready, since := s.mck f.core } s t)
    ∧ (∃ g, (s.replayFloe h 1).floe? h = some g ∧ g.state = .retired)
    ∧ (∀ (c : Ctx) (sl : Slot), s.ctx? f.ctx = some c → f.levelHandler = false → c.trapBase ≠ 0 → f.slot x.slot1 = some sl → f.wait = none →
      ∃ g, (s.replayFloe h 2).floe? h = some g ∧ g.state = .ready ∧ g.tepc = x.pc ∧ g.levelHandler = true
        ∧ g.slot x.slot1 = some ⟨c.trapBase, sl.mask, none, none⟩))
  ∧ (∀ (s : State) (ctx inst : Nat) (y : Inst), s.inst? ctx inst = some y →
    (∀ h f, (s.killInst ctx inst).floe? h = some f → f.ctx = ctx → f.inst = inst → f.state = .retired)
    ∧ (∃ z, (s.killInst ctx inst).inst? ctx inst = some z ∧ z.killed = true))

/-! ## Saving and restoring, time, the page -/

/-- A drained floe is saved with its registers and leaves its firn; a restored one has the state and the registers it was saved with; the ends of SAVE
and MIGRATE; SCRUBBED leaves nothing of a DESTROYED context in its cores; RLD replies are given up after 100 µs; the fault queue takes the oldest
record and raises the interrupt (R359, R365-R368, R372). -/
def Obligations.ContextsAndSaves : Prop :=
  (∀ (s : State) (h : Nat) (f : Floe), s.floe? h = some f → s.stopped f = false → drained s h f = true → s.moving f = true ∨ saveFault s f.ctx = none →
    s.heldMx h f.core = none →
    ∃ t g, exec (.floeSaved h) s = .next t ∧ t.floe? h = some g ∧ g.state = .saved ∧ g.savedFrom = f.state ∧ g.s0 = f.s0 ∧ g.s1 = f.s1
      ∧ g.stack = f.stack ∧ g.wait = f.wait ∧ g.susp = f.susp ∧ g.preempt = false ∧ OtherFloes h s t ∧ t.ms = s.ms
      ∧ (∀ k, k < f.regWords → Table.getD g.savedRegs FirnWord.empty k = s.firnAt f.core (f.rbase / 4 + k)
          ∧ t.firnAt f.core (f.rbase / 4 + k) = FirnWord.empty)
      ∧ (Table.sorted s.floes = true → (s.core f.core).halted = true → (s.core f.core).sleepGt = none →
          (∀ k x, s.floe? k = some x → x.core = f.core → x.resident = true → k = h) → (t.core f.core).sleepGt = some (s.coreGt f.core)))
  ∧ (∀ (s : State) (h core : Nat) (f : Floe) (t : State), s.floe? h = some f → mayRestore s f core = true → s.settleAll.restoreUnit h f core = some t →
    exec (.floeRestore h core) s = .next t
    ∧ (f.replayMark = none → f.savedMx = none → (∀ c ∈ Table.vals s.copies, c.floe = h → c.savedIn = false) →
      (Table.search s.floes (fun _ g => g.inGroup f.ctx f.inst f.core && g.resident)).isSome = true → 
      (∀ i, s.settleAll.inst? f.ctx f.inst = some i → Table.find? i.savedScratch f.core = none) → (Table.keys f.savedRegs).Nodup → f.core = core
        ∧ ∃ g, t.floe? h = some g ∧ g.state = f.savedFrom ∧ g.core = core ∧ g.s0 = f.s0 ∧ g.s1 = f.s1 ∧ g.wait = f.wait
          ∧ ∀ k, k < f.regWords → t.firnAt core (g.rbase / 4 + k) = Table.getD f.savedRegs FirnWord.empty k))
  ∧ (∀ (s : State) (h : Nat) (f : Floe) (c : Ctx) (gt0 core : Nat) (u : State), s.floe? h = some f → f.state = .saved → f.startGt = some gt0 →
    s.ctx? f.ctx = some c → c.state = .running → (f.savedFrom ≠ .suspended ∨ f.replayMark ≠ none) → placeCores s f.ctx (s.kernel f.ctx f.kernel) ≠ [] →
    f.savedGt + (s.part (partOf f.core)).restoreLimit * 500 + (s.gatedFor f.core - f.savedStop) ≤ s.gt → restoreCores s.settleAll f = [core] →
    s.settleAll.restoreUnit h f core = some u →
    ∃ t, exec (.deadlineRestore h) s = .next t ∧ { t with floes := u.floes } = u
      ∧ (∀ g, u.floe? h = some g → g.resident = true → t.floe? h = some { g with restoredGt := some s.gt }))
  ∧ (∀ (s : State) (ctx : Nat) (c : Ctx), s.ctx? ctx = some c →
    (c.state = .preempting → allSaved s ctx = false → exec (.contextSaved ctx) s = .next s)
    ∧ (c.state = .preempting → allSaved s ctx = true → ∃ t x, exec (.contextSaved ctx) s = .next t ∧ t.ctx? ctx = some x ∧ x.state = .saved
        ∧ x.pending = none ∧ t.floes = s.floes)
    ∧ (∀ p q, c.migrate = [(p, q)] → c.state = .migrating → (∀ f ∈ Table.vals s.floes, f.ctx = ctx → f.core = p → f.state = .retired) →
        (∀ o ∈ Table.vals s.ops, o.ctx = ctx → o.core = p → o.writes = false) →
        ∃ t x, exec (.migrationFlushAck ctx) s = .next t ∧ t.ctx? ctx = some x ∧ x.migrate = [] ∧ x.pending = none
          ∧ x.state = (if (s.instsOf ctx).isEmpty then .resident else .running) ∧ (∀ en ∈ (t.core p).tlb, en.tag ≠ c.tag)
          ∧ (∀ l ∈ Table.vals (t.core p).l1, l.tag ≠ c.tag)))
  ∧ (∀ (s : State) (ctx : Nat) (c : Ctx), s.ctx? ctx = some c → c.state = .destroyed →
    ∃ t, exec (.scrubbed ctx) s = .next t ∧ t.ctx? ctx = none ∧ SameMem s t ∧ (∀ k f, t.floe? k = some f → f.ctx ≠ ctx)
      ∧ (∀ core word, word < firnWords → c.parts.contains (partOf core) = true → t.firnAt core word = FirnWord.empty)
      ∧ (∀ core word, word < firnWords → c.parts.contains (partOf core) = false → t.firnAt core word = s.firnAt core word)
      ∧ (∀ core, ∀ en ∈ (t.core core).tlb, en.tag ≠ c.tag) ∧ (∀ die, ∀ en ∈ Table.getD t.ms.tlb2 [] die, en.tag ≠ c.tag))
  ∧ (∀ (s : State) (id : Nat) (o : Op) (f : Floe), Table.find? s.ops id = some o → s.floe? o.floe = some f → f.preempt = true →
    f.savedGt + 100000 ≤ s.gt → o.info = rldMark → o.state = .inFlight → (∃ r ∈ s.net.reqs, r.op = id) →
    exec (.saveRldTimeout id) s = .next { s with ops := Table.insert s.ops id { o with failed := true } })
  ∧ (∀ (s u : State) (ctx : Nat) (c : Ctx) (r : FaultRec) (rest : List FaultRec), s.ctx? ctx = some c → c.faultRecs = r :: rest → c.fqBase ≠ 0 →
    4 ≤ c.fqCtl.toNat % 32 → c.fqCtl.toNat % 32 ≤ 16 → c.fqStuck = false → (c.fqTail - c.fqHead).toNat < 2 ^ (c.fqCtl.toNat % 32) →
    writeFree s (partCore c.home) ctx (coreSecure s (partCore c.home)) (c.fqBase + BitVec.ofNat 64 (64 * (c.fqTail.toNat % 2 ^ (c.fqCtl.toNat % 32)))) 64 = true →
    writeVirt s (partCore c.home) ctx (coreSecure s (partCore c.home))
      (c.fqBase + BitVec.ofNat 64 (64 * (c.fqTail.toNat % 2 ^ (c.fqCtl.toNat % 32)))) r.bytes = .ok u →
    ∃ t x, exec (.faultRecordPost ctx) s = .next t ∧ t.ms = u.ms ∧ t.ctx? ctx = some x ∧ x.faultRecs = rest ∧ x.fqTail = c.fqTail + 1
      ∧ c.home + 1 ∈ t.irqs ∧ t.floes = s.floes)

/-- A floe WAITING for WDOG·1,024 gt takes WATCHDOG at the instruction that holds it, and no floe does under WDOG 0 (R369); a core's GT copy never
steps back (R21). PAGE_WALK puts a leaf in the TLBs of the core and its die, SEAL_FILL encrypts a block again that a REKEY has left (R389, R397); a
scrub's uncorrectable error poisons a sector or empties a firn word, and its counts are those of the die (R430). -/
def Obligations.TimePageAndScrub : Prop :=
  (∀ (s : State) (h : Nat) (f : Floe), s.floe? h = some f →
    ((s.part (partOf f.core)).wdog = 0 → exec (.watchdog h) s = .next s)
    ∧ (∀ (c : Ctx) (sl : Slot) (d : Nat), (s.part (partOf f.core)).wdog ≠ 0 → f.state = .waiting → f.wait = some (.sleep d) → s.stopped f = false →
      f.waitSince + (s.part (partOf f.core)).wdog.toNat * 1024 ≤ s.gt → f.slot f.waitSlot1 = some sl → s.ctx? f.ctx = some c →
      f.levelHandler = false → c.trapBase ≠ 0 →
      ∃ t, exec (.watchdog h) s = .next t
        ∧ t.floe? h = some (handlerEntry f f.waitSlot1 c.trapBase sl.pc sl.pc { cause := .watchdog, lanes := f.waitExec }) ∧ OtherFloes h s t
        ∧ SameMem s t ∧ t.firn = s.firn))
  ∧ (∀ (s : State) (core : Nat) (target : Int), coreValid core = true → -1 ≤ target → target ≤ 1 →
    s.gt + 1 < 2 ^ 64 → (s.core core).gtOff ≤ 1 → (s.core core).gtHold < 2 ^ 64 →
    ∃ t, exec (.gtCorrection core target) s = .next t ∧ (t.core core).gtOff = target ∧ s.coreGt core ≤ t.coreGt core
      ∧ (∀ k, k ≠ core → t.core k = s.core k) ∧ { t with cores := s.cores } = s)
  ∧ (∀ (s : State) (core ctx : Nat) (va : Dword) (c : Ctx) (p : Pte) (level : Nat), s.ctx? ctx = some c → coreValid core = true → va.toNat < 2 ^ 56 →
    walk s c (coreSecure s core) va.toNat = .ok (p, level) →
    ∃ t e, exec (.pageWalk core ctx va) s = .next t ∧ e ∈ (t.core core).tlb ∧ e ∈ Table.getD t.ms.tlb2 [] (coreDie core) ∧ e.pte = p
      ∧ e.ctx = ctx ∧ e.tag = c.tag ∧ e.pbase = p.addr ∧ e.size = 2 ^ levelShift level ∧ e.vbase = va.toNat / 2 ^ levelShift level * 2 ^ levelShift level
      ∧ SameMem s t ∧ { t with cores := s.cores, ms := { t.ms with tlb2 := s.ms.tlb2 } } = s)
  ∧ (∀ (s : State) (ctx block : Nat) (c : Ctx), s.ctx? ctx = some c → paExists (4096 * block) = true →
    block ∈ c.rekeyLeft → c.oldKids.contains (s.sealMeta block).kid = true → (s.sealMeta block).kid ≠ 0 → (s.sealMeta block).status = 0 →
    (∃ x ∈ c.rekeyLeft, x ≠ block) → Table.getD s.ms.sealHeld false block = false →
    ∃ t x, exec (.sealFill ctx block) s = .next t ∧ t.sealMeta block = ⟨0, c.keyKid, 0⟩ ∧ (∀ k, k ≠ block → t.sealMeta k = s.sealMeta k)
      ∧ SameMem s t ∧ t.ctx? ctx = some x ∧ x = { c with rekeyLeft := c.rekeyLeft.filter (· != block) })
  ∧ (∀ (s : State) (pa die core word : Nat) (v : Word), v = Table.getD s.life.counts 0 (0x30 + 4 * homeDie pa) →
    (paExists pa = true → exec (.patrolScrub (.sector pa) true) s = .next s
      ∧ ∃ t, exec (.patrolScrub (.sector pa) false) s = .next t ∧ Table.getD t.ms.poison false (pa / 32) = true ∧ SameMem s t
        ∧ Table.getD t.life.counts 0 (0x30 + 4 * homeDie pa) = satInc v)
    ∧ (coreValid core = true → word < firnWords → ∃ t, exec (.patrolScrub (.firn core word) false) s = .next t ∧ t.firnAt core word = ⟨0, false⟩
        ∧ (∀ k, k < firnWords → k ≠ word → t.firnAt core k = s.firnAt core k)
        ∧ Table.getD t.life.counts 0 (0x30 + 4 * coreDie core) = satInc (Table.getD s.life.counts 0 (0x30 + 4 * coreDie core)))
    ∧ (paExists pa = true → die < 4 → ∃ t, exec (.patrolScrub (.l2 die pa) true) s = .next t ∧ { t with life := s.life } = s
        ∧ Table.getD t.life.counts 0 (0x20 + 4 * die) = satInc (Table.getD s.life.counts 0 (0x20 + 4 * die))))

/-! ## Device life -/

/-- The boot states and the events that leave each (R423, R424, R426); every other event of boot in them changes nothing. Locked registers keep their
values and count each write (R424); attestation reports carry the nonce, the image and the locks as measured (R426, R427); a restart of the firmware
changes nothing else (R428); MBHEAD never passes MBTAIL (R432); power and temperature limits lower every cluster, lift after 1 ms, and 125 °C ends
power (R433, R434); loss of power leaves memory's bytes and breaks every seal (R396); a host write of PLIMIT (R431). -/
def Obligations.BootAndLife : Prop :=
  (
  ∀ (s : State) (d : BitVec 256) (v value : Word) (locks : LockSet) (ok : Bool),
    (∃ t, exec .powerOnReset s = .next t ∧ t.life = State.reset.life ∧ t.floes = [] ∧ t.ctxs = State.reset.ctxs ∧ t.firn = [] ∧ SameMem s t)
    ∧ (s.life.boot = .rom → s.life.powered = true →
      exec (.imageRead true d v) s = .next { s with life := { s.life with boot := .verify, fromFlash := true, digest := d, svn := v } }
      ∧ exec (.imageRead false d v) s = .next { s with life := { s.life with boot := .recovery } })
    ∧ (s.life.boot ≠ .rom → exec (.imageRead ok d v) s = .next s)
    ∧ (s.life.boot = .verify → exec (.verifyResult true) s = .next { s with life := { s.life with boot := .init } }
      ∧ (s.life.failures = 0 → exec (.verifyResult false) s = .next { s with life := { s.life with boot := .recovery, failures := 1 } })
      ∧ (s.life.failures ≠ 0 → exec (.verifyResult false) s = .next { s with life := { s.life with boot := .failed, failures := s.life.failures + 1 } }))
    ∧ (s.life.boot ≠ .verify → exec (.verifyResult ok) s = .next s)
    ∧ (s.life.boot = .recovery → exec (.bootcmd 1) s = .next { s with life := { s.life with
        boot := .verify, fromFlash := false, digest := (Config.recoveryImage s.life.window).1, svn := (Config.recoveryImage s.life.window).2 } })
    ∧ (s.life.boot ≠ .recovery ∨ value ≠ 1 → exec (.bootcmd value) s = .next s)
    ∧ (s.life.boot = .init → exec (.initDone false locks) s = .next { s with life := { s.life with boot := .failed } }
      ∧ ∃ l, exec (.initDone true locks) s = .next { s with life := l } ∧ l.boot = .ready ∧ l.locked = true ∧ l.saPort = locks.saPort &&& 0xFFFFFF
        ∧ l.regions = locks.regions.take 64 ∧ l.digest = s.life.digest
        ∧ (∀ m ∈ l.repairMap, m.extractLsb' 1664 384 = 0 ∧ ∀ i, i < 208 → m.extractLsb' (8 * i + 5) 3 = 0)
        ∧ (∀ x ∈ l.saCore ++ l.saMover, x.extractLsb' 208 48 = 0))
    ∧ (s.life.boot ≠ .init → exec (.initDone ok locks) s = .next s))
  ∧ (
  ∀ (s : State) (off : Nat) (x : Dword) (value : Word) (tmax : BitVec 8) (pwr : BitVec 12) (b : Bool),
    (lockedOffset off = true → s.life.locked = true →
      exec (.lockedRegisterWrite off x) s = .next { s with life := { s.life with lockViol := satInc s.life.lockViol } })
    ∧ (lockedOffset off = false ∨ s.life.locked = false → exec (.lockedRegisterWrite off x) s = .next s)
    ∧ (s.life.boot = .ready → value.getLsbD 0 = true →
      (s.life.attPend.isSome = true ∨ s.life.restarting = true → exec (.attcmd value) s = .next { s with life := { s.life with attStat := 2 } })
      ∧ (s.life.attPend = none → s.life.restarting = false →
          exec (.attcmd value) s = .next { s with life := { s.life with attStat := 0, attPend := some s.life.attNonce } }))
    ∧ (∀ n, s.life.attPend = some n → s.life.restarting = false → ∃ r : BitVec 4096, exec .attestationReportReady s = .next { s with life := { s.life with
        attRep := some r, attStat := 1, attPend := none } }
      ∧ r.extractLsb' 0 256 = n ∧ r.extractLsb' 288 256 = s.life.digest ∧ r.extractLsb' 544 32 = s.life.svn
      ∧ r.extractLsb' 576 256 = BitVec.ofNat 256 (natOf (sha256 (lockBytes s.life))))
    ∧ (s.life.boot = .ready → exec (.firmwareWatchdog b) s = .next { s with life := { s.life with restarting := !b } })
    ∧ (s.life.boot ≠ .failed → s.life.powered = true →
      ((value - s.life.mbHead).toNat ≤ (s.life.mbTail - s.life.mbHead).toNat →
        exec (.mbheadWrite value) s = .next { s with life := { s.life with mbHead := value } })
      ∧ ((s.life.mbTail - s.life.mbHead).toNat < (value - s.life.mbHead).toNat → exec (.mbheadWrite value) s = .next s))
    ∧ (s.life.powered = true →
      (overLimit s tmax pwr = true → ∃ t, exec (.throttleStep tmax pwr) s = .next t ∧ t.life.throt = true ∧ t.life.tmax = tmax ∧ t.life.pwr = pwr
        ∧ (∀ k ∈ allClusters, 780 < Table.getD s.clk 940 k → Table.getD t.clk 940 k = Table.getD s.clk 940 k - 20)
        ∧ (∀ k ∈ allClusters, Table.getD s.clk 940 k ≤ 780 → Table.getD t.clk 940 k = Table.getD s.clk 940 k ∧ Table.getD t.gated false k = true)
        ∧ (∀ k, (t.paceNow k).mck = (s.paceNow k).mck ∧ (t.paceNow k).stop = (s.paceNow k).stop) ∧ t.floes = s.floes ∧ SameMem s t)
      ∧ (overLimit s tmax pwr = false → ∃ l, exec (.throttleStep tmax pwr) s = .next { s with life := l } ∧ l.throt = s.life.throt ∧ l.tmax = tmax
        ∧ l.pwr = pwr))
    ∧ (∀ t0, s.life.clearSince = some t0 → t0 + 1000000 ≤ s.gt → overLimit s tmax pwr = false →
      ∃ t, exec (.throttleClear tmax pwr) s = .next t ∧ t.life = { s.life with tmax := tmax, pwr := pwr, throt := false, gate := false }
        ∧ (∀ k, Table.getD t.gated false k = false ∧ Table.getD t.clk 940 k = Table.getD s.clk 940 k
            ∧ (t.paceNow k).mck = (s.paceNow k).mck ∧ (t.paceNow k).stop = (s.paceNow k).stop)
        ∧ { t with pace := s.pace, clk := s.clk, gated := s.gated, life := s.life } = s)
    ∧ (125 ≤ tmax.toNat → s.life.powered = true → ∃ t, exec (.overtempShutdown tmax) s = .next t ∧ t.life.powered = false ∧ t.floes = [])
    ∧ (tmax.toNat < 125 → exec (.overtempShutdown tmax) s = .next s)
    ∧ (∃ t, exec .powerLoss s = .next t ∧ t.life.powered = false ∧ t.floes = [] ∧ t.firn = [] ∧ SameMem s t
      ∧ ∀ k, (s.sealMeta k).kid ≠ 0 → (t.sealMeta k).status ≠ 0)
    ∧ (s.life.boot ≠ .failed → s.life.powered = true → ∀ v : BitVec 512, 1000 ≤ v.toNat → v.toNat < 2 ^ 32 →
      ∃ t, exec (.barRegisterWrite 0x800108 4 v) s = .next t ∧ t.life.plimit = (if 3800 < v.toNat then 3800 else BitVec.ofNat 32 v.toNat)
        ∧ { t with life := s.life, fresh := s.fresh } = s))
end

