-- ==== Sys2Proof/Laws/State.lean ====
section
/-! SUPPORT. What each update of the state leaves alone: one lemma for each field and each update, so that no proof unfolds one. -/

namespace Sys2Proof.Machine

/-! ### `State.setCore` changes `cores` alone -/

@[simp] theorem State.setCore_turns (s : State) (c : Nat) (k : Core) : (s.setCore c k).turns = s.turns := rfl
@[simp] theorem State.setCore_cur (s : State) (c : Nat) (k : Core) : (s.setCore c k).cur = s.cur := rfl
@[simp] theorem State.setCore_fresh (s : State) (c : Nat) (k : Core) : (s.setCore c k).fresh = s.fresh := rfl
@[simp] theorem State.setCore_nextId (s : State) (c : Nat) (k : Core) : (s.setCore c k).nextId = s.nextId := rfl
@[simp] theorem State.setCore_gt (s : State) (c : Nat) (k : Core) : (s.setCore c k).gt = s.gt := rfl
@[simp] theorem State.setCore_clk (s : State) (c : Nat) (k : Core) : (s.setCore c k).clk = s.clk := rfl
@[simp] theorem State.setCore_gated (s : State) (c : Nat) (k : Core) : (s.setCore c k).gated = s.gated := rfl
@[simp] theorem State.setCore_pace (s : State) (c : Nat) (k : Core) : (s.setCore c k).pace = s.pace := rfl
@[simp] theorem State.setCore_firn (s : State) (c : Nat) (k : Core) : (s.setCore c k).firn = s.firn := rfl
@[simp] theorem State.setCore_ms (s : State) (c : Nat) (k : Core) : (s.setCore c k).ms = s.ms := rfl
@[simp] theorem State.setCore_floes (s : State) (c : Nat) (k : Core) : (s.setCore c k).floes = s.floes := rfl
@[simp] theorem State.setCore_mx (s : State) (c : Nat) (k : Core) : (s.setCore c k).mx = s.mx := rfl
@[simp] theorem State.setCore_kernels (s : State) (c : Nat) (k : Core) : (s.setCore c k).kernels = s.kernels := rfl
@[simp] theorem State.setCore_insts (s : State) (c : Nat) (k : Core) : (s.setCore c k).insts = s.insts := rfl
@[simp] theorem State.setCore_engines (s : State) (c : Nat) (k : Core) : (s.setCore c k).engines = s.engines := rfl
@[simp] theorem State.setCore_events (s : State) (c : Nat) (k : Core) : (s.setCore c k).events = s.events := rfl
@[simp] theorem State.setCore_colours (s : State) (c : Nat) (k : Core) : (s.setCore c k).colours = s.colours := rfl
@[simp] theorem State.setCore_queues (s : State) (c : Nat) (k : Core) : (s.setCore c k).queues = s.queues := rfl
@[simp] theorem State.setCore_enqs (s : State) (c : Nat) (k : Core) : (s.setCore c k).enqs = s.enqs := rfl
@[simp] theorem State.setCore_colls (s : State) (c : Nat) (k : Core) : (s.setCore c k).colls = s.colls := rfl
@[simp] theorem State.setCore_clkDue (s : State) (c : Nat) (k : Core) : (s.setCore c k).clkDue = s.clkDue := rfl
@[simp] theorem State.setCore_jOut (s : State) (c : Nat) (k : Core) : (s.setCore c k).jOut = s.jOut := rfl
@[simp] theorem State.setCore_ops (s : State) (c : Nat) (k : Core) : (s.setCore c k).ops = s.ops := rfl
@[simp] theorem State.setCore_copies (s : State) (c : Nat) (k : Core) : (s.setCore c k).copies = s.copies := rfl
@[simp] theorem State.setCore_ctxs (s : State) (c : Nat) (k : Core) : (s.setCore c k).ctxs = s.ctxs := rfl
@[simp] theorem State.setCore_parts (s : State) (c : Nat) (k : Core) : (s.setCore c k).parts = s.parts := rfl
@[simp] theorem State.setCore_hcmdStat (s : State) (c : Nat) (k : Core) : (s.setCore c k).hcmdStat = s.hcmdStat := rfl
@[simp] theorem State.setCore_irqs (s : State) (c : Nat) (k : Core) : (s.setCore c k).irqs = s.irqs := rfl
@[simp] theorem State.setCore_life (s : State) (c : Nat) (k : Core) : (s.setCore c k).life = s.life := rfl
@[simp] theorem State.setCore_net (s : State) (c : Nat) (k : Core) : (s.setCore c k).net = s.net := rfl

/-! ### `State.modCore` changes `cores` alone -/

@[simp] theorem State.modCore_turns (s : State) (c : Nat) (g : Core → Core) : (s.modCore c g).turns = s.turns := rfl
@[simp] theorem State.modCore_cur (s : State) (c : Nat) (g : Core → Core) : (s.modCore c g).cur = s.cur := rfl
@[simp] theorem State.modCore_fresh (s : State) (c : Nat) (g : Core → Core) : (s.modCore c g).fresh = s.fresh := rfl
@[simp] theorem State.modCore_nextId (s : State) (c : Nat) (g : Core → Core) : (s.modCore c g).nextId = s.nextId := rfl
@[simp] theorem State.modCore_gt (s : State) (c : Nat) (g : Core → Core) : (s.modCore c g).gt = s.gt := rfl
@[simp] theorem State.modCore_clk (s : State) (c : Nat) (g : Core → Core) : (s.modCore c g).clk = s.clk := rfl
@[simp] theorem State.modCore_gated (s : State) (c : Nat) (g : Core → Core) : (s.modCore c g).gated = s.gated := rfl
@[simp] theorem State.modCore_pace (s : State) (c : Nat) (g : Core → Core) : (s.modCore c g).pace = s.pace := rfl
@[simp] theorem State.modCore_firn (s : State) (c : Nat) (g : Core → Core) : (s.modCore c g).firn = s.firn := rfl
@[simp] theorem State.modCore_ms (s : State) (c : Nat) (g : Core → Core) : (s.modCore c g).ms = s.ms := rfl
@[simp] theorem State.modCore_floes (s : State) (c : Nat) (g : Core → Core) : (s.modCore c g).floes = s.floes := rfl
@[simp] theorem State.modCore_mx (s : State) (c : Nat) (g : Core → Core) : (s.modCore c g).mx = s.mx := rfl
@[simp] theorem State.modCore_kernels (s : State) (c : Nat) (g : Core → Core) : (s.modCore c g).kernels = s.kernels := rfl
@[simp] theorem State.modCore_insts (s : State) (c : Nat) (g : Core → Core) : (s.modCore c g).insts = s.insts := rfl
@[simp] theorem State.modCore_engines (s : State) (c : Nat) (g : Core → Core) : (s.modCore c g).engines = s.engines := rfl
@[simp] theorem State.modCore_events (s : State) (c : Nat) (g : Core → Core) : (s.modCore c g).events = s.events := rfl
@[simp] theorem State.modCore_colours (s : State) (c : Nat) (g : Core → Core) : (s.modCore c g).colours = s.colours := rfl
@[simp] theorem State.modCore_queues (s : State) (c : Nat) (g : Core → Core) : (s.modCore c g).queues = s.queues := rfl
@[simp] theorem State.modCore_enqs (s : State) (c : Nat) (g : Core → Core) : (s.modCore c g).enqs = s.enqs := rfl
@[simp] theorem State.modCore_colls (s : State) (c : Nat) (g : Core → Core) : (s.modCore c g).colls = s.colls := rfl
@[simp] theorem State.modCore_clkDue (s : State) (c : Nat) (g : Core → Core) : (s.modCore c g).clkDue = s.clkDue := rfl
@[simp] theorem State.modCore_jOut (s : State) (c : Nat) (g : Core → Core) : (s.modCore c g).jOut = s.jOut := rfl
@[simp] theorem State.modCore_ops (s : State) (c : Nat) (g : Core → Core) : (s.modCore c g).ops = s.ops := rfl
@[simp] theorem State.modCore_copies (s : State) (c : Nat) (g : Core → Core) : (s.modCore c g).copies = s.copies := rfl
@[simp] theorem State.modCore_ctxs (s : State) (c : Nat) (g : Core → Core) : (s.modCore c g).ctxs = s.ctxs := rfl
@[simp] theorem State.modCore_parts (s : State) (c : Nat) (g : Core → Core) : (s.modCore c g).parts = s.parts := rfl
@[simp] theorem State.modCore_hcmdStat (s : State) (c : Nat) (g : Core → Core) : (s.modCore c g).hcmdStat = s.hcmdStat := rfl
@[simp] theorem State.modCore_irqs (s : State) (c : Nat) (g : Core → Core) : (s.modCore c g).irqs = s.irqs := rfl
@[simp] theorem State.modCore_life (s : State) (c : Nat) (g : Core → Core) : (s.modCore c g).life = s.life := rfl
@[simp] theorem State.modCore_net (s : State) (c : Nat) (g : Core → Core) : (s.modCore c g).net = s.net := rfl

/-! ### `State.setFloe` changes `floes` alone -/

@[simp] theorem State.setFloe_turns (s : State) (h : Nat) (f : Floe) : (s.setFloe h f).turns = s.turns := rfl
@[simp] theorem State.setFloe_cur (s : State) (h : Nat) (f : Floe) : (s.setFloe h f).cur = s.cur := rfl
@[simp] theorem State.setFloe_fresh (s : State) (h : Nat) (f : Floe) : (s.setFloe h f).fresh = s.fresh := rfl
@[simp] theorem State.setFloe_nextId (s : State) (h : Nat) (f : Floe) : (s.setFloe h f).nextId = s.nextId := rfl
@[simp] theorem State.setFloe_gt (s : State) (h : Nat) (f : Floe) : (s.setFloe h f).gt = s.gt := rfl
@[simp] theorem State.setFloe_clk (s : State) (h : Nat) (f : Floe) : (s.setFloe h f).clk = s.clk := rfl
@[simp] theorem State.setFloe_gated (s : State) (h : Nat) (f : Floe) : (s.setFloe h f).gated = s.gated := rfl
@[simp] theorem State.setFloe_pace (s : State) (h : Nat) (f : Floe) : (s.setFloe h f).pace = s.pace := rfl
@[simp] theorem State.setFloe_firn (s : State) (h : Nat) (f : Floe) : (s.setFloe h f).firn = s.firn := rfl
@[simp] theorem State.setFloe_ms (s : State) (h : Nat) (f : Floe) : (s.setFloe h f).ms = s.ms := rfl
@[simp] theorem State.setFloe_cores (s : State) (h : Nat) (f : Floe) : (s.setFloe h f).cores = s.cores := rfl
@[simp] theorem State.setFloe_mx (s : State) (h : Nat) (f : Floe) : (s.setFloe h f).mx = s.mx := rfl
@[simp] theorem State.setFloe_kernels (s : State) (h : Nat) (f : Floe) : (s.setFloe h f).kernels = s.kernels := rfl
@[simp] theorem State.setFloe_insts (s : State) (h : Nat) (f : Floe) : (s.setFloe h f).insts = s.insts := rfl
@[simp] theorem State.setFloe_engines (s : State) (h : Nat) (f : Floe) : (s.setFloe h f).engines = s.engines := rfl
@[simp] theorem State.setFloe_events (s : State) (h : Nat) (f : Floe) : (s.setFloe h f).events = s.events := rfl
@[simp] theorem State.setFloe_colours (s : State) (h : Nat) (f : Floe) : (s.setFloe h f).colours = s.colours := rfl
@[simp] theorem State.setFloe_queues (s : State) (h : Nat) (f : Floe) : (s.setFloe h f).queues = s.queues := rfl
@[simp] theorem State.setFloe_enqs (s : State) (h : Nat) (f : Floe) : (s.setFloe h f).enqs = s.enqs := rfl
@[simp] theorem State.setFloe_colls (s : State) (h : Nat) (f : Floe) : (s.setFloe h f).colls = s.colls := rfl
@[simp] theorem State.setFloe_clkDue (s : State) (h : Nat) (f : Floe) : (s.setFloe h f).clkDue = s.clkDue := rfl
@[simp] theorem State.setFloe_jOut (s : State) (h : Nat) (f : Floe) : (s.setFloe h f).jOut = s.jOut := rfl
@[simp] theorem State.setFloe_ops (s : State) (h : Nat) (f : Floe) : (s.setFloe h f).ops = s.ops := rfl
@[simp] theorem State.setFloe_copies (s : State) (h : Nat) (f : Floe) : (s.setFloe h f).copies = s.copies := rfl
@[simp] theorem State.setFloe_ctxs (s : State) (h : Nat) (f : Floe) : (s.setFloe h f).ctxs = s.ctxs := rfl
@[simp] theorem State.setFloe_parts (s : State) (h : Nat) (f : Floe) : (s.setFloe h f).parts = s.parts := rfl
@[simp] theorem State.setFloe_hcmdStat (s : State) (h : Nat) (f : Floe) : (s.setFloe h f).hcmdStat = s.hcmdStat := rfl
@[simp] theorem State.setFloe_irqs (s : State) (h : Nat) (f : Floe) : (s.setFloe h f).irqs = s.irqs := rfl
@[simp] theorem State.setFloe_life (s : State) (h : Nat) (f : Floe) : (s.setFloe h f).life = s.life := rfl
@[simp] theorem State.setFloe_net (s : State) (h : Nat) (f : Floe) : (s.setFloe h f).net = s.net := rfl

/-! ### `State.setCtx` changes `ctxs` alone -/

@[simp] theorem State.setCtx_turns (s : State) (c : Nat) (x : Ctx) : (s.setCtx c x).turns = s.turns := rfl
@[simp] theorem State.setCtx_cur (s : State) (c : Nat) (x : Ctx) : (s.setCtx c x).cur = s.cur := rfl
@[simp] theorem State.setCtx_fresh (s : State) (c : Nat) (x : Ctx) : (s.setCtx c x).fresh = s.fresh := rfl
@[simp] theorem State.setCtx_nextId (s : State) (c : Nat) (x : Ctx) : (s.setCtx c x).nextId = s.nextId := rfl
@[simp] theorem State.setCtx_gt (s : State) (c : Nat) (x : Ctx) : (s.setCtx c x).gt = s.gt := rfl
@[simp] theorem State.setCtx_clk (s : State) (c : Nat) (x : Ctx) : (s.setCtx c x).clk = s.clk := rfl
@[simp] theorem State.setCtx_gated (s : State) (c : Nat) (x : Ctx) : (s.setCtx c x).gated = s.gated := rfl
@[simp] theorem State.setCtx_pace (s : State) (c : Nat) (x : Ctx) : (s.setCtx c x).pace = s.pace := rfl
@[simp] theorem State.setCtx_firn (s : State) (c : Nat) (x : Ctx) : (s.setCtx c x).firn = s.firn := rfl
@[simp] theorem State.setCtx_ms (s : State) (c : Nat) (x : Ctx) : (s.setCtx c x).ms = s.ms := rfl
@[simp] theorem State.setCtx_cores (s : State) (c : Nat) (x : Ctx) : (s.setCtx c x).cores = s.cores := rfl
@[simp] theorem State.setCtx_floes (s : State) (c : Nat) (x : Ctx) : (s.setCtx c x).floes = s.floes := rfl
@[simp] theorem State.setCtx_mx (s : State) (c : Nat) (x : Ctx) : (s.setCtx c x).mx = s.mx := rfl
@[simp] theorem State.setCtx_kernels (s : State) (c : Nat) (x : Ctx) : (s.setCtx c x).kernels = s.kernels := rfl
@[simp] theorem State.setCtx_insts (s : State) (c : Nat) (x : Ctx) : (s.setCtx c x).insts = s.insts := rfl
@[simp] theorem State.setCtx_engines (s : State) (c : Nat) (x : Ctx) : (s.setCtx c x).engines = s.engines := rfl
@[simp] theorem State.setCtx_events (s : State) (c : Nat) (x : Ctx) : (s.setCtx c x).events = s.events := rfl
@[simp] theorem State.setCtx_colours (s : State) (c : Nat) (x : Ctx) : (s.setCtx c x).colours = s.colours := rfl
@[simp] theorem State.setCtx_queues (s : State) (c : Nat) (x : Ctx) : (s.setCtx c x).queues = s.queues := rfl
@[simp] theorem State.setCtx_enqs (s : State) (c : Nat) (x : Ctx) : (s.setCtx c x).enqs = s.enqs := rfl
@[simp] theorem State.setCtx_colls (s : State) (c : Nat) (x : Ctx) : (s.setCtx c x).colls = s.colls := rfl
@[simp] theorem State.setCtx_clkDue (s : State) (c : Nat) (x : Ctx) : (s.setCtx c x).clkDue = s.clkDue := rfl
@[simp] theorem State.setCtx_jOut (s : State) (c : Nat) (x : Ctx) : (s.setCtx c x).jOut = s.jOut := rfl
@[simp] theorem State.setCtx_ops (s : State) (c : Nat) (x : Ctx) : (s.setCtx c x).ops = s.ops := rfl
@[simp] theorem State.setCtx_copies (s : State) (c : Nat) (x : Ctx) : (s.setCtx c x).copies = s.copies := rfl
@[simp] theorem State.setCtx_parts (s : State) (c : Nat) (x : Ctx) : (s.setCtx c x).parts = s.parts := rfl
@[simp] theorem State.setCtx_hcmdStat (s : State) (c : Nat) (x : Ctx) : (s.setCtx c x).hcmdStat = s.hcmdStat := rfl
@[simp] theorem State.setCtx_irqs (s : State) (c : Nat) (x : Ctx) : (s.setCtx c x).irqs = s.irqs := rfl
@[simp] theorem State.setCtx_life (s : State) (c : Nat) (x : Ctx) : (s.setCtx c x).life = s.life := rfl
@[simp] theorem State.setCtx_net (s : State) (c : Nat) (x : Ctx) : (s.setCtx c x).net = s.net := rfl

/-! ### `State.setPart` changes `parts` alone -/

@[simp] theorem State.setPart_turns (s : State) (p : Nat) (x : Part) : (s.setPart p x).turns = s.turns := rfl
@[simp] theorem State.setPart_cur (s : State) (p : Nat) (x : Part) : (s.setPart p x).cur = s.cur := rfl
@[simp] theorem State.setPart_fresh (s : State) (p : Nat) (x : Part) : (s.setPart p x).fresh = s.fresh := rfl
@[simp] theorem State.setPart_nextId (s : State) (p : Nat) (x : Part) : (s.setPart p x).nextId = s.nextId := rfl
@[simp] theorem State.setPart_gt (s : State) (p : Nat) (x : Part) : (s.setPart p x).gt = s.gt := rfl
@[simp] theorem State.setPart_clk (s : State) (p : Nat) (x : Part) : (s.setPart p x).clk = s.clk := rfl
@[simp] theorem State.setPart_gated (s : State) (p : Nat) (x : Part) : (s.setPart p x).gated = s.gated := rfl
@[simp] theorem State.setPart_pace (s : State) (p : Nat) (x : Part) : (s.setPart p x).pace = s.pace := rfl
@[simp] theorem State.setPart_firn (s : State) (p : Nat) (x : Part) : (s.setPart p x).firn = s.firn := rfl
@[simp] theorem State.setPart_ms (s : State) (p : Nat) (x : Part) : (s.setPart p x).ms = s.ms := rfl
@[simp] theorem State.setPart_cores (s : State) (p : Nat) (x : Part) : (s.setPart p x).cores = s.cores := rfl
@[simp] theorem State.setPart_floes (s : State) (p : Nat) (x : Part) : (s.setPart p x).floes = s.floes := rfl
@[simp] theorem State.setPart_mx (s : State) (p : Nat) (x : Part) : (s.setPart p x).mx = s.mx := rfl
@[simp] theorem State.setPart_kernels (s : State) (p : Nat) (x : Part) : (s.setPart p x).kernels = s.kernels := rfl
@[simp] theorem State.setPart_insts (s : State) (p : Nat) (x : Part) : (s.setPart p x).insts = s.insts := rfl
@[simp] theorem State.setPart_engines (s : State) (p : Nat) (x : Part) : (s.setPart p x).engines = s.engines := rfl
@[simp] theorem State.setPart_events (s : State) (p : Nat) (x : Part) : (s.setPart p x).events = s.events := rfl
@[simp] theorem State.setPart_colours (s : State) (p : Nat) (x : Part) : (s.setPart p x).colours = s.colours := rfl
@[simp] theorem State.setPart_queues (s : State) (p : Nat) (x : Part) : (s.setPart p x).queues = s.queues := rfl
@[simp] theorem State.setPart_enqs (s : State) (p : Nat) (x : Part) : (s.setPart p x).enqs = s.enqs := rfl
@[simp] theorem State.setPart_colls (s : State) (p : Nat) (x : Part) : (s.setPart p x).colls = s.colls := rfl
@[simp] theorem State.setPart_clkDue (s : State) (p : Nat) (x : Part) : (s.setPart p x).clkDue = s.clkDue := rfl
@[simp] theorem State.setPart_jOut (s : State) (p : Nat) (x : Part) : (s.setPart p x).jOut = s.jOut := rfl
@[simp] theorem State.setPart_ops (s : State) (p : Nat) (x : Part) : (s.setPart p x).ops = s.ops := rfl
@[simp] theorem State.setPart_copies (s : State) (p : Nat) (x : Part) : (s.setPart p x).copies = s.copies := rfl
@[simp] theorem State.setPart_ctxs (s : State) (p : Nat) (x : Part) : (s.setPart p x).ctxs = s.ctxs := rfl
@[simp] theorem State.setPart_hcmdStat (s : State) (p : Nat) (x : Part) : (s.setPart p x).hcmdStat = s.hcmdStat := rfl
@[simp] theorem State.setPart_irqs (s : State) (p : Nat) (x : Part) : (s.setPart p x).irqs = s.irqs := rfl
@[simp] theorem State.setPart_life (s : State) (p : Nat) (x : Part) : (s.setPart p x).life = s.life := rfl
@[simp] theorem State.setPart_net (s : State) (p : Nat) (x : Part) : (s.setPart p x).net = s.net := rfl

/-! ### `State.modPart` changes `parts` alone -/

@[simp] theorem State.modPart_turns (s : State) (p : Nat) (g : Part → Part) : (s.modPart p g).turns = s.turns := rfl
@[simp] theorem State.modPart_cur (s : State) (p : Nat) (g : Part → Part) : (s.modPart p g).cur = s.cur := rfl
@[simp] theorem State.modPart_fresh (s : State) (p : Nat) (g : Part → Part) : (s.modPart p g).fresh = s.fresh := rfl
@[simp] theorem State.modPart_nextId (s : State) (p : Nat) (g : Part → Part) : (s.modPart p g).nextId = s.nextId := rfl
@[simp] theorem State.modPart_gt (s : State) (p : Nat) (g : Part → Part) : (s.modPart p g).gt = s.gt := rfl
@[simp] theorem State.modPart_clk (s : State) (p : Nat) (g : Part → Part) : (s.modPart p g).clk = s.clk := rfl
@[simp] theorem State.modPart_gated (s : State) (p : Nat) (g : Part → Part) : (s.modPart p g).gated = s.gated := rfl
@[simp] theorem State.modPart_pace (s : State) (p : Nat) (g : Part → Part) : (s.modPart p g).pace = s.pace := rfl
@[simp] theorem State.modPart_firn (s : State) (p : Nat) (g : Part → Part) : (s.modPart p g).firn = s.firn := rfl
@[simp] theorem State.modPart_ms (s : State) (p : Nat) (g : Part → Part) : (s.modPart p g).ms = s.ms := rfl
@[simp] theorem State.modPart_cores (s : State) (p : Nat) (g : Part → Part) : (s.modPart p g).cores = s.cores := rfl
@[simp] theorem State.modPart_floes (s : State) (p : Nat) (g : Part → Part) : (s.modPart p g).floes = s.floes := rfl
@[simp] theorem State.modPart_mx (s : State) (p : Nat) (g : Part → Part) : (s.modPart p g).mx = s.mx := rfl
@[simp] theorem State.modPart_kernels (s : State) (p : Nat) (g : Part → Part) : (s.modPart p g).kernels = s.kernels := rfl
@[simp] theorem State.modPart_insts (s : State) (p : Nat) (g : Part → Part) : (s.modPart p g).insts = s.insts := rfl
@[simp] theorem State.modPart_engines (s : State) (p : Nat) (g : Part → Part) : (s.modPart p g).engines = s.engines := rfl
@[simp] theorem State.modPart_events (s : State) (p : Nat) (g : Part → Part) : (s.modPart p g).events = s.events := rfl
@[simp] theorem State.modPart_colours (s : State) (p : Nat) (g : Part → Part) : (s.modPart p g).colours = s.colours := rfl
@[simp] theorem State.modPart_queues (s : State) (p : Nat) (g : Part → Part) : (s.modPart p g).queues = s.queues := rfl
@[simp] theorem State.modPart_enqs (s : State) (p : Nat) (g : Part → Part) : (s.modPart p g).enqs = s.enqs := rfl
@[simp] theorem State.modPart_colls (s : State) (p : Nat) (g : Part → Part) : (s.modPart p g).colls = s.colls := rfl
@[simp] theorem State.modPart_clkDue (s : State) (p : Nat) (g : Part → Part) : (s.modPart p g).clkDue = s.clkDue := rfl
@[simp] theorem State.modPart_jOut (s : State) (p : Nat) (g : Part → Part) : (s.modPart p g).jOut = s.jOut := rfl
@[simp] theorem State.modPart_ops (s : State) (p : Nat) (g : Part → Part) : (s.modPart p g).ops = s.ops := rfl
@[simp] theorem State.modPart_copies (s : State) (p : Nat) (g : Part → Part) : (s.modPart p g).copies = s.copies := rfl
@[simp] theorem State.modPart_ctxs (s : State) (p : Nat) (g : Part → Part) : (s.modPart p g).ctxs = s.ctxs := rfl
@[simp] theorem State.modPart_hcmdStat (s : State) (p : Nat) (g : Part → Part) : (s.modPart p g).hcmdStat = s.hcmdStat := rfl
@[simp] theorem State.modPart_irqs (s : State) (p : Nat) (g : Part → Part) : (s.modPart p g).irqs = s.irqs := rfl
@[simp] theorem State.modPart_life (s : State) (p : Nat) (g : Part → Part) : (s.modPart p g).life = s.life := rfl
@[simp] theorem State.modPart_net (s : State) (p : Nat) (g : Part → Part) : (s.modPart p g).net = s.net := rfl

/-! ### `State.setKernel` changes `kernels` alone -/

@[simp] theorem State.setKernel_turns (s : State) (c k : Nat) (x : Kernel) : (s.setKernel c k x).turns = s.turns := rfl
@[simp] theorem State.setKernel_cur (s : State) (c k : Nat) (x : Kernel) : (s.setKernel c k x).cur = s.cur := rfl
@[simp] theorem State.setKernel_fresh (s : State) (c k : Nat) (x : Kernel) : (s.setKernel c k x).fresh = s.fresh := rfl
@[simp] theorem State.setKernel_nextId (s : State) (c k : Nat) (x : Kernel) : (s.setKernel c k x).nextId = s.nextId := rfl
@[simp] theorem State.setKernel_gt (s : State) (c k : Nat) (x : Kernel) : (s.setKernel c k x).gt = s.gt := rfl
@[simp] theorem State.setKernel_clk (s : State) (c k : Nat) (x : Kernel) : (s.setKernel c k x).clk = s.clk := rfl
@[simp] theorem State.setKernel_gated (s : State) (c k : Nat) (x : Kernel) : (s.setKernel c k x).gated = s.gated := rfl
@[simp] theorem State.setKernel_pace (s : State) (c k : Nat) (x : Kernel) : (s.setKernel c k x).pace = s.pace := rfl
@[simp] theorem State.setKernel_firn (s : State) (c k : Nat) (x : Kernel) : (s.setKernel c k x).firn = s.firn := rfl
@[simp] theorem State.setKernel_ms (s : State) (c k : Nat) (x : Kernel) : (s.setKernel c k x).ms = s.ms := rfl
@[simp] theorem State.setKernel_cores (s : State) (c k : Nat) (x : Kernel) : (s.setKernel c k x).cores = s.cores := rfl
@[simp] theorem State.setKernel_floes (s : State) (c k : Nat) (x : Kernel) : (s.setKernel c k x).floes = s.floes := rfl
@[simp] theorem State.setKernel_mx (s : State) (c k : Nat) (x : Kernel) : (s.setKernel c k x).mx = s.mx := rfl
@[simp] theorem State.setKernel_insts (s : State) (c k : Nat) (x : Kernel) : (s.setKernel c k x).insts = s.insts := rfl
@[simp] theorem State.setKernel_engines (s : State) (c k : Nat) (x : Kernel) : (s.setKernel c k x).engines = s.engines := rfl
@[simp] theorem State.setKernel_events (s : State) (c k : Nat) (x : Kernel) : (s.setKernel c k x).events = s.events := rfl
@[simp] theorem State.setKernel_colours (s : State) (c k : Nat) (x : Kernel) : (s.setKernel c k x).colours = s.colours := rfl
@[simp] theorem State.setKernel_queues (s : State) (c k : Nat) (x : Kernel) : (s.setKernel c k x).queues = s.queues := rfl
@[simp] theorem State.setKernel_enqs (s : State) (c k : Nat) (x : Kernel) : (s.setKernel c k x).enqs = s.enqs := rfl
@[simp] theorem State.setKernel_colls (s : State) (c k : Nat) (x : Kernel) : (s.setKernel c k x).colls = s.colls := rfl
@[simp] theorem State.setKernel_clkDue (s : State) (c k : Nat) (x : Kernel) : (s.setKernel c k x).clkDue = s.clkDue := rfl
@[simp] theorem State.setKernel_jOut (s : State) (c k : Nat) (x : Kernel) : (s.setKernel c k x).jOut = s.jOut := rfl
@[simp] theorem State.setKernel_ops (s : State) (c k : Nat) (x : Kernel) : (s.setKernel c k x).ops = s.ops := rfl
@[simp] theorem State.setKernel_copies (s : State) (c k : Nat) (x : Kernel) : (s.setKernel c k x).copies = s.copies := rfl
@[simp] theorem State.setKernel_ctxs (s : State) (c k : Nat) (x : Kernel) : (s.setKernel c k x).ctxs = s.ctxs := rfl
@[simp] theorem State.setKernel_parts (s : State) (c k : Nat) (x : Kernel) : (s.setKernel c k x).parts = s.parts := rfl
@[simp] theorem State.setKernel_hcmdStat (s : State) (c k : Nat) (x : Kernel) : (s.setKernel c k x).hcmdStat = s.hcmdStat := rfl
@[simp] theorem State.setKernel_irqs (s : State) (c k : Nat) (x : Kernel) : (s.setKernel c k x).irqs = s.irqs := rfl
@[simp] theorem State.setKernel_life (s : State) (c k : Nat) (x : Kernel) : (s.setKernel c k x).life = s.life := rfl
@[simp] theorem State.setKernel_net (s : State) (c k : Nat) (x : Kernel) : (s.setKernel c k x).net = s.net := rfl

/-! ### `State.setEvent` changes `events` alone -/

@[simp] theorem State.setEvent_turns (s : State) (c n : Nat) (x : Event) : (s.setEvent c n x).turns = s.turns := rfl
@[simp] theorem State.setEvent_cur (s : State) (c n : Nat) (x : Event) : (s.setEvent c n x).cur = s.cur := rfl
@[simp] theorem State.setEvent_fresh (s : State) (c n : Nat) (x : Event) : (s.setEvent c n x).fresh = s.fresh := rfl
@[simp] theorem State.setEvent_nextId (s : State) (c n : Nat) (x : Event) : (s.setEvent c n x).nextId = s.nextId := rfl
@[simp] theorem State.setEvent_gt (s : State) (c n : Nat) (x : Event) : (s.setEvent c n x).gt = s.gt := rfl
@[simp] theorem State.setEvent_clk (s : State) (c n : Nat) (x : Event) : (s.setEvent c n x).clk = s.clk := rfl
@[simp] theorem State.setEvent_gated (s : State) (c n : Nat) (x : Event) : (s.setEvent c n x).gated = s.gated := rfl
@[simp] theorem State.setEvent_pace (s : State) (c n : Nat) (x : Event) : (s.setEvent c n x).pace = s.pace := rfl
@[simp] theorem State.setEvent_firn (s : State) (c n : Nat) (x : Event) : (s.setEvent c n x).firn = s.firn := rfl
@[simp] theorem State.setEvent_ms (s : State) (c n : Nat) (x : Event) : (s.setEvent c n x).ms = s.ms := rfl
@[simp] theorem State.setEvent_cores (s : State) (c n : Nat) (x : Event) : (s.setEvent c n x).cores = s.cores := rfl
@[simp] theorem State.setEvent_floes (s : State) (c n : Nat) (x : Event) : (s.setEvent c n x).floes = s.floes := rfl
@[simp] theorem State.setEvent_mx (s : State) (c n : Nat) (x : Event) : (s.setEvent c n x).mx = s.mx := rfl
@[simp] theorem State.setEvent_kernels (s : State) (c n : Nat) (x : Event) : (s.setEvent c n x).kernels = s.kernels := rfl
@[simp] theorem State.setEvent_insts (s : State) (c n : Nat) (x : Event) : (s.setEvent c n x).insts = s.insts := rfl
@[simp] theorem State.setEvent_engines (s : State) (c n : Nat) (x : Event) : (s.setEvent c n x).engines = s.engines := rfl
@[simp] theorem State.setEvent_colours (s : State) (c n : Nat) (x : Event) : (s.setEvent c n x).colours = s.colours := rfl
@[simp] theorem State.setEvent_queues (s : State) (c n : Nat) (x : Event) : (s.setEvent c n x).queues = s.queues := rfl
@[simp] theorem State.setEvent_enqs (s : State) (c n : Nat) (x : Event) : (s.setEvent c n x).enqs = s.enqs := rfl
@[simp] theorem State.setEvent_colls (s : State) (c n : Nat) (x : Event) : (s.setEvent c n x).colls = s.colls := rfl
@[simp] theorem State.setEvent_clkDue (s : State) (c n : Nat) (x : Event) : (s.setEvent c n x).clkDue = s.clkDue := rfl
@[simp] theorem State.setEvent_jOut (s : State) (c n : Nat) (x : Event) : (s.setEvent c n x).jOut = s.jOut := rfl
@[simp] theorem State.setEvent_ops (s : State) (c n : Nat) (x : Event) : (s.setEvent c n x).ops = s.ops := rfl
@[simp] theorem State.setEvent_copies (s : State) (c n : Nat) (x : Event) : (s.setEvent c n x).copies = s.copies := rfl
@[simp] theorem State.setEvent_ctxs (s : State) (c n : Nat) (x : Event) : (s.setEvent c n x).ctxs = s.ctxs := rfl
@[simp] theorem State.setEvent_parts (s : State) (c n : Nat) (x : Event) : (s.setEvent c n x).parts = s.parts := rfl
@[simp] theorem State.setEvent_hcmdStat (s : State) (c n : Nat) (x : Event) : (s.setEvent c n x).hcmdStat = s.hcmdStat := rfl
@[simp] theorem State.setEvent_irqs (s : State) (c n : Nat) (x : Event) : (s.setEvent c n x).irqs = s.irqs := rfl
@[simp] theorem State.setEvent_life (s : State) (c n : Nat) (x : Event) : (s.setEvent c n x).life = s.life := rfl
@[simp] theorem State.setEvent_net (s : State) (c n : Nat) (x : Event) : (s.setEvent c n x).net = s.net := rfl

/-! ### `State.setMatrix` changes `mx` alone -/

@[simp] theorem State.setMatrix_turns (s : State) (c m : Nat) (x : Matrix) : (s.setMatrix c m x).turns = s.turns := rfl
@[simp] theorem State.setMatrix_cur (s : State) (c m : Nat) (x : Matrix) : (s.setMatrix c m x).cur = s.cur := rfl
@[simp] theorem State.setMatrix_fresh (s : State) (c m : Nat) (x : Matrix) : (s.setMatrix c m x).fresh = s.fresh := rfl
@[simp] theorem State.setMatrix_nextId (s : State) (c m : Nat) (x : Matrix) : (s.setMatrix c m x).nextId = s.nextId := rfl
@[simp] theorem State.setMatrix_gt (s : State) (c m : Nat) (x : Matrix) : (s.setMatrix c m x).gt = s.gt := rfl
@[simp] theorem State.setMatrix_clk (s : State) (c m : Nat) (x : Matrix) : (s.setMatrix c m x).clk = s.clk := rfl
@[simp] theorem State.setMatrix_gated (s : State) (c m : Nat) (x : Matrix) : (s.setMatrix c m x).gated = s.gated := rfl
@[simp] theorem State.setMatrix_pace (s : State) (c m : Nat) (x : Matrix) : (s.setMatrix c m x).pace = s.pace := rfl
@[simp] theorem State.setMatrix_firn (s : State) (c m : Nat) (x : Matrix) : (s.setMatrix c m x).firn = s.firn := rfl
@[simp] theorem State.setMatrix_ms (s : State) (c m : Nat) (x : Matrix) : (s.setMatrix c m x).ms = s.ms := rfl
@[simp] theorem State.setMatrix_cores (s : State) (c m : Nat) (x : Matrix) : (s.setMatrix c m x).cores = s.cores := rfl
@[simp] theorem State.setMatrix_floes (s : State) (c m : Nat) (x : Matrix) : (s.setMatrix c m x).floes = s.floes := rfl
@[simp] theorem State.setMatrix_kernels (s : State) (c m : Nat) (x : Matrix) : (s.setMatrix c m x).kernels = s.kernels := rfl
@[simp] theorem State.setMatrix_insts (s : State) (c m : Nat) (x : Matrix) : (s.setMatrix c m x).insts = s.insts := rfl
@[simp] theorem State.setMatrix_engines (s : State) (c m : Nat) (x : Matrix) : (s.setMatrix c m x).engines = s.engines := rfl
@[simp] theorem State.setMatrix_events (s : State) (c m : Nat) (x : Matrix) : (s.setMatrix c m x).events = s.events := rfl
@[simp] theorem State.setMatrix_colours (s : State) (c m : Nat) (x : Matrix) : (s.setMatrix c m x).colours = s.colours := rfl
@[simp] theorem State.setMatrix_queues (s : State) (c m : Nat) (x : Matrix) : (s.setMatrix c m x).queues = s.queues := rfl
@[simp] theorem State.setMatrix_enqs (s : State) (c m : Nat) (x : Matrix) : (s.setMatrix c m x).enqs = s.enqs := rfl
@[simp] theorem State.setMatrix_colls (s : State) (c m : Nat) (x : Matrix) : (s.setMatrix c m x).colls = s.colls := rfl
@[simp] theorem State.setMatrix_clkDue (s : State) (c m : Nat) (x : Matrix) : (s.setMatrix c m x).clkDue = s.clkDue := rfl
@[simp] theorem State.setMatrix_jOut (s : State) (c m : Nat) (x : Matrix) : (s.setMatrix c m x).jOut = s.jOut := rfl
@[simp] theorem State.setMatrix_ops (s : State) (c m : Nat) (x : Matrix) : (s.setMatrix c m x).ops = s.ops := rfl
@[simp] theorem State.setMatrix_copies (s : State) (c m : Nat) (x : Matrix) : (s.setMatrix c m x).copies = s.copies := rfl
@[simp] theorem State.setMatrix_ctxs (s : State) (c m : Nat) (x : Matrix) : (s.setMatrix c m x).ctxs = s.ctxs := rfl
@[simp] theorem State.setMatrix_parts (s : State) (c m : Nat) (x : Matrix) : (s.setMatrix c m x).parts = s.parts := rfl
@[simp] theorem State.setMatrix_hcmdStat (s : State) (c m : Nat) (x : Matrix) : (s.setMatrix c m x).hcmdStat = s.hcmdStat := rfl
@[simp] theorem State.setMatrix_irqs (s : State) (c m : Nat) (x : Matrix) : (s.setMatrix c m x).irqs = s.irqs := rfl
@[simp] theorem State.setMatrix_life (s : State) (c m : Nat) (x : Matrix) : (s.setMatrix c m x).life = s.life := rfl
@[simp] theorem State.setMatrix_net (s : State) (c m : Nat) (x : Matrix) : (s.setMatrix c m x).net = s.net := rfl

/-! ### `State.setColour` changes `colours` alone -/

@[simp] theorem State.setColour_turns (s : State) (p c : Nat) (x : Colour) : (s.setColour p c x).turns = s.turns := rfl
@[simp] theorem State.setColour_cur (s : State) (p c : Nat) (x : Colour) : (s.setColour p c x).cur = s.cur := rfl
@[simp] theorem State.setColour_fresh (s : State) (p c : Nat) (x : Colour) : (s.setColour p c x).fresh = s.fresh := rfl
@[simp] theorem State.setColour_nextId (s : State) (p c : Nat) (x : Colour) : (s.setColour p c x).nextId = s.nextId := rfl
@[simp] theorem State.setColour_gt (s : State) (p c : Nat) (x : Colour) : (s.setColour p c x).gt = s.gt := rfl
@[simp] theorem State.setColour_clk (s : State) (p c : Nat) (x : Colour) : (s.setColour p c x).clk = s.clk := rfl
@[simp] theorem State.setColour_gated (s : State) (p c : Nat) (x : Colour) : (s.setColour p c x).gated = s.gated := rfl
@[simp] theorem State.setColour_pace (s : State) (p c : Nat) (x : Colour) : (s.setColour p c x).pace = s.pace := rfl
@[simp] theorem State.setColour_firn (s : State) (p c : Nat) (x : Colour) : (s.setColour p c x).firn = s.firn := rfl
@[simp] theorem State.setColour_ms (s : State) (p c : Nat) (x : Colour) : (s.setColour p c x).ms = s.ms := rfl
@[simp] theorem State.setColour_cores (s : State) (p c : Nat) (x : Colour) : (s.setColour p c x).cores = s.cores := rfl
@[simp] theorem State.setColour_floes (s : State) (p c : Nat) (x : Colour) : (s.setColour p c x).floes = s.floes := rfl
@[simp] theorem State.setColour_mx (s : State) (p c : Nat) (x : Colour) : (s.setColour p c x).mx = s.mx := rfl
@[simp] theorem State.setColour_kernels (s : State) (p c : Nat) (x : Colour) : (s.setColour p c x).kernels = s.kernels := rfl
@[simp] theorem State.setColour_insts (s : State) (p c : Nat) (x : Colour) : (s.setColour p c x).insts = s.insts := rfl
@[simp] theorem State.setColour_engines (s : State) (p c : Nat) (x : Colour) : (s.setColour p c x).engines = s.engines := rfl
@[simp] theorem State.setColour_events (s : State) (p c : Nat) (x : Colour) : (s.setColour p c x).events = s.events := rfl
@[simp] theorem State.setColour_queues (s : State) (p c : Nat) (x : Colour) : (s.setColour p c x).queues = s.queues := rfl
@[simp] theorem State.setColour_enqs (s : State) (p c : Nat) (x : Colour) : (s.setColour p c x).enqs = s.enqs := rfl
@[simp] theorem State.setColour_colls (s : State) (p c : Nat) (x : Colour) : (s.setColour p c x).colls = s.colls := rfl
@[simp] theorem State.setColour_clkDue (s : State) (p c : Nat) (x : Colour) : (s.setColour p c x).clkDue = s.clkDue := rfl
@[simp] theorem State.setColour_jOut (s : State) (p c : Nat) (x : Colour) : (s.setColour p c x).jOut = s.jOut := rfl
@[simp] theorem State.setColour_ops (s : State) (p c : Nat) (x : Colour) : (s.setColour p c x).ops = s.ops := rfl
@[simp] theorem State.setColour_copies (s : State) (p c : Nat) (x : Colour) : (s.setColour p c x).copies = s.copies := rfl
@[simp] theorem State.setColour_ctxs (s : State) (p c : Nat) (x : Colour) : (s.setColour p c x).ctxs = s.ctxs := rfl
@[simp] theorem State.setColour_parts (s : State) (p c : Nat) (x : Colour) : (s.setColour p c x).parts = s.parts := rfl
@[simp] theorem State.setColour_hcmdStat (s : State) (p c : Nat) (x : Colour) : (s.setColour p c x).hcmdStat = s.hcmdStat := rfl
@[simp] theorem State.setColour_irqs (s : State) (p c : Nat) (x : Colour) : (s.setColour p c x).irqs = s.irqs := rfl
@[simp] theorem State.setColour_life (s : State) (p c : Nat) (x : Colour) : (s.setColour p c x).life = s.life := rfl
@[simp] theorem State.setColour_net (s : State) (p c : Nat) (x : Colour) : (s.setColour p c x).net = s.net := rfl

/-! ### `State.takeFresh` changes `fresh` alone -/

@[simp] theorem State.takeFresh_turns (s : State) (n : Nat) : (s.takeFresh n).turns = s.turns := rfl
@[simp] theorem State.takeFresh_cur (s : State) (n : Nat) : (s.takeFresh n).cur = s.cur := rfl
@[simp] theorem State.takeFresh_nextId (s : State) (n : Nat) : (s.takeFresh n).nextId = s.nextId := rfl
@[simp] theorem State.takeFresh_gt (s : State) (n : Nat) : (s.takeFresh n).gt = s.gt := rfl
@[simp] theorem State.takeFresh_clk (s : State) (n : Nat) : (s.takeFresh n).clk = s.clk := rfl
@[simp] theorem State.takeFresh_gated (s : State) (n : Nat) : (s.takeFresh n).gated = s.gated := rfl
@[simp] theorem State.takeFresh_pace (s : State) (n : Nat) : (s.takeFresh n).pace = s.pace := rfl
@[simp] theorem State.takeFresh_firn (s : State) (n : Nat) : (s.takeFresh n).firn = s.firn := rfl
@[simp] theorem State.takeFresh_ms (s : State) (n : Nat) : (s.takeFresh n).ms = s.ms := rfl
@[simp] theorem State.takeFresh_cores (s : State) (n : Nat) : (s.takeFresh n).cores = s.cores := rfl
@[simp] theorem State.takeFresh_floes (s : State) (n : Nat) : (s.takeFresh n).floes = s.floes := rfl
@[simp] theorem State.takeFresh_mx (s : State) (n : Nat) : (s.takeFresh n).mx = s.mx := rfl
@[simp] theorem State.takeFresh_kernels (s : State) (n : Nat) : (s.takeFresh n).kernels = s.kernels := rfl
@[simp] theorem State.takeFresh_insts (s : State) (n : Nat) : (s.takeFresh n).insts = s.insts := rfl
@[simp] theorem State.takeFresh_engines (s : State) (n : Nat) : (s.takeFresh n).engines = s.engines := rfl
@[simp] theorem State.takeFresh_events (s : State) (n : Nat) : (s.takeFresh n).events = s.events := rfl
@[simp] theorem State.takeFresh_colours (s : State) (n : Nat) : (s.takeFresh n).colours = s.colours := rfl
@[simp] theorem State.takeFresh_queues (s : State) (n : Nat) : (s.takeFresh n).queues = s.queues := rfl
@[simp] theorem State.takeFresh_enqs (s : State) (n : Nat) : (s.takeFresh n).enqs = s.enqs := rfl
@[simp] theorem State.takeFresh_colls (s : State) (n : Nat) : (s.takeFresh n).colls = s.colls := rfl
@[simp] theorem State.takeFresh_clkDue (s : State) (n : Nat) : (s.takeFresh n).clkDue = s.clkDue := rfl
@[simp] theorem State.takeFresh_jOut (s : State) (n : Nat) : (s.takeFresh n).jOut = s.jOut := rfl
@[simp] theorem State.takeFresh_ops (s : State) (n : Nat) : (s.takeFresh n).ops = s.ops := rfl
@[simp] theorem State.takeFresh_copies (s : State) (n : Nat) : (s.takeFresh n).copies = s.copies := rfl
@[simp] theorem State.takeFresh_ctxs (s : State) (n : Nat) : (s.takeFresh n).ctxs = s.ctxs := rfl
@[simp] theorem State.takeFresh_parts (s : State) (n : Nat) : (s.takeFresh n).parts = s.parts := rfl
@[simp] theorem State.takeFresh_hcmdStat (s : State) (n : Nat) : (s.takeFresh n).hcmdStat = s.hcmdStat := rfl
@[simp] theorem State.takeFresh_irqs (s : State) (n : Nat) : (s.takeFresh n).irqs = s.irqs := rfl
@[simp] theorem State.takeFresh_life (s : State) (n : Nat) : (s.takeFresh n).life = s.life := rfl
@[simp] theorem State.takeFresh_net (s : State) (n : Nat) : (s.takeFresh n).net = s.net := rfl

/-! ### `State.setFirn` changes `firn` alone -/

@[simp] theorem State.setFirn_turns (s : State) (c i : Nat) (w : FirnWord) : (s.setFirn c i w).turns = s.turns := rfl
@[simp] theorem State.setFirn_cur (s : State) (c i : Nat) (w : FirnWord) : (s.setFirn c i w).cur = s.cur := rfl
@[simp] theorem State.setFirn_fresh (s : State) (c i : Nat) (w : FirnWord) : (s.setFirn c i w).fresh = s.fresh := rfl
@[simp] theorem State.setFirn_nextId (s : State) (c i : Nat) (w : FirnWord) : (s.setFirn c i w).nextId = s.nextId := rfl
@[simp] theorem State.setFirn_gt (s : State) (c i : Nat) (w : FirnWord) : (s.setFirn c i w).gt = s.gt := rfl
@[simp] theorem State.setFirn_clk (s : State) (c i : Nat) (w : FirnWord) : (s.setFirn c i w).clk = s.clk := rfl
@[simp] theorem State.setFirn_gated (s : State) (c i : Nat) (w : FirnWord) : (s.setFirn c i w).gated = s.gated := rfl
@[simp] theorem State.setFirn_pace (s : State) (c i : Nat) (w : FirnWord) : (s.setFirn c i w).pace = s.pace := rfl
@[simp] theorem State.setFirn_ms (s : State) (c i : Nat) (w : FirnWord) : (s.setFirn c i w).ms = s.ms := rfl
@[simp] theorem State.setFirn_cores (s : State) (c i : Nat) (w : FirnWord) : (s.setFirn c i w).cores = s.cores := rfl
@[simp] theorem State.setFirn_floes (s : State) (c i : Nat) (w : FirnWord) : (s.setFirn c i w).floes = s.floes := rfl
@[simp] theorem State.setFirn_mx (s : State) (c i : Nat) (w : FirnWord) : (s.setFirn c i w).mx = s.mx := rfl
@[simp] theorem State.setFirn_kernels (s : State) (c i : Nat) (w : FirnWord) : (s.setFirn c i w).kernels = s.kernels := rfl
@[simp] theorem State.setFirn_insts (s : State) (c i : Nat) (w : FirnWord) : (s.setFirn c i w).insts = s.insts := rfl
@[simp] theorem State.setFirn_engines (s : State) (c i : Nat) (w : FirnWord) : (s.setFirn c i w).engines = s.engines := rfl
@[simp] theorem State.setFirn_events (s : State) (c i : Nat) (w : FirnWord) : (s.setFirn c i w).events = s.events := rfl
@[simp] theorem State.setFirn_colours (s : State) (c i : Nat) (w : FirnWord) : (s.setFirn c i w).colours = s.colours := rfl
@[simp] theorem State.setFirn_queues (s : State) (c i : Nat) (w : FirnWord) : (s.setFirn c i w).queues = s.queues := rfl
@[simp] theorem State.setFirn_enqs (s : State) (c i : Nat) (w : FirnWord) : (s.setFirn c i w).enqs = s.enqs := rfl
@[simp] theorem State.setFirn_colls (s : State) (c i : Nat) (w : FirnWord) : (s.setFirn c i w).colls = s.colls := rfl
@[simp] theorem State.setFirn_clkDue (s : State) (c i : Nat) (w : FirnWord) : (s.setFirn c i w).clkDue = s.clkDue := rfl
@[simp] theorem State.setFirn_jOut (s : State) (c i : Nat) (w : FirnWord) : (s.setFirn c i w).jOut = s.jOut := rfl
@[simp] theorem State.setFirn_ops (s : State) (c i : Nat) (w : FirnWord) : (s.setFirn c i w).ops = s.ops := rfl
@[simp] theorem State.setFirn_copies (s : State) (c i : Nat) (w : FirnWord) : (s.setFirn c i w).copies = s.copies := rfl
@[simp] theorem State.setFirn_ctxs (s : State) (c i : Nat) (w : FirnWord) : (s.setFirn c i w).ctxs = s.ctxs := rfl
@[simp] theorem State.setFirn_parts (s : State) (c i : Nat) (w : FirnWord) : (s.setFirn c i w).parts = s.parts := rfl
@[simp] theorem State.setFirn_hcmdStat (s : State) (c i : Nat) (w : FirnWord) : (s.setFirn c i w).hcmdStat = s.hcmdStat := rfl
@[simp] theorem State.setFirn_irqs (s : State) (c i : Nat) (w : FirnWord) : (s.setFirn c i w).irqs = s.irqs := rfl
@[simp] theorem State.setFirn_life (s : State) (c i : Nat) (w : FirnWord) : (s.setFirn c i w).life = s.life := rfl
@[simp] theorem State.setFirn_net (s : State) (c i : Nat) (w : FirnWord) : (s.setFirn c i w).net = s.net := rfl

/-! ### `State.setDir` changes `ms` alone -/

@[simp] theorem State.setDir_turns (s : State) (l : Nat) (d : DirEntry) : (s.setDir l d).turns = s.turns := rfl
@[simp] theorem State.setDir_cur (s : State) (l : Nat) (d : DirEntry) : (s.setDir l d).cur = s.cur := rfl
@[simp] theorem State.setDir_fresh (s : State) (l : Nat) (d : DirEntry) : (s.setDir l d).fresh = s.fresh := rfl
@[simp] theorem State.setDir_nextId (s : State) (l : Nat) (d : DirEntry) : (s.setDir l d).nextId = s.nextId := rfl
@[simp] theorem State.setDir_gt (s : State) (l : Nat) (d : DirEntry) : (s.setDir l d).gt = s.gt := rfl
@[simp] theorem State.setDir_clk (s : State) (l : Nat) (d : DirEntry) : (s.setDir l d).clk = s.clk := rfl
@[simp] theorem State.setDir_gated (s : State) (l : Nat) (d : DirEntry) : (s.setDir l d).gated = s.gated := rfl
@[simp] theorem State.setDir_pace (s : State) (l : Nat) (d : DirEntry) : (s.setDir l d).pace = s.pace := rfl
@[simp] theorem State.setDir_firn (s : State) (l : Nat) (d : DirEntry) : (s.setDir l d).firn = s.firn := rfl
@[simp] theorem State.setDir_cores (s : State) (l : Nat) (d : DirEntry) : (s.setDir l d).cores = s.cores := rfl
@[simp] theorem State.setDir_floes (s : State) (l : Nat) (d : DirEntry) : (s.setDir l d).floes = s.floes := rfl
@[simp] theorem State.setDir_mx (s : State) (l : Nat) (d : DirEntry) : (s.setDir l d).mx = s.mx := rfl
@[simp] theorem State.setDir_kernels (s : State) (l : Nat) (d : DirEntry) : (s.setDir l d).kernels = s.kernels := rfl
@[simp] theorem State.setDir_insts (s : State) (l : Nat) (d : DirEntry) : (s.setDir l d).insts = s.insts := rfl
@[simp] theorem State.setDir_engines (s : State) (l : Nat) (d : DirEntry) : (s.setDir l d).engines = s.engines := rfl
@[simp] theorem State.setDir_events (s : State) (l : Nat) (d : DirEntry) : (s.setDir l d).events = s.events := rfl
@[simp] theorem State.setDir_colours (s : State) (l : Nat) (d : DirEntry) : (s.setDir l d).colours = s.colours := rfl
@[simp] theorem State.setDir_queues (s : State) (l : Nat) (d : DirEntry) : (s.setDir l d).queues = s.queues := rfl
@[simp] theorem State.setDir_enqs (s : State) (l : Nat) (d : DirEntry) : (s.setDir l d).enqs = s.enqs := rfl
@[simp] theorem State.setDir_colls (s : State) (l : Nat) (d : DirEntry) : (s.setDir l d).colls = s.colls := rfl
@[simp] theorem State.setDir_clkDue (s : State) (l : Nat) (d : DirEntry) : (s.setDir l d).clkDue = s.clkDue := rfl
@[simp] theorem State.setDir_jOut (s : State) (l : Nat) (d : DirEntry) : (s.setDir l d).jOut = s.jOut := rfl
@[simp] theorem State.setDir_ops (s : State) (l : Nat) (d : DirEntry) : (s.setDir l d).ops = s.ops := rfl
@[simp] theorem State.setDir_copies (s : State) (l : Nat) (d : DirEntry) : (s.setDir l d).copies = s.copies := rfl
@[simp] theorem State.setDir_ctxs (s : State) (l : Nat) (d : DirEntry) : (s.setDir l d).ctxs = s.ctxs := rfl
@[simp] theorem State.setDir_parts (s : State) (l : Nat) (d : DirEntry) : (s.setDir l d).parts = s.parts := rfl
@[simp] theorem State.setDir_hcmdStat (s : State) (l : Nat) (d : DirEntry) : (s.setDir l d).hcmdStat = s.hcmdStat := rfl
@[simp] theorem State.setDir_irqs (s : State) (l : Nat) (d : DirEntry) : (s.setDir l d).irqs = s.irqs := rfl
@[simp] theorem State.setDir_life (s : State) (l : Nat) (d : DirEntry) : (s.setDir l d).life = s.life := rfl
@[simp] theorem State.setDir_net (s : State) (l : Nat) (d : DirEntry) : (s.setDir l d).net = s.net := rfl

/-! ### `State.mark` changes `ms` alone -/

@[simp] theorem State.mark_turns (s : State) (pa : Nat) : (s.mark pa).turns = s.turns := rfl
@[simp] theorem State.mark_cur (s : State) (pa : Nat) : (s.mark pa).cur = s.cur := rfl
@[simp] theorem State.mark_fresh (s : State) (pa : Nat) : (s.mark pa).fresh = s.fresh := rfl
@[simp] theorem State.mark_nextId (s : State) (pa : Nat) : (s.mark pa).nextId = s.nextId := rfl
@[simp] theorem State.mark_gt (s : State) (pa : Nat) : (s.mark pa).gt = s.gt := rfl
@[simp] theorem State.mark_clk (s : State) (pa : Nat) : (s.mark pa).clk = s.clk := rfl
@[simp] theorem State.mark_gated (s : State) (pa : Nat) : (s.mark pa).gated = s.gated := rfl
@[simp] theorem State.mark_pace (s : State) (pa : Nat) : (s.mark pa).pace = s.pace := rfl
@[simp] theorem State.mark_firn (s : State) (pa : Nat) : (s.mark pa).firn = s.firn := rfl
@[simp] theorem State.mark_cores (s : State) (pa : Nat) : (s.mark pa).cores = s.cores := rfl
@[simp] theorem State.mark_floes (s : State) (pa : Nat) : (s.mark pa).floes = s.floes := rfl
@[simp] theorem State.mark_mx (s : State) (pa : Nat) : (s.mark pa).mx = s.mx := rfl
@[simp] theorem State.mark_kernels (s : State) (pa : Nat) : (s.mark pa).kernels = s.kernels := rfl
@[simp] theorem State.mark_insts (s : State) (pa : Nat) : (s.mark pa).insts = s.insts := rfl
@[simp] theorem State.mark_engines (s : State) (pa : Nat) : (s.mark pa).engines = s.engines := rfl
@[simp] theorem State.mark_events (s : State) (pa : Nat) : (s.mark pa).events = s.events := rfl
@[simp] theorem State.mark_colours (s : State) (pa : Nat) : (s.mark pa).colours = s.colours := rfl
@[simp] theorem State.mark_queues (s : State) (pa : Nat) : (s.mark pa).queues = s.queues := rfl
@[simp] theorem State.mark_enqs (s : State) (pa : Nat) : (s.mark pa).enqs = s.enqs := rfl
@[simp] theorem State.mark_colls (s : State) (pa : Nat) : (s.mark pa).colls = s.colls := rfl
@[simp] theorem State.mark_clkDue (s : State) (pa : Nat) : (s.mark pa).clkDue = s.clkDue := rfl
@[simp] theorem State.mark_jOut (s : State) (pa : Nat) : (s.mark pa).jOut = s.jOut := rfl
@[simp] theorem State.mark_ops (s : State) (pa : Nat) : (s.mark pa).ops = s.ops := rfl
@[simp] theorem State.mark_copies (s : State) (pa : Nat) : (s.mark pa).copies = s.copies := rfl
@[simp] theorem State.mark_ctxs (s : State) (pa : Nat) : (s.mark pa).ctxs = s.ctxs := rfl
@[simp] theorem State.mark_parts (s : State) (pa : Nat) : (s.mark pa).parts = s.parts := rfl
@[simp] theorem State.mark_hcmdStat (s : State) (pa : Nat) : (s.mark pa).hcmdStat = s.hcmdStat := rfl
@[simp] theorem State.mark_irqs (s : State) (pa : Nat) : (s.mark pa).irqs = s.irqs := rfl
@[simp] theorem State.mark_life (s : State) (pa : Nat) : (s.mark pa).life = s.life := rfl
@[simp] theorem State.mark_net (s : State) (pa : Nat) : (s.mark pa).net = s.net := rfl

/-! ### `State.l1Drop` changes `cores` alone -/

@[simp] theorem State.l1Drop_turns (s : State) (c : Nat) (p : Nat → L1Line → Bool) : (s.l1Drop c p).turns = s.turns := rfl
@[simp] theorem State.l1Drop_cur (s : State) (c : Nat) (p : Nat → L1Line → Bool) : (s.l1Drop c p).cur = s.cur := rfl
@[simp] theorem State.l1Drop_fresh (s : State) (c : Nat) (p : Nat → L1Line → Bool) : (s.l1Drop c p).fresh = s.fresh := rfl
@[simp] theorem State.l1Drop_nextId (s : State) (c : Nat) (p : Nat → L1Line → Bool) : (s.l1Drop c p).nextId = s.nextId := rfl
@[simp] theorem State.l1Drop_gt (s : State) (c : Nat) (p : Nat → L1Line → Bool) : (s.l1Drop c p).gt = s.gt := rfl
@[simp] theorem State.l1Drop_clk (s : State) (c : Nat) (p : Nat → L1Line → Bool) : (s.l1Drop c p).clk = s.clk := rfl
@[simp] theorem State.l1Drop_gated (s : State) (c : Nat) (p : Nat → L1Line → Bool) : (s.l1Drop c p).gated = s.gated := rfl
@[simp] theorem State.l1Drop_pace (s : State) (c : Nat) (p : Nat → L1Line → Bool) : (s.l1Drop c p).pace = s.pace := rfl
@[simp] theorem State.l1Drop_firn (s : State) (c : Nat) (p : Nat → L1Line → Bool) : (s.l1Drop c p).firn = s.firn := rfl
@[simp] theorem State.l1Drop_ms (s : State) (c : Nat) (p : Nat → L1Line → Bool) : (s.l1Drop c p).ms = s.ms := rfl
@[simp] theorem State.l1Drop_floes (s : State) (c : Nat) (p : Nat → L1Line → Bool) : (s.l1Drop c p).floes = s.floes := rfl
@[simp] theorem State.l1Drop_mx (s : State) (c : Nat) (p : Nat → L1Line → Bool) : (s.l1Drop c p).mx = s.mx := rfl
@[simp] theorem State.l1Drop_kernels (s : State) (c : Nat) (p : Nat → L1Line → Bool) : (s.l1Drop c p).kernels = s.kernels := rfl
@[simp] theorem State.l1Drop_insts (s : State) (c : Nat) (p : Nat → L1Line → Bool) : (s.l1Drop c p).insts = s.insts := rfl
@[simp] theorem State.l1Drop_engines (s : State) (c : Nat) (p : Nat → L1Line → Bool) : (s.l1Drop c p).engines = s.engines := rfl
@[simp] theorem State.l1Drop_events (s : State) (c : Nat) (p : Nat → L1Line → Bool) : (s.l1Drop c p).events = s.events := rfl
@[simp] theorem State.l1Drop_colours (s : State) (c : Nat) (p : Nat → L1Line → Bool) : (s.l1Drop c p).colours = s.colours := rfl
@[simp] theorem State.l1Drop_queues (s : State) (c : Nat) (p : Nat → L1Line → Bool) : (s.l1Drop c p).queues = s.queues := rfl
@[simp] theorem State.l1Drop_enqs (s : State) (c : Nat) (p : Nat → L1Line → Bool) : (s.l1Drop c p).enqs = s.enqs := rfl
@[simp] theorem State.l1Drop_colls (s : State) (c : Nat) (p : Nat → L1Line → Bool) : (s.l1Drop c p).colls = s.colls := rfl
@[simp] theorem State.l1Drop_clkDue (s : State) (c : Nat) (p : Nat → L1Line → Bool) : (s.l1Drop c p).clkDue = s.clkDue := rfl
@[simp] theorem State.l1Drop_jOut (s : State) (c : Nat) (p : Nat → L1Line → Bool) : (s.l1Drop c p).jOut = s.jOut := rfl
@[simp] theorem State.l1Drop_ops (s : State) (c : Nat) (p : Nat → L1Line → Bool) : (s.l1Drop c p).ops = s.ops := rfl
@[simp] theorem State.l1Drop_copies (s : State) (c : Nat) (p : Nat → L1Line → Bool) : (s.l1Drop c p).copies = s.copies := rfl
@[simp] theorem State.l1Drop_ctxs (s : State) (c : Nat) (p : Nat → L1Line → Bool) : (s.l1Drop c p).ctxs = s.ctxs := rfl
@[simp] theorem State.l1Drop_parts (s : State) (c : Nat) (p : Nat → L1Line → Bool) : (s.l1Drop c p).parts = s.parts := rfl
@[simp] theorem State.l1Drop_hcmdStat (s : State) (c : Nat) (p : Nat → L1Line → Bool) : (s.l1Drop c p).hcmdStat = s.hcmdStat := rfl
@[simp] theorem State.l1Drop_irqs (s : State) (c : Nat) (p : Nat → L1Line → Bool) : (s.l1Drop c p).irqs = s.irqs := rfl
@[simp] theorem State.l1Drop_life (s : State) (c : Nat) (p : Nat → L1Line → Bool) : (s.l1Drop c p).life = s.life := rfl
@[simp] theorem State.l1Drop_net (s : State) (c : Nat) (p : Nat → L1Line → Bool) : (s.l1Drop c p).net = s.net := rfl

/-! ### `State.modFloe` changes `floes` alone -/

@[simp] theorem State.modFloe_turns (s : State) (h : Nat) (g : Floe → Floe) : (s.modFloe h g).turns = s.turns := by
  unfold State.modFloe; split <;> rfl
@[simp] theorem State.modFloe_cur (s : State) (h : Nat) (g : Floe → Floe) : (s.modFloe h g).cur = s.cur := by
  unfold State.modFloe; split <;> rfl
@[simp] theorem State.modFloe_fresh (s : State) (h : Nat) (g : Floe → Floe) : (s.modFloe h g).fresh = s.fresh := by
  unfold State.modFloe; split <;> rfl
@[simp] theorem State.modFloe_nextId (s : State) (h : Nat) (g : Floe → Floe) : (s.modFloe h g).nextId = s.nextId := by
  unfold State.modFloe; split <;> rfl
@[simp] theorem State.modFloe_gt (s : State) (h : Nat) (g : Floe → Floe) : (s.modFloe h g).gt = s.gt := by
  unfold State.modFloe; split <;> rfl
@[simp] theorem State.modFloe_clk (s : State) (h : Nat) (g : Floe → Floe) : (s.modFloe h g).clk = s.clk := by
  unfold State.modFloe; split <;> rfl
@[simp] theorem State.modFloe_gated (s : State) (h : Nat) (g : Floe → Floe) : (s.modFloe h g).gated = s.gated := by
  unfold State.modFloe; split <;> rfl
@[simp] theorem State.modFloe_pace (s : State) (h : Nat) (g : Floe → Floe) : (s.modFloe h g).pace = s.pace := by
  unfold State.modFloe; split <;> rfl
@[simp] theorem State.modFloe_firn (s : State) (h : Nat) (g : Floe → Floe) : (s.modFloe h g).firn = s.firn := by
  unfold State.modFloe; split <;> rfl
@[simp] theorem State.modFloe_ms (s : State) (h : Nat) (g : Floe → Floe) : (s.modFloe h g).ms = s.ms := by
  unfold State.modFloe; split <;> rfl
@[simp] theorem State.modFloe_cores (s : State) (h : Nat) (g : Floe → Floe) : (s.modFloe h g).cores = s.cores := by
  unfold State.modFloe; split <;> rfl
@[simp] theorem State.modFloe_mx (s : State) (h : Nat) (g : Floe → Floe) : (s.modFloe h g).mx = s.mx := by
  unfold State.modFloe; split <;> rfl
@[simp] theorem State.modFloe_kernels (s : State) (h : Nat) (g : Floe → Floe) : (s.modFloe h g).kernels = s.kernels := by
  unfold State.modFloe; split <;> rfl
@[simp] theorem State.modFloe_insts (s : State) (h : Nat) (g : Floe → Floe) : (s.modFloe h g).insts = s.insts := by
  unfold State.modFloe; split <;> rfl
@[simp] theorem State.modFloe_engines (s : State) (h : Nat) (g : Floe → Floe) : (s.modFloe h g).engines = s.engines := by
  unfold State.modFloe; split <;> rfl
@[simp] theorem State.modFloe_events (s : State) (h : Nat) (g : Floe → Floe) : (s.modFloe h g).events = s.events := by
  unfold State.modFloe; split <;> rfl
@[simp] theorem State.modFloe_colours (s : State) (h : Nat) (g : Floe → Floe) : (s.modFloe h g).colours = s.colours := by
  unfold State.modFloe; split <;> rfl
@[simp] theorem State.modFloe_queues (s : State) (h : Nat) (g : Floe → Floe) : (s.modFloe h g).queues = s.queues := by
  unfold State.modFloe; split <;> rfl
@[simp] theorem State.modFloe_enqs (s : State) (h : Nat) (g : Floe → Floe) : (s.modFloe h g).enqs = s.enqs := by
  unfold State.modFloe; split <;> rfl
@[simp] theorem State.modFloe_colls (s : State) (h : Nat) (g : Floe → Floe) : (s.modFloe h g).colls = s.colls := by
  unfold State.modFloe; split <;> rfl
@[simp] theorem State.modFloe_clkDue (s : State) (h : Nat) (g : Floe → Floe) : (s.modFloe h g).clkDue = s.clkDue := by
  unfold State.modFloe; split <;> rfl
@[simp] theorem State.modFloe_jOut (s : State) (h : Nat) (g : Floe → Floe) : (s.modFloe h g).jOut = s.jOut := by
  unfold State.modFloe; split <;> rfl
@[simp] theorem State.modFloe_ops (s : State) (h : Nat) (g : Floe → Floe) : (s.modFloe h g).ops = s.ops := by
  unfold State.modFloe; split <;> rfl
@[simp] theorem State.modFloe_copies (s : State) (h : Nat) (g : Floe → Floe) : (s.modFloe h g).copies = s.copies := by
  unfold State.modFloe; split <;> rfl
@[simp] theorem State.modFloe_ctxs (s : State) (h : Nat) (g : Floe → Floe) : (s.modFloe h g).ctxs = s.ctxs := by
  unfold State.modFloe; split <;> rfl
@[simp] theorem State.modFloe_parts (s : State) (h : Nat) (g : Floe → Floe) : (s.modFloe h g).parts = s.parts := by
  unfold State.modFloe; split <;> rfl
@[simp] theorem State.modFloe_hcmdStat (s : State) (h : Nat) (g : Floe → Floe) : (s.modFloe h g).hcmdStat = s.hcmdStat := by
  unfold State.modFloe; split <;> rfl
@[simp] theorem State.modFloe_irqs (s : State) (h : Nat) (g : Floe → Floe) : (s.modFloe h g).irqs = s.irqs := by
  unfold State.modFloe; split <;> rfl
@[simp] theorem State.modFloe_life (s : State) (h : Nat) (g : Floe → Floe) : (s.modFloe h g).life = s.life := by
  unfold State.modFloe; split <;> rfl
@[simp] theorem State.modFloe_net (s : State) (h : Nat) (g : Floe → Floe) : (s.modFloe h g).net = s.net := by
  unfold State.modFloe; split <;> rfl

/-! ### `State.modOp` changes `ops` alone -/

@[simp] theorem State.modOp_turns (s : State) (o : Nat) (g : Op → Op) : (s.modOp o g).turns = s.turns := by
  unfold State.modOp; split <;> rfl
@[simp] theorem State.modOp_cur (s : State) (o : Nat) (g : Op → Op) : (s.modOp o g).cur = s.cur := by
  unfold State.modOp; split <;> rfl
@[simp] theorem State.modOp_fresh (s : State) (o : Nat) (g : Op → Op) : (s.modOp o g).fresh = s.fresh := by
  unfold State.modOp; split <;> rfl
@[simp] theorem State.modOp_nextId (s : State) (o : Nat) (g : Op → Op) : (s.modOp o g).nextId = s.nextId := by
  unfold State.modOp; split <;> rfl
@[simp] theorem State.modOp_gt (s : State) (o : Nat) (g : Op → Op) : (s.modOp o g).gt = s.gt := by
  unfold State.modOp; split <;> rfl
@[simp] theorem State.modOp_clk (s : State) (o : Nat) (g : Op → Op) : (s.modOp o g).clk = s.clk := by
  unfold State.modOp; split <;> rfl
@[simp] theorem State.modOp_gated (s : State) (o : Nat) (g : Op → Op) : (s.modOp o g).gated = s.gated := by
  unfold State.modOp; split <;> rfl
@[simp] theorem State.modOp_pace (s : State) (o : Nat) (g : Op → Op) : (s.modOp o g).pace = s.pace := by
  unfold State.modOp; split <;> rfl
@[simp] theorem State.modOp_firn (s : State) (o : Nat) (g : Op → Op) : (s.modOp o g).firn = s.firn := by
  unfold State.modOp; split <;> rfl
@[simp] theorem State.modOp_ms (s : State) (o : Nat) (g : Op → Op) : (s.modOp o g).ms = s.ms := by
  unfold State.modOp; split <;> rfl
@[simp] theorem State.modOp_cores (s : State) (o : Nat) (g : Op → Op) : (s.modOp o g).cores = s.cores := by
  unfold State.modOp; split <;> rfl
@[simp] theorem State.modOp_floes (s : State) (o : Nat) (g : Op → Op) : (s.modOp o g).floes = s.floes := by
  unfold State.modOp; split <;> rfl
@[simp] theorem State.modOp_mx (s : State) (o : Nat) (g : Op → Op) : (s.modOp o g).mx = s.mx := by
  unfold State.modOp; split <;> rfl
@[simp] theorem State.modOp_kernels (s : State) (o : Nat) (g : Op → Op) : (s.modOp o g).kernels = s.kernels := by
  unfold State.modOp; split <;> rfl
@[simp] theorem State.modOp_insts (s : State) (o : Nat) (g : Op → Op) : (s.modOp o g).insts = s.insts := by
  unfold State.modOp; split <;> rfl
@[simp] theorem State.modOp_engines (s : State) (o : Nat) (g : Op → Op) : (s.modOp o g).engines = s.engines := by
  unfold State.modOp; split <;> rfl
@[simp] theorem State.modOp_events (s : State) (o : Nat) (g : Op → Op) : (s.modOp o g).events = s.events := by
  unfold State.modOp; split <;> rfl
@[simp] theorem State.modOp_colours (s : State) (o : Nat) (g : Op → Op) : (s.modOp o g).colours = s.colours := by
  unfold State.modOp; split <;> rfl
@[simp] theorem State.modOp_queues (s : State) (o : Nat) (g : Op → Op) : (s.modOp o g).queues = s.queues := by
  unfold State.modOp; split <;> rfl
@[simp] theorem State.modOp_enqs (s : State) (o : Nat) (g : Op → Op) : (s.modOp o g).enqs = s.enqs := by
  unfold State.modOp; split <;> rfl
@[simp] theorem State.modOp_colls (s : State) (o : Nat) (g : Op → Op) : (s.modOp o g).colls = s.colls := by
  unfold State.modOp; split <;> rfl
@[simp] theorem State.modOp_clkDue (s : State) (o : Nat) (g : Op → Op) : (s.modOp o g).clkDue = s.clkDue := by
  unfold State.modOp; split <;> rfl
@[simp] theorem State.modOp_jOut (s : State) (o : Nat) (g : Op → Op) : (s.modOp o g).jOut = s.jOut := by
  unfold State.modOp; split <;> rfl
@[simp] theorem State.modOp_copies (s : State) (o : Nat) (g : Op → Op) : (s.modOp o g).copies = s.copies := by
  unfold State.modOp; split <;> rfl
@[simp] theorem State.modOp_ctxs (s : State) (o : Nat) (g : Op → Op) : (s.modOp o g).ctxs = s.ctxs := by
  unfold State.modOp; split <;> rfl
@[simp] theorem State.modOp_parts (s : State) (o : Nat) (g : Op → Op) : (s.modOp o g).parts = s.parts := by
  unfold State.modOp; split <;> rfl
@[simp] theorem State.modOp_hcmdStat (s : State) (o : Nat) (g : Op → Op) : (s.modOp o g).hcmdStat = s.hcmdStat := by
  unfold State.modOp; split <;> rfl
@[simp] theorem State.modOp_irqs (s : State) (o : Nat) (g : Op → Op) : (s.modOp o g).irqs = s.irqs := by
  unfold State.modOp; split <;> rfl
@[simp] theorem State.modOp_life (s : State) (o : Nat) (g : Op → Op) : (s.modOp o g).life = s.life := by
  unfold State.modOp; split <;> rfl
@[simp] theorem State.modOp_net (s : State) (o : Nat) (g : Op → Op) : (s.modOp o g).net = s.net := by
  unfold State.modOp; split <;> rfl

/-! ### `State.modCopy` changes `copies` alone -/

@[simp] theorem State.modCopy_turns (s : State) (o : Nat) (g : Copy → Copy) : (s.modCopy o g).turns = s.turns := by
  unfold State.modCopy; split <;> rfl
@[simp] theorem State.modCopy_cur (s : State) (o : Nat) (g : Copy → Copy) : (s.modCopy o g).cur = s.cur := by
  unfold State.modCopy; split <;> rfl
@[simp] theorem State.modCopy_fresh (s : State) (o : Nat) (g : Copy → Copy) : (s.modCopy o g).fresh = s.fresh := by
  unfold State.modCopy; split <;> rfl
@[simp] theorem State.modCopy_nextId (s : State) (o : Nat) (g : Copy → Copy) : (s.modCopy o g).nextId = s.nextId := by
  unfold State.modCopy; split <;> rfl
@[simp] theorem State.modCopy_gt (s : State) (o : Nat) (g : Copy → Copy) : (s.modCopy o g).gt = s.gt := by
  unfold State.modCopy; split <;> rfl
@[simp] theorem State.modCopy_clk (s : State) (o : Nat) (g : Copy → Copy) : (s.modCopy o g).clk = s.clk := by
  unfold State.modCopy; split <;> rfl
@[simp] theorem State.modCopy_gated (s : State) (o : Nat) (g : Copy → Copy) : (s.modCopy o g).gated = s.gated := by
  unfold State.modCopy; split <;> rfl
@[simp] theorem State.modCopy_pace (s : State) (o : Nat) (g : Copy → Copy) : (s.modCopy o g).pace = s.pace := by
  unfold State.modCopy; split <;> rfl
@[simp] theorem State.modCopy_firn (s : State) (o : Nat) (g : Copy → Copy) : (s.modCopy o g).firn = s.firn := by
  unfold State.modCopy; split <;> rfl
@[simp] theorem State.modCopy_ms (s : State) (o : Nat) (g : Copy → Copy) : (s.modCopy o g).ms = s.ms := by
  unfold State.modCopy; split <;> rfl
@[simp] theorem State.modCopy_cores (s : State) (o : Nat) (g : Copy → Copy) : (s.modCopy o g).cores = s.cores := by
  unfold State.modCopy; split <;> rfl
@[simp] theorem State.modCopy_floes (s : State) (o : Nat) (g : Copy → Copy) : (s.modCopy o g).floes = s.floes := by
  unfold State.modCopy; split <;> rfl
@[simp] theorem State.modCopy_mx (s : State) (o : Nat) (g : Copy → Copy) : (s.modCopy o g).mx = s.mx := by
  unfold State.modCopy; split <;> rfl
@[simp] theorem State.modCopy_kernels (s : State) (o : Nat) (g : Copy → Copy) : (s.modCopy o g).kernels = s.kernels := by
  unfold State.modCopy; split <;> rfl
@[simp] theorem State.modCopy_insts (s : State) (o : Nat) (g : Copy → Copy) : (s.modCopy o g).insts = s.insts := by
  unfold State.modCopy; split <;> rfl
@[simp] theorem State.modCopy_engines (s : State) (o : Nat) (g : Copy → Copy) : (s.modCopy o g).engines = s.engines := by
  unfold State.modCopy; split <;> rfl
@[simp] theorem State.modCopy_events (s : State) (o : Nat) (g : Copy → Copy) : (s.modCopy o g).events = s.events := by
  unfold State.modCopy; split <;> rfl
@[simp] theorem State.modCopy_colours (s : State) (o : Nat) (g : Copy → Copy) : (s.modCopy o g).colours = s.colours := by
  unfold State.modCopy; split <;> rfl
@[simp] theorem State.modCopy_queues (s : State) (o : Nat) (g : Copy → Copy) : (s.modCopy o g).queues = s.queues := by
  unfold State.modCopy; split <;> rfl
@[simp] theorem State.modCopy_enqs (s : State) (o : Nat) (g : Copy → Copy) : (s.modCopy o g).enqs = s.enqs := by
  unfold State.modCopy; split <;> rfl
@[simp] theorem State.modCopy_colls (s : State) (o : Nat) (g : Copy → Copy) : (s.modCopy o g).colls = s.colls := by
  unfold State.modCopy; split <;> rfl
@[simp] theorem State.modCopy_clkDue (s : State) (o : Nat) (g : Copy → Copy) : (s.modCopy o g).clkDue = s.clkDue := by
  unfold State.modCopy; split <;> rfl
@[simp] theorem State.modCopy_jOut (s : State) (o : Nat) (g : Copy → Copy) : (s.modCopy o g).jOut = s.jOut := by
  unfold State.modCopy; split <;> rfl
@[simp] theorem State.modCopy_ops (s : State) (o : Nat) (g : Copy → Copy) : (s.modCopy o g).ops = s.ops := by
  unfold State.modCopy; split <;> rfl
@[simp] theorem State.modCopy_ctxs (s : State) (o : Nat) (g : Copy → Copy) : (s.modCopy o g).ctxs = s.ctxs := by
  unfold State.modCopy; split <;> rfl
@[simp] theorem State.modCopy_parts (s : State) (o : Nat) (g : Copy → Copy) : (s.modCopy o g).parts = s.parts := by
  unfold State.modCopy; split <;> rfl
@[simp] theorem State.modCopy_hcmdStat (s : State) (o : Nat) (g : Copy → Copy) : (s.modCopy o g).hcmdStat = s.hcmdStat := by
  unfold State.modCopy; split <;> rfl
@[simp] theorem State.modCopy_irqs (s : State) (o : Nat) (g : Copy → Copy) : (s.modCopy o g).irqs = s.irqs := by
  unfold State.modCopy; split <;> rfl
@[simp] theorem State.modCopy_life (s : State) (o : Nat) (g : Copy → Copy) : (s.modCopy o g).life = s.life := by
  unfold State.modCopy; split <;> rfl
@[simp] theorem State.modCopy_net (s : State) (o : Nat) (g : Copy → Copy) : (s.modCopy o g).net = s.net := by
  unfold State.modCopy; split <;> rfl

/-! ### `State.modCtx` changes `ctxs` alone -/

@[simp] theorem State.modCtx_turns (s : State) (c : Nat) (g : Ctx → Ctx) : (s.modCtx c g).turns = s.turns := by
  unfold State.modCtx; split <;> rfl
@[simp] theorem State.modCtx_cur (s : State) (c : Nat) (g : Ctx → Ctx) : (s.modCtx c g).cur = s.cur := by
  unfold State.modCtx; split <;> rfl
@[simp] theorem State.modCtx_fresh (s : State) (c : Nat) (g : Ctx → Ctx) : (s.modCtx c g).fresh = s.fresh := by
  unfold State.modCtx; split <;> rfl
@[simp] theorem State.modCtx_nextId (s : State) (c : Nat) (g : Ctx → Ctx) : (s.modCtx c g).nextId = s.nextId := by
  unfold State.modCtx; split <;> rfl
@[simp] theorem State.modCtx_gt (s : State) (c : Nat) (g : Ctx → Ctx) : (s.modCtx c g).gt = s.gt := by
  unfold State.modCtx; split <;> rfl
@[simp] theorem State.modCtx_clk (s : State) (c : Nat) (g : Ctx → Ctx) : (s.modCtx c g).clk = s.clk := by
  unfold State.modCtx; split <;> rfl
@[simp] theorem State.modCtx_gated (s : State) (c : Nat) (g : Ctx → Ctx) : (s.modCtx c g).gated = s.gated := by
  unfold State.modCtx; split <;> rfl
@[simp] theorem State.modCtx_pace (s : State) (c : Nat) (g : Ctx → Ctx) : (s.modCtx c g).pace = s.pace := by
  unfold State.modCtx; split <;> rfl
@[simp] theorem State.modCtx_firn (s : State) (c : Nat) (g : Ctx → Ctx) : (s.modCtx c g).firn = s.firn := by
  unfold State.modCtx; split <;> rfl
@[simp] theorem State.modCtx_ms (s : State) (c : Nat) (g : Ctx → Ctx) : (s.modCtx c g).ms = s.ms := by
  unfold State.modCtx; split <;> rfl
@[simp] theorem State.modCtx_cores (s : State) (c : Nat) (g : Ctx → Ctx) : (s.modCtx c g).cores = s.cores := by
  unfold State.modCtx; split <;> rfl
@[simp] theorem State.modCtx_floes (s : State) (c : Nat) (g : Ctx → Ctx) : (s.modCtx c g).floes = s.floes := by
  unfold State.modCtx; split <;> rfl
@[simp] theorem State.modCtx_mx (s : State) (c : Nat) (g : Ctx → Ctx) : (s.modCtx c g).mx = s.mx := by
  unfold State.modCtx; split <;> rfl
@[simp] theorem State.modCtx_kernels (s : State) (c : Nat) (g : Ctx → Ctx) : (s.modCtx c g).kernels = s.kernels := by
  unfold State.modCtx; split <;> rfl
@[simp] theorem State.modCtx_insts (s : State) (c : Nat) (g : Ctx → Ctx) : (s.modCtx c g).insts = s.insts := by
  unfold State.modCtx; split <;> rfl
@[simp] theorem State.modCtx_engines (s : State) (c : Nat) (g : Ctx → Ctx) : (s.modCtx c g).engines = s.engines := by
  unfold State.modCtx; split <;> rfl
@[simp] theorem State.modCtx_events (s : State) (c : Nat) (g : Ctx → Ctx) : (s.modCtx c g).events = s.events := by
  unfold State.modCtx; split <;> rfl
@[simp] theorem State.modCtx_colours (s : State) (c : Nat) (g : Ctx → Ctx) : (s.modCtx c g).colours = s.colours := by
  unfold State.modCtx; split <;> rfl
@[simp] theorem State.modCtx_queues (s : State) (c : Nat) (g : Ctx → Ctx) : (s.modCtx c g).queues = s.queues := by
  unfold State.modCtx; split <;> rfl
@[simp] theorem State.modCtx_enqs (s : State) (c : Nat) (g : Ctx → Ctx) : (s.modCtx c g).enqs = s.enqs := by
  unfold State.modCtx; split <;> rfl
@[simp] theorem State.modCtx_colls (s : State) (c : Nat) (g : Ctx → Ctx) : (s.modCtx c g).colls = s.colls := by
  unfold State.modCtx; split <;> rfl
@[simp] theorem State.modCtx_clkDue (s : State) (c : Nat) (g : Ctx → Ctx) : (s.modCtx c g).clkDue = s.clkDue := by
  unfold State.modCtx; split <;> rfl
@[simp] theorem State.modCtx_jOut (s : State) (c : Nat) (g : Ctx → Ctx) : (s.modCtx c g).jOut = s.jOut := by
  unfold State.modCtx; split <;> rfl
@[simp] theorem State.modCtx_ops (s : State) (c : Nat) (g : Ctx → Ctx) : (s.modCtx c g).ops = s.ops := by
  unfold State.modCtx; split <;> rfl
@[simp] theorem State.modCtx_copies (s : State) (c : Nat) (g : Ctx → Ctx) : (s.modCtx c g).copies = s.copies := by
  unfold State.modCtx; split <;> rfl
@[simp] theorem State.modCtx_parts (s : State) (c : Nat) (g : Ctx → Ctx) : (s.modCtx c g).parts = s.parts := by
  unfold State.modCtx; split <;> rfl
@[simp] theorem State.modCtx_hcmdStat (s : State) (c : Nat) (g : Ctx → Ctx) : (s.modCtx c g).hcmdStat = s.hcmdStat := by
  unfold State.modCtx; split <;> rfl
@[simp] theorem State.modCtx_irqs (s : State) (c : Nat) (g : Ctx → Ctx) : (s.modCtx c g).irqs = s.irqs := by
  unfold State.modCtx; split <;> rfl
@[simp] theorem State.modCtx_life (s : State) (c : Nat) (g : Ctx → Ctx) : (s.modCtx c g).life = s.life := by
  unfold State.modCtx; split <;> rfl
@[simp] theorem State.modCtx_net (s : State) (c : Nat) (g : Ctx → Ctx) : (s.modCtx c g).net = s.net := by
  unfold State.modCtx; split <;> rfl

/-! ### `State.modInst` changes `insts` alone -/

@[simp] theorem State.modInst_turns (s : State) (c i : Nat) (g : Inst → Inst) : (s.modInst c i g).turns = s.turns := by
  unfold State.modInst; split <;> rfl
@[simp] theorem State.modInst_cur (s : State) (c i : Nat) (g : Inst → Inst) : (s.modInst c i g).cur = s.cur := by
  unfold State.modInst; split <;> rfl
@[simp] theorem State.modInst_fresh (s : State) (c i : Nat) (g : Inst → Inst) : (s.modInst c i g).fresh = s.fresh := by
  unfold State.modInst; split <;> rfl
@[simp] theorem State.modInst_nextId (s : State) (c i : Nat) (g : Inst → Inst) : (s.modInst c i g).nextId = s.nextId := by
  unfold State.modInst; split <;> rfl
@[simp] theorem State.modInst_gt (s : State) (c i : Nat) (g : Inst → Inst) : (s.modInst c i g).gt = s.gt := by
  unfold State.modInst; split <;> rfl
@[simp] theorem State.modInst_clk (s : State) (c i : Nat) (g : Inst → Inst) : (s.modInst c i g).clk = s.clk := by
  unfold State.modInst; split <;> rfl
@[simp] theorem State.modInst_gated (s : State) (c i : Nat) (g : Inst → Inst) : (s.modInst c i g).gated = s.gated := by
  unfold State.modInst; split <;> rfl
@[simp] theorem State.modInst_pace (s : State) (c i : Nat) (g : Inst → Inst) : (s.modInst c i g).pace = s.pace := by
  unfold State.modInst; split <;> rfl
@[simp] theorem State.modInst_firn (s : State) (c i : Nat) (g : Inst → Inst) : (s.modInst c i g).firn = s.firn := by
  unfold State.modInst; split <;> rfl
@[simp] theorem State.modInst_ms (s : State) (c i : Nat) (g : Inst → Inst) : (s.modInst c i g).ms = s.ms := by
  unfold State.modInst; split <;> rfl
@[simp] theorem State.modInst_cores (s : State) (c i : Nat) (g : Inst → Inst) : (s.modInst c i g).cores = s.cores := by
  unfold State.modInst; split <;> rfl
@[simp] theorem State.modInst_floes (s : State) (c i : Nat) (g : Inst → Inst) : (s.modInst c i g).floes = s.floes := by
  unfold State.modInst; split <;> rfl
@[simp] theorem State.modInst_mx (s : State) (c i : Nat) (g : Inst → Inst) : (s.modInst c i g).mx = s.mx := by
  unfold State.modInst; split <;> rfl
@[simp] theorem State.modInst_kernels (s : State) (c i : Nat) (g : Inst → Inst) : (s.modInst c i g).kernels = s.kernels := by
  unfold State.modInst; split <;> rfl
@[simp] theorem State.modInst_engines (s : State) (c i : Nat) (g : Inst → Inst) : (s.modInst c i g).engines = s.engines := by
  unfold State.modInst; split <;> rfl
@[simp] theorem State.modInst_events (s : State) (c i : Nat) (g : Inst → Inst) : (s.modInst c i g).events = s.events := by
  unfold State.modInst; split <;> rfl
@[simp] theorem State.modInst_colours (s : State) (c i : Nat) (g : Inst → Inst) : (s.modInst c i g).colours = s.colours := by
  unfold State.modInst; split <;> rfl
@[simp] theorem State.modInst_queues (s : State) (c i : Nat) (g : Inst → Inst) : (s.modInst c i g).queues = s.queues := by
  unfold State.modInst; split <;> rfl
@[simp] theorem State.modInst_enqs (s : State) (c i : Nat) (g : Inst → Inst) : (s.modInst c i g).enqs = s.enqs := by
  unfold State.modInst; split <;> rfl
@[simp] theorem State.modInst_colls (s : State) (c i : Nat) (g : Inst → Inst) : (s.modInst c i g).colls = s.colls := by
  unfold State.modInst; split <;> rfl
@[simp] theorem State.modInst_clkDue (s : State) (c i : Nat) (g : Inst → Inst) : (s.modInst c i g).clkDue = s.clkDue := by
  unfold State.modInst; split <;> rfl
@[simp] theorem State.modInst_jOut (s : State) (c i : Nat) (g : Inst → Inst) : (s.modInst c i g).jOut = s.jOut := by
  unfold State.modInst; split <;> rfl
@[simp] theorem State.modInst_ops (s : State) (c i : Nat) (g : Inst → Inst) : (s.modInst c i g).ops = s.ops := by
  unfold State.modInst; split <;> rfl
@[simp] theorem State.modInst_copies (s : State) (c i : Nat) (g : Inst → Inst) : (s.modInst c i g).copies = s.copies := by
  unfold State.modInst; split <;> rfl
@[simp] theorem State.modInst_ctxs (s : State) (c i : Nat) (g : Inst → Inst) : (s.modInst c i g).ctxs = s.ctxs := by
  unfold State.modInst; split <;> rfl
@[simp] theorem State.modInst_parts (s : State) (c i : Nat) (g : Inst → Inst) : (s.modInst c i g).parts = s.parts := by
  unfold State.modInst; split <;> rfl
@[simp] theorem State.modInst_hcmdStat (s : State) (c i : Nat) (g : Inst → Inst) : (s.modInst c i g).hcmdStat = s.hcmdStat := by
  unfold State.modInst; split <;> rfl
@[simp] theorem State.modInst_irqs (s : State) (c i : Nat) (g : Inst → Inst) : (s.modInst c i g).irqs = s.irqs := by
  unfold State.modInst; split <;> rfl
@[simp] theorem State.modInst_life (s : State) (c i : Nat) (g : Inst → Inst) : (s.modInst c i g).life = s.life := by
  unfold State.modInst; split <;> rfl
@[simp] theorem State.modInst_net (s : State) (c i : Nat) (g : Inst → Inst) : (s.modInst c i g).net = s.net := by
  unfold State.modInst; split <;> rfl

/-! ### `State.modQueue` changes `queues` alone -/

@[simp] theorem State.modQueue_turns (s : State) (k : Nat) (g : Queue → Queue) : (s.modQueue k g).turns = s.turns := by
  unfold State.modQueue; split <;> rfl
@[simp] theorem State.modQueue_cur (s : State) (k : Nat) (g : Queue → Queue) : (s.modQueue k g).cur = s.cur := by
  unfold State.modQueue; split <;> rfl
@[simp] theorem State.modQueue_fresh (s : State) (k : Nat) (g : Queue → Queue) : (s.modQueue k g).fresh = s.fresh := by
  unfold State.modQueue; split <;> rfl
@[simp] theorem State.modQueue_nextId (s : State) (k : Nat) (g : Queue → Queue) : (s.modQueue k g).nextId = s.nextId := by
  unfold State.modQueue; split <;> rfl
@[simp] theorem State.modQueue_gt (s : State) (k : Nat) (g : Queue → Queue) : (s.modQueue k g).gt = s.gt := by
  unfold State.modQueue; split <;> rfl
@[simp] theorem State.modQueue_clk (s : State) (k : Nat) (g : Queue → Queue) : (s.modQueue k g).clk = s.clk := by
  unfold State.modQueue; split <;> rfl
@[simp] theorem State.modQueue_gated (s : State) (k : Nat) (g : Queue → Queue) : (s.modQueue k g).gated = s.gated := by
  unfold State.modQueue; split <;> rfl
@[simp] theorem State.modQueue_pace (s : State) (k : Nat) (g : Queue → Queue) : (s.modQueue k g).pace = s.pace := by
  unfold State.modQueue; split <;> rfl
@[simp] theorem State.modQueue_firn (s : State) (k : Nat) (g : Queue → Queue) : (s.modQueue k g).firn = s.firn := by
  unfold State.modQueue; split <;> rfl
@[simp] theorem State.modQueue_ms (s : State) (k : Nat) (g : Queue → Queue) : (s.modQueue k g).ms = s.ms := by
  unfold State.modQueue; split <;> rfl
@[simp] theorem State.modQueue_cores (s : State) (k : Nat) (g : Queue → Queue) : (s.modQueue k g).cores = s.cores := by
  unfold State.modQueue; split <;> rfl
@[simp] theorem State.modQueue_floes (s : State) (k : Nat) (g : Queue → Queue) : (s.modQueue k g).floes = s.floes := by
  unfold State.modQueue; split <;> rfl
@[simp] theorem State.modQueue_mx (s : State) (k : Nat) (g : Queue → Queue) : (s.modQueue k g).mx = s.mx := by
  unfold State.modQueue; split <;> rfl
@[simp] theorem State.modQueue_kernels (s : State) (k : Nat) (g : Queue → Queue) : (s.modQueue k g).kernels = s.kernels := by
  unfold State.modQueue; split <;> rfl
@[simp] theorem State.modQueue_insts (s : State) (k : Nat) (g : Queue → Queue) : (s.modQueue k g).insts = s.insts := by
  unfold State.modQueue; split <;> rfl
@[simp] theorem State.modQueue_engines (s : State) (k : Nat) (g : Queue → Queue) : (s.modQueue k g).engines = s.engines := by
  unfold State.modQueue; split <;> rfl
@[simp] theorem State.modQueue_events (s : State) (k : Nat) (g : Queue → Queue) : (s.modQueue k g).events = s.events := by
  unfold State.modQueue; split <;> rfl
@[simp] theorem State.modQueue_colours (s : State) (k : Nat) (g : Queue → Queue) : (s.modQueue k g).colours = s.colours := by
  unfold State.modQueue; split <;> rfl
@[simp] theorem State.modQueue_enqs (s : State) (k : Nat) (g : Queue → Queue) : (s.modQueue k g).enqs = s.enqs := by
  unfold State.modQueue; split <;> rfl
@[simp] theorem State.modQueue_colls (s : State) (k : Nat) (g : Queue → Queue) : (s.modQueue k g).colls = s.colls := by
  unfold State.modQueue; split <;> rfl
@[simp] theorem State.modQueue_clkDue (s : State) (k : Nat) (g : Queue → Queue) : (s.modQueue k g).clkDue = s.clkDue := by
  unfold State.modQueue; split <;> rfl
@[simp] theorem State.modQueue_jOut (s : State) (k : Nat) (g : Queue → Queue) : (s.modQueue k g).jOut = s.jOut := by
  unfold State.modQueue; split <;> rfl
@[simp] theorem State.modQueue_ops (s : State) (k : Nat) (g : Queue → Queue) : (s.modQueue k g).ops = s.ops := by
  unfold State.modQueue; split <;> rfl
@[simp] theorem State.modQueue_copies (s : State) (k : Nat) (g : Queue → Queue) : (s.modQueue k g).copies = s.copies := by
  unfold State.modQueue; split <;> rfl
@[simp] theorem State.modQueue_ctxs (s : State) (k : Nat) (g : Queue → Queue) : (s.modQueue k g).ctxs = s.ctxs := by
  unfold State.modQueue; split <;> rfl
@[simp] theorem State.modQueue_parts (s : State) (k : Nat) (g : Queue → Queue) : (s.modQueue k g).parts = s.parts := by
  unfold State.modQueue; split <;> rfl
@[simp] theorem State.modQueue_hcmdStat (s : State) (k : Nat) (g : Queue → Queue) : (s.modQueue k g).hcmdStat = s.hcmdStat := by
  unfold State.modQueue; split <;> rfl
@[simp] theorem State.modQueue_irqs (s : State) (k : Nat) (g : Queue → Queue) : (s.modQueue k g).irqs = s.irqs := by
  unfold State.modQueue; split <;> rfl
@[simp] theorem State.modQueue_life (s : State) (k : Nat) (g : Queue → Queue) : (s.modQueue k g).life = s.life := by
  unfold State.modQueue; split <;> rfl
@[simp] theorem State.modQueue_net (s : State) (k : Nat) (g : Queue → Queue) : (s.modQueue k g).net = s.net := by
  unfold State.modQueue; split <;> rfl

/-! ### `State.postRecord` changes `ctxs` alone -/

@[simp] theorem State.postRecord_turns (s : State) (c : Nat) (r : List Byte) : (s.postRecord c r).turns = s.turns := by simp [State.postRecord]
@[simp] theorem State.postRecord_cur (s : State) (c : Nat) (r : List Byte) : (s.postRecord c r).cur = s.cur := by simp [State.postRecord]
@[simp] theorem State.postRecord_fresh (s : State) (c : Nat) (r : List Byte) : (s.postRecord c r).fresh = s.fresh := by simp [State.postRecord]
@[simp] theorem State.postRecord_nextId (s : State) (c : Nat) (r : List Byte) : (s.postRecord c r).nextId = s.nextId := by simp [State.postRecord]
@[simp] theorem State.postRecord_gt (s : State) (c : Nat) (r : List Byte) : (s.postRecord c r).gt = s.gt := by simp [State.postRecord]
@[simp] theorem State.postRecord_clk (s : State) (c : Nat) (r : List Byte) : (s.postRecord c r).clk = s.clk := by simp [State.postRecord]
@[simp] theorem State.postRecord_gated (s : State) (c : Nat) (r : List Byte) : (s.postRecord c r).gated = s.gated := by simp [State.postRecord]
@[simp] theorem State.postRecord_pace (s : State) (c : Nat) (r : List Byte) : (s.postRecord c r).pace = s.pace := by simp [State.postRecord]
@[simp] theorem State.postRecord_firn (s : State) (c : Nat) (r : List Byte) : (s.postRecord c r).firn = s.firn := by simp [State.postRecord]
@[simp] theorem State.postRecord_ms (s : State) (c : Nat) (r : List Byte) : (s.postRecord c r).ms = s.ms := by simp [State.postRecord]
@[simp] theorem State.postRecord_cores (s : State) (c : Nat) (r : List Byte) : (s.postRecord c r).cores = s.cores := by simp [State.postRecord]
@[simp] theorem State.postRecord_floes (s : State) (c : Nat) (r : List Byte) : (s.postRecord c r).floes = s.floes := by simp [State.postRecord]
@[simp] theorem State.postRecord_mx (s : State) (c : Nat) (r : List Byte) : (s.postRecord c r).mx = s.mx := by simp [State.postRecord]
@[simp] theorem State.postRecord_kernels (s : State) (c : Nat) (r : List Byte) : (s.postRecord c r).kernels = s.kernels := by simp [State.postRecord]
@[simp] theorem State.postRecord_insts (s : State) (c : Nat) (r : List Byte) : (s.postRecord c r).insts = s.insts := by simp [State.postRecord]
@[simp] theorem State.postRecord_engines (s : State) (c : Nat) (r : List Byte) : (s.postRecord c r).engines = s.engines := by simp [State.postRecord]
@[simp] theorem State.postRecord_events (s : State) (c : Nat) (r : List Byte) : (s.postRecord c r).events = s.events := by simp [State.postRecord]
@[simp] theorem State.postRecord_colours (s : State) (c : Nat) (r : List Byte) : (s.postRecord c r).colours = s.colours := by simp [State.postRecord]
@[simp] theorem State.postRecord_queues (s : State) (c : Nat) (r : List Byte) : (s.postRecord c r).queues = s.queues := by simp [State.postRecord]
@[simp] theorem State.postRecord_enqs (s : State) (c : Nat) (r : List Byte) : (s.postRecord c r).enqs = s.enqs := by simp [State.postRecord]
@[simp] theorem State.postRecord_colls (s : State) (c : Nat) (r : List Byte) : (s.postRecord c r).colls = s.colls := by simp [State.postRecord]
@[simp] theorem State.postRecord_clkDue (s : State) (c : Nat) (r : List Byte) : (s.postRecord c r).clkDue = s.clkDue := by simp [State.postRecord]
@[simp] theorem State.postRecord_jOut (s : State) (c : Nat) (r : List Byte) : (s.postRecord c r).jOut = s.jOut := by simp [State.postRecord]
@[simp] theorem State.postRecord_ops (s : State) (c : Nat) (r : List Byte) : (s.postRecord c r).ops = s.ops := by simp [State.postRecord]
@[simp] theorem State.postRecord_copies (s : State) (c : Nat) (r : List Byte) : (s.postRecord c r).copies = s.copies := by simp [State.postRecord]
@[simp] theorem State.postRecord_parts (s : State) (c : Nat) (r : List Byte) : (s.postRecord c r).parts = s.parts := by simp [State.postRecord]
@[simp] theorem State.postRecord_hcmdStat (s : State) (c : Nat) (r : List Byte) : (s.postRecord c r).hcmdStat = s.hcmdStat := by simp [State.postRecord]
@[simp] theorem State.postRecord_irqs (s : State) (c : Nat) (r : List Byte) : (s.postRecord c r).irqs = s.irqs := by simp [State.postRecord]
@[simp] theorem State.postRecord_life (s : State) (c : Nat) (r : List Byte) : (s.postRecord c r).life = s.life := by simp [State.postRecord]
@[simp] theorem State.postRecord_net (s : State) (c : Nat) (r : List Byte) : (s.postRecord c r).net = s.net := by simp [State.postRecord]

/-! ### `State.fatal` changes `ctxs` alone -/

@[simp] theorem State.fatal_turns (s : State) (c : Nat) (r : List Byte) : (s.fatal c r).turns = s.turns := by simp [State.fatal]
@[simp] theorem State.fatal_cur (s : State) (c : Nat) (r : List Byte) : (s.fatal c r).cur = s.cur := by simp [State.fatal]
@[simp] theorem State.fatal_fresh (s : State) (c : Nat) (r : List Byte) : (s.fatal c r).fresh = s.fresh := by simp [State.fatal]
@[simp] theorem State.fatal_nextId (s : State) (c : Nat) (r : List Byte) : (s.fatal c r).nextId = s.nextId := by simp [State.fatal]
@[simp] theorem State.fatal_gt (s : State) (c : Nat) (r : List Byte) : (s.fatal c r).gt = s.gt := by simp [State.fatal]
@[simp] theorem State.fatal_clk (s : State) (c : Nat) (r : List Byte) : (s.fatal c r).clk = s.clk := by simp [State.fatal]
@[simp] theorem State.fatal_gated (s : State) (c : Nat) (r : List Byte) : (s.fatal c r).gated = s.gated := by simp [State.fatal]
@[simp] theorem State.fatal_pace (s : State) (c : Nat) (r : List Byte) : (s.fatal c r).pace = s.pace := by simp [State.fatal]
@[simp] theorem State.fatal_firn (s : State) (c : Nat) (r : List Byte) : (s.fatal c r).firn = s.firn := by simp [State.fatal]
@[simp] theorem State.fatal_ms (s : State) (c : Nat) (r : List Byte) : (s.fatal c r).ms = s.ms := by simp [State.fatal]
@[simp] theorem State.fatal_cores (s : State) (c : Nat) (r : List Byte) : (s.fatal c r).cores = s.cores := by simp [State.fatal]
@[simp] theorem State.fatal_floes (s : State) (c : Nat) (r : List Byte) : (s.fatal c r).floes = s.floes := by simp [State.fatal]
@[simp] theorem State.fatal_mx (s : State) (c : Nat) (r : List Byte) : (s.fatal c r).mx = s.mx := by simp [State.fatal]
@[simp] theorem State.fatal_kernels (s : State) (c : Nat) (r : List Byte) : (s.fatal c r).kernels = s.kernels := by simp [State.fatal]
@[simp] theorem State.fatal_insts (s : State) (c : Nat) (r : List Byte) : (s.fatal c r).insts = s.insts := by simp [State.fatal]
@[simp] theorem State.fatal_engines (s : State) (c : Nat) (r : List Byte) : (s.fatal c r).engines = s.engines := by simp [State.fatal]
@[simp] theorem State.fatal_events (s : State) (c : Nat) (r : List Byte) : (s.fatal c r).events = s.events := by simp [State.fatal]
@[simp] theorem State.fatal_colours (s : State) (c : Nat) (r : List Byte) : (s.fatal c r).colours = s.colours := by simp [State.fatal]
@[simp] theorem State.fatal_queues (s : State) (c : Nat) (r : List Byte) : (s.fatal c r).queues = s.queues := by simp [State.fatal]
@[simp] theorem State.fatal_enqs (s : State) (c : Nat) (r : List Byte) : (s.fatal c r).enqs = s.enqs := by simp [State.fatal]
@[simp] theorem State.fatal_colls (s : State) (c : Nat) (r : List Byte) : (s.fatal c r).colls = s.colls := by simp [State.fatal]
@[simp] theorem State.fatal_clkDue (s : State) (c : Nat) (r : List Byte) : (s.fatal c r).clkDue = s.clkDue := by simp [State.fatal]
@[simp] theorem State.fatal_jOut (s : State) (c : Nat) (r : List Byte) : (s.fatal c r).jOut = s.jOut := by simp [State.fatal]
@[simp] theorem State.fatal_ops (s : State) (c : Nat) (r : List Byte) : (s.fatal c r).ops = s.ops := by simp [State.fatal]
@[simp] theorem State.fatal_copies (s : State) (c : Nat) (r : List Byte) : (s.fatal c r).copies = s.copies := by simp [State.fatal]
@[simp] theorem State.fatal_parts (s : State) (c : Nat) (r : List Byte) : (s.fatal c r).parts = s.parts := by simp [State.fatal]
@[simp] theorem State.fatal_hcmdStat (s : State) (c : Nat) (r : List Byte) : (s.fatal c r).hcmdStat = s.hcmdStat := by simp [State.fatal]
@[simp] theorem State.fatal_irqs (s : State) (c : Nat) (r : List Byte) : (s.fatal c r).irqs = s.irqs := by simp [State.fatal]
@[simp] theorem State.fatal_life (s : State) (c : Nat) (r : List Byte) : (s.fatal c r).life = s.life := by simp [State.fatal]
@[simp] theorem State.fatal_net (s : State) (c : Nat) (r : List Byte) : (s.fatal c r).net = s.net := by simp [State.fatal]

/-! ### `State.orFlags` changes `floes` alone -/

@[simp] theorem State.orFlags_turns (s : State) (h : Nat) (x : Fx) : (s.orFlags h x).turns = s.turns := by simp [State.orFlags]
@[simp] theorem State.orFlags_cur (s : State) (h : Nat) (x : Fx) : (s.orFlags h x).cur = s.cur := by simp [State.orFlags]
@[simp] theorem State.orFlags_fresh (s : State) (h : Nat) (x : Fx) : (s.orFlags h x).fresh = s.fresh := by simp [State.orFlags]
@[simp] theorem State.orFlags_nextId (s : State) (h : Nat) (x : Fx) : (s.orFlags h x).nextId = s.nextId := by simp [State.orFlags]
@[simp] theorem State.orFlags_gt (s : State) (h : Nat) (x : Fx) : (s.orFlags h x).gt = s.gt := by simp [State.orFlags]
@[simp] theorem State.orFlags_clk (s : State) (h : Nat) (x : Fx) : (s.orFlags h x).clk = s.clk := by simp [State.orFlags]
@[simp] theorem State.orFlags_gated (s : State) (h : Nat) (x : Fx) : (s.orFlags h x).gated = s.gated := by simp [State.orFlags]
@[simp] theorem State.orFlags_pace (s : State) (h : Nat) (x : Fx) : (s.orFlags h x).pace = s.pace := by simp [State.orFlags]
@[simp] theorem State.orFlags_firn (s : State) (h : Nat) (x : Fx) : (s.orFlags h x).firn = s.firn := by simp [State.orFlags]
@[simp] theorem State.orFlags_ms (s : State) (h : Nat) (x : Fx) : (s.orFlags h x).ms = s.ms := by simp [State.orFlags]
@[simp] theorem State.orFlags_cores (s : State) (h : Nat) (x : Fx) : (s.orFlags h x).cores = s.cores := by simp [State.orFlags]
@[simp] theorem State.orFlags_mx (s : State) (h : Nat) (x : Fx) : (s.orFlags h x).mx = s.mx := by simp [State.orFlags]
@[simp] theorem State.orFlags_kernels (s : State) (h : Nat) (x : Fx) : (s.orFlags h x).kernels = s.kernels := by simp [State.orFlags]
@[simp] theorem State.orFlags_insts (s : State) (h : Nat) (x : Fx) : (s.orFlags h x).insts = s.insts := by simp [State.orFlags]
@[simp] theorem State.orFlags_engines (s : State) (h : Nat) (x : Fx) : (s.orFlags h x).engines = s.engines := by simp [State.orFlags]
@[simp] theorem State.orFlags_events (s : State) (h : Nat) (x : Fx) : (s.orFlags h x).events = s.events := by simp [State.orFlags]
@[simp] theorem State.orFlags_colours (s : State) (h : Nat) (x : Fx) : (s.orFlags h x).colours = s.colours := by simp [State.orFlags]
@[simp] theorem State.orFlags_queues (s : State) (h : Nat) (x : Fx) : (s.orFlags h x).queues = s.queues := by simp [State.orFlags]
@[simp] theorem State.orFlags_enqs (s : State) (h : Nat) (x : Fx) : (s.orFlags h x).enqs = s.enqs := by simp [State.orFlags]
@[simp] theorem State.orFlags_colls (s : State) (h : Nat) (x : Fx) : (s.orFlags h x).colls = s.colls := by simp [State.orFlags]
@[simp] theorem State.orFlags_clkDue (s : State) (h : Nat) (x : Fx) : (s.orFlags h x).clkDue = s.clkDue := by simp [State.orFlags]
@[simp] theorem State.orFlags_jOut (s : State) (h : Nat) (x : Fx) : (s.orFlags h x).jOut = s.jOut := by simp [State.orFlags]
@[simp] theorem State.orFlags_ops (s : State) (h : Nat) (x : Fx) : (s.orFlags h x).ops = s.ops := by simp [State.orFlags]
@[simp] theorem State.orFlags_copies (s : State) (h : Nat) (x : Fx) : (s.orFlags h x).copies = s.copies := by simp [State.orFlags]
@[simp] theorem State.orFlags_ctxs (s : State) (h : Nat) (x : Fx) : (s.orFlags h x).ctxs = s.ctxs := by simp [State.orFlags]
@[simp] theorem State.orFlags_parts (s : State) (h : Nat) (x : Fx) : (s.orFlags h x).parts = s.parts := by simp [State.orFlags]
@[simp] theorem State.orFlags_hcmdStat (s : State) (h : Nat) (x : Fx) : (s.orFlags h x).hcmdStat = s.hcmdStat := by simp [State.orFlags]
@[simp] theorem State.orFlags_irqs (s : State) (h : Nat) (x : Fx) : (s.orFlags h x).irqs = s.irqs := by simp [State.orFlags]
@[simp] theorem State.orFlags_life (s : State) (h : Nat) (x : Fx) : (s.orFlags h x).life = s.life := by simp [State.orFlags]
@[simp] theorem State.orFlags_net (s : State) (h : Nat) (x : Fx) : (s.orFlags h x).net = s.net := by simp [State.orFlags]

/-! ### `State.wrReg` changes `firn` alone -/

@[simp] theorem State.wrReg_turns (s : State) (f : Floe) (r : Reg) (l : Nat) (w : FirnWord) : (s.wrReg f r l w).turns = s.turns := by
  unfold State.wrReg; dsimp only; split <;> rfl
@[simp] theorem State.wrReg_cur (s : State) (f : Floe) (r : Reg) (l : Nat) (w : FirnWord) : (s.wrReg f r l w).cur = s.cur := by
  unfold State.wrReg; dsimp only; split <;> rfl
@[simp] theorem State.wrReg_fresh (s : State) (f : Floe) (r : Reg) (l : Nat) (w : FirnWord) : (s.wrReg f r l w).fresh = s.fresh := by
  unfold State.wrReg; dsimp only; split <;> rfl
@[simp] theorem State.wrReg_nextId (s : State) (f : Floe) (r : Reg) (l : Nat) (w : FirnWord) : (s.wrReg f r l w).nextId = s.nextId := by
  unfold State.wrReg; dsimp only; split <;> rfl
@[simp] theorem State.wrReg_gt (s : State) (f : Floe) (r : Reg) (l : Nat) (w : FirnWord) : (s.wrReg f r l w).gt = s.gt := by
  unfold State.wrReg; dsimp only; split <;> rfl
@[simp] theorem State.wrReg_clk (s : State) (f : Floe) (r : Reg) (l : Nat) (w : FirnWord) : (s.wrReg f r l w).clk = s.clk := by
  unfold State.wrReg; dsimp only; split <;> rfl
@[simp] theorem State.wrReg_gated (s : State) (f : Floe) (r : Reg) (l : Nat) (w : FirnWord) : (s.wrReg f r l w).gated = s.gated := by
  unfold State.wrReg; dsimp only; split <;> rfl
@[simp] theorem State.wrReg_pace (s : State) (f : Floe) (r : Reg) (l : Nat) (w : FirnWord) : (s.wrReg f r l w).pace = s.pace := by
  unfold State.wrReg; dsimp only; split <;> rfl
@[simp] theorem State.wrReg_ms (s : State) (f : Floe) (r : Reg) (l : Nat) (w : FirnWord) : (s.wrReg f r l w).ms = s.ms := by
  unfold State.wrReg; dsimp only; split <;> rfl
@[simp] theorem State.wrReg_cores (s : State) (f : Floe) (r : Reg) (l : Nat) (w : FirnWord) : (s.wrReg f r l w).cores = s.cores := by
  unfold State.wrReg; dsimp only; split <;> rfl
@[simp] theorem State.wrReg_floes (s : State) (f : Floe) (r : Reg) (l : Nat) (w : FirnWord) : (s.wrReg f r l w).floes = s.floes := by
  unfold State.wrReg; dsimp only; split <;> rfl
@[simp] theorem State.wrReg_mx (s : State) (f : Floe) (r : Reg) (l : Nat) (w : FirnWord) : (s.wrReg f r l w).mx = s.mx := by
  unfold State.wrReg; dsimp only; split <;> rfl
@[simp] theorem State.wrReg_kernels (s : State) (f : Floe) (r : Reg) (l : Nat) (w : FirnWord) : (s.wrReg f r l w).kernels = s.kernels := by
  unfold State.wrReg; dsimp only; split <;> rfl
@[simp] theorem State.wrReg_insts (s : State) (f : Floe) (r : Reg) (l : Nat) (w : FirnWord) : (s.wrReg f r l w).insts = s.insts := by
  unfold State.wrReg; dsimp only; split <;> rfl
@[simp] theorem State.wrReg_engines (s : State) (f : Floe) (r : Reg) (l : Nat) (w : FirnWord) : (s.wrReg f r l w).engines = s.engines := by
  unfold State.wrReg; dsimp only; split <;> rfl
@[simp] theorem State.wrReg_events (s : State) (f : Floe) (r : Reg) (l : Nat) (w : FirnWord) : (s.wrReg f r l w).events = s.events := by
  unfold State.wrReg; dsimp only; split <;> rfl
@[simp] theorem State.wrReg_colours (s : State) (f : Floe) (r : Reg) (l : Nat) (w : FirnWord) : (s.wrReg f r l w).colours = s.colours := by
  unfold State.wrReg; dsimp only; split <;> rfl
@[simp] theorem State.wrReg_queues (s : State) (f : Floe) (r : Reg) (l : Nat) (w : FirnWord) : (s.wrReg f r l w).queues = s.queues := by
  unfold State.wrReg; dsimp only; split <;> rfl
@[simp] theorem State.wrReg_enqs (s : State) (f : Floe) (r : Reg) (l : Nat) (w : FirnWord) : (s.wrReg f r l w).enqs = s.enqs := by
  unfold State.wrReg; dsimp only; split <;> rfl
@[simp] theorem State.wrReg_colls (s : State) (f : Floe) (r : Reg) (l : Nat) (w : FirnWord) : (s.wrReg f r l w).colls = s.colls := by
  unfold State.wrReg; dsimp only; split <;> rfl
@[simp] theorem State.wrReg_clkDue (s : State) (f : Floe) (r : Reg) (l : Nat) (w : FirnWord) : (s.wrReg f r l w).clkDue = s.clkDue := by
  unfold State.wrReg; dsimp only; split <;> rfl
@[simp] theorem State.wrReg_jOut (s : State) (f : Floe) (r : Reg) (l : Nat) (w : FirnWord) : (s.wrReg f r l w).jOut = s.jOut := by
  unfold State.wrReg; dsimp only; split <;> rfl
@[simp] theorem State.wrReg_ops (s : State) (f : Floe) (r : Reg) (l : Nat) (w : FirnWord) : (s.wrReg f r l w).ops = s.ops := by
  unfold State.wrReg; dsimp only; split <;> rfl
@[simp] theorem State.wrReg_copies (s : State) (f : Floe) (r : Reg) (l : Nat) (w : FirnWord) : (s.wrReg f r l w).copies = s.copies := by
  unfold State.wrReg; dsimp only; split <;> rfl
@[simp] theorem State.wrReg_ctxs (s : State) (f : Floe) (r : Reg) (l : Nat) (w : FirnWord) : (s.wrReg f r l w).ctxs = s.ctxs := by
  unfold State.wrReg; dsimp only; split <;> rfl
@[simp] theorem State.wrReg_parts (s : State) (f : Floe) (r : Reg) (l : Nat) (w : FirnWord) : (s.wrReg f r l w).parts = s.parts := by
  unfold State.wrReg; dsimp only; split <;> rfl
@[simp] theorem State.wrReg_hcmdStat (s : State) (f : Floe) (r : Reg) (l : Nat) (w : FirnWord) : (s.wrReg f r l w).hcmdStat = s.hcmdStat := by
  unfold State.wrReg; dsimp only; split <;> rfl
@[simp] theorem State.wrReg_irqs (s : State) (f : Floe) (r : Reg) (l : Nat) (w : FirnWord) : (s.wrReg f r l w).irqs = s.irqs := by
  unfold State.wrReg; dsimp only; split <;> rfl
@[simp] theorem State.wrReg_life (s : State) (f : Floe) (r : Reg) (l : Nat) (w : FirnWord) : (s.wrReg f r l w).life = s.life := by
  unfold State.wrReg; dsimp only; split <;> rfl
@[simp] theorem State.wrReg_net (s : State) (f : Floe) (r : Reg) (l : Nat) (w : FirnWord) : (s.wrReg f r l w).net = s.net := by
  unfold State.wrReg; dsimp only; split <;> rfl

/-! ### `State.waitOn` changes `floes` alone -/

@[simp] theorem State.waitOn_turns (s : State) (h : Nat) (c : Wait) : (s.waitOn h c).turns = s.turns := by simp [State.waitOn]
@[simp] theorem State.waitOn_cur (s : State) (h : Nat) (c : Wait) : (s.waitOn h c).cur = s.cur := by simp [State.waitOn]
@[simp] theorem State.waitOn_fresh (s : State) (h : Nat) (c : Wait) : (s.waitOn h c).fresh = s.fresh := by simp [State.waitOn]
@[simp] theorem State.waitOn_nextId (s : State) (h : Nat) (c : Wait) : (s.waitOn h c).nextId = s.nextId := by simp [State.waitOn]
@[simp] theorem State.waitOn_gt (s : State) (h : Nat) (c : Wait) : (s.waitOn h c).gt = s.gt := by simp [State.waitOn]
@[simp] theorem State.waitOn_clk (s : State) (h : Nat) (c : Wait) : (s.waitOn h c).clk = s.clk := by simp [State.waitOn]
@[simp] theorem State.waitOn_gated (s : State) (h : Nat) (c : Wait) : (s.waitOn h c).gated = s.gated := by simp [State.waitOn]
@[simp] theorem State.waitOn_pace (s : State) (h : Nat) (c : Wait) : (s.waitOn h c).pace = s.pace := by simp [State.waitOn]
@[simp] theorem State.waitOn_firn (s : State) (h : Nat) (c : Wait) : (s.waitOn h c).firn = s.firn := by simp [State.waitOn]
@[simp] theorem State.waitOn_ms (s : State) (h : Nat) (c : Wait) : (s.waitOn h c).ms = s.ms := by simp [State.waitOn]
@[simp] theorem State.waitOn_cores (s : State) (h : Nat) (c : Wait) : (s.waitOn h c).cores = s.cores := by simp [State.waitOn]
@[simp] theorem State.waitOn_mx (s : State) (h : Nat) (c : Wait) : (s.waitOn h c).mx = s.mx := by simp [State.waitOn]
@[simp] theorem State.waitOn_kernels (s : State) (h : Nat) (c : Wait) : (s.waitOn h c).kernels = s.kernels := by simp [State.waitOn]
@[simp] theorem State.waitOn_insts (s : State) (h : Nat) (c : Wait) : (s.waitOn h c).insts = s.insts := by simp [State.waitOn]
@[simp] theorem State.waitOn_engines (s : State) (h : Nat) (c : Wait) : (s.waitOn h c).engines = s.engines := by simp [State.waitOn]
@[simp] theorem State.waitOn_events (s : State) (h : Nat) (c : Wait) : (s.waitOn h c).events = s.events := by simp [State.waitOn]
@[simp] theorem State.waitOn_colours (s : State) (h : Nat) (c : Wait) : (s.waitOn h c).colours = s.colours := by simp [State.waitOn]
@[simp] theorem State.waitOn_queues (s : State) (h : Nat) (c : Wait) : (s.waitOn h c).queues = s.queues := by simp [State.waitOn]
@[simp] theorem State.waitOn_enqs (s : State) (h : Nat) (c : Wait) : (s.waitOn h c).enqs = s.enqs := by simp [State.waitOn]
@[simp] theorem State.waitOn_colls (s : State) (h : Nat) (c : Wait) : (s.waitOn h c).colls = s.colls := by simp [State.waitOn]
@[simp] theorem State.waitOn_clkDue (s : State) (h : Nat) (c : Wait) : (s.waitOn h c).clkDue = s.clkDue := by simp [State.waitOn]
@[simp] theorem State.waitOn_jOut (s : State) (h : Nat) (c : Wait) : (s.waitOn h c).jOut = s.jOut := by simp [State.waitOn]
@[simp] theorem State.waitOn_ops (s : State) (h : Nat) (c : Wait) : (s.waitOn h c).ops = s.ops := by simp [State.waitOn]
@[simp] theorem State.waitOn_copies (s : State) (h : Nat) (c : Wait) : (s.waitOn h c).copies = s.copies := by simp [State.waitOn]
@[simp] theorem State.waitOn_ctxs (s : State) (h : Nat) (c : Wait) : (s.waitOn h c).ctxs = s.ctxs := by simp [State.waitOn]
@[simp] theorem State.waitOn_parts (s : State) (h : Nat) (c : Wait) : (s.waitOn h c).parts = s.parts := by simp [State.waitOn]
@[simp] theorem State.waitOn_hcmdStat (s : State) (h : Nat) (c : Wait) : (s.waitOn h c).hcmdStat = s.hcmdStat := by simp [State.waitOn]
@[simp] theorem State.waitOn_irqs (s : State) (h : Nat) (c : Wait) : (s.waitOn h c).irqs = s.irqs := by simp [State.waitOn]
@[simp] theorem State.waitOn_life (s : State) (h : Nat) (c : Wait) : (s.waitOn h c).life = s.life := by simp [State.waitOn]
@[simp] theorem State.waitOn_net (s : State) (h : Nat) (c : Wait) : (s.waitOn h c).net = s.net := by simp [State.waitOn]

/-! ### `State.sendEv` changes `ctxs` alone -/

@[simp] theorem State.sendEv_turns (s : State) (c : Nat) (o : EvOp) : (s.sendEv c o).turns = s.turns := by simp [State.sendEv]
@[simp] theorem State.sendEv_cur (s : State) (c : Nat) (o : EvOp) : (s.sendEv c o).cur = s.cur := by simp [State.sendEv]
@[simp] theorem State.sendEv_fresh (s : State) (c : Nat) (o : EvOp) : (s.sendEv c o).fresh = s.fresh := by simp [State.sendEv]
@[simp] theorem State.sendEv_nextId (s : State) (c : Nat) (o : EvOp) : (s.sendEv c o).nextId = s.nextId := by simp [State.sendEv]
@[simp] theorem State.sendEv_gt (s : State) (c : Nat) (o : EvOp) : (s.sendEv c o).gt = s.gt := by simp [State.sendEv]
@[simp] theorem State.sendEv_clk (s : State) (c : Nat) (o : EvOp) : (s.sendEv c o).clk = s.clk := by simp [State.sendEv]
@[simp] theorem State.sendEv_gated (s : State) (c : Nat) (o : EvOp) : (s.sendEv c o).gated = s.gated := by simp [State.sendEv]
@[simp] theorem State.sendEv_pace (s : State) (c : Nat) (o : EvOp) : (s.sendEv c o).pace = s.pace := by simp [State.sendEv]
@[simp] theorem State.sendEv_firn (s : State) (c : Nat) (o : EvOp) : (s.sendEv c o).firn = s.firn := by simp [State.sendEv]
@[simp] theorem State.sendEv_ms (s : State) (c : Nat) (o : EvOp) : (s.sendEv c o).ms = s.ms := by simp [State.sendEv]
@[simp] theorem State.sendEv_cores (s : State) (c : Nat) (o : EvOp) : (s.sendEv c o).cores = s.cores := by simp [State.sendEv]
@[simp] theorem State.sendEv_floes (s : State) (c : Nat) (o : EvOp) : (s.sendEv c o).floes = s.floes := by simp [State.sendEv]
@[simp] theorem State.sendEv_mx (s : State) (c : Nat) (o : EvOp) : (s.sendEv c o).mx = s.mx := by simp [State.sendEv]
@[simp] theorem State.sendEv_kernels (s : State) (c : Nat) (o : EvOp) : (s.sendEv c o).kernels = s.kernels := by simp [State.sendEv]
@[simp] theorem State.sendEv_insts (s : State) (c : Nat) (o : EvOp) : (s.sendEv c o).insts = s.insts := by simp [State.sendEv]
@[simp] theorem State.sendEv_engines (s : State) (c : Nat) (o : EvOp) : (s.sendEv c o).engines = s.engines := by simp [State.sendEv]
@[simp] theorem State.sendEv_events (s : State) (c : Nat) (o : EvOp) : (s.sendEv c o).events = s.events := by simp [State.sendEv]
@[simp] theorem State.sendEv_colours (s : State) (c : Nat) (o : EvOp) : (s.sendEv c o).colours = s.colours := by simp [State.sendEv]
@[simp] theorem State.sendEv_queues (s : State) (c : Nat) (o : EvOp) : (s.sendEv c o).queues = s.queues := by simp [State.sendEv]
@[simp] theorem State.sendEv_enqs (s : State) (c : Nat) (o : EvOp) : (s.sendEv c o).enqs = s.enqs := by simp [State.sendEv]
@[simp] theorem State.sendEv_colls (s : State) (c : Nat) (o : EvOp) : (s.sendEv c o).colls = s.colls := by simp [State.sendEv]
@[simp] theorem State.sendEv_clkDue (s : State) (c : Nat) (o : EvOp) : (s.sendEv c o).clkDue = s.clkDue := by simp [State.sendEv]
@[simp] theorem State.sendEv_jOut (s : State) (c : Nat) (o : EvOp) : (s.sendEv c o).jOut = s.jOut := by simp [State.sendEv]
@[simp] theorem State.sendEv_ops (s : State) (c : Nat) (o : EvOp) : (s.sendEv c o).ops = s.ops := by simp [State.sendEv]
@[simp] theorem State.sendEv_copies (s : State) (c : Nat) (o : EvOp) : (s.sendEv c o).copies = s.copies := by simp [State.sendEv]
@[simp] theorem State.sendEv_parts (s : State) (c : Nat) (o : EvOp) : (s.sendEv c o).parts = s.parts := by simp [State.sendEv]
@[simp] theorem State.sendEv_hcmdStat (s : State) (c : Nat) (o : EvOp) : (s.sendEv c o).hcmdStat = s.hcmdStat := by simp [State.sendEv]
@[simp] theorem State.sendEv_irqs (s : State) (c : Nat) (o : EvOp) : (s.sendEv c o).irqs = s.irqs := by simp [State.sendEv]
@[simp] theorem State.sendEv_life (s : State) (c : Nat) (o : EvOp) : (s.sendEv c o).life = s.life := by simp [State.sendEv]
@[simp] theorem State.sendEv_net (s : State) (c : Nat) (o : EvOp) : (s.sendEv c o).net = s.net := by simp [State.sendEv]

/-! ### `State.vector` changes `floes`, `ctxs` alone -/

@[simp] theorem State.vector_turns (s : State) (h : Nat) (b : Bool) (pc n : Dword) (t : TrapInfo) : (s.vector h b pc n t).turns = s.turns := by
  unfold State.vector; (repeat' split) <;> simp
@[simp] theorem State.vector_cur (s : State) (h : Nat) (b : Bool) (pc n : Dword) (t : TrapInfo) : (s.vector h b pc n t).cur = s.cur := by
  unfold State.vector; (repeat' split) <;> simp
@[simp] theorem State.vector_fresh (s : State) (h : Nat) (b : Bool) (pc n : Dword) (t : TrapInfo) : (s.vector h b pc n t).fresh = s.fresh := by
  unfold State.vector; (repeat' split) <;> simp
@[simp] theorem State.vector_nextId (s : State) (h : Nat) (b : Bool) (pc n : Dword) (t : TrapInfo) : (s.vector h b pc n t).nextId = s.nextId := by
  unfold State.vector; (repeat' split) <;> simp
@[simp] theorem State.vector_gt (s : State) (h : Nat) (b : Bool) (pc n : Dword) (t : TrapInfo) : (s.vector h b pc n t).gt = s.gt := by
  unfold State.vector; (repeat' split) <;> simp
@[simp] theorem State.vector_clk (s : State) (h : Nat) (b : Bool) (pc n : Dword) (t : TrapInfo) : (s.vector h b pc n t).clk = s.clk := by
  unfold State.vector; (repeat' split) <;> simp
@[simp] theorem State.vector_gated (s : State) (h : Nat) (b : Bool) (pc n : Dword) (t : TrapInfo) : (s.vector h b pc n t).gated = s.gated := by
  unfold State.vector; (repeat' split) <;> simp
@[simp] theorem State.vector_pace (s : State) (h : Nat) (b : Bool) (pc n : Dword) (t : TrapInfo) : (s.vector h b pc n t).pace = s.pace := by
  unfold State.vector; (repeat' split) <;> simp
@[simp] theorem State.vector_firn (s : State) (h : Nat) (b : Bool) (pc n : Dword) (t : TrapInfo) : (s.vector h b pc n t).firn = s.firn := by
  unfold State.vector; (repeat' split) <;> simp
@[simp] theorem State.vector_ms (s : State) (h : Nat) (b : Bool) (pc n : Dword) (t : TrapInfo) : (s.vector h b pc n t).ms = s.ms := by
  unfold State.vector; (repeat' split) <;> simp
@[simp] theorem State.vector_cores (s : State) (h : Nat) (b : Bool) (pc n : Dword) (t : TrapInfo) : (s.vector h b pc n t).cores = s.cores := by
  unfold State.vector; (repeat' split) <;> simp
@[simp] theorem State.vector_mx (s : State) (h : Nat) (b : Bool) (pc n : Dword) (t : TrapInfo) : (s.vector h b pc n t).mx = s.mx := by
  unfold State.vector; (repeat' split) <;> simp
@[simp] theorem State.vector_kernels (s : State) (h : Nat) (b : Bool) (pc n : Dword) (t : TrapInfo) : (s.vector h b pc n t).kernels = s.kernels := by
  unfold State.vector; (repeat' split) <;> simp
@[simp] theorem State.vector_insts (s : State) (h : Nat) (b : Bool) (pc n : Dword) (t : TrapInfo) : (s.vector h b pc n t).insts = s.insts := by
  unfold State.vector; (repeat' split) <;> simp
@[simp] theorem State.vector_engines (s : State) (h : Nat) (b : Bool) (pc n : Dword) (t : TrapInfo) : (s.vector h b pc n t).engines = s.engines := by
  unfold State.vector; (repeat' split) <;> simp
@[simp] theorem State.vector_events (s : State) (h : Nat) (b : Bool) (pc n : Dword) (t : TrapInfo) : (s.vector h b pc n t).events = s.events := by
  unfold State.vector; (repeat' split) <;> simp
@[simp] theorem State.vector_colours (s : State) (h : Nat) (b : Bool) (pc n : Dword) (t : TrapInfo) : (s.vector h b pc n t).colours = s.colours := by
  unfold State.vector; (repeat' split) <;> simp
@[simp] theorem State.vector_queues (s : State) (h : Nat) (b : Bool) (pc n : Dword) (t : TrapInfo) : (s.vector h b pc n t).queues = s.queues := by
  unfold State.vector; (repeat' split) <;> simp
@[simp] theorem State.vector_enqs (s : State) (h : Nat) (b : Bool) (pc n : Dword) (t : TrapInfo) : (s.vector h b pc n t).enqs = s.enqs := by
  unfold State.vector; (repeat' split) <;> simp
@[simp] theorem State.vector_colls (s : State) (h : Nat) (b : Bool) (pc n : Dword) (t : TrapInfo) : (s.vector h b pc n t).colls = s.colls := by
  unfold State.vector; (repeat' split) <;> simp
@[simp] theorem State.vector_clkDue (s : State) (h : Nat) (b : Bool) (pc n : Dword) (t : TrapInfo) : (s.vector h b pc n t).clkDue = s.clkDue := by
  unfold State.vector; (repeat' split) <;> simp
@[simp] theorem State.vector_jOut (s : State) (h : Nat) (b : Bool) (pc n : Dword) (t : TrapInfo) : (s.vector h b pc n t).jOut = s.jOut := by
  unfold State.vector; (repeat' split) <;> simp
@[simp] theorem State.vector_ops (s : State) (h : Nat) (b : Bool) (pc n : Dword) (t : TrapInfo) : (s.vector h b pc n t).ops = s.ops := by
  unfold State.vector; (repeat' split) <;> simp
@[simp] theorem State.vector_copies (s : State) (h : Nat) (b : Bool) (pc n : Dword) (t : TrapInfo) : (s.vector h b pc n t).copies = s.copies := by
  unfold State.vector; (repeat' split) <;> simp
@[simp] theorem State.vector_parts (s : State) (h : Nat) (b : Bool) (pc n : Dword) (t : TrapInfo) : (s.vector h b pc n t).parts = s.parts := by
  unfold State.vector; (repeat' split) <;> simp
@[simp] theorem State.vector_hcmdStat (s : State) (h : Nat) (b : Bool) (pc n : Dword) (t : TrapInfo) : (s.vector h b pc n t).hcmdStat = s.hcmdStat := by
  unfold State.vector; (repeat' split) <;> simp
@[simp] theorem State.vector_irqs (s : State) (h : Nat) (b : Bool) (pc n : Dword) (t : TrapInfo) : (s.vector h b pc n t).irqs = s.irqs := by
  unfold State.vector; (repeat' split) <;> simp
@[simp] theorem State.vector_life (s : State) (h : Nat) (b : Bool) (pc n : Dword) (t : TrapInfo) : (s.vector h b pc n t).life = s.life := by
  unfold State.vector; (repeat' split) <;> simp
@[simp] theorem State.vector_net (s : State) (h : Nat) (b : Bool) (pc n : Dword) (t : TrapInfo) : (s.vector h b pc n t).net = s.net := by
  unfold State.vector; (repeat' split) <;> simp

/-! ### `State.deliver` changes `floes`, `ctxs` alone -/

@[simp] theorem State.deliver_turns (s : State) (h : Nat) (b : Bool) (pc n : Dword) (t : TrapInfo) : (s.deliver h b pc n t).turns = s.turns := by
  unfold State.deliver; (repeat' split) <;> simp
@[simp] theorem State.deliver_cur (s : State) (h : Nat) (b : Bool) (pc n : Dword) (t : TrapInfo) : (s.deliver h b pc n t).cur = s.cur := by
  unfold State.deliver; (repeat' split) <;> simp
@[simp] theorem State.deliver_fresh (s : State) (h : Nat) (b : Bool) (pc n : Dword) (t : TrapInfo) : (s.deliver h b pc n t).fresh = s.fresh := by
  unfold State.deliver; (repeat' split) <;> simp
@[simp] theorem State.deliver_nextId (s : State) (h : Nat) (b : Bool) (pc n : Dword) (t : TrapInfo) : (s.deliver h b pc n t).nextId = s.nextId := by
  unfold State.deliver; (repeat' split) <;> simp
@[simp] theorem State.deliver_gt (s : State) (h : Nat) (b : Bool) (pc n : Dword) (t : TrapInfo) : (s.deliver h b pc n t).gt = s.gt := by
  unfold State.deliver; (repeat' split) <;> simp
@[simp] theorem State.deliver_clk (s : State) (h : Nat) (b : Bool) (pc n : Dword) (t : TrapInfo) : (s.deliver h b pc n t).clk = s.clk := by
  unfold State.deliver; (repeat' split) <;> simp
@[simp] theorem State.deliver_gated (s : State) (h : Nat) (b : Bool) (pc n : Dword) (t : TrapInfo) : (s.deliver h b pc n t).gated = s.gated := by
  unfold State.deliver; (repeat' split) <;> simp
@[simp] theorem State.deliver_pace (s : State) (h : Nat) (b : Bool) (pc n : Dword) (t : TrapInfo) : (s.deliver h b pc n t).pace = s.pace := by
  unfold State.deliver; (repeat' split) <;> simp
@[simp] theorem State.deliver_firn (s : State) (h : Nat) (b : Bool) (pc n : Dword) (t : TrapInfo) : (s.deliver h b pc n t).firn = s.firn := by
  unfold State.deliver; (repeat' split) <;> simp
@[simp] theorem State.deliver_ms (s : State) (h : Nat) (b : Bool) (pc n : Dword) (t : TrapInfo) : (s.deliver h b pc n t).ms = s.ms := by
  unfold State.deliver; (repeat' split) <;> simp
@[simp] theorem State.deliver_cores (s : State) (h : Nat) (b : Bool) (pc n : Dword) (t : TrapInfo) : (s.deliver h b pc n t).cores = s.cores := by
  unfold State.deliver; (repeat' split) <;> simp
@[simp] theorem State.deliver_mx (s : State) (h : Nat) (b : Bool) (pc n : Dword) (t : TrapInfo) : (s.deliver h b pc n t).mx = s.mx := by
  unfold State.deliver; (repeat' split) <;> simp
@[simp] theorem State.deliver_kernels (s : State) (h : Nat) (b : Bool) (pc n : Dword) (t : TrapInfo) : (s.deliver h b pc n t).kernels = s.kernels := by
  unfold State.deliver; (repeat' split) <;> simp
@[simp] theorem State.deliver_insts (s : State) (h : Nat) (b : Bool) (pc n : Dword) (t : TrapInfo) : (s.deliver h b pc n t).insts = s.insts := by
  unfold State.deliver; (repeat' split) <;> simp
@[simp] theorem State.deliver_engines (s : State) (h : Nat) (b : Bool) (pc n : Dword) (t : TrapInfo) : (s.deliver h b pc n t).engines = s.engines := by
  unfold State.deliver; (repeat' split) <;> simp
@[simp] theorem State.deliver_events (s : State) (h : Nat) (b : Bool) (pc n : Dword) (t : TrapInfo) : (s.deliver h b pc n t).events = s.events := by
  unfold State.deliver; (repeat' split) <;> simp
@[simp] theorem State.deliver_colours (s : State) (h : Nat) (b : Bool) (pc n : Dword) (t : TrapInfo) : (s.deliver h b pc n t).colours = s.colours := by
  unfold State.deliver; (repeat' split) <;> simp
@[simp] theorem State.deliver_queues (s : State) (h : Nat) (b : Bool) (pc n : Dword) (t : TrapInfo) : (s.deliver h b pc n t).queues = s.queues := by
  unfold State.deliver; (repeat' split) <;> simp
@[simp] theorem State.deliver_enqs (s : State) (h : Nat) (b : Bool) (pc n : Dword) (t : TrapInfo) : (s.deliver h b pc n t).enqs = s.enqs := by
  unfold State.deliver; (repeat' split) <;> simp
@[simp] theorem State.deliver_colls (s : State) (h : Nat) (b : Bool) (pc n : Dword) (t : TrapInfo) : (s.deliver h b pc n t).colls = s.colls := by
  unfold State.deliver; (repeat' split) <;> simp
@[simp] theorem State.deliver_clkDue (s : State) (h : Nat) (b : Bool) (pc n : Dword) (t : TrapInfo) : (s.deliver h b pc n t).clkDue = s.clkDue := by
  unfold State.deliver; (repeat' split) <;> simp
@[simp] theorem State.deliver_jOut (s : State) (h : Nat) (b : Bool) (pc n : Dword) (t : TrapInfo) : (s.deliver h b pc n t).jOut = s.jOut := by
  unfold State.deliver; (repeat' split) <;> simp
@[simp] theorem State.deliver_ops (s : State) (h : Nat) (b : Bool) (pc n : Dword) (t : TrapInfo) : (s.deliver h b pc n t).ops = s.ops := by
  unfold State.deliver; (repeat' split) <;> simp
@[simp] theorem State.deliver_copies (s : State) (h : Nat) (b : Bool) (pc n : Dword) (t : TrapInfo) : (s.deliver h b pc n t).copies = s.copies := by
  unfold State.deliver; (repeat' split) <;> simp
@[simp] theorem State.deliver_parts (s : State) (h : Nat) (b : Bool) (pc n : Dword) (t : TrapInfo) : (s.deliver h b pc n t).parts = s.parts := by
  unfold State.deliver; (repeat' split) <;> simp
@[simp] theorem State.deliver_hcmdStat (s : State) (h : Nat) (b : Bool) (pc n : Dword) (t : TrapInfo) : (s.deliver h b pc n t).hcmdStat = s.hcmdStat := by
  unfold State.deliver; (repeat' split) <;> simp
@[simp] theorem State.deliver_irqs (s : State) (h : Nat) (b : Bool) (pc n : Dword) (t : TrapInfo) : (s.deliver h b pc n t).irqs = s.irqs := by
  unfold State.deliver; (repeat' split) <;> simp
@[simp] theorem State.deliver_life (s : State) (h : Nat) (b : Bool) (pc n : Dword) (t : TrapInfo) : (s.deliver h b pc n t).life = s.life := by
  unfold State.deliver; (repeat' split) <;> simp
@[simp] theorem State.deliver_net (s : State) (h : Nat) (b : Bool) (pc n : Dword) (t : TrapInfo) : (s.deliver h b pc n t).net = s.net := by
  unfold State.deliver; (repeat' split) <;> simp

/-! ### The register writes change `firn` alone -/

@[simp] theorem State.wrGroup_turns (f : Floe) (l : Nat) (v : Bool) (rs : List Reg) :
    ∀ (s : State) (val : Nat), (s.wrGroup f l v rs val).turns = s.turns := by
  induction rs with
  | nil => intro s val; rfl
  | cons r t ih => intro s val; simp [State.wrGroup, ih]
@[simp] theorem State.wrGroup_cur (f : Floe) (l : Nat) (v : Bool) (rs : List Reg) :
    ∀ (s : State) (val : Nat), (s.wrGroup f l v rs val).cur = s.cur := by
  induction rs with
  | nil => intro s val; rfl
  | cons r t ih => intro s val; simp [State.wrGroup, ih]
@[simp] theorem State.wrGroup_fresh (f : Floe) (l : Nat) (v : Bool) (rs : List Reg) :
    ∀ (s : State) (val : Nat), (s.wrGroup f l v rs val).fresh = s.fresh := by
  induction rs with
  | nil => intro s val; rfl
  | cons r t ih => intro s val; simp [State.wrGroup, ih]
@[simp] theorem State.wrGroup_nextId (f : Floe) (l : Nat) (v : Bool) (rs : List Reg) :
    ∀ (s : State) (val : Nat), (s.wrGroup f l v rs val).nextId = s.nextId := by
  induction rs with
  | nil => intro s val; rfl
  | cons r t ih => intro s val; simp [State.wrGroup, ih]
@[simp] theorem State.wrGroup_gt (f : Floe) (l : Nat) (v : Bool) (rs : List Reg) :
    ∀ (s : State) (val : Nat), (s.wrGroup f l v rs val).gt = s.gt := by
  induction rs with
  | nil => intro s val; rfl
  | cons r t ih => intro s val; simp [State.wrGroup, ih]
@[simp] theorem State.wrGroup_clk (f : Floe) (l : Nat) (v : Bool) (rs : List Reg) :
    ∀ (s : State) (val : Nat), (s.wrGroup f l v rs val).clk = s.clk := by
  induction rs with
  | nil => intro s val; rfl
  | cons r t ih => intro s val; simp [State.wrGroup, ih]
@[simp] theorem State.wrGroup_gated (f : Floe) (l : Nat) (v : Bool) (rs : List Reg) :
    ∀ (s : State) (val : Nat), (s.wrGroup f l v rs val).gated = s.gated := by
  induction rs with
  | nil => intro s val; rfl
  | cons r t ih => intro s val; simp [State.wrGroup, ih]
@[simp] theorem State.wrGroup_pace (f : Floe) (l : Nat) (v : Bool) (rs : List Reg) :
    ∀ (s : State) (val : Nat), (s.wrGroup f l v rs val).pace = s.pace := by
  induction rs with
  | nil => intro s val; rfl
  | cons r t ih => intro s val; simp [State.wrGroup, ih]
@[simp] theorem State.wrGroup_ms (f : Floe) (l : Nat) (v : Bool) (rs : List Reg) :
    ∀ (s : State) (val : Nat), (s.wrGroup f l v rs val).ms = s.ms := by
  induction rs with
  | nil => intro s val; rfl
  | cons r t ih => intro s val; simp [State.wrGroup, ih]
@[simp] theorem State.wrGroup_cores (f : Floe) (l : Nat) (v : Bool) (rs : List Reg) :
    ∀ (s : State) (val : Nat), (s.wrGroup f l v rs val).cores = s.cores := by
  induction rs with
  | nil => intro s val; rfl
  | cons r t ih => intro s val; simp [State.wrGroup, ih]
@[simp] theorem State.wrGroup_floes (f : Floe) (l : Nat) (v : Bool) (rs : List Reg) :
    ∀ (s : State) (val : Nat), (s.wrGroup f l v rs val).floes = s.floes := by
  induction rs with
  | nil => intro s val; rfl
  | cons r t ih => intro s val; simp [State.wrGroup, ih]
@[simp] theorem State.wrGroup_mx (f : Floe) (l : Nat) (v : Bool) (rs : List Reg) :
    ∀ (s : State) (val : Nat), (s.wrGroup f l v rs val).mx = s.mx := by
  induction rs with
  | nil => intro s val; rfl
  | cons r t ih => intro s val; simp [State.wrGroup, ih]
@[simp] theorem State.wrGroup_kernels (f : Floe) (l : Nat) (v : Bool) (rs : List Reg) :
    ∀ (s : State) (val : Nat), (s.wrGroup f l v rs val).kernels = s.kernels := by
  induction rs with
  | nil => intro s val; rfl
  | cons r t ih => intro s val; simp [State.wrGroup, ih]
@[simp] theorem State.wrGroup_insts (f : Floe) (l : Nat) (v : Bool) (rs : List Reg) :
    ∀ (s : State) (val : Nat), (s.wrGroup f l v rs val).insts = s.insts := by
  induction rs with
  | nil => intro s val; rfl
  | cons r t ih => intro s val; simp [State.wrGroup, ih]
@[simp] theorem State.wrGroup_engines (f : Floe) (l : Nat) (v : Bool) (rs : List Reg) :
    ∀ (s : State) (val : Nat), (s.wrGroup f l v rs val).engines = s.engines := by
  induction rs with
  | nil => intro s val; rfl
  | cons r t ih => intro s val; simp [State.wrGroup, ih]
@[simp] theorem State.wrGroup_events (f : Floe) (l : Nat) (v : Bool) (rs : List Reg) :
    ∀ (s : State) (val : Nat), (s.wrGroup f l v rs val).events = s.events := by
  induction rs with
  | nil => intro s val; rfl
  | cons r t ih => intro s val; simp [State.wrGroup, ih]
@[simp] theorem State.wrGroup_colours (f : Floe) (l : Nat) (v : Bool) (rs : List Reg) :
    ∀ (s : State) (val : Nat), (s.wrGroup f l v rs val).colours = s.colours := by
  induction rs with
  | nil => intro s val; rfl
  | cons r t ih => intro s val; simp [State.wrGroup, ih]
@[simp] theorem State.wrGroup_queues (f : Floe) (l : Nat) (v : Bool) (rs : List Reg) :
    ∀ (s : State) (val : Nat), (s.wrGroup f l v rs val).queues = s.queues := by
  induction rs with
  | nil => intro s val; rfl
  | cons r t ih => intro s val; simp [State.wrGroup, ih]
@[simp] theorem State.wrGroup_enqs (f : Floe) (l : Nat) (v : Bool) (rs : List Reg) :
    ∀ (s : State) (val : Nat), (s.wrGroup f l v rs val).enqs = s.enqs := by
  induction rs with
  | nil => intro s val; rfl
  | cons r t ih => intro s val; simp [State.wrGroup, ih]
@[simp] theorem State.wrGroup_colls (f : Floe) (l : Nat) (v : Bool) (rs : List Reg) :
    ∀ (s : State) (val : Nat), (s.wrGroup f l v rs val).colls = s.colls := by
  induction rs with
  | nil => intro s val; rfl
  | cons r t ih => intro s val; simp [State.wrGroup, ih]
@[simp] theorem State.wrGroup_clkDue (f : Floe) (l : Nat) (v : Bool) (rs : List Reg) :
    ∀ (s : State) (val : Nat), (s.wrGroup f l v rs val).clkDue = s.clkDue := by
  induction rs with
  | nil => intro s val; rfl
  | cons r t ih => intro s val; simp [State.wrGroup, ih]
@[simp] theorem State.wrGroup_jOut (f : Floe) (l : Nat) (v : Bool) (rs : List Reg) :
    ∀ (s : State) (val : Nat), (s.wrGroup f l v rs val).jOut = s.jOut := by
  induction rs with
  | nil => intro s val; rfl
  | cons r t ih => intro s val; simp [State.wrGroup, ih]
@[simp] theorem State.wrGroup_ops (f : Floe) (l : Nat) (v : Bool) (rs : List Reg) :
    ∀ (s : State) (val : Nat), (s.wrGroup f l v rs val).ops = s.ops := by
  induction rs with
  | nil => intro s val; rfl
  | cons r t ih => intro s val; simp [State.wrGroup, ih]
@[simp] theorem State.wrGroup_copies (f : Floe) (l : Nat) (v : Bool) (rs : List Reg) :
    ∀ (s : State) (val : Nat), (s.wrGroup f l v rs val).copies = s.copies := by
  induction rs with
  | nil => intro s val; rfl
  | cons r t ih => intro s val; simp [State.wrGroup, ih]
@[simp] theorem State.wrGroup_ctxs (f : Floe) (l : Nat) (v : Bool) (rs : List Reg) :
    ∀ (s : State) (val : Nat), (s.wrGroup f l v rs val).ctxs = s.ctxs := by
  induction rs with
  | nil => intro s val; rfl
  | cons r t ih => intro s val; simp [State.wrGroup, ih]
@[simp] theorem State.wrGroup_parts (f : Floe) (l : Nat) (v : Bool) (rs : List Reg) :
    ∀ (s : State) (val : Nat), (s.wrGroup f l v rs val).parts = s.parts := by
  induction rs with
  | nil => intro s val; rfl
  | cons r t ih => intro s val; simp [State.wrGroup, ih]
@[simp] theorem State.wrGroup_hcmdStat (f : Floe) (l : Nat) (v : Bool) (rs : List Reg) :
    ∀ (s : State) (val : Nat), (s.wrGroup f l v rs val).hcmdStat = s.hcmdStat := by
  induction rs with
  | nil => intro s val; rfl
  | cons r t ih => intro s val; simp [State.wrGroup, ih]
@[simp] theorem State.wrGroup_irqs (f : Floe) (l : Nat) (v : Bool) (rs : List Reg) :
    ∀ (s : State) (val : Nat), (s.wrGroup f l v rs val).irqs = s.irqs := by
  induction rs with
  | nil => intro s val; rfl
  | cons r t ih => intro s val; simp [State.wrGroup, ih]
@[simp] theorem State.wrGroup_life (f : Floe) (l : Nat) (v : Bool) (rs : List Reg) :
    ∀ (s : State) (val : Nat), (s.wrGroup f l v rs val).life = s.life := by
  induction rs with
  | nil => intro s val; rfl
  | cons r t ih => intro s val; simp [State.wrGroup, ih]
@[simp] theorem State.wrGroup_net (f : Floe) (l : Nat) (v : Bool) (rs : List Reg) :
    ∀ (s : State) (val : Nat), (s.wrGroup f l v rs val).net = s.net := by
  induction rs with
  | nil => intro s val; rfl
  | cons r t ih => intro s val; simp [State.wrGroup, ih]
@[simp] theorem writeLanes_turns (f : Floe) (regs : List Reg) (rs : List (Nat × Option Nat)) :
    ∀ s : State, (writeLanes f regs rs s).turns = s.turns := by
  induction rs with
  | nil => intro s; rfl
  | cons p t ih => intro s; obtain ⟨l, o⟩ := p; cases o <;> simp [writeLanes, ih]
@[simp] theorem writeLanes_cur (f : Floe) (regs : List Reg) (rs : List (Nat × Option Nat)) :
    ∀ s : State, (writeLanes f regs rs s).cur = s.cur := by
  induction rs with
  | nil => intro s; rfl
  | cons p t ih => intro s; obtain ⟨l, o⟩ := p; cases o <;> simp [writeLanes, ih]
@[simp] theorem writeLanes_fresh (f : Floe) (regs : List Reg) (rs : List (Nat × Option Nat)) :
    ∀ s : State, (writeLanes f regs rs s).fresh = s.fresh := by
  induction rs with
  | nil => intro s; rfl
  | cons p t ih => intro s; obtain ⟨l, o⟩ := p; cases o <;> simp [writeLanes, ih]
@[simp] theorem writeLanes_nextId (f : Floe) (regs : List Reg) (rs : List (Nat × Option Nat)) :
    ∀ s : State, (writeLanes f regs rs s).nextId = s.nextId := by
  induction rs with
  | nil => intro s; rfl
  | cons p t ih => intro s; obtain ⟨l, o⟩ := p; cases o <;> simp [writeLanes, ih]
@[simp] theorem writeLanes_gt (f : Floe) (regs : List Reg) (rs : List (Nat × Option Nat)) :
    ∀ s : State, (writeLanes f regs rs s).gt = s.gt := by
  induction rs with
  | nil => intro s; rfl
  | cons p t ih => intro s; obtain ⟨l, o⟩ := p; cases o <;> simp [writeLanes, ih]
@[simp] theorem writeLanes_clk (f : Floe) (regs : List Reg) (rs : List (Nat × Option Nat)) :
    ∀ s : State, (writeLanes f regs rs s).clk = s.clk := by
  induction rs with
  | nil => intro s; rfl
  | cons p t ih => intro s; obtain ⟨l, o⟩ := p; cases o <;> simp [writeLanes, ih]
@[simp] theorem writeLanes_gated (f : Floe) (regs : List Reg) (rs : List (Nat × Option Nat)) :
    ∀ s : State, (writeLanes f regs rs s).gated = s.gated := by
  induction rs with
  | nil => intro s; rfl
  | cons p t ih => intro s; obtain ⟨l, o⟩ := p; cases o <;> simp [writeLanes, ih]
@[simp] theorem writeLanes_pace (f : Floe) (regs : List Reg) (rs : List (Nat × Option Nat)) :
    ∀ s : State, (writeLanes f regs rs s).pace = s.pace := by
  induction rs with
  | nil => intro s; rfl
  | cons p t ih => intro s; obtain ⟨l, o⟩ := p; cases o <;> simp [writeLanes, ih]
@[simp] theorem writeLanes_ms (f : Floe) (regs : List Reg) (rs : List (Nat × Option Nat)) :
    ∀ s : State, (writeLanes f regs rs s).ms = s.ms := by
  induction rs with
  | nil => intro s; rfl
  | cons p t ih => intro s; obtain ⟨l, o⟩ := p; cases o <;> simp [writeLanes, ih]
@[simp] theorem writeLanes_cores (f : Floe) (regs : List Reg) (rs : List (Nat × Option Nat)) :
    ∀ s : State, (writeLanes f regs rs s).cores = s.cores := by
  induction rs with
  | nil => intro s; rfl
  | cons p t ih => intro s; obtain ⟨l, o⟩ := p; cases o <;> simp [writeLanes, ih]
@[simp] theorem writeLanes_floes (f : Floe) (regs : List Reg) (rs : List (Nat × Option Nat)) :
    ∀ s : State, (writeLanes f regs rs s).floes = s.floes := by
  induction rs with
  | nil => intro s; rfl
  | cons p t ih => intro s; obtain ⟨l, o⟩ := p; cases o <;> simp [writeLanes, ih]
@[simp] theorem writeLanes_mx (f : Floe) (regs : List Reg) (rs : List (Nat × Option Nat)) :
    ∀ s : State, (writeLanes f regs rs s).mx = s.mx := by
  induction rs with
  | nil => intro s; rfl
  | cons p t ih => intro s; obtain ⟨l, o⟩ := p; cases o <;> simp [writeLanes, ih]
@[simp] theorem writeLanes_kernels (f : Floe) (regs : List Reg) (rs : List (Nat × Option Nat)) :
    ∀ s : State, (writeLanes f regs rs s).kernels = s.kernels := by
  induction rs with
  | nil => intro s; rfl
  | cons p t ih => intro s; obtain ⟨l, o⟩ := p; cases o <;> simp [writeLanes, ih]
@[simp] theorem writeLanes_insts (f : Floe) (regs : List Reg) (rs : List (Nat × Option Nat)) :
    ∀ s : State, (writeLanes f regs rs s).insts = s.insts := by
  induction rs with
  | nil => intro s; rfl
  | cons p t ih => intro s; obtain ⟨l, o⟩ := p; cases o <;> simp [writeLanes, ih]
@[simp] theorem writeLanes_engines (f : Floe) (regs : List Reg) (rs : List (Nat × Option Nat)) :
    ∀ s : State, (writeLanes f regs rs s).engines = s.engines := by
  induction rs with
  | nil => intro s; rfl
  | cons p t ih => intro s; obtain ⟨l, o⟩ := p; cases o <;> simp [writeLanes, ih]
@[simp] theorem writeLanes_events (f : Floe) (regs : List Reg) (rs : List (Nat × Option Nat)) :
    ∀ s : State, (writeLanes f regs rs s).events = s.events := by
  induction rs with
  | nil => intro s; rfl
  | cons p t ih => intro s; obtain ⟨l, o⟩ := p; cases o <;> simp [writeLanes, ih]
@[simp] theorem writeLanes_colours (f : Floe) (regs : List Reg) (rs : List (Nat × Option Nat)) :
    ∀ s : State, (writeLanes f regs rs s).colours = s.colours := by
  induction rs with
  | nil => intro s; rfl
  | cons p t ih => intro s; obtain ⟨l, o⟩ := p; cases o <;> simp [writeLanes, ih]
@[simp] theorem writeLanes_queues (f : Floe) (regs : List Reg) (rs : List (Nat × Option Nat)) :
    ∀ s : State, (writeLanes f regs rs s).queues = s.queues := by
  induction rs with
  | nil => intro s; rfl
  | cons p t ih => intro s; obtain ⟨l, o⟩ := p; cases o <;> simp [writeLanes, ih]
@[simp] theorem writeLanes_enqs (f : Floe) (regs : List Reg) (rs : List (Nat × Option Nat)) :
    ∀ s : State, (writeLanes f regs rs s).enqs = s.enqs := by
  induction rs with
  | nil => intro s; rfl
  | cons p t ih => intro s; obtain ⟨l, o⟩ := p; cases o <;> simp [writeLanes, ih]
@[simp] theorem writeLanes_colls (f : Floe) (regs : List Reg) (rs : List (Nat × Option Nat)) :
    ∀ s : State, (writeLanes f regs rs s).colls = s.colls := by
  induction rs with
  | nil => intro s; rfl
  | cons p t ih => intro s; obtain ⟨l, o⟩ := p; cases o <;> simp [writeLanes, ih]
@[simp] theorem writeLanes_clkDue (f : Floe) (regs : List Reg) (rs : List (Nat × Option Nat)) :
    ∀ s : State, (writeLanes f regs rs s).clkDue = s.clkDue := by
  induction rs with
  | nil => intro s; rfl
  | cons p t ih => intro s; obtain ⟨l, o⟩ := p; cases o <;> simp [writeLanes, ih]
@[simp] theorem writeLanes_jOut (f : Floe) (regs : List Reg) (rs : List (Nat × Option Nat)) :
    ∀ s : State, (writeLanes f regs rs s).jOut = s.jOut := by
  induction rs with
  | nil => intro s; rfl
  | cons p t ih => intro s; obtain ⟨l, o⟩ := p; cases o <;> simp [writeLanes, ih]
@[simp] theorem writeLanes_ops (f : Floe) (regs : List Reg) (rs : List (Nat × Option Nat)) :
    ∀ s : State, (writeLanes f regs rs s).ops = s.ops := by
  induction rs with
  | nil => intro s; rfl
  | cons p t ih => intro s; obtain ⟨l, o⟩ := p; cases o <;> simp [writeLanes, ih]
@[simp] theorem writeLanes_copies (f : Floe) (regs : List Reg) (rs : List (Nat × Option Nat)) :
    ∀ s : State, (writeLanes f regs rs s).copies = s.copies := by
  induction rs with
  | nil => intro s; rfl
  | cons p t ih => intro s; obtain ⟨l, o⟩ := p; cases o <;> simp [writeLanes, ih]
@[simp] theorem writeLanes_ctxs (f : Floe) (regs : List Reg) (rs : List (Nat × Option Nat)) :
    ∀ s : State, (writeLanes f regs rs s).ctxs = s.ctxs := by
  induction rs with
  | nil => intro s; rfl
  | cons p t ih => intro s; obtain ⟨l, o⟩ := p; cases o <;> simp [writeLanes, ih]
@[simp] theorem writeLanes_parts (f : Floe) (regs : List Reg) (rs : List (Nat × Option Nat)) :
    ∀ s : State, (writeLanes f regs rs s).parts = s.parts := by
  induction rs with
  | nil => intro s; rfl
  | cons p t ih => intro s; obtain ⟨l, o⟩ := p; cases o <;> simp [writeLanes, ih]
@[simp] theorem writeLanes_hcmdStat (f : Floe) (regs : List Reg) (rs : List (Nat × Option Nat)) :
    ∀ s : State, (writeLanes f regs rs s).hcmdStat = s.hcmdStat := by
  induction rs with
  | nil => intro s; rfl
  | cons p t ih => intro s; obtain ⟨l, o⟩ := p; cases o <;> simp [writeLanes, ih]
@[simp] theorem writeLanes_irqs (f : Floe) (regs : List Reg) (rs : List (Nat × Option Nat)) :
    ∀ s : State, (writeLanes f regs rs s).irqs = s.irqs := by
  induction rs with
  | nil => intro s; rfl
  | cons p t ih => intro s; obtain ⟨l, o⟩ := p; cases o <;> simp [writeLanes, ih]
@[simp] theorem writeLanes_life (f : Floe) (regs : List Reg) (rs : List (Nat × Option Nat)) :
    ∀ s : State, (writeLanes f regs rs s).life = s.life := by
  induction rs with
  | nil => intro s; rfl
  | cons p t ih => intro s; obtain ⟨l, o⟩ := p; cases o <;> simp [writeLanes, ih]
@[simp] theorem writeLanes_net (f : Floe) (regs : List Reg) (rs : List (Nat × Option Nat)) :
    ∀ s : State, (writeLanes f regs rs s).net = s.net := by
  induction rs with
  | nil => intro s; rfl
  | cons p t ih => intro s; obtain ⟨l, o⟩ := p; cases o <;> simp [writeLanes, ih]
@[simp] theorem writeRaw_turns (f : Floe) (rs : List (Nat × Reg × FirnWord)) :
    ∀ s : State, (writeRaw f rs s).turns = s.turns := by
  induction rs with
  | nil => intro s; rfl
  | cons p t ih => intro s; obtain ⟨l, r, x⟩ := p; simp [writeRaw, ih]
@[simp] theorem writeRaw_cur (f : Floe) (rs : List (Nat × Reg × FirnWord)) :
    ∀ s : State, (writeRaw f rs s).cur = s.cur := by
  induction rs with
  | nil => intro s; rfl
  | cons p t ih => intro s; obtain ⟨l, r, x⟩ := p; simp [writeRaw, ih]
@[simp] theorem writeRaw_fresh (f : Floe) (rs : List (Nat × Reg × FirnWord)) :
    ∀ s : State, (writeRaw f rs s).fresh = s.fresh := by
  induction rs with
  | nil => intro s; rfl
  | cons p t ih => intro s; obtain ⟨l, r, x⟩ := p; simp [writeRaw, ih]
@[simp] theorem writeRaw_nextId (f : Floe) (rs : List (Nat × Reg × FirnWord)) :
    ∀ s : State, (writeRaw f rs s).nextId = s.nextId := by
  induction rs with
  | nil => intro s; rfl
  | cons p t ih => intro s; obtain ⟨l, r, x⟩ := p; simp [writeRaw, ih]
@[simp] theorem writeRaw_gt (f : Floe) (rs : List (Nat × Reg × FirnWord)) :
    ∀ s : State, (writeRaw f rs s).gt = s.gt := by
  induction rs with
  | nil => intro s; rfl
  | cons p t ih => intro s; obtain ⟨l, r, x⟩ := p; simp [writeRaw, ih]
@[simp] theorem writeRaw_clk (f : Floe) (rs : List (Nat × Reg × FirnWord)) :
    ∀ s : State, (writeRaw f rs s).clk = s.clk := by
  induction rs with
  | nil => intro s; rfl
  | cons p t ih => intro s; obtain ⟨l, r, x⟩ := p; simp [writeRaw, ih]
@[simp] theorem writeRaw_gated (f : Floe) (rs : List (Nat × Reg × FirnWord)) :
    ∀ s : State, (writeRaw f rs s).gated = s.gated := by
  induction rs with
  | nil => intro s; rfl
  | cons p t ih => intro s; obtain ⟨l, r, x⟩ := p; simp [writeRaw, ih]
@[simp] theorem writeRaw_pace (f : Floe) (rs : List (Nat × Reg × FirnWord)) :
    ∀ s : State, (writeRaw f rs s).pace = s.pace := by
  induction rs with
  | nil => intro s; rfl
  | cons p t ih => intro s; obtain ⟨l, r, x⟩ := p; simp [writeRaw, ih]
@[simp] theorem writeRaw_ms (f : Floe) (rs : List (Nat × Reg × FirnWord)) :
    ∀ s : State, (writeRaw f rs s).ms = s.ms := by
  induction rs with
  | nil => intro s; rfl
  | cons p t ih => intro s; obtain ⟨l, r, x⟩ := p; simp [writeRaw, ih]
@[simp] theorem writeRaw_cores (f : Floe) (rs : List (Nat × Reg × FirnWord)) :
    ∀ s : State, (writeRaw f rs s).cores = s.cores := by
  induction rs with
  | nil => intro s; rfl
  | cons p t ih => intro s; obtain ⟨l, r, x⟩ := p; simp [writeRaw, ih]
@[simp] theorem writeRaw_floes (f : Floe) (rs : List (Nat × Reg × FirnWord)) :
    ∀ s : State, (writeRaw f rs s).floes = s.floes := by
  induction rs with
  | nil => intro s; rfl
  | cons p t ih => intro s; obtain ⟨l, r, x⟩ := p; simp [writeRaw, ih]
@[simp] theorem writeRaw_mx (f : Floe) (rs : List (Nat × Reg × FirnWord)) :
    ∀ s : State, (writeRaw f rs s).mx = s.mx := by
  induction rs with
  | nil => intro s; rfl
  | cons p t ih => intro s; obtain ⟨l, r, x⟩ := p; simp [writeRaw, ih]
@[simp] theorem writeRaw_kernels (f : Floe) (rs : List (Nat × Reg × FirnWord)) :
    ∀ s : State, (writeRaw f rs s).kernels = s.kernels := by
  induction rs with
  | nil => intro s; rfl
  | cons p t ih => intro s; obtain ⟨l, r, x⟩ := p; simp [writeRaw, ih]
@[simp] theorem writeRaw_insts (f : Floe) (rs : List (Nat × Reg × FirnWord)) :
    ∀ s : State, (writeRaw f rs s).insts = s.insts := by
  induction rs with
  | nil => intro s; rfl
  | cons p t ih => intro s; obtain ⟨l, r, x⟩ := p; simp [writeRaw, ih]
@[simp] theorem writeRaw_engines (f : Floe) (rs : List (Nat × Reg × FirnWord)) :
    ∀ s : State, (writeRaw f rs s).engines = s.engines := by
  induction rs with
  | nil => intro s; rfl
  | cons p t ih => intro s; obtain ⟨l, r, x⟩ := p; simp [writeRaw, ih]
@[simp] theorem writeRaw_events (f : Floe) (rs : List (Nat × Reg × FirnWord)) :
    ∀ s : State, (writeRaw f rs s).events = s.events := by
  induction rs with
  | nil => intro s; rfl
  | cons p t ih => intro s; obtain ⟨l, r, x⟩ := p; simp [writeRaw, ih]
@[simp] theorem writeRaw_colours (f : Floe) (rs : List (Nat × Reg × FirnWord)) :
    ∀ s : State, (writeRaw f rs s).colours = s.colours := by
  induction rs with
  | nil => intro s; rfl
  | cons p t ih => intro s; obtain ⟨l, r, x⟩ := p; simp [writeRaw, ih]
@[simp] theorem writeRaw_queues (f : Floe) (rs : List (Nat × Reg × FirnWord)) :
    ∀ s : State, (writeRaw f rs s).queues = s.queues := by
  induction rs with
  | nil => intro s; rfl
  | cons p t ih => intro s; obtain ⟨l, r, x⟩ := p; simp [writeRaw, ih]
@[simp] theorem writeRaw_enqs (f : Floe) (rs : List (Nat × Reg × FirnWord)) :
    ∀ s : State, (writeRaw f rs s).enqs = s.enqs := by
  induction rs with
  | nil => intro s; rfl
  | cons p t ih => intro s; obtain ⟨l, r, x⟩ := p; simp [writeRaw, ih]
@[simp] theorem writeRaw_colls (f : Floe) (rs : List (Nat × Reg × FirnWord)) :
    ∀ s : State, (writeRaw f rs s).colls = s.colls := by
  induction rs with
  | nil => intro s; rfl
  | cons p t ih => intro s; obtain ⟨l, r, x⟩ := p; simp [writeRaw, ih]
@[simp] theorem writeRaw_clkDue (f : Floe) (rs : List (Nat × Reg × FirnWord)) :
    ∀ s : State, (writeRaw f rs s).clkDue = s.clkDue := by
  induction rs with
  | nil => intro s; rfl
  | cons p t ih => intro s; obtain ⟨l, r, x⟩ := p; simp [writeRaw, ih]
@[simp] theorem writeRaw_jOut (f : Floe) (rs : List (Nat × Reg × FirnWord)) :
    ∀ s : State, (writeRaw f rs s).jOut = s.jOut := by
  induction rs with
  | nil => intro s; rfl
  | cons p t ih => intro s; obtain ⟨l, r, x⟩ := p; simp [writeRaw, ih]
@[simp] theorem writeRaw_ops (f : Floe) (rs : List (Nat × Reg × FirnWord)) :
    ∀ s : State, (writeRaw f rs s).ops = s.ops := by
  induction rs with
  | nil => intro s; rfl
  | cons p t ih => intro s; obtain ⟨l, r, x⟩ := p; simp [writeRaw, ih]
@[simp] theorem writeRaw_copies (f : Floe) (rs : List (Nat × Reg × FirnWord)) :
    ∀ s : State, (writeRaw f rs s).copies = s.copies := by
  induction rs with
  | nil => intro s; rfl
  | cons p t ih => intro s; obtain ⟨l, r, x⟩ := p; simp [writeRaw, ih]
@[simp] theorem writeRaw_ctxs (f : Floe) (rs : List (Nat × Reg × FirnWord)) :
    ∀ s : State, (writeRaw f rs s).ctxs = s.ctxs := by
  induction rs with
  | nil => intro s; rfl
  | cons p t ih => intro s; obtain ⟨l, r, x⟩ := p; simp [writeRaw, ih]
@[simp] theorem writeRaw_parts (f : Floe) (rs : List (Nat × Reg × FirnWord)) :
    ∀ s : State, (writeRaw f rs s).parts = s.parts := by
  induction rs with
  | nil => intro s; rfl
  | cons p t ih => intro s; obtain ⟨l, r, x⟩ := p; simp [writeRaw, ih]
@[simp] theorem writeRaw_hcmdStat (f : Floe) (rs : List (Nat × Reg × FirnWord)) :
    ∀ s : State, (writeRaw f rs s).hcmdStat = s.hcmdStat := by
  induction rs with
  | nil => intro s; rfl
  | cons p t ih => intro s; obtain ⟨l, r, x⟩ := p; simp [writeRaw, ih]
@[simp] theorem writeRaw_irqs (f : Floe) (rs : List (Nat × Reg × FirnWord)) :
    ∀ s : State, (writeRaw f rs s).irqs = s.irqs := by
  induction rs with
  | nil => intro s; rfl
  | cons p t ih => intro s; obtain ⟨l, r, x⟩ := p; simp [writeRaw, ih]
@[simp] theorem writeRaw_life (f : Floe) (rs : List (Nat × Reg × FirnWord)) :
    ∀ s : State, (writeRaw f rs s).life = s.life := by
  induction rs with
  | nil => intro s; rfl
  | cons p t ih => intro s; obtain ⟨l, r, x⟩ := p; simp [writeRaw, ih]
@[simp] theorem writeRaw_net (f : Floe) (rs : List (Nat × Reg × FirnWord)) :
    ∀ s : State, (writeRaw f rs s).net = s.net := by
  induction rs with
  | nil => intro s; rfl
  | cons p t ih => intro s; obtain ⟨l, r, x⟩ := p; simp [writeRaw, ih]

end Sys2Proof.Machine
end

