-- ==== Sys2Proof/Laws/Table.lean ====
section
/-! SUPPORT. Sparse tables: what is read after a write, and that every operation keeps the canonical form. -/

namespace Sys2Proof.Machine

variable {α : Type}

@[simp] theorem Table.find?_nil (k : Nat) : Table.find? ([] : Table α) k = none := rfl

theorem Table.find?_insert (t : Table α) (k j : Nat) (v : α) :
    Table.find? (Table.insert t k v) j = if j = k then some v else Table.find? t j := by
  induction t with
  | nil => by_cases h : k = j <;> simp [Table.insert, Table.find?, h, eq_comm]
  | cons p t ih =>
    simp only [Table.insert]
    split
    · by_cases h : k = j
      · simp [Table.find?, h]
      · simp [Table.find?, h, Ne.symm h]
    · split
      · rename_i h1 h2
        by_cases h : k = j
        · simp [Table.find?, h]
        · have h3 : ¬ p.1 = j := by omega
          simp [Table.find?, h, h3, Ne.symm h]
      · rename_i h1 h2
        by_cases h : p.1 = j
        · have h3 : ¬ j = k := by omega
          simp [Table.find?, h, h3]
        · simp [Table.find?, h, ih]

@[simp] theorem Table.find?_insert_same (t : Table α) (k : Nat) (v : α) : Table.find? (Table.insert t k v) k = some v := by
  simp [Table.find?_insert]

theorem Table.find?_insert_ne (t : Table α) {k j : Nat} (v : α) (h : j ≠ k) :
    Table.find? (Table.insert t k v) j = Table.find? t j := by
  simp [Table.find?_insert, h]

theorem Table.find?_erase (t : Table α) (k j : Nat) :
    Table.find? (Table.erase t k) j = if j = k then none else Table.find? t j := by
  induction t with
  | nil => simp [Table.erase]
  | cons p t ih =>
    simp only [Table.erase] at ih
    by_cases hk : p.1 = k
    · by_cases hj : j = k
      · simp [Table.erase, hk, hj] at *; exact ih
      · have : ¬ k = j := fun e => hj e.symm
        simp [Table.erase, Table.find?, hk, hj, this] at *; exact ih
    · by_cases hp : p.1 = j
      · have : ¬ j = k := by omega
        simp [Table.erase, List.filter_cons, Table.find?, hp, this]
      · simp [Table.erase, Table.find?, hk, hp] at *; exact ih

/-- What a table with a default reads after a write. -/
theorem Table.getD_setD [DecidableEq α] (t : Table α) (d v : α) (k j : Nat) :
    Table.getD (Table.setD t d k v) d j = if j = k then v else Table.getD t d j := by
  unfold Table.getD Table.setD
  by_cases hv : v = d
  · rw [if_pos hv, Table.find?_erase]; by_cases h : j = k <;> simp [h, hv]
  · rw [if_neg hv, Table.find?_insert]; by_cases h : j = k <;> simp [h]

@[simp] theorem Table.getD_setD_same [DecidableEq α] (t : Table α) (d v : α) (k : Nat) :
    Table.getD (Table.setD t d k v) d k = v := by simp [Table.getD_setD]

theorem Table.getD_setD_ne [DecidableEq α] (t : Table α) (d v : α) {k j : Nat} (h : j ≠ k) :
    Table.getD (Table.setD t d k v) d j = Table.getD t d j := by simp [Table.getD_setD, h]

/-! ## The canonical form -/

theorem Table.sorted_tail {p : Nat × α} {t : Table α} (h : Table.sorted (p :: t) = true) : Table.sorted t = true := by
  cases t with
  | nil => rfl
  | cons q t => simp [Table.sorted] at h; exact h.2

/-- The keys after the first are above it. -/
theorem Table.sorted_head {p : Nat × α} {t : Table α} (h : Table.sorted (p :: t) = true) : ∀ q ∈ t, p.1 < q.1 := by
  induction t generalizing p with
  | nil => simp
  | cons q t ih =>
    simp [Table.sorted] at h
    intro x hx
    rcases List.mem_cons.mp hx with rfl | hx
    · exact h.1
    · exact Nat.lt_trans h.1 (ih h.2 x hx)

theorem Table.sorted_cons {p : Nat × α} {t : Table α} (h : Table.sorted t = true) (hp : ∀ q ∈ t, p.1 < q.1) :
    Table.sorted (p :: t) = true := by
  cases t with
  | nil => rfl
  | cons q t => simp [Table.sorted, h]; exact hp q (by simp)

theorem Table.mem_insert {t : Table α} {k : Nat} {v : α} {p : Nat × α} (h : p ∈ Table.insert t k v) : p = (k, v) ∨ p ∈ t := by
  induction t with
  | nil => left; simpa [Table.insert] using h
  | cons q t ih =>
    simp only [Table.insert] at h
    split at h
    · rcases List.mem_cons.mp h with h | h
      · exact .inl h
      · exact .inr h
    · split at h
      · rcases List.mem_cons.mp h with h | h
        · exact .inl h
        · exact .inr (List.mem_cons_of_mem _ h)
      · rcases List.mem_cons.mp h with h | h
        · exact .inr (by simp [h])
        · rcases ih h with h | h
          · exact .inl h
          · exact .inr (List.mem_cons_of_mem _ h)

theorem Table.sorted_insert {t : Table α} (k : Nat) (v : α) (h : Table.sorted t = true) : Table.sorted (Table.insert t k v) = true := by
  induction t with
  | nil => rfl
  | cons p t ih =>
    simp only [Table.insert]
    split
    · rename_i hk; simp [Table.sorted, h, hk]
    · split
      · rename_i h1 h2
        subst h2
        exact Table.sorted_cons (p := (_, v)) (Table.sorted_tail h) (fun q hq => Table.sorted_head h q hq)
      · rename_i h1 h2
        refine Table.sorted_cons (ih (Table.sorted_tail h)) ?_
        intro q hq
        rcases Table.mem_insert hq with rfl | hq
        · show p.1 < k; omega
        · exact Table.sorted_head h q hq

theorem Table.sorted_filter {t : Table α} (f : Nat × α → Bool) (h : Table.sorted t = true) : Table.sorted (t.filter f : Table α) = true := by
  induction t with
  | nil => rfl
  | cons p t ih =>
    rw [List.filter_cons]
    split
    · refine Table.sorted_cons (ih (Table.sorted_tail h)) ?_
      intro q hq
      exact Table.sorted_head h q (List.mem_of_mem_filter hq)
    · exact ih (Table.sorted_tail h)

theorem Table.sorted_keep {t : Table α} (f : Nat → α → Bool) (h : Table.sorted t = true) : Table.sorted (Table.keep t f) = true :=
  Table.sorted_filter _ h

theorem Table.wf_nil [DecidableEq α] (d : α) : Table.wf d ([] : Table α) = true := rfl

theorem Table.wf_insert [DecidableEq α] {d : α} {t : Table α} {k : Nat} {v : α} (h : Table.wf d t = true) (hv : v ≠ d) :
    Table.wf d (Table.insert t k v) = true := by
  simp only [Table.wf, Bool.and_eq_true, List.all_eq_true, decide_eq_true_eq] at *
  refine ⟨Table.sorted_insert k v h.1, ?_⟩
  intro p hp
  rcases Table.mem_insert hp with rfl | hp
  · exact hv
  · exact h.2 p hp

theorem Table.wf_filter [DecidableEq α] {d : α} {t : Table α} (f : Nat × α → Bool) (h : Table.wf d t = true) :
    Table.wf d (t.filter f : Table α) = true := by
  simp only [Table.wf, Bool.and_eq_true, List.all_eq_true] at *
  exact ⟨Table.sorted_filter f h.1, fun p hp => h.2 p (List.mem_of_mem_filter hp)⟩

/-- A write keeps the canonical form, the default included. -/
theorem Table.wf_setD [DecidableEq α] {d : α} {t : Table α} (k : Nat) (v : α) (h : Table.wf d t = true) :
    Table.wf d (Table.setD t d k v) = true := by
  unfold Table.setD
  split
  · exact Table.wf_filter _ h
  · exact Table.wf_insert h ‹_›

theorem Table.sorted_find?_eq {t : Table α} {k : Nat} {v : α} (h : Table.sorted t = true) (hm : (k, v) ∈ t) :
    Table.find? t k = some v := by
  induction t with
  | nil => simp at hm
  | cons p t ih =>
    rcases List.mem_cons.mp hm with rfl | hm
    · simp [Table.find?]
    · have := Table.sorted_head h (k, v) hm
      have hne : ¬ p.1 = k := by simp at this; omega
      simp [Table.find?, hne, ih (Table.sorted_tail h) hm]

theorem Table.find?_none {t : Table α} {k : Nat} (h : ∀ x ∈ t, x.1 ≠ k) : Table.find? t k = none := by
  induction t with
  | nil => rfl
  | cons p t ih =>
    simp only [Table.find?, if_neg (h p (by simp))]
    exact ih (fun x hx => h x (List.mem_cons_of_mem _ hx))

/-- Below the first key of a sorted table nothing is listed. -/
theorem Table.find?_below {p : Nat × α} {t : Table α} (h : Table.sorted (p :: t) = true) {k : Nat} (hk : k < p.1) :
    Table.find? (p :: t) k = none := by
  apply Table.find?_none
  intro x hx
  rcases List.mem_cons.mp hx with rfl | hx
  · omega
  · have := Table.sorted_head h x hx; omega

/-- The first key is not listed again. -/
theorem Table.find?_tail {p : Nat × α} {t : Table α} (h : Table.sorted (p :: t) = true) : Table.find? t p.1 = none :=
  Table.find?_none (fun x hx => by have := Table.sorted_head h x hx; omega)

/-- Two canonical tables that read alike are the same table. -/
theorem Table.ext [DecidableEq α] {d : α} {t u : Table α} (ht : Table.wf d t = true) (hu : Table.wf d u = true)
    (h : ∀ k, Table.getD t d k = Table.getD u d k) : t = u := by
  induction t generalizing u with
  | nil =>
    cases u with
    | nil => rfl
    | cons q u =>
      simp only [Table.wf, Bool.and_eq_true, List.all_eq_true, decide_eq_true_eq] at hu
      have hq := h q.1
      simp [Table.getD, Table.find?] at hq
      exact absurd hq.symm (hu.2 q (by simp))
  | cons p t ih =>
    simp only [Table.wf, Bool.and_eq_true, List.all_eq_true, decide_eq_true_eq] at ht
    cases u with
    | nil =>
      have hp := h p.1
      simp [Table.getD, Table.find?] at hp
      exact absurd hp (ht.2 p (by simp))
    | cons q u =>
      simp only [Table.wf, Bool.and_eq_true, List.all_eq_true, decide_eq_true_eq] at hu
      have hk : p.1 = q.1 := by
        rcases Nat.lt_trichotomy p.1 q.1 with hlt | heq | hgt
        · have hp := h p.1
          rw [Table.getD, Table.getD, Table.find?_below hu.1 hlt] at hp
          simp [Table.find?] at hp
          exact absurd hp (ht.2 p (by simp))
        · exact heq
        · have hq := h q.1
          rw [Table.getD, Table.getD, Table.find?_below ht.1 hgt] at hq
          simp [Table.find?] at hq
          exact absurd hq.symm (hu.2 q (by simp))
      have hv : p.2 = q.2 := by
        have hp := h p.1
        simpa [Table.getD, Table.find?, hk] using hp
      have hpq : p = q := Prod.ext hk hv
      subst hpq
      have htu : t = u := by
        apply ih
        · simp only [Table.wf, Bool.and_eq_true, List.all_eq_true, decide_eq_true_eq]
          exact ⟨Table.sorted_tail ht.1, fun x hx => ht.2 x (List.mem_cons_of_mem _ hx)⟩
        · simp only [Table.wf, Bool.and_eq_true, List.all_eq_true, decide_eq_true_eq]
          exact ⟨Table.sorted_tail hu.1, fun x hx => hu.2 x (List.mem_cons_of_mem _ hx)⟩
        · intro k
          by_cases hkp : p.1 = k
          · subst hkp
            rw [Table.getD, Table.getD, Table.find?_tail ht.1, Table.find?_tail hu.1]
          · have := h k
            simpa [Table.getD, Table.find?, hkp] using this
      rw [htu]

end Sys2Proof.Machine
end

