-- ==== Sys2Proof/Laws/Registers.lean ====
section
/-! SUPPORT. Registers: which firn words are whose, and what a register reads after a register is written (R106, R112, R114, R152). -/

namespace Sys2Proof.Machine

/-- Whether a register lies in a floe's allocation (R35). -/
def Reg.fits (f : Floe) (r : Reg) : Prop := r.n < if r.uni then f.wregs else f.regs

/-- Whether a write of register `r` in lane `l` reaches what lane `m` reads there: the same lane, any lane of a uniform register, or the
mirrored lane under FULL (R152). -/
def sameWord (f : Floe) (r : Reg) (l m : Nat) : Prop := r.uni = true ∨ m = l ∨ (f.dmr = .full ∧ l < 16 ∧ m = l + 16)

theorem regsOk_fits {f : Floe} {rs : List Reg} (h : regsOk f rs = true) : ∀ r ∈ rs, r.fits f := by
  intro r hr
  simpa [regsOk, Reg.fits] using List.all_eq_true.mp h r hr

theorem State.firnAt_setFirn (s : State) (c i j : Nat) (w : FirnWord) :
    (s.setFirn c i w).firnAt c j = if j = i then w else s.firnAt c j := by
  unfold State.firnAt State.setFirn
  rw [Table.getD_setD]
  by_cases h : j = i
  · simp [h]
  · have : ¬ firnKey c j = firnKey c i := by unfold firnKey; omega
    simp [h, this]

/-- Two register words of one floe are the same firn word only if they are the same register and lane. -/
theorem regWord_eq {f : Floe} {r q : Reg} {l m : Nat} (hr : r.fits f) (hq : q.fits f) (hl : l < 32) (hm : m < 32) :
    regWord f r l = regWord f q m ↔ r = q ∧ (r.uni = true ∨ l = m) := by
  obtain ⟨ru, rn⟩ := r
  obtain ⟨qu, qn⟩ := q
  simp only [Reg.fits] at hr hq
  simp only [regWord]
  cases ru <;> cases qu <;> simp at * <;> omega

theorem State.rdReg_wrReg_other {f : Floe} {r q : Reg} {l m : Nat} (s : State) (w : FirnWord) (hr : r.fits f) (hq : q.fits f) (hl : l < 32)
    (hm : m < 32) (h : ¬ (q = r ∧ sameWord f r l m)) : (s.wrReg f r l w).rdReg f q m = s.rdReg f q m := by
  have h1 : ¬ regWord f q m = regWord f r l := by
    rw [regWord_eq hq hr hm hl]
    rintro ⟨rfl, hh⟩
    exact h ⟨rfl, hh.elim .inl (fun e => .inr (.inl e))⟩
  unfold State.rdReg State.wrReg
  simp only
  split
  · rename_i hc
    have h2 : ¬ regWord f q m = regWord f r (l + 16) := by
      rw [regWord_eq hq hr hm (by omega)]
      rintro ⟨rfl, hh⟩
      refine h ⟨rfl, ?_⟩
      rcases hh with hh | hh
      · exact .inl hh
      · exact .inr (.inr ⟨hc.2.1, hc.2.2, hh⟩)
    rw [State.firnAt_setFirn, State.firnAt_setFirn, if_neg h2, if_neg h1]
  · rw [State.firnAt_setFirn, if_neg h1]

theorem State.rdReg_wrReg_same {f : Floe} {r : Reg} {l m : Nat} (s : State) (w : FirnWord) (hr : r.fits f) (hl : l < 32) (hm : m < 32)
    (h : sameWord f r l m) : (s.wrReg f r l w).rdReg f r m = w := by
  unfold State.rdReg State.wrReg
  simp only
  split
  · rename_i hc
    rw [State.firnAt_setFirn, State.firnAt_setFirn]
    by_cases h2 : regWord f r m = regWord f r (l + 16)
    · rw [if_pos h2]
    · rw [if_neg h2, if_pos]
      rw [regWord_eq hr hr hm hl]
      rw [regWord_eq hr hr hm (by omega)] at h2
      refine ⟨rfl, ?_⟩
      rcases h with h | h | h
      · exact .inl h
      · exact .inr h
      · exact absurd ⟨rfl, .inr h.2.2⟩ h2
  · rename_i hc
    rw [State.firnAt_setFirn, if_pos]
    rw [regWord_eq hr hr hm hl]
    refine ⟨rfl, ?_⟩
    by_cases hu : r.uni = true
    · exact .inl hu
    · rcases h with h | h | h
      · exact .inl h
      · exact .inr h
      · exact absurd ⟨by simpa using hu, h.1, h.2.1⟩ hc

/-- The word that a group write of `val` puts in the `k`-th register of the group (R112, R114). -/
def groupWord (valid : Bool) (old : FirnWord) (val k : Nat) : FirnWord :=
  if valid then ⟨BitVec.ofNat 32 (val / 2 ^ (32 * k)), true⟩ else { old with v := false }

/-- A group write leaves every word alone but those of its registers in its lane. -/
theorem State.rdReg_wrGroup_other {f : Floe} {q : Reg} {l m : Nat} {valid : Bool} (hq : q.fits f) (hl : l < 32) (hm : m < 32)
    (rs : List Reg) (hrs : ∀ r ∈ rs, r.fits f) (h : ¬ (q ∈ rs ∧ sameWord f q l m)) :
    ∀ (s : State) (val : Nat), (s.wrGroup f l valid rs val).rdReg f q m = s.rdReg f q m := by
  induction rs with
  | nil => intro s val; rfl
  | cons r t ih =>
    intro s val
    simp only [State.wrGroup]
    rw [ih (fun x hx => hrs x (List.mem_cons_of_mem _ hx)) (fun hh => h ⟨List.mem_cons_of_mem _ hh.1, hh.2⟩)]
    apply State.rdReg_wrReg_other s _ (hrs r (by simp)) hq hl hm
    intro hh
    exact h ⟨by simp [hh.1], by rw [hh.1]; exact hh.2⟩

/-- A group write puts word `k` of the value in the `k`-th register of the group. -/
theorem State.rdReg_wrGroup_same {f : Floe} {l m : Nat} {valid : Bool} (hl : l < 32) (hm : m < 32) (rs : List Reg)
    (hrs : ∀ r ∈ rs, r.fits f) (hnd : rs.Nodup) :
    ∀ (s : State) (val k : Nat) (hk : k < rs.length), sameWord f rs[k] l m →
      (s.wrGroup f l valid rs val).rdReg f rs[k] m = groupWord valid (s.rdReg f rs[k] l) val k := by
  induction rs with
  | nil => intro s val k hk; simp at hk
  | cons r t ih =>
    intro s val k hk hsame
    rw [List.nodup_cons] at hnd
    cases k with
    | zero =>
      simp only [State.wrGroup, List.getElem_cons_zero] at *
      rw [State.rdReg_wrGroup_other (hrs r (by simp)) hl hm t (fun x hx => hrs x (List.mem_cons_of_mem _ hx)) (fun hh => hnd.1 hh.1)]
      rw [State.rdReg_wrReg_same s _ (hrs r (by simp)) hl hm hsame]
      simp [groupWord]
    | succ j =>
      simp only [State.wrGroup, List.getElem_cons_succ] at *
      have hj : j < t.length := by simpa using hk
      rw [ih (fun x hx => hrs x (List.mem_cons_of_mem _ hx)) hnd.2 _ _ j hj hsame]
      have hne : t[j] ≠ r := fun e => hnd.1 (e ▸ List.getElem_mem hj)
      rw [State.rdReg_wrReg_other s _ (hrs r (by simp)) (hrs _ (List.mem_cons_of_mem _ (List.getElem_mem hj))) hl hl (fun hh => hne hh.1)]
      simp only [groupWord]
      have : val / 2 ^ 32 / 2 ^ (32 * j) = val / 2 ^ (32 * (j + 1)) := by
        rw [Nat.div_div_eq_div_mul, ← Nat.pow_add]; congr 2; omega
      rw [this]

/-- What a lane-wise result leaves alone (R114): every register but those of D, and D's in the lanes that do not compute. -/
theorem rdReg_writeLanes_other {f : Floe} {q : Reg} {m : Nat} (hq : q.fits f) (hm : m < 32) (regs : List Reg) (hrs : ∀ r ∈ regs, r.fits f)
    (rs : List (Nat × Option Nat)) (hl : ∀ p ∈ rs, p.1 < 32) (h : ∀ p ∈ rs, ¬ (q ∈ regs ∧ sameWord f q p.1 m)) :
    ∀ s : State, (writeLanes f regs rs s).rdReg f q m = s.rdReg f q m := by
  induction rs with
  | nil => intro s; rfl
  | cons p t ih =>
    intro s
    obtain ⟨l, o⟩ := p
    have hl0 : l < 32 := hl (l, o) (by simp)
    have h0 : ¬ (q ∈ regs ∧ sameWord f q l m) := h (l, o) (by simp)
    cases o <;> simp only [writeLanes] <;>
      rw [ih (fun p hp => hl p (List.mem_cons_of_mem _ hp)) (fun p hp => h p (List.mem_cons_of_mem _ hp)),
        State.rdReg_wrGroup_other hq hl0 hm regs hrs h0]

/-- The word that a lane's result puts in the `k`-th register of D: word `k` of the value, or the old data with V cleared (R114). -/
def resultWord (old : FirnWord) (o : Option Nat) (k : Nat) : FirnWord :=
  match o with
  | some v => ⟨BitVec.ofNat 32 (v / 2 ^ (32 * k)), true⟩
  | none => { old with v := false }

/-- What a lane that computes reads in D afterwards (R114): its own result, where the lanes stand in rising order. Under FULL a lane
invalidated may have taken the mirrored data before (R152), so `none` asks that it has not. -/
theorem rdReg_writeLanes_same {f : Floe} (regs : List Reg) (hrs : ∀ r ∈ regs, r.fits f) (hnd : regs.Nodup) {k : Nat} (hk : k < regs.length)
    (hv : regs[k].uni = false) (rs : List (Nat × Option Nat)) (hs : rs.Pairwise (fun p q => p.1 < q.1)) (hl : ∀ p ∈ rs, p.1 < 32)
    {m : Nat} {o : Option Nat} (hm : (m, o) ∈ rs) (hfull : o = none → f.dmr = .full → ∀ p ∈ rs, p.1 + 16 ≠ m) :
    ∀ s : State, (writeLanes f regs rs s).rdReg f regs[k] m = resultWord (s.rdReg f regs[k] m) o k := by
  induction rs with
  | nil => simp at hm
  | cons p t ih =>
    intro s
    obtain ⟨l, w⟩ := p
    rw [List.pairwise_cons] at hs
    have hl0 : l < 32 := hl (l, w) (by simp)
    have hm0 : m < 32 := hl (m, o) hm
    have hq := hrs _ (List.getElem_mem hk)
    have hlt : ∀ p ∈ t, p.1 < 32 := fun p hp => hl p (List.mem_cons_of_mem _ hp)
    rcases List.mem_cons.mp hm with he | hm'
    · obtain ⟨rfl, rfl⟩ := Prod.mk.inj he
      have hother : ∀ p ∈ t, ¬ (regs[k] ∈ regs ∧ sameWord f regs[k] p.1 m) := by
        intro p hp hh
        have := hs.1 p hp
        rcases hh.2 with h | h | h
        · rw [hv] at h; cases h
        · simp at this; omega
        · simp at this; omega
      have hsame : sameWord f regs[k] m m := .inr (.inl rfl)
      cases o <;> simp only [writeLanes] <;>
        rw [rdReg_writeLanes_other hq hm0 regs hrs t hlt hother, State.rdReg_wrGroup_same hl0 hm0 regs hrs hnd _ _ k hk hsame] <;>
        simp [groupWord, resultWord]
    · have hne : l < m := hs.1 (m, o) hm'
      have hfull' : o = none → f.dmr = .full → ∀ p ∈ t, p.1 + 16 ≠ m := fun h h' p hp => hfull h h' p (List.mem_cons_of_mem _ hp)
      cases o with
      | some v => cases w <;> simp only [writeLanes] <;> rw [ih hs.2 hlt hm' hfull'] <;> rfl
      | none =>
        have hns : ¬ (regs[k] ∈ regs ∧ sameWord f regs[k] l m) := by
          intro hh
          rcases hh.2 with h | h | h
          · rw [hv] at h; cases h
          · omega
          · exact hfull rfl h.1 (l, w) (by simp) h.2.2.symm
        cases w <;> simp only [writeLanes] <;>
          rw [ih hs.2 hlt hm' hfull', State.rdReg_wrGroup_other hq hl0 hm0 regs hrs hns]

/-- What a uniform D reads after the one computation for the floe (R37, R114). -/
theorem rdReg_writeLanes_uni {f : Floe} (regs : List Reg) (hrs : ∀ r ∈ regs, r.fits f) (hnd : regs.Nodup) {k : Nat} (hk : k < regs.length)
    (hu : regs[k].uni = true) {l m : Nat} (hl : l < 32) (hm : m < 32) (o : Option Nat) (s : State) :
    (writeLanes f regs [(l, o)] s).rdReg f regs[k] m = resultWord (s.rdReg f regs[k] l) o k := by
  cases o <;> simp only [writeLanes] <;> rw [State.rdReg_wrGroup_same hl hm regs hrs hnd _ _ k hk (.inl hu)] <;>
    simp [groupWord, resultWord]

end Sys2Proof.Machine
end

