-- ==== Sys2Proof/Laws/Issue.lean ====
section
/-! SUPPORT. Issue and retirement: who issues, what an F word that passes decode comes to, and what the end of an issue changes. -/

namespace Sys2Proof.Machine

/-! ## Floes and contexts -/

theorem State.floe?_setFloe (s : State) (h k : Nat) (f : Floe) : (s.setFloe h f).floe? k = if k = h then some f else s.floe? k := by
  simp [State.floe?, State.setFloe, Table.find?_insert]

theorem State.floe?_modFloe (s : State) (h k : Nat) (g : Floe → Floe) :
    (s.modFloe h g).floe? k = if k = h then (s.floe? h).map g else s.floe? k := by
  unfold State.modFloe
  split
  · rename_i f hf; rw [State.floe?_setFloe]; simp [hf]
  · rename_i hf; by_cases hk : k = h <;> simp [hk, hf]

@[simp] theorem State.floe?_modFloe_same (s : State) (h : Nat) (g : Floe → Floe) : (s.modFloe h g).floe? h = (s.floe? h).map g := by
  simp [State.floe?_modFloe]

theorem State.floe?_modFloe_ne (s : State) {h k : Nat} (g : Floe → Floe) (hk : k ≠ h) : (s.modFloe h g).floe? k = s.floe? k := by
  simp [State.floe?_modFloe, hk]

/-- A floe is read off the floes alone. -/
theorem State.floe?_of_floes {s t : State} (h : t.floes = s.floes) (k : Nat) : t.floe? k = s.floe? k := by
  simp [State.floe?, h]

theorem State.firnAt_of_firn {s t : State} (h : t.firn = s.firn) (c i : Nat) : t.firnAt c i = s.firnAt c i := by
  simp [State.firnAt, h]

theorem State.rdReg_of_firn {s t : State} (h : t.firn = s.firn) (f : Floe) (r : Reg) (l : Nat) : t.rdReg f r l = s.rdReg f r l := by
  simp [State.rdReg, State.firnAt, h]

/-- How far a cluster's clock has come is read off time and the clocks alone. -/
theorem State.mck_of {s t : State} (hg : t.gt = s.gt) (hp : t.pace = s.pace) (hc : t.clk = s.clk) (hs : t.gated = s.gated) (c : Nat) :
    t.mck c = s.mck c := by
  simp [State.mck, State.paceNow, hg, hp, hc, hs]

/-! ## The issuing floe -/

/-- What the environment of an issue is. -/
theorem State.env?_some {s : State} {g : Code} {len : Nat} {e : Env} (h : s.env? g len = some e) :
    e.h = s.cur.1 ∧ e.b = s.cur.2 ∧ e.len = len ∧ s.floe? e.h = some e.f ∧ e.f.slot e.b = some e.sl
      ∧ e.exec = e.sl.mask &&& guardMask s e.f g := by
  unfold State.env? at h
  split at h
  · cases h
  · rename_i f hf
    split at h
    · cases h
    · rename_i sl hsl
      obtain rfl := Option.some.inj h
      exact ⟨rfl, rfl, rfl, hf, hsl, rfl⟩

theorem State.env?_floe {s : State} {g : Code} {len : Nat} {e : Env} (h : s.env? g len = some e) : s.floe? e.h = some e.f :=
  (State.env?_some h).2.2.2.1

/-! ## Issue of an F word -/

/-- An F word that passes the decode checks runs its body and retires (R56, R137). -/
theorem issueF_passes {i : Instr} {w : FWord} {sh : Shape} {e : Env} {s : State} (body : FWord → Shape → Env → State → Res)
    (hi : shapeOf i = some (w, sh)) (he : s.env? w.g (wordLen w) = some e) (hd : decodeTrap s e (privOf i) w sh = none) :
    issueF i body s = .next (State.retire e (latchesOf s e.f w sh) (sh.hint && (w.y == 1 || w.y == 2)) (body w sh e s)) := by
  simp [issueF, hi, he, hd]

/-- An F word that fails one takes the trap of the first check it fails; no operand is read (R56, R370). -/
theorem issueF_traps {i : Instr} {w : FWord} {sh : Shape} {e : Env} {s : State} {c : Cause} (body : FWord → Shape → Env → State → Res)
    (hi : shapeOf i = some (w, sh)) (he : s.env? w.g (wordLen w) = some e) (hd : decodeTrap s e (privOf i) w sh = some c) :
    issueF i body s = .next (State.retire e [] false (.trap { cause := c, lanes := e.sl.mask } s)) := by
  simp [issueF, hi, he, hd]

/-! ## Retirement -/

/-- An instruction that does not transfer control changes its own floe alone (R31, R146). -/
theorem retire_done (e : Env) (la : List (Option Latch)) (y : Bool) (s : State) :
    State.retire e la y (.done s) = s.modFloe e.h (Floe.retired e s.gt (s.mck e.f.core) la y) := rfl

theorem retire_done_floe {e : Env} {la : List (Option Latch)} {y : Bool} {s : State} {f : Floe} (h : s.floe? e.h = some f) :
    (State.retire e la y (.done s)).floe? e.h = some (f.retired e s.gt (s.mck e.f.core) la y) := by simp [retire_done, h]

theorem retire_done_other {e : Env} {la : List (Option Latch)} {y : Bool} {s : State} {k : Nat} (h : k ≠ e.h) :
    (State.retire e la y (.done s)).floe? k = s.floe? k := by simp [retire_done, State.floe?_modFloe, h]

theorem retire_jump_floe {e : Env} {la : List (Option Latch)} {y : Bool} {s : State} {f : Floe} (h : s.floe? e.h = some f) :
    (State.retire e la y (.jump s)).floe? e.h = some (Floe.settle (f.branched.issued s.gt (s.mck e.f.core) e.b la y)) := by simp [State.retire, h]

theorem retire_yield_floe {e : Env} {la : List (Option Latch)} {y : Bool} {s : State} {f : Floe} (h : s.floe? e.h = some f) :
    (State.retire e la y (.yield s)).floe? e.h = some (f.retired e s.gt (s.mck e.f.core) la true) := by simp [State.retire, h]

/-- The registers a slot's issue leaves are those its body left. -/
@[simp] theorem retire_done_firn (e : Env) (la : List (Option Latch)) (y : Bool) (s : State) : (State.retire e la y (.done s)).firn = s.firn := by
  simp [retire_done]
@[simp] theorem retire_done_ms (e : Env) (la : List (Option Latch)) (y : Bool) (s : State) : (State.retire e la y (.done s)).ms = s.ms := by
  simp [retire_done]
@[simp] theorem retire_trap_firn (e : Env) (la : List (Option Latch)) (y : Bool) (t : TrapInfo) (s : State) :
    (State.retire e la y (.trap t s)).firn = s.firn := by simp [State.retire]
@[simp] theorem retire_trap_ms (e : Env) (la : List (Option Latch)) (y : Bool) (t : TrapInfo) (s : State) :
    (State.retire e la y (.trap t s)).ms = s.ms := by simp [State.retire]

/-! ## Traps -/

/-- A cause that goes to the handler enters it where the floe is in none and TRAPBASE is set (R370, R371). -/
theorem State.vector_enters {s : State} {h : Nat} {b : Bool} {pc n : Dword} {t : TrapInfo} {f : Floe} {c : Ctx} (hf : s.floe? h = some f)
    (hc : s.ctx? f.ctx = some c) (hl : f.levelHandler = false) (hb : c.trapBase ≠ 0) :
    s.vector h b pc n t = s.setFloe h (handlerEntry f b c.trapBase pc n t) := by
  have hb' : ¬ c.trapBase = 0#64 := hb
  simp [State.vector, hf, hc, hl, hb']

/-- In a handler already, or with TRAPBASE zero, the trap is fatal (R371). -/
theorem State.vector_fatal {s : State} {h : Nat} {b : Bool} {pc n : Dword} {t : TrapInfo} {f : Floe} {c : Ctx} (hf : s.floe? h = some f)
    (hc : s.ctx? f.ctx = some c) (hl : f.levelHandler = true ∨ c.trapBase = 0) :
    s.vector h b pc n t = s.fatal f.ctx (trapRecord s f pc false t) := by
  simp only [State.vector, hf, hc]
  rw [if_pos]
  simpa using hl

theorem State.deliver_vector {s : State} {h : Nat} {b : Bool} {pc n : Dword} {t : TrapInfo} (hp : ¬ (t.cause = .pageNotPresent ∧ t.source = 0)) :
    s.deliver h b pc n t = s.vector h b pc n t := by
  unfold State.deliver
  split
  · rename_i hf; simp [State.vector, hf]
  · simp [hp]

/-! ## Lanes -/

theorem maskLanes_lt {m : Mask} {l : Nat} (h : l ∈ maskLanes m) : l < 32 := by
  simp [maskLanes] at h; exact h.1

theorem mem_maskLanes {m : Mask} {l : Nat} : l ∈ maskLanes m ↔ l < 32 ∧ m.getLsbD l = true := by simp [maskLanes]

theorem maskLanes_sorted (m : Mask) : (maskLanes m).Pairwise (· < ·) := by
  unfold maskLanes
  exact List.Pairwise.filter _ List.pairwise_lt_range

theorem computeLanes_lt {w : FWord} {e : Env} {l : Nat} (h : l ∈ computeLanes w e) : l < 32 := by
  unfold computeLanes at h
  split at h
  · exact maskLanes_lt (List.mem_of_mem_take h)
  · exact maskLanes_lt h

theorem computeLanes_sorted (w : FWord) (e : Env) : (computeLanes w e).Pairwise (· < ·) := by
  unfold computeLanes
  split
  · exact (maskLanes_sorted _).sublist (List.take_sublist _ _)
  · exact maskLanes_sorted _

end Sys2Proof.Machine
end

