-- ==== Sys2Proof/Laws/Memory.lean ====
section
/-! SUPPORT. Memory as bytes: a read after a write, and that each operation keeps the canonical form (R3). -/

namespace Sys2Proof.Machine

theorem Ms.byte_setByte (m : Ms) (a b : Nat) (v : Byte) : (m.setByte a v).byte b = if b = a then v else m.byte b := by
  simp [Ms.byte, Ms.setByte, Table.getD_setD]

@[simp] theorem Ms.byte_setByte_same (m : Ms) (a : Nat) (v : Byte) : (m.setByte a v).byte a = v := by simp [Ms.byte_setByte]

theorem Ms.byte_setByte_ne (m : Ms) {a b : Nat} (v : Byte) (h : b ≠ a) : (m.setByte a v).byte b = m.byte b := by
  simp [Ms.byte_setByte, h]

/-- Bytes written from an address up: each address of the run reads its own byte, every other as before. -/
theorem Ms.byte_setBytes (bs : List Byte) : ∀ (m : Ms) (a b : Nat),
    (m.setBytes a bs).byte b = if a ≤ b ∧ b < a + bs.length then bs.getD (b - a) 0 else m.byte b := by
  induction bs with
  | nil => intro m a b; simp [Ms.setBytes]
  | cons v t ih =>
    intro m a b
    simp only [Ms.setBytes, ih, List.length_cons]
    by_cases h1 : a + 1 ≤ b ∧ b < a + 1 + t.length
    · rw [if_pos h1, if_pos (by omega)]
      have : b - a = (b - (a + 1)) + 1 := by omega
      rw [this]; simp
    · rw [if_neg h1]
      by_cases h2 : b = a
      · subst h2; simp
      · rw [Ms.byte_setByte_ne _ _ h2, if_neg (by omega)]

theorem Ms.wf_setByte {m : Ms} (a : Nat) (v : Byte) (h : Table.wf memDefault m.mem = true) :
    Table.wf memDefault (m.setByte a v).mem = true := Table.wf_setD a v h

theorem Ms.wf_setBytes (bs : List Byte) : ∀ {m : Ms} (a : Nat), Table.wf memDefault m.mem = true →
    Table.wf memDefault (m.setBytes a bs).mem = true := by
  induction bs with
  | nil => intro m a h; exact h
  | cons v t ih => intro m a h; exact ih (a + 1) (Ms.wf_setByte a v h)

/-- Equal memories are equal data: two canonical memories that read alike at every address are one list. -/
theorem Ms.mem_ext {m n : Ms} (hm : Table.wf memDefault m.mem = true) (hn : Table.wf memDefault n.mem = true)
    (h : ∀ a, m.byte a = n.byte a) : m.mem = n.mem := Table.ext hm hn h

theorem Memory.wf_reset : Memory.wf State.reset = true := rfl

end Sys2Proof.Machine
end

