-- ==== Sys2Proof/Laws/PerInstr.lean ====
section
/-! SUPPORT. The family Opcodes: every instruction of the F format stands at its own opcode, so that no two rows of the map share one
(R67-R78). -/

/-- The opcode and the fields that encode an F word's instruction decode to that instruction. -/
def Sys2Proof.Laws.Opcodes.Statement (i : Sys2Proof.Instr) : Prop :=
  ∀ op w, Sys2Proof.fParts i = some (op, w) → Sys2Proof.fInstr op w = some i

theorem Sys2Proof.Laws.Opcodes.mov (w : FWord) : Sys2Proof.Laws.Opcodes.Statement (.mov w) := by
  intro op u h; cases h; rfl
theorem Sys2Proof.Laws.Opcodes.movi (w : FWord) : Sys2Proof.Laws.Opcodes.Statement (.movi w) := by
  intro op u h; cases h; rfl
theorem Sys2Proof.Laws.Opcodes.iadd (w : FWord) : Sys2Proof.Laws.Opcodes.Statement (.iadd w) := by
  intro op u h; cases h; rfl
theorem Sys2Proof.Laws.Opcodes.isub (w : FWord) : Sys2Proof.Laws.Opcodes.Statement (.isub w) := by
  intro op u h; cases h; rfl
theorem Sys2Proof.Laws.Opcodes.imul (w : FWord) : Sys2Proof.Laws.Opcodes.Statement (.imul w) := by
  intro op u h; cases h; rfl
theorem Sys2Proof.Laws.Opcodes.imulh (w : FWord) : Sys2Proof.Laws.Opcodes.Statement (.imulh w) := by
  intro op u h; cases h; rfl
theorem Sys2Proof.Laws.Opcodes.imad (w : FWord) : Sys2Proof.Laws.Opcodes.Statement (.imad w) := by
  intro op u h; cases h; rfl
theorem Sys2Proof.Laws.Opcodes.imadw (w : FWord) : Sys2Proof.Laws.Opcodes.Statement (.imadw w) := by
  intro op u h; cases h; rfl
theorem Sys2Proof.Laws.Opcodes.imin (w : FWord) : Sys2Proof.Laws.Opcodes.Statement (.imin w) := by
  intro op u h; cases h; rfl
theorem Sys2Proof.Laws.Opcodes.imax (w : FWord) : Sys2Proof.Laws.Opcodes.Statement (.imax w) := by
  intro op u h; cases h; rfl
theorem Sys2Proof.Laws.Opcodes.iabs (w : FWord) : Sys2Proof.Laws.Opcodes.Statement (.iabs w) := by
  intro op u h; cases h; rfl
theorem Sys2Proof.Laws.Opcodes.ltab (w : FWord) : Sys2Proof.Laws.Opcodes.Statement (.ltab w) := by
  intro op u h; cases h; rfl
theorem Sys2Proof.Laws.Opcodes.and (w : FWord) : Sys2Proof.Laws.Opcodes.Statement (.and w) := by
  intro op u h; cases h; rfl
theorem Sys2Proof.Laws.Opcodes.or (w : FWord) : Sys2Proof.Laws.Opcodes.Statement (.or w) := by
  intro op u h; cases h; rfl
theorem Sys2Proof.Laws.Opcodes.xor (w : FWord) : Sys2Proof.Laws.Opcodes.Statement (.xor w) := by
  intro op u h; cases h; rfl
theorem Sys2Proof.Laws.Opcodes.shl (w : FWord) : Sys2Proof.Laws.Opcodes.Statement (.shl w) := by
  intro op u h; cases h; rfl
theorem Sys2Proof.Laws.Opcodes.shr (w : FWord) : Sys2Proof.Laws.Opcodes.Statement (.shr w) := by
  intro op u h; cases h; rfl
theorem Sys2Proof.Laws.Opcodes.sar (w : FWord) : Sys2Proof.Laws.Opcodes.Statement (.sar w) := by
  intro op u h; cases h; rfl
theorem Sys2Proof.Laws.Opcodes.shf (w : FWord) : Sys2Proof.Laws.Opcodes.Statement (.shf w) := by
  intro op u h; cases h; rfl
theorem Sys2Proof.Laws.Opcodes.bfe (w : FWord) : Sys2Proof.Laws.Opcodes.Statement (.bfe w) := by
  intro op u h; cases h; rfl
theorem Sys2Proof.Laws.Opcodes.bfi (w : FWord) : Sys2Proof.Laws.Opcodes.Statement (.bfi w) := by
  intro op u h; cases h; rfl
theorem Sys2Proof.Laws.Opcodes.popc (w : FWord) : Sys2Proof.Laws.Opcodes.Statement (.popc w) := by
  intro op u h; cases h; rfl
theorem Sys2Proof.Laws.Opcodes.clz (w : FWord) : Sys2Proof.Laws.Opcodes.Statement (.clz w) := by
  intro op u h; cases h; rfl
theorem Sys2Proof.Laws.Opcodes.brev (w : FWord) : Sys2Proof.Laws.Opcodes.Statement (.brev w) := by
  intro op u h; cases h; rfl
theorem Sys2Proof.Laws.Opcodes.lea (w : FWord) : Sys2Proof.Laws.Opcodes.Statement (.lea w) := by
  intro op u h; cases h; rfl
theorem Sys2Proof.Laws.Opcodes.fadd (w : FWord) : Sys2Proof.Laws.Opcodes.Statement (.fadd w) := by
  intro op u h; cases h; rfl
theorem Sys2Proof.Laws.Opcodes.fsub (w : FWord) : Sys2Proof.Laws.Opcodes.Statement (.fsub w) := by
  intro op u h; cases h; rfl
theorem Sys2Proof.Laws.Opcodes.fmul (w : FWord) : Sys2Proof.Laws.Opcodes.Statement (.fmul w) := by
  intro op u h; cases h; rfl
theorem Sys2Proof.Laws.Opcodes.ffma (w : FWord) : Sys2Proof.Laws.Opcodes.Statement (.ffma w) := by
  intro op u h; cases h; rfl
theorem Sys2Proof.Laws.Opcodes.fmin (w : FWord) : Sys2Proof.Laws.Opcodes.Statement (.fmin w) := by
  intro op u h; cases h; rfl
theorem Sys2Proof.Laws.Opcodes.fmax (w : FWord) : Sys2Proof.Laws.Opcodes.Statement (.fmax w) := by
  intro op u h; cases h; rfl
theorem Sys2Proof.Laws.Opcodes.fmov (w : FWord) : Sys2Proof.Laws.Opcodes.Statement (.fmov w) := by
  intro op u h; cases h; rfl
theorem Sys2Proof.Laws.Opcodes.frcp (w : FWord) : Sys2Proof.Laws.Opcodes.Statement (.frcp w) := by
  intro op u h; cases h; rfl
theorem Sys2Proof.Laws.Opcodes.frsq (w : FWord) : Sys2Proof.Laws.Opcodes.Statement (.frsq w) := by
  intro op u h; cases h; rfl
theorem Sys2Proof.Laws.Opcodes.fsqrt (w : FWord) : Sys2Proof.Laws.Opcodes.Statement (.fsqrt w) := by
  intro op u h; cases h; rfl
theorem Sys2Proof.Laws.Opcodes.fex2 (w : FWord) : Sys2Proof.Laws.Opcodes.Statement (.fex2 w) := by
  intro op u h; cases h; rfl
theorem Sys2Proof.Laws.Opcodes.flg2 (w : FWord) : Sys2Proof.Laws.Opcodes.Statement (.flg2 w) := by
  intro op u h; cases h; rfl
theorem Sys2Proof.Laws.Opcodes.fsin (w : FWord) : Sys2Proof.Laws.Opcodes.Statement (.fsin w) := by
  intro op u h; cases h; rfl
theorem Sys2Proof.Laws.Opcodes.fcos (w : FWord) : Sys2Proof.Laws.Opcodes.Statement (.fcos w) := by
  intro op u h; cases h; rfl
theorem Sys2Proof.Laws.Opcodes.hadd2 (w : FWord) : Sys2Proof.Laws.Opcodes.Statement (.hadd2 w) := by
  intro op u h; cases h; rfl
theorem Sys2Proof.Laws.Opcodes.hmul2 (w : FWord) : Sys2Proof.Laws.Opcodes.Statement (.hmul2 w) := by
  intro op u h; cases h; rfl
theorem Sys2Proof.Laws.Opcodes.hfma2 (w : FWord) : Sys2Proof.Laws.Opcodes.Statement (.hfma2 w) := by
  intro op u h; cases h; rfl
theorem Sys2Proof.Laws.Opcodes.dadd (w : FWord) : Sys2Proof.Laws.Opcodes.Statement (.dadd w) := by
  intro op u h; cases h; rfl
theorem Sys2Proof.Laws.Opcodes.dmul (w : FWord) : Sys2Proof.Laws.Opcodes.Statement (.dmul w) := by
  intro op u h; cases h; rfl
theorem Sys2Proof.Laws.Opcodes.dfma (w : FWord) : Sys2Proof.Laws.Opcodes.Statement (.dfma w) := by
  intro op u h; cases h; rfl
theorem Sys2Proof.Laws.Opcodes.dmin (w : FWord) : Sys2Proof.Laws.Opcodes.Statement (.dmin w) := by
  intro op u h; cases h; rfl
theorem Sys2Proof.Laws.Opcodes.dmax (w : FWord) : Sys2Proof.Laws.Opcodes.Statement (.dmax w) := by
  intro op u h; cases h; rfl
theorem Sys2Proof.Laws.Opcodes.drcp (w : FWord) : Sys2Proof.Laws.Opcodes.Statement (.drcp w) := by
  intro op u h; cases h; rfl
theorem Sys2Proof.Laws.Opcodes.drsq (w : FWord) : Sys2Proof.Laws.Opcodes.Statement (.drsq w) := by
  intro op u h; cases h; rfl
theorem Sys2Proof.Laws.Opcodes.dmov (w : FWord) : Sys2Proof.Laws.Opcodes.Statement (.dmov w) := by
  intro op u h; cases h; rfl
theorem Sys2Proof.Laws.Opcodes.cvt (w : FWord) : Sys2Proof.Laws.Opcodes.Statement (.cvt w) := by
  intro op u h; cases h; rfl
theorem Sys2Proof.Laws.Opcodes.cvti (w : FWord) : Sys2Proof.Laws.Opcodes.Statement (.cvti w) := by
  intro op u h; cases h; rfl
theorem Sys2Proof.Laws.Opcodes.pack (w : FWord) : Sys2Proof.Laws.Opcodes.Statement (.pack w) := by
  intro op u h; cases h; rfl
theorem Sys2Proof.Laws.Opcodes.unpk (w : FWord) : Sys2Proof.Laws.Opcodes.Statement (.unpk w) := by
  intro op u h; cases h; rfl
theorem Sys2Proof.Laws.Opcodes.qscan (w : FWord) : Sys2Proof.Laws.Opcodes.Statement (.qscan w) := by
  intro op u h; cases h; rfl
theorem Sys2Proof.Laws.Opcodes.icmp (w : FWord) : Sys2Proof.Laws.Opcodes.Statement (.icmp w) := by
  intro op u h; cases h; rfl
theorem Sys2Proof.Laws.Opcodes.fcmp (w : FWord) : Sys2Proof.Laws.Opcodes.Statement (.fcmp w) := by
  intro op u h; cases h; rfl
theorem Sys2Proof.Laws.Opcodes.dcmp (w : FWord) : Sys2Proof.Laws.Opcodes.Statement (.dcmp w) := by
  intro op u h; cases h; rfl
theorem Sys2Proof.Laws.Opcodes.vset (w : FWord) : Sys2Proof.Laws.Opcodes.Statement (.vset w) := by
  intro op u h; cases h; rfl
theorem Sys2Proof.Laws.Opcodes.vclr (w : FWord) : Sys2Proof.Laws.Opcodes.Statement (.vclr w) := by
  intro op u h; cases h; rfl
theorem Sys2Proof.Laws.Opcodes.vtest (w : FWord) : Sys2Proof.Laws.Opcodes.Statement (.vtest w) := by
  intro op u h; cases h; rfl
theorem Sys2Proof.Laws.Opcodes.vand (w : FWord) : Sys2Proof.Laws.Opcodes.Statement (.vand w) := by
  intro op u h; cases h; rfl
theorem Sys2Proof.Laws.Opcodes.sel (w : FWord) : Sys2Proof.Laws.Opcodes.Statement (.sel w) := by
  intro op u h; cases h; rfl
theorem Sys2Proof.Laws.Opcodes.ballot (w : FWord) : Sys2Proof.Laws.Opcodes.Statement (.ballot w) := by
  intro op u h; cases h; rfl
theorem Sys2Proof.Laws.Opcodes.vote (w : FWord) : Sys2Proof.Laws.Opcodes.Statement (.vote w) := by
  intro op u h; cases h; rfl
theorem Sys2Proof.Laws.Opcodes.shfl (w : FWord) : Sys2Proof.Laws.Opcodes.Statement (.shfl w) := by
  intro op u h; cases h; rfl
theorem Sys2Proof.Laws.Opcodes.redux (w : FWord) : Sys2Proof.Laws.Opcodes.Statement (.redux w) := by
  intro op u h; cases h; rfl
theorem Sys2Proof.Laws.Opcodes.scan (w : FWord) : Sys2Proof.Laws.Opcodes.Statement (.scan w) := by
  intro op u h; cases h; rfl
theorem Sys2Proof.Laws.Opcodes.nop (w : FWord) : Sys2Proof.Laws.Opcodes.Statement (.nop w) := by
  intro op u h; cases h; rfl
theorem Sys2Proof.Laws.Opcodes.br (w : FWord) : Sys2Proof.Laws.Opcodes.Statement (.br w) := by
  intro op u h; cases h; rfl
theorem Sys2Proof.Laws.Opcodes.brx (w : FWord) : Sys2Proof.Laws.Opcodes.Statement (.brx w) := by
  intro op u h; cases h; rfl
theorem Sys2Proof.Laws.Opcodes.jmp (w : FWord) : Sys2Proof.Laws.Opcodes.Statement (.jmp w) := by
  intro op u h; cases h; rfl
theorem Sys2Proof.Laws.Opcodes.call (w : FWord) : Sys2Proof.Laws.Opcodes.Statement (.call w) := by
  intro op u h; cases h; rfl
theorem Sys2Proof.Laws.Opcodes.ret (w : FWord) : Sys2Proof.Laws.Opcodes.Statement (.ret w) := by
  intro op u h; cases h; rfl
theorem Sys2Proof.Laws.Opcodes.exit (w : FWord) : Sys2Proof.Laws.Opcodes.Statement (.exit w) := by
  intro op u h; cases h; rfl
theorem Sys2Proof.Laws.Opcodes.elect (w : FWord) : Sys2Proof.Laws.Opcodes.Statement (.elect w) := by
  intro op u h; cases h; rfl
theorem Sys2Proof.Laws.Opcodes.yield (w : FWord) : Sys2Proof.Laws.Opcodes.Statement (.yield w) := by
  intro op u h; cases h; rfl
theorem Sys2Proof.Laws.Opcodes.trap (w : FWord) : Sys2Proof.Laws.Opcodes.Statement (.trap w) := by
  intro op u h; cases h; rfl
theorem Sys2Proof.Laws.Opcodes.brk (w : FWord) : Sys2Proof.Laws.Opcodes.Statement (.brk w) := by
  intro op u h; cases h; rfl
theorem Sys2Proof.Laws.Opcodes.sleep (w : FWord) : Sys2Proof.Laws.Opcodes.Statement (.sleep w) := by
  intro op u h; cases h; rfl
theorem Sys2Proof.Laws.Opcodes.ld (w : FWord) : Sys2Proof.Laws.Opcodes.Statement (.ld w) := by
  intro op u h; cases h; rfl
theorem Sys2Proof.Laws.Opcodes.st (w : FWord) : Sys2Proof.Laws.Opcodes.Statement (.st w) := by
  intro op u h; cases h; rfl
theorem Sys2Proof.Laws.Opcodes.lda (w : FWord) : Sys2Proof.Laws.Opcodes.Statement (.lda w) := by
  intro op u h; cases h; rfl
theorem Sys2Proof.Laws.Opcodes.ldx (w : FWord) : Sys2Proof.Laws.Opcodes.Statement (.ldx w) := by
  intro op u h; cases h; rfl
theorem Sys2Proof.Laws.Opcodes.stx (w : FWord) : Sys2Proof.Laws.Opcodes.Statement (.stx w) := by
  intro op u h; cases h; rfl
theorem Sys2Proof.Laws.Opcodes.stc (w : FWord) : Sys2Proof.Laws.Opcodes.Statement (.stc w) := by
  intro op u h; cases h; rfl
theorem Sys2Proof.Laws.Opcodes.lde (w : FWord) : Sys2Proof.Laws.Opcodes.Statement (.lde w) := by
  intro op u h; cases h; rfl
theorem Sys2Proof.Laws.Opcodes.ldr (w : FWord) : Sys2Proof.Laws.Opcodes.Statement (.ldr w) := by
  intro op u h; cases h; rfl
theorem Sys2Proof.Laws.Opcodes.str (w : FWord) : Sys2Proof.Laws.Opcodes.Statement (.str w) := by
  intro op u h; cases h; rfl
theorem Sys2Proof.Laws.Opcodes.pref (w : FWord) : Sys2Proof.Laws.Opcodes.Statement (.pref w) := by
  intro op u h; cases h; rfl
theorem Sys2Proof.Laws.Opcodes.cpy (w : FWord) : Sys2Proof.Laws.Opcodes.Statement (.cpy w) := by
  intro op u h; cases h; rfl
theorem Sys2Proof.Laws.Opcodes.cpyd (w : FWord) : Sys2Proof.Laws.Opcodes.Statement (.cpyd w) := by
  intro op u h; cases h; rfl
theorem Sys2Proof.Laws.Opcodes.cpcommit (w : FWord) : Sys2Proof.Laws.Opcodes.Statement (.cpcommit w) := by
  intro op u h; cases h; rfl
theorem Sys2Proof.Laws.Opcodes.wait (w : FWord) : Sys2Proof.Laws.Opcodes.Statement (.wait w) := by
  intro op u h; cases h; rfl
theorem Sys2Proof.Laws.Opcodes.acreset (w : FWord) : Sys2Proof.Laws.Opcodes.Statement (.acreset w) := by
  intro op u h; cases h; rfl
theorem Sys2Proof.Laws.Opcodes.dfence (w : FWord) : Sys2Proof.Laws.Opcodes.Statement (.dfence w) := by
  intro op u h; cases h; rfl
theorem Sys2Proof.Laws.Opcodes.atom (w : FWord) : Sys2Proof.Laws.Opcodes.Statement (.atom w) := by
  intro op u h; cases h; rfl
theorem Sys2Proof.Laws.Opcodes.red (w : FWord) : Sys2Proof.Laws.Opcodes.Statement (.red w) := by
  intro op u h; cases h; rfl
theorem Sys2Proof.Laws.Opcodes.cas (w : FWord) : Sys2Proof.Laws.Opcodes.Statement (.cas w) := by
  intro op u h; cases h; rfl
theorem Sys2Proof.Laws.Opcodes.atomf (w : FWord) : Sys2Proof.Laws.Opcodes.Statement (.atomf w) := by
  intro op u h; cases h; rfl
theorem Sys2Proof.Laws.Opcodes.lock (w : FWord) : Sys2Proof.Laws.Opcodes.Statement (.lock w) := by
  intro op u h; cases h; rfl
theorem Sys2Proof.Laws.Opcodes.unlock (w : FWord) : Sys2Proof.Laws.Opcodes.Statement (.unlock w) := by
  intro op u h; cases h; rfl
theorem Sys2Proof.Laws.Opcodes.fence (w : FWord) : Sys2Proof.Laws.Opcodes.Statement (.fence w) := by
  intro op u h; cases h; rfl
theorem Sys2Proof.Laws.Opcodes.flushtag (w : FWord) : Sys2Proof.Laws.Opcodes.Statement (.flushtag w) := by
  intro op u h; cases h; rfl
theorem Sys2Proof.Laws.Opcodes.leasedrop (w : FWord) : Sys2Proof.Laws.Opcodes.Statement (.leasedrop w) := by
  intro op u h; cases h; rfl
theorem Sys2Proof.Laws.Opcodes.mctx (w : FWord) : Sys2Proof.Laws.Opcodes.Statement (.mctx w) := by
  intro op u h; cases h; rfl
theorem Sys2Proof.Laws.Opcodes.mrel (w : FWord) : Sys2Proof.Laws.Opcodes.Statement (.mrel w) := by
  intro op u h; cases h; rfl
theorem Sys2Proof.Laws.Opcodes.mma (w : FWord) : Sys2Proof.Laws.Opcodes.Statement (.mma w) := by
  intro op u h; cases h; rfl
theorem Sys2Proof.Laws.Opcodes.mmap (w : FWord) : Sys2Proof.Laws.Opcodes.Statement (.mmap w) := by
  intro op u h; cases h; rfl
theorem Sys2Proof.Laws.Opcodes.mmag (w : FWord) : Sys2Proof.Laws.Opcodes.Statement (.mmag w) := by
  intro op u h; cases h; rfl
theorem Sys2Proof.Laws.Opcodes.mmax (w : FWord) : Sys2Proof.Laws.Opcodes.Statement (.mmax w) := by
  intro op u h; cases h; rfl
theorem Sys2Proof.Laws.Opcodes.mld (w : FWord) : Sys2Proof.Laws.Opcodes.Statement (.mld w) := by
  intro op u h; cases h; rfl
theorem Sys2Proof.Laws.Opcodes.mst (w : FWord) : Sys2Proof.Laws.Opcodes.Statement (.mst w) := by
  intro op u h; cases h; rfl
theorem Sys2Proof.Laws.Opcodes.mzero (w : FWord) : Sys2Proof.Laws.Opcodes.Statement (.mzero w) := by
  intro op u h; cases h; rfl
theorem Sys2Proof.Laws.Opcodes.tpset (w : FWord) : Sys2Proof.Laws.Opcodes.Statement (.tpset w) := by
  intro op u h; cases h; rfl
theorem Sys2Proof.Laws.Opcodes.tpscan (w : FWord) : Sys2Proof.Laws.Opcodes.Statement (.tpscan w) := by
  intro op u h; cases h; rfl
theorem Sys2Proof.Laws.Opcodes.msync (w : FWord) : Sys2Proof.Laws.Opcodes.Statement (.msync w) := by
  intro op u h; cases h; rfl
theorem Sys2Proof.Laws.Opcodes.twbind (w : FWord) : Sys2Proof.Laws.Opcodes.Statement (.twbind w) := by
  intro op u h; cases h; rfl
theorem Sys2Proof.Laws.Opcodes.twlk (w : FWord) : Sys2Proof.Laws.Opcodes.Statement (.twlk w) := by
  intro op u h; cases h; rfl
theorem Sys2Proof.Laws.Opcodes.twld (w : FWord) : Sys2Proof.Laws.Opcodes.Statement (.twld w) := by
  intro op u h; cases h; rfl
theorem Sys2Proof.Laws.Opcodes.twst (w : FWord) : Sys2Proof.Laws.Opcodes.Statement (.twst w) := by
  intro op u h; cases h; rfl
theorem Sys2Proof.Laws.Opcodes.twsten (w : FWord) : Sys2Proof.Laws.Opcodes.Statement (.twsten w) := by
  intro op u h; cases h; rfl
theorem Sys2Proof.Laws.Opcodes.twray (w : FWord) : Sys2Proof.Laws.Opcodes.Statement (.twray w) := by
  intro op u h; cases h; rfl
theorem Sys2Proof.Laws.Opcodes.twleaf (w : FWord) : Sys2Proof.Laws.Opcodes.Statement (.twleaf w) := by
  intro op u h; cases h; rfl
theorem Sys2Proof.Laws.Opcodes.twinv (w : FWord) : Sys2Proof.Laws.Opcodes.Statement (.twinv w) := by
  intro op u h; cases h; rfl
theorem Sys2Proof.Laws.Opcodes.tains (w : FWord) : Sys2Proof.Laws.Opcodes.Statement (.tains w) := by
  intro op u h; cases h; rfl
theorem Sys2Proof.Laws.Opcodes.tadel (w : FWord) : Sys2Proof.Laws.Opcodes.Statement (.tadel w) := by
  intro op u h; cases h; rfl
theorem Sys2Proof.Laws.Opcodes.tamask (w : FWord) : Sys2Proof.Laws.Opcodes.Statement (.tamask w) := by
  intro op u h; cases h; rfl
theorem Sys2Proof.Laws.Opcodes.tacommit (w : FWord) : Sys2Proof.Laws.Opcodes.Statement (.tacommit w) := by
  intro op u h; cases h; rfl
theorem Sys2Proof.Laws.Opcodes.enq (w : FWord) : Sys2Proof.Laws.Opcodes.Statement (.enq w) := by
  intro op u h; cases h; rfl
theorem Sys2Proof.Laws.Opcodes.nodeout (w : FWord) : Sys2Proof.Laws.Opcodes.Statement (.nodeout w) := by
  intro op u h; cases h; rfl
theorem Sys2Proof.Laws.Opcodes.recv (w : FWord) : Sys2Proof.Laws.Opcodes.Statement (.recv w) := by
  intro op u h; cases h; rfl
theorem Sys2Proof.Laws.Opcodes.evsig (w : FWord) : Sys2Proof.Laws.Opcodes.Statement (.evsig w) := by
  intro op u h; cases h; rfl
theorem Sys2Proof.Laws.Opcodes.evwait (w : FWord) : Sys2Proof.Laws.Opcodes.Statement (.evwait w) := by
  intro op u h; cases h; rfl
theorem Sys2Proof.Laws.Opcodes.evclr (w : FWord) : Sys2Proof.Laws.Opcodes.Statement (.evclr w) := by
  intro op u h; cases h; rfl
theorem Sys2Proof.Laws.Opcodes.launch (w : FWord) : Sys2Proof.Laws.Opcodes.Statement (.launch w) := by
  intro op u h; cases h; rfl
theorem Sys2Proof.Laws.Opcodes.bara (w : FWord) : Sys2Proof.Laws.Opcodes.Statement (.bara w) := by
  intro op u h; cases h; rfl
theorem Sys2Proof.Laws.Opcodes.barw (w : FWord) : Sys2Proof.Laws.Opcodes.Statement (.barw w) := by
  intro op u h; cases h; rfl
theorem Sys2Proof.Laws.Opcodes.bars (w : FWord) : Sys2Proof.Laws.Opcodes.Statement (.bars w) := by
  intro op u h; cases h; rfl
theorem Sys2Proof.Laws.Opcodes.bart (w : FWord) : Sys2Proof.Laws.Opcodes.Statement (.bart w) := by
  intro op u h; cases h; rfl
theorem Sys2Proof.Laws.Opcodes.packq (w : FWord) : Sys2Proof.Laws.Opcodes.Statement (.packq w) := by
  intro op u h; cases h; rfl
theorem Sys2Proof.Laws.Opcodes.rld (w : FWord) : Sys2Proof.Laws.Opcodes.Statement (.rld w) := by
  intro op u h; cases h; rfl
theorem Sys2Proof.Laws.Opcodes.rwr (w : FWord) : Sys2Proof.Laws.Opcodes.Statement (.rwr w) := by
  intro op u h; cases h; rfl
theorem Sys2Proof.Laws.Opcodes.ratom (w : FWord) : Sys2Proof.Laws.Opcodes.Statement (.ratom w) := by
  intro op u h; cases h; rfl
theorem Sys2Proof.Laws.Opcodes.halo (w : FWord) : Sys2Proof.Laws.Opcodes.Statement (.halo w) := by
  intro op u h; cases h; rfl
theorem Sys2Proof.Laws.Opcodes.coll (w : FWord) : Sys2Proof.Laws.Opcodes.Statement (.coll w) := by
  intro op u h; cases h; rfl
theorem Sys2Proof.Laws.Opcodes.msg (w : FWord) : Sys2Proof.Laws.Opcodes.Statement (.msg w) := by
  intro op u h; cases h; rfl
theorem Sys2Proof.Laws.Opcodes.rdsr (w : FWord) : Sys2Proof.Laws.Opcodes.Statement (.rdsr w) := by
  intro op u h; cases h; rfl
theorem Sys2Proof.Laws.Opcodes.wrsr (w : FWord) : Sys2Proof.Laws.Opcodes.Statement (.wrsr w) := by
  intro op u h; cases h; rfl
theorem Sys2Proof.Laws.Opcodes.svc (w : FWord) : Sys2Proof.Laws.Opcodes.Statement (.svc w) := by
  intro op u h; cases h; rfl
theorem Sys2Proof.Laws.Opcodes.trapret (w : FWord) : Sys2Proof.Laws.Opcodes.Statement (.trapret w) := by
  intro op u h; cases h; rfl
theorem Sys2Proof.Laws.Opcodes.setrole (w : FWord) : Sys2Proof.Laws.Opcodes.Statement (.setrole w) := by
  intro op u h; cases h; rfl
theorem Sys2Proof.Laws.Opcodes.setmode (w : FWord) : Sys2Proof.Laws.Opcodes.Statement (.setmode w) := by
  intro op u h; cases h; rfl
theorem Sys2Proof.Laws.Opcodes.tlbinv (w : FWord) : Sys2Proof.Laws.Opcodes.Statement (.tlbinv w) := by
  intro op u h; cases h; rfl
theorem Sys2Proof.Laws.Opcodes.ctxcmd (w : FWord) : Sys2Proof.Laws.Opcodes.Statement (.ctxcmd w) := by
  intro op u h; cases h; rfl
theorem Sys2Proof.Laws.Opcodes.ptload (w : FWord) : Sys2Proof.Laws.Opcodes.Statement (.ptload w) := by
  intro op u h; cases h; rfl
theorem Sys2Proof.Laws.Opcodes.halt (w : FWord) : Sys2Proof.Laws.Opcodes.Statement (.halt w) := by
  intro op u h; cases h; rfl
theorem Sys2Proof.Laws.Opcodes.pairWord (h0 : HalfWord) (h1 : HalfWord) : Sys2Proof.Laws.Opcodes.Statement (.pairWord h0 h1) := by
  intro op u h; cases h
theorem Sys2Proof.Laws.Opcodes.floeAged (floe : Nat) : Sys2Proof.Laws.Opcodes.Statement (.floeAged floe) := by
  intro op u h; cases h
theorem Sys2Proof.Laws.Opcodes.conditionMet (floe : Nat) : Sys2Proof.Laws.Opcodes.Statement (.conditionMet floe) := by
  intro op u h; cases h
theorem Sys2Proof.Laws.Opcodes.sleepDeadline (floe : Nat) : Sys2Proof.Laws.Opcodes.Statement (.sleepDeadline floe) := by
  intro op u h; cases h
theorem Sys2Proof.Laws.Opcodes.launchDone (floe : Nat) : Sys2Proof.Laws.Opcodes.Statement (.launchDone floe) := by
  intro op u h; cases h
theorem Sys2Proof.Laws.Opcodes.dataReturn (op : Nat) : Sys2Proof.Laws.Opcodes.Statement (.dataReturn op) := by
  intro op u h; cases h
theorem Sys2Proof.Laws.Opcodes.storePerformed (op : Nat) : Sys2Proof.Laws.Opcodes.Statement (.storePerformed op) := by
  intro op u h; cases h
theorem Sys2Proof.Laws.Opcodes.transferFault (op : Nat) : Sys2Proof.Laws.Opcodes.Statement (.transferFault op) := by
  intro op u h; cases h
theorem Sys2Proof.Laws.Opcodes.copyStart (core : Nat) (copy : Nat) : Sys2Proof.Laws.Opcodes.Statement (.copyStart core copy) := by
  intro op u h; cases h
theorem Sys2Proof.Laws.Opcodes.copyComplete (core : Nat) (copy : Nat) : Sys2Proof.Laws.Opcodes.Statement (.copyComplete core copy) := by
  intro op u h; cases h
theorem Sys2Proof.Laws.Opcodes.copyFault (core : Nat) (copy : Nat) : Sys2Proof.Laws.Opcodes.Statement (.copyFault core copy) := by
  intro op u h; cases h
theorem Sys2Proof.Laws.Opcodes.moverTrapDelivery (floe : Nat) : Sys2Proof.Laws.Opcodes.Statement (.moverTrapDelivery floe) := by
  intro op u h; cases h
theorem Sys2Proof.Laws.Opcodes.sliceHoldEnd (op : Nat) : Sys2Proof.Laws.Opcodes.Statement (.sliceHoldEnd op) := by
  intro op u h; cases h
theorem Sys2Proof.Laws.Opcodes.l1TagSweep (core : Nat) : Sys2Proof.Laws.Opcodes.Statement (.l1TagSweep core) := by
  intro op u h; cases h
theorem Sys2Proof.Laws.Opcodes.predictorDecay : Sys2Proof.Laws.Opcodes.Statement (.predictorDecay) := by
  intro op u h; cases h
theorem Sys2Proof.Laws.Opcodes.readMsg (die : Nat) (line : Nat) (span : Span) (slot : Nat) : Sys2Proof.Laws.Opcodes.Statement (.readMsg die line span slot) := by
  intro op u h; cases h
theorem Sys2Proof.Laws.Opcodes.writeMsg (op : Nat) (line : Nat) : Sys2Proof.Laws.Opcodes.Statement (.writeMsg op line) := by
  intro op u h; cases h
theorem Sys2Proof.Laws.Opcodes.atomicMsg (op : Nat) (line : Nat) : Sys2Proof.Laws.Opcodes.Statement (.atomicMsg op line) := by
  intro op u h; cases h
theorem Sys2Proof.Laws.Opcodes.evictMsg (die : Nat) (line : Nat) : Sys2Proof.Laws.Opcodes.Statement (.evictMsg die line) := by
  intro op u h; cases h
theorem Sys2Proof.Laws.Opcodes.ackMsg (die : Nat) (line : Nat) : Sys2Proof.Laws.Opcodes.Statement (.ackMsg die line) := by
  intro op u h; cases h
theorem Sys2Proof.Laws.Opcodes.returnMsg (die : Nat) (line : Nat) : Sys2Proof.Laws.Opcodes.Statement (.returnMsg die line) := by
  intro op u h; cases h
theorem Sys2Proof.Laws.Opcodes.sharerInvalidate (die : Nat) (line : Nat) : Sys2Proof.Laws.Opcodes.Statement (.sharerInvalidate die line) := by
  intro op u h; cases h
theorem Sys2Proof.Laws.Opcodes.sharerUpdate (die : Nat) (line : Nat) : Sys2Proof.Laws.Opcodes.Statement (.sharerUpdate die line) := by
  intro op u h; cases h
theorem Sys2Proof.Laws.Opcodes.recall (die : Nat) (line : Nat) : Sys2Proof.Laws.Opcodes.Statement (.recall die line) := by
  intro op u h; cases h
theorem Sys2Proof.Laws.Opcodes.tileOperationPerform (core : Nat) (mctx : Nat) (stream : Nat) : Sys2Proof.Laws.Opcodes.Statement (.tileOperationPerform core mctx stream) := by
  intro op u h; cases h
theorem Sys2Proof.Laws.Opcodes.matrixContextGrant (core : Nat) : Sys2Proof.Laws.Opcodes.Statement (.matrixContextGrant core) := by
  intro op u h; cases h
theorem Sys2Proof.Laws.Opcodes.matrixContextDrained (core : Nat) (mctx : Nat) : Sys2Proof.Laws.Opcodes.Statement (.matrixContextDrained core mctx) := by
  intro op u h; cases h
theorem Sys2Proof.Laws.Opcodes.allocatorOperation (op : Nat) : Sys2Proof.Laws.Opcodes.Statement (.allocatorOperation op) := by
  intro op u h; cases h
theorem Sys2Proof.Laws.Opcodes.leafEnumeration (ctx : Nat) (inst : Nat) : Sys2Proof.Laws.Opcodes.Statement (.leafEnumeration ctx inst) := by
  intro op u h; cases h
theorem Sys2Proof.Laws.Opcodes.haloDestinationSignal (op : Nat) (dest : Nat) : Sys2Proof.Laws.Opcodes.Statement (.haloDestinationSignal op dest) := by
  intro op u h; cases h
theorem Sys2Proof.Laws.Opcodes.walkerNodeRecord (part : Nat) (queue : Nat) : Sys2Proof.Laws.Opcodes.Statement (.walkerNodeRecord part queue) := by
  intro op u h; cases h
theorem Sys2Proof.Laws.Opcodes.blenderRecord (part : Nat) (queue : Nat) : Sys2Proof.Laws.Opcodes.Statement (.blenderRecord part queue) := by
  intro op u h; cases h
theorem Sys2Proof.Laws.Opcodes.launchEngineTake (die : Nat) : Sys2Proof.Laws.Opcodes.Statement (.launchEngineTake die) := by
  intro op u h; cases h
theorem Sys2Proof.Laws.Opcodes.floePlacement (die : Nat) : Sys2Proof.Laws.Opcodes.Statement (.floePlacement die) := by
  intro op u h; cases h
theorem Sys2Proof.Laws.Opcodes.deadlineRestore (floe : Nat) : Sys2Proof.Laws.Opcodes.Statement (.deadlineRestore floe) := by
  intro op u h; cases h
theorem Sys2Proof.Laws.Opcodes.floeSaved (floe : Nat) : Sys2Proof.Laws.Opcodes.Statement (.floeSaved floe) := by
  intro op u h; cases h
theorem Sys2Proof.Laws.Opcodes.floeRestore (floe : Nat) (core : Nat) : Sys2Proof.Laws.Opcodes.Statement (.floeRestore floe core) := by
  intro op u h; cases h
theorem Sys2Proof.Laws.Opcodes.saveRldTimeout (op : Nat) : Sys2Proof.Laws.Opcodes.Statement (.saveRldTimeout op) := by
  intro op u h; cases h
theorem Sys2Proof.Laws.Opcodes.instanceDone (ctx : Nat) (inst : Nat) : Sys2Proof.Laws.Opcodes.Statement (.instanceDone ctx inst) := by
  intro op u h; cases h
theorem Sys2Proof.Laws.Opcodes.eventSignal (ctx : Nat) : Sys2Proof.Laws.Opcodes.Statement (.eventSignal ctx) := by
  intro op u h; cases h
theorem Sys2Proof.Laws.Opcodes.eventWait (ctx : Nat) : Sys2Proof.Laws.Opcodes.Statement (.eventWait ctx) := by
  intro op u h; cases h
theorem Sys2Proof.Laws.Opcodes.eventClear (ctx : Nat) : Sys2Proof.Laws.Opcodes.Statement (.eventClear ctx) := by
  intro op u h; cases h
theorem Sys2Proof.Laws.Opcodes.accept (part : Nat) : Sys2Proof.Laws.Opcodes.Statement (.accept part) := by
  intro op u h; cases h
theorem Sys2Proof.Laws.Opcodes.hostApertureRecord (fn : Nat) (offset : Nat) (bytes : List Byte) : Sys2Proof.Laws.Opcodes.Statement (.hostApertureRecord fn offset bytes) := by
  intro op u h; cases h
theorem Sys2Proof.Laws.Opcodes.queueTimeout (part : Nat) (queue : Nat) : Sys2Proof.Laws.Opcodes.Statement (.queueTimeout part queue) := by
  intro op u h; cases h
theorem Sys2Proof.Laws.Opcodes.queueBatchLaunch (part : Nat) (queue : Nat) : Sys2Proof.Laws.Opcodes.Statement (.queueBatchLaunch part queue) := by
  intro op u h; cases h
theorem Sys2Proof.Laws.Opcodes.barrierArrival (part : Nat) (colour : Nat) : Sys2Proof.Laws.Opcodes.Statement (.barrierArrival part colour) := by
  intro op u h; cases h
theorem Sys2Proof.Laws.Opcodes.releaseDone (part : Nat) (colour : Nat) : Sys2Proof.Laws.Opcodes.Statement (.releaseDone part colour) := by
  intro op u h; cases h
theorem Sys2Proof.Laws.Opcodes.clockStep (refuse : Bool) : Sys2Proof.Laws.Opcodes.Statement (.clockStep refuse) := by
  intro op u h; cases h
theorem Sys2Proof.Laws.Opcodes.gtCorrection (core : Nat) (target : Int) : Sys2Proof.Laws.Opcodes.Statement (.gtCorrection core target) := by
  intro op u h; cases h
theorem Sys2Proof.Laws.Opcodes.contextSaved (ctx : Nat) : Sys2Proof.Laws.Opcodes.Statement (.contextSaved ctx) := by
  intro op u h; cases h
theorem Sys2Proof.Laws.Opcodes.scrubbed (ctx : Nat) : Sys2Proof.Laws.Opcodes.Statement (.scrubbed ctx) := by
  intro op u h; cases h
theorem Sys2Proof.Laws.Opcodes.migrationFlushAck (ctx : Nat) : Sys2Proof.Laws.Opcodes.Statement (.migrationFlushAck ctx) := by
  intro op u h; cases h
theorem Sys2Proof.Laws.Opcodes.faultRecordPost (ctx : Nat) : Sys2Proof.Laws.Opcodes.Statement (.faultRecordPost ctx) := by
  intro op u h; cases h
theorem Sys2Proof.Laws.Opcodes.watchdog (floe : Nat) : Sys2Proof.Laws.Opcodes.Statement (.watchdog floe) := by
  intro op u h; cases h
theorem Sys2Proof.Laws.Opcodes.replay (src : CmdSource) : Sys2Proof.Laws.Opcodes.Statement (.replay src) := by
  intro op u h; cases h
theorem Sys2Proof.Laws.Opcodes.rekey (src : CmdSource) : Sys2Proof.Laws.Opcodes.Statement (.rekey src) := by
  intro op u h; cases h
theorem Sys2Proof.Laws.Opcodes.save (src : CmdSource) : Sys2Proof.Laws.Opcodes.Statement (.save src) := by
  intro op u h; cases h
theorem Sys2Proof.Laws.Opcodes.restore (src : CmdSource) : Sys2Proof.Laws.Opcodes.Statement (.restore src) := by
  intro op u h; cases h
theorem Sys2Proof.Laws.Opcodes.migrate (src : CmdSource) : Sys2Proof.Laws.Opcodes.Statement (.migrate src) := by
  intro op u h; cases h
theorem Sys2Proof.Laws.Opcodes.kload (src : CmdSource) : Sys2Proof.Laws.Opcodes.Statement (.kload src) := by
  intro op u h; cases h
theorem Sys2Proof.Laws.Opcodes.kplace (src : CmdSource) : Sys2Proof.Laws.Opcodes.Statement (.kplace src) := by
  intro op u h; cases h
theorem Sys2Proof.Laws.Opcodes.kbind (src : CmdSource) : Sys2Proof.Laws.Opcodes.Statement (.kbind src) := by
  intro op u h; cases h
theorem Sys2Proof.Laws.Opcodes.kunbind (src : CmdSource) : Sys2Proof.Laws.Opcodes.Statement (.kunbind src) := by
  intro op u h; cases h
theorem Sys2Proof.Laws.Opcodes.kunload (src : CmdSource) : Sys2Proof.Laws.Opcodes.Statement (.kunload src) := by
  intro op u h; cases h
theorem Sys2Proof.Laws.Opcodes.qenable (src : CmdSource) : Sys2Proof.Laws.Opcodes.Statement (.qenable src) := by
  intro op u h; cases h
theorem Sys2Proof.Laws.Opcodes.qdisable (src : CmdSource) : Sys2Proof.Laws.Opcodes.Statement (.qdisable src) := by
  intro op u h; cases h
theorem Sys2Proof.Laws.Opcodes.kill (src : CmdSource) : Sys2Proof.Laws.Opcodes.Statement (.kill src) := by
  intro op u h; cases h
theorem Sys2Proof.Laws.Opcodes.unhalt (src : CmdSource) : Sys2Proof.Laws.Opcodes.Statement (.unhalt src) := by
  intro op u h; cases h
theorem Sys2Proof.Laws.Opcodes.create (src : CmdSource) : Sys2Proof.Laws.Opcodes.Statement (.create src) := by
  intro op u h; cases h
theorem Sys2Proof.Laws.Opcodes.destroy (src : CmdSource) : Sys2Proof.Laws.Opcodes.Statement (.destroy src) := by
  intro op u h; cases h
theorem Sys2Proof.Laws.Opcodes.setsr (src : CmdSource) : Sys2Proof.Laws.Opcodes.Statement (.setsr src) := by
  intro op u h; cases h
theorem Sys2Proof.Laws.Opcodes.hlaunch (src : CmdSource) : Sys2Proof.Laws.Opcodes.Statement (.hlaunch src) := by
  intro op u h; cases h
theorem Sys2Proof.Laws.Opcodes.pageWalk (core : Nat) (ctx : Nat) (va : Dword) : Sys2Proof.Laws.Opcodes.Statement (.pageWalk core ctx va) := by
  intro op u h; cases h
theorem Sys2Proof.Laws.Opcodes.sealFill (ctx : Nat) (block : Nat) : Sys2Proof.Laws.Opcodes.Statement (.sealFill ctx block) := by
  intro op u h; cases h
theorem Sys2Proof.Laws.Opcodes.marginSample (link : Nat) (lanes : List LaneSample) : Sys2Proof.Laws.Opcodes.Statement (.marginSample link lanes) := by
  intro op u h; cases h
theorem Sys2Proof.Laws.Opcodes.linkRetrain (link : Nat) : Sys2Proof.Laws.Opcodes.Statement (.linkRetrain link) := by
  intro op u h; cases h
theorem Sys2Proof.Laws.Opcodes.linkDisable (link : Nat) : Sys2Proof.Laws.Opcodes.Statement (.linkDisable link) := by
  intro op u h; cases h
theorem Sys2Proof.Laws.Opcodes.linkEnable (link : Nat) : Sys2Proof.Laws.Opcodes.Statement (.linkEnable link) := by
  intro op u h; cases h
theorem Sys2Proof.Laws.Opcodes.trainingDone (link : Nat) (ok : Bool) : Sys2Proof.Laws.Opcodes.Statement (.trainingDone link ok) := by
  intro op u h; cases h
theorem Sys2Proof.Laws.Opcodes.retrainingDone (link : Nat) (spares : Nat) (units : Nat) (clean : Bool) : Sys2Proof.Laws.Opcodes.Statement (.retrainingDone link spares units clean) := by
  intro op u h; cases h
theorem Sys2Proof.Laws.Opcodes.linkFail (link : Nat) : Sys2Proof.Laws.Opcodes.Statement (.linkFail link) := by
  intro op u h; cases h
theorem Sys2Proof.Laws.Opcodes.marginWordRead (link : Nat) (lane : Nat) : Sys2Proof.Laws.Opcodes.Statement (.marginWordRead link lane) := by
  intro op u h; cases h
theorem Sys2Proof.Laws.Opcodes.reqMessage (m : Msg) : Sys2Proof.Laws.Opcodes.Statement (.reqMessage m) := by
  intro op u h; cases h
theorem Sys2Proof.Laws.Opcodes.rspMessage (m : Msg) : Sys2Proof.Laws.Opcodes.Statement (.rspMessage m) := by
  intro op u h; cases h
theorem Sys2Proof.Laws.Opcodes.enqMessage (m : Msg) : Sys2Proof.Laws.Opcodes.Statement (.enqMessage m) := by
  intro op u h; cases h
theorem Sys2Proof.Laws.Opcodes.barMessage (m : Msg) : Sys2Proof.Laws.Opcodes.Statement (.barMessage m) := by
  intro op u h; cases h
theorem Sys2Proof.Laws.Opcodes.haloMessage (m : Msg) : Sys2Proof.Laws.Opcodes.Statement (.haloMessage m) := by
  intro op u h; cases h
theorem Sys2Proof.Laws.Opcodes.mgmtMessage (m : Msg) : Sys2Proof.Laws.Opcodes.Statement (.mgmtMessage m) := by
  intro op u h; cases h
theorem Sys2Proof.Laws.Opcodes.requestTimeout (op : Nat) : Sys2Proof.Laws.Opcodes.Statement (.requestTimeout op) := by
  intro op u h; cases h
theorem Sys2Proof.Laws.Opcodes.collRoundComplete (part : Nat) (group : Nat) (round : Nat) : Sys2Proof.Laws.Opcodes.Statement (.collRoundComplete part group round) := by
  intro op u h; cases h
theorem Sys2Proof.Laws.Opcodes.patrolScrub (t : ScrubTarget) (correctable : Bool) : Sys2Proof.Laws.Opcodes.Statement (.patrolScrub t correctable) := by
  intro op u h; cases h
theorem Sys2Proof.Laws.Opcodes.powerOnReset : Sys2Proof.Laws.Opcodes.Statement (.powerOnReset) := by
  intro op u h; cases h
theorem Sys2Proof.Laws.Opcodes.imageRead (present : Bool) (digest : BitVec 256) (svn : Word) : Sys2Proof.Laws.Opcodes.Statement (.imageRead present digest svn) := by
  intro op u h; cases h
theorem Sys2Proof.Laws.Opcodes.verifyResult (ok : Bool) : Sys2Proof.Laws.Opcodes.Statement (.verifyResult ok) := by
  intro op u h; cases h
theorem Sys2Proof.Laws.Opcodes.bootcmd (value : Word) : Sys2Proof.Laws.Opcodes.Statement (.bootcmd value) := by
  intro op u h; cases h
theorem Sys2Proof.Laws.Opcodes.initDone (ok : Bool) (locks : LockSet) : Sys2Proof.Laws.Opcodes.Statement (.initDone ok locks) := by
  intro op u h; cases h
theorem Sys2Proof.Laws.Opcodes.lockedRegisterWrite (offset : Nat) (value : Dword) : Sys2Proof.Laws.Opcodes.Statement (.lockedRegisterWrite offset value) := by
  intro op u h; cases h
theorem Sys2Proof.Laws.Opcodes.attcmd (value : Word) : Sys2Proof.Laws.Opcodes.Statement (.attcmd value) := by
  intro op u h; cases h
theorem Sys2Proof.Laws.Opcodes.attestationReportReady : Sys2Proof.Laws.Opcodes.Statement (.attestationReportReady) := by
  intro op u h; cases h
theorem Sys2Proof.Laws.Opcodes.firmwareWatchdog (restarted : Bool) : Sys2Proof.Laws.Opcodes.Statement (.firmwareWatchdog restarted) := by
  intro op u h; cases h
theorem Sys2Proof.Laws.Opcodes.mbheadWrite (value : Word) : Sys2Proof.Laws.Opcodes.Statement (.mbheadWrite value) := by
  intro op u h; cases h
theorem Sys2Proof.Laws.Opcodes.throttleStep (tmax : BitVec 8) (pwr : BitVec 12) : Sys2Proof.Laws.Opcodes.Statement (.throttleStep tmax pwr) := by
  intro op u h; cases h
theorem Sys2Proof.Laws.Opcodes.throttleClear (tmax : BitVec 8) (pwr : BitVec 12) : Sys2Proof.Laws.Opcodes.Statement (.throttleClear tmax pwr) := by
  intro op u h; cases h
theorem Sys2Proof.Laws.Opcodes.overtempShutdown (tmax : BitVec 8) : Sys2Proof.Laws.Opcodes.Statement (.overtempShutdown tmax) := by
  intro op u h; cases h
theorem Sys2Proof.Laws.Opcodes.barRegisterWrite (offset : Nat) (size : Nat) (value : BitVec 512) : Sys2Proof.Laws.Opcodes.Statement (.barRegisterWrite offset size value) := by
  intro op u h; cases h
theorem Sys2Proof.Laws.Opcodes.reservedOpcode (w : Dword) : Sys2Proof.Laws.Opcodes.Statement (.reservedOpcode w) := by
  intro op u h; cases h
theorem Sys2Proof.Laws.Opcodes.orphanExtension (w : Dword) : Sys2Proof.Laws.Opcodes.Statement (.orphanExtension w) := by
  intro op u h; cases h
theorem Sys2Proof.Laws.Opcodes.refreshWindow (link : Nat) (spares : Nat) (units : Nat) (clean : Bool) (done : Bool) (counts : List (BitVec 16)) : Sys2Proof.Laws.Opcodes.Statement (.refreshWindow link spares units clean done counts) := by
  intro op u h; cases h
theorem Sys2Proof.Laws.Opcodes.ltssmRecovery : Sys2Proof.Laws.Opcodes.Statement (.ltssmRecovery) := by
  intro op u h; cases h
theorem Sys2Proof.Laws.Opcodes.powerLoss : Sys2Proof.Laws.Opcodes.Statement (.powerLoss) := by
  intro op u h; cases h
theorem Sys2Proof.Laws.Opcodes.ainarDieIsolation (die : Nat) : Sys2Proof.Laws.Opcodes.Statement (.ainarDieIsolation die) := by
  intro op u h; cases h
theorem Sys2Proof.Laws.Opcodes.releaseReachesFloe (part : Nat) (colour : Nat) (floe : Nat) : Sys2Proof.Laws.Opcodes.Statement (.releaseReachesFloe part colour floe) := by
  intro op u h; cases h
end

