-- ==== Sys2Proof/Laws/Results.lean ====
section
/-! SUPPORT. What writing D lane by lane does, for every way the meanings write it (R114, R152). -/

namespace Sys2Proof.Machine

/-- One lane's write: words in the registers in order, or V cleared. -/
def putLane (f : Floe) (regs : List Reg) (p : Nat × Option (List FirnWord)) (s : State) : State :=
  match p.2 with
  | some ws => (regs.zip ws).foldl (fun t q => t.wrReg f q.1 p.1 q.2) s
  | none => s.wrGroup f p.1 false regs 0

/-- All lanes' writes in order. -/
def putLanes (f : Floe) (regs : List Reg) (rs : List (Nat × Option (List FirnWord))) (s : State) : State :=
  rs.foldl (fun t p => putLane f regs p t) s

/-! ## One register word -/

theorem State.getD_setFirn (s : State) (c i k : Nat) (w : FirnWord) :
    Table.getD (s.setFirn c i w).firn FirnWord.empty k = if k = firnKey c i then w else Table.getD s.firn FirnWord.empty k := by
  unfold State.setFirn; rw [Table.getD_setD]

theorem getD_wrReg (s : State) (f : Floe) (r : Reg) (l k : Nat) (w : FirnWord) (h : k ∉ writtenKeys f [r] [l]) :
    Table.getD (s.wrReg f r l w).firn FirnWord.empty k = Table.getD s.firn FirnWord.empty k := by
  unfold State.wrReg
  by_cases hc : r.uni = false ∧ f.dmr = .full ∧ l < 16
  · simp [writtenKeys, hc] at h
    simp [hc, State.getD_setFirn, h]
  · simp [writtenKeys, hc] at h
    simp [hc, State.getD_setFirn, h]

theorem mem_writtenKeys {f : Floe} {regs : List Reg} {ls : List Nat} {k : Nat} :
    k ∈ writtenKeys f regs ls ↔ ∃ r ∈ regs, ∃ l ∈ ls, k ∈ writtenKeys f [r] [l] := by
  simp [writtenKeys]

/-! ## One lane -/

theorem getD_zipPut (f : Floe) (l k : Nat) (qs : List (Reg × FirnWord)) : ∀ s : State, (∀ q ∈ qs, k ∉ writtenKeys f [q.1] [l]) →
    Table.getD (qs.foldl (fun t q => t.wrReg f q.1 l q.2) s).firn FirnWord.empty k = Table.getD s.firn FirnWord.empty k := by
  induction qs with
  | nil => intro s _; rfl
  | cons q t ih =>
    intro s h
    simp only [List.foldl_cons]
    rw [ih _ (fun x hx => h x (List.mem_cons_of_mem _ hx)), getD_wrReg _ _ _ _ _ _ (h q (by simp))]

theorem getD_wrGroup (f : Floe) (l k : Nat) (v : Bool) (regs : List Reg) : ∀ (s : State) (x : Nat), (∀ r ∈ regs, k ∉ writtenKeys f [r] [l]) →
    Table.getD (s.wrGroup f l v regs x).firn FirnWord.empty k = Table.getD s.firn FirnWord.empty k := by
  induction regs with
  | nil => intro s x _; rfl
  | cons r t ih =>
    intro s x h
    simp only [State.wrGroup]
    rw [ih _ _ (fun x hx => h x (List.mem_cons_of_mem _ hx)), getD_wrReg _ _ _ _ _ _ (h r (by simp))]

theorem getD_putLane (f : Floe) (regs : List Reg) (p : Nat × Option (List FirnWord)) (s : State) (k : Nat)
    (h : k ∉ writtenKeys f regs [p.1]) :
    Table.getD (putLane f regs p s).firn FirnWord.empty k = Table.getD s.firn FirnWord.empty k := by
  have h' : ∀ r ∈ regs, k ∉ writtenKeys f [r] [p.1] := fun r hr hk => h (mem_writtenKeys.2 ⟨r, hr, p.1, by simp, hk⟩)
  unfold putLane
  split
  · exact getD_zipPut f p.1 k _ s (fun q hq => h' q.1 (List.of_mem_zip hq).1)
  · exact getD_wrGroup f p.1 k false regs s 0 h'

theorem getD_putLanes (f : Floe) (regs : List Reg) (rs : List (Nat × Option (List FirnWord))) (k : Nat) : ∀ s : State,
    k ∉ writtenKeys f regs (rs.map Prod.fst) →
    Table.getD (putLanes f regs rs s).firn FirnWord.empty k = Table.getD s.firn FirnWord.empty k := by
  induction rs with
  | nil => intro s _; rfl
  | cons p t ih =>
    intro s h
    have h1 : k ∉ writtenKeys f regs [p.1] := fun hk => h (by
      obtain ⟨r, hr, l, hl, hk⟩ := mem_writtenKeys.1 hk
      exact mem_writtenKeys.2 ⟨r, hr, l, by simp at hl; simp [hl], hk⟩)
    have h2 : k ∉ writtenKeys f regs (t.map Prod.fst) := fun hk => h (by
      obtain ⟨r, hr, l, hl, hk⟩ := mem_writtenKeys.1 hk
      exact mem_writtenKeys.2 ⟨r, hr, l, by simp only [List.map_cons, List.mem_cons]; exact .inr hl, hk⟩)
    show Table.getD (putLanes f regs t (putLane f regs p s)).firn _ _ = _
    rw [ih _ h2, getD_putLane _ _ _ _ _ h1]

/-! ## Reads after one lane's write -/

theorem rdReg_zipPut_other {f : Floe} {q : Reg} {l m : Nat} (hq : q.fits f) (hl : l < 32) (hm : m < 32) (qs : List (Reg × FirnWord)) :
    ∀ s : State, (∀ x ∈ qs, x.1.fits f) → (∀ x ∈ qs, ¬ (q = x.1 ∧ sameWord f x.1 l m)) →
    (qs.foldl (fun t x => t.wrReg f x.1 l x.2) s).rdReg f q m = s.rdReg f q m := by
  induction qs with
  | nil => intro s _ _; rfl
  | cons x t ih =>
    intro s hf h
    simp only [List.foldl_cons]
    rw [ih _ (fun y hy => hf y (List.mem_cons_of_mem _ hy)) (fun y hy => h y (List.mem_cons_of_mem _ hy)),
      State.rdReg_wrReg_other s _ (hf x (by simp)) hq hl hm (h x (by simp))]

theorem rdReg_zipPut_same {f : Floe} {l m : Nat} (hl : l < 32) (hm : m < 32) (regs : List Reg) : ∀ (ws : List FirnWord) (s : State),
    (∀ r ∈ regs, r.fits f) → regs.Nodup → ws.length = regs.length → ∀ k (hk : k < regs.length), sameWord f regs[k] l m →
    ((regs.zip ws).foldl (fun t x => t.wrReg f x.1 l x.2) s).rdReg f regs[k] m = ws.getD k FirnWord.empty := by
  induction regs with
  | nil => intro ws s _ _ _ k hk; simp at hk
  | cons r t ih =>
    intro ws s hf hnd hlen k hk hs
    cases ws with
    | nil => simp at hlen
    | cons w u =>
      rw [List.nodup_cons] at hnd
      simp only [List.zip_cons_cons, List.foldl_cons]
      cases k with
      | zero =>
        simp only [List.getElem_cons_zero, List.getD_cons_zero] at *
        rw [rdReg_zipPut_other (hf r (by simp)) hl hm _ _ (fun x hx => hf _ (List.mem_cons_of_mem _ (List.of_mem_zip hx).1))
          (fun x hx hh => hnd.1 (hh.1 ▸ (List.of_mem_zip hx).1)), State.rdReg_wrReg_same s _ (hf r (by simp)) hl hm hs]
      | succ j =>
        simp only [List.getElem_cons_succ, List.getD_cons_succ] at *
        exact ih u _ (fun x hx => hf x (List.mem_cons_of_mem _ hx)) hnd.2 (by simpa using hlen) j (by simpa using hk) hs

/-- The lanes a FULL or uniform write of lane `l` reaches. -/
theorem putLane_other {f : Floe} {regs : List Reg} {p : Nat × Option (List FirnWord)} {q : Reg} {m : Nat} (hq : q.fits f) (hm : m < 32)
    (hrs : ∀ r ∈ regs, r.fits f) (hl : p.1 < 32) (s : State) (h : ¬ (q ∈ regs ∧ sameWord f q p.1 m)) :
    (putLane f regs p s).rdReg f q m = s.rdReg f q m := by
  unfold putLane
  split
  · apply rdReg_zipPut_other hq hl hm _ _ (fun x hx => hrs _ (List.of_mem_zip hx).1)
    intro x hx hh
    exact h ⟨hh.1 ▸ (List.of_mem_zip hx).1, by rw [hh.1]; exact hh.2⟩
  · exact State.rdReg_wrGroup_other hq hl hm regs hrs h s 0

/-- What a lane's write leaves where it reaches. -/
def laneWord (o : Option (List FirnWord)) (old : FirnWord) (k : Nat) : FirnWord :=
  match o with
  | some ws => ws.getD k FirnWord.empty
  | none => { old with v := false }

theorem putLane_same {f : Floe} {regs : List Reg} {p : Nat × Option (List FirnWord)} {m : Nat} (hm : m < 32) (hrs : ∀ r ∈ regs, r.fits f)
    (hnd : regs.Nodup) (hl : p.1 < 32) (hlen : ∀ ws, p.2 = some ws → ws.length = regs.length) (s : State) (k : Nat) (hk : k < regs.length)
    (h : sameWord f regs[k] p.1 m) : (putLane f regs p s).rdReg f regs[k] m = laneWord p.2 (s.rdReg f regs[k] p.1) k := by
  obtain ⟨l, o⟩ := p
  cases o with
  | some ws => exact rdReg_zipPut_same hl hm regs ws s hrs hnd (hlen ws rfl) k hk h
  | none =>
    simp only [putLane, laneWord]
    rw [State.rdReg_wrGroup_same hl hm regs hrs hnd s 0 k hk h]
    simp [groupWord]

/-! ## All lanes -/

theorem putLanes_cons (f : Floe) (regs : List Reg) (p : Nat × Option (List FirnWord)) (rs : List (Nat × Option (List FirnWord))) (s : State) :
    putLanes f regs (p :: rs) s = putLanes f regs rs (putLane f regs p s) := rfl

theorem putLanes_other {f : Floe} {regs : List Reg} {q : Reg} {m : Nat} (hq : q.fits f) (hm : m < 32) (hrs : ∀ r ∈ regs, r.fits f)
    (rs : List (Nat × Option (List FirnWord))) : ∀ s : State, (∀ p ∈ rs, p.1 < 32) → (∀ p ∈ rs, ¬ (q ∈ regs ∧ sameWord f q p.1 m)) →
    (putLanes f regs rs s).rdReg f q m = s.rdReg f q m := by
  induction rs with
  | nil => intro s _ _; rfl
  | cons p t ih =>
    intro s hl h
    rw [putLanes_cons, ih _ (fun x hx => hl x (List.mem_cons_of_mem _ hx)) (fun x hx => h x (List.mem_cons_of_mem _ hx)),
      putLane_other hq hm hrs (hl p (by simp)) s (h p (by simp))]

/-- The conditions under which D is written: registers of the allocation, each once; lanes ascending, one lane for a uniform register. -/
structure LaneList (f : Floe) (regs : List Reg) (rs : List (Nat × Option (List FirnWord))) : Prop where
  fits : ∀ r ∈ regs, r.fits f
  nodup : regs.Nodup
  sorted : rs.Pairwise (fun p q => p.1 < q.1)
  lt : ∀ p ∈ rs, p.1 < 32
  len : ∀ l ws, (l, some ws) ∈ rs → ws.length = regs.length
  uni : (∃ r ∈ regs, r.uni = true) → rs.length ≤ 1

theorem LaneList.tail {f : Floe} {regs : List Reg} {p : Nat × Option (List FirnWord)} {rs : List (Nat × Option (List FirnWord))}
    (h : LaneList f regs (p :: rs)) : LaneList f regs rs :=
  ⟨h.fits, h.nodup, (List.pairwise_cons.1 h.sorted).2, fun q hq => h.lt q (List.mem_cons_of_mem _ hq),
    fun l ws hw => h.len l ws (List.mem_cons_of_mem _ hw), fun hu => by have := h.uni hu; simp at this; simp [this]⟩

/-- After all lanes: what the last lane whose write reaches lane `m` left there. -/
theorem putLanes_at {f : Floe} {regs : List Reg} {m : Nat} (hm : m < 32) (k : Nat) (hk : k < regs.length) (rs : List (Nat × Option (List FirnWord))) :
    ∀ s : State, LaneList f regs rs → ∀ o, (m, o) ∈ rs →
      (putLanes f regs rs s).rdReg f regs[k] m = laneWord o
        (if f.dmr = .full ∧ 16 ≤ m ∧ regs[k].uni = false then (putLanes f regs (rs.takeWhile (fun p => decide (p.1 < m))) s).rdReg f regs[k] m
         else s.rdReg f regs[k] m) k := by
  induction rs with
  | nil => intro s _ o ho; simp at ho
  | cons p t ih =>
    intro s h o ho
    have hp : ∀ q ∈ t, p.1 < q.1 := (List.pairwise_cons.1 h.sorted).1
    rcases List.mem_cons.1 ho with rfl | ho'
    · rw [putLanes_cons, putLanes_other (h.fits _ (List.getElem_mem hk)) hm h.fits t _ (fun x hx => h.lt x (List.mem_cons_of_mem _ hx))]
      · rw [putLane_same hm h.fits h.nodup (h.lt _ (by simp)) (fun ws hw => h.len m ws (by simp [← hw])) s k hk (.inr (.inl rfl))]
        simp [putLanes]
      · rintro q hq ⟨_, hs⟩
        have := hp q hq
        rcases hs with hs | hs | hs
        · have := h.uni ⟨_, List.getElem_mem hk, hs⟩
          simp at this; subst this; simp at hq
        · simp at this; omega
        · simp at this; omega
    · have hlt := hp _ ho'
      simp at hlt
      have hun : regs[k].uni = false := by
        cases hu : regs[k].uni with
        | false => rfl
        | true =>
          have := h.uni ⟨_, List.getElem_mem hk, hu⟩
          simp at this; subst this; simp at ho'
      rw [putLanes_cons, ih _ h.tail o ho']
      have htw : (p :: t).takeWhile (fun q => decide (q.1 < m)) = p :: t.takeWhile (fun q => decide (q.1 < m)) := by
        simp [hlt]
      rw [htw, putLanes_cons]
      by_cases hc : f.dmr = .full ∧ 16 ≤ m ∧ regs[k].uni = false
      · rw [if_pos hc, if_pos hc]
      · rw [if_neg hc, if_neg hc, putLane_other (h.fits _ (List.getElem_mem hk)) hm h.fits (h.lt _ (by simp)) s]
        rintro ⟨_, hs⟩
        rcases hs with hs | hs | hs
        · simp [hun] at hs
        · omega
        · exact hc ⟨hs.1, by omega, hun⟩

/-- The mirrored lane of FULL holds what its lane was given. -/
theorem putLanes_mirror {f : Floe} {regs : List Reg} (hfull : f.dmr = .full) (k : Nat) (hk : k < regs.length) (hun : regs[k].uni = false)
    (rs : List (Nat × Option (List FirnWord))) : ∀ s : State, LaneList f regs rs → ∀ p ∈ rs, p.1 < 16 → (∀ q ∈ rs, q.1 ≠ p.1 + 16) →
      (putLanes f regs rs s).rdReg f regs[k] (p.1 + 16) = (putLanes f regs rs s).rdReg f regs[k] p.1 := by
  induction rs with
  | nil => intro s _ p hp; simp at hp
  | cons x t ih =>
    intro s h p hp hl hne
    have hx : ∀ q ∈ t, x.1 < q.1 := (List.pairwise_cons.1 h.sorted).1
    have hf := h.fits _ (List.getElem_mem hk)
    rw [putLanes_cons]
    rcases List.mem_cons.1 hp with rfl | hp'
    · have h1 : ∀ q ∈ t, ¬ (regs[k] ∈ regs ∧ sameWord f regs[k] q.1 (p.1 + 16)) := by
        rintro q hq ⟨_, hs⟩
        have := hx q hq
        have := hne q (List.mem_cons_of_mem _ hq)
        rcases hs with hs | hs | hs
        · simp [hun] at hs
        · omega
        · omega
      have h2 : ∀ q ∈ t, ¬ (regs[k] ∈ regs ∧ sameWord f regs[k] q.1 p.1) := by
        rintro q hq ⟨_, hs⟩
        have := hx q hq
        rcases hs with hs | hs | hs
        · simp [hun] at hs
        · omega
        · omega
      have hlt : ∀ q ∈ t, q.1 < 32 := fun q hq => h.lt q (List.mem_cons_of_mem _ hq)
      rw [putLanes_other hf (by omega) h.fits t _ hlt h1, putLanes_other hf (by omega) h.fits t _ hlt h2,
        putLane_same (by omega) h.fits h.nodup (by omega) (fun ws hw => h.len p.1 ws (by simp [← hw])) s k hk (.inr (.inr ⟨hfull, hl, rfl⟩)),
        putLane_same (by omega) h.fits h.nodup (by omega) (fun ws hw => h.len p.1 ws (by simp [← hw])) s k hk (.inr (.inl rfl))]
    · exact ih _ h.tail p hp' hl (fun q hq => hne q (List.mem_cons_of_mem _ hq))

/-- Writing D lane by lane writes it, and nothing else (R114, R152). -/
theorem putLanes_wrote {f : Floe} {regs : List Reg} {rs : List (Nat × Option (List FirnWord))} (s : State) (h : LaneList f regs rs) :
    Wrote f regs rs s (putLanes f regs rs s) where
  value := fun l ws hw k hk => by rw [putLanes_at (h.lt _ hw) k hk rs s h _ hw]; rfl
  invalid := fun l hw r hr => by
    obtain ⟨k, hk, rfl⟩ := List.getElem_of_mem hr
    rw [putLanes_at (h.lt _ hw) k hk rs s h _ hw]; rfl
  kept := fun l hw hfull r hr => by
    obtain ⟨k, hk, rfl⟩ := List.getElem_of_mem hr
    rw [putLanes_at (h.lt _ hw) k hk rs s h _ hw]
    have : ¬ (f.dmr = .full ∧ 16 ≤ l ∧ regs[k].uni = false) := fun hc => by have := hfull hc.1; omega
    rw [if_neg this]; rfl
  mirror := fun hfull p hp hl hne r hr hun => by
    obtain ⟨k, hk, rfl⟩ := List.getElem_of_mem hr
    exact putLanes_mirror hfull k hk hun rs s h p hp hl hne
  frame := fun k hk => getD_putLanes f regs rs k s hk

/-- A value's words in one lane are the group write of R114. -/
theorem zipPut_wrGroup (f : Floe) (l : Nat) (regs : List Reg) : ∀ (s : State) (v j : Nat),
    (regs.zip ((List.range regs.length).map (fun i => (⟨BitVec.ofNat 32 (v / 2 ^ (32 * (i + j))), true⟩ : FirnWord)))).foldl
      (fun t q => t.wrReg f q.1 l q.2) s = s.wrGroup f l true regs (v / 2 ^ (32 * j)) := by
  induction regs with
  | nil => intro s v j; rfl
  | cons r t ih =>
    intro s v j
    simp only [List.length_cons, List.range_succ_eq_map, List.map_cons, List.map_map, List.zip_cons_cons, List.foldl_cons, State.wrGroup,
      Nat.zero_add, if_true]
    have := ih (s.wrReg f r l ⟨BitVec.ofNat 32 (v / 2 ^ (32 * j)), true⟩) v (j + 1)
    rw [Nat.div_div_eq_div_mul, ← Nat.pow_add]
    rw [show 32 * j + 32 = 32 * (j + 1) by omega, ← this]
    have e : ((fun i => (⟨BitVec.ofNat 32 (v / 2 ^ (32 * (i + j))), true⟩ : FirnWord)) ∘ Nat.succ)
        = fun i => ⟨BitVec.ofNat 32 (v / 2 ^ (32 * (i + (j + 1)))), true⟩ := by
      funext i
      simp only [Function.comp, Nat.succ_eq_add_one]
      rw [show i + 1 + j = i + (j + 1) by omega]
    rw [e]

/-- The common frame's writes of R114 are lane writes of the values' words. -/
theorem writeLanes_putLanes (f : Floe) (regs : List Reg) (rs : List (Nat × Option Nat)) : ∀ s : State,
    writeLanes f regs rs s = putLanes f regs (rs.map (fun p => (p.1, p.2.map (wordsOf regs.length)))) s := by
  induction rs with
  | nil => intro s; rfl
  | cons p t ih =>
    intro s
    obtain ⟨l, o⟩ := p
    cases o with
    | none =>
      rw [writeLanes, ih, List.map_cons, putLanes_cons]
      congr 1
    | some v =>
      have := zipPut_wrGroup f l regs s v 0
      simp only [Nat.mul_zero, pow_zero, Nat.div_one, Nat.add_zero] at this
      rw [writeLanes, ih, List.map_cons, putLanes_cons, ← this]
      congr 1

/-! ## The destination of a word -/

/-- A field writes consecutive registers from the one its code names, or none. -/
def Field.dstOf (fd : Field) (c : Code) : Prop := ∃ k, fd.writes = codeRegs c k

theorem dstOf_none {fd : Field} {c : Code} (h : fd.writes = []) : fd.dstOf c := ⟨0, by rw [h]; unfold codeRegs; split <;> [rfl; split <;> rfl]⟩
theorem dstOf_fieldDst (a : Allow) (b : Bool) (c : Code) : (fieldDst a b c).dstOf c := by
  unfold fieldDst; split <;> exact ⟨_, rfl⟩
theorem dstOf_fieldDstG (a : Allow) (k al : Nat) (c : Code) : (fieldDstG a k al c).dstOf c := ⟨_, rfl⟩
theorem dstOf_fieldRw (a : Allow) (k al wr : Nat) (c : Code) : (fieldRw a k al wr c).dstOf c := ⟨_, rfl⟩

theorem codeRegs_nodup (c : Code) (k : Nat) : (codeRegs c k).Nodup := by
  unfold codeRegs
  split
  · exact List.Nodup.map (fun i j h => by simpa using h) List.nodup_range
  · split
    · exact List.Nodup.map (fun i j h => by simpa using h) List.nodup_range
    · exact List.nodup_nil

theorem codeRegs_uni {c : Code} {k : Nat} {r : Reg} (h : r ∈ codeRegs c k) : r.uni = Code.isUni c := by
  unfold codeRegs at h
  split at h
  · rename_i hv
    simp [Code.isVec] at hv
    obtain ⟨i, _, rfl⟩ := List.mem_map.1 h
    simp [Code.isUni]; omega
  · split at h
    · rename_i hu
      obtain ⟨i, _, rfl⟩ := List.mem_map.1 h
      simp [hu]
    · simp at h

/-- Every F word writes consecutive registers from the one D names, or none (R34, R36). -/
theorem shapeOf_dst {i : Instr} {w : FWord} {sh : Shape} (h : shapeOf i = some (w, sh)) : sh.d.dstOf w.d := by
  cases i <;> simp only [shapeOf, Option.some.injEq, Prod.mk.injEq, reduceCtorEq] at h <;> obtain ⟨rfl, rfl⟩ := h <;>
    first
      | exact dstOf_fieldDst _ _ _
      | exact dstOf_fieldDstG _ _ _ _
      | exact dstOf_fieldRw _ _ _ _ _
      | exact dstOf_none rfl
      | (try simp only [shapePack, shapeUnpk, shapeCmp, shapeAtom, shapeTlbinv, shapeEnq, shapeMul, fieldDstOpt, fieldDstPairOpt, shapeEv,
          shapeVoxel]
         repeat' split
         all_goals first
           | exact dstOf_fieldDst _ _ _
           | exact dstOf_fieldDstG _ _ _ _
           | exact dstOf_fieldRw _ _ _ _ _
           | exact dstOf_none rfl)

theorem Issues.fits {i : Instr} {w : FWord} {sh : Shape} {e : Env} {s : State} (h : Issues i w sh e s) :
    ∀ r ∈ namedRegs sh w, r.fits e.f := by
  have hd := h.clean
  unfold decodeTrap at hd
  split at hd
  · cases hd
  · split at hd
    · cases hd
    · split at hd
      · cases hd
      · split at hd
        · cases hd
        · rename_i hr
          exact regsOk_fits (by simpa using hr)

/-- The destination registers of a word that issues, with its lanes, are written as R114 says. -/
theorem Issues.laneList {i : Instr} {w : FWord} {sh : Shape} {e : Env} {s : State} (h : Issues i w sh e s)
    (rs : List (Nat × Option (List FirnWord))) (hs : rs.Pairwise (fun p q => p.1 < q.1)) (hlt : ∀ p ∈ rs, p.1 < 32)
    (hlen : ∀ l ws, (l, some ws) ∈ rs → ws.length = sh.d.writes.length) (hu : Code.isUni w.d = true → rs.length ≤ 1) :
    LaneList e.f sh.d.writes rs where
  fits := fun r hr => h.fits r (by simp [namedRegs, hr])
  nodup := by obtain ⟨k, hk⟩ := shapeOf_dst h.shape; rw [hk]; exact codeRegs_nodup _ _
  sorted := hs
  lt := hlt
  len := hlen
  uni := by
    rintro ⟨r, hr, hru⟩
    obtain ⟨k, hk⟩ := shapeOf_dst h.shape
    rw [hk] at hr
    exact hu (by rw [← codeRegs_uni hr, hru])

theorem computeLanes_uni {w : FWord} {e : Env} (h : Code.isUni w.d = true) : (computeLanes w e).length ≤ 1 := by
  simp [computeLanes, h]

/-- Lane results of the computing lanes are such a list. -/
theorem Issues.laneWords {i : Instr} {w : FWord} {sh : Shape} {e : Env} {s : State} (h : Issues i w sh e s) (g : Nat → Option (Nat × Fx)) :
    LaneList e.f sh.d.writes (Sys2Proof.Machine.laneWords sh.d.writes.length ((computeLanes w e).map (fun l => (l, g l)))) := by
  apply h.laneList
  · simp only [Sys2Proof.Machine.laneWords, List.map_map]
    rw [List.pairwise_map]
    exact (computeLanes_sorted w e).imp (fun hab => hab)
  · intro p hp
    simp only [Sys2Proof.Machine.laneWords, List.map_map, List.mem_map] at hp
    obtain ⟨l, hl, rfl⟩ := hp
    exact computeLanes_lt hl
  · intro l ws hw
    simp only [Sys2Proof.Machine.laneWords, List.map_map, List.mem_map] at hw
    obtain ⟨x, _, hx⟩ := hw
    simp only [Function.comp, Prod.mk.injEq] at hx
    obtain ⟨_, hx⟩ := hx
    cases hg : g x with
    | none => simp [hg] at hx
    | some v => simp [hg] at hx; subst hx; simp [wordsOf]
  · intro hu
    simpa [Sys2Proof.Machine.laneWords] using computeLanes_uni hu

/-! ## What writing registers leaves of the rest -/

theorem putLane_rest (f : Floe) (regs : List Reg) (p : Nat × Option (List FirnWord)) (s : State) :
    putLane f regs p s = { s with firn := (putLane f regs p s).firn } := by
  unfold putLane
  split
  · rename_i ws _
    generalize regs.zip ws = qs
    induction qs generalizing s with
    | nil => rfl
    | cons q t ih =>
      simp only [List.foldl_cons]
      rw [ih]
      simp only [State.wrReg, State.setFirn]
      split <;> rfl
  · generalize (0 : Nat) = v
    induction regs generalizing s v with
    | nil => rfl
    | cons r t ih =>
      simp only [State.wrGroup]
      rw [ih]
      simp only [State.wrReg, State.setFirn]
      split <;> rfl

theorem putLanes_rest (f : Floe) (regs : List Reg) (rs : List (Nat × Option (List FirnWord))) (s : State) :
    putLanes f regs rs s = { s with firn := (putLanes f regs rs s).firn } := by
  induction rs generalizing s with
  | nil => rfl
  | cons p t ih => rw [putLanes_cons, ih, putLane_rest]

theorem Wrote.of_firn {f : Floe} {regs : List Reg} {rs : List (Nat × Option (List FirnWord))} {s s' t t' : State} (h : Wrote f regs rs s t)
    (hs : s'.firn = s.firn) (ht : t'.firn = t.firn) : Wrote f regs rs s' t' where
  value := fun l ws hw k hk => by rw [State.rdReg_of_firn ht]; exact h.value l ws hw k hk
  invalid := fun l hw r hr => by rw [State.rdReg_of_firn ht]; exact h.invalid l hw r hr
  kept := fun l hw hf r hr => by rw [State.rdReg_of_firn ht, State.rdReg_of_firn hs]; exact h.kept l hw hf r hr
  mirror := fun hf p hp hl hne r hr hu => by rw [State.rdReg_of_firn ht, State.rdReg_of_firn ht]; exact h.mirror hf p hp hl hne r hr hu
  frame := fun k hk => by rw [ht, hs]; exact h.frame k hk

/-- An instruction that ORs flags, writes D lane by lane and retires has the effect of R114 and no other. -/
theorem laneEffect_of {i : Instr} {w : FWord} {sh : Shape} {e : Env} {s : State} (h : Issues i w sh e s) (x : Fx)
    (rs : List (Nat × Option (List FirnWord))) (hl : LaneList e.f sh.d.writes rs) :
    LaneEffect w sh e x rs s (State.retire e (latchesOf s e.f w sh) (hintYields w sh) (.done (putLanes e.f sh.d.writes rs (s.orFlags e.h x)))) := by
  have hf := State.env?_floe h.env
  have hr := putLanes_rest e.f sh.d.writes rs (s.orFlags e.h x)
  have hfl : (s.orFlags e.h x).floe? e.h = some { e.f with fpflags := e.f.fpflags ||| x.bits } := by
    simp [State.orFlags, hf]
  constructor
  · exact (putLanes_wrote _ hl).of_firn (by simp) (retire_done_firn _ _ _ _)
  · rw [hr, retire_done_floe (f := { e.f with fpflags := e.f.fpflags ||| x.bits }) (by simpa [State.floe?] using hfl)]
    have hg : (s.orFlags e.h x).gt = s.gt := by simp
    rw [State.mck_of (s := s) (by simp) (by simp) (by simp) (by simp)]
    simp only [hg]; rfl
  · intro k hk
    rw [hr, retire_done_other hk]
    have := State.floe?_modFloe_ne s (g := fun f => { f with fpflags := f.fpflags ||| x.bits }) hk
    simpa [State.floe?, State.orFlags] using this
  · intro a
    rw [retire_done_ms, hr]
    simp
  · unfold OnlyFirnFloes
    rw [retire_done, hr]
    simp only [State.modFloe, State.orFlags, State.setFloe]
    split <;> (split <;> rfl)

end Sys2Proof.Machine
end

