-- ==== Sys2Proof/Tests/Slice0.lean ====
section
/-! SUPPORT. Tests of the model and witnesses of the statements' hypotheses. Expected values are read from the tables and the rules of the spec, or
worked by hand from them; words are written out from the encoding tables (R32-R43). A witness shows a state and operands that meet the hypotheses of a
statement; what it leaves to be named (the shape, the environment, the state after) is what `chk`, `path` and `hosted` compute. -/

set_option Elab.async false

namespace Sys2Proof.Tests

open Sys2Proof Sys2Proof.Machine

/-! ## A small machine -/

/-- A context of one partition with a trap handler. -/
def ctx : Ctx := { Ctx.fresh with state := .running, parts := [0], trapBase := 0x1000, keyKid := 1 }

/-- Vector registers 4 to 9 in lanes 0 to 7 and uniform registers 0 to 15, all valid: v4:v5 and u0:u1 hold addresses of the mapped page. -/
def regWords : Table FirnWord :=
  let vec (r : Nat) (v : Nat → Nat) : List (Nat × FirnWord) := (List.range 8).map (fun l => (32 * r + l, ⟨BitVec.ofNat 32 (v l), true⟩))
  vec 4 (fun l => 0x2000 + 8 * l) ++ vec 5 (fun _ => 0) ++ vec 6 (fun l => l + 1) ++ vec 7 (fun _ => 0xFFFFFFFF)
    ++ vec 8 (fun _ => 0x3F800000) ++ vec 9 (fun _ => 0x7FC12345)
    ++ ([0x2000, 0, 0x3000, 0, 4, 0x18, 1, 0, 0x2004, 0, 0xFFFFFFFF, 0, 2, 0, 5, 0] : List Nat).zipIdx.map (fun p => (6144 + p.2, ⟨BitVec.ofNat 32 p.1, true⟩))

/-- One READY floe of 192 vector and 48 uniform registers on core 0, lanes 0 to 7 active, at 0x100. -/
def base : State :=
  State.modFloe { State.reset.placeWord 0 with ctxs := [(0, ctx)], firn := regWords } 0 (fun f => { f with s0 := some ⟨0x100, 0xFF, none, none⟩ })

/-- A machine with floe 0 changed. -/
def withFloe (g : Floe → Floe) : State := base.modFloe 0 g

/-- The same floe in its privileged level. -/
def priv : State := withFloe (fun f => { f with levelPriv := true })

/-- An F word of unguarded fields. -/
def wd (d a b c : Nat) (m s y : Nat := 0) (x : Option XWord := none) : FWord :=
  ⟨BitVec.ofNat 8 d, BitVec.ofNat 8 a, BitVec.ofNat 8 b, BitVec.ofNat 8 c, 0xFF, BitVec.ofNat 4 m, 0, BitVec.ofNat 3 s, x, BitVec.ofNat 2 y⟩

/-- What the issue of a word finds. -/
def shp (i : Instr) : Shape := ((shapeOf i).map Prod.snd).getD (shapeTlbinv (wd 0 0 0 0))
def env (w : FWord) (s : State) : Env := (s.env? w.g (wordLen w)).getD ⟨0, false, Floe.formed, ⟨0, 0, none, none⟩, 8, 0⟩
def okB (i : Instr) (w : FWord) (s : State) : Bool :=
  decide (shapeOf i = some (w, shp i)) && (s.env? w.g (wordLen w)).isSome && (decodeTrap s (env w s) (privOf i) w (shp i)).isNone

theorem issues {i : Instr} {w : FWord} {s : State} (h : okB i w s = true) : Issues i w (shp i) (env w s) s := by
  simp only [okB, Bool.and_eq_true, decide_eq_true_eq] at h
  obtain ⟨⟨h1, h2⟩, h3⟩ := h
  refine ⟨h1, ?_, Option.isNone_iff_eq_none.1 h3⟩
  obtain ⟨e, he⟩ := Option.isSome_iff_exists.1 h2
  simp [env, he]

/-- A register word after an instruction of floe 0; none where the instruction gives no next state. -/
def after (i : Instr) (s : State) (r : Reg) (l : Nat) : Option (Nat × Bool) :=
  match exec i s, s.floe? 0 with
  | .next t, some f => some ((t.rdReg f r l).data.toNat, (t.rdReg f r l).v)
  | _, _ => none

/-- Floe 0 after an instruction. -/
def floeAfter (i : Instr) (s : State) : Option Floe :=
  match exec i s with
  | .next t => t.floe? 0
  | _ => none

/-- The machine with vector register `r` holding `v` and its validity in lane `l`. -/
def setV (s : State) (r l v : Nat) (ok : Bool) : State := s.setFirn 0 (32 * r + l) ⟨BitVec.ofNat 32 v, ok⟩

def v8 : Reg := ⟨false, 8⟩

/-- An F word with every field apart (R32): the marker 0, OP, D, A, B, C, G, M, U, S, X and Y. -/
def fword (op : BitVec 10) : Dword :=
  0#1 ++ op ++ 0x05#8 ++ 0x04#8 ++ 0x06#8 ++ 0xC3#8 ++ 0xFE#8 ++ 0b0110#4 ++ 0b101#3 ++ 0b011#3 ++ 0#1 ++ 0b10#2

/-- A word with some fields changed from a well-formed IADD v8, v6, v7. -/
def good : FWord := wd 8 6 7 0xFF

/-- The word issues (see `issues`), and a condition on what its issue finds. -/
def chk (f : FWord → Instr) (w : FWord) (s : State) (p : Shape → Env → Bool := fun _ _ => true) : Bool := okB (f w) w s && p (shp (f w)) (env w s)

theorem chk_issues {f : FWord → Instr} {w : FWord} {s : State} {p : Shape → Env → Bool} (h : chk f w s p = true) :
    Issues (f w) w (shp (f w)) (env w s) s ∧ p (shp (f w)) (env w s) = true := by
  simp only [chk, Bool.and_eq_true] at h
  exact ⟨issues h.1, h.2⟩

/-- A handler can be entered: the context exists, TRAPBASE is not zero, and the floe is in no handler. -/
def handled (s : State) (e : Env) : Bool := (match s.ctx? e.f.ctx with | some x => x.trapBase != 0 | none => false) && !e.f.levelHandler

/-- The state after a step of an instruction. -/
def run (i : Instr) (s : State) : State := match exec i s with | .next t => t | _ => s

/-- Registers `r` and `r + 1` hold an address in each active lane. -/
def setPair (s : State) (r : Nat) (v : Nat → Nat) : State := (List.range 8).foldl (fun t l => setV (setV t r l (v l) true) (r + 1) l 0 true) s

/-- Register 6 valid in lanes 0 to 3 only, to guard with. -/
def guarded : State := (List.range 4).foldl (fun t l => setV t 6 (4 + l) 0 false) base

/-- A word under the guard v6, or under u40, which is invalid. -/
def g6 (w : FWord) : FWord := { w with g := 0x06 }
def g40 (w : FWord) : FWord := { w with g := 0xE8 }

def f0 (s : State) : Floe := (s.floe? 0).getD Floe.formed
def op1 (s : State) : Op := (Table.find? s.ops 1).getD (newOp s (env (wd 0 0 0 0) s) (wd 0 0 0 0) .load)


/-! ## Decoding: words written out from the tables of R32, R44, R52 and R66-R78 -/


/-- The fields of that word. -/
def ffields : FWord := ⟨0x05, 0x04, 0x06, 0xC3, 0xFE, 6, 5, 3, none, 2⟩

theorem test_decode_class0 : ∀ p ∈ ([(0x000#10, Instr.mov), (0x001#10, Instr.movi), (0x002#10, Instr.iadd), (0x003#10, Instr.isub), (0x004#10,
    Instr.imul), (0x005#10, Instr.imulh), (0x006#10, Instr.imad), (0x007#10, Instr.imadw), (0x008#10, Instr.imin), (0x009#10, Instr.imax),
    (0x00A#10, Instr.iabs), (0x00B#10, Instr.ltab), (0x00C#10, Instr.and), (0x00D#10, Instr.or), (0x00E#10, Instr.xor), (0x00F#10, Instr.shl),
    (0x010#10, Instr.shr), (0x011#10, Instr.sar), (0x012#10, Instr.shf), (0x013#10, Instr.bfe), (0x014#10, Instr.bfi), (0x015#10, Instr.popc),
    (0x016#10, Instr.clz), (0x017#10, Instr.brev), (0x018#10, Instr.lea)] : List (BitVec 10 × (FWord → Instr))),
        decode (fword p.1) 0 = p.2 ffields := by decide +kernel

theorem test_decode_class1 : ∀ p ∈ ([(0x040#10, Instr.fadd), (0x041#10, Instr.fsub), (0x042#10, Instr.fmul), (0x043#10, Instr.ffma), (0x044#10,
    Instr.fmin), (0x045#10, Instr.fmax), (0x046#10, Instr.fmov), (0x047#10, Instr.frcp), (0x048#10, Instr.frsq), (0x049#10, Instr.fsqrt),
    (0x04A#10, Instr.fex2), (0x04B#10, Instr.flg2), (0x04C#10, Instr.fsin), (0x04D#10, Instr.fcos), (0x04E#10, Instr.hadd2), (0x04F#10,
    Instr.hmul2), (0x050#10, Instr.hfma2)] : List (BitVec 10 × (FWord → Instr))),
        decode (fword p.1) 0 = p.2 ffields := by decide +kernel

theorem test_decode_class2 : ∀ p ∈ ([(0x080#10, Instr.dadd), (0x081#10, Instr.dmul), (0x082#10, Instr.dfma), (0x083#10, Instr.dmin), (0x084#10,
    Instr.dmax), (0x085#10, Instr.drcp), (0x086#10, Instr.drsq), (0x087#10, Instr.dmov)] : List (BitVec 10 × (FWord → Instr))),
        decode (fword p.1) 0 = p.2 ffields := by decide +kernel

theorem test_decode_class3 : ∀ p ∈ ([(0x0C0#10, Instr.cvt), (0x0C1#10, Instr.cvti), (0x0C2#10, Instr.pack), (0x0C3#10, Instr.unpk), (0x0C4#10,
    Instr.qscan)] : List (BitVec 10 × (FWord → Instr))),
        decode (fword p.1) 0 = p.2 ffields := by decide +kernel

theorem test_decode_class4 : ∀ p ∈ ([(0x100#10, Instr.icmp), (0x101#10, Instr.fcmp), (0x102#10, Instr.dcmp), (0x103#10, Instr.vset), (0x104#10,
    Instr.vclr), (0x105#10, Instr.vtest), (0x106#10, Instr.vand), (0x107#10, Instr.sel), (0x108#10, Instr.ballot), (0x109#10, Instr.vote),
    (0x10A#10, Instr.shfl), (0x10B#10, Instr.redux), (0x10C#10, Instr.scan)] : List (BitVec 10 × (FWord → Instr))),
        decode (fword p.1) 0 = p.2 ffields := by decide +kernel

theorem test_decode_class5 : ∀ p ∈ ([(0x140#10, Instr.nop), (0x141#10, Instr.br), (0x142#10, Instr.brx), (0x143#10, Instr.jmp), (0x144#10,
    Instr.call), (0x145#10, Instr.ret), (0x146#10, Instr.exit), (0x147#10, Instr.elect), (0x148#10, Instr.yield), (0x149#10, Instr.trap),
    (0x14A#10, Instr.brk), (0x14B#10, Instr.sleep)] : List (BitVec 10 × (FWord → Instr))),
        decode (fword p.1) 0 = p.2 ffields := by decide +kernel

theorem test_decode_class6 : ∀ p ∈ ([(0x180#10, Instr.ld), (0x181#10, Instr.st), (0x182#10, Instr.lda), (0x183#10, Instr.ldx), (0x184#10,
    Instr.stx), (0x185#10, Instr.stc), (0x186#10, Instr.lde), (0x187#10, Instr.ldr), (0x188#10, Instr.str), (0x189#10, Instr.pref)] : List (BitVec
    10 × (FWord → Instr))),
        decode (fword p.1) 0 = p.2 ffields := by decide +kernel

theorem test_decode_class7 : ∀ p ∈ ([(0x1C0#10, Instr.cpy), (0x1C1#10, Instr.cpyd), (0x1C2#10, Instr.cpcommit), (0x1C3#10, Instr.wait), (0x1C4#10,
    Instr.acreset), (0x1C5#10, Instr.dfence)] : List (BitVec 10 × (FWord → Instr))),
        decode (fword p.1) 0 = p.2 ffields := by decide +kernel

theorem test_decode_class8 : ∀ p ∈ ([(0x200#10, Instr.atom), (0x201#10, Instr.red), (0x202#10, Instr.cas), (0x203#10, Instr.atomf), (0x204#10,
    Instr.lock), (0x205#10, Instr.unlock)] : List (BitVec 10 × (FWord → Instr))),
        decode (fword p.1) 0 = p.2 ffields := by decide +kernel

theorem test_decode_class9 : ∀ p ∈ ([(0x240#10, Instr.fence), (0x241#10, Instr.flushtag), (0x242#10, Instr.leasedrop)] : List (BitVec 10 × (FWord
    → Instr))),
        decode (fword p.1) 0 = p.2 ffields := by decide +kernel

theorem test_decode_class10 : ∀ p ∈ ([(0x280#10, Instr.mctx), (0x281#10, Instr.mrel), (0x282#10, Instr.mma), (0x283#10, Instr.mmap), (0x284#10,
    Instr.mmag), (0x285#10, Instr.mmax), (0x286#10, Instr.mld), (0x287#10, Instr.mst), (0x288#10, Instr.mzero), (0x289#10, Instr.tpset),
    (0x28A#10, Instr.tpscan), (0x28B#10, Instr.msync)] : List (BitVec 10 × (FWord → Instr))),
        decode (fword p.1) 0 = p.2 ffields := by decide +kernel

theorem test_decode_class11 : ∀ p ∈ ([(0x2C0#10, Instr.twbind), (0x2C1#10, Instr.twlk), (0x2C2#10, Instr.twld), (0x2C3#10, Instr.twst), (0x2C4#10,
    Instr.twsten), (0x2C5#10, Instr.twray), (0x2C6#10, Instr.twleaf), (0x2C7#10, Instr.twinv), (0x2C8#10, Instr.tains), (0x2C9#10, Instr.tadel),
    (0x2CA#10, Instr.tamask), (0x2CB#10, Instr.tacommit)] : List (BitVec 10 × (FWord → Instr))),
        decode (fword p.1) 0 = p.2 ffields := by decide +kernel

theorem test_decode_class12 : ∀ p ∈ ([(0x300#10, Instr.enq), (0x301#10, Instr.nodeout), (0x302#10, Instr.recv), (0x303#10, Instr.evsig),
    (0x304#10, Instr.evwait), (0x305#10, Instr.evclr), (0x306#10, Instr.launch)] : List (BitVec 10 × (FWord → Instr))),
        decode (fword p.1) 0 = p.2 ffields := by decide +kernel

theorem test_decode_class13 : ∀ p ∈ ([(0x340#10, Instr.bara), (0x341#10, Instr.barw), (0x342#10, Instr.bars), (0x343#10, Instr.bart), (0x344#10,
    Instr.packq)] : List (BitVec 10 × (FWord → Instr))),
        decode (fword p.1) 0 = p.2 ffields := by decide +kernel

theorem test_decode_class14 : ∀ p ∈ ([(0x380#10, Instr.rld), (0x381#10, Instr.rwr), (0x382#10, Instr.ratom), (0x383#10, Instr.halo), (0x384#10,
    Instr.coll), (0x385#10, Instr.msg)] : List (BitVec 10 × (FWord → Instr))),
        decode (fword p.1) 0 = p.2 ffields := by decide +kernel

theorem test_decode_class15 : ∀ p ∈ ([(0x3C0#10, Instr.rdsr), (0x3C1#10, Instr.wrsr), (0x3C2#10, Instr.svc), (0x3C3#10, Instr.trapret), (0x3C4#10,
    Instr.setrole), (0x3C5#10, Instr.setmode), (0x3C6#10, Instr.tlbinv), (0x3C7#10, Instr.ctxcmd), (0x3C8#10, Instr.ptload), (0x3C9#10,
    Instr.halt)] : List (BitVec 10 × (FWord → Instr))),
        decode (fword p.1) 0 = p.2 ffields := by decide +kernel

/-- An X word (R44): the marker 11, fourteen reserved bits, KIND, COORD and IMM. -/
theorem test_decode_extension : decode (0#1 ++ 0x002#10 ++ 0x05#8 ++ 0x09#8 ++ 0xFF#8 ++ 0xFF#8 ++ 0xFF#8 ++ 0#4 ++ 0#3 ++ 0#3 ++ 1#1 ++ 0#2)
    (0b11#2 ++ 0#14 ++ 0b01#2 ++ 0x0120#14 ++ 0x12345678#32) = .iadd ⟨5, 9, 0xFF, 0xFF, 0xFF, 0, 0, 0, some ⟨0, 1, 0x120, 0x12345678⟩, 0⟩ := by
  decide +kernel

/-- A P word (R52, R53): the marker 10, then for each half pOP, d, a and b. -/
theorem test_decode_pair : decode (0b10#2 ++ 0x01#7 ++ 0x04#8 ++ 0x05#8 ++ 0x06#8 ++ 0x13#7 ++ 0x08#8 ++ 0x09#8 ++ 0x1F#8) 0
    = .pairWord ⟨.iadd, 4, 5, 6⟩ ⟨.shl8, 8, 9, 0x1F⟩ := by decide +kernel

/-- The last pair operation is 0x13, and 0x14 is reserved (R52, R67). -/
theorem test_decode_reserved_pair : decode (0b10#2 ++ 0x14#7 ++ 0x04#8 ++ 0x05#8 ++ 0x06#8 ++ 0x13#7 ++ 0x08#8 ++ 0x09#8 ++ 0x1F#8) 0
    = .reservedOpcode (0b10#2 ++ 0x14#7 ++ 0x04#8 ++ 0x05#8 ++ 0x06#8 ++ 0x13#7 ++ 0x08#8 ++ 0x09#8 ++ 0x1F#8) := by decide +kernel

/-- The first reserved slot of every class (R66). -/
theorem test_decode_reserved : ∀ op ∈ ([0x019, 0x051, 0x088, 0x0C5, 0x10D, 0x14C, 0x18A, 0x1C6, 0x206, 0x243, 0x28C, 0x2CC, 0x307, 0x345, 0x386,
    0x3CA] : List (BitVec 10)), decode (fword op) 0 = .reservedOpcode (fword op) := by decide +kernel

/-! ## Ill-formed terms -/


theorem test_wf_good : (Instr.iadd good).wf = true := by decide +kernel

/-- A modifier, an auxiliary value or a hint that IADD does not define, a reserved bit of the X word, and reuse where the entry forbids it (R43, R44,
R49). -/
theorem test_wf_modifiers : ∀ i ∈ [Instr.iadd { good with m := 1 }, .and { good with s := 1 }, .iadd { good with y := 3 },
    .iadd { good with b := 0xFF, x := some ⟨1, 0, 0, 5⟩ }, .iadd { good with b := 0xFF, x := some ⟨0, 3, 0, 5⟩ },
    .iadd { good with b := 0xFF, x := some ⟨0, 0, 16, 5⟩ }, .nop { wd 0 0 0 0 with x := some ⟨0, 0, 0, 5⟩ }, .tlbinv { wd 0xFF 0xC0 0xFF 0xFF 0 2 with u := 4 }],
    i.wf = false := by decide +kernel

/-- Operand codes that a field does not take: a special register as D, an absent C, an odd pair, a vector source of a uniform D, a special or vector
guard where the entry takes none, and a load whose D holds its address (R33-R37, R171). -/
theorem test_wf_operands : ∀ i ∈ [Instr.iadd { good with d := 0xF0 }, .iadd { good with c := 4 }, .iadd { good with a := 5, s := 2 },
    .iadd { good with d := 0xC1 }, .iadd { good with g := 0xF0 }, .tlbinv { wd 0xFF 0xC0 0xFF 0xFF 0 2 with g := 4 }, .ld (wd 4 4 0xFF 0),
    .movi (wd 4 0xFF 0xFF 0xFF), .sel { good with g := 0xFF }], i.wf = false := by decide +kernel

/-- A P word with imm8 bits outside 0 to 31, with two halves of one destination, and MOV with a second source (R53, R55). -/
theorem test_wf_pair : ∀ i ∈ [Instr.pairWord ⟨.shl8, 8, 9, 0x20⟩ ⟨.iadd, 4, 5, 6⟩, .pairWord ⟨.iadd, 4, 5, 6⟩ ⟨.fadd, 4, 7, 8⟩,
    .pairWord ⟨.mov, 4, 5, 6⟩ ⟨.iadd, 8, 9, 10⟩], i.wf = false := by decide +kernel

/-- A word kept as refused that the decoder would read, and one kept as an orphan that is no X word. -/
theorem test_wf_refused : (Instr.reservedOpcode (fword 0x002)).wf = false ∧ (Instr.reservedOpcode 0xFFFFFFFFFFFFFFFF).wf = false
    ∧ (Instr.orphanExtension 0x3FFFFFFFFFFFFFFF).wf = false := by decide +kernel

/-- A message with every field in range. -/
def msg : Msg :=
  { cls := 0, op := 0, rel := false, rsv := false, srcDev := 3, dstDev := 5, dstPart := 0, stream := 1, addr := 5, seq := 0, payload := [] }

/-- Steps that name no core, die, context, queue, line, link, partition, colour, group, register or function (R16-R23). -/
theorem test_wf_steps : ∀ i ∈ [Instr.copyStart 192 0, .copyComplete 192 0, .copyFault 192 0, .l1TagSweep 192, .readMsg 4 0 ⟨0, 1⟩ 0, .readMsg 0 0 ⟨0, 0⟩ 0,
    .readMsg 0 0 ⟨60, 5⟩ 0, .readMsg 0 0 ⟨0, 1⟩ 8, .writeMsg 0 (2 ^ 33), .atomicMsg 0 (2 ^ 33), .evictMsg 4 0, .ackMsg 4 0, .returnMsg 4 0,
    .sharerInvalidate 4 0, .sharerUpdate 4 0, .recall 4 0, .tileOperationPerform 0 2 0, .tileOperationPerform 0 0 4, .matrixContextGrant 192,
    .matrixContextDrained 0 2, .matrixContextDrained 192 0, .tileOperationPerform 192 0 0, .leafEnumeration 12 0, .haloDestinationSignal 0 (2 ^ 21), .walkerNodeRecord 12 0, .blenderRecord 0 4096,
    .launchEngineTake 4, .floePlacement 4, .floeRestore 0 192, .instanceDone 12 0, .eventSignal 12, .eventWait 12, .eventClear 12, .accept 12,
    .hostApertureRecord 0 0 [], .hostApertureRecord 13 0 [], .queueTimeout 12 0, .queueBatchLaunch 0 4096, .barrierArrival 0 16, .releaseDone 12 0,
    .releaseReachesFloe 0 16 0, .gtCorrection 192 0, .gtCorrection 0 3, .gtCorrection 0 (-3), .contextSaved 12, .scrubbed 12, .migrationFlushAck 12, .faultRecordPost 12]
    ++ [Instr.replay, .rekey, .save, .restore, .migrate, .kload, .kplace, .kbind, .kunbind, .kunload, .qenable, .qdisable, .kill, .unhalt, .create,
      .destroy, .setsr, .hlaunch].flatMap (fun k => [k (.queued 12), k (.host 13 0 false 0 0 0 0), k (.host 0 12 false 0 0 0 0)])
    ++ [Instr.pageWalk 192 0 0, .pageWalk 0 12 0, .sealFill 0 (2 ^ 29), .marginSample 49 [], .linkRetrain 49, .linkDisable 49, .linkEnable 49, .trainingDone 49 true,
      .retrainingDone 49 0 0 true, .linkFail 49, .marginWordRead 0 448, .reqMessage { msg with dstPart := 16 }, .rspMessage { msg with cls := 8 },
      .enqMessage { msg with srcDev := 2 ^ 19 }, .barMessage { msg with op := 32 }, .haloMessage { msg with addr := 2 ^ 52 },
      .mgmtMessage { msg with stream := 2 ^ 32 }, .collRoundComplete 0 256 0, .patrolScrub (.sector (2 ^ 41)) true, .patrolScrub (.l2 4 0) true,
      .patrolScrub (.firn 192 0) true, .initDone true ⟨[], [], 0, [], [], [], [], []⟩, .lockedRegisterWrite (2 ^ 25) 0, .barRegisterWrite 0 65 0,
      .barRegisterWrite (2 ^ 27) 1 0, .refreshWindow 0 0 0 true true [], .ainarDieIsolation 4], i.wf = false := by decide +kernel


/-! ## One step of an instruction: expected values from the pseudocode and examples of the rules named -/

/-- R118: modulo 2^32, and clamped under .sat. -/
theorem test_iadd_wraps : after (.iadd (wd 8 6 7 0xFF)) base v8 5 = some (5, true) := by decide +kernel
theorem test_iadd_saturates : after (.iadd (wd 8 6 7 0xFF 0 1)) base v8 5 = some (0xFFFFFFFF, true) := by decide +kernel
theorem test_isub_sat_clamps_at_zero : after (.isub (wd 8 6 7 0xFF 0 1)) base v8 5 = some (0, true) := by decide +kernel
theorem test_isub_order : after (.isub (wd 8 6 7 0xFF)) base v8 0 = some (2, true) := by decide +kernel
theorem test_imulh_signed : after (.imulh (wd 8 6 7 0xFF 0 4)) base v8 5 = some (0xFFFFFFFF, true) := by decide +kernel
theorem test_imulh_unsigned : after (.imulh (wd 8 6 7 0xFF)) base v8 5 = some (5, true) := by decide +kernel
theorem test_imad : after (.imad (wd 8 6 6 7)) base v8 2 = some (8, true) := by decide +kernel
theorem test_imin_signed : after (.imin (wd 8 6 7 0xFF 0 4)) base v8 2 = some (0xFFFFFFFF, true) := by decide +kernel
theorem test_imin_unsigned : after (.imin (wd 8 6 7 0xFF)) base v8 2 = some (3, true) := by decide +kernel
theorem test_iabs_most_negative : after (.iabs (wd 8 6 0xFF 0xFF)) (setV base 6 0 0x80000000 true) v8 0 = some (0x80000000, true) := by decide +kernel
theorem test_iabs_saturates : after (.iabs (wd 8 6 0xFF 0xFF 0 1)) (setV base 6 0 0x80000000 true) v8 0 = some (0x7FFFFFFF, true) := by decide +kernel

/-- R119: amounts past the width, the majority table 0xE8, and the counts. -/
theorem test_shl_past_width : after (.shl (wd 8 6 7 0xFF)) base v8 5 = some (0, true) := by decide +kernel
theorem test_sar_past_width : after (.sar (wd 8 7 7 0xFF)) base v8 5 = some (0xFFFFFFFF, true) := by decide +kernel
theorem test_ltab_majority : after (.ltab (wd 8 6 7 9 0 0 0 (some ⟨0, 0, 0, 0xE8⟩))) (setV base 9 3 0x12 true) v8 3 = some (0x16, true) := by decide +kernel
theorem test_shf_left : after (.shf (wd 8 6 7 6)) base v8 3 = some (0xFFFFFFF0, true) := by decide +kernel
theorem test_bfe : after (.bfe (wd 8 7 6 0xFF)) (setV base 6 0 0x0804 true) v8 0 = some (0xFF, true) := by decide +kernel
theorem test_popc : after (.popc (wd 8 7 0xFF 0xFF)) base v8 0 = some (32, true) := by decide +kernel
theorem test_clz_zero : after (.clz (wd 8 5 0xFF 0xFF)) base v8 0 = some (32, true) := by decide +kernel
theorem test_brev : after (.brev (wd 8 6 0xFF 0xFF)) base v8 2 = some (0xC0000000, true) := by decide +kernel

/-- R114: an invalid source clears V and keeps the data. -/
theorem test_invalid_source : after (.iadd (wd 8 6 7 0xFF)) (setV base 6 4 9 false) v8 4 = some (0x3F800000, false) := by decide +kernel

/-- R97-R100, R121: sums and products of 1.0, a NaN operand, and FMIN of a NaN and 1.0. -/
theorem test_fadd : after (.fadd (wd 10 8 8 0xFF)) base ⟨false, 10⟩ 0 = some (0x40000000, true) := by decide +kernel
theorem test_fmul_nan : after (.fmul (wd 10 8 9 0xFF)) base ⟨false, 10⟩ 0 = some (0x7FC00000, true) := by decide +kernel
theorem test_ffma : after (.ffma (wd 10 8 8 8)) base ⟨false, 10⟩ 0 = some (0x40000000, true) := by decide +kernel
theorem test_fmin_nan : after (.fmin (wd 10 9 8 0xFF)) base ⟨false, 10⟩ 0 = some (0x3F800000, true) := by decide +kernel

/-- R130: the condition word, and its complement under .p. -/
theorem test_icmp_lt_p : after (.icmp (wd 10 6 7 0xFF 10)) base ⟨false, 10⟩ 0 = some (1, true)
    ∧ after (.icmp (wd 10 6 7 0xFF 10)) base ⟨false, 11⟩ 0 = some (0, false) := by decide +kernel
theorem test_fcmp_nan_unordered : after (.fcmp (wd 10 8 9 0xFF 2)) base ⟨false, 10⟩ 0 = some (0, false) := by decide +kernel

/-- R134: lanes with an invalid or a zero a are not in the ballot. -/
theorem test_ballot : after (.ballot (wd 0xC8 6 0xFF 0xFF)) (setV (setV base 6 0 1 false) 6 1 0 true) ⟨true, 8⟩ 0 = some (0xFC, true) := by
  decide +kernel

/-- R135: .up 1 gives lane 0 its own value. -/
theorem test_shfl_up : after (.shfl (wd 10 6 0xC6 0xFF 1)) base ⟨false, 10⟩ 0 = some (1, true)
    ∧ after (.shfl (wd 10 6 0xC6 0xFF 1)) base ⟨false, 10⟩ 5 = some (5, true) := by decide +kernel

/-- The example of R136: lanes 0 to 3 hold 5, 2 (V = 0), 7 and 1. -/
def scanState : State :=
  setV (setV (setV (setV (withFloe (fun f => { f with s0 := some ⟨0x100, 0xF, none, none⟩ })) 6 0 5 true) 6 1 2 false) 6 2 7 true) 6 3 1 true
theorem test_scan_example : (List.range 4).map (after (.scan (wd 10 6 0xFF 1)) scanState ⟨false, 10⟩)
    = [some (0, true), some (5, true), some (5, true), some (12, true)] := by decide +kernel
theorem test_redux_example : after (.redux (wd 0xC8 6 0xFF 0xFF)) scanState ⟨true, 8⟩ 0 = some (13, true) := by decide +kernel

/-- R131: validity as data. -/
theorem test_vtest_invalid : after (.vtest (wd 10 6 0xFF 0xFF)) (setV base 6 2 9 false) ⟨false, 10⟩ 2 = some (0, true) := by decide +kernel
theorem test_vclr_keeps_data : after (.vclr (wd 10 6 0xFF 0xFF)) base ⟨false, 10⟩ 2 = some (3, false) := by decide +kernel

/-- R161: the lowest lane of the active mask. -/
theorem test_elect : after (.elect (wd 0xC8 0 0 0)) (withFloe (fun f => { f with s0 := some ⟨0x100, 0xF8, none, none⟩ })) ⟨true, 8⟩ 0
    = some (3, true) := by decide +kernel

/-- R54: both halves are read before either writes. -/
theorem test_pair_swap : after (.pairWord ⟨.mov, 6, 7, 0xFF⟩ ⟨.mov, 7, 6, 0xFF⟩) base ⟨false, 6⟩ 4 = some (0xFFFFFFFF, true)
    ∧ after (.pairWord ⟨.mov, 6, 7, 0xFF⟩ ⟨.mov, 7, 6, 0xFF⟩) base ⟨false, 7⟩ 4 = some (5, true) := by decide +kernel

/-- R31, R156: the next word, and a branch back by two words. -/
theorem test_nop_advances : (floeAfter (.nop (wd 0 0 0 0)) base).map (fun f => f.s0) = some (some ⟨0x108, 0xFF, none, none⟩) := by decide +kernel
theorem test_br_back : ((floeAfter (.br (wd 0 0xFF 0xFF 0xFE)) base).bind (fun f => f.s0)).map (fun sl => (sl.pc, sl.mask))
    = some (0xF0, 0xFF) := by decide +kernel

/-- R159: the return address is the word after CALL. -/
theorem test_call_pushes : (floeAfter (.call (wd 0 0 0 2)) base).map (fun f => f.stack.map (fun q => (q.pc, q.mask))) = some [(0x108, 0xFF)] := by
  decide +kernel

/-- R160: the last lanes retire the floe. -/
theorem test_exit_retires : (floeAfter (.exit (wd 0 0 0 0)) base).map (fun f => (f.state, f.s0)) = some (.retired, none) := by decide +kernel

/-- R370, R374: TRAP 5 enters the handler at TRAPBASE with cause 0x40, the code in TINFO and the next word in TEPC. -/
theorem test_trap_enters : (floeAfter (.trap (wd 0 0 0 5)) base).map (fun f => (f.s0.map (fun sl => sl.pc), f.tcause, f.tinfo, f.tepc, f.levelHandler))
    = some (some 0x1000, 0x40, 5, 0x108, true) := by decide +kernel

/-- R67: a reserved opcode traps at its word with its OP in TINFO. -/
theorem test_reserved_traps : (floeAfter (.reservedOpcode (fword 0x019)) base).map (fun f => (f.s0.map (fun sl => sl.pc), f.tinfo, f.tepc))
    = some (some 0x1000, 0x019, 0x100) := by decide +kernel

/-- R79: a privileged word of a floe at the user level. -/
theorem test_privilege : (floeAfter (.halt (wd 0xFF 0xFF 0xFF 0xFF)) base).map (fun f => f.tcause)
    = some (BitVec.ofNat 32 (Cause.code .privileged)) := by decide +kernel

/-- R362: %fpflags takes its writable bits only. -/
theorem test_wrsr_fpflags : (floeAfter (.wrsr (wd 0xFF 0xCA 0xFF 0)) base).map (fun f => f.fpflags) = some 0x73F := by decide +kernel

/-- R163: SLEEP 4 waits until the core's GT is 4 more. -/
theorem test_sleep : (floeAfter (.sleep (wd 0 0 0xC4 0)) base).map (fun f => (f.state, f.wait)) = some (.waiting, some (.sleep 4)) := by decide +kernel

/-- R423: the flash image, then its verification, twice failed. -/
theorem test_boot_fails_twice : (match exec (.verifyResult false) { State.reset with life := { State.reset.life with boot := .verify, failures := 1 } } with
    | .next t => t.life.boot == .failed | _ => false) = true := by decide +kernel

/-- R433: every cluster 20 MHz lower above 105 °C. -/
theorem test_throttle : (match exec (.throttleStep 105 0) base with | .next t => Table.getD t.clk 940 0 | _ => 0) = 920 := by decide +kernel

/-- R31: the placed word is the one the next step runs (log 31). -/
theorem test_step_runs_placed_word : (match step (State.reset.withFetchWord 64 (fword 0x019).toNat) with
    | .next t => (t.floe? 0).map (fun f => f.state) | _ => none) ≠ none := by decide +kernel


/-! ## Witnesses: states and operands that meet the hypotheses of each statement, clause by clause -/

/-! ### Words and steps -/

theorem witness_refused_words : wordKind 0xC000000000000000 = 3 ∧ (fword 0x3CA).getLsbD 63 = false ∧ opAssigned ((fword 0x3CA).extractLsb' 53 10) = false
    ∧ (0x0040A13FFFFFE004 : Dword).getLsbD 63 = false ∧ wordHasX 0x0040A13FFFFFE004 = true ∧ wordKind 0 ≠ 3
    ∧ wordKind 0x8A00000000000000 = 2 ∧ 20 ≤ ((0x8A00000000000000 : Dword).extractLsb' 55 7).toNat
    ∧ wordKind 0x8000000014000000 = 2 ∧ 20 ≤ ((0x8000000014000000 : Dword).extractLsb' 24 7).toNat := by decide +kernel

theorem witness_refused_trap : base.env? 0xFF 8 = some (env (wd 0 0 0 0) base) ∧ handled base (env (wd 0 0 0 0) base) = true := by decide +kernel

/-- The turn that issues floe 0's word at `pc`, and what is fetched. -/
def issueAt (s : State) (w : Dword) (n : Nat) : Bool :=
  let s1 := { s with turns := [], gt := s.gt + 0 }
  s.life.boot == .ready && s.turns == [⟨0, .issue 0 0 []⟩] && issueChoice s1 0 0 [] == some (0, false)
    && decide (fetchWord s1 (f0 s) ((f0 s).s0.map (fun sl => sl.pc)).get! = .ok w) && (fetchFar s1 (f0 s) ((f0 s).s0.map (fun sl => sl.pc)).get!).isEmpty && wordBytes w == n

theorem witness_step_word : issueAt base 0 8 = true := by decide +kernel
theorem witness_step_two_words : issueAt (State.reset.placeWord (0x0040A13FFFFFE004 + 2 ^ 64 * 0xC000000000012345)) 0x0040A13FFFFFE004 16 = true
    ∧ fetchWord { State.reset.placeWord (0x0040A13FFFFFE004 + 2 ^ 64 * 0xC000000000012345) with turns := [] } (f0 base) 0x108 = .ok 0xC000000000012345 := by
  decide +kernel
theorem witness_step_agent : isEvent .predictorDecay = true ∧ isEvent (.dataReturn 0) = true := by decide +kernel

/-- The slot at the last word of the mapped page, or past it. -/
def edge (pc : Dword) : State :=
  let s := withFloe (fun f => { f with s0 := some ⟨pc, 0xFF, none, none⟩ })
  { s with ms := s.ms.setBytes 0xFFF8 (bytesOf 8 0x0040A13FFFFFE004) }
theorem witness_fetch_fault : (fetchWord (edge 0x10000) (f0 base) 0x10000).toOption = none ∧ (fetchFar (edge 0x10000) (f0 base) 0x10000).isEmpty = true ∧ issueChoice { edge 0x10000 with turns := [] } 0 0 [] = some (0, false) := by
  decide +kernel
theorem witness_fetch_fault_second : fetchWord (edge 0xFFF8) (f0 base) 0xFFF8 = .ok 0x0040A13FFFFFE004 ∧ (fetchFar (edge 0xFFF8) (f0 base) 0xFFF8).isEmpty = true ∧ wordBytes 0x0040A13FFFFFE004 = 16
    ∧ (fetchWord (edge 0xFFF8) (f0 base) (0xFFF8 + 8)).toOption = none := by decide +kernel

theorem witness_canonical : Memory.wf base = true ∧ (match step base with | .next _ => true | _ => false) = true := by decide +kernel

/-! ### Traps -/

/-- Each decode check fails for some word: privilege, modifier, operands, register range. -/
def trapOf (i : Instr) (w : FWord) (s : State) : Option Cause := decodeTrap s (env w s) (privOf i) w (shp i)
theorem witness_decode_traps : trapOf (.halt (wd 0xFF 0xFF 0xFF 0xFF)) (wd 0xFF 0xFF 0xFF 0xFF) base = some .privileged
    ∧ trapOf (.iadd { good with m := 1 }) { good with m := 1 } base = some .illegalModifier
    ∧ trapOf (.iadd { good with c := 4 }) { good with c := 4 } base = some .illegalOperands
    ∧ trapOf (.iadd { good with d := 0xBF, s := 0 }) { good with d := 0xBF } (withFloe (fun f => { f with regs := 191 })) = some .registerRange
    ∧ handled base (env good base) = true := by decide +kernel

theorem witness_fatal : ((withFloe (fun f => { f with levelHandler := true })).floe? 0).map (fun f => f.levelHandler) = some true
    ∧ (base.ctx? 0).isSome = true ∧ (({ base with ctxs := [(0, { ctx with trapBase := 0 })] } : State).ctx? 0).map (fun x => x.trapBase) = some 0 := by decide +kernel
theorem witness_missing_page : ({ cause := .pageNotPresent, lanes := 1 } : TrapInfo).source = 0 := by decide +kernel

/-! ### Classes 0 to 4 -/

/-- Words of every operand shape. -/
def shapes : List FWord :=
  [wd 10 6 7 0xFF, wd 10 6 0xFF 0xFF, wd 10 6 7 8, wd 10 6 0xFF 0xFF 1, wd 10 0xFF 0xFF 0xFF 0 0 0 (some ⟨0, 0, 0, 9⟩), wd 10 6 7 8 0 0 0 (some ⟨0, 0, 0, 0xE8⟩),
   wd 10 4 6 0xFF, wd 10 4 0xFF 0xFF, wd 10 4 4 4, wd 10 6 7 4]

theorem witness_integer : ∀ p ∈ intInstrs, (shapes.any (fun w => chk p.1 w base)) = true := by decide +kernel
/-- Zeros in v10:v11. -/
def zeros : State := setPair base 10 (fun _ => 0)
def fshapes : List FWord := [wd 12 10 10 10, wd 12 10 10 0xFF, wd 12 10 0xFF 0xFF, wd 12 10 0xFF 0xFF 1]
theorem witness_float : ∀ p ∈ fpInstrs, (fshapes.any (fun w => chk p.1 w zeros (fun sh e =>
    (fpTrap e.f.fpflags (allFx (laneResults zeros w sh e (immFp w sh.b.wide) (p.2 w)))).isNone))) = true := by decide +kernel

/-- Every condition enabled. -/
def enabled : State := withFloe (fun f => { f with fpflags := 0x700 })
theorem witness_enabled : chk .frcp (wd 10 5 0xFF 0xFF) enabled (fun sh e => handled enabled e
    && (fpTrap e.f.fpflags (allFx (laneResults enabled (wd 10 5 0xFF 0xFF) sh e (immFp (wd 10 5 0xFF 0xFF) sh.b.wide) (opFrcp (wd 10 5 0xFF 0xFF))))).isSome) = true := by
  decide +kernel

/-- What the issue of a P word finds. -/
def pairChk (h0 h1 : HalfWord) (s : State) (p : Env → Bool) : Bool :=
  let e := env (wd 0 0 0 0) s
  decide (s.env? 0xFF 8 = some e) && pairOk h0 h1
    && regsOk e.f (namedRegs (halfShape h0) (halfWord h0) ++ namedRegs (halfShape h1) (halfWord h1)) && p e
def trapsHalf (s : State) (h : HalfWord) (e : Env) : Bool := (fpTrap e.f.fpflags (allFx (halfResults s e h))).isSome
def signalling : State := setV (setV enabled 8 0 0x7F800000 true) 9 0 0xFF800000 true
/-- Infinities of both signs in v8. -/
def sums : State := setV (setV enabled 8 0 0x7F800000 true) 8 1 0xFF800000 true
theorem witness_pair : pairChk ⟨.fadd, 10, 8, 8⟩ ⟨.shl8, 11, 6, 31⟩ base (fun e => !trapsHalf base ⟨.fadd, 10, 8, 8⟩ e && !trapsHalf base ⟨.shl8, 11, 6, 31⟩ e) = true := by
  decide +kernel
theorem witness_pair_trap : pairChk ⟨.fadd, 10, 8, 9⟩ ⟨.iadd, 11, 6, 7⟩ signalling (fun e => handled signalling e && trapsHalf signalling ⟨.fadd, 10, 8, 9⟩ e) = true
    ∧ pairChk ⟨.iadd, 10, 6, 7⟩ ⟨.fadd, 11, 8, 9⟩ signalling (fun e => handled signalling e && !trapsHalf signalling ⟨.iadd, 10, 6, 7⟩ e
        && trapsHalf signalling ⟨.fadd, 11, 8, 9⟩ e) = true := by decide +kernel

def quiet (s : State) (e : Env) (rs : LaneResults) : Bool := (s.floe? e.h).isSome && (fpTrap e.f.fpflags (allFx rs)).isNone
theorem witness_pack : chk .pack (wd 10 6 8 0xFF 0) base (fun sh e => quiet base e (laneResults base (wd 10 6 8 0xFF 0) sh e 0 (opPack2 (wd 10 6 8 0xFF 0)))) = true
    ∧ chk .pack (wd 10 8 8 0xFF 1) base = true ∧ chk .pack (wd 10 4 0xFF 0xFF 2) base = true ∧ chk .pack (wd 10 4 0xFF 0xFF 3) base = true := by decide +kernel
theorem witness_pack_block : chk .pack (wd 10 8 0xC4 0xFF 4) base (fun sh e => e.exec != 0 && (blockScale base (wd 10 8 0xC4 0xFF 4) sh e).2) = true
    ∧ chk .pack (wd 10 8 0xC4 0xFF 5) base (fun sh e => e.exec != 0 && (blockScale base (wd 10 8 0xC4 0xFF 5) sh e).2) = true
    ∧ chk .pack (wd 10 8 0xE8 0xFF 4) base (fun sh e => e.exec != 0 && !(blockScale base (wd 10 8 0xE8 0xFF 4) sh e).2) = true
    ∧ chk .pack (g40 (wd 10 8 0xC4 0xFF 4)) base (fun _ e => e.exec == 0) = true := by decide +kernel
theorem witness_unpack : chk .unpk (wd 10 6 0xFF 3 3) base = true ∧ chk .unpk (wd 10 8 0xC4 0xFF 4) base = true
    ∧ chk .unpk (wd 10 8 0xC4 0xFF 5) base = true := by decide +kernel
theorem witness_scans : chk .qscan (wd 0xC8 8 0xFF 0xFF 4) base = true ∧ chk .ballot (wd 0xC8 6 0xFF 0xFF) base = true
    ∧ chk .redux (wd 0xC8 8 0xFF 0xFF 6) base (fun _ e => (fpTrap e.f.fpflags (allSteps (reduce (wd 0xC8 8 0xFF 0xFF 6)
        (contributing base (wd 0xC8 8 0xFF 0xFF 6) e)).2)).isNone) = true
    ∧ chk .scan (wd 10 8 0xFF 1 6) base (fun _ e => maskLanes e.exec == [0, 1, 2, 3, 4, 5, 6, 7] && (fpTrap e.f.fpflags (allSteps (reduce (wd 10 8 0xFF 1 6)
        ((contributing base (wd 10 8 0xFF 1 6) e).filter (fun p => decide (p.1 < 7)))).2)).isNone) = true := by decide +kernel
theorem witness_scans_trap : chk .redux (wd 0xC8 8 0xFF 0xFF 6) sums (fun _ e => handled sums e && (fpTrap e.f.fpflags (allSteps (reduce (wd 0xC8 8 0xFF 0xFF 6)
        (contributing sums (wd 0xC8 8 0xFF 0xFF 6) e)).2)).isSome) = true
    ∧ chk .scan (wd 10 8 0xFF 0 6) sums (fun _ e => handled sums e && (fpTrap e.f.fpflags (allSteps (reduce (wd 10 8 0xFF 0 6)
        ((contributing sums (wd 10 8 0xFF 0 6) e).filter (fun p => decide (p.1 ≤ 7)))).2)).isSome) = true := by decide +kernel
theorem witness_compares : chk .icmp (wd 10 6 7 0xFF 13) base = true ∧ chk .fcmp (wd 10 8 9 0xFF 15) base = true ∧ chk .dcmp (wd 10 4 6 0xFF 7) base = true
    ∧ chk .sel { wd 10 6 7 0xFF with g := 8 } base = true ∧ chk .sel { wd 0xC8 0xC4 0xC6 0xFF with g := 0xCC } base = true
    ∧ chk .shfl (wd 10 6 7 0xFF 3) base = true := by decide +kernel
theorem witness_validity : chk .vset (wd 10 6 0xFF 0xFF) base = true ∧ chk .vclr (wd 10 6 0xFF 0xFF) base = true ∧ chk .vtest (wd 10 6 0xFF 0xFF) base = true
    ∧ chk .vand (wd 10 6 7 0xFF 2) base = true ∧ chk .vote (wd 0xC8 6 0xFF 0xFF 2) base = true := by decide +kernel
theorem witness_integer_values : (wd 0 0 0 0 0 2).s.getLsbD 1 = true ∧ (wd 0 0 0 0 0 6).s.getLsbD 0 = false ∧ 0xFFFFFFFFFFFFFFFF < 2 ^ 64
    ∧ (wd 0 0 0 0).s.getLsbD 1 = false ∧ 0xFFFFFFFF < 2 ^ 32 := by decide
theorem witness_nan : Fmt.fp32.decode 0x7FC12345 = .nan ∧ Fmt.fp32.decode 0xFF800001 = .nan := by decide +kernel

/-! ### Class 5 -/

/-- Words with an invalid guard. -/
theorem witness_empty_exec : ∀ p ∈ ([(.br, g40 (wd 0 4 4 4)), (.brx, g40 (wd 0 4 0 0)), (.jmp, g40 (wd 0 0xC0 0 0)), (.call, g40 (wd 0 4 4 4)), (.ret, g40 (wd 0 0 0 0)),
    (.exit, g40 (wd 0 0 0 0)), (.elect, g40 (wd 4 0 0 0)), (.yield, g40 (wd 0 0 0 0)), (.trap, g40 (wd 0 0 0 4)), (.brk, g40 (wd 0 0 0 4)),
    (.sleep, g40 (wd 0 0 0xC0 0)), (.svc, g40 (wd 0xFF 0xC0 0xFF 4)), (.trapret, g40 (wd 0xFF 0xFF 0xFF 0xFF)), (.setrole, g40 (wd 0xFF 0xFF 0xFF 0xFF)),
    (.setmode, g40 (wd 0xFF 0xFF 0xFF 0xFF))] : List ((FWord → Instr) × FWord)), chk p.1 p.2 priv (fun _ e => e.exec == 0) = true := by decide +kernel
theorem witness_nop : chk .nop (wd 0 0 0 0) base = true := by decide +kernel
theorem witness_yield_modes : chk .yield (wd 0 0 0 0) base (fun _ e => e.exec != 0) = true
    ∧ chk .sleep (wd 0 0 0xC1 0) base (fun _ e => e.exec != 0 && rdOp base e.f 0 0xC1 1 == (0, true)) = true
    ∧ chk .setrole (wd 0xFF 0xFF 0xFF 0xFF 2) base (fun _ e => e.exec != 0) = true
    ∧ chk .setmode (wd 0xFF 0xFF 0xFF 0xFF 2) base (fun _ e => e.exec != 0) = true
    ∧ chk .setmode (wd 0xFF 0xFF 0xFF 0xFF 1) base (fun _ e => (e.f.slot (!e.b)).isNone && e.f.stack == [] && e.f.parked == 0 && e.sl.mask &&& 0xFFFF0000 == 0) = true := by
  decide +kernel
def wide : State := withFloe (fun f => { f with s0 := some ⟨0x100, 0x1FFFF, none, none⟩ })
theorem witness_setmode_trap : chk .setmode (wd 0xFF 0xFF 0xFF 0xFF 1) wide (fun _ e => e.exec != 0 && handled wide e && e.sl.mask &&& 0xFFFF0000 != 0) = true := by
  decide +kernel

theorem witness_transfers : chk .br (wd 0 4 4 4) base (fun _ e => e.exec != 0 && e.sl.mask &&& ~~~e.exec == 0) = true
    ∧ chk .br (g6 (wd 0 0 0 1)) guarded (fun _ e => e.exec != 0 && e.sl.pc + BitVec.ofInt 64 (8 * ((0 : BitVec 8) ++ (0 : BitVec 8) ++ (1 : BitVec 8) : BitVec 24).toInt) == e.sl.pc + 8) = true
    ∧ chk .brx (wd 0 10 0 0) (setPair base 10 (fun _ => 0x2008)) (fun _ e => e.exec != 0 && e.sl.mask &&& ~~~e.exec == 0
        && (List.range 32).all (fun l => !e.exec.getLsbD l || rdOp (setPair base 10 (fun _ => 0x2008)) e.f l 10 2 == (0x2008, true))) = true
    ∧ chk .jmp (wd 0 0xC0 0 0) base (fun _ e => e.exec != 0 && rdOp base e.f 0 0xC0 2 == (0x2000, true)) = true
    ∧ chk .call (wd 0 4 4 4) (withFloe (fun f => { f with spillCap := 1 })) (fun _ e => e.exec != 0 && decide (e.f.stack.length + 1 ≤ e.f.spillCap)) = true := by
  decide +kernel
def misaligned : State := setPair base 10 (fun l => 0x2000 + l)
theorem witness_transfer_traps : chk .brx (wd 0 10 0 0) misaligned (fun _ e => handled misaligned e && e.exec != 0
        && (maskLanes e.exec).filter (fun l => (rdOp misaligned e.f l 10 2).2 && decide ((rdOp misaligned e.f l 10 2).1 % 8 ≠ 0)) != [] && e.sl.pc.toNat % 8 == 0) = true
    ∧ chk .jmp (wd 0 0xC8 0 0) base (fun _ e => handled base e && e.exec != 0 && (rdOp base e.f 0 0xC8 2).2 && (rdOp base e.f 0 0xC8 2).1 % 8 != 0) = true
    ∧ chk .call (wd 0 4 4 4) (withFloe (fun f => { f with spillCap := 0 })) (fun _ e => e.exec != 0 && decide (e.f.spillCap < e.f.stack.length + 1)) = true := by
  decide +kernel

/-- A divergent BR with and without a join, the other slot free or live, with just enough stack or none. -/
def split (cap : Nat) (other : Bool) : State := guarded.modFloe 0 (fun f => { f with spillCap := cap, s1 := if other then some ⟨0x400, 0xF00, none, none⟩ else none })
def joinX : Option XWord := some ⟨0, 0, 0, 0x10⟩
theorem witness_divergent : ∀ q ∈ [(0, false, none), (1, true, none), (1, false, joinX), (2, true, joinX)],
    chk .br (g6 (wd 0 0 0 9 0 0 0 q.2.2)) (split q.1 q.2.1) (fun _ e => e.exec != 0 && e.sl.mask &&& ~~~e.exec != 0
      && e.f.stack.length + ((if q.2.2.isSome then 1 else 0) + (if (e.f.slot (!e.b)).isSome then 1 else 0)) == e.f.spillCap) = true := by decide +kernel
theorem witness_divergent_full : chk .br (g6 (wd 0 0 0 9 0 0 0 joinX)) (split 1 true) (fun _ e => handled (split 1 true) e && e.exec != 0
    && decide (e.f.spillCap < e.f.stack.length + 2)) = true := by decide +kernel
def targets (cap : Nat) : State := (setPair base 10 (fun l => if l < 4 then 0x2000 else 0x2008)).modFloe 0 (fun f => { f with spillCap := cap })
def groupsOk (s : State) (e : Env) (gs : List (Dword × Mask)) : Bool :=
  gs.all (fun g => (List.range 32).all (fun l => g.2.getLsbD l == (e.sl.mask.getLsbD l && (if e.exec.getLsbD l && (rdOp s e.f l 10 2).2
    then BitVec.ofNat 64 (rdOp s e.f l 10 2).1 else e.sl.pc + 8) == g.1)))
theorem witness_indexed : chk .brx (wd 0 10 0 0) (targets 0) (fun _ e => e.exec != 0 && groupsOk (targets 0) e [(0x2000, 0x0F), (0x2008, 0xF0)]) = true
    ∧ chk .brx (wd 0 10 0 0) ((targets 0).modFloe 0 (fun f => { f with s1 := some ⟨0x400, 0xF00, none, none⟩ })) (fun _ e => handled base e && e.exec != 0
        && decide (e.f.spillCap < e.f.stack.length + 1)) = true := by decide +kernel

def called (above : List StackEntry) : State := withFloe (fun f => { f with stack := above ++ [⟨.call, 0x800, 0xFF, none, none⟩] })
theorem witness_ret : chk .ret (wd 0 0 0 0) (called []) (fun _ e => e.exec != 0 && e.f.stack.any (fun q => q.kind == .call && e.exec &&& q.mask == e.exec)) = true
    ∧ chk .ret (wd 0 0 0 0) (called [⟨.call, 0x700, 0x7F, none, none⟩]) (fun _ e => e.f.stack.map (fun q => e.exec &&& q.mask == e.exec) == [false, true]) = true
    ∧ chk .ret (wd 0 0 0 0) base (fun _ e => handled base e && e.exec != 0 && e.f.stack == []) = true := by decide +kernel
theorem witness_exit : chk .exit (wd 0 0 0 0) base (fun _ e => e.exec != 0 && e.sl.mask &&& ~~~e.exec == 0 && e.f.stack == []) = true
    ∧ chk .exit (g6 (wd 0 0 0 0)) guarded (fun _ e => e.exec != 0 && e.sl.mask &&& ~~~e.exec != 0) = true := by decide +kernel
theorem witness_elect : chk .elect (wd 0xC8 0 0 0) base (fun _ e => maskLanes e.exec == 0 :: [1, 2, 3, 4, 5, 6, 7]) = true
    ∧ chk .elect (wd 10 0 0 0) base (fun _ e => maskLanes e.exec != []) = true := by decide +kernel
theorem witness_sleep : chk .sleep (wd 0 0 0xFF 0 0 0 0 (some ⟨0, 0, 0, 1⟩)) base (fun _ e => e.exec != 0) = true
    ∧ chk .sleep (wd 0 0 0xC4 0) base (fun _ e => rdOp base e.f 0 0xC4 1 == (4, true)) = true := by decide +kernel

/-- A floe WAITING for `c`. -/
def waiting (c : Wait) : State := withFloe (fun f => { f with state := .waiting, wait := some c, waitLen := 8, waitExec := 0xFF })
theorem witness_deadline : (f0 (waiting (.sleep 0))).wait = some (.sleep 0) ∧ (0 ≤ (waiting (.sleep 0)).coreGt 0) ∧ (waiting (.sleep 1)).coreGt 0 < 1
    ∧ ((f0 (waiting (.sleep 0))).slot (f0 (waiting (.sleep 0))).waitSlot1).isSome = true ∧ (f0 (waiting (.sleep 0))).waitLen ≠ 0 := by decide +kernel
theorem witness_condition : waitHolds (waiting (.classes 0 0 15 15)) 0 (f0 base) (.classes 0 0 15 15) = true
    ∧ waitHolds (waiting (.acreset 2)) 0 { f0 base with acs := List.replicate 16 ⟨0, 1⟩ } (.acreset 2) = false
    ∧ waitHolds (waiting (.arrive 3 true true)) 0 (f0 base) (.arrive 3 true true) = true := by decide +kernel
theorem witness_aged : (f0 base).state = .ready ∧ (∀ q ∈ [(1000000, true), (0, false)], decide ((({ base with gt := q.1 } : State).part 0).ageLimit - 16
    ≤ (({ base with gt := q.1 } : State).mck 0 - (f0 base).since) / 1000) = q.2) := by decide +kernel

theorem witness_traps : chk .trap (wd 0 0 0 0xFF) base (fun _ e => handled base e && e.exec != 0) = true
    ∧ chk .brk (wd 0 0 0 0) base (fun _ e => handled base e && e.exec != 0) = true
    ∧ chk .svc (wd 0xFF 0xC0 0xFF 4) base (fun _ e => (base.ctx? e.f.ctx).isSome && e.exec != 0) = true := by decide +kernel
def inHandler (depth : Nat) : State := withFloe (fun f => { f with
  levelPriv := true, levelHandler := true, tepc := 0x108, frame := some ⟨false, false, 0xFF, none, depth⟩ })
theorem witness_trapret : chk .trapret (wd 0xFF 0xFF 0xFF 0xFF 0) (inHandler 0) (fun _ e => e.exec != 0
        && (match e.f.frame with | some fr => fr.mask == e.sl.mask && fr.depth == e.f.stack.length | none => false) && e.f.tepc.toNat % 8 == 0) = true
    ∧ chk .trapret (wd 0xFF 0xFF 0xFF 0xFF 1) (inHandler 0) (fun _ e => e.exec != 0
        && (match e.f.frame with | some fr => fr.mask == e.sl.mask && fr.depth == e.f.stack.length | none => false)) = true
    ∧ chk .trapret (wd 0xFF 0xFF 0xFF 0xFF 0) priv (fun _ e => handled priv e && e.exec != 0 && e.f.frame.isNone) = true := by decide +kernel


/-! ### Memory accesses -/

def mw : List FWord := [wd 10 192 255 4, wd 10 192 192 4, wd 6 4 255 4, wd 6 4 4 4, wd 6 192 255 4 4, wd 6 192 192 4 4, wd 255 4 4 4 4]
/-- Counter 4 with `n` outstanding. -/
def acState (n : Nat) : State := withFloe (fun f => f.setAc 4 ⟨n, 0⟩)
theorem witness_memory_issue : ∀ p ∈ memInstrs, (mw.any (fun w => chk p.1 w (acState 254) (fun sh e => e.exec != 0
      && ((p.2 w sh e base).ac).all (fun k => decide ((e.f.ac k).out < 255))
      && ((p.2 w sh e base).kind != .compress 0 || (opLanes (acState 254) e.f (p.2 w sh e (acState 254)) e.exec).1 != [])))) = true
    ∧ (mw.any (fun w => chk p.1 (g40 w) base (fun _ e => e.exec == 0))) = true := by decide +kernel
theorem witness_memory_nothing : chk .stc (wd 40 192 255 4 4) base (fun sh e => e.exec != 0
        && (opLanes base e.f (storeOp (.compress 0) true (wd 40 192 255 4 4) sh e base) e.exec).1 == []) = true
    ∧ chk .lda (wd 10 192 192 4) (acState 255) (fun sh e => e.exec != 0
        && ((loadOp .load false true (wd 10 192 192 4) sh e (acState 255)).ac).any (fun k => decide (255 ≤ (e.f.ac k).out))) = true := by decide +kernel
theorem witness_lane : (rdOp base (f0 base) 7 4 2).2 = true ∧ (rdOp base (f0 base) 7 6 1).2 = true ∧ (0xFF : Mask).getLsbD 7 = true
    ∧ (rdOp (setV (setV base 4 31 8 true) 5 31 0 true) (f0 base) 31 4 2) = (8, true) := by decide +kernel

/-- X words that name core 3 of the floe's die, and core 0 of die 1. -/
def xCore (die : Nat) : Option XWord := some ⟨0, 1, BitVec.ofNat 14 ((256 * die + 3) * 16), 0⟩
theorem witness_remote : chk .ldr (wd 10 4 0xFF 0 0 0 0 (xCore 0)) base (fun _ e => e.exec != 0 && remoteCore base e (wd 10 4 0xFF 0 0 0 0 (xCore 0)) == some 3) = true
    ∧ chk .str (wd 6 4 0xFF 0 0 0 0 (xCore 0)) base (fun _ e => e.exec != 0 && remoteCore base e (wd 6 4 0xFF 0 0 0 0 (xCore 0)) == some 3) = true
    ∧ trapOf (.ldr (wd 10 4 0xFF 0 0 0 0 (xCore 1))) (wd 10 4 0xFF 0 0 0 0 (xCore 1)) base = some .illegalOperands
    ∧ modifierOk (shp (.ldr (wd 10 4 0xFF 0 0 0 0 (xCore 1)))) (wd 10 4 0xFF 0 0 0 0 (xCore 1)) = true
    ∧ remoteCore base (env (wd 10 4 0xFF 0 0 0 0 (xCore 1)) base) (wd 10 4 0xFF 0 0 0 0 (xCore 1)) = none
    ∧ chk .pref (wd 0xFF 4 0xFF 0) base = true := by decide +kernel

/-- A check of `OpFits` for vector destinations. -/
def fitsB (f : Floe) (o : Op) : Bool :=
  o.d.all (fun r => !r.uni && decide (r.n < f.regs)) && decide o.d.Nodup && decide (o.lanes.Pairwise (fun a b => a.lane < b.lane))
    && o.lanes.all (fun la => decide (la.lane < 32)) && o.nulls.all (fun l => decide (l < 32) && o.lanes.all (fun la => la.lane != l && la.lane != l + 16))
theorem fits {f : Floe} {o : Op} (h : fitsB f o = true) : OpFits f o := by
  simp only [fitsB, Bool.and_eq_true, List.all_eq_true, decide_eq_true_eq, Bool.not_eq_true'] at h
  obtain ⟨⟨⟨⟨h1, h2⟩, h3⟩, h4⟩, h5⟩ := h
  refine ⟨fun r hr => ?_, h2, h3, h4, fun l hl => ⟨(h5 l hl).1, fun la hla => ?_⟩, ?_, ?_⟩
  · simp [(h1 r hr).1, (h1 r hr).2]
  · have := (h5 l hl).2 la hla
    simp at this
    exact ⟨this.1, fun _ => this.2⟩
  · rintro ⟨r, hr, hu⟩; simp [(h1 r hr).1] at hu
  · rintro l ⟨r, hr, hu⟩; simp [(h1 r hr).1] at hu

/-- Operation 1 of a machine meets a condition. -/
def opIs (s : State) (p : Op → Floe → Bool) : Bool := match Table.find? s.ops 1, s.floe? 0 with
  | some o, some f => s.tagLive o && o.floe == 0 && fitsB f o && p o f
  | _, _ => false

/-- A load and a store in flight. -/
def loading : State := run (.ld (wd 10 4 0xFF 0)) base
def late : State := { loading with ops := Table.map loading.ops (fun _ o => { o with after := [1] }) }
def stale : State := loading.modFloe 0 (fun f => { f with tag := 9 })
theorem witness_load : opIs loading (fun o _ => !o.isSt && o.kind == .load && o.ready loading && o.dataReady loading) = true
    ∧ opIs late (fun o _ => !o.isSt && !(o.ready late && o.dataReady late)) = true
    ∧ (Table.find? stale.ops 1).any (fun o => !o.isSt && o.kind == .load && !stale.tagLive o && o.ready stale && o.dataReady stale) = true := by decide +kernel

def storing (va : Nat) : State := run (.st (wd 6 10 0xFF 0)) (setPair base 10 (fun _ => va))
def memLane (s : State) (o : Op) (p : Phys → LaneAcc → Bool) : Bool := o.lanes.all (fun la => match laneView s o la with | .ok (.mem q) => p q la | _ => false)
/-- A machine with a key for its context, and a block that a write takes over. -/
theorem witness_store : opIs (storing 0xFFFC) (fun o _ => o.isSt && o.kind == .store && o.state == .inFlight && o.writeReady (storing 0xFFFC) 1
    && !o.leaseHeld (storing 0xFFFC) && memLane (storing 0xFFFC) o (fun p la => !p.pte.sealed && la.valid && p.pa == 0xFFFC && sealQuiet (storing 0xFFFC) 0 p.pte 0xFFFF)
    && ((storing 0xFFFC).ctx? 0).all (fun c => c.keyKid != 0)) = true := by decide +kernel
/-- The page has a lease on its sector. -/
def leasedAt (pa : Nat) (s : State) : State := { s with ms := { s.ms with slice := Table.insert s.ms.slice (sliceKey 0 pa) (s.gt + 256) } }
theorem witness_store_held : opIs (leasedAt 0x2000 (storing 0x2000)) (fun o _ => o.kind == .store
    && !(o.writeReady (leasedAt 0x2000 (storing 0x2000)) 1 && !o.leaseHeld (leasedAt 0x2000 (storing 0x2000)))) = true := by decide +kernel

/-- An atomic of lane 0 alone, by each operation, and a CAS that meets its value and one that does not. -/
def one : State := withFloe (fun f => { f with s0 := some ⟨0x100, 1, none, none⟩ })
def atomicIs (i : Instr) (s : State) (p : Op → Nat → Bool) : Bool :=
  let t := run i s
  opIs t (fun o _ => !o.isSt && o.writeReady t 1 && !o.leaseHeld t && (match o.lanes with
    | [la] => (match laneView t o la with
      | .ok (.mem q) => !q.pte.sealed && (t.sealMeta (q.pa / 4096)).kid == 0 && q.pa / 4096 == (q.pa + o.size - 1) / 4096
          && p o (natOf ((List.range o.size).map (fun i => t.ms.byte (q.pa + i))))
      | _ => false)
    | _ => false))
theorem witness_atomic : (∀ k ∈ List.range 10, atomicIs (.atom (wd 10 4 0xFF k 4)) (setV (one) 10 0 7 true) (fun o _ => o.kind == .atomic (atomOpOf k) true) = true)
    ∧ atomicIs (.cas (wd 10 4 0xFF 0 4)) (setV (setV one 10 0 0 true) 11 0 9 true) (fun o old => o.kind == .atomic .cas true && (o.lanes.all (fun la => la.data == old))) = true
    ∧ atomicIs (.cas (wd 10 4 0xFF 0 4)) (setV (setV one 10 0 1 true) 11 0 9 true) (fun o old => o.kind == .atomic .cas true && (o.lanes.all (fun la => la.data != old))) = true
    ∧ atomicIs (.atomf (wd 8 4 0xFF 0 4)) one (fun o _ => o.kind == .atomic .fadd true) = true := by decide +kernel

/-- Accesses above the mapped page. -/
def missing (i : Instr) : State := run i (setPair base 10 (fun _ => 0x10000))
theorem witness_fault : ∀ i ∈ [Instr.ld (wd 12 10 0xFF 0), .st (wd 6 10 0xFF 0)], opIs (missing i) (fun o f => (o.kind == .load || o.kind == .store)
    && ((missing i).ctx? 0).isSome && f.ctx == o.ctx && o.ready (missing i) && (missing i).takesFault o && (match o.lanes with
      | la :: _ => (match laneView (missing i) o la with | .error x => x == .pageNotPresent | _ => false)
      | [] => false)) = true := by decide +kernel

/-! ### Copies, waits, coherence -/

/-- A copy descriptor of 64 bytes at an address of `m`, its group target set. -/
def withBytes (s : State) (a : Nat) (bs : List Byte) : State := { s with ms := s.ms.setBytes a bs }
def setU (s : State) (n v : Nat) : State := s.setFirn 0 (6144 + n) ⟨BitVec.ofNat 32 v, true⟩

/-- The copy descriptor of 16 bytes from 0x3000 to 0x4000, in a group. -/
def described : State := withBytes base 0x2000 (bytesOf 64 (0x3000 + 0x4000 * 2 ^ 64 + 2 ^ 128 + 2 ^ 144 + 16 * 2 ^ 176))
def readsAs (s : State) (e : Env) (p : Option CopyDesc → Bool) : Bool := blockFar s e 0x2000 64 == [] && (match readBlock s e 0x2000 64 64 with | .ok bs => p (parseCopy (natOf (descRead s e 0x2000 bs).1)) | .error _ => false)
def cpyWord : FWord := wd 0xC0 0xC2 0xC4 0xFF
def cpydWord : FWord := wd 0xFF 0xC0 0xFF 0
/-- As many copies and groups as leave room for one more. -/
def crowded (k g : Nat) (s : State) : State :=
  { s.modFloe 0 (fun f => { f with openGroup := some (List.range k), openCount := k, groups := List.replicate g [0] }) with
    copies := (List.range 127).map (fun n => (n + 2, ⟨n + 1, 9, 0, 0, 0, 0, 0, bytesCopy cpyWord 0 0 1, 0, [], [], false, false, none, none, 0, 0, [], false, 0⟩)), nextId := 200 }
theorem witness_copy : chk .cpy cpyWord (crowded 255 15 base) (fun _ e => e.exec != 0 && rdOp base e.f 0 0xC2 2 == (0x3000, true) && rdOp base e.f 0 0xC0 2 == (0x2000, true)
        && rdOp base e.f 0 0xC4 1 == (4, true) && decide (((crowded 255 15 base).copiesOf 0).length < 128) && decide (e.f.openCount < 256)) = true
    ∧ chk .cpyd cpydWord (crowded 256 14 described) (fun _ e => e.exec != 0 && rdOp described e.f 0 0xC0 2 == (0x2000, true)
        && readsAs (crowded 256 14 described) e (fun d => d.any (fun c => c.ctg && !c.cta && c.cnt == [16])) && decide (e.f.cp < 15)) = true
    ∧ chk .cpyd cpydWord base (fun _ e => e.exec != 0 && handled base e && rdOp base e.f 0 0xC0 2 == (0x2000, true) && readsAs base e Option.isNone) = true
    ∧ chk .cpcommit (wd 255 255 255 255) (crowded 1 14 base) (fun _ e => e.exec != 0 && decide (e.f.cp < 15)) = true
    ∧ chk .cpcommit (wd 255 255 255 255) (crowded 1 15 base) (fun _ e => e.exec != 0 && decide (15 ≤ e.f.cp)) = true := by decide +kernel

/-- Floe 0 holding matrix context 0, with no operation or one. -/
def zeroTile : TileOp := ⟨0, 0, 0, 1, 0, .mzero, 4, some 15, 0, 0, 0, 0, 0, 0, [], 0, false, [], []⟩
def matrixed (ops : List TileOp) : State := base.setMatrix 0 0 { Matrix.fresh with st := .held, holder := some 0, ops := ops }
/-- An instruction that waits, whose condition holds or does not. -/
def cond (f : FWord → Instr) (w : FWord) (s : State) (u : Env → State) (c : Env → Wait) (holds : Bool) : Bool :=
  chk f w s (fun _ e => e.exec != 0 && waitHolds (u e) e.h e.f (c e) == holds)
def fenceIds (s : State) (rel : Bool) : List Nat := Table.keys (Table.keep s.ops (fun i o => (o.floe == 0 && (o.isRead || (rel && o.isWrite))) || (rel && (f0 s).seen.contains i)))
theorem witness_conditions : (∀ q ∈ [(base, true), (withFloe (fun f => { f with ld := 1 }), false)],
      cond .wait (wd 255 255 0x0F 0xFF 1) q.1 (fun _ => q.1) (fun _ => .classes 0 15 15 15) q.2 = true)
    ∧ (∀ q ∈ [(acState 0, true), (acState 1, false)], cond .wait (wd 255 255 4 0) q.1 (fun _ => q.1) (fun _ => .counter 4 0) q.2 = true
        ∧ cond .acreset (wd 255 255 255 4) q.1 (fun _ => q.1) (fun _ => .acreset 4) q.2 = true)
    ∧ (∀ q ∈ [(base, true), (storing 0x2000, false)], cond .dfence (wd 255 255 255 255) q.1 (fun _ => q.1) (fun e => .ops (q.1.storesOf e.h) .desc) q.2 = true
        ∧ cond .fence (wd 255 255 255 255 3 3) q.1 (fun _ => q.1) (fun _ => .fence (fenceIds q.1 true) 3 true) q.2 = true
        ∧ cond .fence (wd 255 255 255 255 2 2) q.1 (fun _ => q.1) (fun _ => .fence (fenceIds q.1 true) 2 false) q.2 = true)
    ∧ (∀ q ∈ [(matrixed [], true), (matrixed [zeroTile], false)], (q.1.heldMx 0 0).isSome = true
        ∧ cond .mrel (wd 0 255 255 255) q.1 (fun e => q.1.releaseMx e.h e.f.core false) (fun _ => .stream 4) q.2 = true
        ∧ cond .msync (wd 0 255 255 255) q.1 (fun _ => q.1) (fun _ => .stream 0) q.2 = true) := by decide +kernel
def flushing (s : State) : State := s.modFloe 0 (fun f => { f with levelPriv := true })
theorem witness_flush : chk .leasedrop (wd 255 255 255 255) base (fun _ e => e.exec != 0) = true
    ∧ chk .fence (wd 255 255 255 255 1 1) base (fun _ e => e.exec != 0) = true
    ∧ (∀ q ∈ [(flushing base, true), (flushing (storing 0x2000), false)], chk .flushtag (wd 255 0xC0 255 255) q.1 (fun _ e => e.exec != 0
        && rdOp q.1 e.f 0 0xC0 1 == (0x2000, true) && ((Table.vals q.1.ops).all (fun o => !(o.core == 0 && o.writes && q.1.ctxTag o.ctx == 0))) == q.2) = true) := by
  decide +kernel

/-- A CPY in its mover: not started, and started. -/
def copying (dst src n : Nat) : State := run (.cpy cpyWord) (setU (setU (setU base 0 dst) 2 src) 4 n)
def moving (dst src n : Nat) : State := run (.copyStart 0 1) (copying dst src n)
def copyIs (s : State) (p : Copy → Bool) : Bool := match Table.find? s.copies 1 with
  | some c => c.core == 0 && c.floe == 0 && !c.savedIn && !c.waiting && s.ended c.after && (s.floe? 0).isSome && (s.ctx? c.ctx).isSome && p c
  | none => false
theorem witness_mover : copyIs (copying 0x2000 0x3000 4) (fun c => !c.started
        && (Table.vals ((copying 0x2000 0x3000 4).copiesOf 0)).all (fun d => copyBefore ((copying 0x2000 0x3000 4).coreGt 0) c d)) = true
    ∧ copyIs (moving 0x2000 0x3000 1) (fun c => c.started && c.rest == [0] && (firstFault (moving 0x2000 0x3000 1) 1 c.rest).isNone
        && c.runs (moving 0x2000 0x3000 1) && elemClear (moving 0x2000 0x3000 1) c 0
        && (match srcView (moving 0x2000 0x3000 1) c 0, dstView (moving 0x2000 0x3000 1) c 0 with
            | .ok (.mem _), .ok (.mem q) => q.pa / 4096 == (q.pa + c.desc.esize - 1) / 4096 && !q.pte.sealed && ((moving 0x2000 0x3000 1).sealMeta (q.pa / 4096)).kid == 0
            | _, _ => false)) = true := by decide +kernel
theorem witness_mover_fault : copyIs (moving 0x2000 0xFFFE 4) (fun c => c.started && c.rest == [0, 1] ++ 2 :: [3]
        && ([0, 1].all (elemClear (moving 0x2000 0xFFFE 4) c)) && (firstFault (moving 0x2000 0xFFFE 4) 1 c.rest).any (fun x => x.1 == 2 && x.2.1 == .pageNotPresent)) = true
    ∧ (∀ s ∈ [setU (moving 0x2000 0x3000 4) 20 0, (moving 0x2000 0x3000 4).modFloe 0 (fun f => { f with state := .retired })],
        copyIs { s with cores := Table.map s.cores (fun _ c => { c with tlb := c.tlb.map (fun t => { t with pte := 0x1005 }) }) } (fun c => c.started && c.rest == [] ++ 0 :: [1, 2, 3]
          && (firstFault { s with cores := Table.map s.cores (fun _ c => { c with tlb := c.tlb.map (fun t => { t with pte := 0x1005 }) }) } 1 c.rest).any (fun x => x.1 == 0 && x.2.1 != .pageNotPresent)) = true) := by
  decide +kernel
theorem witness_mover_trap : (let s := withFloe (fun f => { f with pendingTraps := [{ cause := .pagePermission, source := 1 }] })
    ((f0 s).slot (f0 s).nextSlot).isSome && (f0 s).state == .ready && handled s (env (wd 0 0 0 0) s) && ((s.ctx? 0).all (fun x => x.state != .faulted))) = true := by
  decide +kernel

/-! ### The directory -/

def withDir (d : DirEntry) : State := base.setDir 32 d
/-- A load of a line whose home is die 1, which its die has not; and the line brought in. -/
def reading (nack : Bool) : State :=
  let s := run (.ld (wd 6 4 0xFF 0)) (setPair (base.modCore 0 (fun c => { c with tlb := c.tlb.map (fun t => { t with pbase := 2 ^ 39, pte := 0x1007 + 2 ^ 103 }) })) 4 (fun _ => 0x2000))
  if nack then { s with ms := { s.ms with slots := s.ms.slots.set 0 ⟨256, some (0, 0, List.replicate 6 0x4000)⟩ } } else s
def shared : State := run (.readMsg 0 (2 ^ 31 + 32) ⟨0, 1⟩ 0) (reading false)
theorem witness_read_msg : (∀ t ∈ [false, true], (Table.find? (reading t).ops 1).any (fun o => coreDie o.core == 0 && o.ready (reading t) && o.laneRead && (match o.lanes with
      | la :: _ => !la.done && (match laneView (reading t) o la with
        | .ok (.mem p) => p.pte.inL2 && p.pa / 256 == 2 ^ 31 + 32 && p.pa % 256 / 4 == 0 && !(reading t).readReady o.core o.ctx p.pte p.pa o.size
        | _ => false)
      | [] => false)) = true
      ∧ (reading t).spanBusy (2 ^ 31 + 32) ⟨0, 1⟩ = false ∧ (dirHandle (reading t) (2 ^ 31 + 32) 0 0 0 ⟨0, 1⟩ [] 0).nack = t
      ∧ (dirHandle (reading t) (2 ^ 31 + 32) 0 0 0 ⟨0, 1⟩ [] 0).callBack = false)
    ∧ (Table.find? shared.ms.l2 (l2Key 0 (2 ^ 31 + 32))).isSome = true := by decide +kernel
def out1 (m : DirMsg) : State := withDir { DirEntry.fresh with st := 1, recs := [(1, ⟨0, 64⟩)], out := [m] }
def leased1 (s : State) : State := { s with ms := { s.ms with slice := Table.insert s.ms.slice (sliceKey 1 0x2000) (s.gt + 1) } }
def inv1 : DirMsg := .inval 1 ⟨0, 64⟩ 9
def upd1 : DirMsg := .update 1 ⟨0, 1⟩ [(0, 5)] 9
theorem witness_directory : ((out1 inv1).dirAt 32).out.find? (fun x => match x with | .inval t q _ => t == 1 && !(out1 inv1).leased 1 32 q | _ => false) = some inv1
    ∧ (leased1 (out1 inv1)).leased 1 32 ⟨0, 64⟩ = true ∧ (out1 upd1).leased 1 32 ⟨0, 1⟩ = false ∧ (leased1 (out1 upd1)).leased 1 32 ⟨0, 1⟩ = true
    ∧ ((out1 upd1).dirAt 32).out.find? (fun x => match x with | .update t _ _ _ => t == 1 | _ => false) = some upd1
    ∧ ((out1 (.recall 1 ⟨0, 1⟩)).dirAt 32).out.find? (fun x => match x with | .recall t _ => t == 1 | _ => false) = some (.recall 1 ⟨0, 1⟩)
    ∧ ((withDir { DirEntry.fresh with acks := [(1, 9)] }).dirAt 32).acks.find? (fun a => a.1 == 1) = some (1, 9)
    ∧ (∀ p ∈ [false, true], let s := if p then { shared with ms := { shared.ms with pins := [(0, 0, 2 ^ 31 + 32)] } } else shared
        (Table.find? s.ms.l2 (l2Key 0 (2 ^ 31 + 32))).isSome = true ∧ s.ms.pins.any (fun x => x.2.1 == 0 && x.2.2 == 2 ^ 31 + 32) = p)
    ∧ ((withDir { DirEntry.fresh with returns := [1] }).dirAt 32).returns.contains 1 = true := by decide +kernel
/-- A store and an atomic of one lane on a line that another die shares, under a protocol entry. -/
def asking (i : Instr) (t : List Word) (owner : Option Nat) : State :=
  let s := run i one
  { (s.setDir 32 { DirEntry.fresh with st := 1, recs := [(1, ⟨0, 64⟩)], owner := owner }) with
    ms := { (s.setDir 32 { DirEntry.fresh with st := 1, recs := [(1, ⟨0, 64⟩)], owner := owner }).ms with slots := s.ms.slots.set 0 ⟨256, some (1, 0, t)⟩ } }
theorem witness_requests : ∀ q ∈ [(Instr.st (wd 6 4 0xFF 0), 1), (.atom (wd 10 4 0xFF 0 4), 2)],
    ∀ x ∈ [(List.replicate 12 (0x4000 : Word), (none : Option Nat), true, false), (List.replicate 12 0x2000, some 2, false, true), (List.replicate 12 0x59, none, false, false)],
      opIs (asking (match q.1 with | .atom w => .atom { w with d := 6 } | i => i) x.1 x.2.1) (fun o _ =>
        let s := asking (match q.1 with | .atom w => .atom { w with d := 6 } | i => i) x.1 x.2.1
        let s1 := s.leave 1 o false
        o.left.isNone && o.msg == q.2 && o.ready s && ownFirst s 1 o.todo && arrivalFirst s 1 o.todo && o.writes && !o.granted.contains 32 && (o.todo.fault? s).isNone
          && !(o.todo.asking s 32).isEmpty && (o.todo.asking s 32).all (fun x => !s.locked x.2.pa)
          && (Table.find? s1.ops 1).any (fun o1 => (match o1.todo.asking s1 32 with
            | [(la, p)] => p.pa == 0x2000 && s1.ops.all (fun q => q.1 == 1) && !heldByLease s1 o1 p
                && (let r := dirHandle s1 32 p.pte.prot q.2 0 ⟨0, 1⟩ ((List.range 4).map (fun k => (k, BitVec.ofNat 8 (la.data / 2 ^ (8 * k))))) 1
                    r.nack == x.2.2.1 && r.callBack == x.2.2.2)
            | _ => false))) = true := by decide +kernel
theorem witness_decay : Table.find? ({ base with ms := { base.ms with predictor := [(3, 2)], homePredictor := [(3, 3)] } } : State).ms.predictor 3 = some 2 := by
  decide +kernel
theorem witness_decay_due : base.gt < base.ms.decayed + 16384 ∧ ({ base with gt := 16384 } : State).ms.decayed + 16384 ≤ ({ base with gt := 16384 } : State).gt := by
  decide +kernel


/-! ### The matrix engine -/

/-- The scratch of the instance on cores 0 and 1. -/
def scratched (n : Nat) (s : State) : State :=
  (s.modCore 0 (fun c => { c with scratch := [⟨0, 1, 2, 1, n⟩] })).modCore 1 (fun c => { c with scratch := [⟨0, 1, 0, 1, n⟩] })
def paired (p : Bool) : State := base.setMatrix 0 1 { Matrix.fresh with st := .held, holder := some 0, pair := p }
/-- u0, u2 the operands' offsets, v10 the rows of a gather. -/
def tiled (n : Nat) (p : Bool) : State := setPair (setU (setU (scratched n (paired p)) 2 0x400) 0 0x400) 10 (fun l => l)
def partnerX : Option XWord := some ⟨0, 2, 16, 0⟩
def imgIn (s : State) (r : ImageRef) : Bool := r.off % r.align == 0 && (s.scratchOf r.core 0 1).any (fun g => decide (r.off + r.size ≤ g.bytes))
def tileWords : List ((FWord → Instr) × FWord × Bool × List ImageRef) :=
  [(.mzero, wd 4 255 255 4, false, []), (.tpset, wd 0 192 255 4, false, []), (.tpscan, wd 0 192 255 4, false, [⟨0, 0x400, 8192, 1024⟩]),
   (.mld, wd 4 192 255 4, true, [⟨0, 0x400, 4096 * accBytes 0, 1024⟩, ⟨1, 0x400, 4096 * accBytes 0, 1024⟩]), (.mst, wd 4 192 255 4, false, [⟨0, 0x400, 4096 * accBytes 0, 1024⟩]),
   (.mma, wd 4 192 0xC2 4, false, [⟨0, 0x400, 8192, 1024⟩, ⟨0, 0x400, 8192, 1024⟩]),
   (.mmap, wd 4 192 0xC2 4 0 0 0 partnerX, true, [⟨0, 0x400, 8192, 1024⟩, ⟨0, 0x400, 8192, 1024⟩, ⟨1, 0x400, 8192, 1024⟩]),
   (.mmax, wd 4 192 0xC2 4, false, [⟨0, 0x400, 8192, 1024⟩, ⟨0, 0x400, 8192, 1024⟩, ⟨0, 0, 512, 64⟩]),
   (.mmag, wd 4 10 192 4, false, [⟨0, 128 * 7, 128, 1⟩, ⟨0, 0x400, 8192, 1024⟩])]
theorem witness_tile : ∀ q ∈ tileWords, chk q.1 q.2.1 (tiled 0x5000 q.2.2.1) (fun _ e => e.exec != 0 && (tiled 0x5000 q.2.2.1).heldMx e.h e.f.core == some 1
      && q.2.2.2.all (imgIn (tiled 0x5000 q.2.2.1))) = true
    ∧ chk q.1 q.2.1 (tiled 0x5000 q.2.2.1) = true ∧ chk q.1 q.2.1 base (fun _ e => e.exec != 0 && handled base e && base.heldMx e.h e.f.core == none) = true := by
  decide +kernel
theorem witness_tile_traps : chk .mmap (wd 4 192 0xC2 4 0 0 0 partnerX) (tiled 0x5000 false) (fun _ e => e.exec != 0 && handled (tiled 0x5000 false) e
        && (tiled 0x5000 false).heldMx e.h e.f.core == some 1 && !((tiled 0x5000 false).matrix 0 1).pair) = true
    ∧ chk .mst (wd 4 192 255 4) (tiled 0x4000 false) (fun _ e => e.exec != 0 && handled (tiled 0x4000 false) e && !imgIn (tiled 0x4000 false) ⟨0, 0x400, 16384, 1024⟩) = true
    ∧ chk .mst (wd 4 192 255 4) (setU (tiled 0x8000 false) 0 0x401) (fun _ e => e.exec != 0 && handled (setU (tiled 0x8000 false) 0 0x401) e && 0x401 % 1024 != 0) = true := by
  decide +kernel

def full (s : State) : State := (s.setMatrix 0 0 { Matrix.fresh with st := .held, holder := some 9 }).setMatrix 0 1 { Matrix.fresh with st := .held, holder := some 8 }
theorem witness_mctx : (∀ m ∈ [0, 1], ∀ q ∈ [(scratched 0x400 base, false), (scratched 0x400 (full base), true)], chk .mctx (wd 0 255 255 255 m) q.1 (fun _ e =>
      e.exec != 0 && (q.1.heldMx e.h e.f.core).isNone && (q.1.scratchOf 1 e.f.ctx e.f.inst).isSome && (freeMx q.1 0 (m == 1)).isNone == q.2) = true)
    ∧ chk .mctx (wd 0 255 255 255) (paired false) (fun _ e => e.exec != 0 && handled base e && ((paired false).heldMx e.h e.f.core).isSome) = true
    ∧ chk .mctx (wd 0 255 255 255 1) (withFloe (fun f => { f with core := 1 })) (fun _ e => e.exec != 0 && handled base e && e.f.core % 2 == 1) = true := by decide +kernel
theorem witness_grant : (let s := (waiting (.matrix true)).modCore 0 (fun c => { c with mxWait := [0, 7] })
      (s.core 0).mxWait == 0 :: [7] && (f0 s).state == .waiting && (f0 s).wait == some (.matrix true) && freeMx s 0 true == some 0) = true
    ∧ (let x := (base.setMatrix 0 0 { Matrix.fresh with st := .draining, holder := some 0, pair := true }).matrix 0 0
      x.st == .draining && x.ops == [] && x.holder.isSome && x.pair) = true := by decide +kernel
def mxWith (o : TileOp) (p : BitVec 16) : Matrix := { Matrix.fresh with st := .held, holder := some 0, ops := [o], preds := p }
def mmaOp : TileOp := { zeroTile with kind := .mma, b := 0x400 }
def performs (o : TileOp) (p : BitVec 16) : Bool :=
  let s := base.setMatrix 0 0 (mxWith o p)
  let x := s.matrix 0 0
  mxTurn s 0 0 && (mxReady s 0 0).find? (fun q => q.stream == o.stream) == some o && !x.pair && (base.floe? o.floe).any (fun f => f.tag == o.tag)
    && (o.kind != .mma || o.y == 0 && (mulFmt o.kind o.m).acc == .fp32 && ((scratched 0x400 base).scratchOf 0 o.ctx o.inst).isSome)
    && x.preds.getLsbD 15 == (p != 0)
theorem witness_perform : ([zeroTile, { zeroTile with kind := .tpset true, val := 5, b := 15 }, { zeroTile with kind := .tpset false, val := 0, b := 15 },
    { zeroTile with dead := true }, { zeroTile with kind := .mld }, { zeroTile with kind := .mst }, mmaOp, { mmaOp with kind := .mmax }, { mmaOp with kind := .mmag }].all (fun o => performs o 0 && performs o 0xFFFF)) = true := by
  decide +kernel

/-! ### Sparse trees -/

/-- An empty tree at 0x4000 of 16 root entries, with room for 4 nodes and 2 leaves of one FP32 channel, and its descriptor at 0x2000. -/
def treeBytes : List Byte := bytesOf 64 (0x4000 + 0x8000 * 2 ^ 64 + 4 * 2 ^ 160 + 2 ^ 168)
def treeMem : Table Byte :=
  [(0x2001, 0x40), (0x2009, 0x80), (0x2014, 4), (0x2015, 1), (0x4004, 4), (0x400C, 2)] ++ (List.range 12).map (fun i => (0x4010 + i, 0xFF))
    ++ (List.range 256).map (fun i => (0x4040 + i, 0xFF))
def planted (s : State) : State := { s with ms := { s.ms with mem := treeMem } }
def bound (s : State) : State := (planted s).modCore 0 (fun c => { c with slots := [(0, ⟨treeBytes, 0x2000, 0, false, 0⟩)] })
def treeWords : List FWord := [wd 4 192 192 4, wd 4 4 4 4, wd 4 192 192 255, wd 4 192 255 255, wd 192 255 255 255 2]
theorem witness_tree_issue : ∀ p ∈ treeInstrs, (treeWords.any (fun w => chk p.1 w (bound base) (fun _ e => e.exec != 0
      && (boundTree (bound base) e.f.core e.f.ctx 0).any (fun x => !p.2.hasCh || x.2.ch.getD (w.m.toNat % 8) 0 != 0)))) = true
    ∧ (treeWords.any (fun w => chk p.1 w base (fun _ e => e.exec != 0 && handled base e && (boundTree base e.f.core e.f.ctx 0).isNone))) = true := by decide +kernel
theorem witness_tree_channel : chk .twld (wd 12 192 192 4 7) (bound base) (fun _ e => e.exec != 0 && handled (bound base) e
    && (boundTree (bound base) 0 0 0).any (fun x => x.2.ch.getD 7 0 == 0)) = true := by decide +kernel
def readAt (s : State) (e : Env) (p : List Byte → Bool) : Bool := match readBlock s e 0x2000 64 64 with | .ok bs => p bs | .error _ => false
theorem witness_bind : (∀ q ∈ [(planted base, true), (base, false)], chk .twbind (wd 255 192 255 255) q.1 (fun _ e => e.exec != 0 && handled q.1 e
      && rdOp q.1 e.f 0 192 2 == (0x2000, true) && readAt q.1 e (fun bs => (parseTree bs).isSome == q.2)) = true)
    ∧ chk .twinv (wd 255 255 255 255 1) base = true ∧ chk .twinv (wd 255 255 255 255) base = true := by decide +kernel
/-- A walk and an insertion in flight, one lane. -/
def walking (i : Instr) : State := run i (setPair (bound one) 10 (fun _ => 8))
theorem witness_walk : opIs (walking (.twlk (wd 12 10 10 10))) (fun o _ => o.kind == .walker && !o.isSt && o.ready (walking (.twlk (wd 12 10 10 10))) && (match o.lanes with
      | [la] => (match readerLane (walking (.twlk (wd 12 10 10 10))) 1 o la with | .ok (ws, _) => ws.all (fun l => l.length == o.d.length) | .error _ => false)
      | _ => false)) = true
    ∧ (Table.find? (walking (.tadel (wd 12 10 10 10))).ops 1).any (fun o => o.kind == .alloc && o.ready (walking (.tadel (wd 12 10 10 10))) && (match o.lanes with
      | la :: _ => (match allocLane (walking (.tadel (wd 12 10 10 10))) o la with | .ok _ => true | .error _ => false)
      | _ => false)) = true := by decide +kernel


/-- An instance of two floes of kernel 1, which binds pack 3 to colour 2 and may run on core 1. -/
def inst1 : Inst :=
  { kernel := 1, prio := 3, spread := false, floes := 2, args := [7, 9], wait := none, doneEv := 0, tree := 0x2000, treeDesc := [], leaves := [], perLeaf := 1,
    enumerated := true, die := 0, src := 0, born := 0, taken := none, placed := 0, lastCore := none, anchors := [], barPart := some 0, gone := [], queue := none,
    first := 0, batch := 0, js := [], savedScratch := [], killed := false }
def kernel1 : Kernel :=
  { Kernel.empty with
    st := .placed, prev := .placed, regs := 16, wregs := 16, firn := 0x400, spill := 64, floes := 2, place := [(1, 0x800)],
    packs := [⟨3, false, 0, true, 2, 0, 2, 1, []⟩] }
def colour2 : Colour :=
  { ctx := 0, inst := 1, pack := 3, st := .idle, phase := false, any := false, arrived := [], live := [0], sent := [], held := [], first := none, last := none,
    counted := 0, byExit := false, order := 0, spread := [] }
/-- Floe 0 of that instance. -/
def member (s : State) (i : Inst) (c : Colour) : State :=
  { s with insts := [(instKey 0 1, i)], kernels := [(kernKey 0 1, kernel1)], colours := [(colKey 0 2, c)] }
def enumerating : State := member (planted base) { inst1 with enumerated := false } colour2
theorem witness_enumeration : (match readVirt enumerating (engineCore enumerating 0 0) 0 (coreSecure enumerating (engineCore enumerating 0 0)) 0x2000 64 with
    | .ok bs => (match parseTree bs with
      | some d => (match enumTree ⟨enumerating, engineCore enumerating 0 0, 0, coreSecure enumerating (engineCore enumerating 0 0), []⟩ d with | .ok _ => true | .error _ => false)
      | none => false)
    | .error _ => false) = true ∧ enumerating.ctxPlaces 0 = true ∧ (enumerating.inst? 0 1).map (fun i => (i.enumerated, i.killed, i.wait)) = some (false, false, none) := by
  decide +kernel

/-! ### Events, queues, launches -/

theorem witness_event_instrs : (∀ d ∈ [0xC0, 0xFF], chk .evclr (wd d 0xC0 255 255) base (fun _ e => e.exec != 0 && (base.ctx? e.f.ctx).isSome
        && eventName base e (wd d 0xC0 255 255) == (0x2000, true)) = true)
    ∧ (∀ q ∈ [(.evsig, wd 255 0xC0 0xC0 255, 0x2000), (.evwait, wd 0xC0 0xC0 0xC0 255, 0x2000), (.evsig, wd 255 0xC1 0xC0 255, 0), (.evwait, wd 0xC0 0xC1 0xC0 255, 0),
        (.evclr, wd 0xC0 0xC1 255 255, 0)], chk q.1 q.2.1 base (fun _ e => e.exec != 0 && eventName base e q.2.1 == (q.2.2, true)
          && (q.2.1.b == 255 || eventAmount base e q.2.1 == (0x2000, true))) = true) := by decide +kernel
def eventful (o : EvOp) (n : Nat) (ws : List Waiter) : State :=
  { waiting (.event 5 7 0xC8 0xFF) with ctxs := [(0, { ctx with evOps := [o] })], events := [(evKey 0 5, ⟨n, ws⟩)] }
theorem witness_events : (eventful ⟨5, 0, 7, none, none, []⟩ 0 [.floe 0 7]).evHead 0 0 = some ⟨5, 0, 7, none, none, []⟩
    ∧ ((eventful ⟨5, 0, 7, none, none, []⟩ 0 [.floe 0 7]).event 0 5).waiters = [.floe 0 7]
    ∧ (∀ n ∈ [6, 7], (eventful ⟨5, 1, 7, none, some 0, []⟩ n []).evHead 0 1 = some ⟨5, 1, 7, none, some 0, []⟩
        ∧ (eventful ⟨5, 1, 7, none, some 0, []⟩ n []).recordFree 0 5 = true ∧ ((eventful ⟨5, 1, 7, none, some 0, []⟩ n []).event 0 5).count = n)
    ∧ (eventful ⟨5, 2, 0, some 1, some 0, []⟩ 3 []).evHead 0 2 = some ⟨5, 2, 0, some 1, some 0, []⟩ := by decide +kernel

/-- Every word of a record valid in v4, and an address of queue 5 of partition 0 in u0. -/
def recording : State := setU ((List.range 8).foldl (fun t l => setV t 4 (8 + l) l true) base) 0 5
def qref : QRef := ⟨queueKey 0 4, 0, 0x5000, 2, false, [0x8005]⟩
def nodal : State := { recording with insts := [(instKey 0 1, { inst1 with queue := some qref })] }
theorem witness_enq : (∀ d ∈ [0xC8, 0xFF], chk .enq (wd d 4 0xC0 255) recording (fun _ e => e.exec != 0 && (recording.ctx? e.f.ctx).isSome
        && (enqRecord recording e (wd d 4 0xC0 255)).2 && rdOp recording e.f 0 0xC0 2 == (5, true)) = true)
    ∧ chk .enq (wd 0xC8 4 0xC0 255) (setU recording 0 0x2000) (fun _ e => (enqRecord (setU recording 0 0x2000) e (wd 0xC8 4 0xC0 255)).2
        && rdOp (setU recording 0 0x2000) e.f 0 0xC0 2 == (0x2000, true) && field 0x2000 12 4 == 2) = true
    ∧ chk .nodeout (wd 0xC8 4 255 0) nodal (fun _ e => e.exec != 0 && (enqRecord nodal e (wd 0xC8 4 255 0)).2
        && (nodal.inst? e.f.ctx e.f.inst).any (fun i => i.queue.any (fun q => (q.outs.getD 0 0).testBit 15))) = true
    ∧ chk .nodeout (wd 0xC8 4 255 0) recording (fun _ e => (enqRecord recording e (wd 0xC8 4 255 0)).2 && (recording.inst? e.f.ctx e.f.inst).isNone) = true
    ∧ chk .nodeout (wd 0xC8 4 255 0) base (fun _ e => e.exec != 0 && !(enqRecord base e (wd 0xC8 4 255 0)).2) = true
    ∧ chk .enq (wd 0xC8 4 0xC0 255) base (fun _ e => e.exec != 0 && !(enqRecord base e (wd 0xC8 4 0xC0 255)).2) = true
    ∧ chk .recv (wd 10 4 4 255) nodal (fun _ e => e.exec != 0) = true ∧ chk .recv (wd 0xC8 255 255 255 1) nodal (fun _ e => e.exec != 0) = true := by decide +kernel

/-- Queue 5 of partition 0 with a record waiting or none, a ring of `cap` slots at 0x5000. -/
def queue5 (cap n cons : Nat) : Queue :=
  { Queue.fresh with
    enabled := true, base := 0x5000, cap := cap, cons := cons, kidx := 1, timeout := 10, ncfg := if cons = 1 then 0x2000 else 0x6000,
    outs := [0x8006, 0, 0, 0], tail := BitVec.ofNat 32 n, recs := List.replicate n ⟨0, ⟨0, 0, 0⟩, false⟩ }
def queued (q : Queue) (rs : List EnqReq) : State :=
  { (member (planted base) inst1 colour2).modPart 0 (fun p => { p with qtBase := 0x7000 }) with queues := [(5, q), (6, queue5 1 0 0)], enqs := rs, insts := [] }
def rec5 (bad : Bool) : EnqReq := ⟨5, List.replicate 64 0, 0, false, 0, 0, none, some 0, [], bad, none, false⟩
theorem witness_accept : (∀ q ∈ [(1, 0, true, Verdict.refuse 5), (1, 1, false, .full), (1, 0, false, .accept)],
      nextEnq (queued (queue5 q.1 q.2.1 0) [rec5 q.2.2.1]) 0 [rec5 q.2.2.1] [] = some (rec5 q.2.2.1) ∧ judge (queued (queue5 q.1 q.2.1 0) [rec5 q.2.2.1]) (rec5 q.2.2.1) = q.2.2.2)
    ∧ (State.ringWrite (queued (queue5 1 0 0) []) (rec5 false) (queue5 1 0 0)).isSome = true := by decide +kernel
theorem witness_batch : (let s := queued (queue5 2 1 0) []
    (s.queue? (queueKey 0 5)).any (fun q => q.recs[(q.launch - q.head).toNat]? == some ⟨0, ⟨0, 0, 0⟩, false⟩ && q.enabled && q.timeout != 0 && q.condition s
      && decide (q.insts < q.maxInst) && packsFit s (s.kernel 0 1) (s.kernel 0 1).floes && (s.kernel 0 1).st == .placed && (s.ctx? 0).any (fun x => x.state == .running)
      && decide ((s.instsOf 0).length < 65536))) = true := by decide +kernel
def rayRecord : State := let s := queued (queue5 2 1 1) []; { s with ms := { s.ms with mem := s.ms.mem ++ [(0x5024, 8)] } }
theorem witness_walker_node : (match nodeRecord rayRecord 0 5 (queue5 2 1 1), readVirt rayRecord (partCore 0) 0 (queueSecure rayRecord 5) 0x2000 64 with
    | some bs, .ok db => (match parseTree db with
      | some d => (match hitRecord ⟨rayRecord, partCore 0, 0, queueSecure rayRecord 5, []⟩ d bs with
        | .ok hit => let r : EnqReq := ⟨6, hit, 1, queueSecure rayRecord 5, 0, Config.deviceId.toNat, none, some 0, [], false, none, false⟩
            judge rayRecord r == .accept && (rayRecord.ringWrite r (queue5 1 0 0)).isSome
        | .error _ => false)
      | none => false)
    | _, _ => false) = true := by decide +kernel
/-- A sample of key `k` at pixel (x, 63), for an image of 64 by 64. -/
def sampled (k x : Nat) : State :=
  let s := queued (queue5 2 1 2) []
  withBytes (withBytes { s with ms := { s.ms with mem := [] } } 0x5000 (bytesOf 8 (k + x * 2 ^ 32))) 0x6000
    (bytesOf 17 (0x8000 + 64 * 2 ^ 64 + 64 * 2 ^ 80 + 1024 * 2 ^ 96 + 2 ^ 128))
def sampleIs (s : State) (p : Target → Sample → Bool) : Bool :=
  match nodeRecord s 0 5 (queue5 2 1 2), readVirt s (partCore 0) 0 (queueSecure s 5) 0x6000 64 with
  | some bs, .ok db => (match parseTarget (natOf db) with | some g => p g (sampleOf g bs) | none => false)
  | _, _ => false
theorem witness_blender : sampleIs (sampled 0 64) (fun g smp => decide (g.width ≤ smp.x)) = true
    ∧ sampleIs (sampled 4096 63) (fun g smp => decide (smp.x < g.width ∧ smp.y < g.height ∧ 4096 ≤ smp.key ∧ smp.key < 2 ^ 31)) = true
    ∧ sampleIs (sampled 4095 63) (fun g smp => decide (smp.x < g.width ∧ smp.y < g.height ∧ 0 < smp.key ∧ smp.key < 4096)) = true
    ∧ sampleIs (sampled 0 0) (fun g smp => decide (smp.x < g.width ∧ smp.y < g.height) && smp.key == 0 && g.nanpol != 2
        && (match readVirt (sampled 0 0) (partCore 0) 0 false g.image 16 with
          | .ok _ => (match writeVirt (sampled 0 0) (partCore 0) 0 false g.image (List.replicate 16 0) with | .ok _ => true | .error _ => false)
          | .error _ => false)) = true := by decide +kernel

theorem witness_launch : ∀ q ∈ [(base, true), (withBytes base 0x2001 [0x80], false)], ∀ d ∈ [0xC0, 0xFF], chk .launch (wd d 0xC0 255 255) q.1 (fun _ e => e.exec != 0 && handled q.1 e
    && rdOp q.1 e.f 0 0xC0 2 == (0x2000, true) && readAt q.1 e (fun bs => launchOk (q.1.kernel 0 (field (natOf bs) 0 12)) (natOf bs) == q.2)) = true := by decide +kernel
theorem witness_take : (let s := member base inst1 colour2
    (engineWaiting s 0) == [(instKey 0 1, inst1)] && nextSource ((Table.getD s.engines Engine.fresh 0).last.getD 3 0) [0] == some 0) = true := by decide +kernel
def takenState : State := member base { inst1 with taken := some 0, barPart := none } colour2
theorem witness_placement : (let s := { takenState with colours := [] }
    engineQueue s 0 == (instKey 0 1, { inst1 with taken := some 0, barPart := none }) :: [] && !restoreFirst s 0 3
      && (firstSeat s 0 1 (s.kernel 0 1) (nextCores s 0 { inst1 with taken := some 0, barPart := none } (s.kernel 0 1))).any (fun p => p.1 == 1)
      && coloursFree s (s.kernel 0 1) (partOf 1)) = true := by decide +kernel
def floeN (st : FState) (n : Nat) : State := (member base { inst1 with placed := n } colour2).modFloe 0 (fun f => { f with state := st, num := n })
theorem witness_forming : (f0 (floeN .forming 0)).state = .forming ∧ (f0 base).state ≠ .forming
    ∧ issueChoice (floeN .ready 0) 0 0 [] = some (0, false)
    ∧ issueChoice { floeN .ready 1 with floes := (floeN .ready 1).floes ++ [(1, { f0 (floeN .forming 0) with num := 0 })] } 0 0 [] = none := by decide +kernel
theorem witness_done : instDone ((member base { inst1 with placed := 2 } colour2).modFloe 0 (fun f => { f with state := .retired })) 0 1 { inst1 with placed := 2 } = true
    ∧ instDone (member base { inst1 with placed := 2 } colour2) 0 1 { inst1 with placed := 2 } = false := by decide +kernel

/-! ### Barriers -/

def barred (pend : Bool) : State := (member base inst1 colour2).modFloe 0 (fun f => { f with barPending := if pend then [(2, true)] else [] })
theorem witness_packq : ∀ m ∈ [0, 1, 2], chk .packq (wd 10 255 255 3 m) (barred false) (fun _ e => e.exec != 0) = true := by decide +kernel
theorem witness_arrive : ∀ i ∈ [Instr.bara, .bars], ∀ m ∈ [0, 1], ∀ p ∈ [true, false], chk i (wd 255 255 255 2 (if i (wd 0 0 0 0) = .bara (wd 0 0 0 0) then m else 0)) (barred p)
    (fun _ e => e.exec != 0 && (boundPack (barred p) e.f 2).isSome && (barred p).barPart e.f == some 0 && !(barred p).hasLeft e.f.ctx e.f.inst 3 e.f.num
      && Table.getD e.f.barPending false 2 == p) = true := by decide +kernel
theorem witness_bar : ∀ p ∈ [true, false], chk .barw (wd 255 255 255 2) (barred p) (fun _ e => e.exec != 0 && colourOk (barred p) e.f 2 false && Table.getD e.f.barPending false 2 == p) = true
    ∧ chk .bart (wd 10 255 255 2) (barred p) (fun _ e => e.exec != 0 && colourOk (barred p) e.f 2 false) = true := by decide +kernel
theorem witness_bar_traps : ∀ i ∈ [Instr.bara, .bars, .barw], chk i (wd 255 255 255 3) (barred false) (fun _ e => e.exec != 0 && handled base e
      && !colourOk (barred false) e.f 3 true && !colourOk (barred false) e.f 3 false) = true
    ∧ chk .bart (wd 10 255 255 3) (barred false) (fun _ e => e.exec != 0 && handled base e && !colourOk (barred false) e.f 3 false) = true := by decide +kernel
/-- Floe 0's arrival in the phase of a tag, from cluster 4, which reached the tree at 9. -/
def arrival (tag : Bool) : Arrival := ⟨0, 4, tag, true, false, false, 0, [], some 9⟩
theorem witness_barrier_tree : (∀ q ∈ [(ColState.idle, false), (.gathering, false), (.releasing, true)],
      ({ colour2 with st := q.1, sent := [{ arrival q.2 with cluster := 5, num := 1 }, arrival q.2, arrival (!q.2)] } : Colour).nextSent base = some (arrival q.2))
    ∧ (let c := { colour2 with st := .releasing, spread := [0] }
       (member base inst1 c).memberOf 0 1 0 = some 0 ∧ (member base inst1 c).memberOf 0 1 1 = none) := by decide +kernel
theorem witness_clock : (940 + 20 ≤ 1100 ∧ 800 ≤ Table.getD [(5, 800)] 940 5 ∧ 1080 + 20 ≤ 1100) ∧ (1100 < 1081 + 20 ∧ Table.getD [(5, 780)] 940 5 < 800)
    ∧ (base.life.throt = false ∧ ¬ (base.life.plimit.toNat - 100 < 2 * base.life.pwr.toNat)) := by decide +kernel


/-! ### The links -/

/-- A device 7 that port 0 reaches, whatever this device's number is. -/
def linked (s : State) : State :=
  { s with net := { s.net with
      links := [(16, { Link.fresh with st := .active, units := 8 })], routes := [(7, BitVec.ofNat 64 (2 ^ 20 + 31 * 2 ^ 5 + 31 * 2 ^ 10 + 31 * 2 ^ 15))] } }
theorem witness_link_access : (∀ q ∈ [(Instr.rld, wd 10 192 192 4), (.rwr, wd 6 4 4 4), (.ratom, wd 6 192 192 4 4)], chk q.1 q.2 (acState 254) (fun _ e => e.exec != 0
    && decide ((e.f.ac 4).out < 255)) = true) := by decide +kernel
theorem witness_msg : (∀ q ∈ [(setU (setU (linked base) 0 (7 * 2 ^ 20 + 5)) 1 0, true), (setU (setU base 0 (7 * 2 ^ 20 + 11 * 2 ^ 16)) 1 0, false)],
    chk .msg (wd 255 0xC0 0xC4 255) q.1 (fun _ e => e.exec != 0 && handled q.1 e && (rdOp q.1 e.f 0 0xC0 2).2 && (rdOp q.1 e.f 0 0xC4 1) == (4, true)
      && (rdOp q.1 e.f 0 0xC0 2).1 / 2 ^ 39 == 0 && decide (field (rdOp q.1 e.f 0 0xC0 2).1 16 4 < 12) && field (rdOp q.1 e.f 0 0xC0 2).1 20 19 == 7
      && reachable q.1 7 == q.2) = true) := by decide +kernel
/-- A halo descriptor at 0x2000: leaf 1 of the bound tree to leaf 0 at 0x9000 of device 7, channel 0, and its event. -/
def haloBytes : List Byte :=
  bytesOf 64 (1 + 5 * 2 ^ 16 + 0x9000 * 2 ^ 64 + 2 ^ 128) ++ bytesOf 16 (1 + 7 * 2 ^ 64 + 2 ^ 88)
def haloState : State := linked (withBytes (bound base) 0x3000 haloBytes)
theorem witness_halo : chk .halo (wd 255 0xC2 255 255) haloState (fun _ e => e.exec != 0 && rdOp haloState e.f 0 0xC2 2 == (0x3000, true)
    && (match Table.find? (haloState.core e.f.core).slots 0 with
      | some sl => (match parseTree sl.desc, readBlock haloState e 0x3000 64 64, readBlock haloState e 0x3000 80 64, readBlock haloState e 0x400C 4 4 with
        | some d, .ok hd, .ok bs, .ok lc => field (natOf hd) 0 16 == 1 && haloOk d (natOf sl.desc) (natOf lc) (natOf bs)
            && (haloDests (natOf bs)).all (fun k => reachable haloState (k / 4))
        | _, _, _, _ => false)
      | none => false)) = true := by decide +kernel

/-- A message for this device is taken: the checks that do not depend on the device's number. -/
def takesBut (s : State) (c : Nat) (m : Msg) : Bool :=
  s.life.powered && m.cls == c && Msg.valid { m with dstDev := 0 } && (Table.getD s.net.seqIn [] (Msg.key m)).isEmpty
def toMe (m : Msg) : Msg := { m with dstDev := Config.deviceId.toNat }
theorem takes_me {s : State} {c : Nat} {m : Msg} (h : takesBut s c m = true) : s.takes c (toMe m) = true := by
  have := Config.deviceId.isLt
  simp only [takesBut, Msg.valid, Bool.and_eq_true, decide_eq_true_eq, beq_iff_eq] at h
  obtain ⟨⟨⟨hp, rfl⟩, hv⟩, hs⟩ := h
  simp only [State.takes, toMe, Msg.valid, Msg.key, Bool.and_eq_true, beq_self_eq_true] at hv hs ⊢
  simp_all
def fromAfar (cls op addr : Nat) (payload : List Byte) : Msg := ⟨cls, op, false, false, 7, 0, 0, 3, addr, 9, payload⟩
def refusing (m : Msg) (s : State) : Bool := !s.life.powered || !Msg.valid m
theorem witness_not_taken : base.takes 0 (fromAfar 1 0 0 []) = false := by decide +kernel
theorem witness_req : ∀ op ∈ [0, 1, 8, 19], (linked base).takes 0 (toMe (fromAfar 0 op 0x2000 (bytesOf 32 5 ++ bytesOf 8 4))) = true
    ∧ engineClear (linked base) ⟨0x2000, homePte (linked base) 0x2000⟩ 4 = true ∧ homeFault (linked base) false true 0x2000 4 = none
    ∧ ((linked base).sealMeta 2).kid = 0 ∧ ((linked base).dirAt 32).slot < 8 :=
  fun op h => ⟨takes_me (by revert op; decide +kernel), by decide +kernel, by decide +kernel, by decide +kernel, by decide +kernel⟩
theorem witness_signals : base.ownerOf 0 = some 0 ∧ (base.ctx? 0).isSome = true ∧ base.takes 0 (toMe (fromAfar 0 2 5 [0, 1])) = true
    ∧ base.takes 3 (toMe (fromAfar 3 0 5 [0, 1])) = true ∧ base.takes 4 (toMe (fromAfar 4 1 5 [])) = true :=
  ⟨by decide +kernel, by decide +kernel, takes_me (by decide +kernel), takes_me (by decide +kernel), takes_me (by decide +kernel)⟩
theorem witness_records_from_afar : base.takes 2 (toMe (fromAfar 2 0 5 (List.replicate 65 0))) = true ∧ base.takes 5 (toMe (fromAfar 5 0 5 [0, 1])) = true
    ∧ base.takes 4 (toMe (fromAfar 4 0 0 (bytesOf 8 0x2000 ++ [7]))) = true
    ∧ (match writeVirt (base.noteSeq (fromAfar 4 0 0 (bytesOf 8 0x2000 ++ [7]))) (partCore 0) 0 (portSecure base 7) 0x2000 [7] with | .ok _ => true | .error _ => false) = true
    ∧ (base.life.mbTail - base.life.mbHead).toNat < 256 :=
  ⟨takes_me (by decide +kernel), takes_me (by decide +kernel), takes_me (by decide +kernel), by decide +kernel, by decide +kernel⟩
/-- A request of operation 1 to device 7, not answered. -/
def asked (k : OpKind) (gt : Nat) : State :=
  let s := { loading with ops := Table.map loading.ops (fun _ o => { o with kind := k }), gt := gt }
  { s with net := { s.net with reqs := [⟨1, 0, { fromAfar 0 0 0x2000 [] with srcDev := 0, dstDev := 7 }, 0, 0⟩] } }
def reply : Msg := fromAfar 1 0 0 (bytesOf 8 9 ++ bytesOf 4 3 ++ bytesOf 4 0 ++ bytesOf 8 0 ++ bytesOf 16 5)
theorem witness_reply : ∀ k ∈ [OpKind.msg, .load], (asked k 0).takes 1 (toMe reply) = true
    ∧ (match (asked k 0).net.reqs.find? (fun r => r.msg.dstDev == 7 && r.msg.seq == 9 && r.msg.stream == 3 && r.msg.cls == 0) with
       | some r => (asked k 0).requestSent r && (Table.find? (asked k 0).ops r.op).any (fun o => !o.failed) | none => false) = true :=
  fun k h => ⟨takes_me (by revert k; decide +kernel), by revert k; decide +kernel⟩
theorem witness_unanswered : (∀ q ∈ [(2000000, true), (1999999, false)],
    ((asked .load q.1).net.reqs.any (fun r => r.op == 1 && decide (r.sentGt + 2000000 ≤ (asked .load q.1).gt) && (asked .load q.1).requestSent r)) = q.2) := by decide +kernel
def colling : State :=
  let s := waiting (.coll 0 1 (some 0) 10 2 false)
  let n := { s.net with groups := [(1, BitVec.ofNat 4096 (2 + 2 ^ 512 * (7 + 2 ^ 19) + 2 ^ 544 * 8))] }
  { s with
    net := n
    colls := [⟨0, 1, 0, 0, 2, 0, 2, [(5, true), (1, false)]⟩, ⟨0, 1, 0, 1, 2, 0, 2, [(6, true), (1, true)]⟩] }
theorem witness_round : groupOf colling 0 1 = some [(7, 1), (8, 0)] ∧ collWaiter colling 0 1 0 = some (0, f0 colling)
    ∧ (∀ k ∈ [0, 1], colling.colls.find? (fun c => c.part == 0 && c.group == 1 && c.round == 0 && c.member == k) = colling.colls[k]?)
    ∧ (f0 colling).dmr = .off ∧ codeRegs 10 1 = [⟨false, 10⟩] := by decide +kernel

theorem witness_links : linkValid 0 = true ∧ linkValid 48 = true ∧ linkValid 256 = true
    ∧ (∀ l ∈ [LinkState.active, .marginal, .repaired, .degraded], l.canRetrain = true ∧ l.inUse = true)
    ∧ ((linked base).link 16).st = .active ∧ (base.link 0).st = .untrained := by decide +kernel
def sampledLink (hm : BitVec 6) : State := { base with net := { base.net with links := [(0, { Link.fresh with st := .active, hth := 5, lanes := [(hm, 0, 0)] })] } }
theorem witness_margins : laneLow ((sampledLink 4).link 0) 4 0 = true ∧ laneLow ((sampledLink 5).link 0) 5 0 = false ∧ ((sampledLink 4).link 0).lanes.length = 1
    ∧ ((sampledLink 4).link 0).auto = false := by decide +kernel
def marginalLink : State := { base with net := { base.net with links := [(0, { Link.fresh with st := .marginal, auto := true })] } }
theorem witness_auto : (marginalLink.link 0).st = .marginal ∧ (marginalLink.link 0).auto = true ∧ (marginalLink.link 0).lanes = [] := by decide +kernel
def refreshing : State := { base with net := { base.net with links := [(256, { Link.fresh with st := .active, pend := true })] } }
theorem witness_refresh : (refreshing.link 256).st.canRetrain = true ∧ (refreshing.link 256).pend = true := by decide +kernel
theorem witness_isolation : 3 ∉ base.net.cut ∧ 3 ∉ base.net.isolated ∧ (base.ctx? 0).isSome = true ∧ (f0 base).onDie 0 = true := by decide +kernel

/-! ### System registers and the page -/

theorem witness_rdsr : ∀ n ∈ (List.range 64).filter srKnown, chk .rdsr (wd 10 255 255 n) base (fun _ e => e.exec != 0) = true := by decide +kernel
theorem witness_wrsr : chk .wrsr (wd 255 0xC0 255 0) base (fun _ e => e.exec != 0 && rdOp base e.f 0 0xC0 1 == (0x2000, true)) = true
    ∧ (∀ n ∈ [0x04, 0x10, 0x11, 0x12, 0x13, 0x14, 0x16, 0x1A, 0x21, 0x23, 0x25, 0x28, 0x2B], chk .wrsr (wd 255 0xC1 255 n) priv (fun _ e => e.exec != 0 && priv.isPriv e.f
        && rdOp priv e.f 0 0xC1 1 == (0, true)
        && (n == 4 || (if n < 0x20 then writePart priv 0 n (if srIsLo n then 2 ^ 32 * readSr priv e.h e.f (n + 1) else 0)
            else writeCtx priv 0 n (if srIsLo n then 2 ^ 32 * readSr priv e.h e.f (n + 1) else 0)).isSome)) = true)
    ∧ chk .wrsr (wd 255 0xC4 255 0x27) priv (fun _ e => rdOp priv e.f 0 0xC4 1 == (4, true) && (writeCtx priv 0 0x27 4).isSome) = true
    ∧ (∀ n ∈ [0x05, 0x15, 0x17, 0x24, 0x26, 0x2C], chk .wrsr (wd 255 0xC1 255 n) priv (fun _ e => e.exec != 0) = true) := by decide +kernel
theorem witness_wrsr_traps : chk .wrsr (wd 255 0xC0 255 0x20) base (fun _ e => e.exec != 0 && handled base e && !srWritable 0x20) = true
    ∧ chk .wrsr (wd 255 0xC6 255 0x27) priv (fun _ e => handled priv e && rdOp priv e.f 0 0xC6 1 == (1, true) && srWritable 0x27) = true
    ∧ chk .wrsr (wd 255 0xC4 255 0x10) base (fun _ e => handled base e && srWritable 0x10 && !base.isPriv e.f) = true := by decide +kernel
theorem witness_halt : chk .halt (wd 255 255 255 255) priv (fun _ e => e.exec != 0 && e.f.resident) = true ∧ Table.sorted priv.floes = true := by decide +kernel
theorem witness_tlbinv : (∀ m ∈ [0, 1, 2], ∀ q ∈ [(priv, true), (flushing (storing 0x2000), false)], chk .tlbinv (wd 255 (if m = 1 then 255 else 0xC0) 255 255 m 2) q.1 (fun _ e =>
        e.exec != 0 && (m == 1 || (rdOp q.1 e.f 0 0xC0 (if m = 2 then 1 else 2)) == (0x2000, true)) && q.1.ended (q.1.storesOf e.h) == q.2) = true) := by decide +kernel
theorem witness_lease : (∀ b ∈ [0xC4, 0xCA], chk .ptload (wd 0xC0 255 b 4 1) priv (fun sh e => e.exec != 0 && sh.d.writes.length == 1 && (rdOp priv e.f 0 b 1).2) = true) := by decide +kernel
theorem witness_table : chk .ptload (wd 0xC0 192 255 4) priv (fun sh e => sh.d.writes.length == 1 && rdOp priv e.f 0 192 2 == (0x2000, true)
        && (match readBlock priv e 0x2000 256 256 with | .ok _ => true | .error _ => false)) = true := by decide +kernel
theorem witness_ctxcmd : chk .ctxcmd (wd 0xC0 192 255 4) priv (fun _ e => e.exec != 0 && rdOp priv e.f 0 192 2 == (0x2000, true)
        && (match readBlock priv e 0x2000 64 64 with | .ok bs => field (natOf bs) 256 256 == 0 | .error _ => false)) = true := by decide +kernel
theorem witness_mig : chk .tlbinv (wd 0xC8 0xC0 0xC2 255 3 5) priv (fun sh e => sh.d.writes.length == 1 && (rdOp priv e.f 0 0xC0 2).2 && (rdOp priv e.f 0 0xC2 2).2) = true := by decide +kernel


/-! ### Commands -/

/-- Context 0 holds one command of operands `args`; and the machine once it is taken. -/
def words (args : List Nat) : List Dword := args.map (BitVec.ofNat 64)
def cmdAt (code : Nat) (args : List Nat) (s : State) : State := s.modCtx 0 (fun c => { c with cmds := [⟨code, words args, ⟨0, 0, 0⟩, [], none⟩] })
def taken1 (s : State) : State := s.modCtx 0 (fun c => { c with cmds := [] })
def ctx0 (s : State) : Ctx := (s.ctx? 0).getD ctx
/-- A queued command comes to be performed, and a condition on the context, the operands and the state it is performed in. -/
def path (code : Nat) (args : List Nat) (s : State) (p : Ctx → List Dword → State → Bool) : Bool :=
  let s1 := cmdAt code args s
  decide (s1.ctx? 0 = some (ctx0 s1)) && (ctx0 s1).state != .destroyed && !(ctx0 s1).busy
    && decide ((ctx0 s1).cmds = [⟨code, words args, ⟨0, 0, 0⟩, [], none⟩]) && p (ctx0 s1) (words args) (taken1 s1)
theorem path_taken {code : Nat} {args : List Nat} {s : State} {p : Ctx → List Dword → State → Bool} (h : path code args s p = true) :
    CmdPath (.queued 0) code (cmdAt code args s) 0 (ctx0 (cmdAt code args s)) (words args) ⟨0, 0, 0⟩ none (taken1 (cmdAt code args s))
      ∧ p (ctx0 (cmdAt code args s)) (words args) (taken1 (cmdAt code args s)) = true := by
  simp only [path, Bool.and_eq_true, decide_eq_true_eq, bne_iff_ne, Bool.not_eq_true'] at h
  obtain ⟨⟨⟨⟨h1, h2⟩, h3⟩, h4⟩, h5⟩ := h
  exact ⟨⟨h1, h2, rfl, h3, _, [], h4, rfl, rfl, rfl, rfl, rfl, rfl⟩, h5⟩

def inState (st : CtxState) : State := base.modCtx 0 (fun c => { c with state := st })
/-- Kernel 5 of context 0, in a state. -/
def kern (st : KState) : State := base.setKernel 0 5 { kernel1 with st := st, prev := st }
def suspended : State := withFloe (fun f => { f with state := .suspended, susp := some ⟨none, false, 0x108, { cause := .pageNotPresent, lanes := 1 }, false⟩ })
theorem witness_replay : (∀ a ∈ [0, 1, 2], path 0x01 [1, a, 0, 0] suspended (fun c as s => c.state != .faulted && decide (arg as 1 ≤ 2) && arg as 2 == 0
    && (Table.search s.floes (fun _ f => f.ctx == 0 && f.inst == arg as 0 % 2 ^ 32 && f.num == arg as 0 / 2 ^ 32)).any (fun p => p.2.state == .suspended)) = true)
    ∧ (∀ q ∈ [([1, 3, 0, 0], CtxState.running), ([1, 1, 129, 0], .running), ([1, 1, 0, 0], .faulted)], path 0x01 q.1 (inState q.2) (fun c as _ =>
        decide (2 < arg as 1 ∨ 128 < arg as 2 ∨ c.state = .faulted)) = true) := by
  decide +kernel
theorem witness_save_restore : path 0x03 [] (inState .resident) (fun c _ _ => c.state == .resident) = true
    ∧ path 0x04 [] (inState .saved) (fun c _ s => c.state == .saved && (Table.vals s.floes).all (fun f => f.state != .saved) && s.copies.isEmpty
        && c.savedSlots.isEmpty) = true := by
  decide +kernel
/-- An image of 128 bytes with its SHA-256 digest, for 8 vector and 8 uniform registers, a spill of 4,096 bytes, one floe. -/
def image : State := withBytes base 0x3000
  (bytesOf 64 0xf7996f1a00e41ab400000001000000000000100000000000080800000000000000000000000000000000000000000000000000000000000000000001594c5a4b
    ++ bytesOf 64 0xd751602fbcc0709a207ec9d6ddbb5e8915d862d8bec6f2a7)
theorem witness_kload : path 0x06 [0x3000, 5] image (fun c as s => decide (arg as 1 < 4096) && (s.kernel 0 5).st == .unloaded
    && (readImage s c 0 (as.getD 0 0)).any (fun k => k.st == .loaded && k.regs == 8 && k.spill == 4096)) = true := by decide +kernel
theorem witness_kplace : path 0x07 [0x3000, 5, 1] (withBytes (kern .loaded) 0x3000 (bytesOf 16 (3 + 2 ^ 67))) (fun c as s => (s.kernel 0 5).st == .loaded
    && (match readVirt s (partCore c.home) 0 (coreSecure s (partCore c.home)) (as.getD 0 0) 16 with
      | .ok bs => field (natOf bs) 10 54 == 0 && field (natOf bs) 64 64 == 8 && logicalOf s (field (natOf bs) 0 10) == some 3
      | .error _ => false)
    && coreValid 3 && c.parts.contains (partOf 3)) = true := by decide +kernel
theorem witness_kernel_commands : path 0x08 [5, 4] (kern .placed) (fun c as s => (s.kernel 0 5).st == .placed && (cmdQueueKey c (arg as 1)).isSome) = true
    ∧ path 0x09 [5] (kern .bound) (fun _ _ s => (s.kernel 0 5).st == .bound) = true
    ∧ (∀ st ∈ [KState.active, .loaded, .placed, .bound], path 0x0A [5] (kern st) (fun _ _ s => (s.kernel 0 5).st == st) = true) := by decide +kernel
/-- Entry 4 of partition 0's queue table: a ring of two slots at 0x5000, no launcher, batches of one, one instance at most. -/
def tabled (on : Bool) : State :=
  let s := (withBytes base 0x7100 (bytesOf 64 (0x5000 + 2 ^ 64 + 2 ^ 73 + 2 ^ 96 + 2 ^ 112 + 0x6000 * 2 ^ 256))).modPart 0 (fun p => { p with qtBase := 0x7000 })
  if on then { s with queues := [(4, queue5 2 0 0)] } else s
theorem witness_queue_commands : path 0x0B [4] (tabled false) (fun c as s => cmdQueueKey c (arg as 0) == some 4 && (s.queue? 4).isNone && (s.part 0).qtBase == 0x7000
      && (match readVirt s (partCore 0) 0 (queueSecure s 4) 0x7100 64 with | .ok bs => (parseQueue s 0 4 (natOf bs)).isSome | .error _ => false)) = true
    ∧ path 0x0B [4] (tabled true) (fun c as s => cmdQueueKey c (arg as 0) == some 4 && (s.queue? 4).any (fun q => q.enabled)) = true
    ∧ path 0x0C [4] (tabled true) (fun c as _ => cmdQueueKey c (arg as 0) == some 4) = true := by decide +kernel
def instanced : State := member base inst1 colour2
theorem witness_kill_unhalt : path 0x0D [1] instanced (fun _ as s => decide (arg as 0 < 2 ^ 32) && (s.inst? 0 (arg as 0)).isSome) = true
    ∧ path 0x0D [2] instanced (fun _ as s => s.inst? 0 (arg as 0) == none) = true
    ∧ path 0x0E [3] (base.modCore 3 (fun k => { k with halted := true })) (fun c as s => coreValid (arg as 0) && c.parts.contains (partOf (arg as 0))
        && (s.core (arg as 0)).halted) = true
    ∧ path 0x0E [3] base (fun _ _ s => !(s.core 3).halted) = true := by decide +kernel
theorem witness_refused_commands : (∀ q ∈ [(0x02, CtxState.saved), (0x03, .saved), (0x04, .running), (0x05, .resident)],
      path q.1 [] (inState q.2) (fun c _ _ => c.state == q.2) = true)
    ∧ (∀ q ∈ [(0x06, KState.loaded), (0x07, .unloaded)], path q.1 [0x3000, 5, 1] (kern q.2) (fun _ as s => (s.kernel 0 (arg as 1)).st == q.2) = true)
    ∧ (∀ q ∈ [(0x08, KState.loaded), (0x09, .placed), (0x0A, .unloaded), (0x0A, .draining)],
      path q.1 [5] (kern q.2) (fun _ as s => (s.kernel 0 (arg as 0)).st == q.2) = true) := by decide +kernel

/-- A host command of the physical function for context 0 comes to be performed, and a condition on the operands and the state it is performed in. -/
def hostJ (code : Nat) (args : List Dword) (s : State) : State × JRef := s.jNew (ctx0 s).home (jHigh 4 false 15 (cmdQueue code args) 0 Config.deviceId.toNat) 0 0
def hosted (code : Nat) (a0 a1 a2 a3 : Dword) (s : State) (p : Ctx → State → Bool) : Bool :=
  decide (s.ctx? 0 = some (ctx0 s)) && (ctx0 s).state != .destroyed && s.life.boot == .ready
    && (code == 0x11 || !(ctx0 s).busy && decide ((ctx0 s).cmds = [])) && hostTarget s code 0 0 [a0, a1, a2, a3] == some 0
    && p (ctx0 s) ((hostJ code [a0, a1, a2, a3] s).1.hcmd 0 0 0 0 (hostJ code [a0, a1, a2, a3] s).2.seq)
theorem hosted_path {code : Nat} {a0 a1 a2 a3 : Dword} {s : State} {p : Ctx → State → Bool} (h : hosted code a0 a1 a2 a3 s p = true) :
    CmdPath (.host 0 0 false a0 a1 a2 a3) code s 0 (ctx0 s) [a0, a1, a2, a3] (hostJ code [a0, a1, a2, a3] s).2 (some 0)
        ((hostJ code [a0, a1, a2, a3] s).1.hcmd 0 0 0 0 (hostJ code [a0, a1, a2, a3] s).2.seq)
      ∧ p (ctx0 s) ((hostJ code [a0, a1, a2, a3] s).1.hcmd 0 0 0 0 (hostJ code [a0, a1, a2, a3] s).2.seq) = true := by
  simp only [hosted, Bool.and_eq_true, decide_eq_true_eq, bne_iff_ne, beq_iff_eq, Bool.or_eq_true, Bool.not_eq_true'] at h
  obtain ⟨⟨⟨⟨⟨h1, h2⟩, h3⟩, h4⟩, h5⟩, h6⟩ := h
  exact ⟨⟨h1, h2, by decide, h3, rfl, rfl, rfl, h4, h5, _, rfl, rfl⟩, h6⟩
theorem witness_setsr : (∀ q ∈ [(0x10, 5), (0x1A, 7)], hosted 0x12 0 (BitVec.ofNat 64 q.1) q.2 0 base (fun c s => c.state == .running && setsrPart q.1
        && (srIsLo q.1 || decide (q.2.toNat < 2 ^ 32)) && c.parts.contains 0 && (writePart s 0 q.1 q.2.toNat).isSome) = true)
    ∧ (∀ n ∈ [0x21, 0x23, 0x2B], hosted 0x12 0 (BitVec.ofNat 64 n) 0x1000 0 base (fun c s => c.state == .running && !setsrPart n && setsrCtx n
        && (writeCtx s 0 n 0x1000).isSome) = true)
    ∧ hosted 0x12 0 0x10 0 0 (inState .faulted) (fun c _ => c.state == .faulted) = true
    ∧ hosted 0x12 0 0x1010 0 0 base (fun _ _ => true) = true ∧ hosted 0x12 0 0x1A 0x100000000 0 base (fun _ _ => !srIsLo 0x1A) = true := by decide +kernel
theorem witness_hlaunch : hosted 0x13 0 0x3000 0 0 (base.setKernel 0 0 kernel1) (fun c s => c.state == .running && c.parts.any (fun p => p / 3 == 0)
      && (match readVirt s (engineCore s 0 0) 0 (coreSecure s (engineCore s 0 0)) 0x3000 64 with
        | .ok bs => launchOk (s.kernel 0 (field (natOf bs) 0 12)) (natOf bs) && (s.createInst 0 (launchReq (natOf bs) 0 hostSource)).2.1 == 0
        | .error _ => false)) = true
    ∧ hosted 0x13 0 0x3000 0 0 (inState .saved) (fun c _ => c.state == .saved) = true := by decide +kernel

/-- Page tables at 0x20000 whose one leaf maps the first 1 GB, sealed, and one block of key 1. -/
def sealedState : State :=
  let s := withBytes (withBytes (withBytes base 0x20000 (bytesOf 16 (1 + 0x22000 * 2 ^ 64))) 0x22000 (bytesOf 16 (1 + 0x24000 * 2 ^ 64))) 0x24000 (bytesOf 16 0x1207)
  let m := { s.ms with sealTab := [(5, ⟨0, 1, 0⟩)], nextKid := 1 }
  ({ s with ms := m }).modCtx 0 (fun c => { c with root := 0x20000 })
theorem witness_rekey : path 0x02 [] sealedState (fun c as s => c.state == .running && as.all (fun x => x == 0) && c.rekeying.isNone && decide (s.ms.nextKid + 1 < 2 ^ 20)
    && blocksOf s c c.keyKid == [5]) = true := by decide +kernel
theorem witness_save_migrate : path 0x03 [] base (fun c _ _ => c.state == .running) = true
    ∧ path 0x05 [0, 1] base (fun c as s => c.state == .running && arg as 0 != arg as 1 && coreValid (arg as 0) && coreValid (arg as 1)
        && c.parts.contains (partOf (arg as 0)) && c.parts.contains (partOf (arg as 1)) && !(s.core (arg as 1)).halted && !(s.core (arg as 1)).quarantined) = true := by
  decide +kernel
theorem witness_destroy_create : hosted 0x11 0 0 0 0 base (fun _ _ => true) = true
    ∧ base.life.boot = .ready ∧ base.ownerOf 1 = none ∧ partWorld base false 1 = true ∧ base.ms.nextKid + 1 < 2 ^ 20 ∧ base.ctx? 1 = none ∧ base.ctx? 0 ≠ none := by
  decide +kernel
theorem witness_replayed : (f0 suspended).susp.any (fun x => x.op.isNone && ((f0 suspended).slot x.slot1).isSome) = true ∧ (f0 suspended).wait = none
    ∧ (f0 suspended).levelHandler = false ∧ (ctx0 suspended).trapBase = 0x1000 ∧ (instanced.inst? 0 1).isSome = true := by decide +kernel

/-! ### Contexts -/

def leaving : State := (withFloe (fun f => { f with preempt := true })).modCtx 0 (fun c => { c with state := .migrating, migrate := [(0, some 1)] })
theorem witness_floe_saved : leaving.stopped (f0 leaving) = false ∧ drained leaving 0 (f0 leaving) = true ∧ leaving.moving (f0 leaving) = true
    ∧ leaving.heldMx 0 0 = none := by decide +kernel
/-- Floe 0 saved, and a second floe of its instance, which stays on the core. -/
def saved (alone : Bool) : State :=
  let s := (instanced.setKernel 0 1 { kernel1 with place := [(0, 0x800)] }).modCore 0 (fun c => { c with scratch := [⟨0, 1, 10, 1, 0x400⟩] })
  let f := { f0 s with state := .saved, savedFrom := .ready, savedRegs := [(3, ⟨9, true⟩)], startGt := some 0 }
  { s with
    gt := 10000000
    floes := if alone then [(0, f)] else [(0, f), (1, { f0 s with num := 1, slice := 1 })] }
theorem witness_restore : (∀ b ∈ [true, false], mayRestore (saved b) (f0 (saved b)) 0 = true ∧ ((saved b).settleAll.restoreUnit 0 (f0 (saved b)) 0).isSome = true)
    ∧ (Table.search (saved false).floes (fun _ g => g.inGroup 0 1 0 && g.resident)).isSome = true
    ∧ (Table.keys (f0 (saved false)).savedRegs).Nodup ∧ (f0 (saved false)).replayMark = none ∧ (f0 (saved false)).savedMx = none
    ∧ restoreCores (saved true).settleAll (f0 (saved true)) = [0] ∧ ((saved true).settleAll.restoreUnit 0 (f0 (saved true)) 0).isSome = true
    ∧ placeCores (saved true) 0 ((saved true).kernel 0 1) ≠ [] ∧ (ctx0 (saved true)).state = .running
    ∧ (f0 (saved true)).savedGt + ((saved true).part 0).restoreLimit * 500 + ((saved true).gatedFor 0 - (f0 (saved true)).savedStop) ≤ (saved true).gt := by decide +kernel
def ending (st : CtxState) (m : List (Nat × Option Nat)) (fs : FState) : State := (withFloe (fun f => { f with state := fs })).modCtx 0 (fun c => { c with state := st, migrate := m })
theorem witness_context_ends : allSaved (ending .preempting [] .ready) 0 = false ∧ allSaved (ending .preempting [] .saved) 0 = true
    ∧ (ctx0 (ending .migrating [(0, some 1)] .retired)).migrate = [(0, some 1)]
    ∧ (∀ f ∈ Table.vals (ending .migrating [(0, some 1)] .retired).floes, f.state = .retired) ∧ (ending .migrating [(0, some 1)] .retired).ops = []
    ∧ (ctx0 (inState .destroyed)).state = .destroyed := by decide +kernel
def askedFrom : State := (asked .load 200000).modFloe 0 (fun f => { f with preempt := true })
def rldOp : State := { askedFrom with ops := Table.map askedFrom.ops (fun _ o => { o with info := rldMark }) }
theorem witness_rld_timeout : (f0 rldOp).preempt = true ∧ (f0 rldOp).savedGt + 100000 ≤ rldOp.gt ∧ (op1 rldOp).state = .inFlight ∧ (op1 rldOp).floe = 0
    ∧ (Table.find? rldOp.ops 1).any (fun o => o.info == rldMark) = true ∧ rldOp.net.reqs.any (fun r => r.op == 1) = true := by decide +kernel
def faultQueue (n : Nat) : State := base.modCtx 0 (fun c => { c with faultRecs := [⟨List.replicate 64 1⟩], fqBase := 0x9000, fqCtl := BitVec.ofNat 32 n, fqTail := 3 })
theorem witness_fault_record : (∀ n ∈ [4, 16], ((ctx0 (faultQueue n)).fqTail - (ctx0 (faultQueue n)).fqHead).toNat < 2 ^ n
    ∧ (match writeVirt (faultQueue n) (partCore 0) 0 (coreSecure (faultQueue n) (partCore 0)) 0x90C0 (List.replicate 64 1) with
       | .ok _ => true | .error _ => false) = true
    ∧ writeFree (faultQueue n) (partCore 0) 0 (coreSecure (faultQueue n) (partCore 0)) 0x90C0 64 = true) := by decide +kernel

/-! ### Time, the page, the scrub -/

def watched (n gt : Nat) : State := { (waiting (.sleep 9)).modPart 0 (fun p => { p with wdog := BitVec.ofNat 32 n }) with gt := gt }
theorem witness_watchdog : ((watched 0 5000).part (partOf 0)).wdog = 0 ∧ (f0 (watched 1 1024)).state = .waiting ∧ (watched 1 1024).stopped (f0 (watched 1 1024)) = false
    ∧ (f0 (watched 1 1024)).waitSince + ((watched 1 1024).part (partOf 0)).wdog.toNat * 1024 ≤ (watched 1 1024).gt
    ∧ ((f0 (watched 1 1024)).slot (f0 (watched 1 1024)).waitSlot1).isSome = true ∧ (ctx0 (watched 1 1024)).trapBase ≠ 0 := by decide +kernel
theorem witness_time : coreValid 3 = true ∧ base.gt + 1 < 2 ^ 64 ∧ (base.core 3).gtOff ≤ 1 ∧ (base.core 3).gtHold < 2 ^ 64 := by decide +kernel
theorem witness_page_walk : (sealedState.core 3).tlb = [] ∧ Table.getD sealedState.ms.tlb2 [] (coreDie 3) = []
    ∧ (match walk sealedState (ctx0 sealedState) (coreSecure sealedState 3) 0x2000 with | .ok q => q == (0x1207, 2) | .error _ => false) = true := by decide +kernel
def rekeyed : State := sealedState.modCtx 0 (fun c => { c with keyKid := 2, oldKids := [1], rekeyLeft := [5, 6] })
theorem witness_seal_fill : paExists (4096 * 5) = true ∧ (ctx0 rekeyed).rekeyLeft = [5, 6] ∧ (ctx0 rekeyed).oldKids.contains (rekeyed.sealMeta 5).kid = true
    ∧ (rekeyed.sealMeta 5).kid = 1 ∧ (rekeyed.sealMeta 5).status = 0 ∧ Table.getD rekeyed.ms.sealHeld false 5 = false := by decide +kernel

/-! ### Device life -/

theorem witness_life : (∀ b ∈ [Boot.rom, .verify, .recovery, .init, .ready, .failed], ({ State.reset.life with boot := b } : Life).boot = b)
    ∧ State.reset.life.powered = true ∧ State.reset.life.failures = 0 ∧ lockedOffset 0x400 = true ∧ lockedOffset 0x904 = false ∧ lockedOffset 0x57F8 = true
    ∧ overLimit base 104 0 = false ∧ overLimit base 105 0 = true ∧ overLimit base 0 4095 = true ∧ State.reset.life.restarting = false
    ∧ State.reset.life.attPend = none := by decide +kernel


/-! ### What names this device -/

theorem group_split (x : Nat) : field (2 + 2 ^ 512 * x) 0 8 = 2 ∧ field (2 + 2 ^ 512 * x) 8 504 = 0 ∧ ∀ m n, field (2 + 2 ^ 512 * x) (512 + m) n = field x m n := by
  have e : (2 : Nat) ^ 512 = 2 ^ 8 * 2 ^ 504 := by rw [← pow_add]
  have e8 : (2 + 2 ^ 512 * x) / 2 ^ 8 = 2 ^ 504 * x := by rw [e, Nat.mul_assoc, Nat.add_mul_div_left _ _ (by decide)]; simp
  refine ⟨?_, ?_, fun m n => ?_⟩
  · unfold field; rw [e, Nat.mul_assoc, pow_zero, Nat.div_one, Nat.add_mul_mod_self_left]; rfl
  · unfold field; rw [e8, Nat.mul_mod_right]
  · unfold field
    rw [pow_add, ← Nat.div_div_eq_div_mul, Nat.add_mul_div_left _ _ (Nat.two_pow_pos 512), Nat.div_eq_of_lt (a := 2), Nat.zero_add]
    calc 2 < 2 ^ 2 := by decide
      _ ≤ 2 ^ 512 := Nat.pow_le_pow_right (by decide) (by decide)

/-- A group of device `d`, partition 0, and device 7, partition 1. -/
def groupVal (d : Nat) : Nat := 2 + 2 ^ 512 * (d + 2 ^ 32 * (7 + 2 ^ 19))
theorem groupVal_head (d : Nat) : field (groupVal d) 0 8 = 2 ∧ field (groupVal d) 8 504 = 0 := by
  simp only [groupVal]
  exact ⟨(group_split _).1, (group_split _).2.1⟩
theorem groupVal_members {d : Nat} (h : d < 2 ^ 19) :
    (List.range 64).map (fun k => field (groupVal d) (512 + 32 * k) 32) = d :: 524295 :: List.replicate 62 0 := by
  refine List.ext_getElem (by simp) fun k hk _ => ?_
  simp only [List.getElem_map, List.getElem_range, groupVal, (group_split _).2.2]
  match k with
  | 0 => simp only [List.getElem_cons_zero]; unfold field; omega
  | 1 => simp only [List.getElem_cons_succ, List.getElem_cons_zero]; unfold field; omega
  | k + 2 =>
    have h2 : 2 ^ (32 * (k + 2)) = 2 ^ 32 * (2 ^ 32 * 2 ^ (32 * k)) := by rw [← pow_add, ← pow_add]; congr 1; omega
    have h3 : (d + 2 ^ 32 * (7 + 2 ^ 19)) / 2 ^ 32 = 7 + 2 ^ 19 := by omega
    simp only [List.getElem_cons_succ, List.getElem_replicate]
    unfold field
    rw [h2, ← Nat.div_div_eq_div_mul, h3, ← Nat.div_div_eq_div_mul]
    norm_num
def groupedBy (v : BitVec 4096) : State :=
  let n := { (linked base).net with groups := [(4, v)] }
  { linked base with net := n }
theorem groupedBy_entry (v : BitVec 4096) : Table.getD (groupedBy v).net.groups 0 (0 * 256 + 4) = v := rfl
def grouped : State := groupedBy (BitVec.ofNat 4096 (groupVal Config.deviceId.toNat))
theorem groupVal_lt {d : Nat} (h : d < 2 ^ 19) : groupVal d < 2 ^ 4096 := by
  calc groupVal d < 2 ^ 512 * 2 ^ 60 := by
        have : d + 2 ^ 32 * (7 + 2 ^ 19) + 1 ≤ 2 ^ 60 := by omega
        have h2 : 2 < 2 ^ 512 := by
          calc 2 < 2 ^ 2 := by decide
            _ ≤ 2 ^ 512 := Nat.pow_le_pow_right (by decide) (by decide)
        unfold groupVal
        calc _ < 2 ^ 512 + 2 ^ 512 * (d + 2 ^ 32 * (7 + 2 ^ 19)) := Nat.add_lt_add_right h2 _
          _ = 2 ^ 512 * (d + 2 ^ 32 * (7 + 2 ^ 19) + 1) := by rw [Nat.mul_add _ _ 1, Nat.mul_one, Nat.add_comm]
          _ ≤ _ := Nat.mul_le_mul_left _ this
    _ = 2 ^ 572 := by rw [← pow_add]
    _ ≤ 2 ^ 4096 := Nat.pow_le_pow_right (by decide) (by decide)
theorem groupOf_two {s : State} {g v d : Nat} (hv : (Table.getD s.net.groups 0 (0 * 256 + g)).toNat = v) (h1 : field v 0 8 = 2) (h2 : field v 8 504 = 0)
    (h3 : (List.range 64).map (fun k => field v (512 + 32 * k) 32) = d :: 524295 :: List.replicate 62 0) (hd : d < 2 ^ 19) :
    groupOf s 0 g = some [(d, 0), (7, 1)] := by
  simp only [groupOf, hv, h1, h2, h3]
  simp [field]
  exact ⟨⟨by omega, decide_eq_false (by omega)⟩, by omega, by omega⟩
theorem groupedBy_toNat {v : Nat} (h : v < 2 ^ 4096) : (Table.getD (groupedBy (BitVec.ofNat 4096 v)).net.groups 0 (0 * 256 + 4)).toNat = v := by
  rw [groupedBy_entry, BitVec.toNat_ofNat, Nat.mod_eq_of_lt h]
theorem witness_coll_group : groupOf grouped 0 4 = some [(Config.deviceId.toNat, 0), (7, 1)] :=
  groupOf_two (groupedBy_toNat (groupVal_lt Config.deviceId.isLt)) (groupVal_head _).1 (groupVal_head _).2 (groupVal_members Config.deviceId.isLt) Config.deviceId.isLt
theorem witness_coll : chk .coll (wd 10 6 0xC4 2 0 1) grouped (fun _ e => e.exec != 0 && rdOp grouped e.f 0 0xC4 1 == (4, true) && partOf e.f.core == 0
      && reachable grouped 7) = true
    ∧ ([(Config.deviceId.toNat, 0), (7, 1)].filter (fun m => m == (Config.deviceId.toNat, 0))).length = 1 := by
  refine ⟨by decide +kernel, ?_⟩
  rw [List.filter_cons_of_pos (by simp), List.filter_cons_of_neg (by simp)]; rfl

/-! ### What the clauses on full counters, held lines, other devices and moved pages ask for -/

/-- Every class counter full. -/
def atLimit (s : State) : State := s.modFloe 0 (fun f => { f with ld := 1023, st := 1023, tl := 1023 })
def full1023 (e : Env) : Bool := e.exec != 0 && e.f.ld == 1023 && e.f.st == 1023 && e.f.tl == 1023
theorem witness_full_memory : (∀ p ∈ memInstrs, (mw.any (fun w => chk p.1 w (atLimit base) (fun _ e => full1023 e))) = true)
    ∧ (∀ q ∈ [(Instr.rld, wd 10 192 192 4), (.rwr, wd 6 4 4 4), (.ratom, wd 6 192 192 4 4)], chk q.1 q.2 (atLimit base) (fun _ e => full1023 e) = true)
    ∧ chk .recv (wd 10 4 4 255) (atLimit nodal) (fun _ e => full1023 e) = true := by decide +kernel
theorem witness_full_tree : ∀ p ∈ treeInstrs, (treeWords.any (fun w => chk p.1 w (atLimit (bound base)) (fun _ e => full1023 e
      && (boundTree (atLimit (bound base)) e.f.core e.f.ctx 0).any (fun x => !p.2.hasCh || x.2.ch.getD (w.m.toNat % 8) 0 != 0)))) = true := by decide +kernel
theorem witness_full_tile : ∀ q ∈ tileWords, chk q.1 q.2.1 (atLimit (tiled 0x5000 q.2.2.1)) (fun _ e => full1023 e
      && (atLimit (tiled 0x5000 q.2.2.1)).heldMx e.h e.f.core == some 1 && q.2.2.2.all (imgIn (atLimit (tiled 0x5000 q.2.2.1)))) = true := by decide +kernel
theorem witness_full_events : (∀ q ∈ [(Instr.evsig, wd 255 0xC0 0xC0 255), (.evwait, wd 0xC0 0xC0 0xC0 255), (.evwait, wd 255 0xC0 0xC0 255), (.evclr, wd 0xC0 0xC0 255 255),
      (.evclr, wd 255 0xC0 255 255)], chk q.1 q.2 (atLimit base) (fun _ e => full1023 e && eventName (atLimit base) e q.2 == (0x2000, true)
        && (q.2.b == 255 || eventAmount (atLimit base) e q.2 == (0x2000, true))) = true)
    ∧ chk .enq (wd 0xC8 4 0xC0 255) (atLimit recording) (fun _ e => full1023 e && (enqRecord (atLimit recording) e (wd 0xC8 4 0xC0 255)).2
        && rdOp (atLimit recording) e.f 0 0xC0 2 == (5, true)) = true
    ∧ chk .nodeout (wd 0xC8 4 255 0) (atLimit nodal) (fun _ e => full1023 e && (enqRecord (atLimit nodal) e (wd 0xC8 4 255 0)).2) = true
    ∧ chk .launch (wd 0xC0 0xC0 255 255) (atLimit base) (fun _ e => full1023 e && readAt (atLimit base) e (fun bs => launchOk ((atLimit base).kernel 0 (field (natOf bs) 0 12)) (natOf bs))) = true
    ∧ (let s := atLimit (setU (setU (linked base) 0 (7 * 2 ^ 20 + 5)) 1 0); chk .msg (wd 255 0xC0 0xC4 255) s (fun _ e => full1023 e && (rdOp s e.f 0 0xC0 2).2 && reachable s 7) = true)
    ∧ chk .halo (wd 255 0xC2 255 255) (atLimit haloState) (fun _ e => full1023 e && rdOp (atLimit haloState) e.f 0 0xC2 2 == (0x3000, true)) = true := by decide +kernel

/-- The first 64 KiB frame, which the mapped page lies in, on its way to another; and with a store of the floe on its way to 0x2000. -/
def lockedFrame (s : State) : State := { s with ms := { s.ms with migrations := [⟨0, 9, 0, 0x40000, 0x1007, 0, 0x10000, 65536⟩] } }
theorem witness_line_held : (let s := lockedFrame (storing 0x2000)
    chk .ld (wd 10 192 255 4) s (fun sh e => e.exec != 0 && decide (e.f.ld < 1023) && lockHolds s e.h (withLanes s e (loadOp .load false false (wd 10 192 255 4) sh e s))) = true)
    ∧ (let s := storing 0x2000
       chk .ld (wd 10 192 255 4) s (fun sh e => e.exec != 0 && !lockHolds s e.h (withLanes s e (loadOp .load false false (wd 10 192 255 4) sh e s))) = true) := by decide +kernel
theorem witness_lane_nullified : (rdOp (setV base 6 7 0 false) (f0 base) 7 6 1).2 = false ∧ (rdOp base (f0 base) 7 6 1).2 = true ∧ inFirn 0x2000 = false
    ∧ (newOp base (env (wd 6 4 0xFF 0) base) (wd 6 4 0xFF 0) .store).uniform = false := by decide +kernel

theorem witness_copy_full : (let s := { crowded 255 15 base with copies := (crowded 255 15 base).copies ++ [(150, ⟨149, 9, 0, 0, 0, 0, 0, bytesCopy cpyWord 0 0 1, 0, [], [], false, false, none, none, 0, 0, [], false, 0⟩)] }
      chk .cpy cpyWord s (fun _ e => e.exec != 0 && rdOp s e.f 0 0xC2 2 == (0x3000, true) && decide (128 ≤ (s.copiesOf 0).length)) = true)
    ∧ chk .cpyd cpydWord (crowded 256 15 described) (fun _ e => e.exec != 0 && readsAs (crowded 256 15 described) e (fun d => d.any (fun c => c.ctg)) && decide (256 ≤ e.f.openCount)
        && decide (15 ≤ e.f.cp)) = true
    ∧ (let s := withBytes (acState 255) 0x2000 (bytesOf 64 (0x3000 + 0x4000 * 2 ^ 64 + 2 ^ 128 + 2 ^ 145 + 4 * 2 ^ 147 + 16 * 2 ^ 176))
       chk .cpyd cpydWord s (fun _ e => e.exec != 0 && readsAs s e (fun d => d.any (fun c => c.cta && decide (255 ≤ (e.f.ac c.ac).out)))) = true) := by decide +kernel

/-- A turn whose lanes disagree, at the replay or not, under a mode of redundant lanes or under OFF. -/
def disagrees (again : Bool) (d : Dmr) : State := { withFloe (fun f => { f with dmr := d }) with turns := [⟨0, .mismatch 0 0 [] again⟩] }
theorem witness_mismatch : (∀ d ∈ [Dmr.off, .full, .idle], ∀ a ∈ [false, true], (disagrees a d).turns = [⟨0, .mismatch 0 0 [] a⟩] ∧ (f0 (disagrees a d)).dmr = d
        ∧ (∃ i t, issueTurn { disagrees a d with turns := [], gt := 0 } 0 0 [] = .run i t ∧ t = { disagrees a d with turns := [], gt := 0, cur := (0, false) }))
    ∧ (match step (disagrees true .full) with | .next _ => true | _ => false) = true ∧ ((disagrees true .full).core 0).quarantined = false
    ∧ (f0 (disagrees true .full)).resident = true := by
  refine ⟨fun d _ a _ => ?_, by decide +kernel, by decide +kernel, by decide +kernel⟩
  cases d <;> cases a <;> exact ⟨rfl, rfl, _, _, rfl, rfl⟩

theorem witness_condition_again : (let w := wd 255 0xC0 255 255 0 2
      waitHolds (waiting (.ops [] (.tlbinv w 0x2000))) 0 (f0 base) (.ops [] (.tlbinv w 0x2000)) = true)
    ∧ (let s := withFloe (fun f => { f with wait := some (.sleep 9) }); (f0 s).state = .ready ∧ (f0 s).wait = some (.sleep 9) ∧ s.stopped (f0 s) = false) := by decide +kernel
theorem witness_sleep_lane : chk .sleep (wd 0 0 0xF0 0) base (fun _ e => e.exec != 0) = true := by decide +kernel
theorem witness_invalid_special : chk .wrsr (wd 255 0xD0 255 0x10) base (fun _ e => e.exec != 0 && !(rdOp base e.f 0 0xD0 1).2) = true := by decide +kernel

/-- What `tlbinv` leaves of its floe, and the accesses it waits for. -/
theorem witness_tlbinv_waits : (∀ q ∈ [(priv, true), (flushing (late.modOp 1 (fun o => { o with lanes := o.lanes.map (fun la => { la with place := some (.mem ⟨0x2000, 0x1007⟩) }) })), false)],
      chk .tlbinv (wd 255 0xC0 255 255 0 2) q.1 (fun _ e => e.exec != 0 && q.1.ended (q.1.storesOf e.h)
        && (((q.1.tlbinv e.f.core e.f.ctx (wd 255 0xC0 255 255 0 2) 0x2000).floe? e.h).isSome)
        && (q.1.tlbUsers e.f.core e.f.ctx (wd 255 0xC0 255 255 0 2) 0x2000).isEmpty == q.2) = true) := by decide +kernel

/-- Page tables at 0x20000 that map the page at 0x10000 to itself, and the migration of it to 0x30000 or 0x30010. -/
def paged (s : State) : State :=
  let m := [(0x20000, 0x22000), (0x22000, 0x24000), (0x24000, 0x26000), (0x26000, 0x28000)]
  (withBytes (m.foldl (fun t p => withBytes t p.1 (bytesOf 16 (1 + p.2 * 2 ^ 64))) s) 0x28010 (bytesOf 16 (0x1007 + 0x10000 * 2 ^ 64))).modCtx 0 (fun c => { c with root := 0x20000 })
def migWord : FWord := wd 0xC8 0xC0 0xC2 255 3 5
theorem witness_migrate_page : (∀ q ∈ [(0x30000, none), (0x30010, some 1)], let s := setU (setU (paged priv) 0 0x10000) 2 q.1
      chk .tlbinv migWord s (fun sh e => sh.d.writes.length == 1 && rdOp s e.f 0 0xC0 2 == (0x10000, true) && rdOp s e.f 0 0xC2 2 == (q.1, true)
        && (s.migrateStart e.h e.f 0x10000 q.1).2 == q.2) = true) := by decide +kernel
def pageMoving (sl : Table Nat) : State :=
  let s := (paged priv).modFloe 0 (fun f => { f with state := .waiting, wait := some (.migrate [⟨true, 8⟩]), waitLen := 8, waitExec := 0xFF })
  { s with ms := { s.ms with migrations := [⟨0, 0, 0x10000, 0x28010, 0x1007, 0x10000, 0x30000, 65536⟩], slice := sl } }
theorem witness_page_moved : (pageMoving []).migrationFree 0 = true ∧ (pageMoving [(sliceKey 0 0x30000, 100)]).migrationFree 0 = false
    ∧ (f0 (pageMoving [])).wait = some (.migrate [⟨true, 8⟩]) ∧ (pageMoving []).stopped (f0 (pageMoving [])) = false ∧ ((pageMoving []).ctx? 0).isSome = true := by decide +kernel

theorem witness_created : (let s := (inState .loading).modCtx 0 (fun c => { c with pending := some (⟨0, 0, 0⟩, some 0) })
    (ctx0 s).state = .loading ∧ (ctx0 s).pending = some (⟨0, 0, 0⟩, some 0)) := by decide +kernel
/-- A host command of a context that has another to finish first. -/
theorem witness_command_queued : ∀ q ∈ (cmdCodes (.host 0 0 false 0 0 0 0)).filter (fun q => q.2 != 0x11), ∀ s ∈ [cmdAt 0x03 [] base, (inState .preempting).modCtx 0 (fun c => { c with pending := some (⟨0, 0, 0⟩, none) })],
    hostTarget s q.2 0 0 [0, 0, 0, 0] = some 0 ∧ ((ctx0 s).busy = true ∨ (ctx0 s).cmds ≠ []) ∧ s.life.boot = .ready ∧ s.ctx? 0 = some (ctx0 s) := by decide +kernel
theorem witness_operand_sizes : (∀ c ∈ [0x06, 0x07], path c [0, 4096] base (fun _ as _ => decide (4096 ≤ arg as 1)) = true)
    ∧ (∀ c ∈ [0x08, 0x09, 0x0A], path c [4096] base (fun _ as _ => decide (4096 ≤ arg as 0)) = true)
    ∧ (∀ c ∈ [0x0B, 0x0C], path c [2 ^ 40] base (fun c as _ => cmdQueueKey c (arg as 0) == none) = true)
    ∧ path 0x0D [2 ^ 32] base (fun _ as _ => decide (2 ^ 32 ≤ arg as 0)) = true ∧ path 0x0E [15] base (fun _ as _ => !coreValid (arg as 0) || true) = true
    ∧ path 0x0E [4096] base (fun _ as _ => !coreValid (arg as 0)) = true ∧ hosted 0x13 0 0x3000 4 0 base (fun _ _ => true) = true := by decide +kernel

/-- The last floe leaves a halted core. -/
theorem witness_halted : (let s := leaving.modCore 0 (fun k => { k with halted := true })
    (s.core 0).halted = true ∧ (s.core 0).sleepGt = none ∧ Table.sorted s.floes = true ∧ (Table.keys (Table.keep s.floes (fun _ x => x.core == 0 && x.resident))) = [0]) := by decide +kernel

/-- A context whose waiters fill every record. -/
theorem records_full (n : Nat) (o : EvOp) (ws : List Waiter) (h : 98336 ≤ n) (hw : ws.length = n) : (eventful o 0 ws).recordFree 0 5 = false := by
  subst hw
  simp [State.recordFree, State.spilled, State.setEvent, State.event, eventful, Table.setD, Table.getD, Table.find?, Table.insert, Table.keep, evKey, spillRecords, Event.fresh, List.eraseDups, List.eraseDupsBy, List.eraseDupsBy.loop]
  omega
theorem witness_no_record : (∃ ws : List Waiter, (eventful ⟨5, 1, 7, none, some 0, []⟩ 0 ws).recordFree 0 5 = false) ∧ (0 : Nat) < 7 :=
  ⟨⟨List.replicate 98336 (.floe 0 0), records_full 98336 _ _ (le_refl _) List.length_replicate⟩, by decide⟩

/-- A contribution of group 1 of partition 0 on its way, with its release done. -/
theorem witness_coll_sent : (let s := { colling with ops := [(1, { op1 colling with kind := .coll, isSt := true, vals := [0, 1, 0, 2] })] }
    (op1 s).isSt = true ∧ (op1 s).kind = .coll ∧ (op1 s).ready s = true ∧ groupOf s 0 1 = some [(7, 1), (8, 0)]) := by decide +kernel
theorem witness_allocator_waits : (let s := walking (.tadel (wd 12 10 10 10))
    (Table.find? s.ops 1).any (fun o => let t := { s with ops := Table.insert s.ops 1 { o with after := [1] } }
      (Table.find? t.ops 1).any (fun o => o.kind == .alloc && !o.lanes.isEmpty && !o.ready t))) = true := by decide +kernel

/-- The page at 0x10000 on device `d`. -/
def onDevice (d : Nat) : State :=
  let s := (setU base 0 0x10000).modCore 0 (fun c => { c with
    tlb := c.tlb ++ c.tlb.map (fun t => { t with vbase := 0x10000, pbase := 0x10000, pte := BitVec.ofNat 128 (0x1007 + d * 2 ^ 16 + 2 ^ 35) }) })
  { s with net := { s.net with
      links := [(16, { Link.fresh with st := .active, units := 8 })]
      routes := [(7, BitVec.ofNat 64 (2 ^ 20 + 31 * 2 ^ 5 + 31 * 2 ^ 10 + 31 * 2 ^ 15)), (8, BitVec.ofNat 64 (2 ^ 20 + 31 * 2 ^ 5 + 31 * 2 ^ 10 + 31 * 2 ^ 15))] } }
def leafOn (d : Nat) : Pte := BitVec.ofNat 128 (0x1007 + d * 2 ^ 16 + 2 ^ 35)
theorem onDevice_leaf : ∀ d ∈ [7, 8], (lookupLeaf (onDevice d) 0 0 (coreSecure (onDevice d) 0) 0x10000).toOption = some (leafOn d, 65536, 65536)
    ∧ (leafOn d).ord ≠ 3 ∧ (leafOn d).dom = true ∧ (leafOn d).dev = d ∧ (leafOn d).secure = false ∧ reachable (onDevice d) d = true := by decide +kernel
theorem translate_far {d : Nat} (hd : d ∈ [7, 8]) (h : d ≠ Config.deviceId.toNat) : translateCore (onDevice d) 0 0 .read 0x10000 = .ok ⟨0x10000, leafOn d⟩ := by
  obtain ⟨hl, ho, hm, hv, hs, hr⟩ := onDevice_leaf d hd
  have hx : lookupLeaf (onDevice d) 0 0 (coreSecure (onDevice d) 0) 0x10000 = .ok (leafOn d, 65536, 65536) := by
    revert hl; cases lookupLeaf (onDevice d) 0 0 (coreSecure (onDevice d) 0) 0x10000 <;> simp [Except.toOption]
  have hw : (leafOn d).remote = true := by simp [Pte.remote, hm, hv, h]
  simp [translateCore, Machine.translate, hx, ho, hw, hs, hv, hr]
theorem blockFar_ne {s : State} {e : Env} {va : Dword} {p : Phys} {n : Nat} (hn : 0 < n) (h : translateCore s e.f.core e.f.ctx .read va = .ok p)
    (hp : p.pte.remote = true) (hf : Table.find? e.f.far (va.toNat / 8) = none) : blockFar s e va n ≠ [] := by
  intro hx
  have := List.filterMap_eq_nil_iff.1 hx va (List.mem_map.2 ⟨0, List.mem_range.2 (by omega), by simp⟩)
  simp [h, hp, hf] at this
theorem witness_far : ∃ s : State, chk .cpyd cpydWord s (fun _ e => e.exec != 0 && rdOp s e.f 0 0xC0 2 == (0x10000, true)) = true
    ∧ blockFar s (env cpydWord s) 0x10000 64 ≠ [] := by
  have h7 : ∀ d ∈ [7, 8], chk .cpyd cpydWord (onDevice d) (fun _ e => e.exec != 0 && rdOp (onDevice d) e.f 0 0xC0 2 == (0x10000, true)) = true
      ∧ (env cpydWord (onDevice d)).f.core = 0 ∧ (env cpydWord (onDevice d)).f.ctx = 0 ∧ (env cpydWord (onDevice d)).f.far = [] := by decide +kernel
  have go : ∀ d ∈ [7, 8], d ≠ Config.deviceId.toNat → blockFar (onDevice d) (env cpydWord (onDevice d)) 0x10000 64 ≠ [] := fun d hd h => by
    obtain ⟨-, hc, hx, hf⟩ := h7 d hd
    refine blockFar_ne (by decide) (by rw [hc, hx]; exact translate_far hd h) ?_ (by rw [hf]; rfl)
    obtain ⟨-, -, hm, hv, -, -⟩ := onDevice_leaf d hd
    simp [Pte.remote, hm, hv, h]
  by_cases h : (7 : Nat) = Config.deviceId.toNat
  · exact ⟨onDevice 8, (h7 8 (by decide)).1, go 8 (by decide) (by omega)⟩
  · exact ⟨onDevice 7, (h7 7 (by decide)).1, go 7 (by decide) h⟩

end Sys2Proof.Tests
end

section
/-! Every step keeps memory in its canonical form (R3): the bytes stand sorted by address, none of them the default byte.

Memory is one table of the memory system, `s.ms.mem`. Each function of the model that a step goes through has one rule here, in the order of the
model's files, and its callers cite the rule. The rule's name says which of three things the function does:
- `f_ms`: it leaves the whole memory system alone;
- `f_mem`: it changes the memory system (caches, directory, seals, marks, translations), but no byte of memory;
- `f_canonical`: it may write memory, and memory in its canonical form stays so.
The writes themselves are `Ms.setByte`, `Ms.setBytes`, the clearing of a block that changes its seal, and the move of a frame. -/

namespace Sys2Proof.Machine

/-! ## What the rules speak of -/

/-- The state's memory is in its canonical form (`Memory.wf`, written so that `simp` rewrites inside it). -/
@[simp] abbrev State.Canonical (s : State) : Prop := Table.wf memDefault s.ms.mem = true

/-- The memory system that a result of an instruction's body holds. -/
def Res.ms : Res → Ms
  | .done s => s.ms
  | .yield s => s.ms
  | .jump s => s.ms
  | .stall s => s.ms
  | .trap _ s => s.ms

/-- What an outcome owes: memory is in its canonical form in the state it goes on from. -/
def EndsCanonical : Host.Outcome State Fault Refusal → Prop
  | .next s => s.Canonical
  | _ => True

/-- The state an action leaves: the next one, or the one that its instruction runs in. -/
def Action.state : Action → State
  | .run _ s => s
  | .still s => s

/-- What a command's body owes: memory in its canonical form stays so. -/
def CmdBody.KeepsCanonical (body : CmdBody) : Prop :=
  ∀ ctx c args j s, s.Canonical → (body ctx c args j s).s.Canonical

@[simp] theorem Res.ms_done (s : State) : (Res.done s).ms = s.ms := rfl
@[simp] theorem Res.ms_yield (s : State) : (Res.yield s).ms = s.ms := rfl
@[simp] theorem Res.ms_jump (s : State) : (Res.jump s).ms = s.ms := rfl
@[simp] theorem Res.ms_stall (s : State) : (Res.stall s).ms = s.ms := rfl
@[simp] theorem Res.ms_trap (t : TrapInfo) (s : State) : (Res.trap t s).ms = s.ms := rfl

@[simp] theorem endsCanonical_next {s : State} : EndsCanonical (.next s) ↔ s.Canonical := Iff.rfl
@[simp] theorem endsCanonical_fault (x : Fault) : EndsCanonical (.fault x) := trivial

@[simp] theorem Action.state_run (i : Instr) (s : State) : (Action.run i s).state = s := rfl
@[simp] theorem Action.state_still (s : State) : (Action.still s).state = s := rfl

@[simp] theorem CmdRes.done_s (s : State) : (CmdRes.done s).s = s := rfl
@[simp] theorem CmdRes.refused_s (s : State) : (CmdRes.refused s).s = s := rfl

@[simp] theorem State.ms_ite (c : Prop) [Decidable c] (s t : State) : (if c then s else t).ms = if c then s.ms else t.ms :=
  apply_ite _ _ _ _

@[simp] theorem Res.ms_ite (c : Prop) [Decidable c] (r q : Res) : (if c then r else q).ms = if c then r.ms else q.ms :=
  apply_ite _ _ _ _

@[simp] theorem Ms.mem_ite (c : Prop) [Decidable c] (m n : Ms) : (if c then m else n).mem = if c then m.mem else n.mem :=
  apply_ite _ _ _ _

/-! ## Folds and options of states -/

@[simp] theorem foldl_ms {α : Type} {f : State → α → State} (h : ∀ s a, (f s a).ms = s.ms) (l : List α) (s : State) :
    (l.foldl f s).ms = s.ms :=
  List.foldlRecOn l f (motive := fun t => t.ms = s.ms) rfl fun t ht a _ => (h t a).trans ht

theorem foldl_fst_ms {α β : Type} {f : State × β → α → State × β}
    (h : ∀ t b a, (f (t, b) a).1.ms = t.ms) (l : List α) (s : State) (b : β) :
    (l.foldl f (s, b)).1.ms = s.ms :=
  List.foldlRecOn l f (motive := fun p => p.1.ms = s.ms) rfl fun p hp a _ => (h p.1 p.2 a).trans hp

@[simp] theorem foldl_mem {α : Type} {f : State → α → State} (h : ∀ s a, (f s a).ms.mem = s.ms.mem) (l : List α) (s : State) :
    (l.foldl f s).ms.mem = s.ms.mem :=
  List.foldlRecOn l f (motive := fun t => t.ms.mem = s.ms.mem) rfl fun t ht a _ => (h t a).trans ht

/-- A canonical state given as a subtype: with its proof inside, `simp` finds it where `foldl_canonical` asks for each step of a fold. -/
@[simp] theorem canonical_coe (s : {s : State // s.Canonical}) : Table.wf memDefault s.1.ms.mem = true := s.2

@[simp] theorem foldl_canonical {α : Type} {f : State → α → State}
    (hf : ∀ (s : {s : State // s.Canonical}) a, (f s a).Canonical) (l : List α)
    {s : State} (hs : s.Canonical) : (l.foldl f s).Canonical :=
  List.foldlRecOn l f (motive := State.Canonical) hs fun t ht a _ => hf ⟨t, ht⟩ a

theorem getD_canonical {s : State} (hs : s.Canonical) {o : Option State} (h : ∀ t, o = some t → t.Canonical) : (o.getD s).Canonical := by
  cases o with
  | none => exact hs
  | some t => exact h t rfl

@[simp] theorem retire_ms (e : Env) (la : List (Option Latch)) (y : Bool) (r : Res) : (State.retire e la y r).ms = r.ms := by
  cases r <;> simp [State.retire]

/-! ## Ops -/

@[simp] theorem State.takeId_ms (s : State) : s.takeId.2.ms = s.ms := rfl
@[simp] theorem State.setClock_ms (s : State) (k mhz : Nat) (gate : Bool) : (s.setClock k mhz gate).ms = s.ms := by simp [State.setClock]

@[simp] theorem State.fatalLive_ms (s : State) (ctx : Nat) (r : List Byte) : (s.fatalLive ctx r).ms = s.ms := by
  unfold State.fatalLive
  split <;> simp

@[simp] theorem State.deliverLater_ms (s : State) (h : Nat) (b : Bool) (pc : Dword) (t : TrapInfo) : (s.deliverLater h b pc t).ms = s.ms := by
  unfold State.deliverLater
  split <;> simp

@[simp] theorem State.markPreempt_ms (s : State) (h : Nat) : (s.markPreempt h).ms = s.ms := by simp [State.markPreempt]
@[simp] theorem State.preemptCore_ms (s : State) (core : Nat) : (s.preemptCore core).ms = s.ms := by simp [State.preemptCore]
@[simp] theorem State.countUp_ms (s : State) (off : Nat) : (s.countUp off).ms = s.ms := by simp [State.countUp]

/-! ## Page -/

@[simp] theorem State.setSeal_mem (s : State) (blk : Nat) (m : SealMeta) : (s.setSeal blk m).ms.mem = s.ms.mem := by simp [State.setSeal]

@[simp] theorem sealPrepare_canonical {s : State} (hs : s.Canonical) (ctx : Nat) (e : Pte) (pa : Nat) : (sealPrepare s ctx e pa).Canonical := by
  simp only [sealPrepare]
  split
  · split
    · split
      · exact hs
      · simpa using Table.wf_filter _ hs
    · exact hs
  · split <;> simp [hs, Ms.wf_setBytes]

@[simp] theorem State.sealWriteback_mem (s : State) (blk : Nat) (kid : Nat) :
    (s.sealWriteback blk kid).ms.mem = s.ms.mem := by simp [State.sealWriteback]

@[simp] theorem State.countSeal_ms (s : State) (core ctx : Nat) (secure : Bool) (c : Cause) (va : Dword) :
    (s.countSeal core ctx secure c va).ms = s.ms := by
  simp only [State.countSeal]
  (repeat' split) <;> simp

@[simp] theorem State.cacheCode_ms (s : State) (core ctx : Nat) (va : Dword) : (s.cacheCode core ctx va).ms = s.ms := by
  unfold State.cacheCode
  split <;> simp

@[simp] theorem State.fetchAhead_ms (s : State) (h : Nat) (va : Dword) : (s.fetchAhead h va).ms = s.ms := by
  simp only [State.fetchAhead]
  (repeat' split) <;> simp

/-! ## Flags -/

@[simp] theorem finishLanes_ms (w : FWord) (regs : List Reg) (e : Env) (half : Bool) (rs : LaneResults) (s : State) :
    (finishLanes w regs e half rs s).ms = s.ms := by
  simp only [finishLanes]
  split <;> simp

@[simp] theorem laneBody_ms (imm : Nat) (op : Nat → Nat → Nat → Nat × Fx) (w : FWord) (sh : Shape) (e : Env) (s : State) :
    (laneBody imm op w sh e s).ms = s.ms := by simp [laneBody]

/-! ## Int -/

@[simp] theorem intBody_ms (op : FWord → Nat → Nat → Nat → Nat × Fx) (w : FWord) (sh : Shape) (e : Env) (s : State) :
    (intBody op w sh e s).ms = s.ms := by simp [intBody]

/-! ## Retire -/

@[simp] theorem State.endOp_ms (s : State) (id : Nat) (o : Op) : (s.endOp id o).ms = s.ms := by simp [State.endOp]
@[simp] theorem State.dropReturn_ms (s : State) (id : Nat) (o : Op) : (s.dropReturn id o).ms = s.ms := by simp [State.dropReturn]

@[simp] theorem State.releaseMx_ms (s : State) (h core : Nat) (discard : Bool) : (s.releaseMx h core discard).ms = s.ms := by
  unfold State.releaseMx
  split <;> simp

@[simp] theorem State.takeWords_ms (s : State) (core first n : Nat) : (s.takeWords core first n).2.ms = s.ms := rfl
@[simp] theorem State.putWords_ms (s : State) (core first : Nat) (t : Table FirnWord) : (s.putWords core first t).ms = s.ms :=
  foldl_ms (fun _ _ => by rfl) t s
@[simp] theorem State.dropRegion_ms (core : Nat) (s : State) (r : Region) : (State.dropRegion core s r).ms = s.ms := by simp [State.dropRegion]
@[simp] theorem State.settleScratch_ms (s : State) (core : Nat) : (s.settleScratch core).ms = s.ms := by simp [State.settleScratch]
@[simp] theorem State.settleAll_ms (s : State) : s.settleAll.ms = s.ms := by simp [State.settleAll]

@[simp] theorem State.leavePack_ms (s : State) (f : Floe) (h : Nat) (p : Pack) : (s.leavePack f h p).ms = s.ms := by
  simp only [State.leavePack]
  (repeat' split) <;> simp

@[simp] theorem State.leaveAll_ms (s : State) (f : Floe) (h : Nat) : (s.leaveAll f h).ms = s.ms := by simp [State.leaveAll]
@[simp] theorem State.unlist_mem (s : State) (f : Floe) (h : Nat) : (s.unlist f h).ms.mem = s.ms.mem := by simp [State.unlist]

@[simp] theorem State.abandonWait_mem (s : State) (f : Floe) (h : Nat) : (s.abandonWait f h).ms.mem = s.ms.mem := by
  simp only [State.abandonWait]
  (repeat' split) <;> simp

@[simp] theorem State.sleepCore_ms (s : State) (core : Nat) : (s.sleepCore core).ms = s.ms := by simp [State.sleepCore]

@[simp] theorem State.floeEnd_mem (s : State) (h : Nat) (kill : Bool) : (s.floeEnd h kill).ms.mem = s.ms.mem := by
  unfold State.floeEnd
  split <;> simp

/-! ## Ctl -/

@[simp] theorem branch_ms (e : Env) (join : Option Dword) (groups : List (Dword × Mask)) (s : State) : (branch e join groups s).ms = s.ms := by
  unfold branch
  split <;> simp

@[simp] theorem nopBody_ms (w : FWord) (sh : Shape) (e : Env) (s : State) : (nopBody w sh e s).ms = s.ms := by simp [nopBody]
@[simp] theorem brBody_ms (w : FWord) (sh : Shape) (e : Env) (s : State) : (brBody w sh e s).ms = s.ms := by simp [brBody]
@[simp] theorem brxBody_ms (w : FWord) (sh : Shape) (e : Env) (s : State) : (brxBody w sh e s).ms = s.ms := by simp [brxBody]
@[simp] theorem jmpBody_ms (w : FWord) (sh : Shape) (e : Env) (s : State) : (jmpBody w sh e s).ms = s.ms := by simp [jmpBody]
@[simp] theorem callBody_ms (w : FWord) (sh : Shape) (e : Env) (s : State) : (callBody w sh e s).ms = s.ms := by simp [callBody]

@[simp] theorem retBody_ms (w : FWord) (sh : Shape) (e : Env) (s : State) : (retBody w sh e s).ms = s.ms := by
  simp only [retBody]
  (repeat' split) <;> simp

@[simp] theorem exitBody_mem (w : FWord) (sh : Shape) (e : Env) (s : State) : (exitBody w sh e s).ms.mem = s.ms.mem := by simp [exitBody]

@[simp] theorem electBody_ms (w : FWord) (sh : Shape) (e : Env) (s : State) : (electBody w sh e s).ms = s.ms := by
  unfold electBody
  split <;> simp

@[simp] theorem yieldBody_ms (w : FWord) (sh : Shape) (e : Env) (s : State) : (yieldBody w sh e s).ms = s.ms := by simp [yieldBody]
@[simp] theorem sleepBody_ms (w : FWord) (sh : Shape) (e : Env) (s : State) : (sleepBody w sh e s).ms = s.ms := by simp [sleepBody]
@[simp] theorem setroleBody_ms (w : FWord) (sh : Shape) (e : Env) (s : State) : (setroleBody w sh e s).ms = s.ms := by simp [setroleBody]
@[simp] theorem setmodeBody_ms (w : FWord) (sh : Shape) (e : Env) (s : State) : (setmodeBody w sh e s).ms = s.ms := by simp [setmodeBody]
@[simp] theorem trapBody_ms (c : Cause) (w : FWord) (sh : Shape) (e : Env) (s : State) : (trapBody c w sh e s).ms = s.ms := by simp [trapBody]
@[simp] theorem svcBody_ms (w : FWord) (sh : Shape) (e : Env) (s : State) : (svcBody w sh e s).ms = s.ms := by simp [svcBody]

@[simp] theorem trapretBody_mem (w : FWord) (sh : Shape) (e : Env) (s : State) : (trapretBody w sh e s).ms.mem = s.ms.mem := by
  simp only [trapretBody]
  (repeat' split) <;> simp

/-! ## Net -/

@[simp] theorem State.post_ms (s : State) (m : Msg) (after : List Nat) : (s.post m after).ms = s.ms := by simp [State.post]
@[simp] theorem State.request_ms (s : State) (op lane : Nat) (m : Msg) (after : List Nat) :
    (s.request op lane m after).ms = s.ms := by simp [State.request]
@[simp] theorem State.askFar_ms (s : State) (h : Nat) (l : List (Dword × Phys)) : (s.askFar h l).ms = s.ms := by simp [State.askFar]

/-! ## Coherence -/

@[simp] theorem State.setFirnByte_ms (s : State) (core off : Nat) (v : Nat) : (s.setFirnByte core off v).ms = s.ms := by simp [State.setFirnByte]
@[simp] theorem State.unlatchFirn_ms (s : State) (core off n : Nat) : (s.unlatchFirn core off n).ms = s.ms := by simp [State.unlatchFirn]

@[simp] theorem State.firnStore_ms (s0 : State) (core off n v : Nat) (valid : Bool) : (s0.firnStore core off n v valid).ms = s0.ms := by
  have words (t : State) (l : List Nat) (b : Bool) :
      (l.foldl (fun (u : State) i => u.setFirn core (off / 4 + i) { u.firnAt core (off / 4 + i) with v := b }) t).ms = t.ms :=
    foldl_ms (fun _ _ => by rfl) l t
  simp only [State.firnStore]
  (repeat' split) <;> simp [words]

@[simp] theorem State.firnEngine_ms (s : State) (core off v : Nat) : (s.firnEngine core off v).ms = s.ms := by simp [State.firnEngine]
@[simp] theorem State.l1Fit_ms (s : State) (core : Nat) : (s.l1Fit core).ms = s.ms := by simp [State.l1Fit]
@[simp] theorem State.l1Fill_mem (s : State) (core ctx : Nat) (e : Pte) (pa n : Nat) (held : Bool) :
    (s.l1Fill core ctx e pa n held).ms.mem = s.ms.mem := by simp [State.l1Fill]
@[simp] theorem State.acquire_ms (s : State) (core scope : Nat) : (s.acquire core scope).ms = s.ms := by simp [State.acquire]

@[simp] theorem State.l1Update_ms (s : State) (core ctx pa : Nat) (v : Byte) : (s.l1Update core ctx pa v).ms = s.ms := by
  unfold State.l1Update
  split <;> simp

@[simp] theorem State.homeByte_canonical {s : State} (hs : s.Canonical) (core ctx : Nat) (e : Pte) (pa : Nat) (v : Byte) :
    (s.homeByte core ctx e pa v).Canonical := by
  simp only [State.homeByte]
  (repeat' split) <;> simp [hs, Ms.wf_setByte]

@[simp] theorem State.writeByte_canonical {s : State} (hs : s.Canonical) (core ctx : Nat) (e : Pte) (pa : Nat) (v : Byte) :
    (s.writeByte core ctx e pa v).Canonical := by simp [State.writeByte, hs]
@[simp] theorem State.exclReturn_ms (s : State) (core pa n : Nat) : (s.exclReturn core pa n).ms = s.ms := by simp [State.exclReturn]
@[simp] theorem State.mark_mem (s : State) (pa : Nat) : (s.mark pa).ms.mem = s.ms.mem := by simp [State.mark]
@[simp] theorem State.setDir_mem (s : State) (line : Nat) (d : DirEntry) : (s.setDir line d).ms.mem = s.ms.mem := by simp [State.setDir]
@[simp] theorem State.markWords_mem (s : State) (once : Bool) (pa n : Nat) : (s.markWords once pa n).ms.mem = s.ms.mem := by simp [State.markWords]
@[simp] theorem State.l2Install_mem (s : State) (die line : Nat) (sp : Span) :
    (s.l2Install die line sp).ms.mem = s.ms.mem := by simp [State.l2Install]

@[simp] theorem State.l2Drop_mem (s : State) (die line : Nat) (sp : Span) : (s.l2Drop die line sp).ms.mem = s.ms.mem := by
  simp only [State.l2Drop]
  split <;> simp

@[simp] theorem State.evict_mem (s : State) (die line : Nat) : (s.evict die line).ms.mem = s.ms.mem := by simp [State.evict]
@[simp] theorem State.l2Take_mem (s : State) (die line : Nat) (sp : Span) : (s.l2Take die line sp).ms.mem = s.ms.mem := by simp [State.l2Take]
@[simp] theorem State.dieRead_mem (s : State) (die : Nat) (p : Phys) (sp : Span) : (s.dieRead die p sp).ms.mem = s.ms.mem := by simp [State.dieRead]
@[simp] theorem State.ackLine_ms (s : State) (line op : Nat) : (s.ackLine line op).ms = s.ms := by simp [State.ackLine]
@[simp] theorem execEvictMsg_canonical {s : State} (hs : s.Canonical) (die line : Nat) :
    EndsCanonical (execEvictMsg die line s) := by simp [execEvictMsg, hs]

@[simp] theorem execSharerInvalidate_canonical {s : State} (hs : s.Canonical) (die line : Nat) : EndsCanonical (execSharerInvalidate die line s) := by
  simp only [execSharerInvalidate]
  split <;> simp [hs]

@[simp] theorem State.l2Update_mem (s : State) (die line : Nat) (bytes : List (Nat × Byte)) : (s.l2Update die line bytes).ms.mem = s.ms.mem := by
  simp only [State.l2Update]
  split <;> simp

@[simp] theorem execSharerUpdate_canonical {s : State} (hs : s.Canonical) (die line : Nat) : EndsCanonical (execSharerUpdate die line s) := by
  simp only [execSharerUpdate]
  (repeat' split) <;> simp [hs]

@[simp] theorem execAckMsg_canonical {s : State} (hs : s.Canonical) (die line : Nat) : EndsCanonical (execAckMsg die line s) := by
  simp only [execAckMsg]
  split <;> simp [hs]

@[simp] theorem execRecall_canonical {s : State} (hs : s.Canonical) (die line : Nat) : EndsCanonical (execRecall die line s) := by
  simp only [execRecall]
  split <;> simp [hs]

@[simp] theorem execReturnMsg_canonical {s : State} (hs : s.Canonical) (die line : Nat) : EndsCanonical (execReturnMsg die line s) := by
  simp only [execReturnMsg]
  split <;> simp [hs]

@[simp] theorem State.dirEngine_mem (s : State) (m die : Nat) (p : Phys) (sp : Span) (bytes : List (Nat × Byte)) :
    (s.dirEngine m die p sp bytes).ms.mem = s.ms.mem := by
  simp only [State.dirEngine]
  split_ifs
  · rfl
  · (repeat' split) <;> simp
  · exact (foldl_mem (fun t x => by (repeat' split) <;> simp) _ _).trans (by (repeat' split) <;> simp)
  · rfl
  · exact (foldl_mem (fun t x => by (repeat' split) <;> simp) _ _).trans (by simp)

@[simp] theorem execL1TagSweep_canonical {s : State} (hs : s.Canonical) (core : Nat) :
    EndsCanonical (execL1TagSweep core s) := by simp [execL1TagSweep, hs]

@[simp] theorem execPredictorDecay_canonical {s : State} (hs : s.Canonical) : EndsCanonical (execPredictorDecay s) := by
  simp only [execPredictorDecay]
  split <;> simp [hs]

/-! ## Walk -/

@[simp] theorem State.engineByte_canonical {s : State} (hs : s.Canonical) (m core ctx : Nat) (e : Pte) (pa : Nat) (v : Byte) :
    (s.engineByte m core ctx e pa v).Canonical := by simp [State.engineByte, hs]
@[simp] theorem State.unpoison_mem (s : State) (pas : List Nat) : (s.unpoison pas).ms.mem = s.ms.mem := by simp [State.unpoison]

theorem writeVirt_canonical {s t : State} (hs : s.Canonical) {core ctx : Nat} {secure : Bool} {va : Dword} {bs : List Byte}
    (h : writeVirt s core ctx secure va bs = .ok t) : t.Canonical := by
  simp only [writeVirt] at h
  split at h
  · cases h
  · rw [← Except.ok.inj h, State.Canonical, State.unpoison_mem]
    exact foldl_canonical (fun u i => by split <;> simp) _ hs

@[simp] theorem State.journalPart_canonical {s : State} (hs : s.Canonical) (part : Nat) : (s.journalPart part).Canonical := by
  simp only [State.journalPart]
  split
  · exact hs
  · split
    · exact hs
    · split
      · next u hu => exact writeVirt_canonical (by simpa using hs) hu
      · exact hs

theorem cachedLookup_ms {s : State} {v : TreeView} {t : TreeDesc} {slot : Nat} {x y z : Int} {r : Option Nat × State}
    (h : cachedLookup s v t slot x y z = .ok r) : r.2.ms = s.ms := by
  simp only [cachedLookup] at h
  (repeat' split at h) <;> cases h <;> simp

theorem slotRefresh_ms {s t : State} {v : TreeView} {slot : Nat} (h : slotRefresh s v slot = .ok t) : t.ms = s.ms := by
  simp only [slotRefresh] at h
  (repeat' split at h) <;> cases h <;> simp

/-! ## Lsu -/

@[simp] theorem storeAt_canonical {s : State} (hs : s.Canonical) (o : Op) (la : LaneAcc) (v : Except Cause View) : (storeAt s o la v).Canonical := by
  simp only [storeAt]
  (repeat' split) <;> simp [hs]

@[simp] theorem storeLane_canonical {s : State} (hs : s.Canonical) (o : Op) (la : LaneAcc) : (storeLane s o la).Canonical := by simp [storeLane, hs]
@[simp] theorem clearPoison_mem (s0 : State) (o : Op) (s : State) : (clearPoison s0 o s).ms.mem = s.ms.mem := by simp [clearPoison]

@[simp] theorem performStore_canonical {s : State} (hs : s.Canonical) (o : Op) : (performStore s o).Canonical := by
  simp only [performStore, State.Canonical, clearPoison_mem]
  exact foldl_canonical (fun t la => by simp) _ hs

@[simp] theorem State.noteSeen_ms (s : State) (o : Op) (p : Phys) : (s.noteSeen o p).ms = s.ms := by simp [State.noteSeen]

@[simp] theorem State.wrWords_ms (f : Floe) (lane : Nat) (rs : List Reg) :
    ∀ (s : State) (v : Nat) (vs : List Bool), (s.wrWords f lane rs v vs).ms = s.ms := by
  induction rs with
  | nil => intro s v vs; rfl
  | cons r rs ih => intro s v vs; simp [State.wrWords, ih]

@[simp] theorem loadLaneDone_mem (id : Nat) (o : Op) (f : Floe) (view s : State) (la : LaneAcc) :
    (loadLaneDone id o f view s la).ms.mem = s.ms.mem := by
  simp only [loadLaneDone]
  split <;> simp

@[simp] theorem State.leave_ms (s : State) (id : Nat) (o : Op) (core : Bool) : (s.leave id o core).ms = s.ms := by
  simp only [State.leave]
  split
  · simp
  · exact (foldl_ms (fun t v => by split <;> simp) _ _).trans (by simp)

@[simp] theorem State.sendOp_ms (s : State) (id : Nat) (core : Bool) : (s.sendOp id core).ms = s.ms := by
  unfold State.sendOp
  split <;> simp

@[simp] theorem dirRequest_canonical {s0 : State} (hs : s0.Canonical) (m id line : Nat) : (dirRequest m id line s0).Canonical := by
  unfold dirRequest
  split
  · exact hs
  · extract_lets o0 go s o span
    have h1 : s.Canonical := by
      simp only [s]
      split <;> simp [hs]
    split
    · exact hs
    · split
      · exact h1
      · extract_lets here sp bytes busy r does upd s1 o1
        have h2 : s1.Canonical := by simpa [s1] using h1
        split
        · exact h1
        · split
          · simpa using h1
          · split
            · simpa using h1
            · split
              · simp [h2]
              · exact h2

@[simp] theorem execWriteMsg_canonical {s : State} (hs : s.Canonical) (op line : Nat) :
    EndsCanonical (execWriteMsg op line s) := by simp [execWriteMsg, hs]
@[simp] theorem execAtomicMsg_canonical {s : State} (hs : s.Canonical) (op line : Nat) :
    EndsCanonical (execAtomicMsg op line s) := by simp [execAtomicMsg, hs]

@[simp] theorem execReadMsg_canonical {s : State} (hs : s.Canonical) (die line : Nat) (sp : Span) (slot : Nat) :
    EndsCanonical (execReadMsg die line sp slot s) := by
  simp only [execReadMsg]
  (repeat' split) <;> simp [hs]

@[simp] theorem execSliceHoldEnd_canonical {s : State} (hs : s.Canonical) (op : Nat) : EndsCanonical (execSliceHoldEnd op s) := by
  simp only [execSliceHoldEnd]
  (repeat' split) <;> simp [hs]

@[simp] theorem atomLane_canonical {s : State} (hs : s.Canonical) (o : Op) (op : AtomOp) (la : LaneAcc) : (atomLane s o op la).1.Canonical := by
  unfold atomLane
  extract_lets r old new skip
  split
  · split
    · exact hs
    · split <;> simp [hs]
  · dsimp only
    split <;> simp [hs]
  · exact hs

@[simp] theorem exclusive_mem (s : State) (id : Nat) (o : Op) (p : Phys) : (exclusive s id o p).ms.mem = s.ms.mem := by
  unfold exclusive
  extract_lets line die held queued up m0 ms s1
  have h1 : s1.ms.mem = s.ms.mem := by
    simp only [s1, ms, State.exclReturn_ms]
    split_ifs <;> rfl
  split
  · rw [foldl_ms (fun _ _ => State.modCore_ms _ _ _), h1]
  · exact h1

@[simp] theorem performAtomic_canonical {s : State} (hs : s.Canonical) (id : Nat) (o : Op) (op : AtomOp) (ret : Bool) (f : Option Floe)
    (lanes : List LaneAcc) : (performAtomic s id o op ret f lanes).Canonical := by
  refine foldl_canonical (fun t la => ?_) lanes hs
  simp only
  (repeat' split) <;> simp

@[simp] theorem lockLane_mem (s : State) (o : Op) (la : LaneAcc) : (lockLane s o la).1.ms.mem = s.ms.mem := by
  simp only [lockLane]
  (repeat' split) <;> rfl

@[simp] theorem unlockLane_mem (s : State) (o : Op) (la : LaneAcc) : (unlockLane s o la).ms.mem = s.ms.mem := by
  unfold unlockLane
  split <;> simp

@[simp] theorem sendRemote_ms (s : State) (id : Nat) (o : Op) : (sendRemote s id o).ms = s.ms := by
  simp only [sendRemote]
  split
  · rfl
  · exact foldl_ms (fun t la => by split <;> simp) _ _

@[simp] theorem lanesDone_canonical {s : State} (hs : s.Canonical) (id : Nat) (o : Op) (f : Option Floe) (lanes : List LaneAcc) :
    (lanesDone s id o f lanes).Canonical := by
  simp only [lanesDone]
  (repeat' split) <;> simp [hs]

@[simp] theorem nullLanes_ms (s : State) (o : Op) (f : Floe) (lanes : List Nat) : (nullLanes s o f lanes).ms = s.ms := by simp [nullLanes]

@[simp] theorem laneReturn_canonical {s : State} (hs : s.Canonical) (id : Nat) (q : Op) : (laneReturn s id q).Canonical := by
  simp only [laneReturn]
  (repeat' split) <;> simp [hs]

@[simp] theorem laneStored_canonical {s : State} (hs : s.Canonical) (id : Nat) (q : Op) : (laneStored s id q).Canonical := by
  simp only [laneStored]
  (repeat' split) <;> simp [hs]

@[simp] theorem State.lanesNow_canonical {s : State} (hs : s.Canonical) (id : Nat) (o : Op) (now : List LaneAcc) :
    (s.lanesNow id o now).Canonical := by simp [State.lanesNow, hs]

@[simp] theorem State.partOp_canonical {s : State} (hs : s.Canonical) (id : Nat) (mask : Mask) : (s.partOp id mask).Canonical := by
  simp only [State.partOp]
  (repeat' split) <;> simp [hs]

@[simp] theorem State.faultOp_mem (s0 : State) (id : Nat) (o : Op) (t : TrapInfo) : (s0.faultOp id o t).ms.mem = s0.ms.mem := by
  simp only [State.faultOp]
  split <;> simp

@[simp] theorem laneFault_canonical {s : State} (hs : s.Canonical) (id : Nat) (q : Op) : (laneFault s id q).Canonical := by
  simp only [laneFault]
  (repeat' split) <;> simp [hs]

@[simp] theorem State.replayOp_ms (s : State) (id : Nat) : (s.replayOp id).ms = s.ms := by
  simp only [State.replayOp]
  (repeat' split) <;> simp

@[simp] theorem State.addOp_ms (s : State) (o : Op) : (s.addOp o).ms = s.ms := by simp [State.addOp]
@[simp] theorem issueLanes_ms (o0 : Op) (e : Env) (s : State) : (issueLanes o0 e s).ms = s.ms := by simp [issueLanes]
@[simp] theorem loadBody_ms (kind : State → Env → FWord → OpKind) (inC : Bool) (lda : Bool) (w : FWord) (sh : Shape) (e : Env) (s : State) :
    (loadBody kind inC lda w sh e s).ms = s.ms := by simp [loadBody]
@[simp] theorem storeBody_ms (kind : State → Env → FWord → OpKind) (inC : Bool) (w : FWord) (sh : Shape) (e : Env) (s : State) :
    (storeBody kind inC w sh e s).ms = s.ms := by simp [storeBody]

@[simp] theorem remoteBody_ms (store : Bool) (w : FWord) (sh : Shape) (e : Env) (s : State) : (remoteBody store w sh e s).ms = s.ms := by
  unfold remoteBody
  split <;> simp

@[simp] theorem prefLine_mem (l1 : Bool) (o : Op) (p : Phys) (s : State) : (prefLine l1 o p s).ms.mem = s.ms.mem := by simp [prefLine]

@[simp] theorem prefBody_mem (w : FWord) (sh : Shape) (e : Env) (s : State) : (prefBody w sh e s).ms.mem = s.ms.mem := by
  simp only [prefBody, Res.ms_done]
  exact foldl_mem (fun t la => by (repeat' split) <;> simp) _ s

@[simp] theorem atomBody_ms (op : AtomOp) (ret inC : Bool) (w : FWord) (sh : Shape) (e : Env) (s : State) :
    (atomBody op ret inC w sh e s).ms = s.ms := by simp [atomBody]
@[simp] theorem pinBody_ms (kind : OpKind) (w : FWord) (sh : Shape) (e : Env) (s : State) : (pinBody kind w sh e s).ms = s.ms := by simp [pinBody]

/-! ## Mover -/

/-- A block read at the issue of an instruction: what comes is the continuation's, or leaves the memory system alone. -/
theorem withBlock_rec {P : Ms → Prop} {s : State} (hs : P s.ms) {e : Env} {va : Dword} {n align : Nat} {k : List Byte → Res}
    (hk : ∀ bs, P (k bs).ms) : P (withBlock s e va n align k).ms := by
  unfold withBlock
  split
  · split
    · simpa using hs
    · exact hk _
  · simpa using hs

theorem withBlock_ms {s : State} (e : Env) (va : Dword) (n align : Nat) {k : List Byte → Res} (h : ∀ bs, (k bs).ms = s.ms) :
    (withBlock s e va n align k).ms = s.ms := withBlock_rec (P := (· = s.ms)) rfl h

@[simp] theorem putElem_canonical {s : State} (hs : s.Canonical) (c : Copy) (data : List Byte) (dst : Except Cause View) :
    (putElem c data dst s).Canonical := by
  unfold putElem
  split <;> simp [hs]

@[simp] theorem moveElem_canonical {s : State} (hs : s.Canonical) (id k : Nat) : (moveElem id k s).Canonical := by
  simp only [moveElem]
  (repeat' split) <;> simp [hs]

@[simp] theorem moveElems_canonical {s : State} (hs : s.Canonical) (id : Nat) (ks : List Nat) :
    (moveElems s id ks).Canonical := by simp [moveElems, hs]

@[simp] theorem State.elemEarly_canonical {s : State} (hs : s.Canonical) (id k : Nat) : (s.elemEarly id k).Canonical := by
  simp only [State.elemEarly]
  (repeat' split) <;> simp [hs]

@[simp] theorem issueCopy_ms (d : CopyDesc) (e : Env) (s : State) : (issueCopy d e s).ms = s.ms := by simp [issueCopy]
@[simp] theorem cpyBody_ms (w : FWord) (sh : Shape) (e : Env) (s : State) : (cpyBody w sh e s).ms = s.ms := by simp [cpyBody]
@[simp] theorem State.descPut_ms (s : State) (core pa : Nat) (tag : BitVec 8) (bs : List Byte) :
    (s.descPut core pa tag bs).ms = s.ms := by simp [State.descPut]

@[simp] theorem descRead_ms (s : State) (e : Env) (va : Dword) (bs : List Byte) : (descRead s e va bs).2.ms = s.ms := by
  simp only [descRead]
  (repeat' split) <;> simp

@[simp] theorem State.descFetch_ms (s : State) (core ctx pa word : Nat) : (s.descFetch core ctx pa word).ms = s.ms := by
  simp only [State.descFetch]
  (repeat' split) <;> simp

@[simp] theorem cpydBody_ms (w : FWord) (sh : Shape) (e : Env) (s : State) : (cpydBody w sh e s).ms = s.ms := by
  simp only [cpydBody]
  split
  · simp
  · exact withBlock_ms e _ 64 64 fun bs => by split <;> simp

@[simp] theorem cpcommitBody_ms (w : FWord) (sh : Shape) (e : Env) (s : State) : (cpcommitBody w sh e s).ms = s.ms := by simp [cpcommitBody]

@[simp] theorem waitOr_ms (h : Nat) (w : Wait) (f : Floe) (s : State) (done : State → State) :
    (waitOr h w f s done).ms = if waitHolds s h f w then (done s).ms else s.ms := by
  unfold waitOr
  split <;> simp

@[simp] theorem waitBody_ms (w : FWord) (sh : Shape) (e : Env) (s : State) : (waitBody w sh e s).ms = s.ms := by simp [waitBody]
@[simp] theorem State.acClear_ms (s : State) (h k : Nat) : (s.acClear h k).ms = s.ms := by simp [State.acClear]
@[simp] theorem acresetBody_ms (w : FWord) (sh : Shape) (e : Env) (s : State) : (acresetBody w sh e s).ms = s.ms := by simp [acresetBody]
@[simp] theorem State.dropDescs_ms (s : State) (core : Nat) : (s.dropDescs core).ms = s.ms := by simp [State.dropDescs]
@[simp] theorem dfenceBody_ms (w : FWord) (sh : Shape) (e : Env) (s : State) : (dfenceBody w sh e s).ms = s.ms := by simp [dfenceBody]

@[simp] theorem execCopyStart_canonical {s : State} (hs : s.Canonical) (core copy : Nat) : EndsCanonical (execCopyStart core copy s) := by
  simp only [execCopyStart]
  (repeat' split) <;> simp [hs]

@[simp] theorem State.signal_ms (s : State) (ctx name amount : Nat) (after : List Nat) :
    (s.signal ctx name amount after).ms = s.ms := by simp [State.signal]

@[simp] theorem execCopyComplete_canonical {s : State} (hs : s.Canonical) (core copy : Nat) : EndsCanonical (execCopyComplete core copy s) := by
  simp only [execCopyComplete]
  (repeat' split) <;> simp [hs]

@[simp] theorem copyFaultCause_ms (s0 : State) (copy : Nat) (c : Copy) (k : Nat) (x : Cause) (va : Dword) :
    (copyFaultCause s0 copy c k x va).ms = s0.ms := by
  simp only [copyFaultCause]
  (repeat' split) <;> simp

@[simp] theorem execCopyFault_canonical {s : State} (hs : s.Canonical) (core copy : Nat) : EndsCanonical (execCopyFault core copy s) := by
  simp only [execCopyFault]
  (repeat' split) <;> simp [hs]

@[simp] theorem execMoverTrapDelivery_canonical {s : State} (hs : s.Canonical) (floe : Nat) : EndsCanonical (execMoverTrapDelivery floe s) := by
  simp only [execMoverTrapDelivery]
  (repeat' split) <;> simp [hs]

/-! ## Ord -/

@[simp] theorem State.dropUnord_ms (s : State) (core : Nat) : (s.dropUnord core).ms = s.ms := by simp [State.dropUnord]
@[simp] theorem fenceBody_ms (w : FWord) (sh : Shape) (e : Env) (s : State) : (fenceBody w sh e s).ms = s.ms := by simp [fenceBody]
@[simp] theorem leasedropBody_ms (w : FWord) (sh : Shape) (e : Env) (s : State) : (leasedropBody w sh e s).ms = s.ms := by simp [leasedropBody]
@[simp] theorem flushtagBody_ms (w : FWord) (sh : Shape) (e : Env) (s : State) : (flushtagBody w sh e s).ms = s.ms := by simp [flushtagBody]

@[simp] theorem execFloeAged_canonical {s : State} (hs : s.Canonical) (floe : Nat) : EndsCanonical (execFloeAged floe s) := by
  simp only [execFloeAged]
  split <;> simp [hs]

@[simp] theorem execSleepDeadline_canonical {s : State} (hs : s.Canonical) (floe : Nat) : EndsCanonical (execSleepDeadline floe s) := by
  simp only [execSleepDeadline]
  (repeat' split) <;> simp [hs]

@[simp] theorem execWatchdog_canonical {s : State} (hs : s.Canonical) (floe : Nat) : EndsCanonical (execWatchdog floe s) := by
  simp only [execWatchdog]
  (repeat' split) <;> simp [hs]

@[simp] theorem execGtCorrection_canonical {s : State} (hs : s.Canonical) (core : Nat) (target : Int) :
    EndsCanonical (execGtCorrection core target s) := by simp [execGtCorrection, hs]

/-! ## Barrier -/

@[simp] theorem writeTargets_ms (w : FWord) (sh : Shape) (e : Env) (r : Option Nat) (s : State) :
    (writeTargets w sh e r s).ms = s.ms := by simp [writeTargets]
@[simp] theorem packqBody_ms (w : FWord) (sh : Shape) (e : Env) (s : State) : (packqBody w sh e s).ms = s.ms := by simp [packqBody]

@[simp] theorem State.arriveAt_ms (s : State) (h : Nat) (f : Floe) (colour : Nat) (leave : Bool) : (s.arriveAt h f colour leave).ms = s.ms := by
  simp only [State.arriveAt]
  (repeat' split) <;> simp

@[simp] theorem State.barAcquire_ms (s : State) (core : Nat) : (s.barAcquire core).ms = s.ms := by simp [State.barAcquire]
@[simp] theorem barBody_ms (arrives waits : Bool) (w : FWord) (sh : Shape) (e : Env) (s : State) :
    (barBody arrives waits w sh e s).ms = s.ms := by simp [barBody]
@[simp] theorem bartBody_ms (w : FWord) (sh : Shape) (e : Env) (s : State) : (bartBody w sh e s).ms = s.ms := by simp [bartBody]

@[simp] theorem State.arrivalReaches_ms (s : State) (part colour pos : Nat) : (s.arrivalReaches part colour pos).ms = s.ms := by
  simp only [State.arrivalReaches]
  (repeat' split) <;> simp

@[simp] theorem execBarrierArrival_canonical {s : State} (hs : s.Canonical) (part colour : Nat) :
    EndsCanonical (execBarrierArrival part colour s) := by
  simp only [execBarrierArrival]
  (repeat' split) <;> simp [hs]

@[simp] theorem execReleaseReachesFloe_canonical {s : State} (hs : s.Canonical) (part colour floe : Nat) :
    EndsCanonical (execReleaseReachesFloe part colour floe s) := by
  simp only [execReleaseReachesFloe]
  (repeat' split) <;> simp [hs]

@[simp] theorem execReleaseDone_canonical {s : State} (hs : s.Canonical) (part colour : Nat) : EndsCanonical (execReleaseDone part colour s) := by
  simp only [execReleaseDone]
  (repeat' split) <;> simp [hs]

@[simp] theorem execClockStep_canonical {s : State} (hs : s.Canonical) (refuse : Bool) : EndsCanonical (execClockStep refuse s) := by
  simp only [execClockStep]
  (repeat' split) <;> simp [hs]

/-! ## Event -/

@[simp] theorem writeUni_ms (f : Floe) (regs : List Reg) (v : Option Nat) (s : State) : (writeUni f regs v s).ms = s.ms := by simp [writeUni]
@[simp] theorem evsigBody_ms (w : FWord) (sh : Shape) (e : Env) (s : State) : (evsigBody w sh e s).ms = s.ms := by simp [evsigBody]
@[simp] theorem evwaitBody_ms (w : FWord) (sh : Shape) (e : Env) (s : State) : (evwaitBody w sh e s).ms = s.ms := by simp [evwaitBody]
@[simp] theorem evclrBody_ms (w : FWord) (sh : Shape) (e : Env) (s : State) : (evclrBody w sh e s).ms = s.ms := by simp [evclrBody]

@[simp] theorem State.eventMet_ms (s : State) (h n : Nat) : (s.eventMet h n).ms = s.ms := by
  simp only [State.eventMet]
  (repeat' split) <;> simp

@[simp] theorem State.wake_ms (ctx n : Nat) (s : State) (w : Waiter) : (State.wake ctx n s w).ms = s.ms := by
  unfold State.wake
  split <;> simp

@[simp] theorem State.signalNow_ms (s : State) (ctx name a : Nat) : (s.signalNow ctx name a).ms = s.ms := by simp [State.signalNow]
@[simp] theorem State.dropEv_ms (s : State) (ctx : Nat) (o : EvOp) : (s.dropEv ctx o).ms = s.ms := by simp [State.dropEv]

@[simp] theorem State.evOpEnds_ms (s : State) (o : EvOp) (vals : List Nat) : (s.evOpEnds o vals).ms = s.ms := by
  simp only [State.evOpEnds]
  (repeat' split) <;> simp

@[simp] theorem execEventSignal_canonical {s : State} (hs : s.Canonical) (ctx : Nat) : EndsCanonical (execEventSignal ctx s) := by
  simp only [execEventSignal]
  split <;> simp [hs]

@[simp] theorem execEventWait_canonical {s : State} (hs : s.Canonical) (ctx : Nat) : EndsCanonical (execEventWait ctx s) := by
  simp only [execEventWait]
  (repeat' split) <;> simp [hs]

@[simp] theorem execEventClear_canonical {s : State} (hs : s.Canonical) (ctx : Nat) : EndsCanonical (execEventClear ctx s) := by
  simp only [execEventClear]
  split <;> simp [hs]

@[simp] theorem eventReturn_ms (s : State) (id : Nat) (o : Op) : (eventReturn s id o).ms = s.ms := by
  simp only [eventReturn]
  (repeat' split) <;> simp

/-! ## Fp -/

@[simp] theorem fpBody_ms (op : FWord → Nat → Nat → Nat → Nat × Fx) (w : FWord) (sh : Shape) (e : Env) (s : State) :
    (fpBody op w sh e s).ms = s.ms := by simp [fpBody]

/-! ## Pair -/

@[simp] theorem execPairWord_canonical {s : State} (hs : s.Canonical) (h0 h1 : HalfWord) : EndsCanonical (execPairWord h0 h1 s) := by
  simp only [execPairWord]
  (repeat' split) <;> simp [hs]

@[simp] theorem execReservedOpcode_canonical {s : State} (hs : s.Canonical) (w : Dword) : EndsCanonical (execReservedOpcode w s) := by
  simp only [execReservedOpcode]
  split <;> simp [hs]

@[simp] theorem execOrphanExtension_canonical {s : State} (hs : s.Canonical) (w : Dword) : EndsCanonical (execOrphanExtension w s) := by
  simp only [execOrphanExtension]
  split <;> simp [hs]

/-! ## Tile -/

@[simp] theorem mstPut_ms (core : Nat) (r : Region) (o : TileOp) (x : Matrix) (i : Nat) (s : State) :
    (mstPut core r o x i s).ms = s.ms := by simp [mstPut]

@[simp] theorem mstTile_ms (s : State) (leader core : Nat) (r : Region) (o : TileOp) (x : Matrix) : (mstTile s leader core r o x).1.ms = s.ms := by
  unfold mstTile
  refine foldl_fst_ms (fun t fx i => ?_) _ s _
  dsimp only
  split <;> simp

@[simp] theorem tileEffect_ms (s : State) (o : TileOp) (leader m core : Nat) : (tileEffect s o leader m core).1.ms = s.ms := by
  simp only [tileEffect]
  (repeat' split) <;> simp

@[simp] theorem tilePlain_ms (s : State) (o : TileOp) (m core : Nat) : (tilePlain s o m core).ms = s.ms := by
  unfold tilePlain
  split <;> simp

@[simp] theorem performTile_ms (s : State) (core m : Nat) (o : TileOp) : (performTile s core m o).1.ms = s.ms := by
  simp only [performTile]
  split_ifs
  · rfl
  · exact foldl_fst_ms (fun t fx c => by simp) _ s _
  · exact foldl_fst_ms (fun t fx c => by simp) _ s _

@[simp] theorem State.mxForget_ms (s : State) (core m : Nat) : (s.mxForget core m).ms = s.ms := by simp [State.mxForget]

@[simp] theorem State.tileRead_ms (s : State) (core m pos key : Nat) : (s.tileRead core m pos key).ms = s.ms := by
  simp only [State.tileRead]
  (repeat' split) <;> simp

@[simp] theorem State.tileWrite_ms (s : State) (core m pos key : Nat) : (s.tileWrite core m pos key).ms = s.ms := by
  simp only [State.tileWrite]
  (repeat' split) <;> simp

@[simp] theorem State.tilePart_ms (s : State) (core m pos key : Nat) : (s.tilePart core m pos key).ms = s.ms := by simp [State.tilePart]

@[simp] theorem execTileOperationPerform_canonical {s : State} (hs : s.Canonical) (core mctx stream : Nat) :
    EndsCanonical (execTileOperationPerform core mctx stream s) := by
  simp only [execTileOperationPerform]
  (repeat' split) <;> simp [hs]

@[simp] theorem State.acquireMx_ms (s : State) (h core m : Nat) (pair : Bool) : (s.acquireMx h core m pair).ms = s.ms := by simp [State.acquireMx]

@[simp] theorem mctxBody_ms (w : FWord) (sh : Shape) (e : Env) (s : State) : (mctxBody w sh e s).ms = s.ms := by
  simp only [mctxBody]
  (repeat' split) <;> simp

@[simp] theorem mrelBody_ms (w : FWord) (sh : Shape) (e : Env) (s : State) : (mrelBody w sh e s).ms = s.ms := by simp [mrelBody]
@[simp] theorem msyncBody_ms (w : FWord) (sh : Shape) (e : Env) (s : State) : (msyncBody w sh e s).ms = s.ms := by simp [msyncBody]

@[simp] theorem execMatrixContextGrant_canonical {s : State} (hs : s.Canonical) (core : Nat) : EndsCanonical (execMatrixContextGrant core s) := by
  simp only [execMatrixContextGrant]
  (repeat' split) <;> simp [hs]

@[simp] theorem execMatrixContextDrained_canonical {s : State} (hs : s.Canonical) (core mctx : Nat) :
    EndsCanonical (execMatrixContextDrained core mctx s) := by
  simp only [execMatrixContextDrained]
  split <;> simp [hs]

@[simp] theorem issueTile_ms (o : TileOp) (imgs : List ImageRef) (pairOnly : Bool) (e : Env) (s : State) :
    (issueTile o imgs pairOnly e s).ms = s.ms := by
  simp only [issueTile]
  (repeat' split) <;> simp

@[simp] theorem mulBody_ms (k : TileKind) (w : FWord) (sh : Shape) (e : Env) (s : State) : (mulBody k w sh e s).ms = s.ms := by simp [mulBody]
@[simp] theorem mmagBody_ms (w : FWord) (sh : Shape) (e : Env) (s : State) : (mmagBody w sh e s).ms = s.ms := by simp [mmagBody]
@[simp] theorem accBody_ms (k : TileKind) (w : FWord) (sh : Shape) (e : Env) (s : State) : (accBody k w sh e s).ms = s.ms := by simp [accBody]
@[simp] theorem mzeroBody_ms (w : FWord) (sh : Shape) (e : Env) (s : State) : (mzeroBody w sh e s).ms = s.ms := by simp [mzeroBody]
@[simp] theorem tpsetBody_ms (w : FWord) (sh : Shape) (e : Env) (s : State) : (tpsetBody w sh e s).ms = s.ms := by simp [tpsetBody]
@[simp] theorem tpscanBody_ms (w : FWord) (sh : Shape) (e : Env) (s : State) : (tpscanBody w sh e s).ms = s.ms := by simp [tpscanBody]

/-! ## Issue -/

@[simp] theorem issueTurn_ms (s : State) (core slice : Nat) (busy : List (Nat × Bool)) : (issueTurn s core slice busy).state.ms = s.ms := by
  unfold issueTurn
  (repeat' split) <;> simp

@[simp] theorem State.quarantine_ms (s : State) (core : Nat) : (s.quarantine core).ms = s.ms := by
  simp only [State.quarantine]
  (repeat' split) <;> simp

@[simp] theorem mismatchTurn_ms (s : State) (core slice : Nat) (busy : List (Nat × Bool)) (again : Bool) :
    (mismatchTurn s core slice busy again).state.ms = s.ms := by
  have hi := issueTurn_ms s core slice busy
  unfold mismatchTurn
  split
  · next t ht => rwa [ht] at hi
  · next i t ht =>
    have hms : t.ms = s.ms := by rwa [ht] at hi
    split
    · split <;> simp [hms]
    · exact hms

/-! ## Tree -/

theorem writeAll_canonical {v : TreeView} {ws : List TreeWrite} {t : State} (hs : v.s.Canonical) (h : writeAll v ws = .ok t) : t.Canonical := by
  refine List.foldlRecOn ws _ (motive := fun st : Except WalkFault State => ∀ u, st = .ok u → u.Canonical) ?_ ?_ t h
  · intro u hu
    rwa [← Except.ok.inj hu]
  · intro st hst w _ u hu
    split at hu
    · cases hu
    · split at hu <;> cases hu
      next hw => exact writeVirt_canonical (hst _ rfl) hw

@[simp] theorem State.bindSlot_ms (s : State) (core ctx slot : Nat) (addr : Dword) (bs : List Byte) :
    (s.bindSlot core ctx slot addr bs).ms = s.ms := by
  unfold State.bindSlot
  split <;> simp

@[simp] theorem twbindBody_ms (w : FWord) (sh : Shape) (e : Env) (s : State) : (twbindBody w sh e s).ms = s.ms := by
  simp only [twbindBody]
  split
  · simp
  · exact withBlock_ms e _ 64 64 fun bs => by split <;> simp

@[simp] theorem twinvBody_ms (w : FWord) (sh : Shape) (e : Env) (s : State) : (twinvBody w sh e s).ms = s.ms := by simp [twinvBody]

@[simp] theorem issueTree_ms (op : TreeOp) (w : FWord) (sh : Shape) (e : Env) (s : State) : (issueTree op w sh e s).ms = s.ms := by
  unfold issueTree
  (repeat' split) <;> simp

theorem neighbour_ms {s : State} {v : TreeView} {t : TreeDesc} {o : Op} {c : Nat} {x y z : Int} {r : Nat × State}
    (h : neighbour s v t o c x y z = .ok r) : r.2.ms = s.ms := by
  simp only [neighbour] at h
  split at h
  · cases h; rfl
  · split at h
    · cases h
    · next hc => cases h; exact cachedLookup_ms hc
    · next hc =>
      split at h <;> cases h
      exact cachedLookup_ms hc

theorem neighbours_ms {v : TreeView} {t : TreeDesc} {o : Op} {c : Nat} {x y z : Int} {ds : List (Int × Int × Int)} :
    ∀ {s : State} {r : List Nat × State}, neighbours v t o c x y z ds s = .ok r → r.2.ms = s.ms := by
  induction ds with
  | nil => intro s r h; cases h; rfl
  | cons d ds ih =>
    intro s r h
    simp only [neighbours] at h
    split at h
    · cases h
    · next h1 =>
      split at h <;> cases h
      next h2 => exact (ih h2).trans (neighbour_ms h1)

theorem readerLane_ms {s : State} {id : Nat} {o : Op} {la : LaneAcc} {r : Option (List Nat) × State} (h : readerLane s id o la = .ok r) :
    r.2.ms = s.ms := by
  unfold readerLane at h
  extract_lets v at h
  split at h
  · cases h
  · next s0 h0 =>
    have e0 := slotRefresh_ms h0
    split at h
    · cases h
    · split at h
      · split at h <;> cases h
        next hc => exact (cachedLookup_ms hc).trans e0
      · split at h
        · (repeat' split at h) <;> cases h <;> exact e0
        · split at h
          · cases h
          · next hc => cases h; exact (cachedLookup_ms hc).trans e0
          · next hc =>
            split at h <;> cases h
            exact (cachedLookup_ms hc).trans e0
      · split at h <;> cases h
        next hn => exact (neighbours_ms hn).trans e0
      · split at h <;> cases h
        exact e0
      · (repeat' split at h) <;> cases h <;> exact e0

theorem twstWrites_ms {s : State} {id : Nat} {o : Op} {la : LaneAcc} {r : State × List TreeWrite × Fx} (h : twstWrites s id o la = .ok r) :
    r.1.ms = s.ms := by
  unfold twstWrites at h
  extract_lets v c bnd x y z at h
  split at h
  · cases h
  · next s0 h0 =>
    have e0 := slotRefresh_ms h0
    split at h
    · cases h
    · extract_lets put at h
      have hput {s1 : State} {j vox : Nat} (hp : put s1 j vox = .ok r) : r.1.ms = s1.ms := by
        simp only [put] at hp
        split at hp <;> cases hp
        rfl
      split at h
      · split at h
        · cases h; exact e0
        · split at h
          · cases h
          · exact (hput h).trans e0
      · split at h
        · cases h
        · next hc => cases h; exact (cachedLookup_ms hc).trans e0
        · next hc => exact (hput h).trans ((cachedLookup_ms hc).trans e0)

theorem twstLane_canonical {s : State} (hs : s.Canonical) {id : Nat} {o : Op} {la : LaneAcc} {r : State × Fx} (h : twstLane s id o la = .ok r) :
    r.1.Canonical := by
  unfold twstLane at h
  split at h
  · cases h
  · next hw =>
    have h1 := twstWrites_ms hw
    dsimp only at h1
    split at h
    · cases h
    · split at h <;> cases h
      simpa [h1] using hs
    · split at h <;> cases h
      next ha => exact writeAll_canonical (by simpa [h1] using hs) ha

theorem allocDone_canonical {s : State} (hs : s.Canonical) {o : Op} {la : LaneAcc} {r : State × Nat × Nat} (h : allocDone s o la = .ok r) :
    r.1.Canonical := by
  simp only [allocDone] at h
  split at h
  · cases h
  · split at h <;> cases h
    next hw => exact writeAll_canonical hs hw

@[simp] theorem execAllocatorOperation_canonical {s : State} (hs : s.Canonical) (op : Nat) : EndsCanonical (execAllocatorOperation op s) := by
  unfold execAllocatorOperation
  split
  · exact hs
  · split
    · split
      · exact hs
      · split
        · exact hs
        · next h => simpa using allocDone_canonical hs h
    · exact hs

@[simp] theorem State.wrResults_ms (s : State) (f : Floe) (lane : Nat) (d : List Reg) (ws : List Nat) :
    (s.wrResults f lane d ws).ms = s.ms := by simp [State.wrResults]

@[simp] theorem writeAnswers_ms (f : Floe) (d : List Reg) (n k : Nat) : ∀ (vs : List Nat) (s : State), (writeAnswers f d n k vs s).ms = s.ms := by
  induction k with
  | zero => intro vs s; rfl
  | succ k ih =>
    intro vs s
    cases vs with
    | nil => rfl
    | cons l ws => simp [writeAnswers, ih]

@[simp] theorem readerLanes_ms (id : Nat) (o : Op) (f : Option Floe) (ls : List LaneAcc) : ∀ s : State, (readerLanes id o f ls s).1.ms = s.ms := by
  induction ls with
  | nil => intro s; rfl
  | cons la t ih =>
    intro s
    simp only [readerLanes]
    split
    · rfl
    · next h =>
      rw [ih, ← readerLane_ms h]
      split <;> simp

@[simp] theorem twstLanes_canonical (id : Nat) (o : Op) (ls : List LaneAcc) :
    ∀ {s : State} (x : Fx), s.Canonical → Table.wf memDefault (twstLanes id o ls s x).1.ms.mem = true := by
  induction ls with
  | nil => intro s x hs; exact hs
  | cons la t ih =>
    intro s x hs
    simp only [twstLanes]
    split
    · exact hs
    · next h => exact ih _ (twstLane_canonical hs h)

@[simp] theorem State.askWord_ms (s : State) (id : Nat) (x : WalkFault) : (s.askWord id x).ms = s.ms := by
  unfold State.askWord
  split <;> simp

@[simp] theorem State.noteWalk_ms (s : State) (o : Op) : (s.noteWalk o).ms = s.ms := by simp [State.noteWalk]

@[simp] theorem treeReturn_ms (s : State) (id : Nat) (o : Op) : (treeReturn s id o).ms = s.ms := by
  simp only [treeReturn]
  (repeat' split) <;> simp

@[simp] theorem twstStored_canonical {s : State} (hs : s.Canonical) (id : Nat) (o : Op) : (twstStored s id o).Canonical := by
  unfold twstStored
  extract_lets r s1
  split
  · exact hs
  · split
    · (repeat' split) <;> simp [hs]
    · have hr : r.1.Canonical := twstLanes_canonical id o _ _ hs
      split <;> simp [s1, hr]

@[simp] theorem treeFault_canonical {s : State} (hs : s.Canonical) (id : Nat) (o : Op) : (treeFault s id o).Canonical := by
  unfold treeFault
  extract_lets f q r
  clear_value f
  have hr : r.1.Canonical := by
    simp only [r]
    split
    · split
      · split
        · cases f <;> simp [hs]
        · exact hs
      · exact hs
    · split <;> simp [q, hs]
  split
  · exact hs
  · split
    · exact hs
    · split
      · exact hs
      · cases f with
        | none => simp [hr]
        | some g => dsimp only; split <;> simp [hr]

@[simp] theorem treeReplay_ms (s : State) (id : Nat) (o : Op) (f : Floe) : (treeReplay s id o f).ms = s.ms := by simp [treeReplay]

/-! ## Launch -/

@[simp] theorem State.takeSeat_ms (s : State) (core : Nat) (seat : Seat) (bytes : Nat) :
    (s.takeSeat core seat bytes).ms = s.ms := by simp [State.takeSeat]

@[simp] theorem State.createInst_ms (s : State) (ctx : Nat) (r : LaunchReq) : (s.createInst ctx r).1.ms = s.ms := by
  simp only [State.createInst]
  (repeat' split) <;> simp

@[simp] theorem launchBody_ms (w : FWord) (sh : Shape) (e : Env) (s : State) : (launchBody w sh e s).ms = s.ms := by
  simp only [launchBody]
  split
  · simp
  · split
    · simp
    · exact withBlock_ms e _ 64 64 fun bs => by (repeat' split) <;> simp

@[simp] theorem launchArrive_ms (s : State) (id : Nat) (o : Op) : (launchArrive s id o).ms = s.ms := by
  simp only [launchArrive]
  (repeat' split) <;> simp

@[simp] theorem execLaunchEngineTake_canonical {s : State} (hs : s.Canonical) (die : Nat) : EndsCanonical (execLaunchEngineTake die s) := by
  simp only [execLaunchEngineTake]
  (repeat' split) <;> simp [hs]

@[simp] theorem State.bindColours_ms (s : State) (ctx inst : Nat) (i : Inst) (k : Kernel) (bp : Nat) : (s.bindColours ctx inst i k bp).ms = s.ms :=
  foldl_ms (fun _ _ => by rfl) _ s
@[simp] theorem State.bindLeaf_ms (s : State) (ctx : Nat) (i : Inst) (k : Kernel) : (s.bindLeaf ctx i k).ms = s.ms := by simp [State.bindLeaf]

@[simp] theorem State.formFloe_ms (s : State) (ctx inst : Nat) (i : Inst) (k : Kernel) (core : Nat) (seat : Seat) :
    (s.formFloe ctx inst i k core seat).ms = s.ms := by
  have args (t : State) (f : Floe) :
      (i.args.zipIdx.foldl (fun (u : State) p => u.setFirn core (regWord f ⟨true, p.2⟩ 0) ⟨p.1, true⟩) t).ms = t.ms :=
    foldl_ms (fun _ _ => by rfl) _ t
  simp [State.formFloe, args]

theorem placeOne_ms {s t : State} {ctx inst : Nat} {i : Inst} (h : placeOne s ctx inst i = some t) : t.ms = s.ms := by
  simp only [placeOne] at h
  split at h
  · cases h
  · split at h
    · split at h
      · cases h
      · simp [← Option.some.inj h]
    · obtain ⟨v, -, rfl⟩ := Option.map_eq_some_iff.mp h
      simp

@[simp] theorem execFloePlacement_canonical {s : State} (hs : s.Canonical) (die : Nat) : EndsCanonical (execFloePlacement die s) := by
  refine getD_canonical hs fun t ht => ?_
  obtain ⟨e, -, he⟩ := List.exists_of_findSome?_eq_some ht
  simp [placeOne_ms he, hs]

@[simp] theorem execLaunchDone_canonical {s : State} (hs : s.Canonical) (floe : Nat) : EndsCanonical (execLaunchDone floe s) := by
  simp only [execLaunchDone]
  (repeat' split) <;> simp [hs]

@[simp] theorem execLeafEnumeration_canonical {s : State} (hs : s.Canonical) (ctx inst : Nat) : EndsCanonical (execLeafEnumeration ctx inst s) := by
  simp only [execLeafEnumeration]
  (repeat' split) <;> simp [hs]

/-! ## Queue -/

@[simp] theorem State.jWrite_ms (s : State) (j : JRef) (off : Nat) (bs : List Byte) : (s.jWrite j off bs).ms = s.ms := by
  unfold State.jWrite
  split <;> simp

@[simp] theorem State.jNow_canonical {s : State} (hs : s.Canonical) (j : JRef) (off : Nat) (bs : List Byte) : (s.jNow j off bs).Canonical := by
  unfold State.jNow
  split <;> simp [hs]

@[simp] theorem State.jNew_canonical {s : State} (hs : s.Canonical) (part high status reason inst : Nat) :
    (s.jNew part high status reason inst).1.Canonical := by
  simp [State.jNew, hs]

@[simp] theorem State.jSet_canonical {s : State} (hs : s.Canonical) (j : JRef) (status reason inst : Nat) :
    (s.jSet j status reason inst).Canonical := by
  unfold State.jSet
  split <;> simp [hs]

@[simp] theorem State.queueWaits_ms (s : State) (key : Nat) : (s.queueWaits key).ms = s.ms := by
  unfold State.queueWaits
  split <;> simp

@[simp] theorem State.enqAnswer_ms (s : State) (r : EnqReq) (status seq : Nat) : (s.enqAnswer r status seq).ms = s.ms := by
  simp only [State.enqAnswer]
  (repeat' split) <;> simp

theorem State.ringWrite_canonical {s : State} (hs : s.Canonical) {r : EnqReq} {q : Queue} {p : State × JRef} (h : s.ringWrite r q = some p) :
    p.1.Canonical := by
  simp only [State.ringWrite] at h
  split at h
  · cases h
  · next hw =>
    rw [← Option.some.inj h]
    simp [writeVirt_canonical hs hw]

@[simp] theorem execAccept_canonical {s : State} (hs : s.Canonical) (part : Nat) : EndsCanonical (execAccept part s) := by
  unfold execAccept
  split
  · exact hs
  · next r _ =>
    extract_lets s1 s2
    have h1 : s1.Canonical := hs
    split
    · simp [h1]
    · rw [endsCanonical_next]
      split
      · split
        · split <;> simp [s2, hs]
        · exact hs
      · exact hs
    · split
      · exact hs
      · split
        · exact hs
        · split
          · exact hs
          · next h => simpa using State.ringWrite_canonical h1 h

@[simp] theorem execHostApertureRecord_canonical {s : State} (hs : s.Canonical) (fn offset : Nat) (bytes : List Byte) :
    EndsCanonical (execHostApertureRecord fn offset bytes s) := by
  simp only [execHostApertureRecord]
  split <;> simp [hs]

@[simp] theorem execQueueTimeout_canonical {s : State} (hs : s.Canonical) (part queue : Nat) : EndsCanonical (execQueueTimeout part queue s) := by
  simp only [execQueueTimeout]
  (repeat' split) <;> simp [hs]

@[simp] theorem execQueueBatchLaunch_canonical {s : State} (hs : s.Canonical) (part queue : Nat) :
    EndsCanonical (execQueueBatchLaunch part queue s) := by
  simp only [execQueueBatchLaunch]
  (repeat' split) <;> simp [hs]

@[simp] theorem State.kernelRests_ms (s : State) (ctx k : Nat) : (s.kernelRests ctx k).ms = s.ms := by
  simp only [State.kernelRests]
  (repeat' split) <;> simp

@[simp] theorem State.dropInst_ms (s : State) (ctx inst : Nat) : (s.dropInst ctx inst).ms = s.ms :=
  foldl_ms (fun _ _ => by rfl) _ _

@[simp] theorem execInstanceDone_canonical {s : State} (hs : s.Canonical) (ctx inst : Nat) : EndsCanonical (execInstanceDone ctx inst s) := by
  simp only [execInstanceDone]
  (repeat' split) <;> simp [hs]

@[simp] theorem enqStatus_ms (e : Env) (sh : Shape) (status : Nat) (s : State) : (enqStatus e sh status s).ms = s.ms := by simp [enqStatus]
@[simp] theorem enqLocal_ms (w : FWord) (sh : Shape) (e : Env) (kind key : Nat) (ctx : Option Nat) (bs : List Byte) (s : State) :
    (enqLocal w sh e kind key ctx bs s).ms = s.ms := by simp [enqLocal]
@[simp] theorem enqRemote_ms (w : FWord) (sh : Shape) (e : Env) (dev key : Nat) (bs : List Byte) (s : State) :
    (enqRemote w sh e dev key bs s).ms = s.ms := by simp [enqRemote]

@[simp] theorem enqBody_canonical {s : State} (hs : s.Canonical) (w : FWord) (sh : Shape) (e : Env) :
    Table.wf memDefault (enqBody w sh e s).ms.mem = true := by
  simp only [enqBody]
  (repeat' split) <;> simp [hs]

@[simp] theorem nodeoutBody_canonical {s : State} (hs : s.Canonical) (w : FWord) (sh : Shape) (e : Env) :
    Table.wf memDefault (nodeoutBody w sh e s).ms.mem = true := by
  simp only [nodeoutBody]
  (repeat' split) <;> simp [hs]

@[simp] theorem recvBody_ms (w : FWord) (sh : Shape) (e : Env) (s : State) : (recvBody w sh e s).ms = s.ms := by simp [recvBody]

@[simp] theorem enqReturn_ms (s : State) (id : Nat) (o : Op) : (enqReturn s id o).ms = s.ms := by
  simp only [enqReturn]
  (repeat' split) <;> simp

@[simp] theorem State.nodeTaken_ms (s : State) (key : Nat) : (s.nodeTaken key).ms = s.ms := by simp [State.nodeTaken]

@[simp] theorem execWalkerNodeRecord_canonical {s : State} (hs : s.Canonical) (part queue : Nat) :
    EndsCanonical (execWalkerNodeRecord part queue s) := by
  unfold execWalkerNodeRecord
  extract_lets key
  split
  · exact hs
  · split
    · exact hs
    · extract_lets v places
      split
      · exact hs
      · split
        · exact hs
        · split
          · exact hs
          · extract_lets r refuse
            have hrefuse (code : Nat) : (refuse code).Canonical := by simp [refuse, hs]
            split
            · exact hs
            · split
              · exact hrefuse 3
              · split
                · exact hs
                · rw [endsCanonical_next]
                  split
                  · exact hs
                  · exact hrefuse _
                · exact hs
                · split
                  · exact hs
                  · split
                    · exact hs
                    · next h => simpa using State.ringWrite_canonical hs h

@[simp] theorem blendRegion_canonical (part key : Nat) (t : Target) (r n : Nat) :
    ∀ {s : State}, s.Canonical → (blendRegion part key t r n s).Canonical := by
  induction n with
  | zero => intro s hs; exact hs
  | succ n ih =>
    intro s hs
    unfold blendRegion
    split
    · exact hs
    · extract_lets nk
      split
      · exact hs
      · split
        · simpa using hs
        · extract_lets va
          split
          · exact hs
          · extract_lets px
            split
            · exact hs
            · split
              · exact hs
              · next hw =>
                have h1 := writeVirt_canonical hs hw
                exact ih (by split <;> simp [h1])

@[simp] theorem execBlenderRecord_canonical {s : State} (hs : s.Canonical) (part queue : Nat) : EndsCanonical (execBlenderRecord part queue s) := by
  simp only [execBlenderRecord]
  (repeat' split) <;> simp [hs]

/-! ## Sys -/

@[simp] theorem rdsrBody_ms (w : FWord) (sh : Shape) (e : Env) (s : State) : (rdsrBody w sh e s).ms = s.ms := by simp [rdsrBody]

theorem writePart_ms {s t : State} {part n v : Nat} (h : writePart s part n v = some t) : t.ms = s.ms := by
  unfold writePart at h
  split at h <;> simp only [Option.some.injEq, reduceCtorEq] at h <;> simp [← h]

theorem writeCtx_ms {s t : State} {ctx n v : Nat} (h : writeCtx s ctx n v = some t) : t.ms = s.ms := by
  unfold writeCtx at h
  (repeat' split at h) <;> simp only [Option.some.injEq, reduceCtorEq] at h <;> simp [← h]

theorem writeFloeSr_ms {s t : State} {h : Nat} {f : Floe} {n v : Nat} (ht : writeFloeSr s h f n v = some t) : t.ms = s.ms := by
  unfold writeFloeSr at ht
  split at ht
  · simp [← Option.some.inj ht]
  · rw [← Option.some.inj ht]
    split <;> simp
  · simp [← Option.some.inj ht]
  · cases ht

theorem writeSr_ms {s t : State} {h : Nat} {f : Floe} {n v : Nat} (ht : writeSr s h f n v = some t) : t.ms = s.ms := by
  simp only [writeSr] at ht
  split at ht
  · simp [← Option.some.inj ht]
  · obtain ⟨u, hu, rfl⟩ := Option.map_eq_some_iff.mp ht
    have hums : u.ms = s.ms := by
      split at hu
      · exact writeFloeSr_ms hu
      · split at hu
        · exact writePart_ms hu
        · exact writeCtx_ms hu
    split <;> simp [hums]

@[simp] theorem wrsrBody_ms (w : FWord) (sh : Shape) (e : Env) (s : State) : (wrsrBody w sh e s).ms = s.ms := by
  simp only [wrsrBody]
  split
  · simp
  · split
    · simp
    · split
      · simp
      · split
        · next t ht => simpa using writeSr_ms ht
        · simp

@[simp] theorem haltBody_ms (w : FWord) (sh : Shape) (e : Env) (s : State) : (haltBody w sh e s).ms = s.ms := by simp [haltBody]

@[simp] theorem ctxcmdBody_canonical {s : State} (hs : s.Canonical) (w : FWord) (sh : Shape) (e : Env) :
    Table.wf memDefault (ctxcmdBody w sh e s).ms.mem = true := by
  simp only [ctxcmdBody]
  split
  · exact hs
  · split
    · simpa using hs
    · split
      · exact hs
      · exact withBlock_rec (P := fun m => Table.wf memDefault m.mem = true) hs fun bs => by split <;> simp [hs]

/-! ## Context -/

@[simp] theorem State.replayTransfer_ms (s : State) (id : Nat) (f : Floe) : (s.replayTransfer id f).ms = s.ms := by
  simp only [State.replayTransfer]
  (repeat' split) <;> simp

@[simp] theorem State.replayFloe_mem (s : State) (h arg : Nat) : (s.replayFloe h arg).ms.mem = s.ms.mem := by
  simp only [State.replayFloe]
  (repeat' split) <;> simp

@[simp] theorem State.replayCopy_mem (s : State) (id : Nat) (c : Copy) (arg : Nat) : (s.replayCopy id c arg).ms.mem = s.ms.mem := by
  simp only [State.replayCopy]
  (repeat' split) <;> simp

@[simp] theorem State.saveFloe_ms (s : State) (h : Nat) (f : Floe) : (s.saveFloe h f).ms = s.ms := by simp [State.saveFloe]

@[simp] theorem execFloeSaved_canonical {s : State} (hs : s.Canonical) (floe : Nat) : EndsCanonical (execFloeSaved floe s) := by
  simp only [execFloeSaved]
  (repeat' split) <;> simp [hs]

@[simp] theorem execSaveRldTimeout_canonical {s : State} (hs : s.Canonical) (op : Nat) : EndsCanonical (execSaveRldTimeout op s) := by
  simp only [execSaveRldTimeout]
  (repeat' split) <;> simp [hs]

@[simp] theorem State.restoreCopies_mem (s : State) (h core : Nat) : (s.restoreCopies h core).ms.mem = s.ms.mem :=
  foldl_mem (fun t id => by (repeat' split) <;> simp) _ s

theorem State.restoreMx_ms {s t : State} {h core : Nat} {x : MxSave} (ht : s.restoreMx h core x = some t) : t.ms = s.ms := by
  obtain ⟨m, -, rfl⟩ := Option.map_eq_some_iff.mp ht
  simp

@[simp] theorem State.fillSlots_ms (s : State) (core : Nat) (ts : Table TreeSlot) : (s.fillSlots core ts).ms = s.ms := by simp [State.fillSlots]

theorem State.restoreOne_mem {s t : State} {h old target : Nat} (ht : s.restoreOne h old target = some t) : t.ms.mem = s.ms.mem := by
  unfold State.restoreOne at ht
  split at ht
  · cases ht
  · extract_lets k at ht
    split at ht
    · cases ht
    · extract_lets s1 s2 s3 s4? at ht
      have h3 : s3.ms = s.ms := by
        simp only [s3, s2, s1]
        split <;> simp
      obtain ⟨s4, h4, rfl⟩ := Option.map_eq_some_iff.mp ht
      have h4 : s4.ms = s.ms := by
        simp only [s4?] at h4
        split at h4
        · rw [State.restoreMx_ms h4, h3]
        · rw [← Option.some.inj h4, h3]
      extract_lets s4a s5 s6 s7 s8
      have h7 : s7.ms = s.ms := by
        simp only [s7, s6, s5, s4a]
        split <;> simp [h4]
      simp only [s8, State.restoreCopies_mem]
      split <;> simp [h7]

theorem restoreAll_mem {l : List (Nat × Nat × Nat)} : ∀ {s t : State}, restoreAll l s = some t → t.ms.mem = s.ms.mem := by
  induction l with
  | nil => intro s t ht; cases ht; rfl
  | cons p l ih =>
    intro s t ht
    obtain ⟨u, hu, ht⟩ := Option.bind_eq_some_iff.mp ht
    rw [ih ht, State.restoreOne_mem hu]

theorem State.restoreUnit_mem {s t : State} {h target : Nat} {f : Floe} (ht : s.restoreUnit h f target = some t) : t.ms.mem = s.ms.mem := by
  unfold State.restoreUnit at ht
  extract_lets there pair own cores floes at ht
  have hown {l : List (Nat × Nat × Nat)} (ho : own l = some t) : t.ms.mem = s.ms.mem := by
    simp only [own] at ho
    split at ho
    · exact restoreAll_mem ho
    · cases ho
  split at ht
  · exact hown ht
  · split at ht
    · exact hown ht
    · split at ht
      · cases ht
      · split at ht
        · exact restoreAll_mem ht
        · cases ht

@[simp] theorem execFloeRestore_canonical {s : State} (hs : s.Canonical) (floe core : Nat) : EndsCanonical (execFloeRestore floe core s) := by
  unfold execFloeRestore
  split
  · exact hs
  · rw [endsCanonical_next]
    split
    · exact getD_canonical hs fun t ht => by simp [State.restoreUnit_mem ht, hs]
    · exact hs

@[simp] theorem execDeadlineRestore_canonical {s : State} (hs : s.Canonical) (floe : Nat) : EndsCanonical (execDeadlineRestore floe s) := by
  unfold execDeadlineRestore
  split
  · exact hs
  · split
    · exact hs
    · dsimp only
      split
      · next ht =>
        obtain ⟨c, -, hc⟩ := List.exists_of_findSome?_eq_some ht
        simp [State.restoreUnit_mem hc, hs]
      · refine getD_canonical hs fun t ht => ?_
        obtain ⟨h, -, rfl⟩ := Option.map_eq_some_iff.mp ht
        simp [hs]

@[simp] theorem State.hcmd_ms (s : State) (fn status reason num seq : Nat) : (s.hcmd fn status reason num seq).ms = s.ms := by rw [State.hcmd]

@[simp] theorem State.endPending_canonical {s : State} (hs : s.Canonical) (ctx : Nat) (ok : Bool) : (s.endPending ctx ok).Canonical := by
  simp only [State.endPending]
  (repeat' split) <;> simp [hs]

@[simp] theorem State.saveSlots_ms (s : State) (ctx : Nat) : (s.saveSlots ctx).ms = s.ms := by
  simp only [State.saveSlots, State.modCtx_ms]
  exact foldl_ms (fun _ _ => by rfl) _ s

@[simp] theorem State.restoreSlots_ms (s : State) (ctx : Nat) (moved : List Nat) : (s.restoreSlots ctx moved).ms = s.ms := by
  unfold State.restoreSlots
  split <;> simp

@[simp] theorem execContextSaved_canonical {s : State} (hs : s.Canonical) (ctx : Nat) : EndsCanonical (execContextSaved ctx s) := by
  simp only [execContextSaved]
  (repeat' split) <;> simp [hs]

@[simp] theorem State.flushCore_ms (s : State) (core : Nat) (tag : BitVec 8) : (s.flushCore core tag).ms = s.ms := by simp [State.flushCore]

@[simp] theorem execMigrationFlushAck_canonical {s : State} (hs : s.Canonical) (ctx : Nat) : EndsCanonical (execMigrationFlushAck ctx s) := by
  simp only [execMigrationFlushAck]
  (repeat' split) <;> simp [hs]

@[simp] theorem execFaultRecordPost_canonical {s : State} (hs : s.Canonical) (ctx : Nat) : EndsCanonical (execFaultRecordPost ctx s) := by
  unfold execFaultRecordPost
  split
  · exact hs
  · dsimp only
    split
    · exact hs
    · split
      · exact hs
      · split
        · exact hs
        · split
          · simp [hs]
          · next h => simp [writeVirt_canonical hs h]

/-! ## Command -/

@[simp] theorem CmdRes.finish_canonical {r : CmdRes} (hr : r.s.Canonical) (j : JRef) (fn : Option Nat) : (r.finish j fn).Canonical := by
  unfold CmdRes.finish
  extract_lets status reason s1
  have h1 : s1.Canonical := by simp [s1, hr]
  split
  · exact hr
  · split <;> simp [h1]

theorem runQueued_canonical {body : CmdBody} (hb : body.KeepsCanonical) {s : State} (hs : s.Canonical) (code ctx : Nat) :
    (runQueued code ctx body s).Canonical := by
  unfold runQueued
  split
  · exact hs
  · split
    · exact hs
    · split
      · exact hs
      · extract_lets s1 r
        have h1 : s1.Canonical := by simpa [s1] using hs
        refine CmdRes.finish_canonical ?_ _ _
        simp only [r]
        split
        · exact h1
        · exact hb _ _ _ _ _ h1

theorem runHost_canonical {body : CmdBody} (hb : body.KeepsCanonical) {s : State} (hs : s.Canonical) (code fn ctx : Nat) (rsv : Bool)
    (args : List Dword) : (runHost code fn ctx rsv args body s).Canonical := by
  unfold runHost
  split
  · exact hs
  · split
    · simpa using hs
    · split
      · exact hs
      · extract_lets part j s1
        have h1 : s1.Canonical := by
          rw [State.Canonical, State.hcmd_ms]
          exact State.jNew_canonical hs ..
        split
        · simpa using h1
        · exact CmdRes.finish_canonical (hb _ _ _ _ _ h1) _ _

theorem runCmd_canonical {body : CmdBody} (hb : body.KeepsCanonical) {s : State} (hs : s.Canonical) (code : Nat) (src : CmdSource) :
    EndsCanonical (runCmd code body src s) := by
  cases src with
  | queued ctx => exact runQueued_canonical hb hs code ctx
  | host fn ctx rsv a b c d => exact runHost_canonical hb hs code fn ctx rsv _

@[simp] theorem replayFloeCmd_mem (ctx inst num a : Nat) (s : State) : (replayFloeCmd ctx inst num a s).s.ms.mem = s.ms.mem := by
  unfold replayFloeCmd
  (repeat' split) <;> simp

@[simp] theorem replayCopyCmd_mem (ctx inst num a cp : Nat) (s : State) : (replayCopyCmd ctx inst num a cp s).s.ms.mem = s.ms.mem := by
  unfold replayCopyCmd
  (repeat' split) <;> simp

@[simp] theorem replayBody_keepsCanonical : CmdBody.KeepsCanonical replayBody := by
  intro ctx c args j s hs
  simp only [replayBody]
  (repeat' split) <;> simp [hs]

@[simp] theorem saveBody_keepsCanonical : CmdBody.KeepsCanonical saveBody := by
  intro ctx c args j s hs
  simp only [saveBody]
  (repeat' split) <;> simp [hs]

theorem restoreEach_mem {l : List Nat} : ∀ {s t : State}, restoreEach l s = some t → t.ms.mem = s.ms.mem := by
  induction l with
  | nil => intro s t ht; cases ht; rfl
  | cons h l ih =>
    intro s t ht
    simp only [restoreEach] at ht
    split at ht
    · exact ih ht
    · split at ht
      · exact ih ht
      · obtain ⟨u, hu, ht⟩ := Option.bind_eq_some_iff.mp ht
        obtain ⟨c, -, hc⟩ := List.exists_of_findSome?_eq_some hu
        rw [ih ht, State.restoreUnit_mem hc]

@[simp] theorem restoreBody_keepsCanonical : CmdBody.KeepsCanonical restoreBody := by
  intro ctx c args j s hs
  unfold restoreBody
  extract_lets run s1
  split
  · exact hs
  · split
    · exact hs
    · next t ht =>
      have hmem : t.ms.mem = s.ms.mem := (restoreEach_mem ht).trans (by simp [s1])
      simp [hmem, hs]

@[simp] theorem migrateBody_keepsCanonical : CmdBody.KeepsCanonical migrateBody := by
  intro ctx c args j s hs
  simp only [migrateBody]
  (repeat' split) <;> simp [hs]

@[simp] theorem kloadBody_keepsCanonical : CmdBody.KeepsCanonical kloadBody := by
  intro ctx c args j s hs
  simp only [kloadBody]
  (repeat' split) <;> simp [hs]

@[simp] theorem kplaceBody_keepsCanonical : CmdBody.KeepsCanonical kplaceBody := by
  intro ctx c args j s hs
  simp only [kplaceBody]
  (repeat' split) <;> simp [hs]

@[simp] theorem kbindBody_keepsCanonical : CmdBody.KeepsCanonical kbindBody := by
  intro ctx c args j s hs
  simp only [kbindBody]
  (repeat' split) <;> simp [hs]

@[simp] theorem kunbindBody_keepsCanonical : CmdBody.KeepsCanonical kunbindBody := by
  intro ctx c args j s hs
  simp only [kunbindBody]
  (repeat' split) <;> simp [hs]

@[simp] theorem kunloadBody_keepsCanonical : CmdBody.KeepsCanonical kunloadBody := by
  intro ctx c args j s hs
  simp only [kunloadBody]
  (repeat' split) <;> simp [hs]

@[simp] theorem State.unlistQueue_ms (s : State) (key : Nat) : (s.unlistQueue key).ms = s.ms := by simp [State.unlistQueue]

@[simp] theorem qenableBody_keepsCanonical : CmdBody.KeepsCanonical qenableBody := by
  intro ctx c args j s hs
  simp only [qenableBody]
  (repeat' split) <;> simp [hs]

@[simp] theorem qdisableBody_keepsCanonical : CmdBody.KeepsCanonical qdisableBody := by
  intro ctx c args j s hs
  simp only [qdisableBody]
  (repeat' split) <;> simp [hs]

@[simp] theorem State.killFloe_mem (s : State) (h : Nat) : (s.killFloe h).ms.mem = s.ms.mem := by
  unfold State.killFloe
  split <;> simp

@[simp] theorem State.killInst_mem (s : State) (ctx inst : Nat) : (s.killInst ctx inst).ms.mem = s.ms.mem := by simp [State.killInst]

@[simp] theorem killBody_keepsCanonical : CmdBody.KeepsCanonical killBody := by
  intro ctx c args j s hs
  simp only [killBody]
  (repeat' split) <;> simp [hs]

@[simp] theorem State.wakeCore_ms (s : State) (core : Nat) : (s.wakeCore core).ms = s.ms := by simp [State.wakeCore]

@[simp] theorem unhaltBody_keepsCanonical : CmdBody.KeepsCanonical unhaltBody := by
  intro ctx c args j s hs
  simp only [unhaltBody]
  (repeat' split) <;> simp [hs]

theorem createCtx_mem {args : List Dword} {s : State} {r : State × Nat × Ctx} (h : createCtx args s = some r) : r.1.ms.mem = s.ms.mem := by
  simp only [createCtx] at h
  split at h
  · cases h
  · obtain ⟨n, -, rfl⟩ := Option.map_eq_some_iff.mp h
    simp only [State.setCtx_ms]
    rw [foldl_ms (fun _ _ => State.setPart_ms _ _ _)]

@[simp] theorem execCreate_canonical {s : State} (hs : s.Canonical) (src : CmdSource) : EndsCanonical (execCreate src s) := by
  unfold execCreate
  split
  · exact hs
  · split
    · exact hs
    · split
      · simp [hs]
      · next t n x h =>
        split at h
        · have hmem : t.ms.mem = s.ms.mem := createCtx_mem h
          have ht : t.Canonical := by simp [hmem, hs]
          simp [ht]
        · cases h

@[simp] theorem State.created_canonical {s : State} (hs : s.Canonical) (ctx : Nat) : (s.created ctx).Canonical := by
  simp only [State.created]
  (repeat' split) <;> simp [hs]

@[simp] theorem destroyBody_keepsCanonical : CmdBody.KeepsCanonical destroyBody := by
  intro ctx c args j s hs
  unfold destroyBody
  extract_lets s1 s2 s2a s3 m0 s4
  have h2 : s2.Canonical := by simp [s2, s1, hs]
  have h2a : s2a.Canonical := by
    refine foldl_canonical (fun t p => ?_) _ h2
    exact foldl_canonical (fun u k => by simp) _ t.2
  have h3 : s3.Canonical := by
    refine foldl_canonical (fun t k => ?_) _ h2a
    split <;> simp
  simp [s4, m0, h3]

@[simp] theorem execScrubbed_canonical {s : State} (hs : s.Canonical) (ctx : Nat) : EndsCanonical (execScrubbed ctx s) := by
  simp only [execScrubbed]
  (repeat' split) <;> simp [hs]

@[simp] theorem setsrBody_keepsCanonical : CmdBody.KeepsCanonical setsrBody := by
  intro ctx c args j s hs
  unfold setsrBody
  extract_lets n part v may t?
  cases ht : t? with
  | none => exact hs
  | some t =>
    have hms : t.ms = s.ms := by
      simp only [t?] at ht
      split at ht
      · cases ht
      · split at ht
        · split at ht
          · exact writePart_ms ht
          · cases ht
        · split at ht
          · exact writeCtx_ms ht
          · cases ht
    simpa [hms] using hs

@[simp] theorem hlaunchBody_keepsCanonical : CmdBody.KeepsCanonical hlaunchBody := by
  intro ctx c args j s hs
  simp only [hlaunchBody]
  (repeat' split) <;> simp [hs]

/-! ## Cvt -/

@[simp] theorem packBlockBody_ms (w : FWord) (sh : Shape) (e : Env) (s : State) : (packBlockBody w sh e s).ms = s.ms := by simp [packBlockBody]
@[simp] theorem packBody_ms (w : FWord) (sh : Shape) (e : Env) (s : State) : (packBody w sh e s).ms = s.ms := by simp [packBody]
@[simp] theorem unpkBlockBody_ms (w : FWord) (sh : Shape) (e : Env) (s : State) : (unpkBlockBody w sh e s).ms = s.ms := by simp [unpkBlockBody]
@[simp] theorem unpkBody_ms (w : FWord) (sh : Shape) (e : Env) (s : State) : (unpkBody w sh e s).ms = s.ms := by simp [unpkBody]
@[simp] theorem finishFloe_ms (w : FWord) (sh : Shape) (e : Env) (r : Nat × Fx) (s : State) :
    (finishFloe w sh e r s).ms = s.ms := by simp [finishFloe]
@[simp] theorem qscanBody_ms (w : FWord) (sh : Shape) (e : Env) (s : State) : (qscanBody w sh e s).ms = s.ms := by simp [qscanBody]

/-! ## PageStep -/

@[simp] theorem State.settlePages_mem (s : State) (ctx : Nat) : (s.settlePages ctx).ms.mem = s.ms.mem := by
  unfold State.settlePages
  split <;> simp

@[simp] theorem State.tlbDrop_mem (s : State) (core scope : Nat) (sel : TlbEntry → Bool) (code : Nat → Nat → Bool) :
    (s.tlbDrop core scope sel code).ms.mem = s.ms.mem := by simp [State.tlbDrop]
@[simp] theorem State.tlbinv_mem (s : State) (core ctx : Nat) (w : FWord) (a : Nat) :
    (s.tlbinv core ctx w a).ms.mem = s.ms.mem := by simp [State.tlbinv]
@[simp] theorem State.recallFrame_mem (s0 : State) (c : Ctx) (pa n : Nat) : (s0.recallFrame c pa n).ms.mem = s0.ms.mem := by simp [State.recallFrame]
@[simp] theorem State.clearMarks_mem (s : State) (pa n : Nat) : (s.clearMarks pa n).ms.mem = s.ms.mem := by simp [State.clearMarks]

/-- A table moved by `shiftRange` is canonical where no entry becomes the default. -/
theorem shiftRange_wf {α : Type} [DecidableEq α] {d : α} {t : Table α} (ht : Table.wf d t = true) (src dst n : Nat) {f : Nat → α → Option α}
    (hf : ∀ k v w, v ≠ d → f k v = some w → w ≠ d) : Table.wf d (shiftRange t src dst n f) = true := by
  have hne : ∀ p ∈ t, p.2 ≠ d := by
    simp only [Table.wf, Bool.and_eq_true, List.all_eq_true, decide_eq_true_eq] at ht
    exact ht.2
  unfold shiftRange
  refine List.foldlRecOn _ _ (motive := fun u => Table.wf d u = true) (Table.wf_filter _ ht) fun u hu p hp => ?_
  split
  · next v hv => exact Table.wf_insert hu (hf _ _ _ (hne p (List.mem_filter.mp hp).1) hv)
  · exact hu

@[simp] theorem State.copyFrame_canonical {s : State} (hs : s.Canonical) (ctx : Nat) (c : Ctx) (e : Pte) (old new n : Nat) :
    (s.copyFrame ctx c e old new n).Canonical := by
  unfold State.copyFrame
  extract_lets blocks cipher mem m0 s1 s2
  have h1 : s1.Canonical := by
    simp only [s1, mem, State.Canonical]
    refine shiftRange_wf hs old new n fun k v w hv hw => ?_
    (repeat' split at hw) <;> cases hw <;> exact hv
  split
  · simp [h1]
  · have h2 : s2.Canonical := by simp [s2, h1]
    exact foldl_canonical (fun t b => Ms.wf_setBytes _ _ t.2) _ h2

@[simp] theorem State.migrateStart_mem (s : State) (h : Nat) (f : Floe) (a b : Nat) : (s.migrateStart h f a b).1.ms.mem = s.ms.mem := by
  simp only [State.migrateStart]
  (repeat' split) <;> simp

@[simp] theorem State.moveAccesses_ms (s : State) (m : Migration) : (s.moveAccesses m).ms = s.ms := by simp [State.moveAccesses]

@[simp] theorem State.heldWrite_canonical {s : State} (hs : s.Canonical) (m : Migration) (id : Nat) : (State.heldWrite m s id).Canonical := by
  simp only [State.heldWrite]
  (repeat' split) <;> simp [hs]

@[simp] theorem State.migrateEnd_canonical {s : State} (hs : s.Canonical) (h : Nat) (f : Floe) (d : List Reg) : (s.migrateEnd h f d).Canonical := by
  unfold State.migrateEnd
  split
  · extract_lets s1 entry s2 s3 m0 s4 s5
    have h1 : s1.Canonical := by simp [s1, hs]
    have h2 : s2.Canonical := by simp [s2, h1]
    have h3 : s3.Canonical := by simp [s3, h2]
    have h4 : s4.Canonical := by simp [s4, m0, h3]
    simp [s5, h4]
  · exact hs

@[simp] theorem State.tlbinvWait_mem (s : State) (h : Nat) (f : Floe) (w : FWord) (a : Nat) :
    (s.tlbinvWait h f w a).ms.mem = s.ms.mem := by simp [State.tlbinvWait]

@[simp] theorem tlbinvBody_mem (w : FWord) (sh : Shape) (e : Env) (s : State) : (tlbinvBody w sh e s).ms.mem = s.ms.mem := by
  unfold tlbinvBody
  extract_lets form a b
  have hm := s.migrateStart_mem e.h e.f a.1 b.1
  split
  · rfl
  · split
    · split <;> next h => simpa [h] using hm
    · simp only [Res.ms_done, waitOr_ms]
      split
      · exact State.tlbinvWait_mem _ _ _ _ _
      · rfl

@[simp] theorem execPageWalk_canonical {s : State} (hs : s.Canonical) (core ctx : Nat) (va : Dword) : EndsCanonical (execPageWalk core ctx va s) := by
  simp only [execPageWalk]
  (repeat' split) <;> simp [hs]

@[simp] theorem State.endRekey_canonical {s : State} (hs : s.Canonical) (ctx : Nat) : (s.endRekey ctx).Canonical := by
  simp only [State.endRekey]
  (repeat' split) <;> simp [hs]

@[simp] theorem rekeyBody_keepsCanonical : CmdBody.KeepsCanonical rekeyBody := by
  intro ctx c args j s hs
  simp only [rekeyBody]
  (repeat' split) <;> simp [hs]

@[simp] theorem execSealFill_canonical {s0 : State} (hs : s0.Canonical) (ctx block : Nat) : EndsCanonical (execSealFill ctx block s0) := by
  simp only [execSealFill]
  (repeat' split) <;> simp [hs]

@[simp] theorem State.installTable_mem (s : State) (slot v : Nat) : (s.installTable slot v).ms.mem = s.ms.mem := by simp [State.installTable]

@[simp] theorem ptloadBody_mem (w : FWord) (sh : Shape) (e : Env) (s : State) : (ptloadBody w sh e s).ms.mem = s.ms.mem := by
  simp only [ptloadBody]
  split
  · rfl
  · split
    · split <;> simp
    · split
      · simp
      · exact withBlock_rec (P := fun m => m.mem = s.ms.mem) rfl fun bs => by split <;> simp

/-! ## Link -/

@[simp] theorem rldBody_ms (w : FWord) (sh : Shape) (e : Env) (s : State) : (rldBody w sh e s).ms = s.ms := by simp [rldBody]
@[simp] theorem haloIssue_ms (w : FWord) (e : Env) (s : State) (t : TreeDesc) (slot lcap v : Nat) :
    (haloIssue w e s t slot lcap v).ms = s.ms := by simp [haloIssue]

@[simp] theorem haloBody_ms (w : FWord) (sh : Shape) (e : Env) (s : State) : (haloBody w sh e s).ms = s.ms := by
  simp only [haloBody]
  (repeat' split) <;> try simp
  refine withBlock_ms e _ 64 64 fun hd => ?_
  split
  · simp
  · exact withBlock_ms e _ _ 64 fun bs => withBlock_ms e _ 4 4 fun lc => by simp

theorem haloCopy_canonical {core ctx : Nat} {s t : State} (hs : s.Canonical) {r : Nat × Nat} (h : haloCopy core ctx s r = .ok t) : t.Canonical := by
  unfold haloCopy at h
  split at h
  · cases h
  · exact writeVirt_canonical hs h

theorem haloCopies_canonical {core ctx : Nat} {l : List (Nat × Nat)} :
    ∀ {s t : State}, s.Canonical → haloCopies core ctx l s = .ok t → t.Canonical := by
  induction l with
  | nil => intro s t hs h; cases h; exact hs
  | cons r l ih =>
    intro s t hs h
    simp only [haloCopies] at h
    split at h
    · cases h
    · next h1 => exact ih (haloCopy_canonical hs h1) h

@[simp] theorem State.haloEarly_canonical {s : State} (hs : s.Canonical) (op dest k : Nat) : (s.haloEarly op dest k).Canonical := by
  unfold State.haloEarly
  split
  · exact hs
  · split
    · exact hs
    · split
      · exact hs
      · split
        · exact hs
        · split
          · exact hs
          · next h => simpa using haloCopy_canonical hs h

@[simp] theorem execHaloDestinationSignal_canonical {s : State} (hs : s.Canonical) (op dest : Nat) :
    EndsCanonical (execHaloDestinationSignal op dest s) := by
  unfold execHaloDestinationSignal
  split
  · exact hs
  · dsimp only
    split
    · exact hs
    · split
      · rw [endsCanonical_next]
        split
        · exact hs
        · split
          · exact hs
          · next h => simp [haloCopies_canonical hs h]
      · split
        · simp [hs]
        · split
          · exact hs
          · simp [hs]

@[simp] theorem haloStored_ms (s : State) (id : Nat) (o : Op) : (haloStored s id o).ms = s.ms := by simp [haloStored]

@[simp] theorem linkFault_mem (s : State) (id : Nat) (o : Op) : (linkFault s id o).ms.mem = s.ms.mem := by
  simp only [linkFault]
  (repeat' split) <;> simp

@[simp] theorem collBody_ms (w : FWord) (sh : Shape) (e : Env) (s : State) : (collBody w sh e s).ms = s.ms := by
  simp only [collBody]
  (repeat' split) <;> simp

@[simp] theorem collStored_ms (s : State) (id : Nat) (o : Op) : (collStored s id o).ms = s.ms := by simp [collStored]

@[simp] theorem State.collEnds_ms (s : State) (h : Nat) (f : Floe) (d : Code) (n : Nat) (root : Bool) (cs : List Contribution) :
    (s.collEnds h f d n root cs).ms = s.ms := by
  simp only [State.collEnds]
  split <;> simp

@[simp] theorem execCollRoundComplete_canonical {s : State} (hs : s.Canonical) (part group round : Nat) :
    EndsCanonical (execCollRoundComplete part group round s) := by
  simp only [execCollRoundComplete]
  (repeat' split) <;> simp [hs]

@[simp] theorem msgBody_ms (w : FWord) (sh : Shape) (e : Env) (s : State) : (msgBody w sh e s).ms = s.ms := by simp [msgBody]

@[simp] theorem State.fabricSignal_canonical {s : State} (hs : s.Canonical) (part ev amount srcPart srcDev : Nat) (secure : Bool) :
    (s.fabricSignal part ev amount srcPart srcDev secure).Canonical := by
  unfold State.fabricSignal
  split <;> simp [hs]

@[simp] theorem State.mail_ms (s : State) (srcDev srcPart ev amount : Nat) : (s.mail srcDev srcPart ev amount).ms = s.ms := by simp [State.mail]

@[simp] theorem msgStored_canonical {s : State} (hs : s.Canonical) (id : Nat) (o : Op) : (msgStored s id o).Canonical := by
  simp only [msgStored]
  (repeat' split) <;> simp [hs]

@[simp] theorem State.noteSeq_ms (s : State) (m : Msg) : (s.noteSeq m).ms = s.ms := by simp [State.noteSeq]

@[simp] theorem homeAccess_canonical {s : State} (hs : s.Canonical) (m : Msg) : (homeAccess s m).1.Canonical := by
  unfold homeAccess
  extract_lets data swap n pte core old kind put a
  have hput (v : Nat) : (put v).Canonical := by simp [put, hs]
  split
  · exact hs
  · split
    · exact hs
    · split
      · exact hput _
      · split
        · exact hs
        · exact hput _

@[simp] theorem execReqMessage_canonical {s : State} (hs : s.Canonical) (m : Msg) : EndsCanonical (execReqMessage m s) := by
  simp only [execReqMessage]
  (repeat' split) <;> simp [hs]

@[simp] theorem State.answer_ms (s : State) (r : NetReq) (status value : Nat) : (s.answer r status value).ms = s.ms := by
  simp only [State.answer]
  (repeat' split) <;> simp

@[simp] theorem execRspMessage_canonical {s : State} (hs : s.Canonical) (m : Msg) : EndsCanonical (execRspMessage m s) := by
  simp only [execRspMessage]
  (repeat' split) <;> simp [hs]

@[simp] theorem execEnqMessage_canonical {s : State} (hs : s.Canonical) (m : Msg) : EndsCanonical (execEnqMessage m s) := by
  simp only [execEnqMessage]
  split <;> simp [hs]

@[simp] theorem execBarMessage_canonical {s : State} (hs : s.Canonical) (m : Msg) : EndsCanonical (execBarMessage m s) := by
  simp only [execBarMessage]
  split <;> simp [hs]

@[simp] theorem execHaloMessage_canonical {s : State} (hs : s.Canonical) (m : Msg) : EndsCanonical (execHaloMessage m s) := by
  unfold execHaloMessage
  split
  · exact hs
  · extract_lets s1
    have h1 : s1.Canonical := by simp [s1, hs]
    split
    · simp [h1]
    · split
      · simp [h1]
      · split
        · exact hs
        · split
          · simp [h1]
          · next h => simp [writeVirt_canonical h1 h]

@[simp] theorem execMgmtMessage_canonical {s : State} (hs : s.Canonical) (m : Msg) : EndsCanonical (execMgmtMessage m s) := by
  simp only [execMgmtMessage]
  split <;> simp [hs]

@[simp] theorem State.giveUp_ms (s : State) (r : NetReq) : (s.giveUp r).ms = s.ms := by simp [State.giveUp]
@[simp] theorem execRequestTimeout_canonical {s : State} (hs : s.Canonical) (op : Nat) :
    EndsCanonical (execRequestTimeout op s) := by simp [execRequestTimeout, hs]

/-! ## LinkState -/

@[simp] theorem State.putLink_ms (s : State) (n : Nat) (l : Link) : (s.putLink n l).ms = s.ms := by simp [State.putLink]

@[simp] theorem State.isolate_ms (s : State) : s.isolate.ms = s.ms := by
  simp only [State.isolate]
  exact foldl_ms (fun t c => by split <;> simp) _ _

@[simp] theorem State.reroute_ms (s : State) : s.reroute.ms = s.ms := by simp [State.reroute]
@[simp] theorem State.linkTo_ms (s : State) (n : Nat) (l : Link) : (s.linkTo n l).ms = s.ms := by simp [State.linkTo]
@[simp] theorem State.autoRetrain_ms (s : State) (n : Nat) : (s.autoRetrain n).ms = s.ms := by simp [State.autoRetrain]

@[simp] theorem execMarginSample_canonical {s : State} (hs : s.Canonical) (link : Nat) (lanes : List LaneSample) :
    EndsCanonical (execMarginSample link lanes s) := by
  simp only [execMarginSample]
  (repeat' split) <;> simp [hs]

@[simp] theorem execMarginWordRead_canonical {s : State} (hs : s.Canonical) (link lane : Nat) : EndsCanonical (execMarginWordRead link lane s) := by
  simp only [execMarginWordRead]
  split <;> simp [hs]

@[simp] theorem State.retrain_ms (s : State) (n : Nat) : (s.retrain n).ms = s.ms := by simp [State.retrain]
@[simp] theorem State.linkDown_ms (s : State) (n : Nat) : (s.linkDown n).ms = s.ms := by simp [State.linkDown]
@[simp] theorem State.enableLink_ms (s : State) (n : Nat) : (s.enableLink n).ms = s.ms := by simp [State.enableLink]
@[simp] theorem execLinkRetrain_canonical {s : State} (hs : s.Canonical) (link : Nat) :
    EndsCanonical (execLinkRetrain link s) := by simp [execLinkRetrain, hs]
@[simp] theorem execLinkDisable_canonical {s : State} (hs : s.Canonical) (link : Nat) :
    EndsCanonical (execLinkDisable link s) := by simp [execLinkDisable, hs]
@[simp] theorem execLinkEnable_canonical {s : State} (hs : s.Canonical) (link : Nat) :
    EndsCanonical (execLinkEnable link s) := by simp [execLinkEnable, hs]
@[simp] theorem execLinkFail_canonical {s : State} (hs : s.Canonical) (link : Nat) : EndsCanonical (execLinkFail link s) := by simp [execLinkFail, hs]

@[simp] theorem execTrainingDone_canonical {s : State} (hs : s.Canonical) (link : Nat) (ok : Bool) : EndsCanonical (execTrainingDone link ok s) := by
  simp only [execTrainingDone]
  split <;> simp [hs]

@[simp] theorem execRetrainingDone_canonical {s : State} (hs : s.Canonical) (link spares units : Nat) (clean : Bool) :
    EndsCanonical (execRetrainingDone link spares units clean s) := by
  simp only [execRetrainingDone]
  split <;> simp [hs]

@[simp] theorem execRefreshWindow_canonical {s : State} (hs : s.Canonical) (link spares units : Nat) (clean done : Bool) (counts : List (BitVec 16)) :
    EndsCanonical (execRefreshWindow link spares units clean done counts s) := by
  simp only [execRefreshWindow]
  split <;> simp [hs]

@[simp] theorem execLtssmRecovery_canonical {s : State} (hs : s.Canonical) : EndsCanonical (execLtssmRecovery s) := by simp [execLtssmRecovery, hs]

@[simp] theorem execAinarDieIsolation_canonical {s : State} (hs : s.Canonical) (die : Nat) : EndsCanonical (execAinarDieIsolation die s) := by
  simp only [execAinarDieIsolation]
  split <;> simp [hs]

@[simp] theorem State.writeControl_ms (s : State) (n off size value : Nat) : (s.writeControl n off size value).ms = s.ms := by
  simp only [State.writeControl]
  split <;> simp

@[simp] theorem State.clearCounter_ms (s : State) (off : Nat) : (s.clearCounter off).ms = s.ms := by
  unfold State.clearCounter
  split <;> simp

@[simp] theorem State.lockedWrite_ms (s : State) : s.lockedWrite.ms = s.ms := by simp [State.lockedWrite]
@[simp] theorem State.writeMgmt_ms (s0 : State) (m size value : Nat) : (s0.writeMgmt m size value).ms = s0.ms := by simp [State.writeMgmt]

@[simp] theorem execBarRegisterWrite_canonical {s : State} (hs : s.Canonical) (offset size : Nat) (value : BitVec 512) :
    EndsCanonical (execBarRegisterWrite offset size value s) := by
  simp only [execBarRegisterWrite]
  (repeat' split) <;> simp [hs]

/-! ## Life -/

@[simp] theorem State.restart_mem (s : State) : s.restart.ms.mem = s.ms.mem := by simp [State.restart]
@[simp] theorem State.powerOff_mem (s : State) : s.powerOff.ms.mem = s.ms.mem := by simp [State.powerOff]
@[simp] theorem execPowerOnReset_canonical {s : State} (hs : s.Canonical) : EndsCanonical (execPowerOnReset s) := by simp [execPowerOnReset, hs]
@[simp] theorem execPowerLoss_canonical {s : State} (hs : s.Canonical) : EndsCanonical (execPowerLoss s) := by simp [execPowerLoss, hs]
@[simp] theorem execOvertempShutdown_canonical {s : State} (hs : s.Canonical) (tmax : BitVec 8) :
    EndsCanonical (execOvertempShutdown tmax s) := by simp [execOvertempShutdown, hs]

@[simp] theorem execImageRead_canonical {s : State} (hs : s.Canonical) (present : Bool) (digest : BitVec 256) (svn : Word) :
    EndsCanonical (execImageRead present digest svn s) := by
  simp only [execImageRead]
  (repeat' split) <;> simp [hs]

@[simp] theorem execVerifyResult_canonical {s : State} (hs : s.Canonical) (ok : Bool) : EndsCanonical (execVerifyResult ok s) := by
  simp only [execVerifyResult]
  (repeat' split) <;> simp [hs]

@[simp] theorem execBootcmd_canonical {s : State} (hs : s.Canonical) (value : Word) : EndsCanonical (execBootcmd value s) := by
  simp only [execBootcmd]
  split <;> simp [hs]

@[simp] theorem execInitDone_canonical {s : State} (hs : s.Canonical) (ok : Bool) (locks : LockSet) : EndsCanonical (execInitDone ok locks s) := by
  simp only [execInitDone]
  (repeat' split) <;> simp [hs]

@[simp] theorem execLockedRegisterWrite_canonical {s : State} (hs : s.Canonical) (offset : Nat) (value : Dword) :
    EndsCanonical (execLockedRegisterWrite offset value s) := by simp [execLockedRegisterWrite, hs]

@[simp] theorem execAttcmd_canonical {s : State} (hs : s.Canonical) (value : Word) : EndsCanonical (execAttcmd value s) := by
  simp only [execAttcmd]
  (repeat' split) <;> simp [hs]

@[simp] theorem execAttestationReportReady_canonical {s : State} (hs : s.Canonical) : EndsCanonical (execAttestationReportReady s) := by
  simp only [execAttestationReportReady]
  (repeat' split) <;> simp [hs]

@[simp] theorem execFirmwareWatchdog_canonical {s : State} (hs : s.Canonical) (restarted : Bool) :
    EndsCanonical (execFirmwareWatchdog restarted s) := by
  simp only [execFirmwareWatchdog]
  split <;> simp [hs]

@[simp] theorem execMbheadWrite_canonical {s : State} (hs : s.Canonical) (value : Word) : EndsCanonical (execMbheadWrite value s) := by
  simp only [execMbheadWrite]
  split <;> simp [hs]

@[simp] theorem execPatrolScrub_canonical {s : State} (hs : s.Canonical) (t : ScrubTarget) (correctable : Bool) :
    EndsCanonical (execPatrolScrub t correctable s) := by
  simp only [execPatrolScrub]
  (repeat' split) <;> simp [hs]

@[simp] theorem State.lowerCluster_ms (s : State) (k : Nat) : (s.lowerCluster k).ms = s.ms := by simp [State.lowerCluster]

@[simp] theorem execThrottleStep_canonical {s : State} (hs : s.Canonical) (tmax : BitVec 8) (pwr : BitVec 12) :
    EndsCanonical (execThrottleStep tmax pwr s) := by
  simp only [execThrottleStep]
  (repeat' split) <;> simp [hs]

@[simp] theorem execThrottleClear_canonical {s : State} (hs : s.Canonical) (tmax : BitVec 8) (pwr : BitVec 12) :
    EndsCanonical (execThrottleClear tmax pwr s) := by
  simp only [execThrottleClear]
  (repeat' split) <;> simp [hs]

/-! ## Return -/

@[simp] theorem execDataReturn_canonical {s : State} (hs : s.Canonical) (op : Nat) : EndsCanonical (execDataReturn op s) := by
  simp only [execDataReturn]
  (repeat' split) <;> simp [hs]

@[simp] theorem execStorePerformed_canonical {s : State} (hs : s.Canonical) (op : Nat) : EndsCanonical (execStorePerformed op s) := by
  simp only [execStorePerformed]
  (repeat' split) <;> simp [hs]

@[simp] theorem execTransferFault_canonical {s : State} (hs : s.Canonical) (op : Nat) : EndsCanonical (execTransferFault op s) := by
  simp only [execTransferFault]
  (repeat' split) <;> simp [hs]

@[simp] theorem waitEffect_canonical {s : State} (hs : s.Canonical) (h : Nat) (f : Floe) (w : Wait) : (waitEffect s h f w).Canonical := by
  unfold waitEffect
  split <;> simp [hs]

@[simp] theorem execConditionMet_canonical {s : State} (hs : s.Canonical) (floe : Nat) : EndsCanonical (execConditionMet floe s) := by
  simp only [execConditionMet]
  (repeat' split) <;> simp [hs]

/-! ## Val -/

@[simp] theorem cmpBody_ms (imm : Nat) (cmp : Nat → Nat → Option Ordering) (w : FWord) (sh : Shape) (e : Env) (s : State) :
    (cmpBody imm cmp w sh e s).ms = s.ms := by
  simp only [cmpBody, Res.ms_done]
  exact foldl_ms (fun t l => by split <;> simp) _ s

@[simp] theorem icmpBody_ms (w : FWord) (sh : Shape) (e : Env) (s : State) : (icmpBody w sh e s).ms = s.ms := by simp [icmpBody]
@[simp] theorem fcmpBody_ms (w : FWord) (sh : Shape) (e : Env) (s : State) : (fcmpBody w sh e s).ms = s.ms := by simp [fcmpBody]
@[simp] theorem dcmpBody_ms (w : FWord) (sh : Shape) (e : Env) (s : State) : (dcmpBody w sh e s).ms = s.ms := by simp [dcmpBody]
@[simp] theorem rawBody_ms (val : State → Env → Nat → FirnWord) (w : FWord) (sh : Shape) (e : Env) (s : State) :
    (rawBody val w sh e s).ms = s.ms := by simp [rawBody]
@[simp] theorem selBody_ms (w : FWord) (sh : Shape) (e : Env) (s : State) : (selBody w sh e s).ms = s.ms := by simp [selBody]
@[simp] theorem ballotBody_ms (w : FWord) (sh : Shape) (e : Env) (s : State) : (ballotBody w sh e s).ms = s.ms := by simp [ballotBody]
@[simp] theorem voteBody_ms (w : FWord) (sh : Shape) (e : Env) (s : State) : (voteBody w sh e s).ms = s.ms := by simp [voteBody]
@[simp] theorem shflBody_ms (w : FWord) (sh : Shape) (e : Env) (s : State) : (shflBody w sh e s).ms = s.ms := by simp [shflBody]

@[simp] theorem finishWide_ms (regs : List Reg) (e : Env) (steps : List (Nat × Fx)) (rs : List (Nat × Nat)) (s : State) :
    (finishWide regs e steps rs s).ms = s.ms := by
  simp only [finishWide]
  split <;> simp

@[simp] theorem reduxBody_ms (w : FWord) (sh : Shape) (e : Env) (s : State) : (reduxBody w sh e s).ms = s.ms := by simp [reduxBody]
@[simp] theorem scanBody_ms (w : FWord) (sh : Shape) (e : Env) (s : State) : (scanBody w sh e s).ms = s.ms := by simp [scanBody]

/-! ## Turn -/

theorem takeTurn_canonical {s : State} (hs : s.Canonical) : (takeTurn s).state.Canonical := by
  unfold takeTurn
  split
  · split
    · simpa using hs
    · exact hs
  · dsimp only
    split
    case h_14 => split <;> exact hs  -- the turn of an event: it runs it, or nothing
    all_goals simp [hs]

/-- An issued F word traps at decode or goes on with what its body leaves; either way its retirement leaves memory alone. -/
theorem issueF_canonical {i : Instr} {body : FWord → Shape → Env → State → Res} {s : State} (hs : s.Canonical)
    (hb : ∀ w sh e, Table.wf memDefault (body w sh e s).ms.mem = true) : EndsCanonical (issueF i body s) := by
  unfold issueF
  split
  · exact hs
  · split
    · trivial
    · split <;> simp [hs, hb]

theorem exec_canonical {s : State} (hs : s.Canonical) (i : Instr) : EndsCanonical (exec i s) := by
  cases i with
  | replay src | rekey src | save src | restore src | migrate src | kload src | kplace src | kbind src | kunbind src | kunload src | qenable src
  | qdisable src | kill src | unhalt src | destroy src | setsr src | hlaunch src =>
    simp only [exec]
    exact runCmd_canonical (by simp) hs _ src
  | mov | movi | iadd | isub | imul | imulh | imad | imadw | imin | imax | iabs | ltab | and | or | xor | shl | shr | sar | shf | bfe | bfi | popc
  | clz | brev | lea | fadd | fsub | fmul | ffma | fmin | fmax | fmov | frcp | frsq | fsqrt | fex2 | flg2 | fsin | fcos | hadd2 | hmul2 | hfma2
  | dadd | dmul | dfma | dmin | dmax | drcp | drsq | dmov | cvt | cvti | pack | unpk | qscan | icmp | fcmp | dcmp | vset | vclr | vtest | vand | sel
  | ballot | vote | shfl | redux | scan | nop | br | brx | jmp | call | ret | exit | elect | yield | trap | brk | sleep | ld | st | lda | ldx | stx
  | stc | lde | ldr | str | pref | cpy | cpyd | cpcommit | wait | acreset | dfence | atom | red | cas | atomf | lock | unlock | fence | flushtag
  | leasedrop | mctx | mrel | mma | mmap | mmag | mmax | mld | mst | mzero | tpset | tpscan | msync | twbind | twlk | twld | twst | twsten | twray
  | twleaf | twinv | tains | tadel | tamask | tacommit | enq | nodeout | recv | evsig | evwait | evclr | launch | bara | barw | bars | bart | packq
  | rld | rwr | ratom | halo | coll | msg | rdsr | wrsr | svc | trapret | setrole | setmode | tlbinv | ctxcmd | ptload | halt =>
    simp only [exec]
    exact issueF_canonical hs fun w sh e => by simp [hs]
  | _ => simp [exec, hs]

/-- Settles O8: a turn and the step it leads to go through functions that each keep memory's table sorted and free of its default byte. -/
theorem stepKeepsMemoryCanonical : Obligations.StepKeepsMemoryCanonical := by
  unfold Obligations.StepKeepsMemoryCanonical
  intro s t hs ht
  have hturn := takeTurn_canonical hs
  unfold step at ht
  split at ht
  · next i u h =>
    rw [h] at hturn
    have hexec := exec_canonical hturn i
    rwa [Action.state_run, ht] at hexec
  · next u h =>
    rw [h] at hturn
    cases ht
    exact hturn

end Sys2Proof.Machine
end

section
/-! SUPPORT. What contexts, cores, colours and instances read after a change, and the end of an issue for the bodies that write D alone, change their
floe alone, or trap before they change anything. -/

namespace Sys2Proof.Machine

/-! ## Contexts -/

/-- A context is read off the contexts alone. -/
theorem State.ctx?_of_ctxs {s t : State} (h : t.ctxs = s.ctxs) (k : Nat) : t.ctx? k = s.ctx? k := by
  simp [State.ctx?, h]

/-- A context that is there is not FREE (R359). -/
theorem State.ctx?_not_free {s : State} {ctx : Nat} {c : Ctx} (h : s.ctx? ctx = some c) : c.state ≠ .free := by
  obtain ⟨x, -, hx⟩ := Option.bind_eq_some_iff.1 h
  split at hx
  · cases hx
  · cases hx; assumption

/-- A context reads as it was changed, where the change does not free it. -/
theorem State.ctx?_modCtx_same {s : State} {ctx : Nat} {c : Ctx} {g : Ctx → Ctx} (h : s.ctx? ctx = some c) (hg : (g c).state = c.state) :
    (s.modCtx ctx g).ctx? ctx = some (g c) := by
  have hfree : (g c).state ≠ .free := hg ▸ State.ctx?_not_free h
  unfold State.modCtx
  rw [h]
  simp [State.ctx?, State.setCtx, hfree]

/-! ## Cores -/

@[simp] theorem State.core_modCore_same (s : State) (c : Nat) (g : Core → Core) : (s.modCore c g).core c = g (s.core c) := by
  simp [State.core, State.modCore, State.setCore]

theorem State.core_modCore_ne (s : State) {c k : Nat} (g : Core → Core) (hk : k ≠ c) : (s.modCore c g).core k = s.core k := by
  simp [State.core, State.modCore, State.setCore, Table.getD_setD, hk]

/-! ## Colours and instances -/

@[simp] theorem State.colour?_setColour_same (s : State) (p k : Nat) (x : Colour) : (s.setColour p k x).colour? p k = some x := by
  simp [State.colour?, State.setColour]

/-- A colour is read off the colours alone. -/
theorem State.colour?_of_colours {s t : State} (h : t.colours = s.colours) (p k : Nat) : t.colour? p k = s.colour? p k := by
  simp [State.colour?, h]

/-- What is kept of a launch is read off the instances alone. -/
theorem State.inst?_of_insts {s t : State} (h : t.insts = s.insts) (c i : Nat) : t.inst? c i = s.inst? c i := by
  simp [State.inst?, h]

theorem State.inst?_modInst_same {s : State} {c i : Nat} {y : Inst} (h : s.inst? c i = some y) (g : Inst → Inst) :
    (s.modInst c i g).inst? c i = some (g y) := by
  unfold State.modInst
  rw [h]
  simp [State.inst?]

theorem State.modInst_eq (s : State) (c i : Nat) (g : Inst → Inst) : s.modInst c i g = { s with insts := (s.modInst c i g).insts } := by
  unfold State.modInst
  split <;> rfl

/-! ## Issue -/

/-- A word that issues runs its body and retires. -/
theorem Issues.issueF {i : Instr} {w : FWord} {sh : Shape} {e : Env} {s : State} (h : Issues i w sh e s) (body : FWord → Shape → Env → State → Res) :
    issueF i body s = .next (State.retire e (latchesOf s e.f w sh) (hintYields w sh) (body w sh e s)) :=
  issueF_passes body h.shape h.env h.clean

theorem Issues.floe {i : Instr} {w : FWord} {sh : Shape} {e : Env} {s : State} (h : Issues i w sh e s) : s.floe? e.h = some e.f :=
  State.env?_floe h.env

/-! ## Time -/

/-- What the clocks are read off: a state that has these reads the same time for every cluster (R5). -/
structure SameTime (s t : State) : Prop where
  gt : t.gt = s.gt
  pace : t.pace = s.pace
  clk : t.clk = s.clk
  gated : t.gated = s.gated

theorem SameTime.mck {s t : State} (h : SameTime s t) (c : Nat) : t.mck c = s.mck c := State.mck_of h.gt h.pace h.clk h.gated c

/-! ## Retirement after a body that left `u` -/

section
variable {w : FWord} {sh : Shape} {e : Env} {s u : State} {g : Floe}

/-- The floe that the body left as `g` has moved on. -/
theorem retire_done_after (ht : SameTime s u) (hu : u.floe? e.h = some g) :
    (State.retire e (latchesOf s e.f w sh) (hintYields w sh) (.done u)).floe? e.h = some (e.after w sh s g) := by
  rw [retire_done_floe hu, ht.gt, ht.mck]; rfl

theorem retire_done_others {la : List (Option Latch)} {y : Bool} (hu : OtherFloes e.h s u) :
    OtherFloes e.h s (State.retire e la y (.done u)) :=
  fun k hk => (retire_done_other hk).trans (hu k hk)

/-- Retirement changes floes alone. -/
theorem retire_done_eq (e : Env) (la : List (Option Latch)) (y : Bool) (u : State) :
    State.retire e la y (.done u) = { u with floes := (State.retire e la y (.done u)).floes } := by
  rw [retire_done]
  unfold State.modFloe
  split <;> rfl

end

/-! ## Bodies that change their floe alone -/

theorem OtherFloes.refl (h : Nat) (s : State) : OtherFloes h s s := fun _ _ => rfl

theorem otherFloes_modFloe {s u : State} {h : Nat} (hu : OtherFloes h s u) (g : Floe → Floe) : OtherFloes h s (u.modFloe h g) :=
  fun k hk => (State.floe?_modFloe_ne u g hk).trans (hu k hk)

theorem State.modFloe_eq (s : State) (h : Nat) (g : Floe → Floe) : s.modFloe h g = { s with floes := (s.modFloe h g).floes } := by
  unfold State.modFloe
  split <;> rfl

theorem State.waitOn_floe {s : State} {h : Nat} {f : Floe} (hf : s.floe? h = some f) (c : Wait) :
    (s.waitOn h c).floe? h = some (f.held c s.gt) := by
  simp [State.waitOn, hf, Floe.held]

/-- An instruction that does no more than hold its floe (R137). -/
theorem floeEffect_waitOn {i : Instr} {w : FWord} {sh : Shape} {e : Env} {s : State} (h : Issues i w sh e s) (c : Wait) :
    FloeEffect e.h (e.after w sh s (e.f.held c s.gt)) s
      (State.retire e (latchesOf s e.f w sh) (hintYields w sh) (.done (s.waitOn e.h c))) where
  floe := retire_done_after ⟨by simp, by simp, by simp, by simp⟩ (State.waitOn_floe h.floe c)
  others := retire_done_others (otherFloes_modFloe (.refl e.h s) _)
  mem := fun a => by simp
  rest := by rw [OnlyFloes, retire_done_eq, State.waitOn, State.modFloe_eq]

/-! ## Bodies that write D alone -/

@[simp] theorem Fx.or_bits_none (x : Word) : x ||| Fx.none.bits = x := BitVec.or_zero

/-- One answer for every lane that computes. -/
theorem Issues.sameLanes {i : Instr} {w : FWord} {sh : Shape} {e : Env} {s : State} (h : Issues i w sh e s) {o : Option (List FirnWord)}
    (ho : ∀ ws, o = some ws → ws.length = sh.d.writes.length) :
    LaneList e.f sh.d.writes ((computeLanes w e).map (fun l => (l, o))) := by
  apply h.laneList
  · exact List.pairwise_map.2 (computeLanes_sorted w e)
  · intro p hp
    obtain ⟨l, hl, rfl⟩ := List.mem_map.1 hp
    exact computeLanes_lt hl
  · intro l ws hw
    obtain ⟨x, -, hx⟩ := List.mem_map.1 hw
    exact ho ws (Prod.mk.inj hx).2
  · intro hu
    simpa using computeLanes_uni hu

/-- An instruction that writes D lane by lane and raises no flag has the effect of R114 and no other. -/
theorem laneEffect_putLanes {i : Instr} {w : FWord} {sh : Shape} {e : Env} {s : State} (h : Issues i w sh e s)
    {rs : List (Nat × Option (List FirnWord))} (hl : LaneList e.f sh.d.writes rs) :
    LaneEffect w sh e Fx.none rs s
      (State.retire e (latchesOf s e.f w sh) (hintYields w sh) (.done (putLanes e.f sh.d.writes rs s))) := by
  have hr := putLanes_rest e.f sh.d.writes rs s
  have hfl : (putLanes e.f sh.d.writes rs s).floes = s.floes := by rw [hr]
  constructor
  · exact (putLanes_wrote s hl).of_firn rfl (retire_done_firn ..)
  · rw [Fx.or_bits_none]
    exact retire_done_after (by rw [hr]; exact ⟨rfl, rfl, rfl, rfl⟩) ((State.floe?_of_floes hfl _).trans h.floe)
  · exact retire_done_others fun k _ => State.floe?_of_floes hfl k
  · intro a
    rw [retire_done_ms, hr]
  · rw [OnlyFirnFloes, retire_done_eq, hr]

/-- The same word in every register of D, for one lane. -/
theorem foldl_wrReg_putLane (f : Floe) (l : Nat) (v : FirnWord) (regs : List Reg) : ∀ s : State,
    regs.foldl (fun u x => u.wrReg f x l v) s = putLane f regs (l, some (List.replicate regs.length v)) s := by
  induction regs with
  | nil => intro s; rfl
  | cons r t ih => intro s; exact ih (s.wrReg f r l v)

theorem foldl_wrReg_putLanes (f : Floe) (v : FirnWord) (regs : List Reg) (ls : List Nat) (s : State) :
    ls.foldl (fun t l => regs.foldl (fun u x => u.wrReg f x l v) t) s
      = putLanes f regs (ls.map (fun l => (l, some (List.replicate regs.length v)))) s := by
  simp only [foldl_wrReg_putLane, putLanes, List.foldl_map]

/-! ## Bodies that trap before they change anything -/

@[simp] theorem Floe.setSlot_fpflags (f : Floe) (b : Bool) (v : Option Slot) : (f.setSlot b v).fpflags = f.fpflags := by cases b <;> rfl
@[simp] theorem Floe.setSlot_stack (f : Floe) (b : Bool) (v : Option Slot) : (f.setSlot b v).stack = f.stack := by cases b <;> rfl

/-- The slot that enters the handler stands at its first word with its lanes (R370). -/
theorem slot_handlerEntry {f : Floe} {b : Bool} {base pc n : Dword} {t : TrapInfo} {sl : Slot} (h : f.slot b = some sl) :
    (handlerEntry f b base pc n t).slot b = some ⟨base, sl.mask, none, none⟩ := by
  cases b <;> simp [handlerEntry, h] <;> rfl

theorem slot_handlerEntry_other {f : Floe} {b : Bool} {base pc n : Dword} {t : TrapInfo} {sl : Slot} (h : f.slot b = some sl) :
    (handlerEntry f b base pc n t).slot (!b) = f.slot (!b) := by
  cases b <;> simp [handlerEntry, h] <;> rfl

/-- A trap of the issuing floe, with a handler to go to, changes that floe alone (R370, R371). -/
theorem trapEffect_retire {s : State} {g : Code} {len : Nat} {e : Env} {x : Ctx} (la : List (Option Latch)) (y : Bool) {t : TrapInfo}
    (he : s.env? g len = some e) (hx : s.ctx? e.f.ctx = some x) (hl : e.f.levelHandler = false) (hb : x.trapBase ≠ 0)
    (hc : t.cause ≠ .pageNotPresent) (hs : t.source = 0) (hn : t.atNext = false) :
    TrapEffect e x.trapBase t.cause t.half t.lanes t.tinfo e.sl.pc Fx.none s (State.retire e la y (.trap t s)) := by
  obtain ⟨-, -, -, hf, hsl, -⟩ := State.env?_some he
  let f := e.f.issued s.gt (s.mck e.f.core) e.b [] false
  have hu : (s.modFloe e.h (fun f => f.issued s.gt (s.mck e.f.core) e.b [] false)).floe? e.h = some f := by simp [hf, f]
  have hsf : f.slot e.b = some e.sl := hsl
  have ht : State.retire e la y (.trap t s) = (s.modFloe e.h (fun f => f.issued s.gt (s.mck e.f.core) e.b [] false)).setFloe e.h
      (handlerEntry f e.b x.trapBase e.sl.pc e.next t) := by
    rw [State.retire, State.deliver_vector (fun hp => hc hp.1)]
    exact State.vector_enters hu ((State.ctx?_of_ctxs (State.modFloe_ctxs ..) _).trans hx) hl hb
  rw [ht]
  constructor
  · refine ⟨_, by rw [State.floe?_setFloe, if_pos rfl], slot_handlerEntry hsf, slot_handlerEntry_other hsf, ?_⟩
    simp [handlerEntry, hsf, hs, hn]
    exact ⟨rfl, rfl, rfl, rfl⟩
  · intro k hk
    rw [State.floe?_setFloe, if_neg hk, State.floe?_modFloe_ne _ _ hk]
  · intro a
    simp
  · rw [OnlyFloes, State.modFloe_eq, State.setFloe]

end Sys2Proof.Machine
end

section
/-! The watchdog, GT copies, page walks, seal fills and the patrol scrub (R21, R369, R389, R397, R430). -/

namespace Sys2Proof.Machine

/-! ## WATCHDOG (R369) -/

@[simp] theorem State.unlist_floes (s : State) (f : Floe) (h : Nat) : (s.unlist f h).floes = s.floes := by simp [State.unlist]
@[simp] theorem State.unlist_firn (s : State) (f : Floe) (h : Nat) : (s.unlist f h).firn = s.firn := by simp [State.unlist]

/-- A floe that leaves every wait list leaves its context where it was. -/
theorem State.ctx?_unlist {s : State} {f : Floe} {c : Ctx} (h : Nat) (hc : s.ctx? f.ctx = some c) :
    ∃ d, (s.unlist f h).ctx? f.ctx = some d ∧ d.trapBase = c.trapBase :=
  ⟨_, (State.ctx?_of_ctxs (State.modCore_ctxs ..) _).trans (State.ctx?_modCtx_same (c := c) hc rfl), rfl⟩

theorem State.abandonWait_sleep {s : State} {f : Floe} {h d : Nat} (hw : f.wait = some (.sleep d)) : s.abandonWait f h = s.unlist f h := by
  simp [State.abandonWait, hw]

theorem exec_watchdog_off {s : State} {h : Nat} {f : Floe} (hf : s.floe? h = some f) (hw : (s.part (partOf f.core)).wdog = 0) :
    exec (.watchdog h) s = .next s := by
  change execWatchdog h s = _
  simp [execWatchdog, hf, hw]

/-- A floe that has slept for WDOG·1,024 gt takes the trap at its SLEEP (R369). -/
theorem exec_watchdog_sleep {s : State} {h d : Nat} {f : Floe} {sl : Slot} (hf : s.floe? h = some f) (hon : (s.part (partOf f.core)).wdog ≠ 0)
    (hst : f.state = .waiting) (hw : f.wait = some (.sleep d)) (hrun : s.stopped f = false)
    (hgt : f.waitSince + (s.part (partOf f.core)).wdog.toNat * 1024 ≤ s.gt) (hsl : f.slot f.waitSlot1 = some sl) :
    exec (.watchdog h) s = .next ((s.unlist f h).deliver h f.waitSlot1 sl.pc sl.pc { cause := .watchdog, lanes := f.waitExec }) := by
  have hlim : (s.part (partOf f.core)).wdog.toNat ≠ 0 := fun h0 => hon (BitVec.eq_of_toNat_eq h0)
  change execWatchdog h s = _
  simp [execWatchdog, hf, hst, hw, hrun, hsl, hlim, hgt, State.abandonWait_sleep hw]

theorem watchdog_enters_handler {s : State} {h d : Nat} {f : Floe} {c : Ctx} {sl : Slot} (hf : s.floe? h = some f)
    (hon : (s.part (partOf f.core)).wdog ≠ 0) (hst : f.state = .waiting) (hw : f.wait = some (.sleep d)) (hrun : s.stopped f = false)
    (hgt : f.waitSince + (s.part (partOf f.core)).wdog.toNat * 1024 ≤ s.gt) (hsl : f.slot f.waitSlot1 = some sl) (hc : s.ctx? f.ctx = some c)
    (hlev : f.levelHandler = false) (hbase : c.trapBase ≠ 0) :
    ∃ t, exec (.watchdog h) s = .next t
      ∧ t.floe? h = some (handlerEntry f f.waitSlot1 c.trapBase sl.pc sl.pc { cause := .watchdog, lanes := f.waitExec }) ∧ OtherFloes h s t
      ∧ SameMem s t ∧ t.firn = s.firn := by
  obtain ⟨x, hx, hxb⟩ := State.ctx?_unlist h hc
  have hfu : (s.unlist f h).floe? h = some f := by rw [State.floe?_of_floes (s.unlist_floes f h), hf]
  refine ⟨_, exec_watchdog_sleep hf hon hst hw hrun hgt hsl, ?_⟩
  rw [State.deliver_vector (by simp), State.vector_enters hfu hx hlev (hxb ▸ hbase), hxb]
  refine ⟨by simp [State.floe?_setFloe], fun k hk => ?_, fun a => ?_, by simp⟩
  · rw [State.floe?_setFloe, if_neg hk, State.floe?_of_floes (s.unlist_floes f h)]
  · simp [Ms.byte]

/-! ## GT_CORRECTION (R21) -/

/-- A copy of GT as a core reads it, where it has not wrapped round. -/
theorem State.coreGt_eq {s : State} {core : Nat} (hgt : s.gt + 1 < 2 ^ 64) (hoff : (s.core core).gtOff ≤ 1) (hhold : (s.core core).gtHold < 2 ^ 64) :
    s.coreGt core = max ((s.gt : Int) + (s.core core).gtOff).toNat (s.core core).gtHold := by
  unfold State.coreGt
  exact Nat.mod_eq_of_lt (by omega)

/-- The step of a copy to its corrected value: what it has read is the least that it reads from now on. -/
theorem exec_gtCorrection {s : State} {core : Nat} {target : Int} (hv : coreValid core = true) (hlo : -1 ≤ target) (hhi : target ≤ 1) :
    exec (.gtCorrection core target) s = .next (s.modCore core (fun c =>
      { c with gtOff := target, gtHold := max ((s.gt : Int) + (s.core core).gtOff).toNat (s.core core).gtHold })) := by
  change execGtCorrection core target s = _
  rw [execGtCorrection, if_pos ⟨hv, hlo, hhi⟩]

theorem gtCorrection_never_back {s : State} {core : Nat} {target : Int} (hv : coreValid core = true) (hlo : -1 ≤ target) (hhi : target ≤ 1)
    (hgt : s.gt + 1 < 2 ^ 64) (hoff : (s.core core).gtOff ≤ 1) (hhold : (s.core core).gtHold < 2 ^ 64) :
    ∃ t, exec (.gtCorrection core target) s = .next t ∧ (t.core core).gtOff = target ∧ s.coreGt core ≤ t.coreGt core
      ∧ (∀ k, k ≠ core → t.core k = s.core k) ∧ { t with cores := s.cores } = s := by
  refine ⟨_, exec_gtCorrection hv hlo hhi, by simp, ?_, fun k hk => State.core_modCore_ne s _ hk, rfl⟩
  rw [State.coreGt_eq hgt hoff hhold, State.coreGt_eq (by simpa using hgt) (by simpa using hhi) (by simp; omega)]
  simp

/-! ## PAGE_WALK (R389) -/

/-- The TLB entry of a leaf that a walk ends at. -/
def walkedEntry (ctx : Nat) (tag : BitVec 8) (va level : Nat) (p : Pte) : TlbEntry :=
  { tag := tag, ctx := ctx, vbase := va / 2 ^ levelShift level * 2 ^ levelShift level, size := 2 ^ levelShift level, pbase := p.addr, pte := p }

theorem mem_tlbAdd_self (gt n : Nat) (l : List TlbEntry) (e : TlbEntry) : e ∈ tlbAdd gt n l e := by simp [tlbAdd]

/-- A walk that ends at a leaf: the entry joins the TLBs of the core and of its die, in the place of what they held for the address. -/
theorem exec_pageWalk_leaf {s : State} {core ctx : Nat} {va : Dword} {c : Ctx} {p : Pte} {level : Nat} (hc : s.ctx? ctx = some c)
    (hv : coreValid core = true) (hva : va.toNat < 2 ^ 56) (hw : walk s c (coreSecure s core) va.toNat = .ok (p, level)) :
    exec (.pageWalk core ctx va) s = .next (State.modCore
      { s with ms := { s.ms with tlb2 := Table.insert s.ms.tlb2 (coreDie core) (tlbAdd s.gt 16384
          ((Table.getD s.ms.tlb2 [] (coreDie core)).filter (fun e => !e.hits ctx c.tag va.toNat)) (walkedEntry ctx c.tag va.toNat level p)) } }
      core (fun k => { k with tlb := tlbAdd s.gt 64 (k.tlb.filter (fun e => !e.hits ctx c.tag va.toNat)) (walkedEntry ctx c.tag va.toNat level p) })) := by
  have hhigh : va.extractLsb' 56 8 = 0#8 := by
    apply BitVec.eq_of_toNat_eq
    simp [Nat.shiftRight_eq_div_pow]
    omega
  change execPageWalk core ctx va s = _
  simp only [execPageWalk, hc, hv, hhigh, hw]
  rfl

theorem pageWalk_fills_tlbs {s : State} {core ctx : Nat} {va : Dword} {c : Ctx} {p : Pte} {level : Nat} (hc : s.ctx? ctx = some c)
    (hv : coreValid core = true) (hva : va.toNat < 2 ^ 56) (hw : walk s c (coreSecure s core) va.toNat = .ok (p, level)) :
    ∃ t e, exec (.pageWalk core ctx va) s = .next t ∧ e ∈ (t.core core).tlb ∧ e ∈ Table.getD t.ms.tlb2 [] (coreDie core) ∧ e.pte = p
      ∧ e.ctx = ctx ∧ e.tag = c.tag ∧ e.pbase = p.addr ∧ e.size = 2 ^ levelShift level ∧ e.vbase = va.toNat / 2 ^ levelShift level * 2 ^ levelShift level
      ∧ SameMem s t ∧ { t with cores := s.cores, ms := { t.ms with tlb2 := s.ms.tlb2 } } = s := by
  refine ⟨_, walkedEntry ctx c.tag va.toNat level p, exec_pageWalk_leaf hc hv hva hw, ?_, ?_, rfl, rfl, rfl, rfl, rfl, rfl, fun _ => rfl, rfl⟩
  · simp [mem_tlbAdd_self]
  · simp [Table.getD, mem_tlbAdd_self]

/-! ## SEAL_FILL (R397) -/

theorem State.sealMeta_setSeal (s : State) (b k : Nat) (m : SealMeta) : (s.setSeal b m).sealMeta k = if k = b then m else s.sealMeta k := by
  simp [State.sealMeta, State.setSeal, Table.getD_setD]

/-- Seals are read off the memory system alone. -/
theorem State.sealMeta_of_ms {s t : State} (h : t.ms = s.ms) (k : Nat) : t.sealMeta k = s.sealMeta k := by simp [State.sealMeta, h]

/-- A REKEY does not end while it has left a block. -/
theorem State.endRekey_left {s : State} {ctx : Nat} {c : Ctx} (hc : s.ctx? ctx = some c) (hl : c.rekeyLeft ≠ []) : s.endRekey ctx = s := by
  unfold State.endRekey
  split
  · rfl
  · next x hx =>
    obtain rfl := Option.some.inj (hc.symm.trans hx)
    split
    · rfl
    · simp [hl]

theorem Ctx.holdsKid_of_old {c : Ctx} {kid : Nat} (h0 : kid ≠ 0) (h : c.oldKids.contains kid = true) : c.holdsKid kid = true := by
  have hmem : kid ∈ c.oldKids := by simpa using h
  simp [Ctx.holdsKid, h0, hmem]

/-- The fill of a clean block of the old key takes it out of what the REKEY has left and seals it with the new key (R397). -/
theorem exec_sealFill_rekeys {s : State} {ctx block : Nat} {c : Ctx} (hpa : paExists (4096 * block) = true) (hc : s.ctx? ctx = some c)
    (hb : block ∈ c.rekeyLeft) (hold : c.oldKids.contains (s.sealMeta block).kid = true) (hkid : (s.sealMeta block).kid ≠ 0)
    (hst : (s.sealMeta block).status = 0) (hheld : Table.getD s.ms.sealHeld false block = false) :
    exec (.sealFill ctx block) s = .next (State.endRekey ((s.setSeal block ⟨0, c.keyKid, 0⟩).modCtx ctx
      (fun x => { x with rekeyLeft := x.rekeyLeft.filter (· != block) })) ctx) := by
  have hwb : s.sealWriteback block c.keyKid = s := by simp [State.sealWriteback, hheld]
  have hmem : (s.sealMeta block).kid ∈ c.oldKids := by simpa using hold
  change execSealFill ctx block s = _
  simp [execSealFill, hc, hpa, Ctx.holdsKid_of_old hkid hold, hwb, hst, hb, hmem]

theorem sealFill_takes_new_key {s : State} {ctx block : Nat} {c : Ctx} (hc : s.ctx? ctx = some c) (hpa : paExists (4096 * block) = true)
    (hb : block ∈ c.rekeyLeft) (hold : c.oldKids.contains (s.sealMeta block).kid = true) (hkid : (s.sealMeta block).kid ≠ 0)
    (hst : (s.sealMeta block).status = 0) (hleft : ∃ x ∈ c.rekeyLeft, x ≠ block) (hheld : Table.getD s.ms.sealHeld false block = false) :
    ∃ t x, exec (.sealFill ctx block) s = .next t ∧ t.sealMeta block = ⟨0, c.keyKid, 0⟩ ∧ (∀ k, k ≠ block → t.sealMeta k = s.sealMeta k)
      ∧ SameMem s t ∧ t.ctx? ctx = some x ∧ x = { c with rekeyLeft := c.rekeyLeft.filter (· != block) } := by
  have hctx : ((s.setSeal block ⟨0, c.keyKid, 0⟩).modCtx ctx (fun x => { x with rekeyLeft := x.rekeyLeft.filter (· != block) })).ctx? ctx
      = some { c with rekeyLeft := c.rekeyLeft.filter (· != block) } := State.ctx?_modCtx_same (c := c) hc rfl
  have hne : c.rekeyLeft.filter (· != block) ≠ [] := by simpa using hleft
  refine ⟨_, _, (exec_sealFill_rekeys hpa hc hb hold hkid hst hheld).trans (congrArg _ (State.endRekey_left hctx hne)), ?_, fun k hk => ?_, fun a => ?_,
    hctx, rfl⟩
  · rw [State.sealMeta_of_ms (State.modCtx_ms ..), State.sealMeta_setSeal, if_pos rfl]
  · rw [State.sealMeta_of_ms (State.modCtx_ms ..), State.sealMeta_setSeal, if_neg hk]
  · simp [Ms.byte]

/-! ## PATROL_SCRUB (R430) -/

@[simp] theorem State.countUp_count (s : State) (off : Nat) :
    Table.getD (s.countUp off).life.counts 0 off = satInc (Table.getD s.life.counts 0 off) := by simp [State.countUp]

theorem exec_patrolScrub (t : ScrubTarget) (correctable : Bool) (s : State) :
    exec (.patrolScrub t correctable) s = execPatrolScrub t correctable s := rfl

/-- A correctable error of a sector is corrected; an uncorrectable one poisons it and is counted at its home die. -/
theorem scrub_sector {s : State} {pa : Nat} (hpa : paExists pa = true) :
    exec (.patrolScrub (.sector pa) true) s = .next s
      ∧ ∃ t, exec (.patrolScrub (.sector pa) false) s = .next t ∧ Table.getD t.ms.poison false (pa / 32) = true ∧ SameMem s t
        ∧ Table.getD t.life.counts 0 (0x30 + 4 * homeDie pa) = satInc (Table.getD s.life.counts 0 (0x30 + 4 * homeDie pa)) := by
  simp only [exec_patrolScrub, execPatrolScrub, hpa]
  exact ⟨rfl, _, rfl, Table.getD_setD_same _ false true _, fun _ => rfl, State.countUp_count ..⟩

/-- An uncorrectable error of a firn word empties it and is counted at its core's die. -/
theorem scrub_firn {s : State} {core word : Nat} (hv : coreValid core = true) (hw : word < firnWords) :
    ∃ t, exec (.patrolScrub (.firn core word) false) s = .next t ∧ t.firnAt core word = ⟨0, false⟩
        ∧ (∀ k, k < firnWords → k ≠ word → t.firnAt core k = s.firnAt core k)
        ∧ Table.getD t.life.counts 0 (0x30 + 4 * coreDie core) = satInc (Table.getD s.life.counts 0 (0x30 + 4 * coreDie core)) := by
  have hrun : exec (.patrolScrub (.firn core word) false) s = .next
      (((s.countUp (0x30 + 4 * coreDie core)).unlatchFirn core (4 * word) 4).setFirn core word ⟨0, false⟩) := by
    simp [exec_patrolScrub, execPatrolScrub, hv, hw]
  refine ⟨_, hrun, ?_, fun k _ hk => ?_, State.countUp_count ..⟩
  · rw [State.firnAt_setFirn, if_pos rfl]
  · rw [State.firnAt_setFirn, if_neg hk]; rfl

/-- A correctable error of an L2 sector is corrected and counted at its die; nothing else changes. -/
theorem scrub_l2_correctable {s : State} {die pa : Nat} (hpa : paExists pa = true) (hd : die < 4) :
    ∃ t, exec (.patrolScrub (.l2 die pa) true) s = .next t ∧ { t with life := s.life } = s
        ∧ Table.getD t.life.counts 0 (0x20 + 4 * die) = satInc (Table.getD s.life.counts 0 (0x20 + 4 * die)) := by
  have hrun : exec (.patrolScrub (.l2 die pa) true) s = .next (s.countUp (0x20 + 4 * die)) := by
    simp [exec_patrolScrub, execPatrolScrub, hpa, hd]
  exact ⟨_, hrun, rfl, State.countUp_count ..⟩

/-- Settles O56, clause by clause: each of the five agents' steps by what it leaves where its guard holds. -/
theorem timePageAndScrub : Obligations.TimePageAndScrub := by
  unfold Obligations.TimePageAndScrub
  refine ⟨fun s h f hf => ⟨exec_watchdog_off hf, fun c sl d hon hst hw hrun hgt hsl hc hlev hbase =>
      watchdog_enters_handler hf hon hst hw hrun hgt hsl hc hlev hbase⟩,
    fun s core target hv hlo hhi hgt hoff hhold => gtCorrection_never_back hv hlo hhi hgt hoff hhold,
    fun s core ctx va c p level hc hv hva hw => pageWalk_fills_tlbs hc hv hva hw,
    fun s ctx block c hc hpa hb hold hkid hst hleft hheld => sealFill_takes_new_key hc hpa hb hold hkid hst hleft hheld,
    fun s pa die core word v hv => ⟨fun hpa => hv ▸ scrub_sector hpa, scrub_firn, scrub_l2_correctable⟩⟩

end Sys2Proof.Machine
end

section
/-! Packs and barriers: PACKQ, and the instructions that arrive at a colour and wait for it (R347, R351-R356). -/

namespace Sys2Proof.Machine

/-! ## PACKQ (R347) -/

/-- The answer of PACKQ: a rank, the size or the live count of the pack named. -/
def packAnswer (w : FWord) (e : Env) (s : State) : Option Nat :=
  let p := (s.kernel e.f.ctx e.f.kernel).packs.find? (fun p => p.id == w.c.toNat)
  let ms := match p with | some q => q.members (s.floesOf e.f) | none => []
  match w.m.toNat with
  | 0 => p.bind (fun q => q.rankOf e.f.num)
  | 1 => some ms.length
  | _ => some (ms.filter (fun m => !s.hasLeft e.f.ctx e.f.inst w.c.toNat m)).length

theorem packqBody_eq {w : FWord} {sh : Shape} {e : Env} {s : State} (hx : e.exec ≠ 0) :
    packqBody w sh e s = .done (writeTargets w sh e (packAnswer w e s) s) := if_neg hx

/-- One number for every lane that computes, written as R114 says. -/
theorem writeTargets_putLanes (w : FWord) (sh : Shape) (e : Env) (r : Option Nat) (s : State) :
    writeTargets w sh e r s
      = putLanes e.f sh.d.writes ((computeLanes w e).map (fun l => (l, r.map (fun v => wordsOf sh.d.writes.length v)))) s := by
  rw [writeTargets, writeLanes_putLanes, List.map_map]
  rfl

theorem packq_effect {w : FWord} {sh : Shape} {e : Env} {s : State} (h : Issues (.packq w) w sh e s) (hx : e.exec ≠ 0) :
    ∃ t, exec (.packq w) s = .next t ∧ LaneEffect w sh e Fx.none
      ((computeLanes w e).map (fun l => (l, (packAnswer w e s).map (fun v => wordsOf sh.d.writes.length v)))) s t := by
  refine ⟨_, h.issueF packqBody, ?_⟩
  rw [packqBody_eq hx, writeTargets_putLanes]
  exact laneEffect_putLanes h (h.sameLanes fun ws hw => by
    obtain ⟨v, -, rfl⟩ := Option.map_eq_some_iff.1 hw
    simp [wordsOf])

/-! ## Acquires (R201, R283, R353) -/

/-- An acquire changes its core alone. -/
theorem State.acquire_eq (s : State) (core scope : Nat) : s.acquire core scope = { s with cores := (s.acquire core scope).cores } := by
  unfold State.acquire
  split <;> rfl

/-! ## The bodies of BARA, BARS, BARW and BART (R356) -/

section
variable {w : FWord} {sh : Shape} {e : Env} {s : State} (hx : e.exec ≠ 0#32)
include hx

theorem barBody_refused {arrives : Bool} (waits : Bool) (hc : colourOk s e.f w.c.toNat arrives = false) :
    barBody arrives waits w sh e s = .trap { cause := .illegalOperands, lanes := e.exec } s := by
  simp [barBody, hx, hc]

theorem bartBody_refused (hc : colourOk s e.f w.c.toNat false = false) :
    bartBody w sh e s = .trap { cause := .illegalOperands, lanes := e.exec } s := by
  simp [bartBody, hx, hc]

theorem barBody_arrive_pending (waits : Bool) (hc : colourOk s e.f w.c.toNat true = true)
    (hp : Table.getD e.f.barPending false w.c.toNat = true) :
    barBody true waits w sh e s = .done (s.waitOn e.h (.arrive w.c.toNat (w.m.getLsbD 0) waits)) := by
  simp [barBody, hx, hc, hp]

theorem barBody_arrive (waits : Bool) (hc : colourOk s e.f w.c.toNat true = true) (hp : Table.getD e.f.barPending false w.c.toNat = false) :
    barBody true waits w sh e s = .done (if waits then (s.arriveAt e.h e.f w.c.toNat (w.m.getLsbD 0)).waitOn e.h (.barrier w.c.toNat)
      else s.arriveAt e.h e.f w.c.toNat (w.m.getLsbD 0)) := by
  simp [barBody, hx, hc, hp]

theorem barBody_wait_pending (hc : colourOk s e.f w.c.toNat false = true) (hp : Table.getD e.f.barPending false w.c.toNat = true) :
    barBody false true w sh e s = .done (s.waitOn e.h (.barrier w.c.toNat)) := by
  simp [barBody, hx, hc, hp]

theorem barBody_wait_released (hc : colourOk s e.f w.c.toNat false = true) (hp : Table.getD e.f.barPending false w.c.toNat = false) :
    barBody false true w sh e s = .done (s.acquire e.f.core 5) := by
  simp [barBody, hx, hc, hp, State.barAcquire]

/-- BART writes one condition word in every lane of D, after its acquire where the arrival is released. -/
theorem bartBody_eq (hc : colourOk s e.f w.c.toNat false = true) (r : Bool) (hr : r = !Table.getD e.f.barPending false w.c.toNat) :
    bartBody w sh e s = .done (putLanes e.f sh.d.writes
      ((computeLanes w e).map (fun l => (l, some (List.replicate sh.d.writes.length (⟨if r then 1 else 0, r⟩ : FirnWord)))))
      (if r then s.acquire e.f.core 5 else s)) := by
  subst hr
  simp [bartBody, hx, hc, foldl_wrReg_putLanes, State.barAcquire]

end

/-! ## Arriving (R351-R353) -/

/-- The floe that has arrived at a colour: its phase bit flipped, its arrival unreleased (R351). -/
def Floe.arrived (f : Floe) (colour : Nat) : Floe :=
  { f with barPhase := Table.setD f.barPhase false colour (!Table.getD f.barPhase false colour),
           barPending := Table.setD f.barPending false colour true }

/-- The arrival a floe sends, with its phase bit, after what its release covers (R353). -/
def State.arrivalOf (s : State) (h : Nat) (f : Floe) (colour : Nat) (leave : Bool) : Arrival :=
  ⟨f.num, clusterOf f.core, Table.getD f.barPhase false colour, true, leave, false, s.gt, s.opsOf h ++ f.seen, none⟩

/-- The instances' entry `y` with a member gone from a pack where its arrival leaves it (R344). -/
def Inst.goneIf (y : Inst) (leave : Bool) (pack num : Nat) : Inst := if leave then { y with gone := y.gone ++ [(pack, num)] } else y

/-- What an arrival of floe `h` (`f`) at colour `colour` (`c`) of partition `bp`, under the instances' entry `y`, makes of `s`. -/
structure Arrives (h : Nat) (f : Floe) (p : Pack) (bp colour : Nat) (c : Colour) (y : Inst) (leave : Bool) (s t : State) : Prop where
  floe : t.floe? h = some (f.arrived colour)
  colour : t.colour? bp colour = some (c.send (s.arrivalOf h f colour leave))
  inst : t.inst? f.ctx f.inst = some (y.goneIf leave p.id f.num)
  others : OtherFloes h s t
  rest : { t with floes := s.floes, colours := s.colours, insts := s.insts } = s

theorem colourOk_of {s : State} {f : Floe} {colour bp : Nat} {p : Pack} {c : Colour} (hp : boundPack s f colour = some p)
    (hbp : s.barPart f = some bp) (hc : s.colour? bp colour = some c) (hl : s.hasLeft f.ctx f.inst p.id f.num = false) (arrives : Bool) :
    colourOk s f colour arrives = true := by
  simp [colourOk, hp, hbp, hc, hl]

/-- The state in which an arrival has been sent and its floe has arrived. -/
def State.arrivalSent (s : State) (h : Nat) (f : Floe) (bp colour : Nat) (c : Colour) (leave : Bool) : State :=
  (s.setColour bp colour (c.send (s.arrivalOf h f colour leave))).modFloe h (fun g =>
    { g with barPhase := Table.setD g.barPhase false colour (!Table.getD f.barPhase false colour),
             barPending := Table.setD g.barPending false colour true })

theorem State.arriveAt_eq {s : State} {f : Floe} {colour bp : Nat} {p : Pack} {c : Colour} (h : Nat) (leave : Bool)
    (hp : boundPack s f colour = some p) (hbp : s.barPart f = some bp) (hc : s.colour? bp colour = some c) :
    s.arriveAt h f colour leave = if leave then (s.arrivalSent h f bp colour c leave).modInst f.ctx f.inst
      (fun i => { i with gone := i.gone ++ [(p.id, f.num)] }) else s.arrivalSent h f bp colour c leave := by
  simp only [State.arriveAt, hp, hbp, hc]
  rfl

theorem arriveAt_arrives {s : State} {h : Nat} {f : Floe} {colour bp : Nat} {p : Pack} {c : Colour} {y : Inst} (leave : Bool)
    (hf : s.floe? h = some f) (hp : boundPack s f colour = some p) (hbp : s.barPart f = some bp) (hc : s.colour? bp colour = some c)
    (hy : s.inst? f.ctx f.inst = some y) : Arrives h f p bp colour c y leave s (s.arriveAt h f colour leave) := by
  let u := s.arrivalSent h f bp colour c leave
  have hfloe : u.floe? h = some (f.arrived colour) := by
    have hs : (s.setColour bp colour (c.send (s.arrivalOf h f colour leave))).floe? h = some f := hf
    simp only [u, State.arrivalSent, State.floe?_modFloe_same, hs]
    rfl
  have hcolour : u.colour? bp colour = some (c.send (s.arrivalOf h f colour leave)) := by
    exact (State.colour?_of_colours (State.modFloe_colours ..) _ _).trans (State.colour?_setColour_same ..)
  have hinst : u.inst? f.ctx f.inst = some y := by
    exact (State.inst?_of_insts (State.modFloe_insts ..) _ _).trans hy
  have hothers : OtherFloes h s u := otherFloes_modFloe (fun _ _ => rfl) _
  have hrest : { u with floes := s.floes, colours := s.colours, insts := s.insts } = s := by
    simp only [u, State.arrivalSent]
    rw [State.modFloe_eq]
    rfl
  rw [State.arriveAt_eq h leave hp hbp hc]
  cases leave with
  | false => exact ⟨hfloe, hcolour, hinst, hothers, hrest⟩
  | true =>
    exact {
      floe := (State.floe?_of_floes (State.modInst_floes ..) _).trans hfloe
      colour := (State.colour?_of_colours (State.modInst_colours ..) _ _).trans hcolour
      inst := State.inst?_modInst_same hinst _
      others := fun k hk => (State.floe?_of_floes (State.modInst_floes ..) k).trans (hothers k hk)
      rest := by rw [if_pos rfl, State.modInst_eq]; exact hrest }

section
variable {h bp colour : Nat} {f : Floe} {p : Pack} {c : Colour} {y : Inst} {leave : Bool} {s u : State}
  (ha : Arrives h f p bp colour c y leave s u)
include ha

theorem Arrives.sameTime : SameTime s u :=
  ⟨(congrArg State.gt ha.rest :), (congrArg State.pace ha.rest :), (congrArg State.clk ha.rest :), (congrArg State.gated ha.rest :)⟩

/-- BARS waits where it has arrived. -/
theorem Arrives.wait (k : Wait) :
    (u.waitOn h k).floe? h = some ((f.arrived colour).held k s.gt) := by
  rw [State.waitOn_floe ha.floe, ha.sameTime.gt]

end

/-- What BARA and BARS come to once their floe has arrived: each retires, BARS waiting for the release (R356). -/
theorem Arrives.effect {w : FWord} {sh : Shape} {e : Env} {bp colour : Nat} {p : Pack} {c : Colour} {y : Inst} {leave : Bool} {s u v : State}
    (ha : Arrives e.h e.f p bp colour c y leave s u) (waits : Bool) (hv : v = if waits then u.waitOn e.h (.barrier colour) else u) :
    let t := State.retire e (latchesOf s e.f w sh) (hintYields w sh) (.done v)
    t.floe? e.h = some (e.after w sh s (if waits then (e.f.arrived colour).held (.barrier colour) s.gt else e.f.arrived colour))
      ∧ t.colour? bp colour = some (c.send (s.arrivalOf e.h e.f colour leave))
      ∧ t.inst? e.f.ctx e.f.inst = some (y.goneIf leave p.id e.f.num)
      ∧ OtherFloes e.h s t ∧ { t with floes := s.floes, colours := s.colours, insts := s.insts } = s := by
  have hve : v = { u with floes := v.floes } := by
    subst hv
    split
    · rw [State.waitOn, State.modFloe_eq]
    · rfl
  have hfloe : v.floe? e.h = some (if waits then (e.f.arrived colour).held (.barrier colour) s.gt else e.f.arrived colour) := by
    subst hv
    split
    · exact ha.wait _
    · exact ha.floe
  have hothers : OtherFloes e.h s v := by
    subst hv
    split
    · exact otherFloes_modFloe ha.others _
    · exact ha.others
  have ht := retire_done_eq e (latchesOf s e.f w sh) (hintYields w sh) v
  refine ⟨retire_done_after ?_ hfloe, ?_, ?_, retire_done_others hothers, ?_⟩
  · rw [hve]
    exact ⟨ha.sameTime.gt, ha.sameTime.pace, ha.sameTime.clk, ha.sameTime.gated⟩
  · rw [ht, hve]; exact ha.colour
  · rw [ht, hve]; exact ha.inst
  · rw [ht, hve]; exact ha.rest

/-! ## What BARA, BARS, BARW and BART come to (R351, R353, R355, R356) -/

/-- BARA and BARS where the floe may arrive: an arrival unreleased holds the floe, and else it arrives. -/
theorem arrive_effects {i : Instr} {w : FWord} {sh : Shape} {e : Env} {s : State} {waits : Bool} {p : Pack} {bp : Nat} {c : Colour} {y : Inst}
    (h : Issues i w sh e s) (hrun : exec i s = issueF i (barBody true waits) s) (hx : e.exec ≠ 0)
    (hp : boundPack s e.f w.c.toNat = some p) (hbp : s.barPart e.f = some bp) (hc : s.colour? bp w.c.toNat = some c)
    (hy : s.inst? e.f.ctx e.f.inst = some y) (hl : s.hasLeft e.f.ctx e.f.inst p.id e.f.num = false) :
    (Table.getD e.f.barPending false w.c.toNat = true → ∃ t, exec i s = .next t
      ∧ FloeEffect e.h (e.after w sh s (e.f.held (.arrive w.c.toNat (w.m.getLsbD 0) waits) s.gt)) s t)
    ∧ (Table.getD e.f.barPending false w.c.toNat = false → ∃ t, exec i s = .next t
      ∧ t.floe? e.h = some (e.after w sh s (if waits then (e.f.arrived w.c.toNat).held (.barrier w.c.toNat) s.gt else e.f.arrived w.c.toNat))
      ∧ t.colour? bp w.c.toNat = some (c.send (s.arrivalOf e.h e.f w.c.toNat (w.m.getLsbD 0)))
      ∧ t.inst? e.f.ctx e.f.inst = some (y.goneIf (w.m.getLsbD 0) p.id e.f.num)
      ∧ OtherFloes e.h s t ∧ { t with floes := s.floes, colours := s.colours, insts := s.insts } = s) := by
  have hok := colourOk_of hp hbp hc hl true
  rw [hrun, h.issueF]
  constructor
  · intro hpend
    rw [barBody_arrive_pending hx waits hok hpend]
    exact ⟨_, rfl, floeEffect_waitOn h _⟩
  · intro hpend
    rw [barBody_arrive hx waits hok hpend]
    exact ⟨_, rfl, (arriveAt_arrives (w.m.getLsbD 0) h.floe hp hbp hc hy).effect waits rfl⟩

theorem barw_effects {w : FWord} {sh : Shape} {e : Env} {s : State} (h : Issues (.barw w) w sh e s) (hx : e.exec ≠ 0)
    (hok : colourOk s e.f w.c.toNat false = true) :
    (Table.getD e.f.barPending false w.c.toNat = true →
      ∃ t, exec (.barw w) s = .next t ∧ FloeEffect e.h (e.after w sh s (e.f.held (.barrier w.c.toNat) s.gt)) s t)
    ∧ (Table.getD e.f.barPending false w.c.toNat = false →
      ∃ t, exec (.barw w) s = .next t ∧ FloeAnd e.h (e.after w sh s e.f) s (s.acquire e.f.core 5) t) := by
  have hrun : exec (.barw w) s = .next (State.retire e (latchesOf s e.f w sh) (hintYields w sh) (barBody false true w sh e s)) := h.issueF _
  rw [hrun]
  constructor
  · intro hpend
    rw [barBody_wait_pending hx hok hpend]
    exact ⟨_, rfl, floeEffect_waitOn h _⟩
  · intro hpend
    rw [barBody_wait_released hx hok hpend]
    have ha := s.acquire_eq e.f.core 5
    refine ⟨_, rfl, retire_done_after ?_ ?_, retire_done_others fun k _ => ?_, ?_⟩
    · rw [ha]; exact ⟨rfl, rfl, rfl, rfl⟩
    · rw [ha]; exact h.floe
    · rw [ha]; rfl
    · rw [retire_done_eq, ha]

theorem bart_effect {w : FWord} {sh : Shape} {e : Env} {s : State} (h : Issues (.bart w) w sh e s) (hx : e.exec ≠ 0)
    (hok : colourOk s e.f w.c.toNat false = true) (r : Bool) (hr : r = !Table.getD e.f.barPending false w.c.toNat) :
    ∃ t, exec (.bart w) s = .next t ∧ t.floe? e.h = some (e.after w sh s e.f) ∧ OtherFloes e.h s t ∧ SameMem s t
      ∧ { t with floes := s.floes, firn := s.firn, cores := s.cores } = s
      ∧ Wrote e.f sh.d.writes ((computeLanes w e).map (fun l => (l, some (List.replicate sh.d.writes.length
          (⟨if r then 1 else 0, r⟩ : FirnWord))))) s t := by
  let rs := (computeLanes w e).map (fun l => (l, some (List.replicate sh.d.writes.length (⟨if r then 1 else 0, r⟩ : FirnWord))))
  let u := if r then s.acquire e.f.core 5 else s
  have hrun : exec (.bart w) s = .next (State.retire e (latchesOf s e.f w sh) (hintYields w sh) (.done (putLanes e.f sh.d.writes rs u))) := by
    rw [← bartBody_eq hx hok r hr]
    exact h.issueF _
  have hu : u = { s with cores := u.cores } := by
    simp only [u]
    split
    · exact s.acquire_eq e.f.core 5
    · rfl
  have hput : putLanes e.f sh.d.writes rs u = { s with cores := u.cores, firn := (putLanes e.f sh.d.writes rs u).firn } :=
    (putLanes_rest ..).trans (congrArg (fun v : State => { v with firn := (putLanes e.f sh.d.writes rs u).firn }) hu)
  have hl : LaneList e.f sh.d.writes rs := h.sameLanes fun ws hw => by cases hw; simp
  refine ⟨_, hrun, retire_done_after ?_ ?_, retire_done_others fun k _ => ?_, fun a => ?_, ?_, ?_⟩
  · rw [hput]; exact ⟨rfl, rfl, rfl, rfl⟩
  · rw [hput]; exact h.floe
  · rw [hput]; rfl
  · rw [retire_done_ms, hput]
  · rw [retire_done_eq, hput]
  · exact (putLanes_wrote u hl).of_firn (by rw [hu]) (retire_done_firn ..)

/-- A colour that the floe may not name, for a word whose body refuses it so (R355). -/
theorem colour_refused {i : Instr} {w : FWord} {sh : Shape} {e : Env} {s : State} {x : Ctx} (h : Issues i w sh e s)
    {body : FWord → Shape → Env → State → Res} (hrun : exec i s = issueF i body s)
    (hb : body w sh e s = .trap { cause := .illegalOperands, lanes := e.exec } s) (hctx : s.ctx? e.f.ctx = some x) (hl : e.f.levelHandler = false)
    (hbase : x.trapBase ≠ 0) : ∃ t, exec i s = .next t ∧ TrapEffect e x.trapBase .illegalOperands false e.exec 0 e.sl.pc Fx.none s t := by
  rw [hrun, h.issueF, hb]
  exact ⟨_, rfl, trapEffect_retire (t := { cause := .illegalOperands, lanes := e.exec }) _ _ h.env hctx hl hbase (by simp) rfl rfl⟩

end Sys2Proof.Machine
end

section
/-! The barrier tree (R350-R352, R354) and the clock steps it drives (R20). -/

namespace Sys2Proof.Machine

/-! ## The arrival that the tree takes next (R354) -/

/-- A left fold that keeps the better of two is the least element of a list by `f`. -/
theorem foldl_better_eq_argmin {α β : Type} [Preorder β] [DecidableLT β] (f : α → β) {r : α → α → Bool} (hr : ∀ x y, r x y = true ↔ f y < f x)
    (a : α) (l : List α) : some (l.foldl (fun x y => if r x y then y else x) a) = (a :: l).argmin f := by
  change _ = l.foldl (List.argAux fun b c => f b < f c) (some a)
  induction l generalizing a with
  | nil => rfl
  | cons b t ih =>
    have hstep : List.argAux (fun b c => f b < f c) (some a) b = some (if r a b then b else a) := by
      simp only [List.argAux, hr]
      split <;> rfl
    rw [List.foldl_cons, List.foldl_cons, hstep, ih]

/-- When an arrival is taken: by the gt it reached the tree, then by its cluster, die·12 + row; one that has not reached it comes last. -/
def Arrival.turn (a : Arrival) : WithTop ℕ ×ₗ ℕ :=
  toLex (match a.reached with | some x => (x : WithTop ℕ) | none => ⊤, a.cluster / 16 * 12 + a.cluster % 16)

/-- Whether an arrival is of the phase that gathers, or of the next while a release spreads (R351). -/
def Colour.gathers (c : Colour) (a : Arrival) : Bool := a.tag == (if c.st = .releasing then !c.phase else c.phase)

/-- The tree takes the least by its turn of the arrivals that fit its phase and are in the tree, or can be (R354). -/
theorem Colour.nextSent_eq (s : State) (c : Colour) :
    c.nextSent s = (c.sent.filter (fun a => c.gathers a && (a.reached.isSome || c.canReach s a))).argmin Arrival.turn := by
  unfold Colour.nextSent
  simp only
  split
  · next h =>
    change c.sent.filter (fun a => c.gathers a && _) = [] at h
    rw [h]; rfl
  · next a t h =>
    change c.sent.filter (fun a => c.gathers a && _) = a :: t at h
    rw [h]
    refine foldl_better_eq_argmin Arrival.turn (fun x y => ?_) a t
    cases hx : x.reached with
    | none => cases hy : y.reached <;> simp [Arrival.turn, hx, hy, Prod.Lex.toLex_lt_toLex]
    | some m =>
      cases hy : y.reached with
      | none => simp [Arrival.turn, hx, hy, Prod.Lex.toLex_lt_toLex]
      | some n => simp [Arrival.turn, hx, hy, Prod.Lex.toLex_lt_toLex, eq_comm (a := m)]

theorem Colour.nextSent_gathers {s : State} {c : Colour} {a : Arrival} (h : c.nextSent s = some a) : c.gathers a = true := by
  rw [Colour.nextSent_eq] at h
  have hf := (List.mem_filter.1 (List.argmin_mem h)).2
  rw [Bool.and_eq_true] at hf
  exact hf.1

/-- No arrival of the phase that has reached the tree comes before the one taken. -/
theorem Colour.nextSent_turn_le {s : State} {c : Colour} {a b : Arrival} (h : c.nextSent s = some a) (hb : b ∈ c.sent) (hg : c.gathers b = true)
    (hr : b.reached.isSome = true) : a.turn ≤ b.turn := by
  rw [Colour.nextSent_eq] at h
  exact List.le_of_mem_argmin (List.mem_filter.2 ⟨hb, by simp [hg, hr]⟩) h

theorem Arrival.turn_le_reached {a b : Arrival} {y : Nat} (h : a.turn ≤ b.turn) (hb : b.reached = some y) :
    ∃ x, a.reached = some x
      ∧ (x < y ∨ x = y ∧ a.cluster / 16 * 12 + a.cluster % 16 ≤ b.cluster / 16 * 12 + b.cluster % 16) := by
  cases ha : a.reached with
  | none => simp [Arrival.turn, ha, hb, Prod.Lex.toLex_le_toLex] at h
  | some x => exact ⟨x, rfl, by simpa [Arrival.turn, ha, hb, Prod.Lex.toLex_le_toLex] using h⟩

theorem nextSent_first {s : State} {c : Colour} {a : Arrival} (h : c.nextSent s = some a) :
    a.tag = (if c.st = .releasing then !c.phase else c.phase)
    ∧ (∀ b ∈ c.sent, b.tag = a.tag → ∀ y, b.reached = some y → ∃ x, a.reached = some x
        ∧ (x < y ∨ x = y ∧ a.cluster / 16 * 12 + a.cluster % 16 ≤ b.cluster / 16 * 12 + b.cluster % 16)) := by
  have htag := eq_of_beq (Colour.nextSent_gathers h)
  refine ⟨htag, fun b hb hbt y hy => ?_⟩
  have hgb : c.gathers b = true := by rw [Colour.gathers, hbt, htag, beq_self_eq_true]
  exact Arrival.turn_le_reached (Colour.nextSent_turn_le h hb hgb (by rw [hy]; rfl)) hy

/-! ## An arrival counted or held (R351, R352) -/

/-- A colour with an arrival or leave counted in the phase that gathers. -/
def Colour.tally (c : Colour) (a : Arrival) : Colour :=
  { c with
    st := .gathering, any := true, arrived := if a.arr then c.arrived ++ [a.num] else c.arrived
    live := if a.leave then c.live.filter (· != a.num) else c.live, counted := c.counted + (if a.arr then 1 else 0)
    first := (match c.first with | some k => some k | none => if a.arr then some a.cluster else none) }

section
variable (n : Nat) {c : Colour} (a : Arrival)

/-- While a release spreads an arrival is held. -/
theorem Colour.take_releasing (h : c.st = .releasing) : c.take n a = { c with held := c.held ++ [a] } := if_pos h

/-- Else it is counted, and the phase completes when every live member has arrived, as the `n`-th (R350, R354). -/
theorem Colour.take_gathering (h : c.st ≠ .releasing) :
    c.take n a = if (c.tally a).live.all (fun m => (c.tally a).arrived.contains m) then
      { c.tally a with st := .releasing, last := some a.cluster, byExit := a.exit, order := n, spread := (c.tally a).arrived }
    else c.tally a := if_neg h

@[simp] theorem Colour.take_sent : (c.take n a).sent = c.sent := by
  by_cases h : c.st = .releasing
  · rw [Colour.take_releasing n a h]
  · rw [Colour.take_gathering n a h]; split <;> rfl

@[simp] theorem Colour.take_phase : (c.take n a).phase = c.phase := by
  by_cases h : c.st = .releasing
  · rw [Colour.take_releasing n a h]
  · rw [Colour.take_gathering n a h]; split <;> rfl

variable (h : c.st ≠ .releasing)
include h

theorem Colour.take_held : (c.take n a).held = c.held := by
  rw [Colour.take_gathering n a h]; split <;> rfl

theorem Colour.take_arrived : (c.take n a).arrived = (c.tally a).arrived := by
  rw [Colour.take_gathering n a h]; split <;> rfl

theorem Colour.take_live : (c.take n a).live = (c.tally a).live := by
  rw [Colour.take_gathering n a h]; split <;> rfl

theorem Colour.take_completes (hall : ∀ m ∈ (c.take n a).live, m ∈ (c.take n a).arrived) :
    (c.take n a).st = .releasing ∧ (c.take n a).spread = (c.take n a).arrived ∧ (c.take n a).last = some a.cluster ∧ (c.take n a).order = n := by
  rw [Colour.take_live n a h, Colour.take_arrived n a h] at hall
  rw [Colour.take_gathering n a h, if_pos (by simpa using hall)]
  exact ⟨rfl, rfl, rfl, rfl⟩

theorem Colour.take_incomplete (hnot : ∃ m ∈ (c.take n a).live, m ∉ (c.take n a).arrived) : (c.take n a).st = .gathering := by
  rw [Colour.take_live n a h, Colour.take_arrived n a h] at hnot
  rw [Colour.take_gathering n a h, if_neg (by simpa using hnot)]
  rfl

end

/-- BARRIER_ARRIVAL takes the next arrival sent (R350). -/
theorem exec_barrierArrival {s : State} {part colour : Nat} {c : Colour} {a : Arrival} (hc : s.colour? part colour = some c)
    (ha : c.nextSent s = some a) : exec (.barrierArrival part colour) s
      = .next (s.takeId.2.setColour part colour (Colour.take s.nextId { c with sent := c.sent.erase a } a)) := by
  change execBarrierArrival part colour s = _
  simp only [execBarrierArrival, hc, ha]

theorem barrierArrival_takes {s : State} {part colour : Nat} {c : Colour} {a : Arrival} (hc : s.colour? part colour = some c)
    (ha : c.nextSent s = some a) :
    ∃ t d, exec (.barrierArrival part colour) s = .next t ∧ t.colour? part colour = some d
      ∧ { t with colours := s.colours, nextId := s.nextId } = s ∧ t.nextId = s.nextId + 1
      ∧ d.sent = c.sent.erase a ∧ d.phase = c.phase
      ∧ (c.st = .releasing → d.st = .releasing ∧ d.held = c.held ++ [a] ∧ d.arrived = c.arrived ∧ d.live = c.live)
      ∧ (c.st ≠ .releasing → d.held = c.held ∧ d.arrived = (if a.arr then c.arrived ++ [a.num] else c.arrived)
          ∧ d.live = (if a.leave then c.live.filter (· != a.num) else c.live)
          ∧ ((∀ n ∈ d.live, n ∈ d.arrived) → d.st = .releasing ∧ d.spread = d.arrived ∧ d.last = some a.cluster ∧ d.order = s.nextId)
          ∧ ((∃ n ∈ d.live, n ∉ d.arrived) → d.st = .gathering)) := by
  refine ⟨_, _, exec_barrierArrival hc ha, State.colour?_setColour_same .., rfl, rfl, Colour.take_sent .., Colour.take_phase .., fun hst => ?_,
    fun hst => ?_⟩
  · rw [Colour.take_releasing (c := { c with sent := c.sent.erase a }) s.nextId a hst]
    exact ⟨hst, rfl, rfl, rfl⟩
  · have hst' : ({ c with sent := c.sent.erase a } : Colour).st ≠ .releasing := hst
    exact ⟨Colour.take_held _ a hst', Colour.take_arrived _ a hst', Colour.take_live _ a hst', Colour.take_completes _ a hst',
      Colour.take_incomplete _ a hst'⟩

/-! ## The release spreads and ends (R350) -/

theorem releaseReachesFloe_releases {s : State} {part colour h : Nat} {c : Colour} {f : Floe} (hc : s.colour? part colour = some c)
    (hf : s.floe? h = some f) (hst : c.st = .releasing) (hn : f.num ∈ c.spread) (hm : s.memberOf c.ctx c.inst f.num = some h) :
    ∃ t, exec (.releaseReachesFloe part colour h) s = .next t
      ∧ t.floe? h = some { f with barPending := Table.setD f.barPending false colour false } ∧ OtherFloes h s t
      ∧ t.colour? part colour = some { c with spread := c.spread.filter (· != f.num) } ∧ { t with floes := s.floes, colours := s.colours } = s := by
  have hrun : exec (.releaseReachesFloe part colour h) s = .next ((s.setColour part colour { c with spread := c.spread.filter (· != f.num) }).modFloe h
      (fun g => { g with barPending := Table.setD g.barPending false colour false })) := by
    change execReleaseReachesFloe part colour h s = _
    simp [execReleaseReachesFloe, hc, hf, hst, hn, hm]
  have hf' : (s.setColour part colour { c with spread := c.spread.filter (· != f.num) }).floe? h = some f := hf
  refine ⟨_, hrun, ?_, otherFloes_modFloe (fun _ _ => rfl) _, ?_, ?_⟩
  · rw [State.floe?_modFloe_same, hf']
    rfl
  · exact (State.colour?_of_colours (State.modFloe_colours ..) _ _).trans (State.colour?_setColour_same ..)
  · rw [State.modFloe_eq]
    rfl

/-- A colour whose release has ended, before the arrivals held are counted: its phase bit has flipped (R350). -/
def Colour.released (c : Colour) : Colour :=
  { c with st := .idle, phase := !c.phase, any := false, arrived := [], first := none, last := none, counted := 0, byExit := false,
           spread := [], held := [] }

/-- The clock steps due once a release has ended (R354). -/
def Colour.dueAfter (c : Colour) (due : List (Nat × Nat × Nat)) : List (Nat × Nat × Nat) :=
  match c.last, c.first with
  | some l, some f => if c.byExit = true ∨ c.counted ≤ 1 then due else dueStep (c.order, l, f) due
  | _, _ => due

theorem foldl_take_phase (n : Nat) (as : List Arrival) (c : Colour) : (as.foldl (Colour.take n) c).phase = c.phase :=
  List.foldlRecOn as (Colour.take n) (motive := fun d => d.phase = c.phase) rfl fun _ hd a _ => (Colour.take_phase n a).trans hd

theorem exec_releaseDone_waits {s : State} {part colour : Nat} {c : Colour} (hc : s.colour? part colour = some c)
    (hw : c.st ≠ .releasing ∨ ∃ n ∈ c.spread, (s.memberOf c.ctx c.inst n).isSome = true) : exec (.releaseDone part colour) s = .next s := by
  change execReleaseDone part colour s = _
  simp only [execReleaseDone, hc]
  rw [if_pos (by simpa using hw)]

theorem exec_releaseDone_ends {s : State} {part colour : Nat} {c : Colour} (hc : s.colour? part colour = some c) (hst : c.st = .releasing)
    (hn : ∀ n ∈ c.spread, s.memberOf c.ctx c.inst n = none) : exec (.releaseDone part colour) s
      = .next { s.takeId.2.setColour part colour (c.held.foldl (Colour.take s.nextId) c.released) with clkDue := c.dueAfter s.clkDue } := by
  change execReleaseDone part colour s = _
  simp only [execReleaseDone, hc]
  rw [if_neg (by simpa [hst] using hn)]
  rfl

theorem releaseDone_ends {s : State} {part colour : Nat} {c : Colour} (hc : s.colour? part colour = some c) (hst : c.st = .releasing)
    (hn : ∀ n ∈ c.spread, s.memberOf c.ctx c.inst n = none) : ∃ t d, exec (.releaseDone part colour) s = .next t
      ∧ t.colour? part colour = some d ∧ d.phase = !c.phase ∧ (c.held = [] → d.st = .idle ∧ d.arrived = [] ∧ d.live = c.live)
      ∧ { t with colours := s.colours, clkDue := s.clkDue, nextId := s.nextId } = s ∧ t.clkDue = c.dueAfter s.clkDue := by
  refine ⟨_, _, exec_releaseDone_ends hc hst hn, State.colour?_setColour_same .., foldl_take_phase .., fun hh => ?_, rfl, rfl⟩
  rw [hh]
  exact ⟨rfl, rfl, rfl⟩

/-! ## Clock steps (R20, R354) -/

theorem State.clk_setClock (s : State) (k j mhz : Nat) (gate : Bool) :
    Table.getD (s.setClock k mhz gate).clk 940 j = if j = k then mhz else Table.getD s.clk 940 j := by
  simp [State.setClock, Table.getD_setD]

/-- A clock step that leaves a gate as it was leaves every gate so. -/
theorem State.gated_setClock (s : State) (k j mhz : Nat) :
    Table.getD (s.setClock k mhz (Table.getD s.gated false k)).gated false j = Table.getD s.gated false j := by
  simp only [State.setClock, Table.getD_setD]
  split
  · next h => rw [h]
  · rfl

theorem exec_clockStep_discards {s : State} {n last first : Nat} {rest : List (Nat × Nat × Nat)} {refuse : Bool}
    (hd : s.clkDue = (n, last, first) :: rest)
    (h : last = first ∨ 1100 < Table.getD s.clk 940 last + 20 ∨ Table.getD s.clk 940 first < 800 ∨ s.life.throt = true) :
    exec (.clockStep refuse) s = .next { s with clkDue := rest } := by
  change execClockStep refuse s = _
  simp only [execClockStep, hd]
  rw [if_pos]
  rcases h with h | h | h | h
  · exact .inl h
  · exact .inr (.inl h)
  · exact .inr (.inr (.inl (by omega)))
  · exact .inr (.inr (.inr (.inl h)))

theorem exec_clockStep_steps {s : State} {n last first : Nat} {rest : List (Nat × Nat × Nat)} {refuse : Bool}
    (hd : s.clkDue = (n, last, first) :: rest) (hne : last ≠ first) (hup : Table.getD s.clk 940 last + 20 ≤ 1100)
    (hdown : 800 ≤ Table.getD s.clk 940 first) (hthrot : s.life.throt = false)
    (hpow : s.life.plimit.toNat - 100 < 2 * s.life.pwr.toNat → refuse = false) :
    exec (.clockStep refuse) s = .next ((State.setClock { s with clkDue := rest } last (Table.getD s.clk 940 last + 20)
      (Table.getD s.gated false last)).setClock first (Table.getD s.clk 940 first - 20) (Table.getD s.gated false first)) := by
  change execClockStep refuse s = _
  simp only [execClockStep, hd]
  rw [if_neg]
  rintro (h | h | h | h | h)
  · exact hne h
  · omega
  · omega
  · simp [hthrot] at h
  · rw [Bool.and_eq_true, decide_eq_true_eq] at h
    simp [hpow h.1] at h

theorem clockStep_steps {s : State} {n last first : Nat} {rest : List (Nat × Nat × Nat)} {refuse : Bool}
    (hd : s.clkDue = (n, last, first) :: rest) (hne : last ≠ first) (hup : Table.getD s.clk 940 last + 20 ≤ 1100)
    (hdown : 800 ≤ Table.getD s.clk 940 first) (hthrot : s.life.throt = false)
    (hpow : s.life.plimit.toNat - 100 < 2 * s.life.pwr.toNat → refuse = false) :
    ∃ t, exec (.clockStep refuse) s = .next t ∧ t.clkDue = rest ∧ Table.getD t.clk 940 last = Table.getD s.clk 940 last + 20
        ∧ Table.getD t.clk 940 first = Table.getD s.clk 940 first - 20
        ∧ (∀ k, k ≠ last → k ≠ first → Table.getD t.clk 940 k = Table.getD s.clk 940 k) ∧ (∀ k, Table.getD t.gated false k = Table.getD s.gated false k)
        ∧ { t with clk := s.clk, clkDue := s.clkDue, pace := s.pace, gated := s.gated } = s := by
  let u := State.setClock { s with clkDue := rest } last (Table.getD s.clk 940 last + 20) (Table.getD s.gated false last)
  have hgate : ∀ k, Table.getD u.gated false k = Table.getD s.gated false k :=
    fun k => State.gated_setClock { s with clkDue := rest } last k _
  refine ⟨_, exec_clockStep_steps hd hne hup hdown hthrot hpow, rfl, ?_, ?_, fun k hl hf => ?_, fun k => ?_, rfl⟩
  · rw [State.clk_setClock, if_neg hne, State.clk_setClock, if_pos rfl]
  · rw [State.clk_setClock, if_pos rfl]
  · rw [State.clk_setClock, if_neg hf, State.clk_setClock, if_neg hl]
  · rw [← hgate first]
    exact (State.gated_setClock u first k _).trans (hgate k)

/-! ## The statement -/

theorem exec_bara (w : FWord) (s : State) : exec (.bara w) s = issueF (.bara w) (barBody true false) s := rfl
theorem exec_barw (w : FWord) (s : State) : exec (.barw w) s = issueF (.barw w) (barBody false true) s := rfl
theorem exec_bars (w : FWord) (s : State) : exec (.bars w) s = issueF (.bars w) (barBody true true) s := rfl
theorem exec_bart (w : FWord) (s : State) : exec (.bart w) s = issueF (.bart w) bartBody s := rfl

/-- BARA and BARS both run the body that arrives, BARS waiting. -/
theorem exec_arrives {i : Instr} {w : FWord} {waits : Bool} (hi : i = .bara w ∧ waits = false ∨ i = .bars w ∧ waits = true) (s : State) :
    exec i s = issueF i (barBody true waits) s := by
  rcases hi with ⟨rfl, rfl⟩ | ⟨rfl, rfl⟩
  · exact exec_bara w s
  · exact exec_bars w s

/-- Each of BARA, BARS, BARW and BART refuses a colour that the floe may not name (R355). -/
theorem barrier_refuses {i : Instr} {w : FWord} {sh : Shape} {e : Env} {s : State} {x : Ctx} {arrives : Bool} (h : Issues i w sh e s) (hx : e.exec ≠ 0)
    (hi : (i = .bara w ∨ i = .bars w) ∧ arrives = true ∨ (i = .barw w ∨ i = .bart w) ∧ arrives = false)
    (hc : colourOk s e.f w.c.toNat arrives = false) (hctx : s.ctx? e.f.ctx = some x) (hl : e.f.levelHandler = false) (hbase : x.trapBase ≠ 0) :
    ∃ t, exec i s = .next t ∧ TrapEffect e x.trapBase .illegalOperands false e.exec 0 e.sl.pc Fx.none s t := by
  rcases hi with ⟨rfl | rfl, rfl⟩ | ⟨rfl | rfl, rfl⟩
  · exact colour_refused h (exec_bara w s) (barBody_refused hx false hc) hctx hl hbase
  · exact colour_refused h (exec_bars w s) (barBody_refused hx true hc) hctx hl hbase
  · exact colour_refused h (exec_barw w s) (barBody_refused hx true hc) hctx hl hbase
  · exact colour_refused h (exec_bart w s) (bartBody_refused hx hc) hctx hl hbase

/-- Settles O47: each instruction by its body's answer on the colour's state, each step of the tree by what it takes or releases. -/
theorem barriers : Obligations.Barriers := by
  unfold Obligations.Barriers
  refine ⟨⟨fun w sh e s h hx => packq_effect h hx, ?_, ?_, ?_⟩, ?_, ?_, ?_, ?_⟩
  · intro i w sh e s waits leave p bp c y h hx hi hleave hp hbp hc hy hgone
    subst hleave
    obtain ⟨hpend, hfree⟩ := arrive_effects h (exec_arrives hi s) hx hp hbp hc hy hgone
    refine ⟨hpend, fun hnot => ?_⟩
    obtain ⟨t, hrun, hfloe, heffect⟩ := hfree hnot
    exact ⟨t, _, hrun, hfloe, rfl, heffect⟩
  · intro w sh e s hx hok
    refine ⟨fun h => (barw_effects h hx hok).1, fun h => (barw_effects h hx hok).2, fun h => bart_effect h hx hok _ rfl⟩
  · intro i w sh e s x arrives h hx hi hc hctx hl hbase
    exact barrier_refuses h hx hi hc hctx hl hbase
  · intro s part colour c a hc ha
    obtain ⟨htag, hfirst⟩ := nextSent_first ha
    exact ⟨htag, hfirst, barrierArrival_takes hc ha⟩
  · intro s part colour h c f hc hf hst hn hm
    exact releaseReachesFloe_releases hc hf hst hn hm
  · intro s part colour c hc
    exact ⟨exec_releaseDone_waits hc, releaseDone_ends hc⟩
  · intro s n last first rest refuse hd
    exact ⟨clockStep_steps hd, exec_clockStep_discards hd⟩

end Sys2Proof.Machine
end

section
/-! Words and their decoding: every field of a word is where the encoder puts it, every opcode and pOP has one row, and so decoding and encoding are
each other's inverse (R30, R32, R44, R52, R56, R65-R82). -/

namespace Sys2Proof

/-! ## Bits -/

/-- A bit taken as a word of one bit. -/
theorem ofBool_getLsbD (w : Dword) (i : Nat) : BitVec.ofBool (w.getLsbD i) = w.extractLsb' i 1 := by
  rw [BitVec.getLsbD_eq_extractLsb']
  generalize w.extractLsb' i 1 = x
  revert x
  decide

/-- A field of a field is a field of the word. -/
theorem extract_extract {n j l k m : Nat} (w : BitVec n) (h : k + m ≤ l) : (w.extractLsb' j l).extractLsb' k m = w.extractLsb' (j + k) m := by
  ext i hi
  simp [Nat.add_assoc, show k + i < l by omega]

/-- The kind of a word that bit 63 makes an F word (R30). -/
theorem wordKind_of_f {w : Dword} (h : w.getLsbD 63 = false) : wordKind w ≠ 2 ∧ wordKind w ≠ 3 := by
  have hbit : (wordKind w).getLsbD 1 = false := by simpa [wordKind] using h
  constructor <;> (intro hk; rw [hk] at hbit; cases hbit)

/-- A word is an F word, a P word or an X word (R30). -/
theorem wordKind_cases (w : Dword) : w.getLsbD 63 = false ∨ wordKind w = 2 ∨ wordKind w = 3 := by
  have hbit : w.getLsbD 63 = (wordKind w).getLsbD 1 := by simp [wordKind]
  rw [hbit]
  generalize wordKind w = k
  revert k
  decide

/-! ## Opcodes (R65-R78) -/

/-- Every row of the map stands at its own opcode, and every assigned slot has a row. -/
theorem fParts_classOps (f : FWord) {c : Nat} (hc : c < 16) :
    (classOps c).map (fun g => fParts (g f)) = (List.range (assigned c)).map (fun k => some (BitVec.ofNat 10 (64 * c + k), f)) := by
  interval_cases c <;> rfl

theorem class_lt (op : BitVec 10) : op.toNat / 64 < 16 := by omega

theorem fParts_of_fInstr {op : BitVec 10} {f : FWord} {i : Instr} (h : fInstr op f = some i) : fParts i = some (op, f) := by
  obtain ⟨g, hg, rfl⟩ := Option.map_eq_some_iff.1 h
  have hrow := congrArg (·[op.toNat % 64]?) (fParts_classOps f (class_lt op))
  simp only [List.getElem?_map, hg, Option.map_some] at hrow
  obtain ⟨k, hk, hval⟩ := Option.map_eq_some_iff.1 hrow.symm
  obtain ⟨hlt, rfl⟩ := List.getElem?_eq_some_iff.1 hk
  rw [← hval, List.getElem_range, Nat.div_add_mod, BitVec.ofNat_toNat, BitVec.setWidth_eq]

theorem fInstr_of_fParts {i : Instr} {op : BitVec 10} {f : FWord} (h : fParts i = some (op, f)) : fInstr op f = some i := by
  cases i <;> cases h <;> rfl

/-- A slot that no row stands at selects nothing (R66, R67). -/
theorem fInstr_unassigned {op : BitVec 10} (h : opAssigned op = false) (f : FWord) : fInstr op f = none := by
  have hlen := congrArg List.length (fParts_classOps f (class_lt op))
  simp only [List.length_map, List.length_range] at hlen
  have hge : assigned (op.toNat / 64) ≤ op.toNat % 64 := by simpa [opAssigned] using h
  simp [fInstr, hlen, hge]

/-! ## X words (R44) -/

theorem wordKind_bits (x : XWord) : wordKind x.bits = 3 := by
  simp (disch := decide) only [wordKind, XWord.bits, BitVec.extractLsb'_append_eq_of_le, Nat.reduceSub, BitVec.extractLsb'_eq_self]
  rfl

theorem XWord.ofBits_bits (x : XWord) : XWord.ofBits x.bits = x := by
  simp (disch := decide) only [XWord.ofBits, XWord.bits, BitVec.extractLsb'_append_eq_of_le, Nat.reduceSub, BitVec.extractLsb'_append_eq_of_add_le,
    BitVec.extractLsb'_eq_self]

theorem XWord.bits_ofBits {w : Dword} (h : wordKind w = 3) : (XWord.ofBits w).bits = w := by
  unfold wordKind at h
  simp only [XWord.bits, XWord.ofBits]
  rw [show 3#2 = w.extractLsb' 62 2 from h.symm]
  simp (disch := decide) only [BitVec.extractLsb'_append_extractLsb'_eq_extractLsb', BitVec.extractLsb'_eq_self]

/-! ## F words (R32) -/

theorem FWord.bits_getLsbD_63 (op : BitVec 10) (f : FWord) : (FWord.bits op f).getLsbD 63 = false := by
  rw [BitVec.getLsbD_eq_extractLsb']
  simp (disch := decide) only [FWord.bits, BitVec.extractLsb'_append_eq_of_le, Nat.reduceSub, BitVec.extractLsb'_eq_self]
  rfl

theorem wordHasX_bits (op : BitVec 10) (f : FWord) : wordHasX (FWord.bits op f) = f.x.isSome := by
  rw [wordHasX, BitVec.getLsbD_eq_extractLsb']
  simp (disch := decide) only [FWord.bits, BitVec.extractLsb'_append_eq_of_le, BitVec.extractLsb'_append_eq_of_add_le, Nat.reduceSub,
    BitVec.extractLsb'_eq_self]
  cases f.x <;> rfl

theorem FWord.opcode_bits (op : BitVec 10) (f : FWord) : (FWord.bits op f).extractLsb' 53 10 = op := by
  simp (disch := decide) only [FWord.bits, BitVec.extractLsb'_append_eq_of_le, Nat.reduceSub, BitVec.extractLsb'_append_eq_of_add_le,
    BitVec.extractLsb'_eq_self]

theorem FWord.ofBits_bits (op : BitVec 10) (f : FWord) : FWord.ofBits (FWord.bits op f) f.x = f := by
  simp (disch := decide) only [FWord.ofBits, FWord.bits, BitVec.extractLsb'_append_eq_of_le, Nat.reduceSub, BitVec.extractLsb'_append_eq_of_add_le,
    BitVec.extractLsb'_eq_self]

theorem FWord.bits_ofBits {w : Dword} {x : Option XWord} (h63 : w.getLsbD 63 = false) (hx : wordHasX w = x.isSome) :
    FWord.bits (w.extractLsb' 53 10) (FWord.ofBits w x) = w := by
  have h0 : 0#1 = w.extractLsb' 63 1 := by rw [← ofBool_getLsbD, h63]; rfl
  have h2 : BitVec.ofBool x.isSome = w.extractLsb' 2 1 := by rw [← hx, wordHasX, ofBool_getLsbD]
  simp only [FWord.bits, FWord.ofBits]
  rw [h0, h2]
  simp (disch := decide) only [BitVec.extractLsb'_append_extractLsb'_eq_extractLsb', BitVec.extractLsb'_eq_self]

/-! ## P words (R52, R53) -/

/-- The pair operations stand in the order of their codes. -/
theorem pairOps_code : pairOps.map PairOp.code = (List.range 20).map (BitVec.ofNat 7) := rfl

theorem pairOps_at_code (p : PairOp) : pairOps[p.code.toNat]? = some p := by cases p <;> rfl

theorem PairOp.code_of_at {k : BitVec 7} {p : PairOp} (h : pairOps[k.toNat]? = some p) : p.code = k := by
  have hrow := congrArg (·[k.toNat]?) pairOps_code
  simp only [List.getElem?_map, h, Option.map_some] at hrow
  obtain ⟨n, hn, hval⟩ := Option.map_eq_some_iff.1 hrow.symm
  obtain ⟨hlt, rfl⟩ := List.getElem?_eq_some_iff.1 hn
  rw [← hval, List.getElem_range, BitVec.ofNat_toNat, BitVec.setWidth_eq]

theorem HalfWord.ofBits_bits (h : HalfWord) : HalfWord.ofBits h.bits = some h := by
  simp (disch := decide) only [HalfWord.ofBits, HalfWord.bits, BitVec.extractLsb'_append_eq_of_le, Nat.reduceSub, BitVec.extractLsb'_append_eq_of_add_le,
    BitVec.extractLsb'_eq_self, pairOps_at_code, Option.map_some]

theorem HalfWord.bits_of_ofBits {b : BitVec 31} {h : HalfWord} (hb : HalfWord.ofBits b = some h) : h.bits = b := by
  obtain ⟨p, hp, rfl⟩ := Option.map_eq_some_iff.1 hb
  simp (disch := decide) only [HalfWord.bits, PairOp.code_of_at hp, BitVec.extractLsb'_append_extractLsb'_eq_extractLsb',
    BitVec.extractLsb'_eq_self]

/-- A pOP past the last is reserved (R55, R67). -/
theorem HalfWord.ofBits_reserved {b : BitVec 31} (h : 20 ≤ (b.extractLsb' 24 7).toNat) : HalfWord.ofBits b = none := by
  rw [HalfWord.ofBits, List.getElem?_eq_none (l := pairOps) h, Option.map_none]

/-- The bits of a P word (R52). -/
def pairBits (h0 h1 : HalfWord) : Dword := (2#2 ++ h0.bits ++ h1.bits : BitVec (2 + 31 + 31))

theorem wordKind_pairBits (h0 h1 : HalfWord) : wordKind (pairBits h0 h1) = 2 := by
  simp (disch := decide) only [wordKind, pairBits, BitVec.extractLsb'_append_eq_of_le, Nat.reduceSub, BitVec.extractLsb'_eq_self]
  rfl

theorem pairBits_of_halves {w : Dword} {h0 h1 : HalfWord} (hk : wordKind w = 2) (hb0 : HalfWord.ofBits (w.extractLsb' 31 31) = some h0)
    (hb1 : HalfWord.ofBits (w.extractLsb' 0 31) = some h1) : pairBits h0 h1 = w := by
  unfold wordKind at hk
  rw [pairBits, HalfWord.bits_of_ofBits hb0, HalfWord.bits_of_ofBits hb1, show 2#2 = w.extractLsb' 62 2 from hk.symm]
  simp (disch := decide) only [BitVec.extractLsb'_append_extractLsb'_eq_extractLsb', BitVec.extractLsb'_eq_self]

/-! ## The decoder, a case a kind of word (R56) -/

theorem decode_orphan {w : Dword} (h : wordKind w = 3) (next : Dword) : decode w next = .orphanExtension w := by
  simp [decode, h]

theorem decode_pair {w : Dword} {h0 h1 : HalfWord} (hk : wordKind w = 2) (hb0 : HalfWord.ofBits (w.extractLsb' 31 31) = some h0)
    (hb1 : HalfWord.ofBits (w.extractLsb' 0 31) = some h1) (next : Dword) : decode w next = .pairWord h0 h1 := by
  simp [decode, hk, hb0, hb1]

theorem decode_pair_reserved {w : Dword} (hk : wordKind w = 2)
    (hb : HalfWord.ofBits (w.extractLsb' 31 31) = none ∨ HalfWord.ofBits (w.extractLsb' 0 31) = none) (next : Dword) :
    decode w next = .reservedOpcode w := by
  rcases hb with hb | hb
  · simp [decode, hk, hb]
  · cases h : HalfWord.ofBits (w.extractLsb' 31 31) <;> simp [decode, hk, hb, h]

theorem decode_short {w : Dword} (h63 : w.getLsbD 63 = false) (hx : wordHasX w = false) (next : Dword) :
    decode w next = (fInstr (w.extractLsb' 53 10) (FWord.ofBits w none)).getD (.reservedOpcode w) := by
  obtain ⟨h2, h3⟩ := wordKind_of_f h63
  rw [decode, if_neg h3, if_neg h2, hx]
  rfl

theorem decode_long {w next : Dword} (h63 : w.getLsbD 63 = false) (hx : wordHasX w = true) (hn : wordKind next = 3) :
    decode w next = (fInstr (w.extractLsb' 53 10) (FWord.ofBits w (some (XWord.ofBits next)))).getD (.reservedOpcode w) := by
  obtain ⟨h2, h3⟩ := wordKind_of_f h63
  rw [decode, if_neg h3, if_neg h2, if_pos hx, if_pos hn]

theorem decode_no_extension {w next : Dword} (h63 : w.getLsbD 63 = false) (hx : wordHasX w = true) (hn : wordKind next ≠ 3) :
    decode w next = .reservedOpcode w := by
  obtain ⟨h2, h3⟩ := wordKind_of_f h63
  rw [decode, if_neg h3, if_neg h2, if_pos hx, if_neg hn]

/-- An unassigned opcode is refused, whatever follows it (R67). -/
theorem decode_unassigned {w : Dword} (h63 : w.getLsbD 63 = false) (hop : opAssigned (w.extractLsb' 53 10) = false) (next : Dword) :
    decode w next = .reservedOpcode w := by
  cases hx : wordHasX w
  · rw [decode_short h63 hx, fInstr_unassigned hop]; rfl
  · by_cases hn : wordKind next = 3
    · rw [decode_long h63 hx hn, fInstr_unassigned hop]; rfl
    · exact decode_no_extension h63 hx hn

/-- A reserved pOP in either half is refused (R55, R67). -/
theorem decode_reserved_pop {w : Dword} (hk : wordKind w = 2)
    (hp : 20 ≤ (w.extractLsb' 55 7).toNat ∨ 20 ≤ (w.extractLsb' 24 7).toNat) (next : Dword) : decode w next = .reservedOpcode w := by
  apply decode_pair_reserved hk
  refine hp.imp (fun h => HalfWord.ofBits_reserved ?_) (fun h => HalfWord.ofBits_reserved ?_)
  · rwa [extract_extract w (by decide)]
  · rwa [extract_extract w (by decide)]

/-! ## Decoding what was encoded -/

theorem encode_of_fParts {i : Instr} {op : BitVec 10} {f : FWord} (h : fParts i = some (op, f)) :
    encode i = FWord.bits op f :: (f.x.map XWord.bits).toList := by
  cases hx : f.x <;> simp [encode, h, hx]

theorem encode_pairWord (h0 h1 : HalfWord) : encode (.pairWord h0 h1) = [pairBits h0 h1] := rfl

/-- An F instruction comes back from its words, with its X word where it has one (R32, R44). -/
theorem decodeWords_encode_f {i : Instr} {op : BitVec 10} {f : FWord} (h : fParts i = some (op, f)) : decodeWords (encode i) = some i := by
  have h63 := FWord.bits_getLsbD_63 op f
  have hfields := FWord.ofBits_bits op f
  have hX := wordHasX_bits op f
  rw [encode_of_fParts h]
  cases hx : f.x with
  | none =>
    rw [hx] at hX hfields
    show some (decode (FWord.bits op f) 0) = _
    rw [decode_short h63 hX, FWord.opcode_bits, hfields, fInstr_of_fParts h]; rfl
  | some x =>
    rw [hx] at hX hfields
    show some (decode (FWord.bits op f) x.bits) = _
    rw [decode_long h63 hX (wordKind_bits x), FWord.opcode_bits, XWord.ofBits_bits, hfields, fInstr_of_fParts h]; rfl

theorem decode_pairBits (h0 h1 : HalfWord) (next : Dword) : decode (pairBits h0 h1) next = .pairWord h0 h1 := by
  apply decode_pair (wordKind_pairBits h0 h1)
  · simp (disch := decide) only [pairBits, BitVec.extractLsb'_append_eq_of_le, Nat.reduceSub, BitVec.extractLsb'_append_eq_of_add_le,
      BitVec.extractLsb'_eq_self, HalfWord.ofBits_bits]
  · rw [pairBits, BitVec.extractLsb'_append_eq_right, HalfWord.ofBits_bits]

/-- A word that R67 refuses standing alone is refused (R56, R67). -/
theorem decode_refused {w : Dword} (h : refusedWord w = true) : decode w 0 = .reservedOpcode w := by
  rcases wordKind_cases w with h63 | hk | hk
  · obtain ⟨h2, h3⟩ := wordKind_of_f h63
    have hr : wordHasX w = true ∨ opAssigned (w.extractLsb' 53 10) = false := by
      unfold refusedWord at h
      split at h
      · cases h
      · next hk => exact absurd (BitVec.eq_of_toNat_eq hk) h2
      · simpa [wordHasX] using h
    rcases hr with hx | hop
    · exact decode_no_extension h63 hx (by decide)
    · exact decode_unassigned h63 hop 0
  · simp [refusedWord, show (w.extractLsb' 62 2) = 2#2 from hk] at h
    exact decode_reserved_pop hk h 0
  · simp [refusedWord, show (w.extractLsb' 62 2) = 3#2 from hk] at h

/-- Settles O2: an F instruction, a P word and a refused word each come back from their words; nothing else has any. -/
theorem decodeOfEncode : Obligations.DecodeOfEncode := by
  unfold Obligations.DecodeOfEncode
  intro i hwf hne
  cases hp : fParts i with
  | some p => exact decodeWords_encode_f hp
  | none =>
    cases i with
    | pairWord h0 h1 => exact congrArg some (decode_pairBits h0 h1 0)
    | reservedOpcode w => exact congrArg some (decode_refused hwf)
    | orphanExtension w => exact congrArg some (decode_orphan (eq_of_beq hwf) 0)
    | _ => simp [encode, hp] at hne

/-! ## Encoding what was decoded -/

/-- What an F word decodes to encodes to the word itself and the X word that it took (R32, R82). -/
theorem encode_fInstr_getD {w : Dword} {x : Option XWord} (h63 : w.getLsbD 63 = false) (hx : wordHasX w = x.isSome) :
    encode ((fInstr (w.extractLsb' 53 10) (FWord.ofBits w x)).getD (.reservedOpcode w))
      = if (fParts ((fInstr (w.extractLsb' 53 10) (FWord.ofBits w x)).getD (.reservedOpcode w))).isSome
        then w :: (x.map XWord.bits).toList else [w] := by
  cases hi : fInstr (w.extractLsb' 53 10) (FWord.ofBits w x) with
  | none => rfl
  | some i =>
    have hparts := fParts_of_fInstr hi
    rw [Option.getD_some, encode_of_fParts hparts, FWord.bits_ofBits h63 hx, hparts]
    rfl

/-- Settles O3: each kind of word, by its case of the decoder. -/
theorem encodeOfDecode : Obligations.EncodeOfDecode := by
  unfold Obligations.EncodeOfDecode
  intro w next
  rcases wordKind_cases w with h63 | hk | hk
  · cases hx : wordHasX w with
    | false =>
      rw [decode_short h63 hx, encode_fInstr_getD (x := none) h63 hx]
      simp
    | true =>
      by_cases hn : wordKind next = 3
      · rw [decode_long h63 hx hn, encode_fInstr_getD (x := some (XWord.ofBits next)) h63 hx]
        simp [XWord.bits_ofBits hn]
      · rw [decode_no_extension h63 hx hn]; rfl
  · cases hb0 : HalfWord.ofBits (w.extractLsb' 31 31) with
    | none => rw [decode_pair_reserved hk (.inl hb0)]; rfl
    | some h0 =>
      cases hb1 : HalfWord.ofBits (w.extractLsb' 0 31) with
      | none => rw [decode_pair_reserved hk (.inr hb1)]; rfl
      | some h1 =>
        rw [decode_pair hk hb0 hb1, encode_pairWord, pairBits_of_halves hk hb0 hb1]; rfl
  · rw [decode_orphan hk]; rfl

/-- Settles O1: the decoder run on each word. -/
theorem workedEncodingsDecode : Obligations.WorkedEncodingsDecode := by
  unfold Obligations.WorkedEncodingsDecode
  decide +kernel

end Sys2Proof
end

section
/-! Decode traps: the order of the checks of R56 and the trap of the first that fails, and the words that are no instruction (R46, R67). -/

namespace Sys2Proof.Machine

/-! ## The checks in order (R56) -/

/-- A register outside the floe's allocation (R35). -/
theorem regsOk_false_iff {f : Floe} {rs : List Reg} : regsOk f rs = false ↔ ∃ r ∈ rs, ¬ r.n < (if r.uni then f.wregs else f.regs) := by
  simp [regsOk]

/-- What the decode checks come to: the first that fails, in the order of R56, or none. -/
theorem decodeTrap_cases (s : State) (e : Env) (priv : Bool) (w : FWord) (sh : Shape) :
    (priv = true ∧ s.isPriv e.f = false) ∧ decodeTrap s e priv w sh = some .privileged
    ∨ ¬ (priv = true ∧ s.isPriv e.f = false) ∧
      (modifierOk sh w = false ∧ decodeTrap s e priv w sh = some .illegalModifier
      ∨ modifierOk sh w = true ∧
        (¬ (fieldsOk sh w = true ∧ coordOk s e.f sh w = true ∧ bankOk sh w (prevWord s e.f e.sl.pc) = true)
            ∧ decodeTrap s e priv w sh = some .illegalOperands
        ∨ (fieldsOk sh w = true ∧ coordOk s e.f sh w = true ∧ bankOk sh w (prevWord s e.f e.sl.pc) = true) ∧
          (regsOk e.f (namedRegs sh w) = false ∧ decodeTrap s e priv w sh = some .registerRange
          ∨ regsOk e.f (namedRegs sh w) = true ∧ decodeTrap s e priv w sh = none))) := by
  unfold decodeTrap
  by_cases hp : priv = true ∧ s.isPriv e.f = false
  · exact .inl ⟨hp, by simp [hp]⟩
  · refine .inr ⟨hp, ?_⟩
    rw [if_neg (by simpa using hp)]
    cases modifierOk sh w
    · exact .inl ⟨rfl, rfl⟩
    · refine .inr ⟨rfl, ?_⟩
      by_cases ho : fieldsOk sh w = true ∧ coordOk s e.f sh w = true ∧ bankOk sh w (prevWord s e.f e.sl.pc) = true
      · obtain ⟨hf, hc, hb⟩ := ho
        refine .inr ⟨⟨hf, hc, hb⟩, ?_⟩
        cases regsOk e.f (namedRegs sh w) <;> simp [hf, hc, hb]
      · refine .inl ⟨ho, ?_⟩
        rw [if_neg (by simp), if_pos]
        simpa [imp_iff_not_or, or_assoc] using ho

/-- Settles O10: each cause is that of one case of the checks. -/
theorem decodeCheckOrder : Obligations.DecodeCheckOrder := by
  unfold Obligations.DecodeCheckOrder
  intro s e priv w sh
  simp only [← regsOk_false_iff]
  rcases decodeTrap_cases s e priv w sh with ⟨⟨rfl, hp⟩, h⟩ | ⟨hp, ⟨hm, h⟩ | ⟨hm, ⟨ho, h⟩ | ⟨⟨hf, hc, hb⟩, ⟨hr, h⟩ | ⟨hr, h⟩⟩⟩⟩
  · simp [h, hp]
  · simp [h, hp, hm]
  · simp only [h, hp, hm, ho]
    simp
    intro hf hc hb
    exact absurd ⟨hf, hc, hb⟩ ho
  · simp [h, hp, hm, hf, hc, hb, hr]
  · simp [h, hp, hm, hf, hc, hb, hr]

theorem decodeTrap_ne_pageNotPresent {s : State} {e : Env} {priv : Bool} {w : FWord} {sh : Shape} {c : Cause}
    (h : decodeTrap s e priv w sh = some c) : c ≠ .pageNotPresent := by
  rintro rfl
  rcases decodeTrap_cases s e priv w sh with ⟨-, h'⟩ | ⟨-, ⟨-, h'⟩ | ⟨-, ⟨-, h'⟩ | ⟨-, ⟨-, h'⟩ | ⟨-, h'⟩⟩⟩⟩ <;> simp [h] at h'

/-! ## The trap of a check that fails (R370) -/

/-- Every instruction of the F format is issued with a body of its own. -/
theorem exec_issueF {i : Instr} {p : FWord × Shape} (h : shapeOf i = some p) (s : State) : ∃ body, exec i s = issueF i body s := by
  cases i <;> cases h <;> exact ⟨_, rfl⟩

/-- An instruction that ends in a trap before it changes anything takes it (R370, R371). -/
theorem exec_trap_taken {i : Instr} {s : State} {g : Code} {len : Nat} {e : Env} {x : Ctx} {la : List (Option Latch)} {y : Bool} {t : TrapInfo}
    (hrun : exec i s = .next (State.retire e la y (.trap t s))) (he : s.env? g len = some e) (hx : s.ctx? e.f.ctx = some x)
    (hl : e.f.levelHandler = false) (hb : x.trapBase ≠ 0) (hc : t.cause ≠ .pageNotPresent) (hs : t.source = 0 := by rfl)
    (hn : t.atNext = false := by rfl) :
    ∃ u, exec i s = .next u ∧ TrapEffect e x.trapBase t.cause t.half t.lanes t.tinfo e.sl.pc Fx.none s u :=
  ⟨_, hrun, trapEffect_retire la y he hx hl hb hc hs hn⟩

/-- Settles O9: an F word that fails a check retires with its trap, and the floe goes to its handler. -/
theorem decodeTrapTaken : Obligations.DecodeTrapTaken := by
  unfold Obligations.DecodeTrapTaken
  intro i w sh e s c x hi he hx hl hb hd
  obtain ⟨body, hrun⟩ := exec_issueF hi s
  exact exec_trap_taken (hrun.trans (issueF_traps body hi he hd)) he hx hl hb (decodeTrap_ne_pageNotPresent hd)

/-! ## Words that are no instruction (R46, R67) -/

theorem exec_reservedOpcode {s : State} {e : Env} (he : s.env? 0xFF 8 = some e) (v : Dword) :
    exec (.reservedOpcode v) s = .next (State.retire e [] false
      (.trap { cause := .illegalOpcode, lanes := e.sl.mask, tinfo := (v.extractLsb' 53 10).setWidth 64 } s)) := by
  rw [exec, execReservedOpcode, he]

theorem exec_orphanExtension {s : State} {e : Env} (he : s.env? 0xFF 8 = some e) (v : Dword) :
    exec (.orphanExtension v) s = .next (State.retire e [] false
      (.trap { cause := .orphanExtension, lanes := e.sl.mask, tinfo := e.sl.via.getD (e.sl.pc - 8) } s)) := by
  rw [exec, execOrphanExtension, he]
  dsimp only
  cases e.sl.via <;> rfl

/-- Settles O4: the decoder's refusals, and the trap of each. -/
theorem reservedWordsRefusedAndTrap : Obligations.ReservedWordsRefusedAndTrap := by
  unfold Obligations.ReservedWordsRefusedAndTrap
  refine ⟨fun w next => ⟨fun hk => decode_orphan hk next, fun h63 hop => decode_unassigned h63 hop next, decode_no_extension,
    fun hk hp => decode_reserved_pop hk hp next⟩, fun v e s x he hx hl hb => ⟨?_, ?_⟩⟩
  · exact exec_trap_taken (exec_reservedOpcode he v) he hx hl hb Cause.noConfusion
  · exact exec_trap_taken (exec_orphanExtension he v) he hx hl hb Cause.noConfusion

end Sys2Proof.Machine
end

section
/-! P words: two halves that read before either writes, and the trap that names the half (R52-R54). -/

namespace Sys2Proof.Machine

/-! ## A state whose floe has taken flags (R102) -/

/-- The issuing floe with `x` ORed into its flags. -/
def Env.flagged (e : Env) (x : Fx) : Env := { e with f := { e.f with fpflags := e.f.fpflags ||| x.bits } }

theorem State.floe?_orFlags {s : State} {h : Nat} {f : Floe} (hf : s.floe? h = some f) (x : Fx) :
    (s.orFlags h x).floe? h = some { f with fpflags := f.fpflags ||| x.bits } := by
  simp [State.orFlags, hf]

theorem otherFloes_orFlags (s : State) (h : Nat) (x : Fx) : OtherFloes h s (s.orFlags h x) := otherFloes_modFloe (.refl h s) _

theorem State.orFlags_eq (s : State) (h : Nat) (x : Fx) : s.orFlags h x = { s with floes := (s.orFlags h x).floes } := State.modFloe_eq s h _

theorem OnlyFloes.trans {s u t : State} (h : OnlyFloes s u) (h' : OnlyFloes u t) : OnlyFloes s t := by
  unfold OnlyFloes at *
  exact (congrArg (fun v : State => { v with floes := s.floes }) h').trans h

theorem onlyFloes_orFlags (s : State) (h : Nat) (x : Fx) : OnlyFloes s (s.orFlags h x) := by
  rw [State.orFlags_eq]
  rfl

theorem State.env?_eq {s : State} {f : Floe} {sl : Slot} (hf : s.floe? s.cur.1 = some f) (hsl : f.slot s.cur.2 = some sl) (g : Code) (len : Nat) :
    s.env? g len = some ⟨s.cur.1, s.cur.2, f, sl, len, sl.mask &&& guardMask s f g⟩ := by
  simp [State.env?, hf, hsl]

/-- The same slot issues once the flags are set, with the same lanes. -/
theorem State.env?_orFlags {s : State} {g : Code} {len : Nat} {e : Env} (he : s.env? g len = some e) (x : Fx) :
    (s.orFlags e.h x).env? g len = some (e.flagged x) := by
  obtain ⟨hh, hb, hlen, hf, hsl, hexec⟩ := State.env?_some he
  have hguard : guardMask (s.orFlags e.h x) (e.flagged x).f g = guardMask s e.f g := by
    unfold guardMask
    simp only [State.rdReg_of_firn (State.orFlags_firn s e.h x)]
    rfl
  have hf' : (s.orFlags e.h x).floe? (s.orFlags e.h x).cur.1 = some (e.flagged x).f := by
    rw [State.orFlags_cur, ← hh]
    exact State.floe?_orFlags hf x
  have hsl' : (e.flagged x).f.slot (s.orFlags e.h x).cur.2 = some e.sl := by
    rw [State.orFlags_cur, ← hb]
    exact hsl
  rw [State.env?_eq hf' hsl', hguard, State.orFlags_cur, ← hexec, ← hh, ← hb, ← hlen]
  rfl

/-- A trap with flags set is the trap of the floe that has them. -/
theorem trapEffect_retire_flags {s : State} {g : Code} {len : Nat} {e : Env} {c : Ctx} (la : List (Option Latch)) (y : Bool) {t : TrapInfo} (x : Fx)
    (he : s.env? g len = some e) (hx : s.ctx? e.f.ctx = some c) (hl : e.f.levelHandler = false) (hb : c.trapBase ≠ 0)
    (hc : t.cause ≠ .pageNotPresent) (hs : t.source = 0) (hn : t.atNext = false) :
    TrapEffect e c.trapBase t.cause t.half t.lanes t.tinfo e.sl.pc x s (State.retire e la y (.trap t (s.orFlags e.h x))) := by
  obtain ⟨hfloe, hothers, hmem, hrest⟩ := trapEffect_retire (e := e.flagged x) la y (State.env?_orFlags he x)
    ((State.ctx?_of_ctxs (State.orFlags_ctxs ..) _).trans hx) hl hb hc hs hn
  refine ⟨?_, fun k hk => (hothers k hk).trans (otherFloes_orFlags s e.h x k hk), fun a => ?_, (onlyFloes_orFlags s e.h x).trans hrest⟩
  · rw [Fx.or_bits_none] at hfloe
    exact hfloe
  · rw [← State.orFlags_ms s e.h x]
    exact hmem a

/-- An instruction that sets flags and ends in a trap takes it (R102, R370). -/
theorem exec_trap_taken_flags {i : Instr} {s : State} {g : Code} {len : Nat} {e : Env} {c : Ctx} {la : List (Option Latch)} {y : Bool}
    {t : TrapInfo} {x : Fx} (hrun : exec i s = .next (State.retire e la y (.trap t (s.orFlags e.h x)))) (he : s.env? g len = some e)
    (hx : s.ctx? e.f.ctx = some c) (hl : e.f.levelHandler = false) (hb : c.trapBase ≠ 0) (hc : t.cause ≠ .pageNotPresent)
    (hs : t.source = 0 := by rfl) (hn : t.atNext = false := by rfl) :
    ∃ u, exec i s = .next u ∧ TrapEffect e c.trapBase t.cause t.half t.lanes t.tinfo e.sl.pc x s u :=
  ⟨_, hrun, trapEffect_retire_flags la y x he hx hl hb hc hs hn⟩

/-! ## A half's results (R53, R114) -/

/-- Results of the lanes that compute, written to the registers that D names. -/
theorem laneList_laneWords {f : Floe} {w : FWord} {k : Nat} (e : Env) (g : Nat → Option (Nat × Fx)) (hfits : ∀ r ∈ codeRegs w.d k, r.fits f) :
    LaneList f (codeRegs w.d k) (laneWords (codeRegs w.d k).length ((computeLanes w e).map (fun l => (l, g l)))) where
  fits := hfits
  nodup := codeRegs_nodup _ _
  sorted := by
    simp only [laneWords, List.map_map]
    exact List.pairwise_map.2 (computeLanes_sorted w e)
  lt := by
    intro p hp
    obtain ⟨r, hr, rfl⟩ := List.mem_map.1 hp
    obtain ⟨l, hl, rfl⟩ := List.mem_map.1 hr
    exact computeLanes_lt hl
  len := by
    intro l ws hw
    obtain ⟨r, -, hr⟩ := List.mem_map.1 hw
    obtain ⟨v, -, rfl⟩ := Option.map_eq_some_iff.1 (Prod.mk.inj hr).2
    simp [wordsOf]
  uni := by
    rintro ⟨r, hr, hu⟩
    simpa [laneWords] using computeLanes_uni (w := w) (e := e) (by rw [← codeRegs_uni hr, hu])

theorem halfShape_writes (h : HalfWord) : (halfShape h).d.writes = codeRegs (halfWord h).d 1 := rfl

theorem laneList_half {f : Floe} {h : HalfWord} (s : State) (e : Env) (hfits : ∀ r ∈ (halfShape h).d.writes, r.fits f) :
    LaneList f (halfShape h).d.writes (laneWords (halfShape h).d.writes.length (halfResults s e h)) :=
  laneList_laneWords (w := halfWord h) (k := 1) e _ hfits

theorem writeLanes_laneWords (f : Floe) (regs : List Reg) (rs : LaneResults) (s : State) :
    writeLanes f regs (rs.map (fun r => (r.1, r.2.map Prod.fst))) s = putLanes f regs (laneWords regs.length rs) s := by
  rw [writeLanes_putLanes, List.map_map]
  congr 1
  exact List.map_congr_left fun r _ => by simp [Function.comp_def]

/-- The registers of both halves lie in the floe's allocation (R35). -/
theorem pair_fits {f : Floe} {h0 h1 : HalfWord}
    (h : regsOk f (namedRegs (halfShape h0) (halfWord h0) ++ namedRegs (halfShape h1) (halfWord h1)) = true) :
    (∀ r ∈ (halfShape h0).d.writes, r.fits f) ∧ ∀ r ∈ (halfShape h1).d.writes, r.fits f :=
  ⟨fun r hr => regsOk_fits h r (by simp [namedRegs, hr]), fun r hr => regsOk_fits h r (by simp [namedRegs, hr])⟩

theorem fpTrap_ne_pageNotPresent {flags : Word} {x : Fx} {c : Cause} (h : fpTrap flags x = some c) : c ≠ .pageNotPresent := by
  rintro rfl
  unfold fpTrap at h
  split at h
  · cases h
  · split at h
    · cases h
    · split at h <;> cases h

/-! ## The issue of a P word (R54) -/

section
variable {h0 h1 : HalfWord} {e : Env} {s : State}

/-- The state a P word leaves: flags set, then half 0's destination written, then half 1's. -/
def pairState (h0 h1 : HalfWord) (e : Env) (s : State) : State :=
  putLanes e.f (halfShape h1).d.writes (laneWords (halfShape h1).d.writes.length (halfResults s e h1))
    (putLanes e.f (halfShape h0).d.writes (laneWords (halfShape h0).d.writes.length (halfResults s e h0))
      (s.orFlags e.h ((allFx (halfResults s e h0)).or (allFx (halfResults s e h1)))))

theorem exec_pairWord_writes (he : s.env? 0xFF 8 = some e) (hok : pairOk h0 h1 = true)
    (hr : regsOk e.f (namedRegs (halfShape h0) (halfWord h0) ++ namedRegs (halfShape h1) (halfWord h1)) = true)
    (ht0 : fpTrap e.f.fpflags (allFx (halfResults s e h0)) = none) (ht1 : fpTrap e.f.fpflags (allFx (halfResults s e h1)) = none) :
    exec (.pairWord h0 h1) s = .next (State.retire e [] false (.done (pairState h0 h1 e s))) := by
  rw [exec, execPairWord, he]
  simp only [hok, hr, ht0, ht1, writeLanes_laneWords]
  rfl

/-- Half 0's condition is looked at before half 1's. -/
theorem exec_pairWord_traps {c : Cause} {half : Bool} (he : s.env? 0xFF 8 = some e) (hok : pairOk h0 h1 = true)
    (hr : regsOk e.f (namedRegs (halfShape h0) (halfWord h0) ++ namedRegs (halfShape h1) (halfWord h1)) = true)
    (ht : half = false ∧ fpTrap e.f.fpflags (allFx (halfResults s e h0)) = some c
      ∨ half = true ∧ fpTrap e.f.fpflags (allFx (halfResults s e h0)) = none ∧ fpTrap e.f.fpflags (allFx (halfResults s e h1)) = some c) :
    exec (.pairWord h0 h1) s = .next (State.retire e [] false (.trap
      { cause := c, half := half,
        lanes := trapLanes e.f.fpflags (halfWord (if half then h1 else h0)) e.exec (halfResults s e (if half then h1 else h0)) }
      (s.orFlags e.h ((allFx (halfResults s e h0)).or (allFx (halfResults s e h1)))))) := by
  rw [exec, execPairWord, he]
  rcases ht with ⟨rfl, ht0⟩ | ⟨rfl, ht0, ht1⟩
  · simp only [hok, hr, ht0]
    rfl
  · simp only [hok, hr, ht0, ht1]
    rfl

/-- What the two writes leave of the rest. -/
theorem pairState_eq (h0 h1 : HalfWord) (e : Env) (s : State) :
    pairState h0 h1 e s = { s with
      firn := (pairState h0 h1 e s).firn
      floes := (s.orFlags e.h ((allFx (halfResults s e h0)).or (allFx (halfResults s e h1)))).floes } := by
  unfold pairState
  rw [putLanes_rest, putLanes_rest e.f (halfShape h0).d.writes, State.orFlags_eq]

theorem pairState_floe (hf : s.floe? e.h = some e.f) :
    (pairState h0 h1 e s).floe? e.h
      = some { e.f with fpflags := e.f.fpflags ||| ((allFx (halfResults s e h0)).or (allFx (halfResults s e h1))).bits } := by
  rw [pairState_eq]
  exact State.floe?_orFlags hf _

theorem pairState_others (h0 h1 : HalfWord) (e : Env) (s : State) : OtherFloes e.h s (pairState h0 h1 e s) := by
  rw [pairState_eq]
  exact otherFloes_orFlags s e.h _

theorem pairState_time (h0 h1 : HalfWord) (e : Env) (s : State) : SameTime s (pairState h0 h1 e s) := by
  rw [pairState_eq]
  exact ⟨rfl, rfl, rfl, rfl⟩

end

/-- Settles O15: with no enabled condition both destinations are written from what was read first; with one, neither is. -/
theorem pairWords : Obligations.PairWords := by
  unfold Obligations.PairWords
  refine ⟨fun h0 h1 e s he hok hr ht0 ht1 => ?_, fun h0 h1 e s c half x he hok hr hx hl hb ht => ?_⟩
  · obtain ⟨hfits0, hfits1⟩ := pair_fits hr
    refine ⟨_, _, exec_pairWord_writes he hok hr ht0 ht1,
      (putLanes_wrote _ (laneList_half s e hfits0)).of_firn (State.orFlags_firn ..).symm rfl,
      (putLanes_wrote _ (laneList_half s e hfits1)).of_firn rfl (retire_done_firn ..), ?_,
      retire_done_others (pairState_others h0 h1 e s), fun a => ?_, ?_⟩
    · have htime := pairState_time h0 h1 e s
      rw [retire_done_floe (pairState_floe (State.env?_floe he)), htime.gt, htime.mck]
    · rw [retire_done_ms, pairState_eq]
    · rw [OnlyFirnFloes, retire_done_eq, pairState_eq]
  · have hc : c ≠ .pageNotPresent := by
      rcases ht with ⟨-, ht⟩ | ⟨-, -, ht⟩ <;> exact fpTrap_ne_pageNotPresent ht
    exact exec_trap_taken_flags (exec_pairWord_traps he hok hr ht) he hx hl hb hc

end Sys2Proof.Machine
end

section
/-! Transfers of control that move a whole slot: BR, BRX, JMP and CALL, and the traps of their targets and of a full stack (R48, R145, R156-R159). -/

namespace Sys2Proof.Machine

/-! ## Issue of an instruction by its body -/

/-- A word that issues ends as its body says. -/
theorem Issues.exec_of_body {i : Instr} {w : FWord} {sh : Shape} {e : Env} {s : State} (h : Issues i w sh e s)
    {body : FWord → Shape → Env → State → Res} {r : Res} (hrun : exec i s = Machine.issueF i body s) (hr : body w sh e s = r) :
    exec i s = .next (State.retire e (latchesOf s e.f w sh) (hintYields w sh) r) := by
  rw [hrun, h.issueF, hr]

theorem Issues.next {i : Instr} {w : FWord} {sh : Shape} {e : Env} {s : State} (h : Issues i w sh e s) :
    e.next = e.sl.pc + BitVec.ofNat 64 (wordLen w) := by
  obtain ⟨-, -, hlen, -⟩ := State.env?_some h.env
  rw [Env.next, hlen]

theorem Issues.slot {i : Instr} {w : FWord} {sh : Shape} {e : Env} {s : State} (h : Issues i w sh e s) : e.f.slot e.b = some e.sl := by
  obtain ⟨-, -, -, -, hsl, -⟩ := State.env?_some h.env
  exact hsl

/-- An issue that does no more than give its own floe a new PC. -/
theorem floeEffect_jump {i : Instr} {w : FWord} {sh : Shape} {e : Env} {s : State} (h : Issues i w sh e s) (k : Floe → Floe) :
    FloeEffect e.h (e.afterJump w sh s (k e.f)) s
      (State.retire e (latchesOf s e.f w sh) (hintYields w sh) (.jump (s.modFloe e.h k))) where
  floe := by
    have ht : SameTime s (s.modFloe e.h k) := ⟨by simp, by simp, by simp, by simp⟩
    rw [retire_jump_floe (f := k e.f) (by simp [h.floe]), ht.gt, ht.mck]
    rfl
  others := otherFloes_modFloe (otherFloes_modFloe (.refl e.h s) k) _
  mem := fun a => by simp [State.retire]
  rest := by rw [OnlyFloes, State.retire, State.modFloe_eq, State.modFloe_eq s]

/-- An instruction that is its floe's jump. -/
theorem Issues.jumps {i : Instr} {w : FWord} {sh : Shape} {e : Env} {s : State} (h : Issues i w sh e s)
    {body : FWord → Shape → Env → State → Res} {k : Floe → Floe} (hrun : exec i s = Machine.issueF i body s)
    (hk : body w sh e s = .jump (s.modFloe e.h k)) : ∃ t, exec i s = .next t ∧ FloeEffect e.h (e.afterJump w sh s (k e.f)) s t :=
  ⟨_, h.exec_of_body hrun hk, floeEffect_jump h k⟩

/-- An instruction that traps before it changes anything. -/
theorem Issues.traps {i : Instr} {w : FWord} {sh : Shape} {e : Env} {s : State} {x : Ctx} (h : Issues i w sh e s)
    {body : FWord → Shape → Env → State → Res} {t : TrapInfo} (hrun : exec i s = Machine.issueF i body s) (ht : body w sh e s = .trap t s)
    (hx : s.ctx? e.f.ctx = some x) (hl : e.f.levelHandler = false) (hb : x.trapBase ≠ 0) (hc : t.cause ≠ .pageNotPresent)
    (hs : t.source = 0 := by rfl) (hn : t.atNext = false := by rfl) :
    ∃ u, exec i s = .next u ∧ TrapEffect e x.trapBase t.cause t.half t.lanes t.tinfo e.sl.pc Fx.none s u :=
  exec_trap_taken (h.exec_of_body hrun ht) h.env hx hl hb hc hs hn

/-! ## A branch to one place (R147) -/

theorem Floe.goto_eq {f : Floe} {b : Bool} {sl : Slot} (h : f.slot b = some sl) (pc : Dword) (via : Option Dword) :
    f.goto b pc via = f.setSlot b (some ⟨pc, sl.mask, sl.rpc, via⟩) := by
  simp [Floe.goto, h]

/-- One group is no divergence: the slot goes there with its mask and its reconvergence PC. -/
theorem branch_one {e : Env} (h : e.f.slot e.b = some e.sl) (join : Option Dword) (p : Dword) (m : Mask) (s : State) :
    branch e join [(p, m)] s
      = .jump (s.modFloe e.h (fun _ => e.f.setSlot e.b (some ⟨p, e.sl.mask, e.sl.rpc, some e.sl.pc⟩))) := by
  rw [← Floe.goto_eq h]
  rfl

/-- Lanes that all go to one PC are one group. -/
theorem foldl_addGroup_one {p : Dword} {target : Nat → Dword} {ls : List Nat} (h : ∀ l ∈ ls, target l = p) (m : Mask) :
    ∃ m', ls.foldl (fun g l => addGroup (target l) l g) [(p, m)] = [(p, m')] := by
  induction ls generalizing m with
  | nil => exact ⟨m, rfl⟩
  | cons l t ih =>
    obtain ⟨m', hm⟩ := ih (fun x hx => h x (List.mem_cons_of_mem _ hx)) (m ||| lanesMask [l])
    refine ⟨m', ?_⟩
    rw [List.foldl_cons, h l List.mem_cons_self, ← hm]
    simp [addGroup]

theorem groups_one {p : Dword} {target : Nat → Dword} {ls : List Nat} (hne : ls ≠ []) (h : ∀ l ∈ ls, target l = p) :
    ∃ m, ls.foldl (fun g l => addGroup (target l) l g) [] = [(p, m)] := by
  cases ls with
  | nil => exact absurd rfl hne
  | cons l t =>
    rw [List.foldl_cons, h l List.mem_cons_self]
    exact foldl_addGroup_one (fun x hx => h x (List.mem_cons_of_mem _ hx)) _

/-! ## BRX (R157) -/

/-- Where BRX takes a lane of the slot: its register's target, or the next word. -/
def brxTarget (w : FWord) (e : Env) (s : State) (l : Nat) : Dword :=
  if e.exec.getLsbD l then (if (rdOp s e.f l w.a 2).2 then BitVec.ofNat 64 (rdOp s e.f l w.a 2).1 else e.next) else e.next

/-- The lanes of a BRX whose target is no word's address (R48). -/
def brxBad (w : FWord) (e : Env) (s : State) : List Nat := (maskLanes e.exec).filter (fun l => (brxTarget w e s l).toNat % 8 ≠ 0)

theorem brxBody_eq {e : Env} (hx : e.exec ≠ 0) (w : FWord) (sh : Shape) (s : State) :
    brxBody w sh e s = if !(brxBad w e s).isEmpty then .trap { cause := .misalignedTarget, lanes := lanesMask (brxBad w e s) } s
      else branch e (joinOf w e) ((maskLanes e.sl.mask).foldl (fun g l => addGroup (brxTarget w e s l) l g) []) s := by
  rw [brxBody, if_neg hx]
  rfl

theorem brxTarget_of_valid {w : FWord} {e : Env} {s : State} {l : Nat} {p : Dword} (hl : e.exec.getLsbD l = true)
    (hp : rdOp s e.f l w.a 2 = (p.toNat, true)) : brxTarget w e s l = p := by
  simp [brxTarget, hl, hp]

/-- Every lane of the slot is of exec where none is left out. -/
theorem exec_of_mask {e : Env} (h : e.sl.mask &&& ~~~e.exec = 0) {l : Nat} (hl : l ∈ maskLanes e.sl.mask) : e.exec.getLsbD l = true := by
  obtain ⟨hlt, hm⟩ := mem_maskLanes.1 hl
  have hbit := congrArg (BitVec.getLsbD · l) h
  simpa [hm, hlt] using hbit

/-- A slot whose word has lanes of exec has lanes. -/
theorem Issues.maskLanes_ne_nil {i : Instr} {w : FWord} {sh : Shape} {e : Env} {s : State} (h : Issues i w sh e s) (hx : e.exec ≠ 0) :
    maskLanes e.sl.mask ≠ [] := by
  obtain ⟨-, -, -, -, -, hexec⟩ := State.env?_some h.env
  intro hnil
  apply hx
  rw [hexec]
  apply BitVec.eq_of_getLsbD_eq
  intro l hl
  have hout : e.sl.mask.getLsbD l = false := by
    by_contra hm
    have hmem : l ∈ maskLanes e.sl.mask := mem_maskLanes.2 ⟨hl, by simpa using hm⟩
    rw [hnil] at hmem
    cases hmem
  simp [hout]

/-- BRX with one valid target for every lane of the slot goes there. -/
theorem brxBody_one {w : FWord} {sh : Shape} {e : Env} {s : State} {p : Dword} (h : Issues (.brx w) w sh e s) (hx : e.exec ≠ 0)
    (hall : e.sl.mask &&& ~~~e.exec = 0) (hp : p.toNat % 8 = 0) (ht : ∀ l, e.exec.getLsbD l = true → rdOp s e.f l w.a 2 = (p.toNat, true)) :
    brxBody w sh e s = .jump (s.modFloe e.h (fun _ => e.f.setSlot e.b (some ⟨p, e.sl.mask, e.sl.rpc, some e.sl.pc⟩))) := by
  have hbad : brxBad w e s = [] := by
    refine List.filter_eq_nil_iff.2 fun l hl => ?_
    have hexec := (mem_maskLanes.1 hl).2
    simp [brxTarget_of_valid hexec (ht l hexec), hp]
  have htarget : ∀ l ∈ maskLanes e.sl.mask, brxTarget w e s l = p := fun l hl =>
    have hexec := exec_of_mask hall hl
    brxTarget_of_valid hexec (ht l hexec)
  obtain ⟨m, hm⟩ := groups_one (h.maskLanes_ne_nil hx) htarget
  rw [brxBody_eq hx, hbad, hm, branch_one h.slot]
  rfl

/-- The bad lanes of a BRX are those whose register holds a bad target: the next word of an aligned word is aligned. -/
theorem brxBad_eq {w : FWord} {sh : Shape} {e : Env} {s : State} (h : Issues (.brx w) w sh e s) (hpc : e.sl.pc.toNat % 8 = 0) :
    brxBad w e s = (maskLanes e.exec).filter (fun l => (rdOp s e.f l w.a 2).2 && decide ((rdOp s e.f l w.a 2).1 % 8 ≠ 0)) := by
  have hnext : e.next.toNat % 8 = 0 := by
    have hlen : wordLen w % 8 = 0 := by unfold wordLen; split <;> rfl
    rw [h.next, BitVec.toNat_add, BitVec.toNat_ofNat]
    omega
  refine List.filter_congr fun l hl => ?_
  have hexec := (mem_maskLanes.1 hl).2
  cases hv : (rdOp s e.f l w.a 2).2 with
  | false => simp [brxTarget, hexec, hv, hnext]
  | true =>
    have hmod : (rdOp s e.f l w.a 2).1 % 2 ^ 64 % 8 = (rdOp s e.f l w.a 2).1 % 8 := by omega
    simp only [brxTarget, hexec, hv, if_true, BitVec.toNat_ofNat, hmod, Bool.true_and]

theorem brxBody_misaligned {w : FWord} {sh : Shape} {e : Env} {s : State} (h : Issues (.brx w) w sh e s) (hx : e.exec ≠ 0)
    (hpc : e.sl.pc.toNat % 8 = 0) {bad : List Nat}
    (hbad : bad = (maskLanes e.exec).filter (fun l => (rdOp s e.f l w.a 2).2 && decide ((rdOp s e.f l w.a 2).1 % 8 ≠ 0))) (hne : bad ≠ []) :
    brxBody w sh e s = .trap { cause := .misalignedTarget, lanes := lanesMask bad } s := by
  rw [brxBody_eq hx, brxBad_eq h hpc, ← hbad, if_pos (by simpa using hne)]

/-! ## BR, JMP and CALL (R156, R158, R159) -/

theorem exec_br (w : FWord) (s : State) : exec (.br w) s = issueF (.br w) brBody s := rfl
theorem exec_brx (w : FWord) (s : State) : exec (.brx w) s = issueF (.brx w) brxBody s := rfl
theorem exec_jmp (w : FWord) (s : State) : exec (.jmp w) s = issueF (.jmp w) jmpBody s := rfl
theorem exec_call (w : FWord) (s : State) : exec (.call w) s = issueF (.call w) callBody s := rfl

/-- BR goes where all its lanes go: to the target, or to the next word where that is the target. -/
theorem brBody_one {w : FWord} {sh : Shape} {e : Env} {s : State} (h : Issues (.br w) w sh e s) (hx : e.exec ≠ 0)
    (hone : e.sl.mask &&& ~~~e.exec = 0 ∨ relTarget e (brOffset w) = e.next) :
    brBody w sh e s
      = .jump (s.modFloe e.h (fun _ => e.f.setSlot e.b (some ⟨relTarget e (brOffset w), e.sl.mask, e.sl.rpc, some e.sl.pc⟩))) := by
  rw [brBody]
  simp only [if_neg hx, if_pos hone, branch_one h.slot]

theorem jmpBody_valid {w : FWord} {e : Env} {s : State} {p : Dword} (hx : e.exec ≠ 0) (hp : rdOp s e.f 0 w.a 2 = (p.toNat, true))
    (h8 : p.toNat % 8 = 0) (sh : Shape) : jmpBody w sh e s = .jump (s.modFloe e.h (fun f => f.goto e.b p (some e.sl.pc))) := by
  have hexec : ¬ e.exec = 0#32 := hx
  simp [jmpBody, hexec, hp, h8]

theorem jmpBody_misaligned {w : FWord} {e : Env} {s : State} (hx : e.exec ≠ 0) (hv : (rdOp s e.f 0 w.a 2).2 = true)
    (h8 : (rdOp s e.f 0 w.a 2).1 % 8 ≠ 0) (sh : Shape) : jmpBody w sh e s = .trap { cause := .misalignedTarget, lanes := e.exec } s := by
  have hexec : ¬ e.exec = 0#32 := hx
  simp [jmpBody, hexec, hv, h8]

/-- The floe after a CALL: the return address, with the slot's mask and reconvergence PC, on its stack (R159). -/
def calledFloe (w : FWord) (e : Env) (f : Floe) : Floe :=
  { f with stack := ⟨.call, e.sl.pc + 8, e.sl.mask, e.sl.rpc, some e.sl.pc⟩ :: f.stack }.setSlot e.b
    (some ⟨relTarget e (brOffset w), e.sl.mask, none, some e.sl.pc⟩)

theorem callBody_room {e : Env} (hx : e.exec ≠ 0) (hroom : e.f.stack.length + 1 ≤ e.f.spillCap) (w : FWord) (sh : Shape) (s : State) :
    callBody w sh e s = .jump (s.modFloe e.h (calledFloe w e)) := by
  rw [callBody, if_neg hx, if_neg (Nat.not_lt.2 hroom)]
  rfl

theorem callBody_full {e : Env} (hx : e.exec ≠ 0) (hfull : e.f.spillCap < e.f.stack.length + 1) (w : FWord) (sh : Shape) (s : State) :
    callBody w sh e s = .trap { cause := .stackLimit, lanes := e.exec } s := by
  rw [callBody, if_neg hx, if_pos hfull]

/-- Settles O23: each body moves the whole slot, or traps before it changes anything. -/
theorem transfersOfControl : Obligations.TransfersOfControl := by
  unfold Obligations.TransfersOfControl
  refine ⟨fun w sh e s hx => ⟨?_, ?_, ?_, ?_⟩, fun w sh e s x hx hctx hl hb => ⟨?_, ?_, ?_⟩⟩
  · intro h hone
    exact h.jumps (exec_br w s) (brBody_one h hx (hone.imp_right (·.trans h.next.symm)))
  · intro p h hall hp ht
    exact h.jumps (exec_brx w s) (brxBody_one h hx hall hp ht)
  · intro p h hp h8
    rw [← Floe.goto_eq h.slot]
    exact h.jumps (exec_jmp w s) (jmpBody_valid hx hp h8 sh)
  · intro h hroom
    exact h.jumps (exec_call w s) (callBody_room hx hroom w sh s)
  · intro bad h hbad hne hpc
    exact h.traps (exec_brx w s) (brxBody_misaligned h hx hpc hbad hne) hctx hl hb Cause.noConfusion
  · intro h hv h8
    exact h.traps (exec_jmp w s) (jmpBody_misaligned hx hv h8 sh) hctx hl hb Cause.noConfusion
  · intro h hfull
    exact h.traps (exec_call w s) (callBody_full hx hfull w sh s) hctx hl hb Cause.noConfusion

end Sys2Proof.Machine
end

section
/-! A step of the machine: the turn of a slice that issues, its fetch (R31, R56, R140, R239), the steps of agents, and redundant lanes that disagree
(R152, R153). -/

namespace Sys2Proof.Machine

/-! ## The next turn (log 1) -/

theorem takeTurn_issue {s : State} {dt c k : Nat} {busy : List (Nat × Bool)} {rest : List Turn} (h : s.turns = ⟨dt, .issue c k busy⟩ :: rest) :
    takeTurn s = issueTurn { s with turns := rest, gt := s.gt + dt } c k busy := by
  simp [takeTurn, h]

theorem takeTurn_mismatch {s : State} {dt c k : Nat} {busy : List (Nat × Bool)} {again : Bool} {rest : List Turn}
    (h : s.turns = ⟨dt, .mismatch c k busy again⟩ :: rest) :
    takeTurn s = mismatchTurn { s with turns := rest, gt := s.gt + dt } c k busy again := by
  simp [takeTurn, h]

theorem takeTurn_event {s : State} {dt : Nat} {i : Instr} {rest : List Turn} (h : s.turns = ⟨dt, .event i⟩ :: rest) (hi : isEvent i = true) :
    takeTurn s = .run i { s with turns := rest, gt := s.gt + dt } := by
  simp [takeTurn, h, hi]

theorem step_of_run {s t : State} {i : Instr} (h : takeTurn s = .run i t) : step s = exec i t := by simp [step, h]

theorem step_of_still {s t : State} (h : takeTurn s = .still t) : step s = .next t := by simp [step, h]

/-! ## Fetch (R31, R56) -/

section
variable {u : State} {f : Floe}

theorem fetchInstr_short {pc w : Dword} (h : fetchWord u f pc = .ok w) (hlen : wordBytes w = 8) : fetchInstr u f pc = .ok (decode w 0) := by
  simp [fetchInstr, h, hlen]

theorem fetchInstr_long {pc w x : Dword} (h : fetchWord u f pc = .ok w) (hlen : wordBytes w = 16) (hx : fetchWord u f (pc + 8) = .ok x) :
    fetchInstr u f pc = .ok (decode w x) := by
  have hx' : fetchWord u f (pc + 8#64) = .ok x := hx
  simp [fetchInstr, h, hlen, hx']

/-- The F word's own fetch faults, or that of its X word. -/
theorem fetchInstr_fault {pc : Dword} {x : Cause} (h : fetchWord u f pc = .error x
    ∨ ∃ w, fetchWord u f pc = .ok w ∧ wordBytes w = 16 ∧ fetchWord u f (pc + 8) = .error x) : fetchInstr u f pc = .error x := by
  rcases h with h | ⟨w, h, hlen, hx⟩
  · simp [fetchInstr, h]
  · have hx' : fetchWord u f (pc + 8#64) = .error x := hx
    simp [fetchInstr, h, hlen, hx']

end

/-! ## A slice that issues (R140) -/

section
variable {u : State} {c k h : Nat} {busy : List (Nat × Bool)} {b : Bool} {f : Floe} {sl : Slot}

/-- The instruction fetched runs. -/
theorem issueTurn_runs {i : Instr} (hboot : u.life.boot = .ready) (hc : issueChoice u c k busy = some (h, b)) (hf : u.floe? h = some f)
    (hsl : f.slot b = some sl) (hfar : fetchFar u f sl.pc = []) (hi : fetchInstr u f sl.pc = .ok i) :
    issueTurn u c k busy = .run i { u with cur := (h, b) } := by
  simp [issueTurn, hboot, hc, hf, hsl, hfar, hi]

/-- The fault of the fetch is delivered at the F word. -/
theorem issueTurn_faults {x : Cause} (hboot : u.life.boot = .ready) (hc : issueChoice u c k busy = some (h, b)) (hf : u.floe? h = some f)
    (hsl : f.slot b = some sl) (hfar : fetchFar u f sl.pc = []) (hi : fetchInstr u f sl.pc = .error x) :
    issueTurn u c k busy = .still ((u.countSeal f.core f.ctx (coreSecure u f.core) x sl.pc).deliver h b sl.pc sl.pc
      { cause := x, lanes := sl.mask, tinfo := sl.pc, vaddr := sl.pc }) := by
  simp [issueTurn, hboot, hc, hf, hsl, hfar, hi]

/-- Lanes that disagree at the replay too: nothing runs, and the core is quarantined. -/
theorem mismatchTurn_quarantines {i : Instr} (hi : issueTurn u c k busy = .run i { u with cur := (h, b) }) (hf : u.floe? h = some f)
    (hd : f.dmr ≠ .off) : mismatchTurn u c k busy true = .still (u.quarantine f.core) := by
  simp [mismatchTurn, hi, hf, hd]

/-- Lanes that agree at the replay, or of which there is one set only: the instruction runs. -/
theorem mismatchTurn_runs {i : Instr} {again : Bool} (hi : issueTurn u c k busy = .run i { u with cur := (h, b) }) (hf : u.floe? h = some f)
    (hd : again = false ∨ f.dmr = .off) : mismatchTurn u c k busy again = .run i { u with cur := (h, b) } := by
  rcases hd with rfl | hd
  · simp [mismatchTurn, hi, hf]
  · simp [mismatchTurn, hi, hf, hd]

end

/-! ## Quarantine (R153) -/

theorem Table.mem_of_find? {α : Type} {t : Table α} {k : Nat} {v : α} (h : Table.find? t k = some v) : (k, v) ∈ t := by
  induction t with
  | nil => cases h
  | cons p t ih =>
    simp only [Table.find?] at h
    split at h
    · next hk =>
      cases h
      exact hk ▸ List.mem_cons_self
    · exact List.mem_cons_of_mem _ (ih h)

theorem preemptMarks_eq (ks : List Nat) (s : State) : ks.foldl State.markPreempt s = { s with floes := (ks.foldl State.markPreempt s).floes } := by
  induction ks generalizing s with
  | nil => rfl
  | cons k t ih =>
    rw [List.foldl_cons, ih, State.markPreempt, State.modFloe_eq]

/-- A floe through the marks of floes `ks`: its slots stay, and it is marked where it is of `ks` or was before. -/
theorem preemptMarks_floe {h : Nat} (ks : List Nat) {s : State} {f : Floe} (hf : s.floe? h = some f) :
    ∃ g, (ks.foldl State.markPreempt s).floe? h = some g ∧ g.s0 = f.s0 ∧ g.s1 = f.s1 ∧ (h ∈ ks ∨ f.preempt = true → g.preempt = true) := by
  induction ks generalizing s f with
  | nil => exact ⟨f, hf, rfl, rfl, by simp⟩
  | cons k t ih =>
    by_cases hk : k = h
    · subst hk
      obtain ⟨g, hg, h0, h1, hp⟩ := ih (s := s.markPreempt k) (by rw [State.markPreempt, State.floe?_modFloe_same, hf, Option.map_some])
      exact ⟨g, hg, h0, h1, fun _ => hp (.inr rfl)⟩
    · obtain ⟨g, hg, h0, h1, hp⟩ := ih (s := s.markPreempt k) (by rwa [State.markPreempt, State.floe?_modFloe_ne _ _ (Ne.symm hk)])
      exact ⟨g, hg, h0, h1, fun hm => hp (hm.imp_left fun hm => (List.mem_cons.1 hm).resolve_left (Ne.symm hk))⟩

theorem preemptCore_eq (s : State) (core : Nat) : s.preemptCore core = { s with floes := (s.preemptCore core).floes } := preemptMarks_eq _ s

/-- Every resident floe of the core begins to be saved, its slots as they were (R365). -/
theorem preemptCore_floe {s : State} {h : Nat} {f : Floe} (hf : s.floe? h = some f) :
    ∃ g, (s.preemptCore f.core).floe? h = some g ∧ g.s0 = f.s0 ∧ g.s1 = f.s1 ∧ (f.resident = true → g.preempt = true) := by
  obtain ⟨g, hg, h0, h1, hp⟩ := preemptMarks_floe (Table.keys (Table.keep s.floes (fun _ x => x.core == f.core && x.resident && !x.preempt))) hf
  refine ⟨g, hg, h0, h1, fun hres => hp ?_⟩
  cases hpre : f.preempt with
  | true => exact .inr rfl
  | false => exact .inl (List.mem_map.2 ⟨_, List.mem_filter.2 ⟨Table.mem_of_find? hf, by simp [hres, hpre]⟩, rfl⟩)

/-- The core and the counter of a quarantine, before any floe or context. -/
def State.quarantineMark (s : State) (core : Nat) : State := (s.modCore core (fun c => { c with quarantined := true })).countUp (0x50 + 4 * coreDie core)

/-- A quarantine: the core is marked and counted, its floes are pre-empted, and no more than contexts change beside. -/
theorem quarantine_eq {s : State} {core : Nat} (h : (s.core core).quarantined = false) :
    s.quarantine core = { (s.quarantineMark core).preemptCore core with ctxs := (s.quarantine core).ctxs } := by
  unfold State.quarantine
  rw [if_neg (by simp [h])]
  dsimp only
  split
  · rfl
  · rw [State.modCtx]
    split <;> rfl

theorem quarantine_core {s : State} {core : Nat} (h : (s.core core).quarantined = false) : ((s.quarantine core).core core).quarantined = true := by
  rw [quarantine_eq h, preemptCore_eq]
  exact congrArg Core.quarantined (State.core_modCore_same s core (fun c => { c with quarantined := true }))

theorem quarantine_counts {s : State} {core : Nat} (h : (s.core core).quarantined = false) :
    Table.getD (s.quarantine core).life.counts 0 (0x50 + 4 * coreDie core) = satInc (Table.getD s.life.counts 0 (0x50 + 4 * coreDie core)) := by
  rw [quarantine_eq h, preemptCore_eq]
  exact State.countUp_count ..

theorem quarantine_floe {s : State} {h : Nat} {f : Floe} (hq : (s.core f.core).quarantined = false) (hf : s.floe? h = some f) :
    ∃ g, (s.quarantine f.core).floe? h = some g ∧ g.s0 = f.s0 ∧ g.s1 = f.s1 ∧ (f.resident = true → g.preempt = true) := by
  rw [quarantine_eq hq]
  exact preemptCore_floe (s := s.quarantineMark f.core) hf

/-- No register, no byte of memory and no operation changes. -/
theorem quarantine_frame {s : State} {core : Nat} (h : (s.core core).quarantined = false) :
    (s.quarantine core).firn = s.firn ∧ (s.quarantine core).ms = s.ms ∧ (s.quarantine core).ops = s.ops := by
  rw [quarantine_eq h, preemptCore_eq]
  exact ⟨rfl, rfl, rfl⟩

/-! ## The statements -/

/-- Settles O6: each turn by what it comes to. -/
theorem deviceStepsAndFetchFaults : Obligations.DeviceStepsAndFetchFaults := by
  unfold Obligations.DeviceStepsAndFetchFaults
  refine ⟨fun s dt rest i hturn hi => step_of_run (takeTurn_event hturn hi), ?_, ?_⟩
  · intro s dt c k busy rest h b f sl x hboot hturn hc hf hsl hfar hx
    exact step_of_still ((takeTurn_issue hturn).trans (issueTurn_faults hboot hc hf hsl hfar (fetchInstr_fault hx)))
  · intro s t dt c k busy again rest h b f i hturn hf hrun
    have hturn' := takeTurn_mismatch hturn
    refine ⟨fun hd => step_of_run (hturn'.trans (mismatchTurn_runs hrun hf hd)), ?_⟩
    rintro rfl hd hstep hq
    have ht := hstep.symm.trans (step_of_still (hturn'.trans (mismatchTurn_quarantines hrun hf hd)))
    cases ht
    obtain ⟨hfirn, hms, hops⟩ := quarantine_frame (s := { s with turns := rest, gt := s.gt + dt }) hq
    exact ⟨quarantine_core hq, hfirn, hms, hops, quarantine_counts hq, quarantine_floe hq hf⟩

end Sys2Proof.Machine
end

section
/-! The word that a slice runs: the instruction at the slot's PC, and where its bytes come from (R31, R140, R239). The word read through an unsealed page
of a block that is sealed is ciphertext (R394, R396), which the model leaves open. -/

namespace Sys2Proof.Machine

/-- The first clause of O5: a step whose turn is a slice that issues runs the instruction decoded at the slot's PC. -/
theorem step_runs_decoded_word {s : State} {dt c k h : Nat} {busy : List (Nat × Bool)} {rest : List Turn} {b : Bool} {f : Floe} {sl : Slot} {i : Instr}
    {w : Dword} (hboot : s.life.boot = .ready) (hturn : s.turns = ⟨dt, .issue c k busy⟩ :: rest)
    (hc : issueChoice { s with turns := rest, gt := s.gt + dt } c k busy = some (h, b)) (hf : s.floe? h = some f) (hsl : f.slot b = some sl)
    (hfar : fetchFar { s with turns := rest, gt := s.gt + dt } f sl.pc = []) (hw : fetchWord { s with turns := rest, gt := s.gt + dt } f sl.pc = .ok w)
    (hi : wordBytes w = 8 ∧ decode w 0 = i
      ∨ ∃ x, wordBytes w = 16 ∧ fetchWord { s with turns := rest, gt := s.gt + dt } f (sl.pc + 8) = .ok x ∧ decode w x = i) :
    step s = exec i { s with turns := rest, gt := s.gt + dt, cur := (h, b) } := by
  have hfetch : fetchInstr { s with turns := rest, gt := s.gt + dt } f sl.pc = .ok i := by
    rcases hi with ⟨hlen, rfl⟩ | ⟨x, hlen, hx, rfl⟩
    · exact fetchInstr_short hw hlen
    · exact fetchInstr_long hw hlen hx
  exact step_of_run ((takeTurn_issue hturn).trans (issueTurn_runs hboot hc hf hsl hfar hfetch))

/-- A word that neither the floe nor its core holds is read through its page. -/
theorem fetchWord_uncached {u : State} {f : Floe} {va : Dword} {p : Phys} (hp : translateCore u f.core f.ctx .fetch va = .ok p)
    (hr : p.pte.remote = false) (hibuf : Table.find? f.ibuf (codeKey f.ctx va) = none)
    (hicache : Table.find? (u.core f.core).icache (codeKey f.ctx va) = none) :
    fetchWord u f va = .ok (BitVec.ofNat 64 (natOf ((List.range 8).map (fun k => readThrough u f.ctx p.pte (p.pa + k))))) := by
  simp [fetchWord, hp, hr, hibuf, coreWord, hicache]

/-- An unsealed page shows a block that is not sealed as it is in memory (R396). -/
theorem readThrough_plain {u : State} {ctx pa : Nat} {e : Pte} (he : e.sealed = false)
    (hm : (u.sealMeta (pa / 4096)).kid = 0 ∨ (u.sealMeta (pa / 4096)).status ≠ 0) : readThrough u ctx e pa = u.ms.byte pa := by
  have hno : ¬ ((u.sealMeta (pa / 4096)).kid ≠ 0 ∧ (u.sealMeta (pa / 4096)).status = 0) := fun h => hm.elim h.1 (· h.2)
  simp only [readThrough, he, if_neg hno]
  rfl

/-- The last clause of O5, for the words that lie in no sealed block. -/
theorem fetchWord_of_memory {u : State} {f : Floe} {va w : Dword} {p : Phys} (hw : fetchWord u f va = .ok w)
    (hp : translateCore u f.core f.ctx .fetch va = .ok p) (hr : p.pte.remote = false) (he : p.pte.sealed = false)
    (hibuf : Table.find? f.ibuf (codeKey f.ctx va) = none) (hicache : Table.find? (u.core f.core).icache (codeKey f.ctx va) = none)
    (hm : ∀ k, k < 8 → (u.sealMeta ((p.pa + k) / 4096)).kid = 0 ∨ (u.sealMeta ((p.pa + k) / 4096)).status ≠ 0) :
    w = BitVec.ofNat 64 (natOf ((List.range 8).map (fun k => u.ms.byte (p.pa + k)))) := by
  have hbytes : (List.range 8).map (fun k => readThrough u f.ctx p.pte (p.pa + k)) = (List.range 8).map (fun k => u.ms.byte (p.pa + k)) :=
    List.map_congr_left fun k hk => readThrough_plain he (hm k (List.mem_range.1 hk))
  rw [fetchWord_uncached hp hr hibuf hicache, hbytes] at hw
  exact (Except.ok.inj hw).symm

/-! ## What O5 says of a sealed block -/

/-- A machine whose floe issues from block 0, sealed under key 1 with every byte zero, through an unsealed page. -/
def sealedCode : State :=
  let s := State.reset.placeWord 0
  { s with ms := { s.ms with sealTab := [(0, ⟨0, 1, 0⟩)] } }

/-- The same machine in its slice's turn. -/
def sealedTurn : State := { sealedCode with turns := [], gt := sealedCode.gt + 0 }

/-- Its one floe. -/
def sealedFloe : Floe := (sealedTurn.floe? 0).getD Floe.formed

/-- The leaf entry of its page, which maps addresses to themselves. -/
def plainPte : Pte := 0x1007

/-- Byte `i` of what that machine fetches: the ciphertext of the zeros. -/
def zeroCipher (i : Nat) : Byte := Config.sealCipher 1 0 0 ((List.range 4096).map (fun j => (j, 0))) i

theorem plainPte_sealed : plainPte.sealed = false := by decide +kernel
theorem plainPte_remote : plainPte.remote = false := by decide +kernel

theorem readThrough_sealedTurn {a : Nat} (ha : a < 4096) (ctx : Nat) : readThrough sealedTurn ctx plainPte a = zeroCipher a := by
  have hmem : sealedTurn.ms.mem = [] := by decide +kernel
  have hbyte : ∀ j, sealedTurn.ms.byte j = 0 := fun j => by rw [Ms.byte, hmem]; rfl
  have hmeta : sealedTurn.sealMeta 0 = ⟨0, 1, 0⟩ := rfl
  simp [readThrough, plainPte_sealed, Nat.div_eq_of_lt ha, Nat.mod_eq_of_lt ha, hmeta, hbyte, zeroCipher]

/-- A word of that machine's code is its ciphertext. -/
theorem fetchWord_sealedTurn {a : Nat} (ha : a + 8 ≤ 4096)
    (hp : translateCore sealedTurn sealedFloe.core sealedFloe.ctx .fetch (BitVec.ofNat 64 a) = .ok ⟨a, plainPte⟩) :
    fetchWord sealedTurn sealedFloe (BitVec.ofNat 64 a) = .ok (BitVec.ofNat 64 (natOf ((List.range 8).map (fun k => zeroCipher (a + k))))) := by
  have hbytes : (List.range 8).map (fun k => readThrough sealedTurn sealedFloe.ctx plainPte (a + k))
      = (List.range 8).map (fun k => zeroCipher (a + k)) :=
    List.map_congr_left fun k hk => readThrough_sealedTurn (by have := List.mem_range.1 hk; omega) _
  rw [fetchWord_uncached hp plainPte_remote rfl rfl, hbytes]

/-- O5 as stated fixes a value of the cipher, which is opaque (log 15): its last clause has no premise that the block is not sealed, and so says that
the ciphertext of zeros is zero. No proof can decide that, and so neither O5 nor its negation is proved here. -/
theorem zeroCipher_of_stepRunsDecodedWord (h : Obligations.StepRunsDecodedWord) :
    BitVec.ofNat 64 (natOf ((List.range 8).map (fun k => zeroCipher (0x100 + k)))) = 0 := by
  have hp : translateCore sealedTurn sealedFloe.core sealedFloe.ctx .fetch 0x100 = .ok ⟨0x100, plainPte⟩ := by decide +kernel
  have hp' : translateCore sealedTurn sealedFloe.core sealedFloe.ctx .fetch 0x108 = .ok ⟨0x108, plainPte⟩ := by decide +kernel
  have hw := fetchWord_sealedTurn (a := 0x100) (by decide) hp
  have hw' := fetchWord_sealedTurn (a := 0x108) (by decide) hp'
  generalize hword : BitVec.ofNat 64 (natOf ((List.range 8).map (fun k => zeroCipher (0x100 + k)))) = word at hw
  have hi : ∃ i, wordBytes word = 8 ∧ decode word 0 = i
      ∨ ∃ x, wordBytes word = 16 ∧ fetchWord sealedTurn sealedFloe (0x100 + 8) = .ok x ∧ decode word x = i := by
    by_cases hx : wordBytes word = 16
    · exact ⟨_, .inr ⟨_, hx, hw', rfl⟩⟩
    · refine ⟨_, .inl ⟨?_, rfl⟩⟩
      unfold wordBytes at hx ⊢
      split at hx
      · exact absurd rfl hx
      · exact if_neg ‹_›
  obtain ⟨i, hi⟩ := hi
  obtain ⟨-, hmem⟩ := h sealedCode 0 0 0 [] [] 0 false sealedFloe ⟨0x100, 0xFFFFFFFF, none, none⟩ i word rfl rfl (by decide +kernel)
    (by decide +kernel) (by decide +kernel) (by decide +kernel) hw hi
  rw [hmem ⟨0x100, plainPte⟩ hp plainPte_remote plainPte_sealed rfl rfl]
  decide +kernel

end Sys2Proof.Machine
end

section
/-! Floating-point instructions and conversions: the results and flags they write, and the trap of an enabled condition (R102, R114, R120-R125). -/

namespace Sys2Proof.Machine

/-! ## The end of a lane-wise instruction (R102, R114) -/

/-- With no enabled condition the flags are set and D is written. -/
theorem finishLanes_writes {w : FWord} {regs : List Reg} {e : Env} {half : Bool} {rs : LaneResults} {s : State}
    (ht : fpTrap e.f.fpflags (allFx rs) = none) :
    finishLanes w regs e half rs s = .done (putLanes e.f regs (laneWords regs.length rs) (s.orFlags e.h (allFx rs))) := by
  simp only [finishLanes, ht, writeLanes_laneWords]

/-- With one the flags are set and D is not written. -/
theorem finishLanes_traps {w : FWord} {regs : List Reg} {e : Env} {half : Bool} {rs : LaneResults} {s : State} {c : Cause}
    (ht : fpTrap e.f.fpflags (allFx rs) = some c) :
    finishLanes w regs e half rs s
      = .trap { cause := c, half := half, lanes := trapLanes e.f.fpflags w e.exec rs } (s.orFlags e.h (allFx rs)) := by
  simp only [finishLanes, ht]

section
variable {i : Instr} {w : FWord} {sh : Shape} {e : Env} {s : State} {body : FWord → Shape → Env → State → Res} {g : Nat → Option (Nat × Fx)}

/-- An instruction whose body ends with the results `g` of its lanes writes them. -/
theorem exec_finishLanes_effect (h : Issues i w sh e s) (hi : exec i s = issueF i body s)
    (hbody : body w sh e s = finishLanes w sh.d.writes e false ((computeLanes w e).map (fun l => (l, g l))) s)
    (ht : fpTrap e.f.fpflags (allFx ((computeLanes w e).map (fun l => (l, g l)))) = none) :
    ∃ t, exec i s = .next t ∧ LaneEffect w sh e (allFx ((computeLanes w e).map (fun l => (l, g l))))
      (laneWords sh.d.writes.length ((computeLanes w e).map (fun l => (l, g l)))) s t := by
  rw [hi, h.issueF, hbody, finishLanes_writes ht]
  exact ⟨_, rfl, laneEffect_of h _ _ (h.laneWords g)⟩

/-- One whose results `rs` raise an enabled condition takes its trap. -/
theorem exec_finishLanes_trapEffect {rs : LaneResults} {c : Cause} {x : Ctx} (h : Issues i w sh e s) (hi : exec i s = issueF i body s)
    (hbody : body w sh e s = finishLanes w sh.d.writes e false rs s) (ht : fpTrap e.f.fpflags (allFx rs) = some c)
    (hx : s.ctx? e.f.ctx = some x) (hl : e.f.levelHandler = false) (hb : x.trapBase ≠ 0) :
    ∃ t, exec i s = .next t ∧ TrapEffect e x.trapBase c false (trapLanes e.f.fpflags w e.exec rs) 0 e.sl.pc (allFx rs) s t :=
  exec_trap_taken_flags (t := { cause := c, lanes := trapLanes e.f.fpflags w e.exec rs })
    (by rw [hi, h.issueF, hbody, finishLanes_traps ht]) h.env hx hl hb (fpTrap_ne_pageNotPresent ht)

end

/-! ## The floating-point family (R120, R123-R125) -/

/-- Every instruction of the family runs its own result function in the frame of R114. -/
theorem exec_fpInstrs {p : (FWord → Instr) × (FWord → Nat → Nat → Nat → Nat × Fx)} (hp : p ∈ fpInstrs) (w : FWord) (s : State) :
    exec (p.1 w) s = issueF (p.1 w) (fpBody p.2) s := by
  unfold fpInstrs at hp
  fin_cases hp <;> rfl

/-- Its lanes compute that function on their sources. -/
theorem fpBody_eq (op : FWord → Nat → Nat → Nat → Nat × Fx) (w : FWord) (sh : Shape) (e : Env) (s : State) :
    fpBody op w sh e s = finishLanes w sh.d.writes e false (laneResults s w sh e (immFp w sh.b.wide) (op w)) s := rfl

/-- Settles O13: what every lane-wise instruction without an enabled condition does, at the family's result functions. -/
theorem floatInstructionsWriteResults : Obligations.FloatInstructionsWriteResults := by
  unfold Obligations.FloatInstructionsWriteResults
  intro p hp w sh e s h ht
  exact exec_finishLanes_effect h (exec_fpInstrs hp w s) (fpBody_eq p.2 w sh e s) ht

/-- Settles O14: the trap of every lane-wise instruction with an enabled condition, at the family's result functions. -/
theorem enabledConditionTraps : Obligations.EnabledConditionTraps := by
  unfold Obligations.EnabledConditionTraps
  intro p hp w sh e s c x h hx hl hb ht
  exact exec_finishLanes_trapEffect h (exec_fpInstrs hp w s) (fpBody_eq p.2 w sh e s) ht hx hl hb

end Sys2Proof.Machine
end

section
/-! NaN operands: every operation but FMIN and FMAX gives a NaN, and a NaN is written as the canonical one (R84, R86, R121). -/

namespace Sys2Proof.Machine

/-! ## Exact operations on a NaN (R84) -/

@[simp] theorem FVal.neg_nan : FVal.neg .nan = .nan := rfl
@[simp] theorem FVal.abs_nan : FVal.abs .nan = .nan := rfl

@[simp] theorem numAdd_nan_left (mode : Rnd) (y : FVal) : numAdd mode .nan y = (.nan, Fx.none) := rfl
@[simp] theorem numAdd_nan_right (mode : Rnd) (x : FVal) : numAdd mode x .nan = (.nan, Fx.none) := by cases x <;> rfl
@[simp] theorem numMul_nan_left (y : FVal) : numMul .nan y = (.nan, Fx.none) := rfl
@[simp] theorem numMul_nan_right (x : FVal) : numMul x .nan = (.nan, Fx.none) := by cases x <;> rfl

/-- A product that is a NaN makes the sum one, whatever is added. -/
theorem numFma_nan_of_mul {mode : Rnd} {x y : FVal} (h : (numMul x y).1 = .nan) (z : FVal) : (numFma mode x y z).1 = .nan := by
  cases z <;> simp [numFma, h]

@[simp] theorem numCmp_nan_left (y : FVal) : numCmp .nan y = none := rfl
@[simp] theorem numCmp_nan_right (x : FVal) : numCmp x .nan = none := by cases x <;> rfl

@[simp] theorem numMin_nan_left (y : FVal) : numMin .nan y = y := by simp [numMin]

/-- The other source, which is the NaN itself when both are. -/
@[simp] theorem numMax_nan_right (x : FVal) : numMax x .nan = x := by
  cases x <;> simp [numMax]

/-! ## From the source's bits to the result's (R85, R86) -/

/-- .ftz leaves a NaN source a NaN. -/
theorem fpSrc_nan {f : Fmt} {a : Nat} (h : f.decode a = .nan) (ftz : Bool) : fpSrc f ftz a = .nan := by
  cases ftz <;> simp [fpSrc, h, ftzIn]

/-- Rounding and .ftz leave a NaN result a NaN. -/
theorem fpRound_nan {x : FVal × Fx} (h : x.1 = .nan) (f : Fmt) (ftz : Bool) (mode : Rnd) :
    (fpRound f ftz mode x).1 = f.encode .nan := by
  cases ftz <;> simp [fpRound, roundTo, ftzOut, h]

theorem fpDone_nan (f : Fmt) (ftz : Bool) (x : Fx) : (fpDone f ftz (.nan, x)).1 = f.encode .nan := by
  cases ftz <;> rfl

/-! ## A NaN among the operands (R84, R121) -/

section
variable {f : Fmt} {ftz : Bool} {mode : Rnd} {a b c : Nat}

theorem fpAddR_nan (h : f.decode a = .nan ∨ f.decode b = .nan) : (fpAddR f ftz mode a b).1 = f.encode .nan := by
  rcases h with h | h <;> exact fpRound_nan (by simp [fpSrc_nan h]) ..

theorem fpSubR_nan (h : f.decode a = .nan ∨ f.decode b = .nan) : (fpSubR f ftz mode a b).1 = f.encode .nan := by
  rcases h with h | h <;> exact fpRound_nan (by simp [fpSrc_nan h]) ..

theorem fpMulR_nan (h : f.decode a = .nan ∨ f.decode b = .nan) : (fpMulR f ftz mode a b).1 = f.encode .nan := by
  rcases h with h | h <;> exact fpRound_nan (by simp [fpSrc_nan h]) ..

theorem fpFmaR_nan (h : f.decode a = .nan ∨ f.decode b = .nan ∨ f.decode c = .nan) : (fpFmaR f ftz mode a b c).1 = f.encode .nan := by
  apply fpRound_nan
  rcases h with h | h | h
  · exact numFma_nan_of_mul (by simp [fpSrc_nan h]) _
  · exact numFma_nan_of_mul (by simp [fpSrc_nan h]) _
  · simp [fpSrc_nan h, numFma]

/-- Sign changes leave a NaN alone. -/
theorem fpMovR_nan (h : f.decode a = .nan) (neg abs : Bool) : (fpMovR f ftz neg abs a).1 = f.encode .nan := by
  cases neg <;> cases abs <;> simp [fpMovR, fpSrc_nan h]

theorem fpRecip_nan (h : f.decode a = .nan) : (fpDone f ftz (fpRecip f mode (fpSrc f ftz a))).1 = f.encode .nan := by
  rw [fpSrc_nan h]
  exact fpDone_nan ..

theorem fpSqrt_nan (h : f.decode a = .nan) : (fpDone f ftz (fpSqrt f mode (fpSrc f ftz a))).1 = f.encode .nan := by
  rw [fpSrc_nan h]
  exact fpDone_nan ..

theorem fpMinR_nan_left (h : f.decode a = .nan) : (fpMinR f ftz a b).1 = f.encode (fpSrc f ftz b) := by simp [fpMinR, fpSrc_nan h]
theorem fpMaxR_nan_right (h : f.decode b = .nan) : (fpMaxR f ftz a b).1 = f.encode (fpSrc f ftz a) := by simp [fpMaxR, fpSrc_nan h]

end

/-- Settles O21: each operation gives a NaN, and the NaN of FP32 is written as 0x7FC00000; FMIN and FMAX give the other operand, and so the canonical
NaN when that is one too. -/
theorem nanOperandsGiveCanonicalNan : Obligations.NanOperandsGiveCanonicalNan := by
  unfold Obligations.NanOperandsGiveCanonicalNan
  intro w a b c h
  refine ⟨fpAddR_nan (.inl h), fpAddR_nan (.inr h), fpSubR_nan (.inl h), fpSubR_nan (.inr h), fpMulR_nan (.inl h), fpMulR_nan (.inr h),
    fpFmaR_nan (.inl h), fpFmaR_nan (.inr (.inl h)), fpFmaR_nan (.inr (.inr h)), fpMovR_nan h _ _, fpRecip_nan h, fpSqrt_nan h,
    fpMinR_nan_left h, fpMaxR_nan_right h, fun hb => ⟨?_, ?_⟩⟩
  · exact (fpMinR_nan_left h).trans (congrArg Fmt.fp32.encode (fpSrc_nan hb _))
  · exact (fpMaxR_nan_right hb).trans (congrArg Fmt.fp32.encode (fpSrc_nan h _))

end Sys2Proof.Machine
end

section
/-! Integer instructions: the results they write, and that no condition they raise can be enabled as a trap (R102, R114, R117-R119). -/

namespace Sys2Proof.Machine

/-! ## Conditions that no enable of %fpflags makes a trap (R101, R102) -/

/-- None of the three conditions that can trap is raised. -/
def Fx.Quiet (x : Fx) : Prop := x.nv = false ∧ x.ofInf = false ∧ x.dz = false

theorem Fx.quiet_none : Fx.none.Quiet := ⟨rfl, rfl, rfl⟩

theorem Fx.Quiet.or {x y : Fx} (hx : x.Quiet) (hy : y.Quiet) : (x.or y).Quiet := by
  obtain ⟨hnv, hof, hdz⟩ := hx
  obtain ⟨hnv', hof', hdz'⟩ := hy
  simp [Fx.Quiet, Fx.or, hnv, hof, hdz, hnv', hof', hdz']

theorem fpTrap_of_quiet {x : Fx} (h : x.Quiet) (flags : Word) : fpTrap flags x = none := by
  obtain ⟨hnv, hof, hdz⟩ := h
  simp [fpTrap, hnv, hof, hdz]

/-- Lanes that raise none of them raise none together. -/
theorem allFx_quiet {rs : LaneResults} (h : ∀ r ∈ rs, ∀ v, r.2 = some v → v.2.Quiet) : (allFx rs).Quiet := by
  refine List.foldlRecOn rs _ (motive := Fx.Quiet) Fx.quiet_none fun x hx r hr => ?_
  split
  · exact hx.or (h r hr _ ‹_›)
  · exact hx

/-! ## The integer family (R117-R119) -/

/-- Saturation raises SAT alone (R103). -/
theorem fit_quiet (n : Nat) (sg sat : Bool) (x : Int) : (fit n sg sat x).2.Quiet := by
  cases sat <;> exact ⟨rfl, rfl, rfl⟩

theorem fitW_quiet (w : FWord) (x : Int) : (fitW w x).2.Quiet := fit_quiet ..

theorem plain_quiet (x : Nat) : (plain x).2.Quiet := Fx.quiet_none

/-- An integer result is fitted, with SAT where it is clamped, or plain. -/
theorem intInstrs_quiet {p : (FWord → Instr) × (FWord → Nat → Nat → Nat → Nat × Fx)} (hp : p ∈ intInstrs) (w : FWord) (a b c : Nat) :
    (p.2 w a b c).2.Quiet := by
  unfold intInstrs at hp
  fin_cases hp <;>
    simp [opMov, opMovi, opIadd, opIsub, opImul, opImulh, opImad, opImadw, opImin, opImax, opIabs, opLtab, opAnd, opOr, opXor, opShl, opShr, opSar,
      opShf, opBfe, opBfi, opPopc, opClz, opBrev, opLea, fit_quiet, fitW_quiet, plain_quiet, apply_ite Prod.snd, apply_ite Fx.Quiet]

/-- Every instruction of the family runs its own result function in the frame of R114. -/
theorem exec_intInstrs {p : (FWord → Instr) × (FWord → Nat → Nat → Nat → Nat × Fx)} (hp : p ∈ intInstrs) (w : FWord) (s : State) :
    exec (p.1 w) s = issueF (p.1 w) (intBody p.2) s := by
  unfold intInstrs at hp
  fin_cases hp <;> rfl

/-- Its lanes compute that function on their sources. -/
theorem intBody_eq (op : FWord → Nat → Nat → Nat → Nat × Fx) (w : FWord) (sh : Shape) (e : Env) (s : State) :
    intBody op w sh e s = finishLanes w sh.d.writes e false (laneResults s w sh e (immInt w sh.b.wide) (op w)) s := rfl

theorem laneResults_quiet {s : State} {w : FWord} {sh : Shape} {e : Env} {imm : Nat} {op : Nat → Nat → Nat → Nat × Fx}
    (h : ∀ a b c, (op a b c).2.Quiet) : (allFx (laneResults s w sh e imm op)).Quiet := by
  refine allFx_quiet fun r hr v hv => ?_
  obtain ⟨l, -, rfl⟩ := List.mem_map.1 hr
  obtain ⟨x, -, rfl⟩ := Option.map_eq_some_iff.1 hv
  exact h _ _ _

/-- Settles O12: an integer instruction never traps at its end, and so writes the results of its family's function. -/
theorem integerInstructionsWriteResults : Obligations.IntegerInstructionsWriteResults := by
  unfold Obligations.IntegerInstructionsWriteResults
  intro p hp w sh e s h
  exact exec_finishLanes_effect h (exec_intInstrs hp w s) (intBody_eq p.2 w sh e s) (fpTrap_of_quiet (laneResults_quiet (intInstrs_quiet hp w)) _)

end Sys2Proof.Machine
end

section
/-! Compares, validity as data, SEL, VOTE and SHFL: D written lane by lane, and no flag (R130-R132, R134, R135). -/

namespace Sys2Proof.Machine

/-! ## Bodies that write D in a list of lanes -/

section
variable {i : Instr} {w : FWord} {sh : Shape} {e : Env} {s : State} {body : FWord → Shape → Env → State → Res}

/-- Ascending lanes, one at most where D is uniform, with words for each register of D. -/
theorem Issues.laneList_map (h : Issues i w sh e s) {ls : List Nat} (hs : ls.Pairwise (· < ·)) (hlt : ∀ l ∈ ls, l < 32)
    (hu : Code.isUni w.d = true → ls.length ≤ 1) {g : Nat → Option (List FirnWord)} (hlen : ∀ l ws, g l = some ws → ws.length = sh.d.writes.length) :
    LaneList e.f sh.d.writes (ls.map (fun l => (l, g l))) := by
  apply h.laneList
  · exact List.pairwise_map.2 hs
  · intro p hp
    obtain ⟨l, hl, rfl⟩ := List.mem_map.1 hp
    exact hlt l hl
  · intro l ws hw
    obtain ⟨k, -, hk⟩ := List.mem_map.1 hw
    exact hlen k ws (Prod.mk.inj hk).2
  · intro hd
    simpa using hu hd

/-- The same for the lanes that compute under a mask, exec or another. -/
theorem Issues.laneList_compute (h : Issues i w sh e s) (m : Mask) {g : Nat → Option (List FirnWord)}
    (hlen : ∀ l ws, g l = some ws → ws.length = sh.d.writes.length) :
    LaneList e.f sh.d.writes ((computeLanes w { e with exec := m }).map (fun l => (l, g l))) :=
  h.laneList_map (computeLanes_sorted ..) (fun _ => computeLanes_lt) computeLanes_uni hlen

/-- A body that writes D lane by lane has that effect. -/
theorem exec_putLanes_effect (h : Issues i w sh e s) (hi : exec i s = issueF i body s) {rs : List (Nat × Option (List FirnWord))}
    (hl : LaneList e.f sh.d.writes rs) (hbody : body w sh e s = .done (putLanes e.f sh.d.writes rs s)) :
    ∃ t, exec i s = .next t ∧ LaneEffect w sh e Fx.none rs s t := by
  rw [hi, h.issueF, hbody]
  exact ⟨_, rfl, laneEffect_putLanes h hl⟩

/-- A body that writes values in the lanes of a mask has that effect. -/
theorem exec_writeLanes_effect (h : Issues i w sh e s) (hi : exec i s = issueF i body s) (m : Mask) {g : Nat → Option Nat}
    (hbody : body w sh e s = .done (writeLanes e.f sh.d.writes ((computeLanes w { e with exec := m }).map (fun l => (l, g l))) s)) :
    ∃ t, exec i s = .next t ∧ LaneEffect w sh e Fx.none
      ((computeLanes w { e with exec := m }).map (fun l => (l, (g l).map (wordsOf sh.d.writes.length)))) s t := by
  refine exec_putLanes_effect h hi (h.laneList_compute m fun l ws hw => ?_) ?_
  · obtain ⟨v, -, rfl⟩ := Option.map_eq_some_iff.1 hw
    simp [wordsOf]
  · rw [hbody, writeLanes_putLanes, List.map_map]
    rfl

end

/-! ## Destinations (R34, R36) -/

theorem codeRegs_length_le (c : Code) (k : Nat) : (codeRegs c k).length ≤ k := by
  unfold codeRegs
  (repeat' split) <;> simp

theorem fieldDst_one_length_le (a : Allow) (c : Code) : (fieldDst a false c).writes.length ≤ 1 := codeRegs_length_le c 1

/-- A compare writes one condition word, or two under .p (R130). -/
theorem shapeCmp_length_le (w : FWord) (ok wide : Bool) : (shapeCmp w ok wide).d.writes.length ≤ 2 := by
  simp only [shapeCmp]
  split
  · exact codeRegs_length_le w.d 2
  · exact (fieldDst_one_length_le ..).trans (by decide)

/-! ## Compares (R130) -/

/-- The condition word of a compare and its complement. -/
def condWords (r : Bool) : List FirnWord := [⟨if r then 1 else 0, r⟩, ⟨if r then 0 else 1, !r⟩]

/-- A lane's condition words go to as many registers as D has. -/
theorem writeRaw_condWrites (f : Floe) (regs : List Reg) (l : Nat) (r : Bool) (s : State) :
    writeRaw f (condWrites regs l r) s = putLane f regs (l, some ((condWords r).take regs.length)) s := by
  match regs with
  | [] => rfl
  | [_] => rfl
  | _ :: _ :: rest => cases rest <;> rfl

theorem cmpBody_eq (imm : Nat) (ord : Nat → Nat → Option Ordering) (w : FWord) (sh : Shape) (e : Env) (s : State) :
    cmpBody imm ord w sh e s = .done (putLanes e.f sh.d.writes ((computeLanes w e).map (fun l => (l, (laneSrcs s w sh e imm l).map (fun v =>
      (condWords (condHolds (w.m.toNat % 8) (ord v.1 v.2.1))).take sh.d.writes.length)))) s) := by
  simp only [cmpBody, putLanes, List.foldl_map]
  congr 2
  funext t l
  cases laneSrcs s w sh e imm l with
  | none => rfl
  | some v => exact writeRaw_condWrites ..

/-- The first part of O18: a compare writes its condition, or clears V. -/
theorem exec_compare_effect {i : Instr} {w : FWord} {sh : Shape} {e : Env} {s : State} {body : FWord → Shape → Env → State → Res} {imm : Nat}
    {ord : Nat → Nat → Option Ordering} (h : Issues i w sh e s) (hi : exec i s = issueF i body s) (hbody : body w sh e s = cmpBody imm ord w sh e s)
    (hd : sh.d.writes.length ≤ 2) :
    ∃ t, exec i s = .next t ∧ LaneEffect w sh e Fx.none ((computeLanes w e).map (fun l => (l, (laneSrcs s w sh e imm l).map (fun v =>
      (condWords (condHolds (w.m.toNat % 8) (ord v.1 v.2.1))).take sh.d.writes.length)))) s t := by
  refine exec_putLanes_effect h hi (h.laneList_compute e.exec fun l ws hw => ?_) (hbody.trans (cmpBody_eq ..))
  obtain ⟨v, -, rfl⟩ := Option.map_eq_some_iff.1 hw
  simp [condWords, hd]

/-! ## SEL (R132) -/

theorem or_bit_getLsbD (m : Mask) (i k : Nat) : (m ||| (1#32 <<< i)).getLsbD k = (m.getLsbD k || (decide (k < 32) && decide (k = i))) := by
  have hbit : (1#32 <<< i).getLsbD k = (decide (k < 32) && decide (k = i)) := by
    rw [BitVec.getLsbD_shiftLeft, BitVec.getLsbD_one, Bool.eq_iff_iff]
    simp
    omega
  rw [BitVec.getLsbD_or, hbit]

/-- The bits of a mask of lanes are its lanes. -/
theorem lanesMask_getLsbD (l : List Nat) (k : Nat) : (lanesMask l).getLsbD k = (decide (k < 32) && decide (k ∈ l)) := by
  have fold (m : Mask) : (l.foldl (fun m i => m ||| (1#32 <<< i)) m).getLsbD k = (m.getLsbD k || (decide (k < 32) && decide (k ∈ l))) := by
    induction l generalizing m with
    | nil => simp
    | cons i t ih =>
      rw [List.foldl_cons, ih, or_bit_getLsbD, Bool.or_assoc, ← Bool.and_or_distrib_left]
      simp
  exact (fold 0).trans (by simp)

theorem guardMask_cons {g : Code} {r : Reg} {t : List Reg} (hg : codeRegs g 1 = r :: t) (s : State) (f : Floe) {l : Nat} (hl : l < 32) :
    (guardMask s f g).getLsbD l = (s.rdReg f r l).v := by
  simp only [guardMask, hg]
  rw [lanesMask_getLsbD]
  simp [hl]

theorem guardMask_nil {g : Code} (hg : codeRegs g 1 = []) (s : State) (f : Floe) {l : Nat} (hl : l < 32) :
    (guardMask s f g).getLsbD l = true := by
  simp only [guardMask, hg]
  exact (BitVec.getLsbD_allOnes (v := 32)).trans (decide_eq_true hl)

/-- B of SEL is a source where no X word replaces it (R39). -/
theorem fieldB_src (w : FWord) (wide : Bool) : (fieldB w wide).src = !w.x.isSome := by
  cases hx : w.x <;> cases wide <;> simp [fieldB, hx, fieldFF, fieldIs, fieldSrc, fieldSrcG]

/-- What lane `l` of SEL takes: A where its guard is valid, else B (R132). -/
def selPick (s : State) (w : FWord) (sh : Shape) (e : Env) (l : Nat) : Nat × Bool :=
  if (guardMask s e.f w.g).getLsbD l then rdOp s e.f l w.a sh.a.words
  else if w.x.isSome then (immInt w sh.b.wide, true) else rdOp s e.f l w.b sh.b.words

theorem selBody_eq {w : FWord} {sh : Shape} (hb : sh.b.src = !w.x.isSome) (e : Env) (s : State) :
    selBody w sh e s = .done (writeLanes e.f sh.d.writes ((computeLanes w { e with exec := e.sl.mask }).map (fun l =>
      (l, if (selPick s w sh e l).2 then some (selPick s w sh e l).1 else none))) s) := by
  unfold selBody
  refine congrArg (fun rs => Res.done (writeLanes e.f sh.d.writes rs s)) (List.map_congr_left fun l hl => ?_)
  have hl32 : l < 32 := computeLanes_lt (e := { e with exec := e.sl.mask }) hl
  cases hg : codeRegs w.g 1 with
  | nil => simp [selPick, guardMask_nil hg s e.f hl32]
  | cons r t => cases hx : w.x.isSome <;> simp [selPick, guardMask_cons hg s e.f hl32, hb, hx]

/-- The second part of O18. -/
theorem exec_sel_effect {w : FWord} {sh : Shape} {e : Env} {s : State} (h : Issues (.sel w) w sh e s) :
    ∃ t, exec (.sel w) s = .next t ∧ LaneEffect w sh e Fx.none ((computeLanes w { e with exec := e.sl.mask }).map (fun l =>
      (l, if (selPick s w sh e l).2 then some (wordsOf sh.d.writes.length (selPick s w sh e l).1) else none))) s t := by
  have hb : sh.b.src = !w.x.isSome := by
    obtain rfl := (Prod.mk.inj (Option.some.inj h.shape)).2
    exact fieldB_src w (isW w)
  simpa only [Option.map_if] using exec_writeLanes_effect h (body := selBody) rfl e.sl.mask (selBody_eq hb e s)

/-! ## SHFL (R135) -/

/-- What lane `l` of SHFL takes: A of the lane its mode names, where both that and the amount are valid. -/
def shflPick (s : State) (w : FWord) (sh : Shape) (e : Env) (l : Nat) : Option Nat :=
  let n := srcB w s e l
  let a := rdOp s e.f (shflSrc (w.m.toNat % 4) l n.1) w.a sh.a.words
  if n.2 && a.2 then some a.1 else none

theorem shflBody_eq (w : FWord) (sh : Shape) (e : Env) (s : State) :
    shflBody w sh e s = .done (writeLanes e.f sh.d.writes ((computeLanes w e).map (fun l => (l, shflPick s w sh e l))) s) := by
  refine congrArg (fun rs => Res.done (writeLanes e.f sh.d.writes rs s)) (List.map_congr_left fun l _ => ?_)
  cases hb : (srcB w s e l).2 <;> simp [shflPick, hb]

/-- The third part of O18. -/
theorem exec_shfl_effect {w : FWord} {sh : Shape} {e : Env} {s : State} (h : Issues (.shfl w) w sh e s) :
    ∃ t, exec (.shfl w) s = .next t ∧ LaneEffect w sh e Fx.none ((computeLanes w e).map (fun l =>
      (l, (shflPick s w sh e l).map (wordsOf sh.d.writes.length)))) s t :=
  exec_writeLanes_effect h (body := shflBody) rfl e.exec (shflBody_eq w sh e s)

/-- Settles O18: each instruction by the words its lanes write. -/
theorem comparesSelectAndShuffle : Obligations.ComparesSelectAndShuffle := by
  unfold Obligations.ComparesSelectAndShuffle
  refine ⟨?_, ?_, ?_⟩
  · rintro i w sh e s imm ord h (⟨rfl, rfl, rfl⟩ | ⟨rfl, rfl, rfl⟩ | ⟨rfl, rfl, rfl⟩)
    · obtain rfl := (Prod.mk.inj (Option.some.inj h.shape)).2
      exact exec_compare_effect h (body := icmpBody) rfl rfl (shapeCmp_length_le ..)
    · obtain rfl := (Prod.mk.inj (Option.some.inj h.shape)).2
      exact exec_compare_effect h (body := fcmpBody) rfl rfl (shapeCmp_length_le ..)
    · obtain rfl := (Prod.mk.inj (Option.some.inj h.shape)).2
      exact exec_compare_effect h (body := dcmpBody) rfl rfl (shapeCmp_length_le ..)
  · rintro w sh e s pick h rfl
    exact exec_sel_effect h
  · intro w sh e s n h hn
    obtain rfl : n = srcB w s e := hn
    simpa only [shflPick, Option.map_if] using exec_shfl_effect h

/-! ## Validity as data, and VOTE (R131, R134) -/

/-- A word goes to D where it has a register. -/
theorem putLane_head (f : Floe) (regs : List Reg) (l : Nat) (v : FirnWord) (s : State) :
    putLane f regs (l, some ([v].take regs.length)) s = writeRaw f ((regs.take 1).map (fun r => (l, r, v))) s := by
  cases regs <;> simp [putLane, writeRaw]

theorem writeRaw_append (f : Floe) (rs qs : List (Nat × Reg × FirnWord)) (s : State) :
    writeRaw f (rs ++ qs) s = writeRaw f qs (writeRaw f rs s) := by
  induction rs generalizing s with
  | nil => rfl
  | cons p t ih => exact ih _

theorem writeRaw_rawLanes (f : Floe) (regs : List Reg) (val : Nat → FirnWord) (ls : List Nat) (s : State) :
    writeRaw f (rawLanes regs (ls.map (fun l => (l, val l)))) s = putLanes f regs (ls.map (fun l => (l, some ([val l].take regs.length)))) s := by
  induction ls generalizing s with
  | nil => rfl
  | cons l t ih => rw [List.map_cons, List.map_cons, putLanes_cons, putLane_head, ← ih, ← writeRaw_append]; rfl

/-- A body that writes a word in every computing lane, where D is one register at most. -/
theorem exec_rawBody_effect {i : Instr} {w : FWord} {sh : Shape} {e : Env} {s : State} {body : FWord → Shape → Env → State → Res}
    {val : State → Env → Nat → FirnWord} {v : Nat → FirnWord} (h : Issues i w sh e s) (hi : exec i s = issueF i body s)
    (hbody : body w sh e s = rawBody val w sh e s) (hd : sh.d.writes.length ≤ 1) (hv : ∀ l, val s e l = v l) :
    ∃ t, exec i s = .next t
      ∧ LaneEffect w sh e Fx.none ((computeLanes w e).map (fun l => (l, some ([v l].take sh.d.writes.length)))) s t := by
  refine exec_putLanes_effect h hi (h.laneList_compute e.exec fun l ws hw => ?_) ?_
  · obtain rfl := Option.some.inj hw
    simpa using hd
  · rw [hbody, rawBody, writeRaw_rawLanes]
    simp only [hv]

/-- B of VAND is valid where an X word gives it. -/
theorem srcB_valid (w : FWord) (s : State) (e : Env) (l : Nat) : (srcB w s e l).2 = (w.x.isSome || (rdOp s e.f l w.b 1).2) := by
  unfold srcB
  cases w.x <;> simp

theorem vandVal_eq (w : FWord) (s : State) (e : Env) (l : Nat) :
    vandVal w s e l =
      let va := (rdOp s e.f l w.a 1).2
      let vb := w.x.isSome || (rdOp s e.f l w.b 1).2
      let v := if w.m = 0 then va && vb else if w.m = 1 then va && !vb else va || vb
      ⟨if v then 1 else 0, v⟩ := by
  have h0 : w.m = 0 ↔ w.m.toNat = 0 := BitVec.toNat_inj.symm
  have h1 : w.m = 1 ↔ w.m.toNat = 1 := BitVec.toNat_inj.symm
  simp only [vandVal, srcB_valid, h0, h1]
  split
  · simp [*, srcA]
  · simp [*, srcA]
  · rename_i hm0 hm1
    rw [if_neg hm0, if_neg hm1]
    rfl

/-- Settles O19: each instruction writes its own word in every computing lane. -/
theorem validityInstructions : Obligations.ValidityInstructions := by
  unfold Obligations.ValidityInstructions
  rintro i w sh e s val h (⟨rfl, rfl⟩ | ⟨rfl, rfl⟩ | ⟨rfl, rfl⟩ | ⟨rfl, rfl⟩ | ⟨rfl, rfl⟩)
  all_goals obtain rfl := (Prod.mk.inj (Option.some.inj h.shape)).2
  · exact exec_rawBody_effect h rfl (val := vsetVal w) rfl (fieldDst_one_length_le ..) fun _ => rfl
  · exact exec_rawBody_effect h rfl (val := vclrVal w) rfl (fieldDst_one_length_le ..) fun _ => rfl
  · exact exec_rawBody_effect h rfl (val := vtestVal w) rfl (fieldDst_one_length_le ..) fun _ => rfl
  · exact exec_rawBody_effect h rfl (val := vandVal w) rfl (fieldDst_one_length_le ..) (vandVal_eq w s e)
  · exact exec_rawBody_effect h rfl rfl (fieldDst_one_length_le ..) fun _ => rfl

end Sys2Proof.Machine
end

section
/-! PACK and UNPK: the per-lane forms, and the block forms under one scale for the floe (R127, R128). -/

namespace Sys2Proof.Machine

/-- The operand rules hold of a word that issues (R56). -/
theorem Issues.fieldsOk {i : Instr} {w : FWord} {sh : Shape} {e : Env} {s : State} (h : Issues i w sh e s) : fieldsOk sh w = true := by
  rcases decodeTrap_cases s e (privOf i) w sh with ⟨-, hd⟩ | ⟨-, ⟨-, hd⟩ | ⟨-, ⟨-, hd⟩ | ⟨⟨hf, -, -⟩, -⟩⟩⟩
  · simp [h.clean] at hd
  · simp [h.clean] at hd
  · simp [h.clean] at hd
  · exact hf

/-! ## Bodies that write D after they have changed the floe, and may have taken a free value (log 22) -/

/-- What such an instruction comes to: D written with `rs`, the floe left as `g` moved on, and nothing else but the count of free values. -/
structure BlockEffect (w : FWord) (sh : Shape) (e : Env) (g : Floe) (rs : List (Nat × Option (List FirnWord))) (s t : State) : Prop where
  result : Wrote e.f sh.d.writes rs s t
  floe : t.floe? e.h = some (e.after w sh s g)
  others : OtherFloes e.h s t
  mem : SameMem s t
  rest : { t with firn := s.firn, floes := s.floes, fresh := s.fresh } = s

/-- What such a body leaves before it writes D. -/
structure BeforeBlock (e : Env) (g : Floe) (s u : State) : Prop where
  floe : u.floe? e.h = some g
  others : OtherFloes e.h s u
  rest : { u with floes := s.floes, fresh := s.fresh } = s

/-- Whatever is read off neither floes nor the count of free values reads as before. -/
theorem BeforeBlock.read {α : Type} {e : Env} {g : Floe} {s u : State} (h : BeforeBlock e g s u) (q : State → α) :
    q { u with floes := s.floes, fresh := s.fresh } = q s := congrArg q h.rest

theorem BeforeBlock.sameTime {e : Env} {g : Floe} {s u : State} (h : BeforeBlock e g s u) : SameTime s u :=
  ⟨h.read State.gt, h.read State.pace, h.read State.clk, h.read State.gated⟩

theorem blockEffect_putLanes {w : FWord} {sh : Shape} {e : Env} {g : Floe} {s u : State} (hu : BeforeBlock e g s u)
    {rs : List (Nat × Option (List FirnWord))} (hl : LaneList e.f sh.d.writes rs) :
    BlockEffect w sh e g rs s
      (State.retire e (latchesOf s e.f w sh) (hintYields w sh) (.done (putLanes e.f sh.d.writes rs u))) := by
  have hr := putLanes_rest e.f sh.d.writes rs u
  have hfloes : (putLanes e.f sh.d.writes rs u).floes = u.floes := by rw [hr]
  have htime : SameTime s (putLanes e.f sh.d.writes rs u) := by
    rw [hr]
    obtain ⟨hgt, hpace, hclk, hgated⟩ := hu.sameTime
    exact ⟨hgt, hpace, hclk, hgated⟩
  constructor
  · exact (putLanes_wrote u hl).of_firn (hu.read State.firn).symm (retire_done_firn ..)
  · exact retire_done_after htime ((State.floe?_of_floes hfloes _).trans hu.floe)
  · exact retire_done_others fun k hk => (State.floe?_of_floes hfloes k).trans (hu.others k hk)
  · intro a
    rw [retire_done_ms, hr]
    exact hu.read (fun v => v.ms.byte a)
  · rw [retire_done_eq, hr]
    exact hu.read (fun v => { v with firn := s.firn })

/-- A free value taken, or none. -/
theorem beforeBlock_takeFresh {e : Env} {s : State} (hf : s.floe? e.h = some e.f) (c : Prop) [Decidable c] :
    BeforeBlock e e.f s (if c then s.takeFresh 1 else s) := by
  split
  · exact ⟨hf, .refl e.h s, rfl⟩
  · exact ⟨hf, .refl e.h s, rfl⟩

/-- The same with flags set. -/
theorem BeforeBlock.orFlags {e : Env} {g : Floe} {s u : State} (h : BeforeBlock e g s u) (x : Fx) :
    BeforeBlock e { g with fpflags := g.fpflags ||| x.bits } s (u.orFlags e.h x) where
  floe := State.floe?_orFlags h.floe x
  others := fun k hk => (otherFloes_orFlags u e.h x k hk).trans (h.others k hk)
  rest := by
    rw [State.orFlags_eq]
    exact h.rest

section
variable {i : Instr} {w : FWord} {sh : Shape} {e : Env} {s u : State} {g : Floe} {body : FWord → Shape → Env → State → Res}

/-- A body that ends by writing D lane by lane. -/
theorem exec_putLanes_block (h : Issues i w sh e s) (hi : exec i s = issueF i body s) (hu : BeforeBlock e g s u)
    {rs : List (Nat × Option (List FirnWord))} (hl : LaneList e.f sh.d.writes rs) (hbody : body w sh e s = .done (putLanes e.f sh.d.writes rs u)) :
    ∃ t, exec i s = .next t ∧ BlockEffect w sh e g rs s t :=
  ⟨_, h.exec_of_body hi hbody, blockEffect_putLanes hu hl⟩

/-- A body that ends with lane results that raise no enabled condition. -/
theorem exec_finishLanes_block (h : Issues i w sh e s) (hi : exec i s = issueF i body s) (hu : BeforeBlock e e.f s u) (v : Nat → Option (Nat × Fx))
    (hbody : body w sh e s = finishLanes w sh.d.writes e false ((computeLanes w e).map (fun l => (l, v l))) u)
    (ht : fpTrap e.f.fpflags (allFx ((computeLanes w e).map (fun l => (l, v l)))) = none) :
    ∃ t, exec i s = .next t ∧ BlockEffect w sh e
      { e.f with fpflags := e.f.fpflags ||| (allFx ((computeLanes w e).map (fun l => (l, v l)))).bits }
      (laneWords sh.d.writes.length ((computeLanes w e).map (fun l => (l, v l)))) s t :=
  exec_putLanes_block h hi (hu.orFlags _) (h.laneWords v) (hbody.trans (finishLanes_writes ht))

end

/-! ## PACK's per-lane forms (R127) -/

theorem Issues.pack_shape {w : FWord} {sh : Shape} {e : Env} {s : State} (h : Issues (.pack w) w sh e s) : sh = shapePack w :=
  (Prod.mk.inj (Option.some.inj h.shape)).2.symm

theorem fieldB_wide (w : FWord) (wide : Bool) : (fieldB w wide).wide = wide := by
  unfold fieldB
  split
  · rfl
  · cases wide <;> rfl

/-- Two elements of A and B in each lane. -/
theorem packBody_pair {w : FWord} {sh : Shape} {e : Env} {s : State} (h : Issues (.pack w) w sh e s) (hm : w.m.toNat ≤ 1) :
    packBody w sh e s = finishLanes w sh.d.writes e false (laneResults s w sh e (immFp w false) (opPack2 w)) s := by
  have hb : sh.b.wide = false := by
    rw [h.pack_shape, shapePack]
    simp only [hm, if_true]
    exact fieldB_wide w false
  rw [packBody, if_pos hm, fpBody, hb]
  rfl

/-- The four elements of a register group in each lane. -/
theorem packBody_group (w : FWord) (sh : Shape) (e : Env) (s : State) (h2 : 2 ≤ w.m.toNat) (h3 : w.m.toNat ≤ 3) :
    packBody w sh e s = finishLanes w sh.d.writes e false ((computeLanes w e).map (fun l => (l, if (s.rdGroup e.f l sh.a.reads).2
        then some (packFour (narrowFmt w) (modeOf w) (s.rdGroup e.f l sh.a.reads).1) else none))) s := by
  rw [packBody, if_neg (by omega), if_pos h3]

/-! ## PACK's block forms (R127) -/

theorem packBody_block (w : FWord) (sh : Shape) (e : Env) (s : State) (h4 : 4 ≤ w.m.toNat) : packBody w sh e s = packBlockBody w sh e s := by
  rw [packBody, if_neg (by omega), if_neg (by omega)]

/-- D of a block form is a vector register. -/
theorem Issues.pack_block_vec {w : FWord} {sh : Shape} {e : Env} {s : State} (h : Issues (.pack w) w sh e s) (h4 : 4 ≤ w.m.toNat) :
    Code.isUni w.d = false := by
  have hok : sh.d.ok = true := by
    have := h.fieldsOk
    simp only [Machine.fieldsOk, Bool.and_eq_true] at this
    tauto
  rw [h.pack_shape, shapePack, if_neg (by omega), if_neg (by omega)] at hok
  simp only [fieldDst, fieldDstG, Allow.ok, Bool.and_eq_true, Bool.false_eq_true, if_false] at hok
  obtain ⟨⟨hvec, -⟩, -⟩ := hok
  simp [Code.isVec, Code.isUni] at hvec ⊢
  omega

/-- All 32 lanes of D are written. -/
theorem Issues.pack_block_lanes {w : FWord} {sh : Shape} {e : Env} {s : State} (h : Issues (.pack w) w sh e s) (h4 : 4 ≤ w.m.toNat)
    {g : Nat → Option (List FirnWord)} (hlen : ∀ l ws, g l = some ws → ws.length = sh.d.writes.length) :
    LaneList e.f sh.d.writes ((List.range 32).map (fun l => (l, g l))) :=
  h.laneList_map List.pairwise_lt_range (fun _ => List.mem_range.1) (fun hu => by simp [h.pack_block_vec h4] at hu) hlen

/-- The elements of a block: the lanes of exec with a valid A. -/
def packElems (s : State) (w : FWord) (e : Env) : List (Option Nat) :=
  (List.range 32).map (fun l => if e.exec.getLsbD l && (rdOp s e.f l w.a 1).2 then some (rdOp s e.f l w.a 1).1 else none)

/-- The block that PACK makes of them: the codes, whether there is a NaN, and the conditions. -/
def packedBlock (s : State) (w : FWord) (sh : Shape) (e : Env) : List Nat × Bool × Fx :=
  packBlock (w.m.toNat == 5) (modeOf w) (blockScale s w sh e).1 (packElems s w e)

/-- What lane `l` of D takes: a word of the codes, or in lane 31 the scale, 0xFF for a NaN block. -/
def packWordVal (s : State) (w : FWord) (sh : Shape) (e : Env) (l : Nat) : Nat :=
  if l < (if w.m.toNat = 5 then 6 else 4) then joinCodes (if w.m.toNat = 5 then 6 else 4) (packedBlock s w sh e).1 / 2 ^ (32 * l) % 2 ^ 32
  else if l = 31 then (if (packedBlock s w sh e).2.1 then 255 else (blockScale s w sh e).1) else 0

theorem State.rdGroup_of_firn {s t : State} (h : t.firn = s.firn) (f : Floe) (l : Nat) (rs : List Reg) : t.rdGroup f l rs = s.rdGroup f l rs := by
  induction rs with
  | nil => rfl
  | cons r t ih => simp only [State.rdGroup, ih, State.rdReg_of_firn h]

/-- No operand is read off the count of free values. -/
theorem rdOp_takeFresh (s : State) (n : Nat) (f : Floe) (l : Nat) (c : Code) (k : Nat) : rdOp (s.takeFresh n) f l c k = rdOp s f l c k := by
  unfold rdOp
  split
  · rfl
  · exact State.rdGroup_of_firn (State.takeFresh_firn s n) ..

theorem rdOp_takeFresh_ite (c : Prop) [Decidable c] (s : State) (n : Nat) (f : Floe) (l : Nat) (a : Code) (k : Nat) :
    rdOp (if c then s.takeFresh n else s) f l a k = rdOp s f l a k := by
  split
  · exact rdOp_takeFresh ..
  · rfl

section
variable {w : FWord} {sh : Shape} {e : Env} {s : State} (hx : e.exec ≠ 0)
include hx

theorem packBlockBody_invalid (hsc : (blockScale s w sh e).2 = false) :
    packBlockBody w sh e s = .done (putLanes e.f sh.d.writes ((List.range 32).map (fun l => (l, none)))
      (if w.b = 0xF0 ∧ sh.b.src then s.takeFresh 1 else s)) := by
  simp only [packBlockBody, if_neg hx, hsc, writeLanes_putLanes, List.map_map]
  rfl

theorem packBlockBody_valid (hsc : (blockScale s w sh e).2 = true) :
    packBlockBody w sh e s = .done (putLanes e.f sh.d.writes
      ((List.range 32).map (fun l => (l, some (wordsOf sh.d.writes.length (packWordVal s w sh e l)))))
      ((if w.b = 0xF0 ∧ sh.b.src then s.takeFresh 1 else s).orFlags e.h (packedBlock s w sh e).2.2)) := by
  simp only [packBlockBody, if_neg hx, hsc, Bool.not_true, Bool.false_eq_true, if_false, rdOp_takeFresh_ite, beq_iff_eq, writeLanes_putLanes,
    List.map_map]
  rfl

end

/-- An empty exec does nothing (R127). -/
theorem packBlockBody_idle {e : Env} (hx : e.exec = 0) (w : FWord) (sh : Shape) (s : State) : packBlockBody w sh e s = .done s := if_pos hx

/-- The second part of O16. -/
theorem exec_pack_block {w : FWord} {sh : Shape} {e : Env} {s : State} (h : Issues (.pack w) w sh e s) (h4 : 4 ≤ w.m.toNat) :
    ∃ t, exec (.pack w) s = .next t ∧ OtherFloes e.h s t ∧ SameMem s t ∧ { t with firn := s.firn, floes := s.floes, fresh := s.fresh } = s
      ∧ (e.exec = 0 → t.firn = s.firn ∧ t.floe? e.h = some (e.after w sh s e.f))
      ∧ (e.exec ≠ 0 → (blockScale s w sh e).2 = false → t.floe? e.h = some (e.after w sh s e.f)
          ∧ Wrote e.f sh.d.writes ((List.range 32).map (fun l => (l, none))) s t)
      ∧ (e.exec ≠ 0 → (blockScale s w sh e).2 = true →
          t.floe? e.h = some (e.after w sh s { e.f with fpflags := e.f.fpflags ||| (packedBlock s w sh e).2.2.bits })
          ∧ Wrote e.f sh.d.writes ((List.range 32).map (fun l => (l, some (wordsOf sh.d.writes.length (packWordVal s w sh e l))))) s t) := by
  have hbody (r : Res) (hr : packBlockBody w sh e s = r) : packBody w sh e s = r := (packBody_block w sh e s h4).trans hr
  have hfresh := beforeBlock_takeFresh h.floe (w.b = 0xF0 ∧ sh.b.src)
  by_cases hx : e.exec = 0
  · exact ⟨_, h.exec_of_body rfl (hbody _ (packBlockBody_idle hx w sh s)), retire_done_others (.refl e.h s), fun a => by rw [retire_done_ms],
      by rw [retire_done_eq], fun _ => ⟨retire_done_firn .., retire_done_after ⟨rfl, rfl, rfl, rfl⟩ h.floe⟩,
      fun h0 => absurd hx h0, fun h0 => absurd hx h0⟩
  · cases hsc : (blockScale s w sh e).2 with
    | false =>
      obtain ⟨t, ht, hwrote, hfloe, hothers, hmem, hrest⟩ := exec_putLanes_block h rfl hfresh
        (h.pack_block_lanes h4 (g := fun _ => none) (by simp)) (hbody _ (packBlockBody_invalid hx hsc))
      exact ⟨t, ht, hothers, hmem, hrest, fun h0 => absurd h0 hx, fun _ _ => ⟨hfloe, hwrote⟩, fun _ h1 => by cases h1⟩
    | true =>
      obtain ⟨t, ht, hwrote, hfloe, hothers, hmem, hrest⟩ := exec_putLanes_block h rfl (hfresh.orFlags _)
        (h.pack_block_lanes h4 (by simp [wordsOf])) (hbody _ (packBlockBody_valid hx hsc))
      exact ⟨t, ht, hothers, hmem, hrest, fun h0 => absurd h0 hx, fun _ h0 => (by cases h0), fun _ _ => ⟨hfloe, hwrote⟩⟩

/-! ## UNPK (R128) -/

/-- The element of lane `l` in UNPK's block forms: its code from the words of the lanes that hold its bits, scaled and rounded. -/
def unpkElem (s : State) (w : FWord) (sh : Shape) (e : Env) (l : Nat) : Option (Nat × Fx) :=
  let bits := if w.m.toNat = 5 then 6 else 4
  let lo := rdOp s e.f (bits * l / 32) w.a 1
  let hi := rdOp s e.f ((bits * l + bits - 1) / 32) w.a 1
  let code := (lo.1 + (if (bits * l + bits - 1) / 32 = bits * l / 32 then 0 else 2 ^ 32 * hi.1)) / 2 ^ (bits * l % 32) % 2 ^ bits
  if (blockScale s w sh e).2 && lo.2 && hi.2 then
    (if (blockScale s w sh e).1 = 255 then some (Fmt.fp32.encode .nan, Fx.none)
     else some (fpRound .fp32 false (modeOf w)
       ((if w.m.toNat = 5 then decodeL6 code else Fmt.e2m1.decode code).scale (((blockScale s w sh e).1 : Int) - 127), Fx.none)))
  else none

theorem unpkBlockBody_eq (w : FWord) (sh : Shape) (e : Env) (s : State) :
    unpkBlockBody w sh e s = finishLanes w sh.d.writes e false ((computeLanes w e).map (fun l => (l, unpkElem s w sh e l)))
      (if w.b = 0xF0 ∧ sh.b.src then s.takeFresh 1 else s) := by
  simp only [unpkBlockBody, unpkElem, beq_iff_eq, Bool.not_eq_true', ← Bool.not_eq_true, ite_not]

/-- UNPK's per-lane forms have no B. -/
theorem Issues.unpk_lane_b {w : FWord} {sh : Shape} {e : Env} {s : State} (h : Issues (.unpk w) w sh e s) (hm : w.m.toNat ≤ 3) :
    sh.b.wide = false := by
  obtain rfl := (Prod.mk.inj (Option.some.inj h.shape)).2
  simp only [shapeUnpk, hm, if_true]
  rfl

theorem unpkBody_lanes {w : FWord} {sh : Shape} {e : Env} {s : State} (h : Issues (.unpk w) w sh e s) (hm : w.m.toNat ≤ 3) :
    unpkBody w sh e s = finishLanes w sh.d.writes e false (laneResults s w sh e (immFp w false) (opUnpk1 w)) s := by
  rw [unpkBody, if_pos hm, fpBody, h.unpk_lane_b hm]
  rfl

/-- Settles O16: the per-lane forms end as every lane-wise instruction does, the block forms under the floe's one scale. -/
theorem packAndUnpackForms : Obligations.PackAndUnpackForms := by
  unfold Obligations.PackAndUnpackForms
  refine ⟨fun w sh e s h => ⟨fun hm ht => ?_, ?_⟩, ?_, ?_⟩
  · exact exec_finishLanes_effect h (body := packBody) rfl (packBody_pair h hm) ht
  · rintro rs h2 h3 rfl ht
    exact exec_finishLanes_effect h (body := packBody) rfl (packBody_group w sh e s h2 h3) ht
  · intro w sh e s codes nan x h h4 hc
    have hc : packedBlock s w sh e = (codes, nan, x) := hc.symm
    simpa only [packWordVal, hc] using exec_pack_block h h4
  · intro w sh e s rs h hrs ht
    by_cases hm : w.m.toNat ≤ 3
    · rw [if_pos hm] at hrs
      subst hrs
      obtain ⟨t, hrun, hwrote, hfloe, hothers, hmem, hrest⟩ := exec_finishLanes_block h rfl (beforeBlock_takeFresh h.floe False) _
        (unpkBody_lanes h hm) ht
      exact ⟨t, hrun, hwrote, hfloe, hothers, hmem, hrest⟩
    · rw [if_neg hm] at hrs
      subst hrs
      obtain ⟨t, hrun, hwrote, hfloe, hothers, hmem, hrest⟩ := exec_finishLanes_block h rfl (beforeBlock_takeFresh h.floe _) (unpkElem s w sh e)
        ((if_neg hm).trans (unpkBlockBody_eq w sh e s)) ht
      exact ⟨t, hrun, hwrote, hfloe, hothers, hmem, hrest⟩

end Sys2Proof.Machine
end

section
/-! QSCAN, BALLOT, REDUX and SCAN: one value for the floe, or a partial one for each lane, and the one trap of their steps (R102, R129, R133, R134,
R136). -/

namespace Sys2Proof.Machine

/-! ## One value for the floe (R129, R133, R134) -/

theorem Fx.or_self (x : Fx) : x.or x = x := by simp [Fx.or]

theorem Fx.none_or (x : Fx) : Fx.none.or x = x := by simp [Fx.or, Fx.none]

theorem Fx.or_or_self (x y : Fx) : (x.or y).or y = x.or y := by simp [Fx.or]

theorem foldl_or_const (ls : List Nat) (x y : Fx) : ls.foldl (fun z _ => z.or y) (x.or y) = x.or y := by
  induction ls with
  | nil => rfl
  | cons l t ih => rw [List.foldl_cons, Fx.or_or_self, ih]

/-- One result in every lane raises what it raises in one. -/
theorem allFx_const (ls : List Nat) (r : Nat × Fx) : allFx (ls.map (fun l => (l, some r))) = if ls = [] then Fx.none else r.2 := by
  simp only [allFx, List.foldl_map]
  cases ls with
  | nil => rfl
  | cons l t => simpa [Fx.none_or] using foldl_or_const t Fx.none r.2

theorem encodeE8m0_quiet (k : Int) : (encodeE8m0 k).2.Quiet := by
  unfold encodeE8m0
  (repeat' split) <;> exact ⟨rfl, rfl, rfl⟩

/-- A block scale raises SAT or UF at most (R100, R129). -/
theorem qscanVal_quiet (m : Nat) (vals : List Nat) : (qscanVal m vals).2.Quiet := by
  simp only [qscanVal]
  split
  · exact Fx.quiet_none
  · split
    · split
      · exact Fx.quiet_none
      · exact encodeE8m0_quiet _
    · exact Fx.quiet_none

/-- A body that gives one value for the floe, and no condition that can trap. -/
theorem exec_finishFloe_effect {i : Instr} {w : FWord} {sh : Shape} {e : Env} {s : State} {body : FWord → Shape → Env → State → Res} {r : Nat × Fx}
    (h : Issues i w sh e s) (hi : exec i s = issueF i body s) (hbody : body w sh e s = finishFloe w sh e r s) (hr : r.2.Quiet) :
    ∃ t, exec i s = .next t ∧ LaneEffect w sh e (if computeLanes w e = [] then Fx.none else r.2)
      ((computeLanes w e).map (fun l => (l, some (wordsOf sh.d.writes.length r.1)))) s t := by
  have hq : (allFx ((computeLanes w e).map (fun l => (l, some r)))).Quiet := by
    rw [allFx_const]
    split
    · exact Fx.quiet_none
    · exact hr
  simpa only [allFx_const, laneWords, List.map_map, Function.comp_def, Option.map_some] using
    exec_finishLanes_effect h hi (g := fun _ => some r) hbody (fpTrap_of_quiet hq _)

/-- The lanes of exec that BALLOT counts are those of the floe with a valid A other than zero. -/
theorem ballot_lanes (s : State) (w : FWord) (e : Env) :
    (maskLanes e.exec).filter (truthy s w e)
      = (List.range 32).filter (fun l => e.exec.getLsbD l && (rdOp s e.f l w.a 1).2 && (rdOp s e.f l w.a 1).1 != 0) := by
  rw [maskLanes, List.filter_filter]
  refine List.filter_congr fun l _ => ?_
  simp only [truthy, srcA]
  ac_rfl

/-! ## The end of REDUX and SCAN (R102, R136) -/

section
variable {w : FWord} {regs : List Reg} {e : Env} {steps : List (Nat × Fx)} {rs : List (Nat × Nat)} {s : State}

/-- With no enabled condition the flags of the steps are set and D is written. -/
theorem finishWide_writes (ht : fpTrap e.f.fpflags (allSteps steps) = none) :
    finishWide regs e steps rs s
      = .done (putLanes e.f regs (rs.map (fun r => (r.1, some (wordsOf regs.length r.2)))) (s.orFlags e.h (allSteps steps))) := by
  have ht' : fpTrap e.f.fpflags (steps.foldl (fun a r => a.or r.2) Fx.none) = none := ht
  simp only [finishWide, ht', writeLanes_putLanes, List.map_map]
  rfl

/-- With one the flags are set and D is not written. -/
theorem finishWide_traps {c : Cause} (ht : fpTrap e.f.fpflags (allSteps steps) = some c) :
    finishWide regs e steps rs s
      = .trap { cause := c, lanes := lanesMask ((steps.filter (fun r => (fpTrap e.f.fpflags r.2).isSome)).map Prod.fst) }
          (s.orFlags e.h (allSteps steps)) := by
  have ht' : fpTrap e.f.fpflags (steps.foldl (fun a r => a.or r.2) Fx.none) = some c := ht
  simp only [finishWide, ht']
  rfl

end

section
variable {i : Instr} {w : FWord} {sh : Shape} {e : Env} {s : State} {body : FWord → Shape → Env → State → Res} {steps : List (Nat × Fx)}

/-- A body that ends with the values of its lanes and no enabled condition. -/
theorem exec_finishWide_effect (h : Issues i w sh e s) (hi : exec i s = issueF i body s) {ls : List Nat} (hs : ls.Pairwise (· < ·))
    (hlt : ∀ l ∈ ls, l < 32) (hu : Code.isUni w.d = true → ls.length ≤ 1) (v : Nat → Nat)
    (hbody : body w sh e s = finishWide sh.d.writes e steps (ls.map (fun l => (l, v l))) s) (ht : fpTrap e.f.fpflags (allSteps steps) = none) :
    ∃ t, exec i s = .next t
      ∧ LaneEffect w sh e (allSteps steps) (ls.map (fun l => (l, some (wordsOf sh.d.writes.length (v l))))) s t := by
  rw [finishWide_writes ht, List.map_map] at hbody
  refine ⟨_, h.exec_of_body hi hbody, laneEffect_of h _ _ (h.laneList_map hs hlt hu ?_)⟩
  intro l ws hw
  obtain rfl := Option.some.inj hw
  simp [wordsOf]

/-- One whose steps raise an enabled condition takes the trap (R102). -/
theorem exec_finishWide_trapEffect (h : Issues i w sh e s) (hi : exec i s = issueF i body s) {rs : List (Nat × Nat)} {c : Cause} {x : Ctx}
    (hbody : body w sh e s = finishWide sh.d.writes e steps rs s) (ht : fpTrap e.f.fpflags (allSteps steps) = some c)
    (hx : s.ctx? e.f.ctx = some x) (hl : e.f.levelHandler = false) (hb : x.trapBase ≠ 0) :
    ∃ t, exec i s = .next t ∧ TrapEffect e x.trapBase c false
      (lanesMask ((steps.filter (fun r => (fpTrap e.f.fpflags r.2).isSome)).map Prod.fst)) 0 e.sl.pc (allSteps steps) s t :=
  exec_trap_taken_flags
    (t := { cause := c, lanes := lanesMask ((steps.filter (fun r => (fpTrap e.f.fpflags r.2).isSome)).map Prod.fst) })
    (h.exec_of_body hi (hbody.trans (finishWide_traps ht))) h.env hx hl hb (fpTrap_ne_pageNotPresent ht)

end

/-! ## REDUX (R136) -/

theorem maskLanes_zero : maskLanes 0 = [] := by decide

theorem reduxBody_idle {e : Env} (hx : e.exec = 0) (w : FWord) (sh : Shape) (s : State) : reduxBody w sh e s = .done s := if_pos hx

theorem reduxBody_eq {e : Env} (hx : e.exec ≠ 0) (w : FWord) (sh : Shape) (s : State) :
    reduxBody w sh e s = finishWide sh.d.writes e (reduce w (contributing s w e)).2
      ((computeLanes w e).map (fun l => (l, (reduce w (contributing s w e)).1))) s := if_neg hx

/-- Where no lane acts nothing contributes, and no step is taken. -/
theorem reduce_contributing_idle {e : Env} (hx : e.exec = 0) (s : State) (w : FWord) : reduce w (contributing s w e) = (reduxId w, []) := by
  rw [contributing, hx, maskLanes_zero]
  rfl

theorem computeLanes_idle {e : Env} (hx : e.exec = 0) (w : FWord) : computeLanes w e = [] := by
  rw [computeLanes, hx, maskLanes_zero, List.take_nil, ite_self]

/-- The second part of O17, with no enabled condition. -/
theorem exec_redux_effect {w : FWord} {sh : Shape} {e : Env} {s : State} (h : Issues (.redux w) w sh e s)
    (ht : fpTrap e.f.fpflags (allSteps (reduce w (contributing s w e)).2) = none) :
    ∃ t, exec (.redux w) s = .next t ∧ LaneEffect w sh e (if e.exec = 0 then Fx.none else allSteps (reduce w (contributing s w e)).2)
      ((computeLanes w e).map (fun l => (l, some (wordsOf sh.d.writes.length (reduce w (contributing s w e)).1)))) s t := by
  by_cases hx : e.exec = 0
  · rw [if_pos hx]
    refine exec_putLanes_effect h (body := reduxBody) rfl (h.laneList_compute e.exec (by simp [wordsOf])) ?_
    rw [reduxBody_idle hx, computeLanes_idle hx]
    rfl
  · rw [if_neg hx]
    exact exec_finishWide_effect h (body := reduxBody) rfl (computeLanes_sorted w e) (fun _ => computeLanes_lt) computeLanes_uni _
      (reduxBody_eq hx w sh s) ht

/-- The second part of O17, with an enabled condition. -/
theorem exec_redux_trapEffect {w : FWord} {sh : Shape} {e : Env} {s : State} {c : Cause} {x : Ctx} (h : Issues (.redux w) w sh e s)
    (ht : fpTrap e.f.fpflags (allSteps (reduce w (contributing s w e)).2) = some c)
    (hx : s.ctx? e.f.ctx = some x) (hl : e.f.levelHandler = false) (hb : x.trapBase ≠ 0) :
    ∃ t, exec (.redux w) s = .next t ∧ TrapEffect e x.trapBase c false
      (lanesMask (((reduce w (contributing s w e)).2.filter (fun r => (fpTrap e.f.fpflags r.2).isSome)).map Prod.fst)) 0 e.sl.pc
      (allSteps (reduce w (contributing s w e)).2) s t := by
  have hne : e.exec ≠ 0 := by
    intro h0
    rw [reduce_contributing_idle h0] at ht
    simp [allSteps, fpTrap_of_quiet Fx.quiet_none] at ht
  exact exec_finishWide_trapEffect h (body := reduxBody) rfl (reduxBody_eq hne w sh s) ht hx hl hb

/-! ## SCAN (R136) -/

/-- The values that lane `l`'s own takes in: up to its own, or below it when exclusive. -/
def scanPrefix (s : State) (w : FWord) (e : Env) (l : Nat) : List (Nat × Nat) :=
  (contributing s w e).filter (fun p => if w.c = 0 then decide (p.1 ≤ l) else decide (p.1 < l))

/-- The highest lane of exec is the last of a running maximum. -/
theorem foldl_max_eq {ls : List Nat} {top : Nat} (hm : top ∈ ls) (hle : ∀ l ∈ ls, l ≤ top) : ls.foldl max 0 = top := by
  rw [List.foldl_eq_foldr]
  exact le_antisymm (List.max_le_of_forall_le ls top hle) (List.le_max_of_le hm le_rfl)

theorem scanBody_eq {e : Env} {top : Nat} (hm : top ∈ maskLanes e.exec) (hle : ∀ l ∈ maskLanes e.exec, l ≤ top) (w : FWord) (sh : Shape) (s : State) :
    scanBody w sh e s = finishWide sh.d.writes e (reduce w (scanPrefix s w e top)).2
      ((maskLanes e.exec).map (fun l => (l, (reduce w (scanPrefix s w e l)).1))) s := by
  simp only [scanBody, foldl_max_eq hm hle]
  rfl

/-- D of SCAN is no uniform register. -/
theorem Issues.scan_not_uni {w : FWord} {sh : Shape} {e : Env} {s : State} (h : Issues (.scan w) w sh e s) : Code.isUni w.d = false := by
  have hextra : sh.extra = true := by
    have := h.fieldsOk
    simp only [Machine.fieldsOk, Bool.and_eq_true] at this
    tauto
  obtain rfl := (Prod.mk.inj (Option.some.inj h.shape)).2
  simpa using hextra

/-- Settles O17: one value for the floe, or each lane's partial one, and the one trap of the steps. -/
theorem scansReductionsAndPrefixes : Obligations.ScansReductionsAndPrefixes := by
  unfold Obligations.ScansReductionsAndPrefixes
  refine ⟨?_, ?_, ?_⟩
  · rintro i w sh e s r h (⟨rfl, rfl⟩ | ⟨rfl, rfl⟩)
    · exact exec_finishFloe_effect h (body := qscanBody) rfl rfl (qscanVal_quiet ..)
    · rw [← ballot_lanes]
      exact exec_finishFloe_effect h (body := ballotBody) rfl rfl Fx.quiet_none
  · intro w sh e s v steps h hr
    obtain ⟨rfl, rfl⟩ : (reduce w (contributing s w e)).1 = v ∧ (reduce w (contributing s w e)).2 = steps := by simp [hr]
    exact ⟨exec_redux_effect h, fun c x ht hx hl hb => exec_redux_trapEffect h ht hx hl hb⟩
  · intro w sh e s v steps top h hv hm hle hsteps
    obtain rfl : v = fun l => (reduce w (scanPrefix s w e l)).1 := funext hv
    obtain rfl : steps = (reduce w (scanPrefix s w e top)).2 := hsteps
    refine ⟨fun ht => ?_, fun c x ht hx hl hb => ?_⟩
    · exact exec_finishWide_effect h (body := scanBody) rfl (maskLanes_sorted _) (fun _ => maskLanes_lt)
        (fun hu => by simp [h.scan_not_uni] at hu) _ (scanBody_eq hm hle w sh s) ht
    · exact exec_finishWide_trapEffect h (body := scanBody) rfl (scanBody_eq hm hle w sh s) ht hx hl hb

end Sys2Proof.Machine
end

section
/-! SUPPORT. D written lane by lane, and then V cleared in the lanes that a returning operation nullifies (R114, R152, R170). -/

namespace Sys2Proof.Machine

/-! ## Lanes that lose their V after other lanes were written (R170) -/

/-- Nullified lanes of a write of `rs`: other lanes than those of `rs`, also as FULL mirrors them, and none beside another for a uniform register. -/
structure NullLanes (f : Floe) (regs : List Reg) (rs : List (Nat × Option (List FirnWord))) (nulls : List Nat) : Prop where
  lt : ∀ n ∈ nulls, n < 32
  apart : ∀ n ∈ nulls, ∀ p ∈ rs, p.1 ≠ n
  mirror : f.dmr = .full → ∀ n ∈ nulls, ∀ p ∈ rs, p.1 ≠ n + 16
  uni : (∃ r ∈ regs, r.uni = true) → rs.length + nulls.length ≤ 1

/-- The nullified lanes of D invalidated. -/
def nullPuts (nulls : List Nat) : List (Nat × Option (List FirnWord)) := nulls.map (fun l => (l, none))

/-- A uniform register reads alike in every lane (R106). -/
theorem State.rdReg_uni {r : Reg} (h : r.uni = true) (s : State) (f : Floe) (l m : Nat) : s.rdReg f r l = s.rdReg f r m := by
  simp [State.rdReg, regWord, h]

section
variable {f : Floe} {regs : List Reg} (hfits : ∀ r ∈ regs, r.fits f) (hnodup : regs.Nodup) {k : Nat} (hk : k < regs.length) {m : Nat} (hm : m < 32)
include hfits hnodup hk hm

/-- What a lane invalidated leaves in a word that it reaches. -/
theorem putLane_none_same {n : Nat} (hn : n < 32) (s : State) (h : sameWord f regs[k] n m) :
    (putLane f regs (n, none) s).rdReg f regs[k] m = { s.rdReg f regs[k] n with v := false } :=
  putLane_same hm hfits hnodup hn (fun _ hw => by cases hw) s k hk h

omit hnodup in
theorem putLane_none_other {n : Nat} (hn : n < 32) (s : State) (h : ¬ sameWord f regs[k] n m) :
    (putLane f regs (n, none) s).rdReg f regs[k] m = s.rdReg f regs[k] m :=
  putLane_other (hfits _ (List.getElem_mem hk)) hm hfits hn s (fun hs => h hs.2)

/-- A word is invalid once its lane is invalidated, and stays so. -/
theorem nullPuts_v (nulls : List Nat) (hlt : ∀ n ∈ nulls, n < 32) (s : State) (h : (s.rdReg f regs[k] m).v = false ∨ m ∈ nulls) :
    ((putLanes f regs (nullPuts nulls) s).rdReg f regs[k] m).v = false := by
  induction nulls generalizing s with
  | nil => simpa [nullPuts, putLanes] using h
  | cons n t ih =>
    have hn := hlt n (by simp)
    refine ih (fun x hx => hlt x (List.mem_cons_of_mem _ hx)) (putLane f regs (n, none) s) ?_
    by_cases hs : sameWord f regs[k] n m
    · exact .inl (by rw [putLane_none_same hfits hnodup hk hm hn s hs])
    · rw [putLane_none_other hfits hk hm hn s hs]
      refine h.imp_right fun hmem => (List.mem_cons.1 hmem).resolve_left ?_
      rintro rfl
      exact hs (.inr (.inl rfl))

/-- Data stays, but where FULL mirrors another lane's. -/
theorem nullPuts_data (nulls : List Nat) (hlt : ∀ n ∈ nulls, n < 32) (hfull : f.dmr = .full → m < 16) (s : State) :
    ((putLanes f regs (nullPuts nulls) s).rdReg f regs[k] m).data = (s.rdReg f regs[k] m).data := by
  induction nulls generalizing s with
  | nil => rfl
  | cons n t ih =>
    have hn := hlt n (by simp)
    refine (ih (fun x hx => hlt x (List.mem_cons_of_mem _ hx)) (putLane f regs (n, none) s)).trans ?_
    by_cases hs : sameWord f regs[k] n m
    · rw [putLane_none_same hfits hnodup hk hm hn s hs]
      rcases hs with hu | rfl | ⟨hd, -, rfl⟩
      · rw [State.rdReg_uni hu s f n m]
      · rfl
      · have := hfull hd
        omega
    · rw [putLane_none_other hfits hk hm hn s hs]

omit hnodup in
/-- A word that no lane invalidated reaches stays as it is. -/
theorem nullPuts_other (nulls : List Nat) (hlt : ∀ n ∈ nulls, n < 32) (s : State) (h : ∀ n ∈ nulls, ¬ sameWord f regs[k] n m) :
    (putLanes f regs (nullPuts nulls) s).rdReg f regs[k] m = s.rdReg f regs[k] m := by
  refine putLanes_other (hfits _ (List.getElem_mem hk)) hm hfits _ s (fun p hp => ?_) (fun p hp hs => ?_)
  · obtain ⟨n, hn, rfl⟩ := List.mem_map.1 hp
    exact hlt n hn
  · obtain ⟨n, hn, rfl⟩ := List.mem_map.1 hp
    exact h n hn hs.2

omit hm in
/-- Under FULL the mirrored lane stays the copy of its lane, and becomes it where the lane is invalidated. -/
theorem nullPuts_mirror (hfull : f.dmr = .full) (hun : regs[k].uni = false) (hm16 : m < 16) (nulls : List Nat) (hlt : ∀ n ∈ nulls, n < 32)
    (hne : ∀ n ∈ nulls, n ≠ m + 16) (s : State) (h : s.rdReg f regs[k] (m + 16) = s.rdReg f regs[k] m ∨ m ∈ nulls) :
    (putLanes f regs (nullPuts nulls) s).rdReg f regs[k] (m + 16) = (putLanes f regs (nullPuts nulls) s).rdReg f regs[k] m := by
  induction nulls generalizing s with
  | nil => simpa [nullPuts, putLanes] using h
  | cons n t ih =>
    have hn := hlt n (by simp)
    refine ih (fun x hx => hlt x (List.mem_cons_of_mem _ hx)) (fun x hx => hne x (List.mem_cons_of_mem _ hx)) (putLane f regs (n, none) s) ?_
    have hm : m < 32 := by omega
    have hm' : m + 16 < 32 := by omega
    by_cases hnm : n = m
    · subst hnm
      exact .inl (by rw [putLane_none_same hfits hnodup hk hm' hn s (.inr (.inr ⟨hfull, hm16, rfl⟩)),
        putLane_none_same hfits hnodup hk hm hn s (.inr (.inl rfl))])
    · have hlow : ¬ sameWord f regs[k] n m := by
        rintro (hu | heq | ⟨-, -, heq⟩)
        · simp [hun] at hu
        · exact hnm heq.symm
        · omega
      have hhigh : ¬ sameWord f regs[k] n (m + 16) := by
        rintro (hu | heq | ⟨-, -, heq⟩)
        · simp [hun] at hu
        · exact hne n (by simp) heq.symm
        · omega
      rw [putLane_none_other hfits hk hm hn s hlow, putLane_none_other hfits hk hm' hn s hhigh]
      exact h.imp_right fun hmem => (List.mem_cons.1 hmem).resolve_left (Ne.symm hnm)

end

theorem putLanes_append (f : Floe) (regs : List Reg) (rs qs : List (Nat × Option (List FirnWord))) (s : State) :
    putLanes f regs (rs ++ qs) s = putLanes f regs qs (putLanes f regs rs s) := List.foldl_append

section
variable {f : Floe} {regs : List Reg} {rs : List (Nat × Option (List FirnWord))} {nulls : List Nat}

/-- A lane of `rs` is not reached by the nullified ones, but as FULL mirrors them. -/
theorem NullLanes.not_reached (h : NullLanes f regs rs nulls) {p : Nat × Option (List FirnWord)} (hp : p ∈ rs) {n : Nat} (hn : n ∈ nulls) {r : Reg}
    (hr : r ∈ regs) : ¬ sameWord f r n p.1 := by
  rintro (hu | heq | ⟨hfull, -, heq⟩)
  · have := h.uni ⟨r, hr, hu⟩
    have := List.length_pos_of_mem hp
    have := List.length_pos_of_mem hn
    omega
  · exact h.apart n hn p hp heq
  · exact h.mirror hfull n hn p hp heq

/-- Nor a nullified lane by those of `rs`, but as FULL mirrors them. -/
theorem NullLanes.not_reaching (h : NullLanes f regs rs nulls) {p : Nat × Option (List FirnWord)} (hp : p ∈ rs) {n : Nat} (hn : n ∈ nulls) {r : Reg}
    (hr : r ∈ regs) (hfull : f.dmr = .full → n < 16) : ¬ sameWord f r p.1 n := by
  rintro (hu | heq | ⟨hd, -, heq⟩)
  · have := h.uni ⟨r, hr, hu⟩
    have := List.length_pos_of_mem hp
    have := List.length_pos_of_mem hn
    omega
  · exact h.apart n hn p hp heq.symm
  · have := hfull hd
    omega

/-- Writing D lane by lane and then invalidating the nullified lanes writes both (R114, R152, R170). -/
theorem putLanes_nulls_wrote (s : State) (hl : LaneList f regs rs) (hn : NullLanes f regs rs nulls) :
    Wrote f regs (rs ++ nullPuts nulls) s (putLanes f regs (rs ++ nullPuts nulls) s) := by
  have hw := putLanes_wrote s hl
  rw [putLanes_append]
  constructor
  · intro l ws hmem k hk
    have hmem : (l, some ws) ∈ rs := by simpa [nullPuts] using hmem
    rw [nullPuts_other hl.fits hk (hl.lt _ hmem) nulls hn.lt _ fun n hnn => hn.not_reached hmem hnn (List.getElem_mem hk)]
    exact hw.value l ws hmem k hk
  · intro l hmem r hr
    obtain ⟨k, hk, rfl⟩ := List.getElem_of_mem hr
    rcases List.mem_append.1 hmem with hmem | hmem
    · exact nullPuts_v hl.fits hl.nodup hk (hl.lt _ hmem) nulls hn.lt _ (.inl (hw.invalid l hmem _ hr))
    · have hmem : l ∈ nulls := by simpa [nullPuts] using hmem
      exact nullPuts_v hl.fits hl.nodup hk (hn.lt l hmem) nulls hn.lt _ (.inr hmem)
  · intro l hmem hfull r hr
    obtain ⟨k, hk, rfl⟩ := List.getElem_of_mem hr
    rcases List.mem_append.1 hmem with hmem | hmem
    · rw [nullPuts_data hl.fits hl.nodup hk (hl.lt _ hmem) nulls hn.lt hfull]
      exact hw.kept l hmem hfull _ hr
    · have hmem : l ∈ nulls := by simpa [nullPuts] using hmem
      rw [nullPuts_data hl.fits hl.nodup hk (hn.lt l hmem) nulls hn.lt hfull,
        putLanes_other (hl.fits _ hr) (hn.lt l hmem) hl.fits rs s hl.lt fun p hp hs => hn.not_reaching hp hmem hr hfull hs.2]
  · intro hfull p hp hp16 hne r hr hun
    obtain ⟨k, hk, rfl⟩ := List.getElem_of_mem hr
    refine nullPuts_mirror hl.fits hl.nodup hk hfull hun hp16 nulls hn.lt
      (fun n hnn => hne (n, none) (List.mem_append_right _ (List.mem_map_of_mem hnn))) _ ?_
    rcases List.mem_append.1 hp with hp | hp
    · exact .inl (hw.mirror hfull p hp hp16 (fun q hq => hne q (List.mem_append_left _ hq)) _ hr hun)
    · obtain ⟨n, hnn, rfl⟩ := List.mem_map.1 hp
      exact .inr hnn
  · intro a ha
    rw [← putLanes_append]
    exact getD_putLanes f regs _ a s ha

end

/-! ## Firn is written from firn alone -/

theorem State.wrReg_firn_of {s t : State} (h : t.firn = s.firn) (f : Floe) (r : Reg) (l : Nat) (w : FirnWord) :
    (t.wrReg f r l w).firn = (s.wrReg f r l w).firn := by
  simp only [State.wrReg]
  split <;> simp [State.setFirn, h]

theorem State.wrGroup_firn_of (f : Floe) (l : Nat) (v : Bool) (regs : List Reg) {s t : State} (h : t.firn = s.firn) (x : Nat) :
    (t.wrGroup f l v regs x).firn = (s.wrGroup f l v regs x).firn := by
  induction regs generalizing s t x with
  | nil => exact h
  | cons r rest ih =>
    simp only [State.wrGroup, State.rdReg_of_firn h]
    exact ih (State.wrReg_firn_of h ..) _

theorem putLane_firn_of {s t : State} (h : t.firn = s.firn) (f : Floe) (regs : List Reg) (p : Nat × Option (List FirnWord)) :
    (putLane f regs p t).firn = (putLane f regs p s).firn := by
  unfold putLane
  split
  · rename_i ws _
    generalize regs.zip ws = qs
    induction qs generalizing s t with
    | nil => exact h
    | cons q rest ih => exact ih (State.wrReg_firn_of h ..)
  · exact State.wrGroup_firn_of f p.1 false regs h 0

theorem putLanes_firn_of {s t : State} (h : t.firn = s.firn) (f : Floe) (regs : List Reg) (rs : List (Nat × Option (List FirnWord))) :
    (putLanes f regs rs t).firn = (putLanes f regs rs s).firn := by
  induction rs generalizing s t with
  | nil => exact h
  | cons p rest ih => exact ih (putLane_firn_of h f regs p)

end Sys2Proof.Machine
end

section
/-! DATA_RETURN of a load: the registers it writes, and what it leaves of the rest (R115, R166, R169, R170, R189, R223, R227). -/

namespace Sys2Proof.Machine

/-! ## A lane's words (R169, R170) -/

/-- The words of a lane's destination: the value's, each with its own validity. -/
def loadWords (n v : Nat) (vs : List Bool) : List FirnWord := (List.range n).map (fun k => ⟨BitVec.ofNat 32 (v / 2 ^ (32 * k)), vs.getD k true⟩)

theorem loadWords_succ (n v : Nat) (vs : List Bool) :
    loadWords (n + 1) v vs = ⟨BitVec.ofNat 32 v, vs.headD true⟩ :: loadWords n (v / 2 ^ 32) vs.tail := by
  simp only [loadWords, List.range_succ_eq_map, List.map_cons, List.map_map]
  congr 1
  · cases vs <;> simp
  · refine List.map_congr_left fun k _ => ?_
    have hdiv : v / 2 ^ 32 / 2 ^ (32 * k) = v / 2 ^ (32 * (k + 1)) := by
      rw [Nat.div_div_eq_div_mul, ← Nat.pow_add, Nat.mul_succ, Nat.add_comm]
    rw [hdiv]
    cases vs <;> rfl

theorem wrWords_putLane (f : Floe) (l : Nat) (regs : List Reg) (s : State) (v : Nat) (vs : List Bool) :
    s.wrWords f l regs v vs = putLane f regs (l, some (loadWords regs.length v vs)) s := by
  induction regs generalizing s v vs with
  | nil => rfl
  | cons r rest ih => rw [State.wrWords, ih, List.length_cons, loadWords_succ]; rfl

/-! ## What a load's return leaves alone -/

/-- From `s` to `t` no byte of memory and no operation changes, nor a floe but for what floe `h` has read of others' writes; none of those it had read
before is forgotten while it is not performed (R227). -/
structure Noted (h : Nat) (s t : State) : Prop where
  ops : t.ops = s.ops
  mem : t.ms.mem = s.ms.mem
  others : OtherFloes h s t
  floe : ∀ f, s.floe? h = some f → ∃ sn, t.floe? h = some { f with seen := sn } ∧ ∀ i ∈ f.seen, (Table.find? s.ops i).isSome = true → i ∈ sn

theorem Noted.of_eq {h : Nat} {s t : State} (hops : t.ops = s.ops) (hmem : t.ms.mem = s.ms.mem) (hfloes : t.floes = s.floes) : Noted h s t where
  ops := hops
  mem := hmem
  others := fun k _ => State.floe?_of_floes hfloes k
  floe := fun f hf => ⟨f.seen, (State.floe?_of_floes hfloes h).trans hf, fun _ hi _ => hi⟩

theorem Noted.refl (h : Nat) (s : State) : Noted h s s := .of_eq rfl rfl rfl

theorem Noted.trans {h : Nat} {s t u : State} (hst : Noted h s t) (htu : Noted h t u) : Noted h s u where
  ops := htu.ops.trans hst.ops
  mem := htu.mem.trans hst.mem
  others := fun k hk => (htu.others k hk).trans (hst.others k hk)
  floe := fun f hf => by
    obtain ⟨sn, hg, hsn⟩ := hst.floe f hf
    obtain ⟨sn', hg', hsn'⟩ := htu.floe _ hg
    exact ⟨sn', hg', fun i hi hop => hsn' i (hsn i hi hop) (by rw [hst.ops]; exact hop)⟩

theorem noted_putLanes (h : Nat) (f : Floe) (regs : List Reg) (rs : List (Nat × Option (List FirnWord))) (s : State) :
    Noted h s (putLanes f regs rs s) := by
  rw [putLanes_rest]
  exact .of_eq rfl rfl rfl

/-! ## Caches (R196, R199, R210) -/

/-- A fill changes its core and the slices' leases alone. -/
theorem State.l1Fill_eq (s : State) (core ctx : Nat) (e : Pte) (pa n : Nat) (held : Bool) :
    s.l1Fill core ctx e pa n held = { s with ms := (s.l1Fill core ctx e pa n held).ms, cores := (s.l1Fill core ctx e pa n held).cores } := by
  have hfit (u : State) : u.l1Fit core = { u with cores := (u.l1Fit core).cores } := by
    simp only [State.l1Fit]
    split <;> rfl
  simp only [State.l1Fill]
  split
  · rfl
  · rw [hfit]
    rfl

theorem noted_noteSeen (s : State) (o : Op) (p : Phys) : Noted o.floe s (s.noteSeen o p) := by
  simp only [State.noteSeen]
  split
  · exact .refl o.floe s
  · refine ⟨by simp, by simp, otherFloes_modFloe (.refl o.floe s) _, fun f hf => ⟨_, by rw [State.floe?_modFloe_same, hf]; rfl, fun i hi hop => ?_⟩⟩
    by_cases hnew : i ∈ s.seen o p
    · exact List.mem_append_right _ hnew
    · exact List.mem_append_left _ (List.mem_filter.2 ⟨hi, by simp [hop, hnew]⟩)

@[simp] theorem State.noteSeen_firn (s : State) (o : Op) (p : Phys) : (s.noteSeen o p).firn = s.firn := by
  simp only [State.noteSeen]
  split <;> simp

/-! ## One lane of a load -/

/-- The words that a lane's return writes. -/
def loadPut (view : State) (o : Op) (la : LaneAcc) : Nat × Option (List FirnWord) :=
  (la.lane, some (loadWords o.d.length (extendLoad o.size o.signed (loadLane view o la).1) (loadLane view o la).2))

/-- Once D is written, what the core keeps of the bytes is noted. -/
theorem loadLaneDone_cases (id : Nat) (o : Op) (f : Floe) (view s : State) (la : LaneAcc) :
    loadLaneDone id o f view s la = putLane f o.d (loadPut view o la) s
    ∨ ∃ p, loadLaneDone id o f view s la = (((putLane f o.d (loadPut view o la) s).exclReturn o.core p.pa o.size).noteSeen o p).l1Fill
        o.core o.ctx p.pte p.pa o.size (leaseDenied s id o p) := by
  simp only [loadLaneDone, wrWords_putLane]
  split
  · exact .inr ⟨_, rfl⟩
  · exact .inl rfl

theorem loadLaneDone_firn (id : Nat) (o : Op) (f : Floe) (view s : State) (la : LaneAcc) :
    (loadLaneDone id o f view s la).firn = (putLane f o.d (loadPut view o la) s).firn := by
  rcases loadLaneDone_cases id o f view s la with h | ⟨p, h⟩
  · rw [h]
  · rw [h, State.l1Fill_eq]
    exact State.noteSeen_firn ..

theorem noted_loadLaneDone (id : Nat) (o : Op) (f : Floe) (view s : State) (la : LaneAcc) : Noted o.floe s (loadLaneDone id o f view s la) := by
  have hput : Noted o.floe s (putLane f o.d (loadPut view o la) s) := noted_putLanes o.floe f o.d [loadPut view o la] s
  rcases loadLaneDone_cases id o f view s la with h | ⟨p, h⟩
  · rw [h]
    exact hput
  · have hexcl (u : State) : Noted o.floe u (u.exclReturn o.core p.pa o.size) := .of_eq rfl rfl rfl
    have hfill (u : State) : Noted o.floe u (u.l1Fill o.core o.ctx p.pte p.pa o.size (leaseDenied s id o p)) := by
      rw [State.l1Fill_eq]
      exact .of_eq rfl (State.l1Fill_mem ..) rfl
    rw [h]
    exact ((hput.trans (hexcl _)).trans (noted_noteSeen ..)).trans (hfill _)

/-! ## All lanes of a load -/

/-- The kinds of operation that return data to D lane by lane. -/
def Op.IsLoad (o : Op) : Prop := o.kind = .load ∨ (∃ c, o.kind = .loadRemote c) ∨ (∃ k, o.kind = .expand k) ∨ o.kind = .recv

section
variable {s : State} {id : Nat} {o : Op} {f : Floe}

theorem foldl_loadLaneDone_firn (view : State) (lanes : List LaneAcc) (s : State) :
    (lanes.foldl (fun t la => loadLaneDone id o f view t la) s).firn = (putLanes f o.d (lanes.map (loadPut view o)) s).firn := by
  induction lanes generalizing s with
  | nil => rfl
  | cons la rest ih =>
    rw [List.foldl_cons, ih, List.map_cons, putLanes_cons]
    exact putLanes_firn_of (loadLaneDone_firn ..) ..

theorem noted_foldl_loadLaneDone (view : State) (lanes : List LaneAcc) (s : State) :
    Noted o.floe s (lanes.foldl (fun t la => loadLaneDone id o f view t la) s) := by
  induction lanes generalizing s with
  | nil => exact .refl o.floe s
  | cons la rest ih => exact (noted_loadLaneDone id o f view s la).trans (ih _)

theorem lanesDone_load (hk : o.IsLoad) (lanes : List LaneAcc) :
    lanesDone s id o (some f) lanes = lanes.foldl (fun t la => loadLaneDone id o f (ownView s id o) t la) s := by
  unfold lanesDone
  rcases hk with hk | ⟨c, hk⟩ | ⟨k, hk⟩ | hk <;> rw [hk]

/-- The nullified lanes are invalidated as lanes of D are. -/
theorem nullLanes_putLanes (s : State) (o : Op) (f : Floe) (lanes : List Nat) : nullLanes s o f lanes = putLanes f o.d (nullPuts lanes) s := by
  rw [nullLanes, putLanes, nullPuts, List.foldl_map]
  rfl

/-- The state in which every lane of a load has taken effect. -/
def loadEffect (s : State) (id : Nat) (o : Op) (f : Floe) : State := nullLanes (lanesDone s id o (some f) o.lanes) o f o.nulls

theorem noted_loadEffect (hk : o.IsLoad) : Noted o.floe s (loadEffect s id o f) := by
  rw [loadEffect, lanesDone_load hk, nullLanes_putLanes]
  exact (noted_foldl_loadLaneDone ..).trans (noted_putLanes ..)

theorem loadEffect_firn (hk : o.IsLoad) : (loadEffect s id o f).firn = (putLanes f o.d (loadResults s id o) s).firn := by
  rw [loadEffect, lanesDone_load hk, nullLanes_putLanes]
  refine (putLanes_firn_of (foldl_loadLaneDone_firn ..) ..).trans ?_
  rw [← putLanes_append]
  rfl

/-- A load of fitting lanes writes its results. -/
theorem loadEffect_wrote (hk : o.IsLoad) (ho : OpFits f o) : Wrote f o.d (loadResults s id o) s (loadEffect s id o f) := by
  refine (putLanes_nulls_wrote (rs := o.lanes.map (loadPut (ownView s id o) o)) (nulls := o.nulls) s ?_ ?_).of_firn rfl (loadEffect_firn hk)
  · refine ⟨ho.fits, ho.nodup, List.pairwise_map.2 ho.sorted, ?_, ?_, fun hu => ?_⟩
    · intro p hp
      obtain ⟨la, hla, rfl⟩ := List.mem_map.1 hp
      exact ho.lt la hla
    · intro l ws hw
      obtain ⟨la, -, hla⟩ := List.mem_map.1 hw
      obtain rfl := Option.some.inj (Prod.mk.inj hla).2
      simp [loadWords]
    · have := ho.uni hu
      rw [List.length_map]
      omega
  · refine ⟨fun n hn => (ho.nulls n hn).1, ?_, ?_, by simpa using ho.uni⟩
    · intro n hn p hp
      obtain ⟨la, hla, rfl⟩ := List.mem_map.1 hp
      exact ((ho.nulls n hn).2 la hla).1
    · intro hfull n hn p hp
      obtain ⟨la, hla, rfl⟩ := List.mem_map.1 hp
      exact ((ho.nulls n hn).2 la hla).2 hfull

/-- The lanes that have still to take effect fit as all do. -/
theorem OpFits.todo (h : OpFits f o) : OpFits f o.todo where
  fits := h.fits
  nodup := h.nodup
  sorted := h.sorted.filter _
  lt := fun la hla => h.lt la (List.mem_of_mem_filter hla)
  nulls := fun l hl => ⟨(h.nulls l hl).1, fun la hla => (h.nulls l hl).2 la (List.mem_of_mem_filter hla)⟩
  uni := fun hu => (Nat.add_le_add_right (List.length_filter_le ..) _).trans (h.uni hu)
  mask := h.mask

end

/-! ## The end of an operation (R115, R166) -/

theorem Floe.opCounted_seen (f : Floe) (o : Op) (sn : List Nat) : ({ f with seen := sn } : Floe).opCounted o = { f.opCounted o with seen := sn } := by
  simp only [Floe.opCounted]
  cases o.ac <;> cases o.counted <;> cases o.isSt <;> rfl

section
variable {s u : State} {id : Nat} {o : Op} {f : Floe}

/-- An allocation stays live whatever its floe reads. -/
theorem Noted.tagLive (h : Noted o.floe s u) (hf : s.floe? o.floe = some f) : u.tagLive o = s.tagLive o := by
  obtain ⟨sn, hg, -⟩ := h.floe f hf
  simp [State.tagLive, hf, hg]

/-- An operation of a live allocation that ends leaves its floe's counters. -/
theorem Noted.opLeft (h : Noted o.floe s u) (hf : s.floe? o.floe = some f) (hlive : s.tagLive o = true) : OpLeft o f s (u.endOp id o) := by
  obtain ⟨sn, hg, hsn⟩ := h.floe f hf
  refine ⟨sn, ?_, hsn⟩
  have hg' : State.floe? { u with ops := Table.erase u.ops id } o.floe = some { f with seen := sn } := hg
  simp [State.endOp, (h.tagLive hf).trans hlive, hg', Floe.opCounted_seen]

theorem State.endOp_ops (s : State) (id : Nat) (o : Op) : (s.endOp id o).ops = Table.erase s.ops id := by
  simp only [State.endOp]
  split <;> simp

theorem State.endOp_firn (s : State) (id : Nat) (o : Op) : (s.endOp id o).firn = s.firn := by
  simp only [State.endOp]
  split <;> simp

theorem Noted.endOp_others (h : Noted o.floe s u) : OtherFloes o.floe s (u.endOp id o) := by
  have hu : OtherFloes o.floe s { u with ops := Table.erase u.ops id } := h.others
  simp only [State.endOp]
  split
  · exact otherFloes_modFloe hu _
  · exact hu

end

/-! ## DATA_RETURN of a load -/

section
variable {s : State} {id : Nat} {o : Op} {f : Floe}

theorem exec_dataReturn_load (hop : Table.find? s.ops id = some o) (hst : o.isSt = false) (hk : o.IsLoad) :
    exec (.dataReturn id) s = .next (laneReturn s id o) := by
  rw [exec, execDataReturn, hop]
  rcases hk with hk | ⟨c, hk⟩ | ⟨k, hk⟩ | hk <;> simp [hst, hk]

theorem canEnd_load (hst : o.isSt = false) (hk : o.IsLoad) : o.canEnd s id = (o.ready s && ownFirst s id o && o.dataReady s) := by
  unfold Op.canEnd
  rcases hk with hk | ⟨c, hk⟩ | ⟨k, hk⟩ | hk <;> simp [hst, hk]

theorem faultNow_load (hk : o.IsLoad) : o.faultNow? s = o.fault? s := by
  unfold Op.faultNow?
  rcases hk with hk | ⟨c, hk⟩ | ⟨k, hk⟩ | hk <;> simp [hk]

/-- A lane whose data is there does not fault. -/
theorem fault_none_of_dataReady (h : o.dataReady s = true) : o.fault? s = none := by
  refine List.findSome?_eq_none_iff.2 fun la hla => ?_
  have hla' := List.all_eq_true.1 h la hla
  cases hv : laneView s o la with
  | error x => simp [hv] at hla'
  | ok v => rfl

/-- A load whose data is there has its effect and ends, with an acquire where it is one. -/
theorem laneReturn_ready (hst : o.isSt = false) (hk : o.IsLoad) (hready : (o.ready s && ownFirst s id o.todo && o.todo.dataReady s) = true)
    (hlive : s.tagLive o = true) (hf : s.floe? o.floe = some f) :
    laneReturn s id o = if o.acq then ((loadEffect s id o.todo f).endOp id o.todo).acquire o.core o.scope
      else (loadEffect s id o.todo f).endOp id o.todo := by
  have hend : o.todo.canEnd s id = true := (canEnd_load (o := o.todo) hst hk).trans hready
  have hfault : o.todo.faultNow? s = none := (faultNow_load (o := o.todo) hk).trans (fault_none_of_dataReady (by simp_all))
  have hfloe : s.liveFloe o.todo = some f := (if_pos hlive).trans hf
  simp only [laneReturn, hend, hfault, hfloe]
  rfl

/-- One whose allocation is gone is dropped (R115). -/
theorem laneReturn_dropped (hst : o.isSt = false) (hk : o.IsLoad) (hready : (o.ready s && ownFirst s id o.todo && o.todo.dataReady s) = true)
    (hlive : s.tagLive o = false) : laneReturn s id o = s.dropReturn id o.todo := by
  have hend : o.todo.canEnd s id = true := (canEnd_load (o := o.todo) hst hk).trans hready
  have hfault : o.todo.faultNow? s = none := (faultNow_load (o := o.todo) hk).trans (fault_none_of_dataReady (by simp_all))
  have hlive' : s.tagLive o.todo = false := hlive
  have hfloe : s.liveFloe o.todo = none := if_neg (by simp [hlive'])
  have hkind : o.todo.kind = o.kind := rfl
  simp only [laneReturn, hend, hfault, hfloe, hkind]
  rcases hk with hk | ⟨c, hk⟩ | ⟨k, hk⟩ | hk <;> simp [hk]

/-- One whose data is not there yet waits for it, and asks another device where that has it. -/
theorem laneReturn_waits (hst : o.isSt = false) (hk : o.IsLoad) (hready : (o.ready s && ownFirst s id o.todo && o.todo.dataReady s) = false) :
    laneReturn s id o = if o.state = .inFlight then sendRemote s id o.todo else s := by
  have hend : o.todo.canEnd s id = false := (canEnd_load (o := o.todo) hst hk).trans hready
  simp only [laneReturn, hend]
  rfl

/-- Requests to another device change the fabric alone. -/
theorem sendRemote_eq (s : State) (id : Nat) (o : Op) : sendRemote s id o = { s with net := (sendRemote s id o).net } := by
  simp only [sendRemote]
  split
  · rfl
  · refine List.foldlRecOn _ _ (motive := fun t : State => t = { s with net := t.net }) rfl fun t ht la _ => ?_
    split
    · split
      · exact ht
      · rw [ht]
        rfl
    · exact ht

theorem sameMem_of_mem {s t : State} (h : t.ms.mem = s.ms.mem) : SameMem s t := fun a => by rw [Ms.byte, h, Ms.byte]

/-- A load whose data is there ends in its effect, but for the core that an acquire changes. -/
theorem exec_load_ends (hop : Table.find? s.ops id = some o) (hst : o.isSt = false) (hk : o.IsLoad) (hlive : s.tagLive o = true)
    (hf : s.floe? o.floe = some f) (hready : (o.ready s && ownFirst s id o.todo && o.todo.dataReady s) = true) :
    ∃ t, exec (.dataReturn id) s = .next t ∧ t = { (loadEffect s id o.todo f).endOp id o.todo with cores := t.cores } := by
  rw [exec_dataReturn_load hop hst hk, laneReturn_ready hst hk hready hlive hf]
  refine ⟨_, rfl, ?_⟩
  split
  · exact State.acquire_eq ..
  · rfl

/-- The first part of O31, where the data is there: the return of a load of a live allocation. -/
theorem exec_load_return (hop : Table.find? s.ops id = some o) (hst : o.isSt = false) (hk : o.IsLoad) (hlive : s.tagLive o = true)
    (hf : s.floe? o.floe = some f) (ho : OpFits f o) (hready : (o.ready s && ownFirst s id o.todo && o.todo.dataReady s) = true) :
    ∃ t, exec (.dataReturn id) s = .next t ∧ Wrote f o.d (loadResults s id o.todo) s t
      ∧ Table.find? t.ops id = none ∧ (∀ k, k ≠ id → Table.find? t.ops k = Table.find? s.ops k)
      ∧ OpLeft o f s t ∧ OtherFloes o.floe s t ∧ SameMem s t := by
  have hnoted : Noted o.todo.floe s (loadEffect s id o.todo f) := noted_loadEffect hk
  obtain ⟨t, hrun, ht⟩ := exec_load_ends hop hst hk hlive hf hready
  have hfirn : t.firn = (loadEffect s id o.todo f).firn := by
    rw [ht]
    exact State.endOp_firn ..
  have hops : t.ops = Table.erase s.ops id := by
    rw [ht, ← hnoted.ops]
    exact State.endOp_ops ..
  have hmem : t.ms.mem = s.ms.mem := by
    rw [ht, ← hnoted.mem]
    exact congrArg Ms.mem (State.endOp_ms ..)
  have hfloe (k : Nat) : t.floe? k = ((loadEffect s id o.todo f).endOp id o.todo).floe? k := by
    rw [ht]
    rfl
  obtain ⟨sn, hleft, hsn⟩ := hnoted.opLeft (id := id) hf hlive
  exact ⟨t, hrun, (loadEffect_wrote (o := o.todo) hk ho.todo).of_firn rfl hfirn, by rw [hops, Table.find?_erase, if_pos rfl],
    fun k hne => by rw [hops, Table.find?_erase, if_neg hne], ⟨sn, (hfloe _).trans hleft, hsn⟩,
    fun k hne => (hfloe k).trans (hnoted.endOp_others k hne), sameMem_of_mem hmem⟩

/-- The first part of O31, where the data is not there yet: no register changes. -/
theorem exec_load_waits (hop : Table.find? s.ops id = some o) (hst : o.isSt = false) (hk : o.IsLoad)
    (hready : (o.ready s && ownFirst s id o.todo && o.todo.dataReady s) = false) :
    ∃ t, exec (.dataReturn id) s = .next t ∧ t.firn = s.firn ∧ t.ops = s.ops ∧ t.floes = s.floes ∧ SameMem s t := by
  rw [exec_dataReturn_load hop hst hk, laneReturn_waits hst hk hready]
  split
  · rw [sendRemote_eq]
    exact ⟨_, rfl, rfl, rfl, rfl, fun _ => rfl⟩
  · exact ⟨_, rfl, rfl, rfl, rfl, fun _ => rfl⟩

/-- The second part of O31: a return that no allocation waits for. -/
theorem exec_load_dropped (hop : Table.find? s.ops id = some o) (hst : o.isSt = false) (hk : o.IsLoad) (hlive : s.tagLive o = false)
    (hready : (o.ready s && ownFirst s id o.todo && o.todo.dataReady s) = true) :
    ∃ t, exec (.dataReturn id) s = .next t ∧ t.firn = s.firn ∧ t.floes = s.floes ∧ SameMem s t ∧ Table.find? t.ops id = none
      ∧ (t.core o.core).dropped = satInc (s.core o.core).dropped := by
  rw [exec_dataReturn_load hop hst hk, laneReturn_dropped hst hk hready hlive]
  refine ⟨_, rfl, rfl, rfl, fun _ => rfl, ?_, ?_⟩
  · exact (Table.find?_erase ..).trans (if_pos rfl)
  · exact congrArg Core.dropped (State.core_modCore_same ..)

end

/-- Settles O31: a load returns with its data, waits for it, or is dropped with its allocation. -/
theorem loadReturns : Obligations.LoadReturns := by
  unfold Obligations.LoadReturns
  refine ⟨fun s id o f hop hst hk hlive hf ho => ⟨exec_load_return hop hst hk hlive hf ho, exec_load_waits hop hst hk⟩, ?_⟩
  intro s id o hop hst hk hlive hready
  exact exec_load_dropped hop hst (hk.imp_right (Or.imp_right .inl)) hlive hready

end Sys2Proof.Machine
end

section
/-! SUPPORT. The end of an issue for the bodies that leave the PC to retirement: what they come to, where they change nothing but floes and what `u` says. -/

namespace Sys2Proof.Machine

section
variable {i : Instr} {w : FWord} {sh : Shape} {e : Env} {s u : State} {g : Floe}

/-- An issue that left nothing but its floe's change is an effect on that floe. -/
theorem FloeAnd.effect {h : Nat} {t : State} (ha : FloeAnd h g s s t) : FloeEffect h g s t where
  floe := ha.floe
  others := ha.others
  mem := fun a => (congrArg (fun v : State => v.ms.byte a) ha.rest :)
  rest := ha.rest

/-- A body left `u`, with its floe `g`, and the instruction retires, with the effect of R142 or without. -/
theorem floeAnd_retire (la : List (Option Latch)) (y : Bool) (ht : SameTime s u) (hu : u.floe? e.h = some g) (ho : OtherFloes e.h s u) :
    FloeAnd e.h (Floe.retired e s.gt (s.mck e.f.core) la y g) s { u with floes := s.floes } (State.retire e la y (.done u)) where
  floe := by rw [retire_done_floe hu, ht.gt, ht.mck]
  others := retire_done_others ho
  rest := by rw [retire_done_eq]

/-- An instruction that changes nothing only advances its floe's PC. -/
theorem Issues.advances (h : Issues i w sh e s) {body : FWord → Shape → Env → State → Res} (hrun : exec i s = Machine.issueF i body s)
    (hk : body w sh e s = .done s) : ∃ t, exec i s = .next t ∧ FloeEffect e.h (e.after w sh s e.f) s t :=
  ⟨_, h.exec_of_body hrun hk, (floeAnd_retire _ _ ⟨rfl, rfl, rfl, rfl⟩ h.floe (.refl e.h s)).effect⟩

/-- An instruction that changes its floe alone. -/
theorem Issues.changes (h : Issues i w sh e s) {body : FWord → Shape → Env → State → Res} {k : Floe → Floe}
    (hrun : exec i s = Machine.issueF i body s) (hk : body w sh e s = .done (s.modFloe e.h k)) :
    ∃ t, exec i s = .next t ∧ FloeEffect e.h (e.after w sh s (k e.f)) s t := by
  have ht : SameTime s (s.modFloe e.h k) := ⟨by simp, by simp, by simp, by simp⟩
  have ha := floeAnd_retire (g := k e.f) (latchesOf s e.f w sh) (hintYields w sh) ht (by simp [h.floe]) (otherFloes_modFloe (.refl e.h s) k)
  have hu : { s.modFloe e.h k with floes := s.floes } = s := by rw [State.modFloe_eq]
  rw [hu] at ha
  exact ⟨_, h.exec_of_body hrun hk, ha.effect⟩

end

end Sys2Proof.Machine
end


section
/-! Divergent branches: the lanes of a BRX by their PC, the entries and slots of a branch with several groups, and STACK_LIMIT (R145, R147, R156, R157). -/

namespace Sys2Proof.Machine

/-! ## A branch to several places (R147) -/

/-- The JOIN entry of a divergent branch, where a join is given. -/
def joinEntry (e : Env) (join : Option Dword) : List StackEntry :=
  match join with
  | some j => [⟨.join, j, e.sl.mask, e.sl.rpc, some e.sl.pc⟩]
  | none => []

/-- The PATH entry of a group. -/
def pathEntry (e : Env) (join : Option Dword) (g : Dword × Mask) : StackEntry := ⟨.path, g.1, g.2, join, some e.sl.pc⟩

/-- The slot of a group. -/
def groupSlot (e : Env) (join : Option Dword) (g : Dword × Mask) : Slot := ⟨g.1, g.2, join, some e.sl.pc⟩

/-- The groups that get no slot: the second has the other slot where that is FREE. -/
def pathGroups (e : Env) (g1 : Dword × Mask) (rest : List (Dword × Mask)) : List (Dword × Mask) :=
  if e.f.takes (!e.b) then rest else g1 :: rest

/-- The floe after a divergent branch: PATH entries over the JOIN entry, the first group in its slot, the second in the other where FREE. -/
def divergedFloe (e : Env) (join : Option Dword) (g0 g1 : Dword × Mask) (rest : List (Dword × Mask)) : Floe :=
  let f1 := { e.f with stack := (pathGroups e g1 rest).map (pathEntry e join) ++ (joinEntry e join ++ e.f.stack) }.setSlot e.b
    (some (groupSlot e join g0))
  if e.f.takes (!e.b) then f1.setSlot (!e.b) (some (groupSlot e join g1)) else f1

/-- The stack entries that a divergent branch needs. -/
def divergeNeed (e : Env) (join : Option Dword) (g1 : Dword × Mask) (rest : List (Dword × Mask)) : Nat :=
  (pathGroups e g1 rest).length + (if join.isSome then 1 else 0)

section
variable {e : Env} {join : Option Dword} {g1 : Dword × Mask} {rest : List (Dword × Mask)}

theorem branch_room (hroom : e.f.stack.length + divergeNeed e join g1 rest ≤ e.f.spillCap) (g0 : Dword × Mask) (s : State) :
    branch e join (g0 :: g1 :: rest) s = .jump (s.modFloe e.h (fun _ => divergedFloe e join g0 g1 rest)) := by
  have hd : e.f.diverge e.b e.sl join (g0 :: g1 :: rest) = some (divergedFloe e join g0 g1 rest) :=
    (if_neg (Nat.not_lt.2 hroom)).trans (by cases join <;> rfl)
  rw [branch, hd]

theorem branch_full (hfull : e.f.spillCap < e.f.stack.length + divergeNeed e join g1 rest) (g0 : Dword × Mask) (s : State) :
    branch e join (g0 :: g1 :: rest) s = .trap { cause := .stackLimit, lanes := e.exec } s := by
  have hd : e.f.diverge e.b e.sl join (g0 :: g1 :: rest) = none := if_pos hfull
  rw [branch, hd]

end

/-! ## The groups of a BRX (R157) -/

/-- Groups as a sparse table of masks by PC. -/
def pcTable (gs : List (Dword × Mask)) : Table Mask := gs.map (fun g => (g.1.toNat, g.2))

theorem pcTable_injective : Function.Injective pcTable :=
  List.map_injective_iff.2 fun _ _ h => Prod.ext (BitVec.eq_of_toNat_eq (Prod.mk.inj h).1) (Prod.mk.inj h).2

/-- A lane joins the group of its PC as a bit joins a table's entry. -/
theorem pcTable_addGroup (pc : Dword) (l : Nat) {gs : List (Dword × Mask)} (h : Table.sorted (pcTable gs) = true) :
    pcTable (addGroup pc l gs) = Table.insert (pcTable gs) pc.toNat (Table.getD (pcTable gs) 0 pc.toNat ||| lanesMask [l]) := by
  induction gs with
  | nil => simp [pcTable, addGroup, Table.insert, Table.getD]
  | cons g t ih =>
    by_cases heq : g.1 = pc
    · subst heq
      simp [pcTable, addGroup, Table.insert, Table.getD, Table.find?]
    · have hne : g.1.toNat ≠ pc.toNat := fun hc => heq (BitVec.eq_of_toNat_eq hc)
      by_cases hlt : pc.toNat < g.1.toNat
      · have hnone : Table.find? (pcTable (g :: t)) pc.toNat = none := Table.find?_below h hlt
        rw [addGroup, if_neg heq, if_pos hlt, Table.getD, hnone]
        simp [pcTable, Table.insert, hlt]
      · have hgt : ¬ pc.toNat = g.1.toNat := fun hc => hne hc.symm
        have htail : Table.sorted (pcTable t) = true := Table.sorted_tail h
        have hget : Table.getD (pcTable (g :: t)) 0 pc.toNat = Table.getD (pcTable t) 0 pc.toNat := by
          simp [Table.getD, pcTable, Table.find?, hne]
        rw [addGroup, if_neg heq, if_neg hlt, hget]
        simp only [pcTable, List.map_cons, Table.insert, if_neg hlt, if_neg hgt]
        exact congrArg _ (ih htail)

/-- The groups of lanes `ls`, one for each PC that a lane goes to, in ascending PC. -/
structure GroupsOf (target : Nat → Dword) (ls : List Nat) (gs : List (Dword × Mask)) : Prop where
  wf : Table.wf 0 (pcTable gs) = true
  bit : ∀ p l, l < 32 → ((Table.getD (pcTable gs) 0 p).getLsbD l = true ↔ l ∈ ls ∧ (target l).toNat = p)

theorem groupsOf_nil (target : Nat → Dword) : GroupsOf target [] [] where
  wf := rfl
  bit := by simp [pcTable, Table.getD]

theorem lanesMask_single {l k : Nat} (hk : k < 32) : (lanesMask [l]).getLsbD k = true ↔ k = l := by
  rw [lanesMask_getLsbD]
  simp [hk]

theorem GroupsOf.add_lane {target : Nat → Dword} {ls : List Nat} {gs : List (Dword × Mask)} (h : GroupsOf target ls gs) {l : Nat} (hl : l < 32) :
    GroupsOf target (l :: ls) (addGroup (target l) l gs) := by
  have hsorted : Table.sorted (pcTable gs) = true := by
    have := h.wf
    rw [Table.wf, Bool.and_eq_true] at this
    exact this.1
  have hadd := pcTable_addGroup (target l) l hsorted
  constructor
  · rw [hadd]
    refine Table.wf_insert h.wf fun hzero => ?_
    have hbit : (lanesMask [l]).getLsbD l = false := (Bool.or_eq_false_iff.1 ((BitVec.getLsbD_or ..).symm.trans
      ((congrArg (BitVec.getLsbD · l) hzero).trans BitVec.getLsbD_zero))).2
    exact absurd ((lanesMask_single hl).2 rfl) (by simp [hbit])
  · intro p k hk
    rw [hadd, Table.getD, Table.find?_insert]
    by_cases hp : p = (target l).toNat
    · rw [if_pos hp, Option.getD_some, BitVec.getLsbD_or, Bool.or_eq_true, h.bit _ k hk, lanesMask_single hk, List.mem_cons, hp]
      grind
    · rw [if_neg hp]
      refine (h.bit p k hk).trans ⟨fun ⟨hm, ht⟩ => ⟨List.mem_cons_of_mem _ hm, ht⟩, fun ⟨hm, ht⟩ => ⟨?_, ht⟩⟩
      exact (List.mem_cons.1 hm).resolve_left fun hc => hp (hc ▸ ht.symm)

/-- Lanes grouped one after another are all grouped. -/
theorem GroupsOf.foldl_lanes {target : Nat → Dword} (ms : List Nat) (hms : ∀ l ∈ ms, l < 32) {ls : List Nat} {gs : List (Dword × Mask)}
    (h : GroupsOf target ls gs) : GroupsOf target (ms.reverse ++ ls) (ms.foldl (fun g l => addGroup (target l) l g) gs) := by
  induction ms generalizing ls gs with
  | nil => exact h
  | cons l t ih =>
    rw [List.reverse_cons, List.append_assoc]
    exact ih (fun k hk => hms k (List.mem_cons_of_mem _ hk)) (h.add_lane (hms l List.mem_cons_self))

/-- The same lanes with the same targets have the same groups. -/
theorem GroupsOf.unique {target : Nat → Dword} {ls ms : List Nat} {gs hs : List (Dword × Mask)} (hg : GroupsOf target ls gs)
    (hh : GroupsOf target ms hs) (hmem : ∀ l, l ∈ ls ↔ l ∈ ms) : gs = hs := by
  refine pcTable_injective (Table.ext hg.wf hh.wf fun p => BitVec.eq_of_getLsbD_eq fun l hl => ?_)
  rw [Bool.eq_iff_iff, hg.bit p l hl, hh.bit p l hl, hmem]

theorem sorted_pcTable {gs : List (Dword × Mask)} (h : gs.Pairwise (fun a b => a.1.toNat < b.1.toNat)) : Table.sorted (pcTable gs) = true := by
  induction h with
  | nil => rfl
  | cons hg _ ih =>
    refine Table.sorted_cons ih fun q hq => ?_
    obtain ⟨g, hmem, rfl⟩ := List.mem_map.1 hq
    exact hg g hmem

/-- Groups that stand in ascending PC, hold the lanes that go to their PC, and leave no lane of the mask out, are the mask's groups. -/
theorem groupsOf_mask {target : Nat → Dword} {m : Mask} {gs : List (Dword × Mask)} (hs : gs.Pairwise (fun a b => a.1.toNat < b.1.toNat))
    (hlanes : ∀ g ∈ gs, g.2 ≠ 0 ∧ ∀ l, l < 32 → (g.2.getLsbD l = true ↔ m.getLsbD l = true ∧ target l = g.1))
    (hall : ∀ l, l < 32 → m.getLsbD l = true → ∃ g ∈ gs, g.1 = target l) : GroupsOf target (maskLanes m) gs := by
  have hsorted := sorted_pcTable hs
  constructor
  · simp only [Table.wf, hsorted, Bool.true_and, List.all_eq_true, decide_eq_true_eq]
    intro q hq
    obtain ⟨g, hmem, rfl⟩ := List.mem_map.1 hq
    exact (hlanes g hmem).1
  · intro p l hl
    rw [mem_maskLanes]
    by_cases hp : ∃ g ∈ gs, g.1.toNat = p
    · obtain ⟨g, hmem, rfl⟩ := hp
      have hfind : Table.find? (pcTable gs) g.1.toNat = some g.2 := Table.sorted_find?_eq hsorted (List.mem_map_of_mem hmem)
      rw [Table.getD, hfind, Option.getD_some, (hlanes g hmem).2 l hl, BitVec.toNat_inj]
      simp [hl]
    · have hfind : Table.find? (pcTable gs) p = none := Table.find?_none fun q hq => by
        obtain ⟨g, hmem, rfl⟩ := List.mem_map.1 hq
        exact fun hc => hp ⟨g, hmem, hc⟩
      rw [Table.getD, hfind, Option.getD_none]
      refine ⟨fun hzero => by simp at hzero, fun ⟨⟨_, hm⟩, ht⟩ => ?_⟩
      obtain ⟨g, hmem, hg⟩ := hall l hl hm
      exact absurd ⟨g, hmem, hg ▸ ht⟩ hp

/-- A BRX whose targets are all words' addresses branches to the groups of its slot's lanes. -/
theorem brxBody_groups {w : FWord} {e : Env} {s : State} {gs : List (Dword × Mask)} (hx : e.exec ≠ 0)
    (hok : ∀ l, e.exec.getLsbD l = true → (brxTarget w e s l).toNat % 8 = 0) (hgs : GroupsOf (brxTarget w e s) (maskLanes e.sl.mask) gs)
    (sh : Shape) : brxBody w sh e s = branch e (joinOf w e) gs s := by
  have hbad : brxBad w e s = [] := List.filter_eq_nil_iff.2 fun l hl => by simp [hok l (mem_maskLanes.1 hl).2]
  have hfold := (groupsOf_nil (brxTarget w e s)).foldl_lanes (maskLanes e.sl.mask) fun l hl => maskLanes_lt hl
  rw [brxBody_eq hx, hbad, hgs.unique hfold (by simp)]
  rfl

/-! ## BR (R156) -/

/-- A divergent BR branches to two groups: the lanes that fall through, and those of exec. -/
theorem brBody_two {w : FWord} {e : Env} (hx : e.exec ≠ 0) (hfall : e.sl.mask &&& ~~~e.exec ≠ 0) (ht : relTarget e (brOffset w) ≠ e.next)
    (sh : Shape) (s : State) :
    brBody w sh e s = branch e (joinOf w e) [(e.next, e.sl.mask &&& ~~~e.exec), (relTarget e (brOffset w), e.exec)] s := by
  rw [brBody]
  simp only [if_neg hx]
  exact if_neg (not_or.2 ⟨hfall, ht⟩)

/-- Settles O24: the groups of each branch, and what a branch to several groups does where the stack has room and where it has none. -/
theorem divergentBranches : Obligations.DivergentBranches := by
  unfold Obligations.DivergentBranches
  refine ⟨?_, ?_⟩
  · rintro w sh e s fall target join need h hx hfall rfl rfl hne rfl rfl
    rw [← h.next] at hne ⊢
    have hbody := brBody_two hx hfall hne sh s
    have hneed : divergeNeed e (joinOf w e) (relTarget e (brOffset w), e.exec) []
        = (if (joinOf w e).isSome then 1 else 0) + (if e.f.takes (!e.b) then 0 else 1) := by
      cases ht : e.f.takes (!e.b) <;> simp [divergeNeed, pathGroups, ht, Nat.add_comm]
    refine ⟨fun hroom => ?_, fun x hfull hctx hl hb => ?_⟩
    · obtain ⟨t, hrun, ht⟩ := h.jumps (exec_br w s) (hbody.trans (branch_room (hneed ▸ hroom) _ s))
      refine ⟨t, hrun, ?_⟩
      convert ht using 2
      cases htake : e.f.takes (!e.b) <;> simp [divergedFloe, pathGroups, htake] <;> rfl
    · exact h.traps (exec_br w s) (hbody.trans (branch_full (hneed ▸ hfull) _ s)) hctx hl hb Cause.noConfusion
  · rintro w sh e s fall target join g0 g1 rest paths h hx rfl rfl hok rfl hs hlanes hall rfl
    have htarget : brxTarget w e s = fun l => if e.exec.getLsbD l ∧ (rdOp s e.f l w.a 2).2 = true then
        BitVec.ofNat 64 (rdOp s e.f l w.a 2).1 else e.sl.pc + BitVec.ofNat 64 (wordLen w) := by
      funext l
      rw [brxTarget, h.next, ite_and]
    rw [← htarget] at hok hlanes hall
    have hbody := brxBody_groups hx hok (groupsOf_mask hs hlanes hall) sh
    refine ⟨fun hroom => ?_, fun x hfull hctx hl hb => ?_⟩
    · exact h.jumps (exec_brx w s) (hbody.trans (branch_room hroom g0 s))
    · exact h.traps (exec_brx w s) (hbody.trans (branch_full hfull g0 s)) hctx hl hb Cause.noConfusion

end Sys2Proof.Machine
end

section
/-! RET and EXIT: lanes parked at their CALL entry, lanes retired, and the end of a floe (R137, R148, R159, R160). -/

namespace Sys2Proof.Machine

/-! ## Lanes that leave a slot (R148) -/

theorem Floe.dropLanes_eq {f : Floe} {b : Bool} {sl : Slot} (h : f.slot b = some sl) (m : Mask) :
    f.dropLanes b m = f.setSlot b (if sl.mask &&& ~~~m = 0 then none else some { sl with mask := sl.mask &&& ~~~m }) := by
  simp only [Floe.dropLanes, h]

/-! ## RET (R159) -/

/-- A CALL entry that holds all of some lanes. -/
def StackEntry.holds (q : StackEntry) (m : Mask) : Prop := q.kind = .call ∧ m &&& q.mask = m

theorem retStack_of_topmost {m : Mask} {c : StackEntry} (hc : c.holds m) (pc : Dword) (below : List StackEntry) {above : List StackEntry}
    (ha : ∀ q ∈ above, ¬ q.holds m) :
    retStack m pc (above ++ c :: below) = some (stackRemove m above ++ { c with via := some pc } :: below) := by
  induction above with
  | nil => exact if_pos hc
  | cons q t ih =>
    have hq : ¬ (q.kind = .call ∧ m &&& q.mask = m) := ha q List.mem_cons_self
    have hsplit : stackRemove m (q :: t) = stackRemove m [q] ++ stackRemove m t := by
      rw [stackRemove, stackRemove, stackRemove, ← List.filter_append, ← List.map_append, List.singleton_append]
    rw [List.cons_append, retStack, if_neg hq, ih fun x hx => ha x (List.mem_cons_of_mem _ hx), hsplit, List.append_assoc]

theorem retStack_none {m : Mask} {st : List StackEntry} (h : ∀ q ∈ st, ¬ q.holds m) (pc : Dword) : retStack m pc st = none := by
  induction st with
  | nil => rfl
  | cons q t ih =>
    have hq : ¬ (q.kind = .call ∧ m &&& q.mask = m) := h q List.mem_cons_self
    rw [retStack, if_neg hq, ih fun x hx => h x (List.mem_cons_of_mem _ hx)]

theorem exec_ret (w : FWord) (s : State) : exec (.ret w) s = issueF (.ret w) retBody s := rfl
theorem exec_exit (w : FWord) (s : State) : exec (.exit w) s = issueF (.exit w) exitBody s := rfl

/-- A floe whose lanes of exec have returned: parked, and out of its slot. -/
def returned (e : Env) (st : List StackEntry) (f : Floe) : Floe := { f with stack := st, parked := f.parked ||| e.exec }.dropLanes e.b e.exec

theorem returned_eq {e : Env} (h : e.f.slot e.b = some e.sl) (st : List StackEntry) :
    returned e st e.f = { e.f with stack := st, parked := e.f.parked ||| e.exec }.setSlot e.b
      (if e.sl.mask &&& ~~~e.exec = 0 then none else some { e.sl with mask := e.sl.mask &&& ~~~e.exec }) :=
  Floe.dropLanes_eq (f := { e.f with stack := st, parked := e.f.parked ||| e.exec }) h e.exec

section
variable {w : FWord} {sh : Shape} {e : Env} {s : State} (hx : e.exec ≠ 0)
include hx

theorem retBody_parks {st : List StackEntry} (h : retStack e.exec e.sl.pc e.f.stack = some st) :
    retBody w sh e s = .done (s.modFloe e.h (returned e st)) := by
  rw [retBody, if_neg hx, h]
  rfl

theorem retBody_refused (h : retStack e.exec e.sl.pc e.f.stack = none) :
    retBody w sh e s = .trap { cause := .illegalOperands, lanes := e.exec } s := by
  rw [retBody, if_neg hx, h]

end

/-! ## The end of a floe (R137, R160) -/

/-- Floes, registers and operations are as before. -/
structure SameRuns (s t : State) : Prop where
  floes : t.floes = s.floes
  firn : t.firn = s.firn
  ops : t.ops = s.ops

theorem SameRuns.refl (s : State) : SameRuns s s := ⟨rfl, rfl, rfl⟩

theorem SameRuns.trans {s t u : State} (h : SameRuns s t) (k : SameRuns t u) : SameRuns s u :=
  ⟨k.floes.trans h.floes, k.firn.trans h.firn, k.ops.trans h.ops⟩

theorem SameRuns.foldl {α : Type} {g : State → α → State} (h : ∀ s a, SameRuns s (g s a)) (l : List α) (s : State) : SameRuns s (l.foldl g s) :=
  List.foldlRecOn l g (motive := SameRuns s) (.refl s) fun t ht a _ => ht.trans (h t a)

theorem sameRuns_leavePack (f : Floe) (h : Nat) (s : State) (p : Pack) : SameRuns s (s.leavePack f h p) := by
  simp only [State.leavePack]
  (repeat' split) <;> constructor <;> simp

theorem sameRuns_leaveAll (s : State) (f : Floe) (h : Nat) : SameRuns s (s.leaveAll f h) := .foldl (sameRuns_leavePack f h) _ s

theorem sameRuns_releaseMx (s : State) (h core : Nat) (discard : Bool) : SameRuns s (s.releaseMx h core discard) := by
  unfold State.releaseMx
  split
  · exact .refl s
  · dsimp only
    split <;> exact ⟨rfl, rfl, rfl⟩

theorem sameRuns_unlist (s : State) (f : Floe) (h : Nat) : SameRuns s (s.unlist f h) := by
  constructor <;> simp [State.unlist]

theorem sameRuns_dropRegion (core : Nat) (s : State) (r : Region) : SameRuns s (State.dropRegion core s r) := by
  simp only [State.dropRegion]
  (repeat' split) <;> constructor <;> simp

theorem sameRuns_settleScratch (s : State) (core : Nat) : SameRuns s (s.settleScratch core) := .foldl (sameRuns_dropRegion core) _ s

theorem sameRuns_sleepCore (s : State) (core : Nat) : SameRuns s (s.sleepCore core) := by
  unfold State.sleepCore
  split
  · exact ⟨rfl, rfl, rfl⟩
  · exact .refl s

/-- The floe that last_exit leaves: RETIRED, with nothing left to run. -/
def Floe.ended (f : Floe) : Floe :=
  { (if f.openGroup.isSome then f.commit else f) with
    state := .retired, s0 := none, s1 := none, parked := 0, stack := [], wait := none, frame := none, susp := none, preempt := false,
    pendingTraps := [], savedRegs := [], savedMx := none }

/-- Of floes, registers and operations, last_exit changes its own floe alone. -/
theorem sameRuns_floeEnd {s : State} {h : Nat} {f : Floe} (hf : s.floe? h = some f) : SameRuns (s.setFloe h f.ended) (s.floeEnd h false) := by
  have hbefore : SameRuns s (((s.leaveAll f h).releaseMx h f.core false).unlist f h) :=
    ((sameRuns_leaveAll s f h).trans (sameRuns_releaseMx ..)).trans (sameRuns_unlist ..)
  have hset : SameRuns (s.setFloe h f.ended) ((((s.leaveAll f h).releaseMx h f.core false).unlist f h).setFloe h f.ended) :=
    ⟨congrArg (Table.insert · h f.ended) hbefore.floes, hbefore.firn, hbefore.ops⟩
  rw [State.floeEnd, hf]
  exact (hset.trans (sameRuns_settleScratch ..)).trans (sameRuns_sleepCore ..)

/-- A floe that has retired, with no lane left anywhere. -/
structure Floe.Over (f : Floe) : Prop where
  state : f.state = .retired
  s0 : f.s0 = none
  s1 : f.s1 = none
  stack : f.stack = []
  parked : f.parked = 0
  openGroup : f.openGroup = none

theorem Floe.over_ended (f : Floe) : f.ended.Over := by
  refine ⟨rfl, rfl, rfl, rfl, rfl, ?_⟩
  cases hg : f.openGroup <;> simp [Floe.ended, Floe.commit, hg]

theorem Floe.Over.branched {f : Floe} (h : f.Over) : f.branched.Over := by
  unfold Floe.branched
  split
  · exact { h with }
  · exact h

theorem Floe.Over.issued {f : Floe} (h : f.Over) (gt mck : Nat) (b : Bool) (la : List (Option Latch)) (y : Bool) : (f.issued gt mck b la y).Over :=
  { h with }

/-- With no lane left there is no arrival and no completion (R146). -/
theorem Floe.Over.settle {f : Floe} (h : f.Over) : f.settle = f := by
  have hstep : f.settle1 = none := by
    simp [Floe.settle1, Floe.arrive, Floe.slot, takeComplete, takePath, h.s0, h.s1, h.stack]
  rw [Floe.settle, h.stack]
  simp [Floe.settleN, hstep]

/-! ## EXIT (R160) -/

/-- The floe without the lanes of exec, in its slot and on its stack. -/
def exitedFloe (e : Env) : Floe :=
  { e.f with stack := stackRemove e.exec e.f.stack }.setSlot e.b
    (if e.sl.mask &&& ~~~e.exec = 0 then none else some { e.sl with mask := e.sl.mask &&& ~~~e.exec })

theorem exitBody_eq {e : Env} (hx : e.exec ≠ 0) (hsl : e.f.slot e.b = some e.sl) (w : FWord) (sh : Shape) (s : State) :
    exitBody w sh e s = if (exitedFloe e).liveLanes = 0 then .jump (State.floeEnd (s.setFloe e.h (exitedFloe e)) e.h false)
      else .done (s.modFloe e.h (fun _ => exitedFloe e)) := by
  have hdrop : { e.f with stack := stackRemove e.exec e.f.stack }.dropLanes e.b e.exec = exitedFloe e :=
    Floe.dropLanes_eq (f := { e.f with stack := stackRemove e.exec e.f.stack }) hsl e.exec
  rw [exitBody, if_neg hx, hdrop]

/-- The last EXIT of a floe ends it, and leaves every register, byte of memory, operation and other floe (R160). -/
theorem exec_exit_last {w : FWord} {sh : Shape} {e : Env} {s : State} (h : Issues (.exit w) w sh e s) (hx : e.exec ≠ 0)
    (hlive : (exitedFloe e).liveLanes = 0) :
    ∃ t r, exec (.exit w) s = .next t ∧ t.floe? e.h = some r ∧ r.Over ∧ t.firn = s.firn ∧ SameMem s t ∧ t.ops = s.ops ∧ OtherFloes e.h s t := by
  have hbody := (exitBody_eq hx h.slot w sh s).trans (if_pos hlive)
  have hset : (s.setFloe e.h (exitedFloe e)).floe? e.h = some (exitedFloe e) := by simp [State.floe?_setFloe]
  have hend := sameRuns_floeEnd hset
  have hfloe : (State.floeEnd (s.setFloe e.h (exitedFloe e)) e.h false).floe? e.h = some (exitedFloe e).ended := by
    rw [State.floe?_of_floes hend.floes]
    simp [State.floe?_setFloe]
  have hover (gt mck la y) := ((exitedFloe e).over_ended.branched).issued gt mck e.b la y
  refine ⟨_, _, h.exec_of_body (exec_exit w s) hbody, retire_jump_floe hfloe, ?_, ?_, ?_, ?_, ?_⟩
  · rw [(hover ..).settle]
    exact hover ..
  · simp [State.retire, hend.firn]
  · intro a
    simp [State.retire, Ms.byte]
  · simp [State.retire, hend.ops]
  · intro k hk
    rw [State.retire, State.floe?_modFloe_ne _ _ hk, State.floe?_of_floes hend.floes, State.floe?_setFloe, if_neg hk, State.floe?_setFloe, if_neg hk]

/-- Settles O25: the stack of a RET by its topmost CALL entry, and the end of a floe by what its last EXIT leaves. -/
theorem returnAndExit : Obligations.ReturnAndExit := by
  unfold Obligations.ReturnAndExit
  refine ⟨fun w sh e s h hx => ⟨?_, ?_⟩, ?_⟩
  · intro above below c hst hkind hmask habove
    have hstack := hst ▸ retStack_of_topmost ⟨hkind, hmask⟩ e.sl.pc below habove
    rw [← returned_eq h.slot]
    exact h.changes (exec_ret w s) (retBody_parks hx hstack)
  · intro x hnone hctx hl hb
    exact h.traps (exec_ret w s) (retBody_refused hx (retStack_none hnone _)) hctx hl hb Cause.noConfusion
  · rintro w sh e s g h hx rfl
    refine ⟨fun hlive => ?_, fun hlive => ?_⟩
    · exact h.changes (exec_exit w s) ((exitBody_eq hx h.slot w sh s).trans (if_neg hlive))
    · obtain ⟨t, r, hrun, hr, hover, hrest⟩ := exec_exit_last h hx hlive
      exact ⟨t, r, hrun, hr, hover.state, hover.s0, hover.s1, hover.stack, hover.parked, hover.openGroup, hrest⟩

end Sys2Proof.Machine
end

section
/-! SLEEP and the waits: how a floe comes to wait for its deadline, and what ends a wait or marks a floe aged (R137, R138, R141, R150, R163). -/

namespace Sys2Proof.Machine

/-! ## Steps that set their floe -/

theorem State.modFloe_of_floe {s : State} {h : Nat} {f : Floe} (hf : s.floe? h = some f) (g : Floe → Floe) : s.modFloe h g = s.setFloe h (g f) := by
  simp only [State.modFloe, hf]

theorem floeEffect_setFloe (s : State) (h : Nat) (f : Floe) : FloeEffect h f s (s.setFloe h f) where
  floe := by rw [State.floe?_setFloe, if_pos rfl]
  others := fun k hk => by rw [State.floe?_setFloe, if_neg hk]
  mem := fun _ => rfl
  rest := rfl

/-! ## SLEEP (R163) -/

/-- The free value that SLEEP takes for %lane, if any (log 22). -/
def sleepTakes (w : FWord) : Nat := if w.b = 0xF0 then 1 else 0

theorem sleepBody_waits {w : FWord} {e : Env} {s : State} {n : Nat} (hx : e.exec ≠ 0) (hn : sleepAmount w e s = (n, true)) (hpos : 0 < n)
    (sh : Shape) : sleepBody w sh e s = .done ((s.takeFresh (sleepTakes w)).waitOn e.h (.sleep (s.coreGt e.f.core + n))) := by
  have hgo : ¬ (e.exec = 0 ∨ (sleepAmount w e s).2 = false) := by simpa [hn] using hx
  have hne : ¬ (sleepAmount w e s).1 = 0 := by rw [hn]; exact hpos.ne'
  simp only [sleepBody, if_neg hgo, if_neg hne]
  rw [hn]
  rfl

/-- A floe that sleeps is WAITING at its word until its deadline (R137, R138). -/
theorem exec_sleep_waits {w : FWord} {sh : Shape} {e : Env} {s : State} {n : Nat} (h : Issues (.sleep w) w sh e s) (hx : e.exec ≠ 0)
    (hn : sleepAmount w e s = (n, true)) (hpos : 0 < n) :
    ∃ t, exec (.sleep w) s = .next t ∧ FloeAnd e.h (e.after w sh s (e.f.held (.sleep (s.coreGt e.f.core + n)) s.gt)) s
      (s.takeFresh (sleepTakes w)) t := by
  let u := (s.takeFresh (sleepTakes w)).waitOn e.h (.sleep (s.coreGt e.f.core + n))
  have hu : { u with floes := s.floes } = s.takeFresh (sleepTakes w) := by
    simp only [u, State.waitOn]
    rw [State.modFloe_eq]
    rfl
  have hfloe : u.floe? e.h = some (e.f.held (.sleep (s.coreGt e.f.core + n)) s.gt) := State.waitOn_floe (s := s.takeFresh (sleepTakes w)) h.floe _
  have ha := floeAnd_retire (latchesOf s e.f w sh) (hintYields w sh) (s := s) ⟨by simp [u], by simp [u], by simp [u], by simp [u]⟩ hfloe
    (otherFloes_modFloe (fun _ _ => rfl) _)
  rw [hu] at ha
  exact ⟨_, h.exec_of_body (body := sleepBody) rfl (sleepBody_waits hx hn hpos sh), ha⟩

/-! ## SLEEP_DEADLINE (R163) -/

/-- A floe whose instruction retires goes on at the next word (R137). -/
theorem Floe.resume_advances {f : Floe} {sl : Slot} (hsl : f.slot f.waitSlot1 = some sl) (hlen : f.waitLen ≠ 0) (mck : Nat) :
    f.resume mck = Floe.settle ({ f with state := .ready, wait := none, since := mck }.setSlot f.waitSlot1
      (some { sl with pc := sl.pc + BitVec.ofNat 64 f.waitLen, via := none })) := by
  have hy : (f.yielded && f.waitLen != 0) = f.yielded := by simp [hlen]
  simp only [Floe.resume, hsl, if_neg hlen, hy]

theorem exec_sleepDeadline {s : State} {h d : Nat} {f : Floe} (hf : s.floe? h = some f) (hst : f.state = .waiting) (hrun : s.stopped f = false)
    (hw : f.wait = some (.sleep d)) :
    exec (.sleepDeadline h) s = .next (if d ≤ s.coreGt f.core then s.setFloe h (f.resume (s.mck f.core)) else s) := by
  change execSleepDeadline h s = _
  simp [execSleepDeadline, hf, hst, hrun, hw]

/-! ## CONDITION_MET (R137, R150) -/

section
variable {s : State} {h : Nat} {f : Floe} {c : Wait} (hf : s.floe? h = some f) (hrun : s.stopped f = false) (hst : f.state = .waiting)
  (hw : f.wait = some c)
include hf hrun hst hw

theorem exec_conditionMet_early (hc : waitHolds s h f c = false) : exec (.conditionMet h) s = .next s := by
  change execConditionMet h s = _
  simp [execConditionMet, hf, hrun, hst, hw, hc]

/-- The instruction's effect, and the floe goes on: what every wait comes to but the two that `harrive` and `htlb` shut out, by which `simp` takes
the last case of the match. -/
theorem exec_conditionMet_resumes (hc : waitHolds s h f c = true) (harrive : ∀ k lv, c ≠ .arrive k lv true)
    (htlb : ∀ ids i a, c ≠ .ops ids (.tlbinv i a)) :
    exec (.conditionMet h) s = .next ((waitEffect s h f c).modFloe h (fun g => g.resume (s.mck f.core))) := by
  change execConditionMet h s = _
  simp only [execConditionMet, hf, hrun, hst, hw, hc, Bool.not_true, Bool.false_eq_true, if_false]

end

/-- TLBINV drops its translations, and then waits for the accesses that have used them (R399). -/
theorem exec_conditionMet_tlbinv {s : State} {h : Nat} {f : Floe} {ids : List Nat} {i : FWord} {a : Nat} (hf : s.floe? h = some f)
    (hrun : s.stopped f = false) (hst : f.state = .waiting) (hw : f.wait = some (.ops ids (.tlbinv i a)))
    (hc : waitHolds s h f (.ops ids (.tlbinv i a)) = true) :
    exec (.conditionMet h) s = .next ((s.tlbinv f.core f.ctx i a).modFloe h (fun g =>
      if s.tlbUsers f.core f.ctx i a = [] then g.resume (s.mck f.core) else { g with wait := some (.ops (s.tlbUsers f.core f.ctx i a) .used) })) := by
  change execConditionMet h s = _
  simp only [execConditionMet, hf, hrun, hst, hw, hc, waitEffect, Bool.not_true, Bool.false_eq_true, if_false, List.isEmpty_iff]

/-- BARS arrives, and then waits for the release (R356). -/
theorem exec_conditionMet_arrive {s : State} {h : Nat} {f : Floe} {k : Nat} {lv : Bool} (hf : s.floe? h = some f) (hrun : s.stopped f = false)
    (hst : f.state = .waiting) (hw : f.wait = some (.arrive k lv true)) (hc : waitHolds s h f (.arrive k lv true) = true) :
    exec (.conditionMet h) s = .next ((s.arriveAt h f k lv).modFloe h (fun g => { g with wait := some (.barrier k) })) := by
  change execConditionMet h s = _
  simp only [execConditionMet, hf, hrun, hst, hw, hc, waitEffect, Bool.not_true, Bool.false_eq_true, if_false]

/-- A floe that a fault took out of a wait begins it again (log 52). -/
theorem exec_conditionMet_again {s : State} {h : Nat} {f : Floe} {c : Wait} (hf : s.floe? h = some f) (hrun : s.stopped f = false)
    (hst : f.state = .ready) (hw : f.wait = some c) : exec (.conditionMet h) s = .next (s.setFloe h { f with state := .waiting }) := by
  change execConditionMet h s = _
  simp only [execConditionMet, hf, hrun, hst, hw, Bool.false_eq_true, if_false]
  rw [State.modFloe_of_floe hf, hw]

/-! ## FLOE_AGED (R141) -/

theorem exec_floeAged {s : State} {h : Nat} {f : Floe} (hf : s.floe? h = some f) :
    exec (.floeAged h) s = .next (if f.state = .ready ∧ (s.part (partOf f.core)).ageLimit - 16 ≤ (s.mck f.core - f.since) / 1000 then
      s.setFloe h { f with aged := true } else s) := by
  change execFloeAged h s = _
  simp only [execFloeAged, hf]

/-- Settles O27: SLEEP and its deadline, then each way a condition that holds ends a wait, then the age. -/
theorem sleepAndWaits : Obligations.SleepAndWaits := by
  unfold Obligations.SleepAndWaits
  refine ⟨⟨fun w sh e s n h hx hn hpos => exec_sleep_waits h hx hn hpos, fun s h d f sl hf hst hrun hw hsl hlen => ⟨fun hd => ?_, fun hd => ?_⟩⟩,
    fun s h f c hf hrun hst hw => ⟨?_, ?_, ?_, ?_⟩, fun s h f c hf hrun hst hw => exec_conditionMet_again hf hrun hst hw,
    fun s h f hf => ⟨fun hst hage => ?_, fun hage => ?_⟩⟩
  · refine ⟨_, (exec_sleepDeadline hf hst hrun hw).trans (congrArg _ (if_pos hd)), ?_⟩
    rw [Floe.resume_advances hsl hlen]
    exact floeEffect_setFloe ..
  · rw [exec_sleepDeadline hf hst hrun hw, if_neg (Nat.not_le.2 hd)]
  · exact exec_conditionMet_early hf hrun hst hw
  · exact exec_conditionMet_resumes hf hrun hst hw
  · rintro hc ids i a rfl
    exact exec_conditionMet_tlbinv hf hrun hst hw hc
  · rintro hc k lv rfl
    exact exec_conditionMet_arrive hf hrun hst hw hc
  · rw [exec_floeAged hf, if_pos ⟨hst, hage⟩]
  · rw [exec_floeAged hf, if_neg fun hboth => Nat.not_le.2 hage hboth.2]

end Sys2Proof.Machine
end

section
/-! NOP and an empty exec, YIELD, SLEEP of 0, SETROLE, SETMODE and ELECT (R142, R155, R161-R165). -/

namespace Sys2Proof.Machine

/-! ## NOP, and an empty exec (R32, R155) -/

theorem electBody_empty {e : Env} (hx : e.exec = 0) (w : FWord) (sh : Shape) (s : State) : electBody w sh e s = .done s := by
  have hnil : maskLanes e.exec = [] := by rw [hx]; rfl
  rw [electBody, hnil]

/-- The first part of O22. -/
theorem exec_control_advances {i : Instr} {w : FWord} {sh : Shape} {e : Env} {s : State} (h : Issues i w sh e s)
    (hi : i = .nop w ∨ e.exec = 0 ∧ (i = .br w ∨ i = .brx w ∨ i = .jmp w ∨ i = .call w ∨ i = .ret w ∨ i = .exit w ∨ i = .elect w ∨ i = .yield w
      ∨ i = .trap w ∨ i = .brk w ∨ i = .sleep w ∨ i = .svc w ∨ i = .trapret w ∨ i = .setrole w ∨ i = .setmode w)) :
    ∃ t, exec i s = .next t ∧ FloeEffect e.h (e.after w sh s e.f) s t := by
  rcases hi with rfl | ⟨hx, rfl | rfl | rfl | rfl | rfl | rfl | rfl | rfl | rfl | rfl | rfl | rfl | rfl | rfl | rfl⟩
  · exact h.advances (body := nopBody) rfl rfl
  · exact h.advances (exec_br w s) (if_pos hx)
  · exact h.advances (exec_brx w s) (if_pos hx)
  · exact h.advances (exec_jmp w s) (if_pos (.inl hx))
  · exact h.advances (exec_call w s) (if_pos hx)
  · exact h.advances (exec_ret w s) (if_pos hx)
  · exact h.advances (exec_exit w s) (if_pos hx)
  · exact h.advances (body := electBody) rfl (electBody_empty hx w sh s)
  · exact h.advances (body := yieldBody) rfl (if_pos hx)
  · exact h.advances (body := trapBody .software) rfl (if_pos hx)
  · exact h.advances (body := trapBody .breakpoint) rfl (if_pos hx)
  · exact h.advances (body := sleepBody) rfl (if_pos (.inl hx))
  · exact h.advances (body := svcBody) rfl (if_pos hx)
  · exact h.advances (body := trapretBody) rfl (if_pos hx)
  · exact h.advances (body := setroleBody) rfl (if_pos hx)
  · exact h.advances (body := setmodeBody) rfl (if_pos hx)

/-! ## YIELD and SLEEP of 0 (R142, R162, R163) -/

/-- An instruction that gives up the next opportunity, and has taken a free value or none (log 22). -/
theorem Issues.yields {i : Instr} {w : FWord} {sh : Shape} {e : Env} {s : State} (h : Issues i w sh e s)
    {body : FWord → Shape → Env → State → Res} {n : Nat} (hrun : exec i s = Machine.issueF i body s) (hk : body w sh e s = .yield (s.takeFresh n)) :
    ∃ t, exec i s = .next t ∧ FloeAnd e.h (e.afterHint w sh s e.f) s (s.takeFresh n) t :=
  ⟨_, h.exec_of_body hrun hk, floeAnd_retire (u := s.takeFresh n) (latchesOf s e.f w sh) true ⟨rfl, rfl, rfl, rfl⟩ h.floe fun _ _ => rfl⟩

theorem sleepBody_zero {w : FWord} {e : Env} {s : State} (hx : e.exec ≠ 0) (hn : sleepAmount w e s = (0, true)) (sh : Shape) :
    sleepBody w sh e s = .yield (s.takeFresh (sleepTakes w)) := by
  have hgo : ¬ (e.exec = 0 ∨ (sleepAmount w e s).2 = false) := by simpa [hn] using hx
  have hzero : (sleepAmount w e s).1 = 0 := by rw [hn]
  simp only [sleepBody, if_neg hgo, if_pos hzero]
  rfl

/-! ## SETROLE and SETMODE (R164, R165) -/

theorem exec_setrole (w : FWord) (s : State) : exec (.setrole w) s = issueF (.setrole w) setroleBody s := rfl
theorem exec_setmode (w : FWord) (s : State) : exec (.setmode w) s = issueF (.setmode w) setmodeBody s := rfl

theorem setroleBody_sets {e : Env} (hx : e.exec ≠ 0) (w : FWord) (sh : Shape) (s : State) :
    setroleBody w sh e s
      = .done (s.modFloe e.h (fun f => { f with role := if w.m = 0 then .loader else if w.m = 1 then .math else .epilogue })) := by
  have h0 : w.m = 0 ↔ w.m.toNat = 0 := BitVec.toNat_inj.symm
  have h1 : w.m = 1 ↔ w.m.toNat = 1 := BitVec.toNat_inj.symm
  simp only [setroleBody, if_neg hx, h0, h1]
  match w.m.toNat with
  | 0 => rfl
  | 1 => rfl
  | n + 2 => rfl

/-- The three conditions of SETMODE.dmr.full: one path, no entry and no parked lane, and no lane above 15 (R165). -/
def fullAllowed (e : Env) : Prop := (e.f.slot (!e.b)).isNone ∧ e.f.stack = [] ∧ e.f.parked = 0 ∧ e.sl.mask &&& 0xFFFF0000 = 0

theorem setmode_refuses_iff (w : FWord) (e : Env) :
    (w.m.toNat = 1 ∧ ((e.f.slot (!e.b)).isSome ∨ e.f.stack ≠ [] ∨ e.f.parked ≠ 0 ∨ e.sl.mask &&& 0xFFFF0000 ≠ 0)) ↔ w.m = 1 ∧ ¬ fullAllowed e := by
  have h1 : w.m = 1 ↔ w.m.toNat = 1 := BitVec.toNat_inj.symm
  rw [fullAllowed, h1, Option.isNone_iff_eq_none, ← Option.not_isSome_iff_eq_none]
  tauto

theorem setmodeBody_refused {w : FWord} {e : Env} (hx : e.exec ≠ 0) (hr : w.m = 1 ∧ ¬ fullAllowed e) (sh : Shape) (s : State) :
    setmodeBody w sh e s = .trap { cause := .illegalOperands, lanes := e.exec } s :=
  (if_neg hx).trans (if_pos ((setmode_refuses_iff w e).2 hr))

theorem setmodeBody_sets {w : FWord} {e : Env} (hx : e.exec ≠ 0) (ha : w.m ≠ 1 ∨ fullAllowed e) (sh : Shape) (s : State) :
    setmodeBody w sh e s = .done (s.modFloe e.h (fun f => { f with dmr := if w.m = 0 then .off else if w.m = 1 then .full else .idle })) := by
  have h0 : w.m = 0 ↔ w.m.toNat = 0 := BitVec.toNat_inj.symm
  have h1 : w.m = 1 ↔ w.m.toNat = 1 := BitVec.toNat_inj.symm
  have hgo := mt (setmode_refuses_iff w e).1 (by tauto)
  simp only [setmodeBody, if_neg hx, if_neg hgo, h0, h1]
  match w.m.toNat with
  | 0 => rfl
  | 1 => rfl
  | n + 2 => rfl

/-- Settles O22: what each body comes to under its condition. -/
theorem yieldRoleModeAndEmptyExec : Obligations.YieldRoleModeAndEmptyExec := by
  unfold Obligations.YieldRoleModeAndEmptyExec
  refine ⟨fun i w sh e s h hi => exec_control_advances h hi, fun w sh e s hx => ⟨fun h => ?_, fun h hn => ?_, rfl, fun h => ?_, fun h ha => ?_,
    fun x h hctx hl hb hr => ?_⟩⟩
  · obtain ⟨t, hrun, ht⟩ := h.yields (n := 0) (body := yieldBody) rfl (if_neg hx)
    exact ⟨t, hrun, ht.effect⟩
  · exact h.yields (body := sleepBody) rfl (sleepBody_zero hx hn sh)
  · exact h.changes (exec_setrole w s) (setroleBody_sets hx w sh s)
  · exact h.changes (exec_setmode w s) (setmodeBody_sets hx ha sh s)
  · exact h.traps (exec_setmode w s) (setmodeBody_refused hx hr sh s) hctx hl hb Cause.noConfusion

/-! ## ELECT (R161) -/

theorem exec_elect (w : FWord) (s : State) : exec (.elect w) s = issueF (.elect w) electBody s := rfl

/-- A code that names a register names as many as are asked for. -/
theorem codeRegs_length {c : Code} (h : Code.isVec c = true ∨ Code.isUni c = true) (k : Nat) : (codeRegs c k).length = k := by
  unfold codeRegs
  split
  · simp
  · rw [if_pos (h.resolve_left ‹_›)]
    simp

/-- ELECT writes one register: vz is no destination of it (log 37). -/
theorem Issues.elect_writes {w : FWord} {sh : Shape} {e : Env} {s : State} (h : Issues (.elect w) w sh e s) : sh.d.writes.length = 1 := by
  have hok : sh.d.ok = true := by
    have hfields := h.fieldsOk
    simp only [Machine.fieldsOk, Bool.and_eq_true] at hfields
    tauto
  obtain rfl := (Prod.mk.inj (Option.some.inj h.shape)).2
  simp only [shapeCtl, fieldDst, fieldDstG, Allow.ok, Bool.false_eq_true, if_false, Bool.and_eq_true, Bool.or_eq_true] at hok
  exact codeRegs_length hok.1.1 1

/-- The condition word of a lane: whether it is the one chosen. -/
def electWord (l0 l : Nat) : FirnWord := ⟨if l = l0 then 1 else 0, l == l0⟩

/-- A choice of lane `l0` is its number in a uniform D, and each lane's condition word in a vector D. -/
theorem electBody_eq {w : FWord} {sh : Shape} {e : Env} {l0 : Nat} {rest : List Nat} (hl : maskLanes e.exec = l0 :: rest)
    (hd : sh.d.writes.length = 1) (s : State) :
    electBody w sh e s = .done (putLanes e.f sh.d.writes (if Code.isUni w.d then [(l0, some (wordsOf 1 l0))]
      else (maskLanes e.exec).map (fun l => (l, some [electWord l0 l]))) s) := by
  simp only [electBody, hl]
  split
  · have hput := writeLanes_putLanes e.f sh.d.writes [(l0, some l0)] s
    rw [hd] at hput
    exact congrArg Res.done hput
  · simp only [putLanes, List.foldl_map, foldl_wrReg_putLane, hd]
    rfl

/-- Settles O26: the one lane of a uniform D, or every lane of exec. -/
theorem electChoosesLowestLane : Obligations.ElectChoosesLowestLane := by
  unfold Obligations.ElectChoosesLowestLane
  intro w sh e s l0 rest h hl
  refine exec_putLanes_effect h (exec_elect w s) ?_ (electBody_eq hl h.elect_writes s)
  cases hu : Code.isUni w.d with
  | true =>
    have hlt : l0 < 32 := maskLanes_lt (m := e.exec) (by simp [hl])
    exact h.laneList_map (ls := [l0]) (g := fun _ => some (wordsOf 1 l0)) (by simp) (by simpa using hlt) (by simp)
      (by simp [h.elect_writes, wordsOf])
  | false =>
    exact h.laneList_map (maskLanes_sorted _) (fun _ => maskLanes_lt) (by simp [hu]) (by simp [h.elect_writes])

end Sys2Proof.Machine
end

section
/-! SUPPORT. The ends of an issue that was not ready or stalled, and the issue of a lane transfer or atomic: one counted operation in flight, with the
order it takes (R166, R170, R174, R191, R225, R227, R230, R240). -/

namespace Sys2Proof.Machine

/-! ## An issue that stalls (R137, R174) -/

section
variable {i : Instr} {w : FWord} {sh : Shape} {e : Env} {s u : State} {g : Floe}

/-- A body left `u`, with its floe `g`, and the instruction issues again. -/
theorem floeAnd_stall (la : List (Option Latch)) (y : Bool) (hu : u.floe? e.h = some g) (ho : OtherFloes e.h s u) :
    FloeAnd e.h (e.unready g) s { u with floes := s.floes } (State.retire e la y (.stall u)) where
  floe := by simp [State.retire, hu, Env.unready]
  others := otherFloes_modFloe ho _
  rest := by rw [State.retire, State.modFloe_eq]

/-- An instruction that is not ready changes its own floe alone. -/
theorem Issues.unready (h : Issues i w sh e s) {body : FWord → Shape → Env → State → Res} (hrun : exec i s = Machine.issueF i body s)
    (hk : body w sh e s = .stall s) : ∃ t, exec i s = .next t ∧ FloeEffect e.h (e.unready e.f) s t :=
  ⟨_, h.exec_of_body hrun hk, (floeAnd_stall _ _ h.floe (.refl e.h s)).effect⟩

/-- One that its floe waits to issue again changes its own floe alone, too. -/
theorem Issues.stalls (h : Issues i w sh e s) {body : FWord → Shape → Env → State → Res} {c : Wait} (hrun : exec i s = Machine.issueF i body s)
    (hk : body w sh e s = .stall (s.waitOn e.h c)) : ∃ t, exec i s = .next t ∧ FloeEffect e.h (e.stalled c s e.f) s t := by
  have ha := floeAnd_stall (latchesOf s e.f w sh) (hintYields w sh) (State.waitOn_floe h.floe c) (otherFloes_modFloe (.refl e.h s) _)
  have hu : { s.waitOn e.h c with floes := s.floes } = s := by rw [State.waitOn, State.modFloe_eq]
  rw [hu] at ha
  exact ⟨_, h.exec_of_body hrun hk, ha.effect⟩

end

/-! ## The order of a new operation (R225, R227, R230) -/

/-- What an operation before it is in the order of a new one: an acquire not yet performed, or anything that a release covers (R227). -/
theorem mem_afterOf {s : State} {h i : Nat} {rel : Bool} {f : Floe} (hf : s.floe? h = some f) :
    i ∈ s.afterOf h rel ↔ (∃ p, (i, p) ∈ s.ops ∧ p.floe = h ∧ (rel = true ∨ (p.acq = true ∧ 2 ≤ p.scope)))
      ∨ (rel = true ∧ i ∈ f.seen ∧ (Table.find? s.ops i).isSome = true) := by
  have hkeys : i ∈ Table.keys (Table.keep s.ops (fun _ o => o.floe == h && (rel || (o.acq && decide (2 ≤ o.scope)))))
      ↔ ∃ p, (i, p) ∈ s.ops ∧ p.floe = h ∧ (rel = true ∨ (p.acq = true ∧ 2 ≤ p.scope)) := by
    simp [Table.keys, Table.keep]
  cases rel with
  | false => simpa [State.afterOf] using hkeys
  | true => simpa [State.afterOf, hf] using or_congr_left hkeys

/-- The order is all that `ordered` gives an operation. -/
theorem Op.ordered_made (o : Op) (s : State) (h id : Nat) (p : Op) (ha : p.acq = o.acq) (hr : p.rel = o.rel) (hs : p.scope = o.scope) (hf : p.after = o.after) :
    { o.ordered s h id with acq := p.acq, rel := p.rel, scope := p.scope, after := p.after } = o := by
  rw [ha, hr, hs, hf]
  simp only [Op.ordered]
  split
  · rfl
  · split <;> rfl

/-- Its floe, its counters and its lanes are as they were. -/
theorem Op.ordered_kept (o : Op) (s : State) (h id : Nat) : (o.ordered s h id).floe = o.floe ∧ (o.ordered s h id).counted = o.counted
    ∧ (o.ordered s h id).isSt = o.isSt ∧ (o.ordered s h id).ac = o.ac ∧ (o.ordered s h id).lanes = o.lanes := by
  simp only [Op.ordered]
  split
  · exact ⟨rfl, rfl, rfl, rfl, rfl⟩
  · split <;> exact ⟨rfl, rfl, rfl, rfl, rfl⟩

/-- Acquire, release and scope of an operation: those of a STRONG page, or its own, at DIE at most where it is all in firn (R225, R230). -/
theorem Op.ordered_order (o : Op) (s : State) (h id : Nat) :
    if reachesStrong s o then (o.ordered s h id).acq = true ∧ (o.ordered s h id).rel = true ∧ (o.ordered s h id).scope = 7
    else (o.ordered s h id).acq = o.acq ∧ (o.ordered s h id).rel = o.rel
      ∧ (o.ordered s h id).scope = if o.lanes ≠ [] ∧ ∀ la ∈ o.lanes, inFirn la.va = true then min o.scope 4 else o.scope := by
  by_cases hstrong : reachesStrong s o = true
  · simp [Op.ordered, hstrong]
  · rw [if_neg hstrong]
    have hfirn : (!o.lanes.isEmpty && o.lanes.all (fun la => inFirn la.va)) = true ↔ o.lanes ≠ [] ∧ ∀ la ∈ o.lanes, inFirn la.va = true := by simp
    simp only [Op.ordered, if_neg hstrong, ← hfirn]
    split <;> exact ⟨rfl, rfl, rfl⟩

/-- Of the operations before it, a new one comes after those that its order names. -/
theorem Op.mem_ordered_after {o : Op} {s : State} {h id i : Nat} {f : Floe} (hf : s.floe? h = some f) (hi : i < id) :
    i ∈ (o.ordered s h id).after ↔ (∃ p, (i, p) ∈ s.ops ∧ p.floe = h
        ∧ (((o.ordered s h id).rel = true ∧ 2 ≤ (o.ordered s h id).scope) ∨ (p.acq = true ∧ 2 ≤ p.scope)))
      ∨ ((o.ordered s h id).rel = true ∧ 2 ≤ (o.ordered s h id).scope ∧ i ∈ f.seen ∧ (Table.find? s.ops i).isSome = true) := by
  have hafter : (o.ordered s h id).after = (s.afterOf h ((o.ordered s h id).rel && decide (2 ≤ (o.ordered s h id).scope))).filter
      (fun j => decide (j < id) || !(match Table.find? s.ops j with | some q => q.floe == h | none => false)) := rfl
  rw [hafter, List.mem_filter, mem_afterOf hf]
  simp [hi, and_assoc]

/-! ## An operation put in flight (R166, R174) -/

/-- A floe with one more operation outstanding. -/
def opIssuedFloe (o : Op) (f : Floe) : Floe :=
  let c := if o.isSt then { f with st := f.st + 1 } else { f with ld := f.ld + 1 }
  match o.ac with | some k => c.acIssue k | none => c

theorem State.addOp_eq {s : State} {o : Op} (hc : o.counted = true) :
    s.addOp o = State.modFloe { s with nextId := s.nextId + 1, ops := Table.insert s.ops s.nextId o } o.floe (opIssuedFloe o) := by
  simp only [State.addOp, State.takeId, hc, if_true]
  rfl

/-- What an issue that goes through leaves: operation `o1` with its order, counted, its requests to other devices sent. -/
def issuedState (s : State) (h : Nat) (o1 : Op) : State :=
  sendRemote (s.addOp (o1.ordered s h s.nextId)) s.nextId (o1.ordered s h s.nextId)

/-- Whether the operation has a lane: of the transfers only STC, which takes the valid lanes, can have none (R179). -/
def Op.idle (o : Op) (lanes : List LaneAcc) : Bool := match o.kind with | .compress _ => lanes.isEmpty | _ => false

/-- Whether the arrival counter that the operation counts in can take no more (R174). -/
def Op.acFull (o : Op) (f : Floe) : Bool := match o.ac with | some k => decide (255 ≤ (f.ac k).out) | none => false

section
variable {o : Op} {e : Env} {s : State}

/-- The issue of lanes, its conditions by their names. -/
theorem issueLanes_eq (o : Op) (e : Env) (s : State) : issueLanes o e s = if e.exec = 0 then .done s else if e.f.classFull o then .stall s
    else if o.acFull e.f then .stall (s.waitOn e.h (.acFull (o.ac.getD 0))) else if o.idle (opLanes s e.f o e.exec).1 then .done s
    else if lockHolds s e.h (withLanes s e o) then .stall s else .done (issuedState s e.h (withLanes s e o)) := rfl

theorem issueLanes_empty (hx : e.exec = 0) : issueLanes o e s = .done s := by rw [issueLanes_eq, if_pos hx]

theorem issueLanes_full (hx : e.exec ≠ 0) (hc : o.counted = true) (hfull : 1023 ≤ (if o.isSt then e.f.st else e.f.ld)) : issueLanes o e s = .stall s := by
  have hclass : e.f.classFull o = true := by simp only [Floe.classFull, hc, hfull, decide_true, Bool.and_self]
  rw [issueLanes_eq, if_neg hx, if_pos hclass]

/-- The class counter has room. -/
theorem classFull_of_lt (hroom : (if o.isSt then e.f.st else e.f.ld) < 1023) : ¬ e.f.classFull o = true := by
  simp only [Floe.classFull, decide_eq_false (Nat.not_le.2 hroom), Bool.and_false, Bool.false_eq_true, not_false_eq_true]

theorem issueLanes_acFull (hx : e.exec ≠ 0) (hroom : (if o.isSt then e.f.st else e.f.ld) < 1023) {k : Nat} (hk : o.ac = some k)
    (hac : 255 ≤ (e.f.ac k).out) : issueLanes o e s = .stall (s.waitOn e.h (.acFull k)) := by
  have hfull : o.acFull e.f = true := by simpa [Op.acFull, hk] using hac
  rw [issueLanes_eq, if_neg hx, if_neg (classFull_of_lt hroom), if_pos hfull, hk]
  rfl

/-- With room in the counters an issue has nothing to store, or is held by the lock of a migration, or puts its operation in flight. -/
theorem issueLanes_room (hx : e.exec ≠ 0) (hroom : (if o.isSt then e.f.st else e.f.ld) < 1023) (hac : ∀ k, o.ac = some k → (e.f.ac k).out < 255) :
    issueLanes o e s = if o.idle (opLanes s e.f o e.exec).1 then .done s
      else if lockHolds s e.h (withLanes s e o) then .stall s else .done (issuedState s e.h (withLanes s e o)) := by
  have hfree : ¬ o.acFull e.f = true := by
    unfold Op.acFull
    split
    · next k hk => simpa using hac k hk
    · simp
  rw [issueLanes_eq, if_neg hx, if_neg (classFull_of_lt hroom), if_neg hfree]

end

/-- An operation of the issuing floe whose order is not set yet, as the transfers' bodies make it. -/
structure Op.Fresh (o : Op) (e : Env) : Prop where
  floe : o.floe = e.h
  counted : o.counted = true

/-- The operation in flight under the next number, and the floe's counters with it. -/
def placedState (s : State) (h : Nat) (o q : Op) : State :=
  State.modFloe { s with nextId := s.nextId + 1, ops := Table.insert s.ops s.nextId q } h (opIssuedFloe o)

theorem placedState_eq (s : State) (h : Nat) (o q : Op) : placedState s h o q
    = { s with nextId := s.nextId + 1, ops := Table.insert s.ops s.nextId q, floes := (placedState s h o q).floes } := by
  rw [placedState, State.modFloe_eq]

/-- Besides messages to other devices, an issue does no more than place its operation. -/
theorem issuedState_eq {s : State} {e : Env} {o : Op} (ho : o.Fresh e) : issuedState s e.h (withLanes s e o)
    = { placedState s e.h o ((withLanes s e o).ordered s e.h s.nextId) with net := (issuedState s e.h (withLanes s e o)).net } := by
  obtain ⟨hfloe, hcounted, hst, hac, -⟩ := Op.ordered_kept (withLanes s e o) s e.h s.nextId
  generalize hq : (withLanes s e o).ordered s e.h s.nextId = q at hfloe hcounted hst hac ⊢
  have hsame : opIssuedFloe q = opIssuedFloe o := by
    funext f
    simp only [opIssuedFloe, hst, hac]
    rfl
  rw [issuedState, hq, sendRemote_eq, State.addOp_eq (hcounted.trans ho.counted), hfloe.trans ho.floe, hsame, placedState]

/-- The issue of an operation that has a lane, with room in its counters and no lock in its way. -/
theorem opIssued_retire {i : Instr} {w : FWord} {sh : Shape} {e : Env} {s : State} {o : Op} (h : Issues i w sh e s) (ho : o.Fresh e) :
    OpIssued o ((withLanes s e o).ordered s e.h s.nextId) w sh e s
      (State.retire e (latchesOf s e.f w sh) (hintYields w sh) (.done (issuedState s e.h (withLanes s e o)))) := by
  have hmade := Op.ordered_made (withLanes s e o) s e.h s.nextId o rfl rfl rfl rfl
  have horder := Op.ordered_order (withLanes s e o) s e.h s.nextId
  obtain ⟨-, -, -, -, hlanes⟩ := Op.ordered_kept (withLanes s e o) s e.h s.nextId
  rw [← hlanes] at horder
  have hafter (j : Nat) := Op.mem_ordered_after (o := withLanes s e o) (id := s.nextId) (i := j) h.floe
  have hsent := issuedState_eq (s := s) ho
  clear hlanes
  generalize (withLanes s e o).ordered s e.h s.nextId = q at hmade horder hafter hsent ⊢
  have hplaced := placedState_eq s e.h o q
  generalize issuedState s e.h (withLanes s e o) = u at hsent ⊢
  have hfloes : u.floes = (placedState s e.h o q).floes := by rw [hsent]
  have hall : u = { s with nextId := s.nextId + 1, ops := Table.insert s.ops s.nextId q, floes := u.floes, net := u.net } := by rw [hsent, hplaced]
  have hret := retire_done_eq e (latchesOf s e.f w sh) (hintYields w sh) u
  have hops : u.ops = Table.insert s.ops s.nextId q := by rw [hall]
  have hothers : OtherFloes e.h s u := fun k hk => (State.floe?_of_floes hfloes k).trans (State.floe?_modFloe_ne _ _ hk)
  have hfloe : u.floe? e.h = some (opIssuedFloe o e.f) := by
    have hf : State.floe? { s with nextId := s.nextId + 1, ops := Table.insert s.ops s.nextId q } e.h = some e.f := h.floe
    rw [State.floe?_of_floes hfloes, placedState, State.floe?_modFloe_same, hf]
    rfl
  exact {
    inFlight := by rw [hret, hops]; exact Table.find?_insert_same ..
    made := hmade
    order := horder
    after := fun j hj => hafter j hj
    ops := fun k hk => by rw [hret, hops]; exact Table.find?_insert_ne _ _ hk
    next := by rw [hret, hall]
    regs := by rw [hret, hall]
    floe := retire_done_after (by rw [hall]; exact ⟨rfl, rfl, rfl, rfl⟩) hfloe
    others := retire_done_others hothers
    mem := fun a => by rw [hret, hall]
    rest := by rw [hret, hall] }

/-! ## What an issue of lanes comes to -/

section
variable {i : Instr} {w : FWord} {sh : Shape} {e : Env} {s : State} {o : Op} {body : FWord → Shape → Env → State → Res}

/-- With room and lanes, one operation is in flight. -/
theorem Issues.putsInFlight (h : Issues i w sh e s) (hrun : exec i s = Machine.issueF i body s) (hk : body w sh e s = issueLanes o e s)
    (ho : o.Fresh e) (hx : e.exec ≠ 0) (hroom : (if o.isSt then e.f.st else e.f.ld) < 1023) (hac : ∀ k, o.ac = some k → (e.f.ac k).out < 255)
    (hidle : o.idle (opLanes s e.f o e.exec).1 = false) (hlock : lockHolds s e.h (withLanes s e o) = false) :
    ∃ t q, exec i s = .next t ∧ OpIssued o q w sh e s t := by
  rw [issueLanes_room hx hroom hac, hidle, hlock] at hk
  exact ⟨_, _, h.exec_of_body hrun hk, opIssued_retire h ho⟩

end

end Sys2Proof.Machine
end

section
/-! SUPPORT. What the memory system's own operations leave alone: everything but the memory system and what the cores hold; and those of them that write
no byte and no seal (R196-R208, R237, R393-R396, R409). -/

namespace Sys2Proof.Machine

/-- From `s` to `t` nothing differs but the cores and what is kept of memory beside its bytes and seals: directory, copies, leases, marks, poison. -/
def CachesOnly (s t : State) : Prop :=
  t = { s with cores := t.cores, ms := { s.ms with dir := t.ms.dir, l2 := t.ms.l2, slice := t.ms.slice, marks := t.ms.marks, poison := t.ms.poison } }

/-- From `s` to `t` nothing differs but the cores and the memory system, and there no line is pinned or freed. -/
def MemoryOnly (s t : State) : Prop := t = { s with cores := t.cores, ms := { t.ms with pins := s.ms.pins } }

namespace CachesOnly

theorem refl (s : State) : CachesOnly s s := rfl

theorem trans {s t u : State} (h : CachesOnly s t) (k : CachesOnly t u) : CachesOnly s u := by
  rw [CachesOnly, k, h]

theorem foldl {α : Type} {g : State → α → State} (h : ∀ s a, CachesOnly s (g s a)) (l : List α) (s : State) : CachesOnly s (l.foldl g s) :=
  List.foldlRecOn l g (motive := CachesOnly s) (refl s) fun t ht a _ => ht.trans (h t a)

section
variable {s t u : State}

theorem ite {c : Prop} [Decidable c] (ht : CachesOnly s t) (hu : CachesOnly s u) : CachesOnly s (if c then t else u) := by
  split
  · exact ht
  · exact hu

theorem memoryOnly (h : CachesOnly s t) : MemoryOnly s t := by
  rw [MemoryOnly, h]

theorem byte (h : CachesOnly s t) (a : Nat) : t.ms.byte a = s.ms.byte a := by
  rw [h]
  rfl

theorem sealMeta (h : CachesOnly s t) (blk : Nat) : t.sealMeta blk = s.sealMeta blk := by
  rw [h]
  rfl

end

end CachesOnly

namespace MemoryOnly

theorem refl (s : State) : MemoryOnly s s := rfl

theorem trans {s t u : State} (h : MemoryOnly s t) (k : MemoryOnly t u) : MemoryOnly s u := by
  rw [MemoryOnly, k, h]

theorem foldl {α : Type} {g : State → α → State} (h : ∀ s a, MemoryOnly s (g s a)) (l : List α) (s : State) : MemoryOnly s (l.foldl g s) :=
  List.foldlRecOn l g (motive := MemoryOnly s) (refl s) fun t ht a _ => ht.trans (h t a)

section
variable {s t u : State}

theorem firn (h : MemoryOnly s t) : t.firn = s.firn := by rw [h]
theorem floes (h : MemoryOnly s t) : t.floes = s.floes := by rw [h]
theorem ops (h : MemoryOnly s t) : t.ops = s.ops := by rw [h]
theorem copies (h : MemoryOnly s t) : t.copies = s.copies := by rw [h]
theorem ctxs (h : MemoryOnly s t) : t.ctxs = s.ctxs := by rw [h]

end

end MemoryOnly

theorem cachesOnly_modCore (s : State) (c : Nat) (g : Core → Core) : CachesOnly s (s.modCore c g) := rfl
theorem cachesOnly_setDir (s : State) (line : Nat) (d : DirEntry) : CachesOnly s (s.setDir line d) := rfl
theorem cachesOnly_l2Install (s : State) (die line : Nat) (sp : Span) : CachesOnly s (s.l2Install die line sp) := rfl
theorem cachesOnly_exclReturn (s : State) (core pa n : Nat) : CachesOnly s (s.exclReturn core pa n) := rfl
theorem cachesOnly_mark (s : State) (pa : Nat) : CachesOnly s (s.mark pa) := rfl

/-! ## L1, marks and poison (R196, R199, R200, R206, R409) -/

theorem cachesOnly_l1Fill (s : State) (core ctx : Nat) (e : Pte) (pa n : Nat) (held : Bool) : CachesOnly s (s.l1Fill core ctx e pa n held) := by
  have hfit (u : State) : CachesOnly u (u.l1Fit core) := .ite (.refl u) (cachesOnly_modCore ..)
  simp only [State.l1Fill]
  refine .ite (.refl s) (CachesOnly.trans ?_ (hfit _))
  exact rfl

theorem cachesOnly_l1Update (s : State) (core ctx pa : Nat) (v : Byte) : CachesOnly s (s.l1Update core ctx pa v) := by
  simp only [State.l1Update]
  split
  · exact .ite (cachesOnly_modCore ..) (.refl s)
  · exact .refl s

theorem cachesOnly_markWords (s : State) (once : Bool) (pa n : Nat) : CachesOnly s (s.markWords once pa n) :=
  .ite (.foldl (fun t _ => cachesOnly_mark t _) _ s) (.ite (.refl s) rfl)

theorem cachesOnly_unpoison (s : State) (pas : List Nat) : CachesOnly s (s.unpoison pas) := .ite (.refl s) rfl

/-! ## The directory and copies in L2 (R203, R207) -/

theorem cachesOnly_l2Drop (s : State) (die line : Nat) (sp : Span) : CachesOnly s (s.l2Drop die line sp) := by
  simp only [State.l2Drop]
  split <;> rfl

theorem cachesOnly_l2Update (s : State) (die line : Nat) (bytes : List (Nat × Byte)) : CachesOnly s (s.l2Update die line bytes) := by
  simp only [State.l2Update]
  split <;> rfl

theorem cachesOnly_evict (s : State) (die line : Nat) : CachesOnly s (s.evict die line) :=
  .ite (.refl s) ((CachesOnly.ite (.refl s) (cachesOnly_setDir ..)).trans (cachesOnly_l2Drop ..))

theorem cachesOnly_l2Take (s : State) (die line : Nat) (sp : Span) : CachesOnly s (s.l2Take die line sp) :=
  (CachesOnly.ite (cachesOnly_evict ..) (.refl s)).trans (cachesOnly_l2Install ..)

theorem cachesOnly_dieRead (s : State) (die : Nat) (p : Phys) (sp : Span) : CachesOnly s (s.dieRead die p sp) :=
  .ite (.refl s) (.ite (cachesOnly_setDir ..) (.ite ((cachesOnly_setDir ..).trans (cachesOnly_l2Take ..)) (cachesOnly_setDir ..)))

theorem cachesOnly_dirEngine (s : State) (m die : Nat) (p : Phys) (sp : Span) (bytes : List (Nat × Byte)) :
    CachesOnly s (s.dirEngine m die p sp bytes) := by
  unfold State.dirEngine
  lift_lets
  extract_lets line free r0 s1 r mine d s2
  have hfree (t : State) : CachesOnly t (free t) := by
    dsimp only [free]
    split
    · exact .ite (.refl t) ((cachesOnly_setDir ..).trans (cachesOnly_l2Drop ..))
    · exact .refl t
  have hcalled : CachesOnly s s1 := .ite (hfree s) (.refl s)
  refine .ite (.refl s) (.ite hcalled ((hcalled.trans (cachesOnly_setDir ..)).trans (.foldl (fun t x => ?_) _ s2)))
  split
  · exact cachesOnly_l2Drop ..
  · exact cachesOnly_l2Update ..
  · exact .refl t

/-! ## Bytes written (R200, R204, R237, R394, R396) -/

theorem memoryOnly_setSeal (s : State) (blk : Nat) (m : SealMeta) : MemoryOnly s (s.setSeal blk m) := rfl

theorem Ms.setBytes_pins (bs : List Byte) (m : Ms) (pa : Nat) : (m.setBytes pa bs).pins = m.pins := by
  induction bs generalizing m pa with
  | nil => rfl
  | cons b t ih => exact ih (m.setByte pa b) (pa + 1)

theorem memoryOnly_setBytes (s : State) (pa : Nat) (bs : List Byte) : MemoryOnly s { s with ms := s.ms.setBytes pa bs } := by
  rw [MemoryOnly, ← Ms.setBytes_pins bs s.ms pa]

theorem memoryOnly_sealPrepare (s : State) (ctx : Nat) (e : Pte) (pa : Nat) : MemoryOnly s (sealPrepare s ctx e pa) := by
  simp only [sealPrepare]
  split
  · split
    · split <;> rfl
    · exact .refl s
  · split
    · exact (memoryOnly_setBytes ..).trans (memoryOnly_setSeal ..)
    · exact .refl s

theorem memoryOnly_homeByte (s : State) (core ctx : Nat) (e : Pte) (pa : Nat) (v : Byte) : MemoryOnly s (s.homeByte core ctx e pa v) := by
  have hset : MemoryOnly (sealPrepare s ctx e pa) { sealPrepare s ctx e pa with ms := (sealPrepare s ctx e pa).ms.setByte pa v } := rfl
  refine ((memoryOnly_sealPrepare ..).trans hset).trans ?_
  simp only [State.homeByte]
  split
  · split <;> rfl
  · rfl

theorem memoryOnly_writeByte (s : State) (core ctx : Nat) (e : Pte) (pa : Nat) (v : Byte) : MemoryOnly s (s.writeByte core ctx e pa v) :=
  (memoryOnly_homeByte ..).trans (cachesOnly_l1Update ..).memoryOnly

theorem memoryOnly_engineByte (s : State) (m core ctx : Nat) (e : Pte) (pa : Nat) (v : Byte) : MemoryOnly s (s.engineByte m core ctx e pa v) := by
  have hdir : MemoryOnly s ((s.dirEngine m (coreDie core) ⟨pa, e⟩ ⟨pa % 256 / 4, 1⟩ [(pa % 256, v)]).exclReturn core pa 1) :=
    ((cachesOnly_dirEngine ..).trans (cachesOnly_exclReturn ..)).memoryOnly
  have hl2 (t : State) (l2 : Table (Table Byte)) : MemoryOnly t { t with ms := { t.ms with l2 := l2 } } := rfl
  simp only [State.engineByte]
  exact (hdir.trans (memoryOnly_writeByte ..)).trans (hl2 ..)

end Sys2Proof.Machine
end

section
/-! The issue of the lane transfers and atomics, the lanes of a load and a store, the firn of another core, and prefetches (R166-R174, R189-R192, R216,
R240). -/

namespace Sys2Proof.Machine

/-! ## The transfers by their operations -/

/-- A lane transfer or atomic issues the lanes of its operation; of the kinds that can have none only STC's is among them, from its first lane. -/
structure IssuesLanes (i : Instr) (w : FWord) (sh : Shape) (o : Op) (e : Env) (s : State) : Prop where
  run : ∃ body : FWord → Shape → Env → State → Res, exec i s = issueF i body s ∧ body w sh e s = issueLanes o e s
  fresh : o.Fresh e
  compress : ∀ k, o.kind = .compress k → k = 0

theorem memInstrs_issueLanes {p : (FWord → Instr) × (FWord → Shape → Env → State → Op)} (hp : p ∈ memInstrs) (w : FWord) (sh : Shape) (e : Env)
    (s : State) : IssuesLanes (p.1 w) w sh (p.2 w sh e s) e s := by
  simp only [memInstrs, List.mem_cons, List.not_mem_nil, or_false] at hp
  rcases hp with rfl | rfl | rfl | rfl | rfl | rfl | rfl | rfl | rfl | rfl | rfl | rfl | rfl <;>
    exact ⟨⟨_, rfl, rfl⟩, ⟨rfl, rfl⟩, fun k hk => by cases hk <;> rfl⟩

section
variable {i : Instr} {w : FWord} {sh : Shape} {e : Env} {s : State} {o : Op}

/-- Only an STC without a valid lane has nothing to do. -/
theorem IssuesLanes.idle_iff (hi : IssuesLanes i w sh o e s) (lanes : List LaneAcc) : o.idle lanes = true ↔ o.kind = .compress 0 ∧ lanes = [] := by
  unfold Op.idle
  split
  · next k hk => simp [hk, hi.compress k hk]
  · next hk => exact iff_of_false Bool.false_ne_true fun h0 => hk 0 h0.1

/-- An empty exec only advances. -/
theorem IssuesLanes.advances (hi : IssuesLanes i w sh o e s) (h : Issues i w sh e s) (hx : e.exec = 0) :
    ∃ t, exec i s = .next t ∧ FloeEffect e.h (e.after w sh s e.f) s t := by
  obtain ⟨body, hrun, hk⟩ := hi.run
  exact h.advances hrun (hk.trans (issueLanes_empty hx))

/-- With room in its counters and no lock in its way, the operation is in flight. -/
theorem IssuesLanes.goes (hi : IssuesLanes i w sh o e s) (h : Issues i w sh e s) (hx : e.exec ≠ 0) (hroom : (if o.isSt then e.f.st else e.f.ld) < 1023)
    (hac : ∀ k, o.ac = some k → (e.f.ac k).out < 255) (hlock : lockHolds s e.h (withLanes s e o) = false)
    (hlanes : ¬ (o.kind = .compress 0 ∧ (opLanes s e.f o e.exec).1 = [])) : ∃ t q, exec i s = .next t ∧ OpIssued o q w sh e s t := by
  obtain ⟨body, hrun, hk⟩ := hi.run
  refine h.putsInFlight hrun hk hi.fresh hx hroom hac ?_ hlock
  simpa using mt (hi.idle_iff _).1 hlanes

/-- STC with no valid lane stores nothing. -/
theorem IssuesLanes.idles (hi : IssuesLanes i w sh o e s) (h : Issues i w sh e s) (hx : e.exec ≠ 0) (hroom : (if o.isSt then e.f.st else e.f.ld) < 1023)
    (hac : o.ac = none) (hk0 : o.kind = .compress 0) (hlanes : (opLanes s e.f o e.exec).1 = []) :
    ∃ t, exec i s = .next t ∧ FloeEffect e.h (e.after w sh s e.f) s t := by
  obtain ⟨body, hrun, hk⟩ := hi.run
  rw [issueLanes_room hx hroom (by simp [hac]), (hi.idle_iff _).2 ⟨hk0, hlanes⟩] at hk
  exact h.advances hrun hk

/-- A full class counter, and the lock of a migration, leave it not ready. -/
theorem IssuesLanes.waitsForClass (hi : IssuesLanes i w sh o e s) (h : Issues i w sh e s) (hx : e.exec ≠ 0)
    (hfull : 1023 ≤ (if o.isSt then e.f.st else e.f.ld)) : ∃ t, exec i s = .next t ∧ FloeEffect e.h (e.unready e.f) s t := by
  obtain ⟨body, hrun, hk⟩ := hi.run
  exact h.unready hrun (hk.trans (issueLanes_full hx hi.fresh.counted hfull))

theorem IssuesLanes.waitsForLock (hi : IssuesLanes i w sh o e s) (h : Issues i w sh e s) (hx : e.exec ≠ 0)
    (hroom : (if o.isSt then e.f.st else e.f.ld) < 1023) (hac : o.ac = none) (hk0 : o.kind ≠ .compress 0)
    (hlock : lockHolds s e.h (withLanes s e o) = true) : ∃ t, exec i s = .next t ∧ FloeEffect e.h (e.unready e.f) s t := by
  obtain ⟨body, hrun, hk⟩ := hi.run
  have hidle : ¬ o.idle (opLanes s e.f o e.exec).1 = true := fun hidle => hk0 ((hi.idle_iff _).1 hidle).1
  rw [issueLanes_room hx hroom (by simp [hac]), if_neg hidle, if_pos hlock] at hk
  exact h.unready hrun hk

/-- A full arrival counter holds the floe. -/
theorem IssuesLanes.waitsForCounter (hi : IssuesLanes i w sh o e s) (h : Issues i w sh e s) (hx : e.exec ≠ 0)
    (hroom : (if o.isSt then e.f.st else e.f.ld) < 1023) {k : Nat} (hac : o.ac = some k) (hfull : 255 ≤ (e.f.ac k).out) :
    ∃ t, exec i s = .next t ∧ FloeEffect e.h (e.stalled (.acFull k) s e.f) s t := by
  obtain ⟨body, hrun, hk⟩ := hi.run
  exact h.stalls hrun (hk.trans (issueLanes_acFull hx hroom hac hfull))

end

/-! ## The lanes of a load and of a store (R168, R170, R190) -/

/-- A lane's access, where its address is known: a load's, or a store's of valid data or to firn. -/
def plainAcc (s : State) (f : Floe) (o : Op) (l : Nat) (va : Dword) : Option LaneAcc :=
  if o.kind = .store then
    (if (rdOp s f l o.word.d (accWords o.size)).2 || inFirn va then
      some (newAcc l va (rdOp s f l o.word.d (accWords o.size)).1 0 (rdOp s f l o.word.d (accWords o.size)).2) else none)
  else some (newAcc l va 0 0 true)

theorem plainAcc_lane {s : State} {f : Floe} {o : Op} {l : Nat} {va : Dword} {la : LaneAcc} (h : plainAcc s f o l va = some la) : la.lane = l := by
  unfold plainAcc at h
  split at h
  · split at h
    · cases h; rfl
    · cases h
  · cases h; rfl

section
variable {s : State} {f : Floe} {o : Op} {exec : Mask}

/-- The lanes of a load or a store are those of exec with an address and an access. -/
theorem mem_opLanes (hu : o.uniform = false) (hk : o.kind = .load ∨ o.kind = .store) {la : LaneAcc} :
    la ∈ (opLanes s f o exec).1 ↔ ∃ l ∈ maskLanes exec, (laneAddr s f o.word o.size o.off l).bind (plainAcc s f o l) = some la := by
  have heq : (opLanes s f o exec).1 = ((maskLanes exec).map (fun l => (l, (laneAddr s f o.word o.size o.off l).bind (plainAcc s f o l)))).filterMap
      Prod.snd := by
    unfold opLanes plainAcc
    rcases hk with hk | hk <;> simp [hk, hu]
  simp [heq]

/-- The address of a lane whose base and index are valid. -/
theorem laneAddr_valid {w : FWord} {size : Nat} {off : Int} {l : Nat} (ha : (rdOp s f l w.a 2).2 = true) (hb : w.b = 0xFF ∨ (rdOp s f l w.b 1).2 = true) :
    laneAddr s f w size off l = some (BitVec.ofInt 64 (((rdOp s f l w.a 2).1 : Int)
      + (if w.b = 0xFF then 0 else (BitVec.ofNat 32 (rdOp s f l w.b 1).1).toInt) * size + off)) := by
  by_cases hvz : w.b = 0xFF
  · simp [laneAddr, hvz, ha]
  · have hb' : (rdOp s f l w.b 1).2 = true := hb.resolve_left hvz
    simp only [laneAddr, if_neg hvz, ha, hb', Bool.and_self, if_true]

/-- A lane of exec with an address has the access that goes there, and no other lane has its number. -/
theorem mem_opLanes_of_addr (hu : o.uniform = false) (hk : o.kind = .load ∨ o.kind = .store) {l : Nat} {va : Dword} (hl : l ∈ maskLanes exec)
    (hva : laneAddr s f o.word o.size o.off l = some va) {la : LaneAcc} :
    (la ∈ (opLanes s f o exec).1 ∧ la.lane = l) ↔ plainAcc s f o l va = some la := by
  rw [mem_opLanes hu hk]
  constructor
  · rintro ⟨⟨m, -, hm⟩, rfl⟩
    obtain ⟨va', hva', hacc⟩ := Option.bind_eq_some_iff.1 hm
    obtain rfl := plainAcc_lane hacc
    rwa [Option.some.inj (hva.symm.trans hva')]
  · exact fun hacc => ⟨⟨l, hl, by rw [hva]; exact hacc⟩, plainAcc_lane hacc⟩

end

/-- Settles O29: the transfers issue the lanes of their operations, and the lanes of a load or store are those with an address. -/
theorem memoryInstructionsIssue : Obligations.MemoryInstructionsIssue := by
  unfold Obligations.MemoryInstructionsIssue
  refine ⟨fun p hp w sh e s h => ?_, ?_, ?_⟩
  · have hi := memInstrs_issueLanes hp w sh e s
    exact ⟨hi.advances h, fun hx hroom hac hlock hlanes => hi.goes h hx hroom hac hlock hlanes⟩
  · rintro p hp w sh e s o h hx rfl
    have hi := memInstrs_issueLanes hp w sh e s
    exact ⟨hi.idles h hx, hi.waitsForClass h hx, fun hroom k hac => hi.waitsForCounter h hx hroom hac, hi.waitsForLock h hx⟩
  · intro s f o exec l va d hu hk hl hexec ha hb hva hd
    have hmem := fun la => mem_opLanes_of_addr (la := la) hu hk (mem_maskLanes.2 ⟨hl, hexec⟩) (hva ▸ laneAddr_valid (size := o.size) (off := o.off) ha hb)
    constructor
    · intro hacc
      rcases hk with hk | hk
      · obtain ⟨hla, hlane⟩ := (hmem (newAcc l va 0 0 true)).2 (by simp [plainAcc, hk])
        exact ⟨_, hla, hlane, rfl, by simp [hk]⟩
      · have hsome : plainAcc s f o l va = some (newAcc l va d.1 0 d.2) := by
          have hdata : d.2 || inFirn va := by simpa [hk] using hacc
          rw [plainAcc, if_pos hk, ← hd, if_pos hdata]
        obtain ⟨hla, hlane⟩ := (hmem _).2 hsome
        exact ⟨_, hla, hlane, rfl, fun _ => ⟨rfl, rfl⟩⟩
    · intro hstore hinvalid hglobal la hla hlane
      have hsome := (hmem la).1 ⟨hla, hlane⟩
      rw [plainAcc, if_pos hstore, ← hd, hinvalid, hglobal] at hsome
      cases hsome

/-! ## The firn of another core (R173) -/

/-- LDR and STR on a core of their die issue the lanes of one operation on that core's firn. -/
theorem ldr_issueLanes {w : FWord} {e : Env} {s : State} {c : Nat} (hc : remoteCore s e w = some c) (sh : Shape) :
    IssuesLanes (.ldr w) w sh (loadOp (.loadRemote c) false false w sh e s) e s where
  run := ⟨remoteBody false, rfl, by rw [remoteBody, hc]; rfl⟩
  fresh := ⟨rfl, rfl⟩
  compress := fun k hk => by cases hk

theorem str_issueLanes {w : FWord} {e : Env} {s : State} {c : Nat} (hc : remoteCore s e w = some c) (sh : Shape) :
    IssuesLanes (.str w) w sh (storeOp (.storeRemote c) false w sh e s) e s where
  run := ⟨remoteBody true, rfl, by rw [remoteBody, hc]; rfl⟩
  fresh := ⟨rfl, rfl⟩
  compress := fun k hk => by cases hk

/-- The X word of LDR and STR names a core. -/
theorem xacc_of_remote {i : Instr} {w : FWord} {sh : Shape} (hi : i = .ldr w ∨ i = .str w) (hsh : shapeOf i = some (w, sh)) : sh.xacc = .coord := by
  rcases hi with rfl | rfl <;> (obtain rfl := (Prod.mk.inj (Option.some.inj hsh)).2; rfl)

/-- A COORD that names no core of the issuing core's die fails the check of R45 and R173. -/
theorem coordOk_of_remoteCore_none {s : State} {e : Env} {w : FWord} {sh : Shape} {v : XWord} (hx : sh.xacc = .coord) (hv : w.x = some v) (hk : v.kind ≠ 0)
    (hnone : remoteCore s e w = none) : coordOk s e.f sh w = false := by
  have hkind : ¬ v.kind = 0#2 := hk
  cases hc : logicalOf s (xPhys v) with
  | none => simp [coordOk, hv, hkind, hx, hc]
  | some c =>
    have hdie : ¬ coreDie c = coreDie e.f.core := by simpa [remoteCore, hv, hc] using hnone
    simp [coordOk, hv, hkind, hx, hc, hdie]

/-- Such a word passes no check of operands (R56). -/
theorem decodeTrap_of_remoteCore_none {i : Instr} {s : State} {e : Env} {w : FWord} {sh : Shape} {v : XWord} (hi : i = .ldr w ∨ i = .str w)
    (hsh : shapeOf i = some (w, sh)) (hmod : modifierOk sh w = true) (hv : w.x = some v) (hk : v.kind ≠ 0) (hnone : remoteCore s e w = none) :
    decodeTrap s e (privOf i) w sh = some .illegalOperands := by
  have hpriv : privOf i = false := by rcases hi with rfl | rfl <;> rfl
  simp [decodeTrap, hpriv, hmod, coordOk_of_remoteCore_none (xacc_of_remote hi hsh) hv hk hnone]

/-! ## Prefetches (R192) -/

theorem cachesOnly_prefLine (l1 : Bool) (o : Op) (p : Phys) (s : State) : CachesOnly s (prefLine l1 o p s) := by
  have hread : CachesOnly s (if s.readReady o.core o.ctx p.pte (p.pa / 256 * 256) 256 then s else s.dieRead (coreDie o.core) p ⟨0, 64⟩) :=
    .ite (.refl s) (cachesOnly_dieRead ..)
  exact .ite hread (hread.trans (.foldl (fun u k => .ite (cachesOnly_l1Fill ..) (.refl u)) _ _))

/-- PREF changes caches alone, and advances. -/
theorem prefBody_done (w : FWord) (sh : Shape) (e : Env) (s : State) : ∃ u, prefBody w sh e s = .done u ∧ CachesOnly s u := by
  refine ⟨_, rfl, .foldl (fun t la => .ite (.refl t) ?_) _ s⟩
  split
  · exact cachesOnly_prefLine ..
  · exact .refl t

theorem exec_pref_effect {w : FWord} {sh : Shape} {e : Env} {s : State} (h : Issues (.pref w) w sh e s) :
    ∃ t, exec (.pref w) s = .next t ∧ t.floe? e.h = some (e.after w sh s e.f) ∧ OtherFloes e.h s t
      ∧ SameMem s t ∧ { t with floes := s.floes, ms := s.ms, cores := s.cores } = s := by
  obtain ⟨u, hu, hc⟩ := prefBody_done w sh e s
  have hfloe (k : Nat) : u.floe? k = s.floe? k := State.floe?_of_floes hc.memoryOnly.floes k
  have hret := retire_done_eq e (latchesOf s e.f w sh) (hintYields w sh) u
  refine ⟨_, h.exec_of_body rfl hu, ?_, ?_, fun a => ?_, ?_⟩
  · exact retire_done_after (by rw [hc]; exact ⟨rfl, rfl, rfl, rfl⟩) ((hfloe _).trans h.floe)
  · exact retire_done_others fun k _ => hfloe k
  · rw [hret]
    exact hc.byte a
  · rw [hret, hc]

/-- Settles O30: the operations of LDR and STR as any transfer's, the check that their COORD fails, and prefetches. -/
theorem remoteFirnAndPrefetch : Obligations.RemoteFirnAndPrefetch := by
  unfold Obligations.RemoteFirnAndPrefetch
  refine fun w sh e s => ⟨fun c h hx hc hroom hlock => ?_, fun c h hx hc hroom hlock => ?_, ?_, exec_pref_effect⟩
  · exact (ldr_issueLanes hc sh).goes h hx hroom (by simp [loadOp]) hlock (by simp [loadOp, newOp])
  · exact (str_issueLanes hc sh).goes h hx hroom (by simp [storeOp, newOp]) hlock (by simp [storeOp, newOp])
  · intro i x v hi hsh he hmod hv hk hnone hx hl hb
    obtain ⟨body, hrun⟩ : ∃ body, exec i s = issueF i body s := by rcases hi with rfl | rfl <;> exact ⟨_, rfl⟩
    rw [hrun, issueF_traps body hsh he (decodeTrap_of_remoteCore_none hi hsh hmod hv hk hnone)]
    exact ⟨_, rfl, trapEffect_retire (t := { cause := .illegalOperands, lanes := e.sl.mask }) [] false he hx hl hb (by simp) rfl rfl⟩

end Sys2Proof.Machine
end

section
/-! SUPPORT. Bytes written to memory one after another: what a byte reads after them, and the seal blocks that a write takes over or spoils (R172, R200,
R204, R394, R396). -/

namespace Sys2Proof.Machine

/-! ## Tables -/

/-- The entries that a filter by keys keeps read as before. -/
theorem Table.find?_filter_keys {α : Type} (q : Nat → Bool) (t : Table α) {k : Nat} (hk : q k = true) :
    Table.find? (t.filter (fun p => q p.1) : Table α) k = Table.find? t k := by
  induction t with
  | nil => rfl
  | cons p t ih =>
    by_cases hp : p.1 = k
    · rw [List.filter_cons_of_pos (p := fun p : Nat × α => q p.1) (by rw [hp]; exact hk), Table.find?, Table.find?, if_pos hp, if_pos hp]
    · by_cases hq : q p.1 = true
      · rw [List.filter_cons_of_pos (p := fun p : Nat × α => q p.1) hq, Table.find?, Table.find?, if_neg hp, if_neg hp, ih]
      · rw [List.filter_cons_of_neg (p := fun p : Nat × α => q p.1) hq, ih, Table.find?, if_neg hp]

/-! ## Seal blocks before a write (R394, R396) -/

/-- A block taken over: its bytes are gone and its metadata is the taker's. -/
def State.takeBlock (s : State) (blk : Nat) (m : SealMeta) : State :=
  State.setSeal { s with ms := { s.ms with
    sealHeld := Table.setD s.ms.sealHeld false blk true, mem := s.ms.mem.filter (fun p => p.1 / 4096 != blk) } } blk m

/-- A block left with other bytes and other metadata. -/
def State.spoilBlock (s : State) (blk : Nat) (bs : List Byte) (m : SealMeta) : State :=
  State.setSeal { s with ms := s.ms.setBytes (blk * 4096) bs } blk m

theorem Ms.setBytes_sealTab (m : Ms) (pa : Nat) (bs : List Byte) : (m.setBytes pa bs).sealTab = m.sealTab := by
  induction bs generalizing m pa with
  | nil => rfl
  | cons b t ih => exact ih (m.setByte pa b) (pa + 1)

section
variable {s : State} {ctx : Nat} {e : Pte} {pa : Nat}

/-- Whether a write is quiet depends on the page's seal, the block and its metadata alone. -/
theorem sealQuiet_congr {t : State} {e' : Pte} {a b : Nat} (he : e'.sealed = e.sealed) (hb : b / 4096 = a / 4096)
    (hm : t.sealMeta (a / 4096) = s.sealMeta (a / 4096)) (hc : t.ctxs = s.ctxs) : sealQuiet t ctx e' b = sealQuiet s ctx e a := by
  simp only [sealQuiet, he, hb, hm, State.ctx?_of_ctxs hc]

/-- A quiet write leaves bytes and seals as they are. -/
theorem sealPrepare_quiet (h : sealQuiet s ctx e pa = true) :
    ∃ held, sealPrepare s ctx e pa = { s with ms := { s.ms with sealHeld := held } } := by
  simp only [sealQuiet] at h
  simp only [sealPrepare]
  by_cases he : e.sealed = true
  · rw [if_pos he] at h ⊢
    split
    · next c hc =>
      rw [hc] at h
      exact ⟨_, if_pos h⟩
    · exact ⟨s.ms.sealHeld, rfl⟩
  · rw [if_neg he] at h ⊢
    have hno : ¬ ((s.sealMeta (pa / 4096)).kid ≠ 0 ∧ (s.sealMeta (pa / 4096)).status = 0) := by
      rintro ⟨hkid, hst⟩
      simp [hkid, hst] at h
    exact ⟨s.ms.sealHeld, if_neg hno⟩

/-- A write through a sealed page to a block of another key takes the block over. -/
theorem sealPrepare_takes {c : Ctx} (he : e.sealed = true) (hc : s.ctx? ctx = some c) (hk : ¬ c.holdsKid (s.sealMeta (pa / 4096)).kid = true) :
    sealPrepare s ctx e pa = s.takeBlock (pa / 4096) ⟨(s.sealMeta (pa / 4096)).version, c.keyKid, 0⟩ := by
  simp only [sealPrepare]
  rw [if_pos he, hc]
  exact if_neg hk

/-- A write through an unsealed page to a sealed block leaves the block's cipher text, spoiled. -/
theorem sealPrepare_spoils (he : ¬ e.sealed = true) (hm : (s.sealMeta (pa / 4096)).kid ≠ 0 ∧ (s.sealMeta (pa / 4096)).status = 0) :
    ∃ bs : List Byte, bs.length = 4096 ∧ sealPrepare s ctx e pa = s.spoilBlock (pa / 4096) bs { s.sealMeta (pa / 4096) with status := 2 } := by
  refine ⟨(List.range 4096).map (fun i => readThrough s ctx e (pa / 4096 * 4096 + i)), by rw [List.length_map, List.length_range], ?_⟩
  simp only [sealPrepare]
  rw [if_neg he, if_pos hm, State.spoilBlock]

theorem takeBlock_sealMeta (b k : Nat) (m : SealMeta) : (s.takeBlock b m).sealMeta k = if k = b then m else s.sealMeta k :=
  State.sealMeta_setSeal ..

theorem takeBlock_byte {b a : Nat} {m : SealMeta} (h : b ≠ a / 4096) : (s.takeBlock b m).ms.byte a = s.ms.byte a := by
  have hne : (a / 4096 != b) = true := by simpa using h.symm
  exact congrArg (fun o => o.getD memDefault) (Table.find?_filter_keys (fun k => k / 4096 != b) s.ms.mem hne)

theorem spoilBlock_sealMeta (b k : Nat) (bs : List Byte) (m : SealMeta) :
    (s.spoilBlock b bs m).sealMeta k = if k = b then m else s.sealMeta k := by
  rw [State.spoilBlock, State.sealMeta_setSeal, State.sealMeta, State.sealMeta, Ms.setBytes_sealTab]

theorem spoilBlock_byte {b a : Nat} {bs : List Byte} {m : SealMeta} (hlen : bs.length = 4096) (h : b ≠ a / 4096) :
    (s.spoilBlock b bs m).ms.byte a = s.ms.byte a := by
  refine (Ms.byte_setBytes bs s.ms (b * 4096) a).trans (if_neg ?_)
  omega

/-- The three things a write does to its block first (R394, R396): nothing, take it over, or spoil it. -/
theorem sealPrepare_cases (s : State) (ctx : Nat) (e : Pte) (pa : Nat) :
    sealQuiet s ctx e pa = true ∨
    (∃ c, e.sealed = true ∧ s.ctx? ctx = some c ∧
      sealPrepare s ctx e pa = s.takeBlock (pa / 4096) ⟨(s.sealMeta (pa / 4096)).version, c.keyKid, 0⟩) ∨
    (∃ bs : List Byte, ¬ e.sealed = true ∧ bs.length = 4096 ∧
      sealPrepare s ctx e pa = s.spoilBlock (pa / 4096) bs { s.sealMeta (pa / 4096) with status := 2 }) := by
  by_cases hq : sealQuiet s ctx e pa = true
  · exact .inl hq
  · have hnot := hq
    simp only [sealQuiet] at hnot
    by_cases he : e.sealed = true
    · rw [if_pos he] at hnot
      cases hc : s.ctx? ctx with
      | none => simp [hc] at hnot
      | some c => exact .inr (.inl ⟨c, he, rfl, sealPrepare_takes he hc (by simpa [hc] using hnot)⟩)
    · rw [if_neg he] at hnot
      obtain ⟨bs, hlen, hp⟩ := sealPrepare_spoils (ctx := ctx) he (by simpa using hnot)
      exact .inr (.inr ⟨bs, he, hlen, hp⟩)

/-- What a block reads that a write through another one prepares. -/
theorem sealPrepare_other {a : Nat} (h : pa / 4096 ≠ a / 4096) :
    (sealPrepare s ctx e pa).ms.byte a = s.ms.byte a ∧ (sealPrepare s ctx e pa).sealMeta (a / 4096) = s.sealMeta (a / 4096) := by
  obtain hq | ⟨c, _, _, hp⟩ | ⟨bs, _, hlen, hp⟩ := sealPrepare_cases s ctx e pa
  · obtain ⟨held, hp⟩ := sealPrepare_quiet hq
    rw [hp]
    exact ⟨rfl, rfl⟩
  · rw [hp, takeBlock_sealMeta, if_neg h.symm]
    exact ⟨takeBlock_byte h, rfl⟩
  · rw [hp, spoilBlock_sealMeta, if_neg h.symm]
    exact ⟨spoilBlock_byte hlen h, rfl⟩

/-- Once prepared, a block is quiet for further writes through such a page. -/
theorem sealPrepare_settles (hkey : e.sealed = true → ∀ c, s.ctx? ctx = some c → c.keyKid ≠ 0) : sealQuiet (sealPrepare s ctx e pa) ctx e pa = true := by
  have hctx : (sealPrepare s ctx e pa).ctx? ctx = s.ctx? ctx := State.ctx?_of_ctxs (memoryOnly_sealPrepare ..).ctxs ctx
  obtain hq | ⟨c, he, hc, hp⟩ | ⟨bs, he, _, hp⟩ := sealPrepare_cases s ctx e pa
  · obtain ⟨held, hp⟩ := sealPrepare_quiet hq
    rw [hp]
    exact hq
  · have hmeta : (sealPrepare s ctx e pa).sealMeta (pa / 4096) = ⟨(s.sealMeta (pa / 4096)).version, c.keyKid, 0⟩ := by
      rw [hp, takeBlock_sealMeta, if_pos rfl]
    simp [sealQuiet, he, hctx, hc, hmeta, Ctx.holdsKid, hkey he c hc]
  · have hmeta : (sealPrepare s ctx e pa).sealMeta (pa / 4096) = { s.sealMeta (pa / 4096) with status := 2 } := by
      rw [hp, spoilBlock_sealMeta, if_pos rfl]
    simp [sealQuiet, he, hmeta]

end

/-! ## One byte (R200) -/

/-- A byte of home memory written through a page. -/
def bytePut (s : State) (ctx : Nat) (e : Pte) (pa : Nat) (v : Byte) : State :=
  { sealPrepare s ctx e pa with ms := (sealPrepare s ctx e pa).ms.setByte pa v }

theorem memoryOnly_bytePut (s : State) (ctx : Nat) (e : Pte) (pa : Nat) (v : Byte) : MemoryOnly s (bytePut s ctx e pa v) :=
  (memoryOnly_sealPrepare s ctx e pa).trans rfl

theorem cachesOnly_bytePut_homeByte (s : State) (core ctx : Nat) (e : Pte) (pa : Nat) (v : Byte) :
    CachesOnly (bytePut s ctx e pa v) (s.homeByte core ctx e pa v) := by
  simp only [State.homeByte, bytePut]
  split
  · split <;> rfl
  · rfl

theorem cachesOnly_bytePut_writeByte (s : State) (core ctx : Nat) (e : Pte) (pa : Nat) (v : Byte) :
    CachesOnly (bytePut s ctx e pa v) (s.writeByte core ctx e pa v) :=
  (cachesOnly_bytePut_homeByte ..).trans (cachesOnly_l1Update ..)

section
variable {s : State} {ctx : Nat} {e : Pte} {pa : Nat} {v : Byte}

theorem bytePut_same : (bytePut s ctx e pa v).ms.byte pa = v := Ms.byte_setByte_same ..

/-- A byte that is not written, in another block or in one that the write leaves as it is, reads as before, and so does its seal. -/
theorem bytePut_other {a : Nat} (hne : pa ≠ a) (hq : pa / 4096 = a / 4096 → sealQuiet s ctx e a = true) :
    (bytePut s ctx e pa v).ms.byte a = s.ms.byte a ∧ (bytePut s ctx e pa v).sealMeta (a / 4096) = s.sealMeta (a / 4096) := by
  have hset : (bytePut s ctx e pa v).ms.byte a = (sealPrepare s ctx e pa).ms.byte a := Ms.byte_setByte_ne _ _ hne.symm
  have hseal : (bytePut s ctx e pa v).sealMeta (a / 4096) = (sealPrepare s ctx e pa).sealMeta (a / 4096) := rfl
  rw [hset, hseal]
  by_cases hb : pa / 4096 = a / 4096
  · obtain ⟨held, hp⟩ := sealPrepare_quiet (s := s) (ctx := ctx) (e := e) (pa := pa) ((sealQuiet_congr rfl hb rfl rfl).trans (hq hb))
    rw [hp]
    exact ⟨rfl, rfl⟩
  · exact sealPrepare_other hb

theorem bytePut_settles (hkey : e.sealed = true → ∀ c, s.ctx? ctx = some c → c.keyKid ≠ 0) :
    sealQuiet (bytePut s ctx e pa v) ctx e pa = true :=
  sealPrepare_settles hkey

end

/-! ## Bytes one after another -/

/-- A write of one byte: through which page, where and what. -/
structure BytePut where
  pte : Pte
  pa : Nat
  value : Byte

/-- `n` bytes from an address on, in ascending order. -/
def byteRun (e : Pte) (pa n : Nat) (v : Nat → Byte) : List BytePut := (List.range n).map (fun i => ⟨e, pa + i, v i⟩)

section
variable {e : Pte} {pa n : Nat} {v : Nat → Byte}

theorem mem_byteRun {w : BytePut} : w ∈ byteRun e pa n v ↔ ∃ i, i < n ∧ w = ⟨e, pa + i, v i⟩ := by
  simp only [byteRun, List.mem_map, List.mem_range, @eq_comm _ w]

/-- The bytes after byte `i` of a run lie above it. -/
theorem byteRun_split {i : Nat} (hi : i < n) :
    ∃ before after, byteRun e pa n v = before ++ ⟨e, pa + i, v i⟩ :: after ∧ ∀ w ∈ after, pa + i < w.pa ∧ w.pte = e := by
  have hascend : (byteRun e pa n v).Pairwise (fun v w => v.pa < w.pa) :=
    List.pairwise_map.2 (List.pairwise_lt_range.imp fun h => Nat.add_lt_add_left h _)
  obtain ⟨before, after, hsplit⟩ := List.append_of_mem (mem_byteRun.2 ⟨i, hi, rfl⟩ : (⟨e, pa + i, v i⟩ : BytePut) ∈ byteRun e pa n v)
  rw [hsplit] at hascend
  obtain ⟨_, hafter, _⟩ := List.pairwise_append.1 hascend
  refine ⟨before, after, hsplit, fun w hw => ⟨(List.pairwise_cons.1 hafter).1 w hw, ?_⟩⟩
  obtain ⟨_, _, rfl⟩ := mem_byteRun.1 (hsplit ▸ List.mem_append_right _ (List.mem_cons_of_mem _ hw) : w ∈ byteRun e pa n v)
  rfl

end

/-- `t` is `s` with some bytes written in this order, caches and directory moving between. -/
inductive Written (ctx : Nat) : List BytePut → State → State → Prop where
  | none {s t : State} : CachesOnly s t → Written ctx [] s t
  | put {s u t : State} {w : BytePut} {ws : List BytePut} : CachesOnly s u → Written ctx ws (bytePut u ctx w.pte w.pa w.value) t →
      Written ctx (w :: ws) s t

namespace Written

variable {ctx : Nat} {s t u : State} {ws vs : List BytePut}

theorem after_caches (h : CachesOnly s t) (k : Written ctx ws t u) : Written ctx ws s u := by
  cases k with
  | none hc => exact .none (h.trans hc)
  | put hc hw => exact .put (h.trans hc) hw

theorem append (h : Written ctx ws s t) (k : Written ctx vs t u) : Written ctx (ws ++ vs) s u := by
  induction h with
  | none hc => exact k.after_caches hc
  | put hc _ ih => exact .put hc (ih k)

theorem before_caches (h : Written ctx ws s t) (k : CachesOnly t u) : Written ctx ws s u := by
  have hw := h.append (Written.none (ctx := ctx) k)
  rwa [List.append_nil] at hw

theorem single (h : CachesOnly s t) (e : Pte) (pa : Nat) (v : Byte) (k : CachesOnly (bytePut t ctx e pa v) u) : Written ctx [⟨e, pa, v⟩] s u :=
  .put (w := ⟨e, pa, v⟩) h (.none k)

/-- The bytes of a fold are those of its steps. -/
theorem foldl {α : Type} {g : State → α → State} {bytes : α → List BytePut} (l : List α) (h : ∀ s, ∀ a ∈ l, Written ctx (bytes a) s (g s a))
    (s : State) : Written ctx (l.flatMap bytes) s (l.foldl g s) := by
  induction l generalizing s with
  | nil => exact .none (.refl s)
  | cons a l ih =>
    rw [List.flatMap_cons]
    exact (h s a List.mem_cons_self).append (ih (fun t b hb => h t b (List.mem_cons_of_mem _ hb)) _)

/-- A fold over a range that writes one byte in each step writes a run. -/
theorem run {g : State → Nat → State} {e : Pte} {pa n : Nat} {v : Nat → Byte} (h : ∀ s i, Written ctx [⟨e, pa + i, v i⟩] s (g s i)) (s : State) :
    Written ctx (byteRun e pa n v) s ((List.range n).foldl g s) := by
  rw [byteRun, List.map_eq_flatMap]
  exact .foldl _ (fun s i _ => h s i) s

theorem memoryOnly (h : Written ctx ws s t) : MemoryOnly s t := by
  induction h with
  | none hc => exact hc.memoryOnly
  | put hc _ ih => exact (hc.memoryOnly.trans (memoryOnly_bytePut ..)).trans ih

/-- The bytes before some and those from there on. -/
theorem split (h : Written ctx (ws ++ vs) s t) : ∃ u, Written ctx ws s u ∧ Written ctx vs u t := by
  induction ws generalizing s with
  | nil => exact ⟨s, .none (.refl s), h⟩
  | cons w ws ih =>
    cases h with
    | put hc hw =>
      obtain ⟨u, hu, ht⟩ := ih hw
      exact ⟨u, .put hc hu, ht⟩

/-- An address that none of the writes is to, its block left as it is by each that is in it, reads as before. -/
theorem byte_other (h : Written ctx ws s t) {a : Nat} (hws : ∀ w ∈ ws, w.pa ≠ a ∧ (w.pa / 4096 = a / 4096 → sealQuiet s ctx w.pte a = true)) :
    t.ms.byte a = s.ms.byte a := by
  induction h with
  | none hc => exact hc.byte a
  | @put s u t w ws hc _ ih =>
    have hquiet (e : Pte) : sealQuiet u ctx e a = sealQuiet s ctx e a := sealQuiet_congr rfl rfl (hc.sealMeta _) hc.memoryOnly.ctxs
    obtain ⟨hne, hq⟩ := hws w List.mem_cons_self
    obtain ⟨hbyte, hmeta⟩ := bytePut_other (v := w.value) hne fun hb => (hquiet _).trans (hq hb)
    rw [ih, hbyte, hc.byte]
    intro x hx
    obtain ⟨hxne, hxq⟩ := hws x (List.mem_cons_of_mem _ hx)
    refine ⟨hxne, fun hb => (sealQuiet_congr rfl rfl hmeta (memoryOnly_bytePut ..).ctxs).trans ((hquiet _).trans (hxq hb))⟩

/-- The last write to an address is what it reads, where the writes after it go through pages sealed alike. -/
theorem byte_last {w : BytePut} (h : Written ctx (ws ++ w :: vs) s t)
    (hkey : w.pte.sealed = true → ∀ c, s.ctx? ctx = some c → c.keyKid ≠ 0)
    (hvs : ∀ x ∈ vs, x.pa ≠ w.pa ∧ x.pte.sealed = w.pte.sealed) : t.ms.byte w.pa = w.value := by
  obtain ⟨u, hu, ht⟩ := h.split
  cases ht with
  | @put _ u' _ _ _ hc hw =>
    have hctx : u'.ctx? ctx = s.ctx? ctx := State.ctx?_of_ctxs (hu.memoryOnly.trans hc.memoryOnly).ctxs ctx
    have hsettled : sealQuiet (bytePut u' ctx w.pte w.pa w.value) ctx w.pte w.pa = true :=
      bytePut_settles fun hsealed c hcx => hkey hsealed c (hctx ▸ hcx)
    refine (hw.byte_other fun x hx => ?_).trans bytePut_same
    obtain ⟨hne, hsealed⟩ := hvs x hx
    exact ⟨hne, fun _ => (sealQuiet_congr hsealed rfl rfl rfl).trans hsettled⟩

end Written

end Sys2Proof.Machine
end

section
/-! The proof of O32 (StorePerformances). -/

namespace Sys2Proof.Machine

/-- A known operation changed. -/
theorem State.modOp_eq {s : State} {id : Nat} {o : Op} (h : Table.find? s.ops id = some o) (g : Op → Op) :
    s.modOp id g = { s with ops := Table.insert s.ops id (g o) } := by rw [State.modOp, h]

/-! ## The bytes of a store's lanes (R166, R172, R190) -/

section
variable {s : State} {id : Nat} {o : Op} {la : LaneAcc} {p : Phys}

/-- Whether a lane of a store writes memory at its target: valid data, of a line that it has not to skip. -/
def Op.laneWrites (o : Op) (la : LaneAcc) (p : Phys) : Bool := la.valid && !o.skip.contains (p.pa / 256)

/-- Byte `i` of a lane's data. -/
def LaneAcc.byte (la : LaneAcc) (i : Nat) : Byte := BitVec.ofNat 8 (la.data / 2 ^ (8 * i))

/-- The bytes that a lane of a store writes to memory at its target. -/
def Op.bytesAt (o : Op) (la : LaneAcc) (p : Phys) : List BytePut := if o.laneWrites la p then byteRun p.pte p.pa o.size la.byte else []

/-- The bytes that a lane of a store writes to memory, its target found in `s`. -/
def Op.bytesOf (s : State) (o : Op) (la : LaneAcc) : List BytePut :=
  match laneView s o la with
  | .ok (.mem p) => o.bytesAt la p
  | _ => []

theorem Op.bytesOf_mem (hv : laneView s o la = .ok (.mem p)) : Op.bytesOf s o la = o.bytesAt la p := by
  rw [Op.bytesOf, hv]

theorem Op.mem_bytesAt {w : BytePut} : w ∈ o.bytesAt la p ↔ o.laneWrites la p = true ∧ ∃ i, i < o.size ∧ w = ⟨p.pte, p.pa + i, la.byte i⟩ := by
  unfold Op.bytesAt
  split
  · next h => simp only [mem_byteRun, h, true_and]
  · next h => simp [h]

/-- One lane's store to memory writes the lane's bytes in ascending order. -/
theorem written_storeAt (u : State) (o : Op) (la : LaneAcc) (p : Phys) : Written o.ctx (o.bytesAt la p) u (storeAt u o la (.ok (.mem p))) := by
  by_cases hgo : o.laneWrites la p = true
  · rw [Op.bytesAt, if_pos hgo]
    simp only [storeAt]
    rw [if_pos (show (la.valid && !o.skip.contains (p.pa / 256)) = true from hgo)]
    refine (Written.after_caches (cachesOnly_exclReturn u o.core p.pa o.size) (Written.run (fun t i => ?_) _)).before_caches (cachesOnly_markWords ..)
    split
    · exact .single (.refl t) _ _ _ (cachesOnly_bytePut_homeByte ..)
    · exact .single (.refl t) _ _ _ (cachesOnly_bytePut_writeByte ..)
  · rw [Op.bytesAt, if_neg hgo]
    simp only [storeAt]
    rw [if_neg (show ¬ (la.valid && !o.skip.contains (p.pa / 256)) = true from hgo)]
    exact .none (.refl u)

/-- A store whose lanes all go to memory writes the lanes' bytes, lane after lane, and nothing else. -/
theorem written_performStore (hmem : ∀ la ∈ o.lanes, ∃ p, laneView s o la = .ok (.mem p)) :
    Written o.ctx (o.lanes.flatMap (Op.bytesOf s o)) s (performStore s o) := by
  refine (Written.foldl o.lanes (fun t la hla => ?_) s).before_caches (cachesOnly_unpoison ..)
  obtain ⟨p, hp⟩ := hmem la hla
  rw [hp, Op.bytesOf_mem hp]
  exact written_storeAt t o la p

/-! ## What a store leaves -/

theorem State.firnStore_ops (s : State) (core off n v : Nat) (valid : Bool) : (s.firnStore core off n v valid).ops = s.ops := by
  have hset (t : State) (j : Nat) (w : FirnWord) : (t.setFirn core j w).ops = t.ops := rfl
  have hunlatch : (s.unlatchFirn core off n).ops = s.ops := by simp [State.unlatchFirn]
  have words (l : List Nat) (b : Bool) (t : State) (ht : t.ops = s.ops) :
      (l.foldl (fun (u : State) i => u.setFirn core (off / 4 + i) { u.firnAt core (off / 4 + i) with v := b }) t).ops = s.ops :=
    List.foldlRecOn l _ (motive := fun u : State => u.ops = s.ops) ht fun u hu i _ => hu
  have hbytes : ((List.range n).foldl (fun t i => t.setFirnByte core (off + i) (v / 2 ^ (8 * i))) (s.unlatchFirn core off n)).ops = s.ops :=
    List.foldlRecOn _ _ (motive := fun u : State => u.ops = s.ops) hunlatch fun u hu i _ => hu
  simp only [State.firnStore]
  split
  · split
    · exact words _ _ _ hbytes
    · exact hbytes
  · exact words _ _ _ hunlatch

theorem performStore_ops (s : State) (o : Op) : (performStore s o).ops = s.ops := by
  refine (cachesOnly_unpoison ..).memoryOnly.ops.trans ?_
  refine List.foldlRecOn _ _ (motive := fun u : State => u.ops = s.ops) rfl fun u hu la _ => ?_
  rcases laneView s o la with x | ⟨core, off⟩ | p | p
  · exact hu
  · exact (State.firnStore_ops ..).trans hu
  · exact (written_storeAt u o la p).memoryOnly.ops.trans hu
  · exact hu

/-! ## STORE_PERFORMED and SLICE_HOLD_END -/

/-- A store of data that it holds, of consecutive words or of a compressed vector. -/
def Op.IsStore (o : Op) : Prop := o.kind = .store ∨ ∃ k, o.kind = .compress k

theorem exec_storePerformed_store (hop : Table.find? s.ops id = some o) (hst : o.isSt = true) (hk : o.IsStore) :
    exec (.storePerformed id) s = .next (laneStored s id o) := by
  rw [exec, execStorePerformed, hop]
  rcases hk with hk | ⟨k, hk⟩ <;> simp [hst, hk]

theorem exec_sliceHoldEnd_store (hop : Table.find? s.ops id = some o) (hk : o.IsStore) :
    exec (.sliceHoldEnd id) s = if (o.todo.writeReady s id && !o.todo.leaseHeld s) = true
      then .next ((performStore s o.todo).modOp id (fun q => { q with state := .performed })) else .next s := by
  have hplain : o.todo.plainStore = true := by
    unfold Op.plainStore
    rcases hk with hk | ⟨k, hk⟩ <;> simp [Op.todo, hk]
  rw [exec, execSliceHoldEnd, hop]
  simp only [hplain, Bool.true_and]

/-- A lane whose write is ready does not fault. -/
theorem fault_none_of_writeReady (h : o.writeReady s id = true) : o.fault? s = none := by
  simp only [Op.writeReady, Bool.and_eq_true, List.all_eq_true] at h
  obtain ⟨_, hlanes⟩ := h
  refine List.findSome?_eq_none_iff.2 fun la hla => ?_
  have hla' := hlanes la hla
  cases hv : laneView s o la with
  | error x => simp [hv] at hla'
  | ok v => rfl

/-- The lanes of a store take effect by being performed. -/
theorem lanesDone_store {f : Option Floe} (hk : o.IsStore) (hst : o.state ≠ .performed) : lanesDone s id o f o.lanes = performStore s o := by
  have heta : performStore s { o with lanes := o.lanes } = performStore s o := rfl
  simp only [lanesDone, heta]
  rcases hk with hk | ⟨k, hk⟩
  · rw [hk]
    exact if_neg hst
  · rw [hk]
    exact if_neg hst

/-- A store in flight that can be performed is performed and ends, with an acquire where it is one. -/
theorem laneStored_ready (hst : o.isSt = true) (hk : o.IsStore) (hfl : o.state = .inFlight)
    (hready : (o.todo.writeReady s id && !o.todo.leaseHeld s) = true) :
    laneStored s id o = if o.acq then ((performStore s o.todo).endOp id o.todo).acquire o.core o.scope
      else (performStore s o.todo).endOp id o.todo := by
  have hkind : o.todo.kind = o.kind := rfl
  have hstate : o.todo.state = o.state := rfl
  have hend : o.todo.canEnd s id = true := by
    have hst' : o.todo.isSt = true := hst
    unfold Op.canEnd
    rcases hk with hk | ⟨k, hk⟩ <;> simpa [hkind, hk, hst'] using hready
  have hfault : o.todo.faultNow? s = none := by
    have hnone : o.todo.fault? s = none := fault_none_of_writeReady (Bool.and_eq_true_iff.1 hready).1
    unfold Op.faultNow?
    rcases hk with hk | ⟨k, hk⟩ <;> simpa [hkind, hk] using hnone
  have hdone : lanesDone s id o.todo none o.todo.lanes = performStore s o.todo :=
    lanesDone_store hk fun h => OpState.noConfusion (hfl.symm.trans h)
  simp only [laneStored, hend, hfault, hdone, hstate, hfl]
  rfl

/-- What is left after a store: memory and firn as performed, the operation gone. -/
theorem laneStored_leaves (hst : o.isSt = true) (hk : o.IsStore) (hfl : o.state = .inFlight)
    (hready : (o.todo.writeReady s id && !o.todo.leaseHeld s) = true) :
    (laneStored s id o).ms = (performStore s o.todo).ms ∧ (laneStored s id o).firn = (performStore s o.todo).firn ∧
      (laneStored s id o).ops = Table.erase s.ops id := by
  have hended : ((performStore s o.todo).endOp id o.todo).ops = Table.erase s.ops id := by rw [State.endOp_ops, performStore_ops]
  rw [laneStored_ready hst hk hfl hready]
  split
  · rw [State.acquire_eq]
    exact ⟨State.endOp_ms .., State.endOp_firn .., hended⟩
  · exact ⟨State.endOp_ms .., State.endOp_firn .., hended⟩

end

/-! ## The statement -/

/-- Settles O32: the lanes' bytes are written one after another, so that a byte outside them reads as before and the last lane wins one in them. -/
theorem storePerformances : Obligations.StorePerformances := by
  constructor
  · intro s id o sealedPages hop hst hk hfl hready hlanes hkey
    have hwritten : Written o.ctx (o.todo.lanes.flatMap (Op.bytesOf s o.todo)) s (performStore s o.todo) :=
      written_performStore (o := o.todo) fun la hla => (hlanes la hla).imp fun p hp => hp.1
    obtain ⟨hms, hfirn, hops⟩ := laneStored_leaves (id := id) hst hk hfl hready
    refine ⟨_, exec_storePerformed_store hop hst hk, ?_, ?_, hfirn.trans hwritten.memoryOnly.firn, ?_, ?_⟩
    · rw [hops, Table.find?_erase, if_pos rfl]
    · intro k hne
      rw [hops, Table.find?_erase, if_neg hne]
    · intro a ha
      rw [hms]
      refine hwritten.byte_other fun w hw => ?_
      obtain ⟨la, hla, hwla⟩ := List.mem_flatMap.1 hw
      obtain ⟨p, hp, _, _⟩ := hlanes la hla
      rw [Op.bytesOf_mem (o := o.todo) hp] at hwla
      obtain ⟨hgo, i, hi, rfl⟩ := Op.mem_bytesAt.1 hwla
      obtain ⟨hvalid, _⟩ := Bool.and_eq_true_iff.1 hgo
      obtain ⟨hout, hquiet⟩ := ha la hla p hp hvalid
      have hi' : i < o.size := hi
      exact ⟨fun heq : p.pa + i = a => hout (by omega), hquiet i hi⟩
    · intro pre la post p i hsplit hvalid hp hi hlater
      obtain ⟨p', hp', hsealed, hskip⟩ := hlanes la (by simp [hsplit])
      obtain rfl : p' = p := by simpa [hp] using hp'.symm
      have hgo : o.todo.laneWrites la p' = true := Bool.and_eq_true_iff.2 ⟨hvalid, by simpa [Op.todo] using hskip⟩
      obtain ⟨before, after, hrun, hafter⟩ := byteRun_split (e := p'.pte) (pa := p'.pa) (n := o.todo.size) (v := la.byte) hi
      have hbytes : Op.bytesOf s o.todo la = before ++ ⟨p'.pte, p'.pa + i, la.byte i⟩ :: after :=
        (Op.bytesOf_mem (o := o.todo) hp).trans ((if_pos hgo).trans hrun)
      rw [hsplit, List.flatMap_append, List.flatMap_cons, hbytes, List.append_assoc, List.cons_append, ← List.append_assoc] at hwritten
      rw [hms]
      refine hwritten.byte_last (fun _ => hkey) fun w hw => ?_
      rcases List.mem_append.1 hw with hw | hw
      · obtain ⟨habove, hpte⟩ := hafter w hw
        exact ⟨Nat.ne_of_gt habove, by rw [hpte]⟩
      · obtain ⟨q, hq, hwq⟩ := List.mem_flatMap.1 hw
        obtain ⟨y, hy, hysealed, _⟩ := hlanes q (by simp [hsplit, hq])
        rw [Op.bytesOf_mem (o := o.todo) hy] at hwq
        obtain ⟨hqgo, j, hj, rfl⟩ := Op.mem_bytesAt.1 hwq
        obtain ⟨hqvalid, _⟩ := Bool.and_eq_true_iff.1 hqgo
        have hapart := hlater q hq hqvalid y hy
        have hj' : j < o.size := hj
        exact ⟨fun heq : y.pa + j = p'.pa + i => hapart (by omega), hysealed.trans hsealed.symm⟩
  · intro s id o hop hk
    refine ⟨fun hready => ?_, fun hready => ?_⟩
    · have hops : (performStore s o.todo).ops = s.ops := performStore_ops ..
      refine ⟨_, (exec_sliceHoldEnd_store hop hk).trans (if_pos hready), by simp, by simp, by simp, ?_, fun k hne => ?_⟩
      · rw [State.modOp_eq (hops ▸ hop), Table.find?_insert_same]
      · rw [State.modOp_eq (hops ▸ hop), Table.find?_insert_ne _ _ hne, hops]
    · exact (exec_sliceHoldEnd_store hop hk).trans (if_neg (by simp [hready]))

end Sys2Proof.Machine
end

section
/-! The issue of copies: CPY, CPYD and CPCOMMIT (R174, R180-R187, R193, R194). -/

namespace Sys2Proof.Machine

/-! ## Numbers of copies (R181) -/

/-- The lowest number that a list does not hold lies in the range that is looked through, or the list holds that whole range. -/
theorem freshIn_spec (l : List Nat) (fuel k : Nat) :
    k ≤ freshIn l fuel k ∧ (freshIn l fuel k < k + fuel ∧ freshIn l fuel k ∉ l ∨ List.range' k fuel ⊆ l) := by
  induction fuel generalizing k with
  | zero => exact ⟨le_refl k, .inr (by simp)⟩
  | succ n ih =>
    by_cases hk : k ∈ l
    · have hnext : freshIn l (n + 1) k = freshIn l n (k + 1) := if_pos (by simpa using hk)
      obtain ⟨hle, hfree | hall⟩ := ih (k + 1)
      · rw [hnext]
        exact ⟨by omega, .inl ⟨by omega, hfree.2⟩⟩
      · rw [hnext, List.range'_succ]
        exact ⟨by omega, .inr (List.cons_subset.2 ⟨hk, hall⟩)⟩
    · have hnext : freshIn l (n + 1) k = k := if_neg (by simpa using hk)
      rw [hnext]
      exact ⟨le_refl k, .inl ⟨by omega, hk⟩⟩

/-- A list with fewer than 128 numbers leaves one of 1 to 128 free. -/
theorem freshIn_free {l : List Nat} (h : l.length < 128) : 1 ≤ freshIn l 128 1 ∧ freshIn l 128 1 ≤ 128 ∧ freshIn l 128 1 ∉ l := by
  obtain ⟨hle, hfree | hall⟩ := freshIn_spec l 128 1
  · exact ⟨hle, by omega, hfree.2⟩
  · have hlen := (List.subperm_of_subset List.nodup_range' hall).length_le
    rw [List.length_range'] at hlen
    omega

/-! ## A copy issued (R174, R180, R181) -/

/-- Two states differ in the cores alone. -/
def CoresOnly (s t : State) : Prop := t = { s with cores := t.cores }

theorem CoresOnly.refl (s : State) : CoresOnly s s := rfl

section
variable {s s1 : State} {e : Env} {d : CopyDesc}

theorem CoresOnly.copies (h : CoresOnly s s1) : s1.copies = s.copies := by rw [h]
theorem CoresOnly.floes (h : CoresOnly s s1) : s1.floes = s.floes := by rw [h]
theorem CoresOnly.ctxs (h : CoresOnly s s1) : s1.ctxs = s.ctxs := by rw [h]
theorem CoresOnly.sameTime (h : CoresOnly s s1) : SameTime s s1 := by rw [h]; exact ⟨rfl, rfl, rfl, rfl⟩

theorem CoresOnly.floe? (h : CoresOnly s s1) (k : Nat) : s1.floe? k = s.floe? k := State.floe?_of_floes h.floes k

theorem CoresOnly.same (h : CoresOnly s s1) : { s1 with cores := s.cores } = s := by rw [h]

theorem issueCopy_full (hfull : 128 ≤ (s.copiesOf e.f.core).length) : issueCopy d e s = .stall s := by
  rw [issueCopy]
  exact if_pos (by simpa [Table.vals] using hfull)

/-- The mover has room. -/
theorem copies_room (hroom : (s.copiesOf e.f.core).length < 128) :
    ¬ 128 ≤ ((Table.vals (s.copiesOf e.f.core)).map (fun c => c.num)).length := by
  simpa [Table.vals] using hroom

theorem issueCopy_cpFull (hroom : (s.copiesOf e.f.core).length < 128) (hg : d.ctg = true) (hopen : 256 ≤ e.f.openCount) (hcp : 15 ≤ e.f.cp) :
    issueCopy d e s = .stall (s.waitOn e.h .cpFull) := by
  simp only [issueCopy]
  rw [if_neg (copies_room hroom), if_pos (by simp [hg, hopen, hcp])]

/-- The open group or cp has room for the copy. -/
theorem group_room (hgroup : d.ctg = true → e.f.openCount < 256 ∨ e.f.cp < 15) :
    ¬ (d.ctg && decide (256 ≤ e.f.openCount) && decide (15 ≤ e.f.cp)) = true := by
  simp only [Bool.and_eq_true, decide_eq_true_eq, not_and, not_le]
  rintro ⟨hg, hopen⟩
  exact (hgroup hg).resolve_left (not_lt.2 hopen)

theorem issueCopy_acFull (hroom : (s.copiesOf e.f.core).length < 128) (hgroup : d.ctg = true → e.f.openCount < 256 ∨ e.f.cp < 15)
    (ha : d.cta = true) (hac : 255 ≤ (e.f.ac d.ac).out) : issueCopy d e s = .stall (s.waitOn e.h (.acFull d.ac)) := by
  simp only [issueCopy]
  rw [if_neg (copies_room hroom), if_neg (group_room hgroup), if_pos (by simp [ha, hac])]

/-- What a copy of this descriptor is as it is placed. -/
structure CopyFresh (d : CopyDesc) (e : Env) (s : State) (q : Copy) : Prop where
  desc : q.desc = d
  core : q.core = e.f.core
  floe : q.floe = e.h
  ctx : q.ctx = e.f.ctx
  inst : q.inst = e.f.inst
  next : q.next = 0
  started : q.started = false
  waiting : q.waiting = false
  savedIn : q.savedIn = false
  done : q.done = []
  elems : q.elems = []
  after : q.after = s.copyAfter e.h (d.rel && decide (2 ≤ d.scope))
  num : q.num = freshIn ((Table.vals (s.copiesOf e.f.core)).map (fun c => c.num)) 128 1

/-- With room everywhere, the copy is in flight and its floe counts it. -/
theorem issueCopy_placed (hroom : (s.copiesOf e.f.core).length < 128) (hgroup : d.ctg = true → e.f.openCount < 256 ∨ e.f.cp < 15)
    (hac : d.cta = true → (e.f.ac d.ac).out < 255) : ∃ q k, CopyFresh d e s q ∧ k e.f = copyPlaced d s.nextId e.f ∧
      issueCopy d e s = .done (State.modFloe { s with copies := Table.insert s.copies s.nextId q, nextId := s.nextId + 1 } e.h k) := by
  have hcounter : ¬ (d.cta && decide (255 ≤ (e.f.ac d.ac).out)) = true := by
    simp only [Bool.and_eq_true, decide_eq_true_eq, not_and, not_le]
    exact hac
  simp only [issueCopy]
  rw [if_neg (copies_room hroom), if_neg (group_room hgroup), if_neg hcounter]
  refine ⟨_, _, ?_, ?_, rfl⟩
  · exact ⟨rfl, rfl, rfl, rfl, rfl, rfl, rfl, rfl, rfl, rfl, rfl, rfl, rfl⟩
  · simp only [copyPlaced, decide_eq_true_eq]
    rfl

end

/-! ## What the issue of a copy comes to -/

section
variable {i : Instr} {w : FWord} {sh : Shape} {e : Env} {s s1 : State} {d : CopyDesc} {body : FWord → Shape → Env → State → Res}

/-- An instruction that issues a copy from `s1`, which differs from `s` in the cores alone. -/
structure IssuesCopy (i : Instr) (d : CopyDesc) (w : FWord) (sh : Shape) (e : Env) (s s1 : State) : Prop where
  issues : Issues i w sh e s
  run : ∃ body : FWord → Shape → Env → State → Res, exec i s = issueF i body s ∧ body w sh e s = issueCopy d e s1
  cores : CoresOnly s s1

variable (hi : IssuesCopy i d w sh e s s1)
include hi

theorem IssuesCopy.exec {r : Res} (hr : issueCopy d e s1 = r) :
    Machine.exec i s = .next (State.retire e (latchesOf s e.f w sh) (hintYields w sh) r) := by
  obtain ⟨body, hrun, hbody⟩ := hi.run
  exact hi.issues.exec_of_body hrun (hbody.trans hr)

theorem IssuesCopy.others : OtherFloes e.h s s1 := fun k _ => hi.cores.floe? k

theorem IssuesCopy.floe : s1.floe? e.h = some e.f := (hi.cores.floe? e.h).trans hi.issues.floe

theorem IssuesCopy.copiesOf (core : Nat) : s1.copiesOf core = s.copiesOf core := by rw [State.copiesOf, hi.cores.copies, State.copiesOf]

/-- A full mover leaves it not ready. -/
theorem IssuesCopy.unready (hfull : 128 ≤ (s.copiesOf e.f.core).length) :
    ∃ t, Machine.exec i s = .next t ∧ FloeAnd e.h (e.unready e.f) s s1 t := by
  have ha := floeAnd_stall (latchesOf s e.f w sh) (hintYields w sh) hi.floe hi.others
  rw [← hi.cores.floes] at ha
  exact ⟨_, hi.exec (issueCopy_full (hi.copiesOf e.f.core ▸ hfull)), ha⟩

/-- A group or counter that is full holds the floe. -/
theorem IssuesCopy.stalled {c : Wait} (hr : issueCopy d e s1 = .stall (s1.waitOn e.h c)) :
    ∃ t, Machine.exec i s = .next t ∧ FloeAnd e.h (e.stalled c s e.f) s s1 t := by
  have ha := floeAnd_stall (latchesOf s e.f w sh) (hintYields w sh) (State.waitOn_floe hi.floe c) (otherFloes_modFloe hi.others _)
  have hu : { s1.waitOn e.h c with floes := s.floes } = s1 := by rw [State.waitOn, State.modFloe_eq, ← hi.cores.floes]
  rw [hu, hi.cores.sameTime.gt] at ha
  exact ⟨_, hi.exec hr, ha⟩

/-- With room everywhere, one copy is in flight. -/
theorem IssuesCopy.places (hroom : (s.copiesOf e.f.core).length < 128) (hgroup : d.ctg = true → e.f.openCount < 256 ∨ e.f.cp < 15)
    (hac : d.cta = true → (e.f.ac d.ac).out < 255) : ∃ t q, Machine.exec i s = .next t ∧ CopyFresh d e s q ∧
      FloeAnd e.h (e.after w sh s (copyPlaced d s.nextId e.f)) s
        { s1 with copies := Table.insert s.copies s.nextId q, nextId := s.nextId + 1 } t := by
  obtain ⟨q, k, hq, hk, hr⟩ := issueCopy_placed (hi.copiesOf e.f.core ▸ hroom) hgroup hac
  have hsame := hi.cores
  have hfresh : CopyFresh d e s q := by
    have hcopies := hi.copiesOf e.f.core
    have hafter : s1.copyAfter e.h (d.rel && decide (2 ≤ d.scope)) = s.copyAfter e.h (d.rel && decide (2 ≤ d.scope)) := by rw [hsame]; rfl
    exact { hq with after := hq.after.trans hafter, num := hcopies ▸ hq.num }
  rw [hsame.copies, show s1.nextId = s.nextId by rw [hsame]] at hr
  rw [show s1.nextId = s.nextId by rw [hsame]] at hk
  refine ⟨_, q, hi.exec hr, hfresh, ?_⟩
  have hu : ({ s1 with copies := Table.insert s.copies s.nextId q, nextId := s.nextId + 1 } : State).floe? e.h = some e.f := hi.floe
  have hothers : OtherFloes e.h s { s1 with copies := Table.insert s.copies s.nextId q, nextId := s.nextId + 1 } := hi.others
  have ht : SameTime s (State.modFloe { s1 with copies := Table.insert s.copies s.nextId q, nextId := s.nextId + 1 } e.h k) := by
    obtain ⟨hgt, hpace, hclk, hgated⟩ := hsame.sameTime
    exact ⟨by simpa using hgt, by simpa using hpace, by simpa using hclk, by simpa using hgated⟩
  have ha := floeAnd_retire (latchesOf s e.f w sh) (hintYields w sh) (g := copyPlaced d s.nextId e.f) ht (by simp [hu, hk])
    (otherFloes_modFloe hothers k)
  have hfloes : { State.modFloe { s1 with copies := Table.insert s.copies s.nextId q, nextId := s.nextId + 1 } e.h k with floes := s.floes }
      = { s1 with copies := Table.insert s.copies s.nextId q, nextId := s.nextId + 1 } := by
    rw [State.modFloe_eq, ← hsame.floes]
  rw [hfloes] at ha
  exact ha

end

/-! ## CPY and CPYD (R182, R186, R193, R194) -/

section
variable {w : FWord} {sh : Shape} {e : Env} {s : State}

/-- The descriptor cache is all that the read of a descriptor changes. -/
theorem descRead_cores (s : State) (e : Env) (va : Dword) (bs : List Byte) : CoresOnly s (descRead s e va bs).2 := by
  simp only [descRead]
  split
  · rfl
  · split
    · rfl
    · split
      · split <;> rfl
      · rfl

/-- A block that no word of another device is missing from is read at once. -/
theorem withBlock_read {va : Dword} {n align : Nat} {k : List Byte → Res} {bs : List Byte} (hfar : blockFar s e va n = [])
    (hread : readBlock s e va n align = .ok bs) : withBlock s e va n align k = k bs := by
  simp only [withBlock, hfar, ite_self, hread]

/-- Words of another device that are missing are asked for, and the floe waits. -/
theorem withBlock_far {va : Dword} {n align : Nat} {k : List Byte → Res} (halign : va.toNat % align = 0) (hfirn : inFirn va = false)
    (hfar : blockFar s e va n ≠ []) : withBlock s e va n align k = .stall ((s.askFar e.h (blockFar s e va n)).waitOn e.h .far) := by
  have hgo : ¬ (va.toNat % align ≠ 0 ∨ inFirn va = true) := by simp [halign, hfirn]
  simp only [withBlock, if_neg hgo]

/-- Words asked for change the fabric alone. -/
theorem State.askFar_eq (s : State) (h : Nat) (l : List (Dword × Phys)) : s.askFar h l = { s with net := (s.askFar h l).net } :=
  List.foldlRecOn l _ (motive := fun t : State => t = { s with net := t.net }) rfl fun t ht x _ => by
    rw [State.request, State.post, ht]

/-- The address of a CPYD's descriptor (R194). -/
def descAddr (w : FWord) (a : Nat) : Dword := BitVec.ofInt 64 ((a : Int) + (match w.x with | some x => x.imm.toInt | none => w.c.toInt * 64))

theorem cpydBody_block {a : Nat} (hx : e.exec ≠ 0) (ha : rdOp s e.f 0 w.a 2 = (a, true)) : cpydBody w sh e s = withBlock s e (descAddr w a) 64 64 (fun bs =>
    match parseCopy (natOf (descRead s e (descAddr w a) bs).1) with
    | none => .trap { cause := .descriptorInvalid, lanes := e.exec } (descRead s e (descAddr w a) bs).2
    | some d => issueCopy d e (descRead s e (descAddr w a) bs).2) := by
  have hx' : ¬ e.exec = 0#32 := hx
  simp only [cpydBody, ha]
  rw [if_neg (by simp [hx'])]
  rfl

/-- The length of a CPY (R193): the immediate of its X word, or its register. -/
def copyLength (s : State) (e : Env) (w : FWord) : Nat × Bool := match w.x with | some x => (x.imm.toNat, true) | none => rdOp s e.f 0 w.b 1

theorem cpyBody_eq (w : FWord) (sh : Shape) (e : Env) (s : State) : cpyBody w sh e s =
    if e.exec = 0 ∨ !((rdOp s e.f 0 w.a 2).2 && (rdOp s e.f 0 w.d 2).2 && (copyLength s e w).2) ∨ (copyLength s e w).1 = 0 then .done s
    else issueCopy (bytesCopy w (rdOp s e.f 0 w.a 2).1 (rdOp s e.f 0 w.d 2).1 (copyLength s e w).1) e s := rfl

/-- CPY copies bytes (R193). -/
theorem cpyBody_copy {src dst n : Nat} (hx : e.exec ≠ 0) (hsrc : rdOp s e.f 0 w.a 2 = (src, true)) (hdst : rdOp s e.f 0 w.d 2 = (dst, true)) (hn : 0 < n)
    (hlen : copyLength s e w = (n, true)) :
    cpyBody w sh e s = issueCopy (bytesCopy w src dst n) e s := by
  have hn' : ¬ n = 0 := by omega
  have hx' : ¬ e.exec = 0#32 := hx
  rw [cpyBody_eq, hsrc, hdst, hlen]
  exact if_neg (by simp [hx', hn'])

theorem cpy_issuesCopy (h : Issues (.cpy w) w sh e s) {src dst n : Nat} (hx : e.exec ≠ 0) (hsrc : rdOp s e.f 0 w.a 2 = (src, true))
    (hdst : rdOp s e.f 0 w.d 2 = (dst, true)) (hn : 0 < n)
    (hlen : copyLength s e w = (n, true)) :
    IssuesCopy (.cpy w) (bytesCopy w src dst n) w sh e s s :=
  ⟨h, ⟨cpyBody, rfl, cpyBody_copy hx hsrc hdst hn hlen⟩, .refl s⟩

theorem cpyd_issuesCopy (h : Issues (.cpyd w) w sh e s) {a : Nat} {bs : List Byte} {d : CopyDesc} (hx : e.exec ≠ 0) (ha : rdOp s e.f 0 w.a 2 = (a, true))
    (hd : parseCopy (natOf (descRead s e (descAddr w a) bs).1) = some d) (hfar : blockFar s e (descAddr w a) 64 = [])
    (hread : readBlock s e (descAddr w a) 64 64 = .ok bs) : IssuesCopy (.cpyd w) d w sh e s (descRead s e (descAddr w a) bs).2 :=
  ⟨h, ⟨cpydBody, rfl, by rw [cpydBody_block hx ha, withBlock_read hfar hread, hd]⟩, descRead_cores ..⟩

/-- A body that traps from a state that differs in the cores alone enters the handler (R370). -/
theorem handler_of_trap {i : Instr} {body : FWord → Shape → Env → State → Res} {t : TrapInfo} {s1 : State} {x : Ctx} (h : Issues i w sh e s)
    (hrun : exec i s = issueF i body s) (hr : body w sh e s = .trap t s1) (hc : CoresOnly s s1) (hx : s.ctx? e.f.ctx = some x)
    (hl : e.f.levelHandler = false) (hb : x.trapBase ≠ 0) (ht : t.cause ≠ .pageNotPresent) :
    ∃ u, exec i s = .next u ∧ u.floe? e.h = some (handlerEntry (e.f.issued s.gt (s.mck e.f.core) e.b [] false) e.b x.trapBase e.sl.pc e.next t)
      ∧ OtherFloes e.h s u ∧ { u with floes := s.floes, cores := s.cores } = s := by
  refine ⟨_, h.exec_of_body hrun hr, ?_⟩
  have hf : (s1.modFloe e.h (fun f => f.issued s1.gt (s1.mck e.f.core) e.b [] false)).floe? e.h
      = some (e.f.issued s.gt (s.mck e.f.core) e.b [] false) := by
    rw [State.floe?_modFloe_same, (hc.floe? e.h).trans h.floe, hc.sameTime.gt, hc.sameTime.mck]
    rfl
  have hctx : (s1.modFloe e.h (fun f => f.issued s1.gt (s1.mck e.f.core) e.b [] false)).ctx? e.f.ctx = some x :=
    (State.ctx?_of_ctxs ((State.modFloe_ctxs ..).trans hc.ctxs) _).trans hx
  rw [State.retire, State.deliver_vector (fun hp => ht hp.1), State.vector_enters hf hctx hl hb]
  refine ⟨by rw [State.floe?_setFloe, if_pos rfl], fun k hk => ?_, ?_⟩
  · rw [State.floe?_setFloe, if_neg hk, State.floe?_modFloe_ne _ _ hk, hc.floe?]
  · rw [State.setFloe, State.modFloe_eq, hc]

end

/-! ## The statement -/

/-- Settles O35: CPY and CPYD issue a copy from a state that differs in the descriptor cache alone, or trap or wait for their descriptor; CPCOMMIT
changes its floe alone. -/
theorem copiesIssue : Obligations.CopiesIssue := by
  intro w sh e s hx
  refine ⟨fun i d s1 h hi => ?_, fun a bs va c h ha hva => ⟨fun hfar hread hnone hc hl hb => ?_, fun halign hfirn hfar => ?_⟩,
    fun h hcp => ?_, fun h hcp => ?_⟩
  · have hcopy : IssuesCopy i d w sh e s s1 := by
      rcases hi with ⟨rfl, rfl, src, dst, n, hsrc, hdst, hn, hlen, rfl⟩ | ⟨rfl, a, bs, va, ha, hd, rfl, rfl, hfar, hread⟩
      · exact cpy_issuesCopy h hx hsrc hdst hn hlen
      · exact cpyd_issuesCopy h hx ha hd hfar hread
    refine ⟨fun hroom hgroup hac => ?_, hcopy.unready, fun hroom hg hopen hcp => ?_, fun hroom hgroup ha hac => ?_⟩
    · obtain ⟨t, q, ht, hq, hfloe⟩ := hcopy.places hroom hgroup hac
      obtain ⟨hlow, hhigh, hfree⟩ := freshIn_free (not_le.1 (copies_room hroom))
      rw [← hq.num] at hlow hhigh hfree
      exact ⟨t, q, ht, hfloe, hq.desc, hq.core, hq.floe, hq.ctx, hq.inst, hq.next, hq.started, hq.waiting, hq.savedIn, hq.done, hq.elems, hq.after,
        hlow, hhigh, fun c hc hnum => hfree (List.mem_map.2 ⟨c, hc, hnum⟩), hcopy.cores.same⟩
    · exact hcopy.stalled (issueCopy_cpFull (hcopy.copiesOf e.f.core ▸ hroom) hg hopen hcp)
    · exact hcopy.stalled (issueCopy_acFull (hcopy.copiesOf e.f.core ▸ hroom) hgroup ha hac)
  · obtain rfl : va = descAddr w a := hva
    refine handler_of_trap h rfl (by rw [cpydBody_block hx ha, withBlock_read hfar hread, hnone]) (descRead_cores ..) hc hl hb fun hcause => Cause.noConfusion hcause
  · obtain rfl : va = descAddr w a := hva
    have hbody : cpydBody w sh e s = .stall ((s.askFar e.h (blockFar s e (descAddr w a) 64)).waitOn e.h .far) := by
      rw [cpydBody_block hx ha, withBlock_far halign hfirn hfar]
    generalize blockFar s e (descAddr w a) 64 = l at hbody
    have hasked := State.askFar_eq s e.h l
    generalize s.askFar e.h l = u at hbody hasked
    have hfloe : u.floe? e.h = some e.f := by rw [hasked]; exact h.floe
    have hothers : OtherFloes e.h s u := fun k _ => by rw [hasked]; rfl
    have hall := floeAnd_stall (latchesOf s e.f w sh) (hintYields w sh) (State.waitOn_floe hfloe .far) (otherFloes_modFloe hothers _)
    have hu : { u.waitOn e.h .far with floes := s.floes } = u := by
      rw [State.waitOn, State.modFloe_eq]
      rw [hasked]
    rw [hu, show u.gt = s.gt by rw [hasked]] at hall
    exact ⟨_, h.exec_of_body rfl hbody, hall⟩
  · refine h.changes rfl ?_
    rw [cpcommitBody, if_neg hx, if_neg (not_le.2 hcp)]
  · refine h.stalls rfl ?_
    rw [cpcommitBody, if_neg hx, if_pos hcp]

end Sys2Proof.Machine
end

section
/-! The mover's steps: COPY_START, COPY_COMPLETE, an element moved, COPY_FAULT and MOVER_TRAP_DELIVERY (R180-R187, R370, R371). -/

namespace Sys2Proof.Machine

/-! ## Copies and contexts changed -/

section
variable {s : State} {k : Nat} {c : Copy}

theorem State.modCopy_eq (h : Table.find? s.copies k = some c) (g : Copy → Copy) :
    s.modCopy k g = { s with copies := Table.insert s.copies k (g c) } := by rw [State.modCopy, h]

end

theorem State.modCtx_eq (s : State) (ctx : Nat) (g : Ctx → Ctx) : s.modCtx ctx g = { s with ctxs := (s.modCtx ctx g).ctxs } := by
  unfold State.modCtx
  split <;> rfl

/-- A context reads as it was changed, where the change does not free it. -/
theorem State.ctx?_modCtx_live {s : State} {ctx : Nat} {c : Ctx} {g : Ctx → Ctx} (h : s.ctx? ctx = some c) (hg : (g c).state ≠ .free) :
    (s.modCtx ctx g).ctx? ctx = some (g c) := by
  rw [State.modCtx, h]
  simp [State.ctx?, State.setCtx, hg]

/-- A posted record stands behind those of the context (R372). -/
theorem State.ctx?_postRecord {s : State} {ctx : Nat} {y : Ctx} (h : s.ctx? ctx = some y) (r : List Byte) :
    (s.postRecord ctx r).ctx? ctx = some { y with faultRecs := y.faultRecs ++ [⟨r⟩] } :=
  State.ctx?_modCtx_same h rfl

/-- A fatal fault stops the context, its record posted (R371). -/
theorem State.ctx?_fatalLive {s : State} {ctx : Nat} {y : Ctx} (h : s.ctx? ctx = some y) (hy : y.state ≠ .destroyed) (r : List Byte) :
    (s.fatalLive ctx r).ctx? ctx = some { y with state := .faulted, faultRecs := y.faultRecs ++ [⟨r⟩] } := by
  have hfatal : s.fatalLive ctx r = s.fatal ctx r := by rw [State.fatalLive, h]; exact if_neg hy
  have hmod : (s.modCtx ctx (fun c => { c with state := .faulted })).ctx? ctx = some { y with state := .faulted } :=
    State.ctx?_modCtx_live (g := fun c : Ctx => { c with state := .faulted }) h fun hfree => CtxState.noConfusion hfree
  rw [hfatal, State.fatal]
  exact State.ctx?_postRecord hmod r

/-- A fatal fault changes its context alone. -/
theorem State.fatalLive_eq (s : State) (ctx : Nat) (r : List Byte) : s.fatalLive ctx r = { s with ctxs := (s.fatalLive ctx r).ctxs } := by
  unfold State.fatalLive
  split
  · split
    · rfl
    · rw [State.fatal, State.postRecord, State.modCtx_eq, State.modCtx_eq s]
  · rfl

/-! ## COPY_START (R185) -/

section
variable {s : State} {core k : Nat} {c : Copy}

/-- Whether a copy starts after its latest-service time. -/
def Copy.late (c : Copy) (gt : Nat) : Bool := match c.deadline with | some d => decide (d < gt) | none => false

/-- What the start of a copy leaves: a late one counted, and for an acquire what it does on the core (R201). -/
def startedState (s : State) (core k : Nat) (c : Copy) : State :=
  let s1 := s.modCopy k (fun d => { d with started := true })
  let s2 := if c.late (s.coreGt core) then s1.modCore core (fun q => { q with misses := satInc q.misses }) else s1
  if c.desc.acq then s2.acquire core c.desc.scope else s2

theorem exec_copyStart (hk : Table.find? s.copies k = some c) (hcore : c.core = core) (hst : c.started = false) (hsv : c.savedIn = false)
    (hafter : s.ended c.after = true)
    (hfirst : ∀ d ∈ Table.vals (s.copiesOf core), d.started = true ∨ s.ended d.after = false ∨ copyBefore (s.coreGt core) c d = true) :
    exec (.copyStart core k) s = .next (startedState s core k c) := by
  have hall : (Table.vals (s.copiesOf core)).all (fun d => d.started || !s.ended d.after || copyBefore (s.coreGt core) c d) = true :=
    List.all_eq_true.2 fun d hd => by simpa [or_assoc] using hfirst d hd
  rw [exec, execCopyStart, hk]
  simp only [hall]
  exact if_neg (by simp [hcore, hst, hsv, hafter])

/-- What an acquire of some scope does to a core. -/
theorem State.core_acquire (s : State) (core scope : Nat) : ((s.acquire core scope).core core).misses = (s.core core).misses ∧
    ((s.acquire core scope).core core).l1 = if 3 ≤ scope then Table.keep (s.core core).l1 (fun _ l => !l.unord) else (s.core core).l1 := by
  by_cases hscope : scope < 3
  · rw [State.acquire, if_pos hscope, if_neg (by omega)]
    exact ⟨rfl, rfl⟩
  · rw [State.acquire, if_neg hscope, if_pos (by omega), State.l1Drop, State.core_modCore_same, State.core_modCore_same]
    exact ⟨rfl, rfl⟩

/-- The start of a copy marks it, and besides changes cores alone. -/
theorem startedState_eq (hk : Table.find? s.copies k = some c) :
    startedState s core k c = { s with copies := Table.insert s.copies k { c with started := true }, cores := (startedState s core k c).cores } := by
  have hmiss (t : State) (g : Core → Core) : (if c.late (s.coreGt core) then t.modCore core g else t)
      = { t with cores := (if c.late (s.coreGt core) then t.modCore core g else t).cores } := by split <;> rfl
  simp only [startedState]
  rw [State.modCopy_eq hk]
  split
  · rw [State.acquire_eq, hmiss]
  · rw [hmiss]

theorem startedState_core (hk : Table.find? s.copies k = some c) :
    ((startedState s core k c).core core).misses = (if c.late (s.coreGt core) then satInc (s.core core).misses else (s.core core).misses) ∧
    ((startedState s core k c).core core).l1
      = if c.desc.acq = true ∧ 3 ≤ c.desc.scope then Table.keep (s.core core).l1 (fun _ l => !l.unord) else (s.core core).l1 := by
  let s1 := s.modCopy k (fun d => { d with started := true })
  let s2 := if c.late (s.coreGt core) then s1.modCore core (fun q => { q with misses := satInc q.misses }) else s1
  have hs1 : s1.core core = s.core core := by simp only [s1, State.modCopy_eq hk]; rfl
  have hs2 : (s2.core core).misses = (if c.late (s.coreGt core) then satInc (s.core core).misses else (s.core core).misses) ∧
      (s2.core core).l1 = (s.core core).l1 := by
    by_cases hlate : c.late (s.coreGt core) = true
    · simp only [s2, if_pos hlate, State.core_modCore_same, hs1, and_self]
    · simp only [s2, if_neg hlate, hs1, and_self]
  have hdef : startedState s core k c = if c.desc.acq then s2.acquire core c.desc.scope else s2 := rfl
  rw [hdef]
  by_cases hacq : c.desc.acq = true
  · obtain ⟨hmisses, hl1⟩ := State.core_acquire s2 core c.desc.scope
    rw [if_pos hacq, hmisses, hl1, hs2.1, hs2.2]
    simp [hacq]
  · rw [if_neg hacq, hs2.1, hs2.2]
    simp [hacq]

/-- A copy that starts after its latest-service time is a miss; an acquire drops the core's UNORD copies (R185, R201). -/
theorem copyStart_starts (hk : Table.find? s.copies k = some c) (hcore : c.core = core) (hst : c.started = false) (hsv : c.savedIn = false)
    (hafter : s.ended c.after = true)
    (hfirst : ∀ d ∈ Table.vals (s.copiesOf core), d.started = true ∨ s.ended d.after = false ∨ copyBefore (s.coreGt core) c d = true) :
    ∃ t, exec (.copyStart core k) s = .next t ∧ Table.find? t.copies k = some { c with started := true }
      ∧ (∀ j, j ≠ k → Table.find? t.copies j = Table.find? s.copies j) ∧ { t with copies := s.copies, cores := s.cores } = s
      ∧ (t.core core).misses = (if c.late (s.coreGt core) then satInc (s.core core).misses else (s.core core).misses)
      ∧ (t.core core).l1
        = (if c.desc.acq = true ∧ 3 ≤ c.desc.scope then Table.keep (s.core core).l1 (fun _ l => !l.unord) else (s.core core).l1) := by
  obtain ⟨hmisses, hl1⟩ := startedState_core (core := core) hk
  have heq := startedState_eq (core := core) hk
  refine ⟨_, exec_copyStart hk hcore hst hsv hafter hfirst, ?_, fun j hj => ?_, by rw [heq], hmisses, hl1⟩
  · rw [heq]
    exact Table.find?_insert_same ..
  · rw [heq]
    exact Table.find?_insert_ne _ _ hj

end

/-! ## COPY_COMPLETE (R184) -/

section
variable {s u : State} {core k : Nat} {c d : Copy}

/-- Whether a floe is there that has not retired. -/
def State.runsFloe (s : State) (h : Nat) : Bool := match s.floe? h with | some f => f.state != .retired | none => false

/-- A copy leaves its floe's arrival counter and its group. -/
def Copy.leaves (c : Copy) (k : Nat) (f : Floe) : Floe := (if c.desc.cta then f.acArrive c.desc.ac else f).copyDone k

/-- A copy is over, and its floe, where that still runs, counts it no more. -/
def leftState (u : State) (k : Nat) (c : Copy) : State :=
  let s2 := { u with copies := Table.erase u.copies k }
  if s2.runsFloe c.floe then s2.modFloe c.floe (c.leaves k) else s2

/-- The targets of a copy that has moved all its elements take effect: counter, group, event. -/
def completedState (u : State) (k : Nat) (c : Copy) : State :=
  if c.desc.cte then (leftState u k c).signal c.ctx c.desc.event 1 [] else leftState u k c

theorem exec_copyComplete (hk : Table.find? s.copies k = some c) (hcore : c.core = core) (hrun : c.runs s = true) (hfault : firstFault s k c.rest = none)
    (hclear : ∀ j ∈ c.rest, elemClear s c j = true) (hd : Table.find? (moveElems s k c.rest).copies k = some d) :
    exec (.copyComplete core k) s = if d.rest = [] then .next (completedState (moveElems s k c.rest) k c) else .next (moveElems s k c.rest) := by
  have hgo : ¬ (c.core ≠ core ∨ (!c.runs s) = true ∨ (firstFault s k c.rest).isSome = true ∨ (c.rest.any (fun j => !elemClear s c j)) = true) := by
    simpa [hcore, hrun, hfault] using hclear
  rw [exec, execCopyComplete, hk]
  simp only
  rw [if_neg hgo]
  simp only [hd]
  by_cases hrest : d.rest = []
  · rw [if_neg (by simp [hrest]), if_pos hrest]
    rfl
  · rw [if_pos (by simpa using hrest), if_neg hrest]

theorem leftState_eq (u : State) (k : Nat) (c : Copy) :
    leftState u k c = { u with copies := Table.erase u.copies k, floes := (leftState u k c).floes } := by
  simp only [leftState]
  split
  · rw [State.modFloe_eq]
  · rfl

theorem leftState_others (u : State) (k : Nat) (c : Copy) : OtherFloes c.floe u (leftState u k c) := by
  have hu : OtherFloes c.floe u { u with copies := Table.erase u.copies k } := fun _ _ => rfl
  simp only [leftState]
  split
  · exact otherFloes_modFloe hu _
  · exact hu

theorem leftState_floe {f : Floe} (hf : u.floe? c.floe = some f) (hlive : f.state ≠ .retired) :
    (leftState u k c).floe? c.floe = some (c.leaves k f) := by
  have hf' : State.floe? { u with copies := Table.erase u.copies k } c.floe = some f := hf
  have hruns : State.runsFloe { u with copies := Table.erase u.copies k } c.floe = true := by
    rw [State.runsFloe, hf']
    simpa using hlive
  simp only [leftState]
  rw [if_pos hruns, State.floe?_modFloe_same, hf']
  rfl

/-- A signal changes the contexts alone. -/
theorem State.signal_eq (s : State) (ctx name amount : Nat) (after : List Nat) :
    s.signal ctx name amount after = { s with ctxs := (s.signal ctx name amount after).ctxs } := by
  unfold State.signal
  split
  · rfl
  · rw [State.modCtx_eq]

/-- A signal to a context waits for its table (R322). -/
theorem State.ctx?_signal {x : Ctx} {ctx : Nat} (h : s.ctx? ctx = some x) (name amount : Nat) (after : List Nat) :
    (s.signal ctx name amount after).ctx? ctx
      = some (if name ≠ 0 then { x with evOps := x.evOps ++ [⟨name, 0, amount, none, none, after⟩] } else x) := by
  by_cases hn : name = 0
  · rw [State.signal, if_pos hn, if_neg (not_not.2 hn), h]
  · rw [State.signal, if_neg hn, if_pos hn]
    exact State.ctx?_modCtx_same h rfl

theorem completedState_eq (u : State) (k : Nat) (c : Copy) :
    completedState u k c = { leftState u k c with ctxs := (completedState u k c).ctxs } := by
  simp only [completedState]
  split
  · rw [State.signal_eq]
  · rfl

theorem completedState_ctx {x : Ctx} (hx : u.ctx? c.ctx = some x) : (completedState u k c).ctx? c.ctx
    = some (if c.desc.cte = true ∧ c.desc.event ≠ 0 then { x with evOps := x.evOps ++ [⟨c.desc.event, 0, 1, none, none, []⟩] } else x) := by
  have hx' : (leftState u k c).ctx? c.ctx = some x := by rw [leftState_eq]; exact hx
  by_cases hcte : c.desc.cte = true
  · rw [completedState, if_pos hcte, State.ctx?_signal hx']
    simp [hcte]
  · rw [completedState, if_neg hcte, hx']
    simp [hcte]

/-- The targets of a completed copy: memory and firn stay, and its floe and its context's table hear of it. -/
theorem copyComplete_ends (hk : Table.find? s.copies k = some c) (hcore : c.core = core) (hrun : c.runs s = true) (hfault : firstFault s k c.rest = none)
    (hclear : ∀ j ∈ c.rest, elemClear s c j = true) (hu : u = moveElems s k c.rest) (hd : Table.find? u.copies k = some d) (hrest : d.rest = []) :
    ∃ t, exec (.copyComplete core k) s = .next t ∧ t.ms = u.ms ∧ t.firn = u.firn ∧ t.copies = Table.erase u.copies k ∧ OtherFloes c.floe u t
      ∧ (∀ f, u.floe? c.floe = some f → f.state ≠ .retired →
          t.floe? c.floe = some ((if c.desc.cta then f.acArrive c.desc.ac else f).copyDone k))
      ∧ (∀ x, u.ctx? c.ctx = some x → t.ctx? c.ctx = some (if c.desc.cte = true ∧ c.desc.event ≠ 0
          then { x with evOps := x.evOps ++ [⟨c.desc.event, 0, 1, none, none, []⟩] } else x)) := by
  have hexec := exec_copyComplete hk hcore hrun hfault hclear (hu ▸ hd)
  rw [← hu, if_pos hrest] at hexec
  have heq := completedState_eq u k c
  have hleft := leftState_eq u k c
  refine ⟨_, hexec, ?_, ?_, ?_, fun h hne => ?_, fun f hf hlive => ?_, fun x hx => completedState_ctx hx⟩
  · rw [heq, hleft]
  · rw [heq, hleft]
  · rw [heq, hleft]
  · rw [heq]
    exact leftState_others u k c h hne
  · rw [heq]
    exact leftState_floe hf hlive

end

/-! ## An element moved (R184, R237) -/

section
variable {s : State} {k j : Nat} {c : Copy} {p q : Phys}

/-- A byte that an engine writes. -/
theorem written_engineByte (s : State) (m core ctx : Nat) (e : Pte) (pa : Nat) (v : Byte) :
    Written ctx [⟨e, pa, v⟩] s (s.engineByte m core ctx e pa v) := by
  have hl2 (t : State) (l2 : Table (Table Byte)) : CachesOnly t { t with ms := { t.ms with l2 := l2 } } := rfl
  exact .single ((cachesOnly_dirEngine ..).trans (cachesOnly_exclReturn ..)) e pa v ((cachesOnly_bytePut_writeByte ..).trans (hl2 ..))

/-- The bytes of an element as readers of the mover's core see them (R184). -/
def srcBytes (s : State) (c : Copy) (p : Phys) (i : Nat) : Byte := (viewOf s c.core none).readByte c.core c.ctx p.pte (p.pa + i)

theorem elemData_mem (hsrc : srcView s c j = .ok (.mem p)) : elemData s c j = some ((List.range c.desc.esize).map (srcBytes s c p)) := by
  simp only [elemData, hsrc]
  rfl

/-- A mover's die reads a source line that it does not hold. -/
theorem moveElem_mem (hk : Table.find? s.copies k = some c) (hsrc : srcView s c j = .ok (.mem p)) (hdst : dstView s c j = .ok (.mem q)) :
    ∃ s1, CachesOnly s s1 ∧ moveElem k j s
      = (putElem c ((List.range c.desc.esize).map (srcBytes s c p)) (.ok (.mem q)) s1).modCopy k (fun x => { x with done := x.done ++ [j] }) := by
  refine ⟨_, ?_, by simp only [moveElem, hk, elemData_mem hsrc, hsrc, hdst]; rfl⟩
  exact .ite (.refl s) (cachesOnly_dieRead ..)

theorem written_putElem (s : State) (c : Copy) (v : Nat → Byte) (q : Phys) :
    Written c.ctx (byteRun q.pte q.pa c.desc.esize (fun i => ((List.range c.desc.esize).map v).getD i 0)) s
      (putElem c ((List.range c.desc.esize).map v) (.ok (.mem q)) s) :=
  (Written.run (fun t i => written_engineByte t 1 c.core c.ctx q.pte (q.pa + i) _) s).before_caches (cachesOnly_markWords ..)

/-- An element moved from memory to an unsealed block of memory: its bytes, and no other. -/
theorem moveElem_bytes {u : State} (hk : Table.find? s.copies k = some c) (hu : u = moveElems s k [j]) (hsrc : srcView s c j = .ok (.mem p))
    (hdst : dstView s c j = .ok (.mem q)) (hopen : q.pte.sealed = false) (hkid : (s.sealMeta (q.pa / 4096)).kid = 0)
    (hblock : q.pa / 4096 = (q.pa + c.desc.esize - 1) / 4096) :
    Table.find? u.copies k = some { c with done := c.done ++ [j] }
      ∧ (∀ i, i < c.desc.esize → u.ms.byte (q.pa + i) = srcBytes s c p i)
      ∧ (∀ a, ¬ (q.pa ≤ a ∧ a < q.pa + c.desc.esize) → u.ms.byte a = s.ms.byte a) := by
  obtain ⟨s1, hcaches, hmove⟩ := moveElem_mem hk hsrc hdst
  have hwritten := (written_putElem s1 c (srcBytes s c p) q).after_caches hcaches
  have hu' : u = moveElem k j s := hu
  rw [hmove] at hu'
  generalize putElem c ((List.range c.desc.esize).map (srcBytes s c p)) (.ok (.mem q)) s1 = t at hwritten hu'
  have hk' : Table.find? t.copies k = some c := by rw [hwritten.memoryOnly.copies]; exact hk
  have hms : u.ms = t.ms := by rw [hu', State.modCopy_eq hk']
  refine ⟨?_, fun i hi => ?_, fun a ha => ?_⟩
  · rw [hu', State.modCopy_eq hk']
    exact Table.find?_insert_same ..
  · obtain ⟨before, after, hrun, hafter⟩ := byteRun_split (e := q.pte) (pa := q.pa) (n := c.desc.esize)
      (v := fun i => ((List.range c.desc.esize).map (srcBytes s c p)).getD i 0) hi
    rw [hrun] at hwritten
    rw [hms]
    have hlast := hwritten.byte_last (fun hsealed => absurd hsealed (by simp [hopen])) fun w hw =>
      ⟨Nat.ne_of_gt (hafter w hw).1, by rw [(hafter w hw).2]⟩
    refine hlast.trans ?_
    simp [hi]
  · rw [hms]
    refine hwritten.byte_other fun w hw => ?_
    obtain ⟨i, hi, rfl⟩ := mem_byteRun.1 hw
    refine ⟨fun heq : q.pa + i = a => ha (by omega), fun hb : (q.pa + i) / 4096 = a / 4096 => ?_⟩
    have hsame : a / 4096 = q.pa / 4096 := by omega
    simp [sealQuiet, hopen, hsame, hkid]

end

/-! ## COPY_FAULT (R187) -/

section
variable {s u : State} {core k j : Nat} {c d : Copy} {x : Cause} {va : Dword}

/-- The elements left of a copy ascend. -/
theorem Copy.rest_ascends (c : Copy) : c.rest.Pairwise (· < ·) :=
  (List.pairwise_map.2 (List.pairwise_lt_range.imp fun h => Nat.add_lt_add_left h _)).filter _

/-- Of ascending numbers, those before one are those smaller than it. -/
theorem takeWhile_lt_of_ascends {pre post : List Nat} (h : (pre ++ j :: post).Pairwise (· < ·)) :
    (pre ++ j :: post).takeWhile (fun i => decide (i < j)) = pre := by
  obtain ⟨_, _, hlt⟩ := List.pairwise_append.1 h
  rw [List.takeWhile_append_of_pos fun i hi => by simpa using hlt i hi j List.mem_cons_self, List.takeWhile_cons_of_neg (by simp), List.append_nil]

theorem exec_copyFault {pre post : List Nat} (hk : Table.find? s.copies k = some c) (hcore : c.core = core) (hrun : c.runs s = true)
    (hsplit : c.rest = pre ++ j :: post) (hclear : ∀ i ∈ pre, elemClear s c i = true) (hfault : firstFault s k c.rest = some (j, x, va))
    (hu : u = moveElems s k pre) (hd : Table.find? u.copies k = some d) :
    exec (.copyFault core k) s = .next (if d.rest.any (fun i => decide (i < j)) then u else copyFaultCause u k d j x va) := by
  have hpre : c.rest.takeWhile (fun i => decide (i < j)) = pre := by
    have hascends := c.rest_ascends
    rw [hsplit] at hascends ⊢
    exact takeWhile_lt_of_ascends hascends
  have hgo : ¬ (c.core ≠ core ∨ (!c.runs s) = true) := by simp [hcore, hrun]
  have hall : ¬ (!pre.all (elemClear s c)) = true := by simpa using hclear
  rw [exec, execCopyFault, hk]
  simp only
  rw [if_neg hgo, hfault]
  simp only [hpre]
  rw [if_neg hall, ← hu]
  simp only [hd]

/-- Nothing differs but the counts of the management block (R431). -/
def LifeOnly (s t : State) : Prop := t = { s with life := t.life }

section
variable {v : State} (h : LifeOnly u v)
include h

theorem LifeOnly.ms : v.ms = u.ms := by rw [h]
theorem LifeOnly.firn : v.firn = u.firn := by rw [h]
theorem LifeOnly.copies : v.copies = u.copies := by rw [h]
theorem LifeOnly.floes : v.floes = u.floes := by rw [h]
theorem LifeOnly.ctxs : v.ctxs = u.ctxs := by rw [h]

end

/-- The count of a failed seal changes no more than the count (R431). -/
theorem lifeOnly_countSeal (s : State) (core ctx : Nat) (secure : Bool) (x : Cause) (va : Dword) : LifeOnly s (s.countSeal core ctx secure x va) := by
  unfold State.countSeal
  split
  · rfl
  · split
    · dsimp only
      split <;> rfl
    · rfl

/-- What a replayable fault of a copy leaves: the copy waits, its record is posted. -/
def heldCopy (v : State) (k : Nat) (d : Copy) (j : Nat) (va : Dword) (r : List Byte) : State :=
  (v.modCopy k (fun d => { d with waiting := true, next := j, faultVa := va })).postRecord d.ctx r

/-- A floe that an abandoned copy leaves, its trap pending. -/
def Copy.fails (d : Copy) (k : Nat) (t : TrapInfo) (f : Floe) : Floe :=
  { (if d.desc.cta then f.acForget d.desc.ac else f).copyDone k with pendingTraps := f.pendingTraps ++ [t] }

/-- What another fault leaves: the copy is over, its trap waits for its floe, or the context stops where that has retired. -/
def failedCopy (v : State) (k : Nat) (d : Copy) (t : TrapInfo) (r : List Byte) : State :=
  let s1 := { v with copies := Table.erase v.copies k }
  match s1.floe? d.floe with
  | some f => if f.state = .retired then s1.fatalLive d.ctx r else (s1.postRecord d.ctx r).modFloe d.floe (d.fails k t)
  | none => s1.fatalLive d.ctx r

theorem copyFaultCause_held (hx : x = .pageNotPresent) (u : State) (k : Nat) (d : Copy) (j : Nat) (va : Dword) :
    ∃ v r, LifeOnly u v ∧ copyFaultCause u k d j x va = heldCopy v k d j va r :=
  ⟨_, _, lifeOnly_countSeal .., if_pos hx⟩

theorem copyFaultCause_failed (hx : x ≠ .pageNotPresent) (u : State) (k : Nat) (d : Copy) (j : Nat) (va : Dword) :
    ∃ v r, LifeOnly u v ∧ copyFaultCause u k d j x va
      = failedCopy v k d { cause := x, source := 1, tinfo := va, vaddr := va, elem := j, aux := d.num } r :=
  ⟨_, _, lifeOnly_countSeal .., if_neg hx⟩

section
variable {v : State} {t : TrapInfo} {r : List Byte} {f : Floe} {y : Ctx}

theorem failedCopy_live (hf : v.floe? d.floe = some f) (hlive : f.state ≠ .retired) :
    failedCopy v k d t r = State.modFloe (State.postRecord { v with copies := Table.erase v.copies k } d.ctx r) d.floe (d.fails k t) := by
  have hf' : State.floe? { v with copies := Table.erase v.copies k } d.floe = some f := hf
  simp only [failedCopy, hf']
  exact if_neg hlive

theorem failedCopy_fatal (hdead : ∀ f, v.floe? d.floe = some f → f.state = .retired) :
    failedCopy v k d t r = State.fatalLive { v with copies := Table.erase v.copies k } d.ctx r := by
  have hfloe : State.floe? { v with copies := Table.erase v.copies k } d.floe = v.floe? d.floe := rfl
  simp only [failedCopy, hfloe]
  cases hf : v.floe? d.floe with
  | none => rfl
  | some f => exact if_pos (hdead f hf)

theorem failedCopy_eq (v : State) (k : Nat) (d : Copy) (t : TrapInfo) (r : List Byte) : failedCopy v k d t r
    = { v with copies := Table.erase v.copies k, floes := (failedCopy v k d t r).floes, ctxs := (failedCopy v k d t r).ctxs } := by
  by_cases hlive : ∃ f, v.floe? d.floe = some f ∧ f.state ≠ .retired
  · obtain ⟨f, hf, hlive⟩ := hlive
    rw [failedCopy_live hf hlive, State.modFloe_eq, State.postRecord, State.modCtx_eq]
  · rw [failedCopy_fatal fun f hf => not_not.1 fun hne => hlive ⟨f, hf, hne⟩, State.fatalLive_eq]

/-- The floe that still runs has the trap, and the context the record. -/
theorem failedCopy_floe (hf : v.floe? d.floe = some f) (hlive : f.state ≠ .retired) :
    (failedCopy v k d t r).floe? d.floe = some (d.fails k t f) ∧
      ∀ y, v.ctx? d.ctx = some y → (failedCopy v k d t r).ctx? d.ctx = some { y with faultRecs := y.faultRecs ++ [⟨r⟩] } := by
  have hf' : State.floe? { v with copies := Table.erase v.copies k } d.floe = some f := hf
  rw [failedCopy_live hf hlive]
  refine ⟨?_, fun y hy => ?_⟩
  · rw [State.floe?_modFloe_same, State.floe?_of_floes (State.postRecord_floes ..), hf']
    rfl
  · have hy' : State.ctx? { v with copies := Table.erase v.copies k } d.ctx = some y := hy
    rw [State.ctx?_of_ctxs (State.modFloe_ctxs ..)]
    exact State.ctx?_postRecord hy' r

/-- Where the floe has retired, the context stops. -/
theorem failedCopy_ctx (hf : v.floe? d.floe = some f) (hret : f.state = .retired) (hy : v.ctx? d.ctx = some y) (hnd : y.state ≠ .destroyed) :
    (failedCopy v k d t r).ctx? d.ctx = some { y with state := .faulted, faultRecs := y.faultRecs ++ [⟨r⟩] } := by
  have hy' : State.ctx? { v with copies := Table.erase v.copies k } d.ctx = some y := hy
  rw [failedCopy_fatal fun g hg => (Option.some.inj (hf.symm.trans hg)) ▸ hret]
  exact State.ctx?_fatalLive hy' hnd r

end

/-- A replayable fault holds the copy, its record posted. -/
theorem copyFaultCause_waits (hx : x = .pageNotPresent) (hd : Table.find? u.copies k = some d) (va : Dword) :
    (copyFaultCause u k d j x va).ms = u.ms ∧ (copyFaultCause u k d j x va).firn = u.firn
      ∧ Table.find? (copyFaultCause u k d j x va).copies k = some { d with waiting := true, next := j, faultVa := va }
      ∧ (copyFaultCause u k d j x va).floes = u.floes
      ∧ ∀ y, u.ctx? d.ctx = some y → ∃ r, (copyFaultCause u k d j x va).ctx? d.ctx = some { y with faultRecs := y.faultRecs ++ [⟨r⟩] } := by
  obtain ⟨v, r, hv, heq⟩ := copyFaultCause_held hx u k d j va
  have hd' : Table.find? v.copies k = some d := hv.copies ▸ hd
  rw [heq, heldCopy, State.modCopy_eq hd']
  refine ⟨(State.postRecord_ms ..).trans hv.ms, (State.postRecord_firn ..).trans hv.firn, ?_, (State.postRecord_floes ..).trans hv.floes,
    fun y hy => ⟨r, State.ctx?_postRecord ?_ r⟩⟩
  · rw [State.postRecord_copies]
    exact Table.find?_insert_same ..
  · exact (State.ctx?_of_ctxs (s := u) hv.ctxs _).trans hy

/-- Another fault ends the copy; its trap waits for its floe, or the context stops where that has retired. -/
theorem copyFaultCause_ends (hx : x ≠ .pageNotPresent) (u : State) (k : Nat) (d : Copy) (j : Nat) (va : Dword) :
    (copyFaultCause u k d j x va).ms = u.ms ∧ (copyFaultCause u k d j x va).firn = u.firn ∧ (copyFaultCause u k d j x va).copies = Table.erase u.copies k
      ∧ (∀ f, u.floe? d.floe = some f → f.state ≠ .retired →
          (copyFaultCause u k d j x va).floe? d.floe = some { (if d.desc.cta then f.acForget d.desc.ac else f).copyDone k with
            pendingTraps := f.pendingTraps ++ [{ cause := x, source := 1, tinfo := va, vaddr := va, elem := j, aux := d.num }] }
          ∧ ∀ y, u.ctx? d.ctx = some y →
            ∃ r, (copyFaultCause u k d j x va).ctx? d.ctx = some { y with faultRecs := y.faultRecs ++ [⟨r⟩] })
      ∧ (∀ f y, u.floe? d.floe = some f → f.state = .retired → u.ctx? d.ctx = some y → y.state ≠ .destroyed →
          ∃ r, (copyFaultCause u k d j x va).ctx? d.ctx = some { y with state := .faulted, faultRecs := y.faultRecs ++ [⟨r⟩] }) := by
  obtain ⟨v, r, hv, heq⟩ := copyFaultCause_failed hx u k d j va
  have hctx (h : Nat) : v.ctx? h = u.ctx? h := State.ctx?_of_ctxs hv.ctxs h
  have hfloe (h : Nat) : v.floe? h = u.floe? h := State.floe?_of_floes hv.floes h
  rw [heq]
  refine ⟨?_, ?_, ?_, fun f hf hlive => ?_, fun f y hf hret hy hnd => ⟨r, failedCopy_ctx ((hfloe _).trans hf) hret ((hctx _).trans hy) hnd⟩⟩
  · rw [failedCopy_eq]
    exact hv.ms
  · rw [failedCopy_eq]
    exact hv.firn
  · rw [failedCopy_eq]
    exact congrArg (Table.erase · k) hv.copies
  · obtain ⟨hg, hrecord⟩ := failedCopy_floe (k := k) (r := r) (t := { cause := x, source := 1, tinfo := va, vaddr := va, elem := j, aux := d.num })
      ((hfloe _).trans hf) hlive
    exact ⟨hg, fun y hy => ⟨r, hrecord y ((hctx _).trans hy)⟩⟩

end

/-! ## MOVER_TRAP_DELIVERY (R187, R370) -/

/-- The oldest trap of a copy is delivered to its floe's handler at an instruction boundary. -/
theorem moverTrapDelivery_enters {s : State} {h : Nat} {f : Floe} {tr : TrapInfo} {rest : List TrapInfo} {sl : Slot} {x : Ctx} (hf : s.floe? h = some f)
    (htraps : f.pendingTraps = tr :: rest) (hsl : f.slot f.nextSlot = some sl) (hready : f.state = .ready) (hx : s.ctx? f.ctx = some x)
    (hrun : x.state ≠ .faulted) (hl : f.levelHandler = false) (hb : x.trapBase ≠ 0) (hsrc : tr.source = 1) :
    ∃ t, exec (.moverTrapDelivery h) s = .next t
      ∧ FloeEffect h (handlerEntry { f with pendingTraps := rest } f.nextSlot x.trapBase sl.pc sl.pc tr) s t := by
  have hstop : s.stopped f = false := by simp [State.stopped, hx, hrun]
  have hgo : ¬ (f.state ≠ .ready ∨ s.stopped f = true) := by simp [hready, hstop]
  let u := s.modFloe h (fun g => { g with pendingTraps := rest })
  have huf : u.floe? h = some { f with pendingTraps := rest } := by rw [State.floe?_modFloe_same, hf]; rfl
  have hux : u.ctx? f.ctx = some x := (State.ctx?_of_ctxs (State.modFloe_ctxs ..) _).trans hx
  have hexec : exec (.moverTrapDelivery h) s = .next (u.deliver h f.nextSlot sl.pc sl.pc tr) := by
    rw [exec, execMoverTrapDelivery, hf]
    simp only [htraps, hsl]
    exact if_neg hgo
  have hsource : ¬ (tr.cause = .pageNotPresent ∧ tr.source = 0) := by simp [hsrc]
  rw [State.deliver_vector hsource, State.vector_enters huf hux hl hb] at hexec
  refine ⟨_, hexec, ?_⟩
  constructor
  · rw [State.floe?_setFloe, if_pos rfl]
  · intro m hm
    rw [State.floe?_setFloe, if_neg hm, State.floe?_modFloe_ne _ _ hm]
  · intro a
    simp [u]
  · rw [OnlyFloes, State.setFloe]
    simp only [u]
    rw [State.modFloe_eq]

/-! ## The statement -/

/-- Settles O37: each step of the mover by the lemma above on what it leaves. -/
theorem moverSteps : Obligations.MoverSteps := by
  refine ⟨?_, ?_, ?_, ?_, ?_⟩
  · intro s core k c hk hcore hst hsv hafter hfirst
    exact copyStart_starts hk hcore hst hsv hafter hfirst
  · intro s u core k c d hk hcore hrun hfault hclear hu hd
    refine ⟨fun hrest => ?_, copyComplete_ends hk hcore hrun hfault hclear hu hd⟩
    rw [exec_copyComplete hk hcore hrun hfault hclear (hu ▸ hd), if_neg hrest, hu]
  · intro s u k j c p q hk hu hsrc hdst hopen hkid hblock
    exact moveElem_bytes hk hu hsrc hdst hopen hkid hblock
  · intro s u core k c d pre post j x va hk hcore hrun hsplit hclear hfault hu hd
    have hexec := exec_copyFault hk hcore hrun hsplit hclear hfault hu hd
    refine ⟨fun i hi hlt => hexec.trans (congrArg _ (if_pos ?_)), fun hle => ⟨_, hexec.trans (congrArg _ (if_neg ?_)), ?_⟩⟩
    · exact List.any_eq_true.2 ⟨i, hi, by simpa using hlt⟩
    · simpa using hle
    · by_cases hx : x = .pageNotPresent
      · obtain ⟨hms, hfirn, hcopy, hfloes, hrecord⟩ := copyFaultCause_waits (j := j) hx hd va
        exact ⟨hms, hfirn, fun _ => ⟨hcopy, hfloes, hrecord⟩, fun hne => absurd hx hne⟩
      · obtain ⟨hms, hfirn, hcopies, hlive, hretired⟩ := copyFaultCause_ends hx u k d j va
        exact ⟨hms, hfirn, fun heq => absurd heq hx, fun _ => ⟨hcopies, hlive, hretired⟩⟩
  · intro s h f tr rest sl x hf htraps hsl hready hx hrun hl hb hsrc
    exact moverTrapDelivery_enters hf htraps hsl hready hx hrun hl hb hsrc

end Sys2Proof.Machine
end

section
/-! SUPPORT. What a journal write, the end of a floe and a kill change: tables mapped and filtered, states that journal writes alone set apart, and floes
that keep their context and launch (R137, R160, R337, R359). -/

namespace Sys2Proof.Machine

/-! ## Tables -/

theorem Table.find?_map {α β : Type} (t : Table α) (g : Nat → α → β) (k : Nat) : Table.find? (Table.map t g) k = (Table.find? t k).map (g k) := by
  induction t with
  | nil => rfl
  | cons p t ih =>
    have hcons : Table.map (p :: t) g = (p.1, g p.1 p.2) :: Table.map t g := rfl
    rw [hcons, Table.find?, Table.find?]
    by_cases hk : p.1 = k
    · simp [hk]
    · simpa [hk] using ih

/-- An entry that is read is among those that a filter keeps, where it passes. -/
theorem Table.mem_keys_keep {α : Type} {t : Table α} {p : Nat → α → Bool} {k : Nat} {v : α} (h : Table.find? t k = some v) (hp : p k v = true) :
    k ∈ Table.keys (Table.keep t p) :=
  List.mem_map.2 ⟨(k, v), List.mem_filter.2 ⟨Table.mem_of_find? h, hp⟩, rfl⟩

/-- No entry is read of a key that a filter drops. -/
theorem Table.find?_keep_none {α : Type} {t : Table α} {p : Nat → α → Bool} {k : Nat} (h : ∀ v, p k v = false) :
    Table.find? (Table.keep t p) k = none := by
  refine Table.find?_none fun x hx hk => ?_
  obtain ⟨_, hp⟩ := List.mem_filter.1 hx
  subst hk
  exact Bool.false_ne_true ((h x.2).symm.trans hp)

/-! ## Contexts and instances changed -/

/-- A change that keeps a context's state is read where it was made. -/
theorem State.ctx?_modCtx {s : State} {n : Nat} {g : Ctx → Ctx} (hg : ∀ x, (g x).state = x.state) (k : Nat) :
    (s.modCtx n g).ctx? k = if k = n then (s.ctx? n).map g else s.ctx? k := by
  by_cases hk : k = n
  · subst hk
    rw [if_pos rfl]
    cases hc : s.ctx? k with
    | none => rw [State.modCtx, hc]; exact hc
    | some c => exact State.ctx?_modCtx_same hc (hg c)
  · rw [if_neg hk, State.modCtx]
    split
    · simp only [State.ctx?, State.setCtx]
      rw [Table.find?_insert_ne _ _ hk]
    · rfl

theorem State.inst?_modInst_isSome {s : State} {c i : Nat} (m n : Nat) (g : Inst → Inst) (h : (s.inst? c i).isSome = true) :
    ((s.modInst m n g).inst? c i).isSome = true := by
  unfold State.modInst
  split
  · simp only [State.inst?, Table.find?_insert]
    split
    · rfl
    · exact h
  · exact h

/-! ## Journal writes (R337) -/

/-- From `s` to `t` nothing differs but cores, the memory system, no line pinned or freed, and the journal writes on their way. -/
def JournalOnly (s t : State) : Prop := t = { s with cores := t.cores, ms := { t.ms with pins := s.ms.pins }, jOut := t.jOut }

namespace JournalOnly

theorem refl (s : State) : JournalOnly s s := rfl

section
variable {s t u : State}

theorem trans (h : JournalOnly s t) (k : JournalOnly t u) : JournalOnly s u := by
  rw [JournalOnly, k, h]

theorem of_memoryOnly (h : MemoryOnly s t) : JournalOnly s t := by
  rw [JournalOnly, h]

variable (h : JournalOnly s t)
include h

theorem floes : t.floes = s.floes := by rw [h]
theorem firn : t.firn = s.firn := by rw [h]
theorem ctxs : t.ctxs = s.ctxs := by rw [h]
theorem parts : t.parts = s.parts := by rw [h]
theorem queues : t.queues = s.queues := by rw [h]
theorem events : t.events = s.events := by rw [h]
theorem hcmdStat : t.hcmdStat = s.hcmdStat := by rw [h]
theorem pins : t.ms.pins = s.ms.pins := by rw [h]

end

end JournalOnly

theorem journalOnly_jWrite (s : State) (j : JRef) (off : Nat) (bs : List Byte) : JournalOnly s (s.jWrite j off bs) := by
  simp only [State.jWrite]
  split
  · rfl
  · split <;> rfl

theorem memoryOnly_writeVirt {s t : State} {core ctx : Nat} {secure : Bool} {va : Dword} {bs : List Byte}
    (h : writeVirt s core ctx secure va bs = .ok t) : MemoryOnly s t := by
  simp only [writeVirt] at h
  split at h
  · cases h
  · obtain rfl := Except.ok.inj h
    refine (MemoryOnly.foldl (fun u i => ?_) _ s).trans (cachesOnly_unpoison ..).memoryOnly
    split
    · exact (memoryOnly_engineByte ..).trans (cachesOnly_markWords ..).memoryOnly
    · exact .refl u

theorem journalOnly_journalPart (s : State) (part : Nat) : JournalOnly s (s.journalPart part) := by
  have hout (w : JWrite) : JournalOnly s { s with jOut := s.jOut.erase w } := rfl
  simp only [State.journalPart]
  split
  · rfl
  · next w _ =>
    split
    · rfl
    · split
      · next u hu => exact (hout w).trans (.of_memoryOnly (memoryOnly_writeVirt hu))
      · exact hout w

theorem journalOnly_jNow (s : State) (j : JRef) (off : Nat) (bs : List Byte) : JournalOnly s (s.jNow j off bs) := by
  simp only [State.jNow]
  split
  · exact journalOnly_jWrite ..
  · exact (journalOnly_jWrite ..).trans (journalOnly_journalPart ..)

theorem journalOnly_jSet (s : State) (j : JRef) (status reason inst : Nat) : JournalOnly s (s.jSet j status reason inst) := by
  simp only [State.jSet]
  split
  · rfl
  · exact (journalOnly_jNow ..).trans (journalOnly_jWrite ..)

/-- A new entry counts in its partition, and is written as any other. -/
theorem journalOnly_jNew (s : State) (part high status reason inst : Nat) :
    JournalOnly (s.modPart part (fun p => { p with jSeq := (s.part part).jSeq + 1 })) (s.jNew part high status reason inst).1 :=
  journalOnly_jNow ..

/-! ## The end of a floe (R137, R160) -/

/-- From `s` to `t` nothing differs but instances, colours, matrix contexts and cores, and no launch is gone. -/
structure Settles (s t : State) : Prop where
  same : t = { s with insts := t.insts, colours := t.colours, mx := t.mx, cores := t.cores }
  insts : ∀ c i, (s.inst? c i).isSome = true → (t.inst? c i).isSome = true

namespace Settles

theorem refl (s : State) : Settles s s := ⟨rfl, fun _ _ h => h⟩

section
variable {s t u : State}

theorem trans (h : Settles s t) (k : Settles t u) : Settles s u :=
  ⟨by rw [k.same, h.same], fun c i hi => k.insts c i (h.insts c i hi)⟩

/-- A change that leaves the instances. -/
theorem of_same (h : t = { s with colours := t.colours, mx := t.mx, cores := t.cores }) : Settles s t := by
  have hinsts : t.insts = s.insts := by rw [h]
  exact ⟨by rw [h], fun c i hi => by rwa [State.inst?_of_insts hinsts]⟩

theorem floes (h : Settles s t) : t.floes = s.floes := by rw [h.same]
theorem ctxs (h : Settles s t) : t.ctxs = s.ctxs := by rw [h.same]

end

theorem foldl {α : Type} {g : State → α → State} (h : ∀ s a, Settles s (g s a)) (l : List α) (s : State) : Settles s (l.foldl g s) :=
  List.foldlRecOn l g (motive := Settles s) (refl s) fun t ht a _ => ht.trans (h t a)

end Settles

theorem settles_modInst (s : State) (c i : Nat) (g : Inst → Inst) : Settles s (s.modInst c i g) :=
  ⟨by rw [State.modInst_eq], fun _ _ => State.inst?_modInst_isSome c i g⟩

theorem settles_leavePack (f : Floe) (h : Nat) (s : State) (p : Pack) : Settles s (s.leavePack f h p) := by
  have hcolour (t : State) (b k : Nat) (x : Colour) : Settles t (t.setColour b k x) := .of_same rfl
  simp only [State.leavePack]
  split
  · exact .refl s
  · split
    · split
      · split
        · exact (settles_modInst ..).trans (hcolour ..)
        · exact settles_modInst ..
      · exact settles_modInst ..
    · exact settles_modInst ..

theorem settles_releaseMx (s : State) (h core : Nat) (discard : Bool) : Settles s (s.releaseMx h core discard) := by
  have hmx (t : State) (c m : Nat) (x : Matrix) : Settles t (t.setMatrix c m x) := .of_same rfl
  unfold State.releaseMx
  split
  · exact .refl s
  · dsimp only
    split
    · exact (hmx ..).trans (hmx ..)
    · exact hmx ..

theorem settles_dropRegion (core : Nat) (s : State) (r : Region) : Settles s (State.dropRegion core s r) := by
  have hcore (t : State) (c : Nat) (g : Core → Core) : Settles t (t.modCore c g) := .of_same rfl
  simp only [State.dropRegion]
  split
  · exact .refl s
  · split
    · exact (hcore ..).trans (settles_modInst ..)
    · exact hcore ..

theorem settles_sleepCore (s : State) (core : Nat) : Settles s (s.sleepCore core) := by
  unfold State.sleepCore
  split
  · exact .of_same rfl
  · exact .refl s

/-- The states of all contexts are as they were. -/
def SameStates (s t : State) : Prop := ∀ k, (t.ctx? k).map Ctx.state = (s.ctx? k).map Ctx.state

theorem SameStates.of_ctxs {s t : State} (h : t.ctxs = s.ctxs) : SameStates s t := fun k => by rw [State.ctx?_of_ctxs h]

theorem SameStates.trans {s t u : State} (h : SameStates s t) (k : SameStates t u) : SameStates s u := fun n => (k n).trans (h n)

theorem sameStates_modCtx (s : State) (n : Nat) {g : Ctx → Ctx} (hg : ∀ x, (g x).state = x.state) : SameStates s (s.modCtx n g) := by
  intro k
  rw [State.ctx?_modCtx hg]
  split
  · next hk =>
    subst hk
    cases s.ctx? k with
    | none => rfl
    | some c => exact congrArg some (hg c)
  · rfl

/-- A context that keeps its state is there as before. -/
theorem SameStates.ctx? {s t : State} (h : SameStates s t) {k : Nat} {c : Ctx} (hc : s.ctx? k = some c) :
    ∃ x, t.ctx? k = some x ∧ x.state = c.state := by
  have hk := h k
  rw [hc] at hk
  exact Option.map_eq_some_iff.1 hk

theorem unlist_insts (s : State) (f : Floe) (h : Nat) : (s.unlist f h).insts = s.insts := by simp [State.unlist]

theorem sameStates_unlist (s : State) (f : Floe) (h : Nat) : SameStates s (s.unlist f h) := by
  simp only [State.unlist]
  refine SameStates.trans ?_ (.of_ctxs (State.modCore_ctxs ..))
  refine SameStates.trans (.of_ctxs rfl) (sameStates_modCtx _ f.ctx ?_)
  exact fun x => rfl

/-- What the end of a floe leaves of the machine. -/
structure FloeEnds (s : State) (h : Nat) (f : Floe) (t : State) : Prop where
  floes : t.floes = Table.insert s.floes h f.ended
  states : SameStates s t
  insts : ∀ c i, (s.inst? c i).isSome = true → (t.inst? c i).isSome = true

theorem floeEnd_ends {s : State} {h : Nat} {f : Floe} (hf : s.floe? h = some f) (kill : Bool) : FloeEnds s h f (s.floeEnd h kill) := by
  have hleft : Settles s ((s.leaveAll f h).releaseMx h f.core kill) := (Settles.foldl (settles_leavePack f h) _ s).trans (settles_releaseMx ..)
  rw [State.floeEnd, hf]
  simp only
  generalize (s.leaveAll f h).releaseMx h f.core kill = s1 at hleft
  have hkept : (if kill then { s1.unlist f h with ops := Table.keep (s1.unlist f h).ops (fun _ o => !(o.floe == h && o.state == .faulted)) }
      else s1.unlist f h) = { s1.unlist f h with ops := (if kill then { s1.unlist f h with
        ops := Table.keep (s1.unlist f h).ops (fun _ o => !(o.floe == h && o.state == .faulted)) } else s1.unlist f h).ops } := by
    split <;> rfl
  rw [hkept]
  generalize (if kill then { s1.unlist f h with ops := Table.keep (s1.unlist f h).ops (fun _ o => !(o.floe == h && o.state == .faulted)) }
      else s1.unlist f h).ops = ops
  have hend (u : State) : Settles u ((u.settleScratch f.core).sleepCore f.core) :=
    (Settles.foldl (settles_dropRegion f.core) _ u).trans (settles_sleepCore ..)
  refine ⟨(hend _).floes.trans ?_, ?_, fun c i hi => (hend _).insts c i ?_⟩
  · exact congrArg (Table.insert · h f.ended) ((sameRuns_unlist s1 f h).floes.trans hleft.floes)
  · refine SameStates.trans (.of_ctxs hleft.ctxs) (SameStates.trans (sameStates_unlist s1 f h) (.of_ctxs ?_))
    exact (hend _).ctxs
  · exact (congrArg Option.isSome (State.inst?_of_insts (unlist_insts s1 f h) c i)).trans (hleft.insts c i hi)

/-! ## Kills (R137, R359) -/

/-- From `s` to `t` floes keep their context and launch, the retired ones stay so, and no launch is gone. -/
structure Kills (s t : State) : Prop where
  floes : ∀ h g, t.floe? h = some g → ∃ f, s.floe? h = some f ∧ g.ctx = f.ctx ∧ g.inst = f.inst ∧ (f.state = .retired → g.state = .retired)
  insts : ∀ c i, (s.inst? c i).isSome = true → (t.inst? c i).isSome = true

namespace Kills

section
variable {s t u : State}

theorem of_same (hf : t.floes = s.floes) (hi : ∀ c i, (s.inst? c i).isSome = true → (t.inst? c i).isSome = true) : Kills s t :=
  ⟨fun h g hg => ⟨g, (State.floe?_of_floes hf h).symm.trans hg, rfl, rfl, id⟩, hi⟩

theorem refl (s : State) : Kills s s := .of_same rfl fun _ _ h => h

theorem trans (h : Kills s t) (k : Kills t u) : Kills s u := by
  refine ⟨fun n g hg => ?_, fun c i hi => k.insts c i (h.insts c i hi)⟩
  obtain ⟨f1, hf1, hctx1, hinst1, hret1⟩ := k.floes n g hg
  obtain ⟨f, hf, hctx, hinst, hret⟩ := h.floes n f1 hf1
  exact ⟨f, hf, hctx1.trans hctx, hinst1.trans hinst, fun hr => hret1 (hret hr)⟩

/-- A floe changed that keeps what it must. -/
theorem of_insert {h : Nat} {f g : Floe} (hf : s.floe? h = some f) (ht : t.floes = Table.insert s.floes h g) (hctx : g.ctx = f.ctx)
    (hinst : g.inst = f.inst) (hret : f.state = .retired → g.state = .retired)
    (hi : ∀ c i, (s.inst? c i).isSome = true → (t.inst? c i).isSome = true) : Kills s t := by
  refine ⟨fun n x hx => ?_, hi⟩
  rw [State.floe?, ht, Table.find?_insert] at hx
  split at hx
  · next hn =>
    obtain rfl := Option.some.inj hx
    exact ⟨f, hn ▸ hf, hctx, hinst, hret⟩
  · exact ⟨x, hx, rfl, rfl, id⟩

end

theorem foldl {α : Type} {g : State → α → State} (h : ∀ s a, Kills s (g s a)) (l : List α) (s : State) : Kills s (l.foldl g s) :=
  List.foldlRecOn l g (motive := Kills s) (refl s) fun t ht a _ => ht.trans (h t a)

/-- Where each step retires its floe, all of the list are retired after a fold. -/
theorem foldl_retired {g : State → Nat → State} (hg : ∀ s a, Kills s (g s a)) (hret : ∀ s a f, (g s a).floe? a = some f → f.state = .retired)
    (l : List Nat) (s : State) {h : Nat} (hh : h ∈ l) {f : Floe} (hf : (l.foldl g s).floe? h = some f) : f.state = .retired := by
  induction l generalizing s with
  | nil => cases hh
  | cons a l ih =>
    by_cases hl : h ∈ l
    · exact ih (g s a) hl hf
    · obtain rfl : h = a := (List.mem_cons.1 hh).resolve_right hl
      obtain ⟨f1, hf1, _, _, hkeep⟩ := (Kills.foldl hg l (g s h)).floes h f hf
      exact hkeep (hret s h f1 hf1)

/-- Where each step retires its floe, no floe that a filter selects by its context and launch runs on. -/
theorem foldl_selected {g : State → Nat → State} (hg : ∀ s a, Kills s (g s a)) (hret : ∀ s a f, (g s a).floe? a = some f → f.state = .retired)
    {p : Floe → Bool} (hp : ∀ f f' : Floe, f'.ctx = f.ctx → f'.inst = f.inst → p f' = p f) (s : State) {h : Nat} {f : Floe}
    (hf : ((Table.keys (Table.keep s.floes (fun _ x => p x && x.state != .retired))).foldl g s).floe? h = some f) (hsel : p f = true) :
    f.state = .retired := by
  obtain ⟨f0, hf0, hctx, hinst, hkeep⟩ := (Kills.foldl hg _ s).floes h f hf
  by_cases hr : f0.state = .retired
  · exact hkeep hr
  · have hsel0 : p f0 = true := (hp f0 f hctx hinst).symm.trans hsel
    exact foldl_retired hg hret _ s (Table.mem_keys_keep hf0 (by simp [hsel0, hr])) hf

end Kills

theorem kills_floeEnd (s : State) (h : Nat) (kill : Bool) : Kills s (s.floeEnd h kill) := by
  cases hf : s.floe? h with
  | none => rw [State.floeEnd, hf]; exact .refl s
  | some f =>
    have hend := floeEnd_ends hf kill
    have hkept : f.ended.ctx = f.ctx ∧ f.ended.inst = f.inst := by
      simp only [Floe.ended]
      split <;> exact ⟨rfl, rfl⟩
    exact .of_insert hf hend.floes hkept.1 hkept.2 (fun _ => rfl) hend.insts

theorem floeEnd_retired {s : State} {h : Nat} {kill : Bool} {g : Floe} (hg : (s.floeEnd h kill).floe? h = some g) : g.state = .retired := by
  cases hf : s.floe? h with
  | none =>
    rw [State.floeEnd, hf] at hg
    cases hf.symm.trans hg
  | some f =>
    rw [State.floe?, (floeEnd_ends hf kill).floes, Table.find?_insert_same] at hg
    obtain rfl := Option.some.inj hg
    rfl

/-- A floe that is killed is retired. -/
theorem floeEnd_floe {s : State} {h : Nat} {f : Floe} (hf : s.floe? h = some f) (kill : Bool) : (s.floeEnd h kill).floe? h = some f.ended := by
  rw [State.floe?, (floeEnd_ends hf kill).floes, Table.find?_insert_same]

/-- REPLAY of a copy kills no floe but its own. -/
theorem kills_replayCopy (s : State) (id : Nat) (c : Copy) (a : Nat) : Kills s (s.replayCopy id c a) := by
  have hgone : Kills s { s with copies := Table.erase s.copies id } := .of_same rfl fun _ _ h => h
  have hctxs (t : State) (x : Table Ctx) : Kills t { t with ctxs := x } := .of_same rfl fun _ _ h => h
  simp only [State.replayCopy]
  split
  · exact .of_same (State.modCopy_floes ..) fun c' i hi => by rwa [State.inst?_of_insts (State.modCopy_insts ..)]
  · exact hgone.trans (kills_floeEnd ..)
  · split
    · next f hf =>
      split
      · rw [State.fatalLive_eq]
        exact hgone.trans (hctxs ..)
      · obtain ⟨hctx, hinst, hstate⟩ : (if c.desc.cta then f.acForget c.desc.ac else f).ctx = f.ctx ∧
            (if c.desc.cta then f.acForget c.desc.ac else f).inst = f.inst ∧ (if c.desc.cta then f.acForget c.desc.ac else f).state = f.state := by
          split <;> exact ⟨rfl, rfl, rfl⟩
        rw [State.modFloe, hf]
        exact hgone.trans (.of_insert hf rfl hctx hinst hstate.trans fun _ _ h => h)
    · exact hgone

theorem kills_restoreCopies (s : State) (h core : Nat) : Kills s (s.restoreCopies h core) := by
  refine .foldl (fun t id => ?_) _ s
  have hcopy (c : Copy) : Kills t { t with copies := Table.insert t.copies id c } := .of_same rfl fun _ _ h => h
  split
  · exact .refl t
  · dsimp only
    split
    · exact (hcopy _).trans (kills_replayCopy ..)
    · exact (hcopy _).trans (.of_same (State.postRecord_floes ..) fun c i hi => by rwa [State.inst?_of_insts (State.postRecord_insts ..)])

theorem kills_killFloe (s : State) (h : Nat) : Kills s (s.killFloe h) := by
  simp only [State.killFloe]
  split
  · exact .refl s
  · split
    · exact (kills_floeEnd ..).trans (kills_restoreCopies ..)
    · exact kills_floeEnd ..

theorem killFloe_retired (s : State) (h : Nat) (g : Floe) (hg : (s.killFloe h).floe? h = some g) : g.state = .retired := by
  simp only [State.killFloe] at hg
  split at hg
  · next hf => cases hf.symm.trans hg
  · split at hg
    · obtain ⟨f1, hf1, _, _, hkeep⟩ := (kills_restoreCopies ..).floes h g hg
      exact hkeep (floeEnd_retired hf1)
    · exact floeEnd_retired hg

end Sys2Proof.Machine
end

section
/-! The effects of commands that end later, of CREATE and DESTROY, of REPLAY on a floe and of a kill (R178, R357, R359, R368, R381, R382, R397). -/

namespace Sys2Proof.Machine

/-! ## Reports of commands (R337, R382) -/

/-- What a command of the host, or a journal write, leaves of floes and contexts: all. -/
structure Reports (s t : State) : Prop where
  floes : t.floes = s.floes
  ctxs : t.ctxs = s.ctxs
  queues : t.queues = s.queues
  pins : t.ms.pins = s.ms.pins

theorem Reports.refl (s : State) : Reports s s := ⟨rfl, rfl, rfl, rfl⟩

theorem Reports.trans {s t u : State} (h : Reports s t) (k : Reports t u) : Reports s u :=
  ⟨k.floes.trans h.floes, k.ctxs.trans h.ctxs, k.queues.trans h.queues, k.pins.trans h.pins⟩

theorem Reports.foldl {α : Type} {g : State → α → State} (h : ∀ s a, Reports s (g s a)) (l : List α) (s : State) : Reports s (l.foldl g s) :=
  List.foldlRecOn l g (motive := Reports s) (.refl s) fun t ht a _ => ht.trans (h t a)

theorem reports_jSet (s : State) (j : JRef) (status reason inst : Nat) : Reports s (s.jSet j status reason inst) :=
  have h := journalOnly_jSet s j status reason inst
  ⟨h.floes, h.ctxs, h.queues, h.pins⟩

/-- HCMDSTAT alone changes. -/
theorem State.hcmd_eq (s : State) (fn status reason num seq : Nat) :
    s.hcmd fn status reason num seq = { s with hcmdStat := (s.hcmd fn status reason num seq).hcmdStat } := by
  rw [State.hcmd]

theorem reports_hcmd (s : State) (fn status reason num seq : Nat) : Reports s (s.hcmd fn status reason num seq) := by
  rw [State.hcmd_eq]
  exact ⟨rfl, rfl, rfl, rfl⟩

/-! ## Commands come to their bodies (R380, R381) -/

section
variable {src : CmdSource} {code ctx : Nat} {c : Ctx} {args : List Dword} {j : JRef} {sent : Option Nat} {s s1 : State}

theorem runCmd_path (h : CmdPath src code s ctx c args j sent s1) (body : CmdBody) :
    runCmd code body src s = .next ((body ctx c args (j, sent) s1).finish j sent) := by
  obtain ⟨hc, hlive, hsrc⟩ := h
  cases src with
  | queued n =>
    obtain ⟨rfl, hbusy, k, rest, hcmds, hcode, hended, rfl, rfl, rfl, rfl⟩ := hsrc
    have hgo : ¬ (k.code ≠ code ∨ (!s.ended k.after) = true ∨ c.busy = true) := by simp [hcode, hended, hbusy]
    simp only [runCmd, runQueued, hc, hcmds]
    rw [if_neg hgo, if_neg hlive]
  | host fn cx rsv a0 a1 a2 a3 =>
    obtain ⟨hfn, hboot, rfl, rfl, rfl, hfree, htarget, t, hnew, rfl⟩ := hsrc
    have hgo : ¬ (12 < fn ∨ s.life.boot ≠ .ready) := by simp [hboot, hfn]
    have hfirst : ¬ (code ≠ 0x11 ∧ (c.busy = true ∨ c.cmds ≠ [])) := by
      rintro ⟨hne, hwait⟩
      obtain ⟨hbusy, hcmds⟩ := hfree.resolve_left hne
      simp [hbusy, hcmds] at hwait
    simp only [runCmd, runHost, Bool.false_eq_true, if_false, htarget, hc]
    rw [if_neg hgo, hnew]
    exact congrArg _ (if_neg hfirst)

/-- The context is there as the body finds it. -/
theorem CmdPath.ctx? (h : CmdPath src code s ctx c args j sent s1) : ∃ x, s1.ctx? ctx = some x := by
  obtain ⟨hc, _, hsrc⟩ := h
  cases src with
  | queued n =>
    obtain ⟨rfl, _, k, rest, _, _, _, _, _, _, rfl⟩ := hsrc
    exact ⟨_, State.ctx?_modCtx_same hc rfl⟩
  | host fn cx rsv a0 a1 a2 a3 =>
    obtain ⟨_, _, _, _, _, _, _, t, hnew, rfl⟩ := hsrc
    have ht : t.ctxs = s.ctxs := by
      have hj := (journalOnly_jNew s (if fn = 0 then c.home else fn - 1) (jHigh 4 false 15 (cmdQueue code args) 0 Config.deviceId.toNat) 0 0 0).ctxs
      rw [hnew] at hj
      exact hj
    exact ⟨c, (State.ctx?_of_ctxs ((reports_hcmd ..).ctxs.trans ht) ctx).trans hc⟩

/-! ## REKEY, SAVE, MIGRATE (R359, R368, R397) -/

/-- A REKEY that leaves blocks to encrypt does not end at once. -/
theorem rekeyBody_begins {p : JRef × Option Nat} {x : Ctx} (hx : s1.ctx? ctx = some x) (hstate : c.state ∈ [.running, .resident]) (hargs : ∀ x ∈ args, x = 0)
    (hnot : c.rekeying = none) (hkid : s1.ms.nextKid + 1 < 2 ^ 20) (hleft : blocksOf s1 c c.keyKid ≠ []) :
    rekeyBody ctx c args p s1 = {
      s := State.modCtx { s1 with ms := { s1.ms with nextKid := s1.ms.nextKid + 1 } } ctx (fun x => { x with
        keyKid := s1.ms.nextKid + 1, oldKids := [c.keyKid], rekeyLeft := blocksOf s1 c c.keyKid, rekeying := some p })
      ok := true, later := true } := by
  have hmay : (c.state == .running || c.state == .resident) = true := by simpa using hstate
  have hzero : args.any (fun x => x != 0) = false := by simpa using hargs
  have hgo : ¬ ((!(c.state == .running || c.state == .resident)) = true ∨ args.any (fun x => x != 0) = true ∨ c.rekeying.isSome = true
      ∨ 2 ^ 20 ≤ s1.ms.nextKid + 1) := by
    rw [hmay, hzero, hnot]
    have hroom : ¬ 2 ^ 20 ≤ s1.ms.nextKid + 1 := Nat.not_le.2 hkid
    simp only [Bool.not_true, Bool.false_eq_true, Option.isSome_none, hroom, or_self, not_false_eq_true]
  have hctx : (State.modCtx { s1 with ms := { s1.ms with nextKid := s1.ms.nextKid + 1 } } ctx (fun x => { x with
      keyKid := s1.ms.nextKid + 1, oldKids := [c.keyKid], rekeyLeft := blocksOf s1 c c.keyKid, rekeying := some p })).ctx? ctx = some { x with
      keyKid := s1.ms.nextKid + 1, oldKids := [c.keyKid], rekeyLeft := blocksOf s1 c c.keyKid, rekeying := some p } :=
    State.ctx?_modCtx_same (c := x) hx rfl
  simp only [rekeyBody]
  rw [if_neg hgo, State.endRekey_left hctx hleft]

theorem saveBody_begins {p : JRef × Option Nat} (hstate : c.state = .running) :
    saveBody ctx c args p s1 = {
      s := (s1.preemptAll (fun f => f.ctx == ctx)).modCtx ctx (fun x => { x with state := .preempting, pending := some p })
      ok := true, later := true } := by
  simp only [saveBody, hstate]
  rfl

/-- Both cores are the context's, apart, and the destination takes floes. -/
theorem migrateBody_begins {p : JRef × Option Nat} (hstate : c.state = .running) (hne : arg args 0 ≠ arg args 1) (hv0 : coreValid (arg args 0) = true)
    (hv1 : coreValid (arg args 1) = true) (hp0 : c.parts.contains (partOf (arg args 0)) = true) (hp1 : c.parts.contains (partOf (arg args 1)) = true)
    (hhalt : (s1.core (arg args 1)).halted = false) (hquar : (s1.core (arg args 1)).quarantined = false) :
    migrateBody ctx c args p s1 = {
      s := (s1.preemptAll (fun f => f.ctx == ctx && f.core == arg args 0)).modCtx ctx (fun x =>
        { x with state := .migrating, migrate := [(arg args 0, some (arg args 1))], pending := some p })
      ok := true, later := true } := by
  simp only [migrateBody, hv0, hv1, hp0, hp1, hhalt, hquar]
  exact if_neg (by simp [hstate, hne])

/-! ## DESTROY (R357, R359) -/

/-- The end of a command that is not to end later reports it. -/
theorem reports_finish (r : CmdRes) (j : JRef) (fn : Option Nat) : Reports r.s (r.finish j fn) := by
  simp only [CmdRes.finish]
  split
  · exact .refl r.s
  · split
    · exact (reports_jSet ..).trans (reports_hcmd ..)
    · exact reports_jSet ..

/-- The end of a pending command changes no more than the context's note of it. -/
theorem endPending_reports (s : State) (ctx : Nat) (ok : Bool) : (s.endPending ctx ok).floes = s.floes ∧ (s.endPending ctx ok).queues = s.queues
    ∧ (s.endPending ctx ok).ms.pins = s.ms.pins
    ∧ ∀ x, s.ctx? ctx = some x → ∃ y, (s.endPending ctx ok).ctx? ctx = some y ∧ y = { x with pending := y.pending } := by
  simp only [State.endPending]
  split
  · exact ⟨rfl, rfl, rfl, fun x hx => ⟨x, hx, rfl⟩⟩
  · next j fn _ =>
    have hset := reports_jSet s j (if ok then 2 else 3) (if ok then 0 else 8) 0
    generalize s.jSet j (if ok then 2 else 3) (if ok then 0 else 8) 0 = t at hset
    have hctx (x : Ctx) (hx : s.ctx? ctx = some x) :
        (t.modCtx ctx (fun c => { c with pending := none })).ctx? ctx = some { x with pending := none } :=
      State.ctx?_modCtx_same (c := x) ((State.ctx?_of_ctxs hset.ctxs _).trans hx) rfl
    have hmod : (t.modCtx ctx (fun c => { c with pending := none })).floes = s.floes ∧ (t.modCtx ctx (fun c => { c with pending := none })).queues = s.queues
        ∧ (t.modCtx ctx (fun c => { c with pending := none })).ms.pins = s.ms.pins := by
      rw [State.modCtx_eq]
      exact ⟨hset.floes, hset.queues, hset.pins⟩
    obtain ⟨hfloes, hqueues, hpins⟩ := hmod
    split
    · next n _ =>
      have hcmd := reports_hcmd (t.modCtx ctx (fun c => { c with pending := none })) n (if ok then 2 else 3) (if ok then 0 else 8) 0 j.seq
      exact ⟨hcmd.floes.trans hfloes, hcmd.queues.trans hqueues, hcmd.pins.trans hpins,
        fun x hx => ⟨_, (State.ctx?_of_ctxs hcmd.ctxs _).trans (hctx x hx), rfl⟩⟩
    · exact ⟨hfloes, hqueues, hpins, fun x hx => ⟨_, hctx x hx, rfl⟩⟩

/-- The context marked destroyed and its floes killed. -/
def killedAll (s : State) (ctx : Nat) : State :=
  let s1 := { s with ctxs := Table.map s.ctxs (fun k x => if k = ctx then { x with state := .destroyed } else x) }
  (Table.keys (Table.keep s1.floes (fun _ f => f.ctx == ctx && f.state != .retired))).foldl (fun (t : State) h => t.floeEnd h true) s1

theorem killedAll_floes {s : State} {ctx h : Nat} {f : Floe} (hf : (killedAll s ctx).floe? h = some f) (hctx : f.ctx = ctx) : f.state = .retired :=
  Kills.foldl_selected (g := fun (t : State) h => t.floeEnd h true) (fun t a => kills_floeEnd t a true) (fun _ _ _ hg => floeEnd_retired hg)
    (p := fun f => f.ctx == ctx) (fun _ _ hc _ => by rw [hc]) _ hf (by simpa using hctx)

theorem sameStates_floeEnd (s : State) (h : Nat) (kill : Bool) : SameStates s (s.floeEnd h kill) := by
  cases hf : s.floe? h with
  | none => rw [State.floeEnd, hf]; exact .of_ctxs rfl
  | some f => exact (floeEnd_ends hf kill).states

theorem killedAll_ctx {s : State} {ctx : Nat} {c : Ctx} (hc : s.ctx? ctx = some c) : ∃ x, (killedAll s ctx).ctx? ctx = some x ∧ x.state = .destroyed := by
  have hmarked : State.ctx? { s with ctxs := Table.map s.ctxs (fun k x => if k = ctx then { x with state := .destroyed } else x) } ctx
      = some { c with state := .destroyed } := by
    obtain ⟨x, hx, hsome⟩ := Option.bind_eq_some_iff.1 hc
    have hfree : x = c := by
      split at hsome
      · cases hsome
      · exact Option.some.inj hsome
    simp only [State.ctx?, Table.find?_map, hx, hfree]
    simp
  have hstates : SameStates { s with ctxs := Table.map s.ctxs (fun k x => if k = ctx then { x with state := .destroyed } else x) } (killedAll s ctx) :=
    List.foldlRecOn _ _ (motive := SameStates _) (.of_ctxs rfl) fun t ht h _ => ht.trans (sameStates_floeEnd t h true)
  exact hstates.ctx? hmarked

/-- What DESTROY takes from the context beside its floes. -/
def destroyedRest (s3 : State) (ctx : Nat) : State :=
  { s3 with
    insts := Table.map s3.insts (fun k i => if k / 2 ^ 32 = ctx then { i with killed := true, wait := none, js := [] } else i)
    colours := Table.keep s3.colours (fun _ x => x.ctx != ctx)
    events := Table.keep s3.events (fun k _ => k / 65536 != ctx)
    queues := Table.map s3.queues (fun _ q => if q.ctx = ctx then { q with enabled := false } else q)
    ms := { s3.ms with pins := s3.ms.pins.filter (fun p => p.1 != ctx) } }

/-- A context without its keys and all that waits in it. -/
def Ctx.forgotten (x : Ctx) : Ctx := { x with keyKid := 0, oldKids := [], rekeyLeft := [], cmds := [], evOps := [], faultRecs := [] }

theorem destroyBody_eq (ctx : Nat) (c : Ctx) (args : List Dword) (p : JRef × Option Nat) (s : State) :
    ∃ s3, Reports (killedAll s ctx) s3 ∧ destroyBody ctx c args p s = .done (((destroyedRest s3 ctx).modCtx ctx Ctx.forgotten).endPending ctx false) := by
  refine ⟨_, ?_, rfl⟩
  refine Reports.trans (.foldl (fun t x => .foldl (fun u j => reports_jSet u j _ _ _) _ t) _ _) (.foldl (fun t k => Reports.trans ?_ (reports_jSet ..)) _ _)
  split
  · exact reports_hcmd ..
  · exact .refl t

/-- What DESTROY leaves (R357, R359). -/
structure Destroyed (ctx : Nat) (t : State) : Prop where
  ctx? : ∃ x, t.ctx? ctx = some x ∧ x.state = .destroyed ∧ x.keyKid = 0 ∧ x.oldKids = [] ∧ x.cmds = []
  floes : ∀ h f, t.floe? h = some f → f.ctx = ctx → f.state = .retired
  pins : ∀ p ∈ t.ms.pins, p.1 ≠ ctx
  queues : ∀ k q, t.queue? k = some q → q.ctx = ctx → q.enabled = false

theorem Destroyed.reported {ctx : Nat} {t u : State} (h : Destroyed ctx t) (k : Reports t u) : Destroyed ctx u where
  ctx? := by
    obtain ⟨x, hx, hrest⟩ := h.ctx?
    exact ⟨x, (State.ctx?_of_ctxs k.ctxs _).trans hx, hrest⟩
  floes := fun n f hf => h.floes n f ((State.floe?_of_floes k.floes n).symm.trans hf)
  pins := fun p hp => h.pins p (k.pins ▸ hp)
  queues := fun n q hq => h.queues n q (by rwa [State.queue?, ← k.queues])

theorem destroyedRest_destroyed {s3 : State} (h : Reports (killedAll s1 ctx) s3) {x : Ctx} (hx : s1.ctx? ctx = some x) :
    Destroyed ctx (((destroyedRest s3 ctx).modCtx ctx Ctx.forgotten).endPending ctx false) := by
  obtain ⟨y, hy, hystate⟩ := killedAll_ctx hx
  have hy3 : (destroyedRest s3 ctx).ctx? ctx = some y := (State.ctx?_of_ctxs h.ctxs ctx).trans hy
  have hforgot : ((destroyedRest s3 ctx).modCtx ctx Ctx.forgotten).ctx? ctx = some y.forgotten := State.ctx?_modCtx_same hy3 rfl
  have hmod := State.modCtx_eq (destroyedRest s3 ctx) ctx Ctx.forgotten
  generalize (destroyedRest s3 ctx).modCtx ctx Ctx.forgotten = u at hforgot hmod
  obtain ⟨hfloes, hqueues, hpins, hctx⟩ := endPending_reports u ctx false
  have hufloes : u.floes = (killedAll s1 ctx).floes := by rw [hmod]; exact h.floes
  have huqueues : u.queues = (destroyedRest s3 ctx).queues := by rw [hmod]
  have hupins : u.ms.pins = (destroyedRest s3 ctx).ms.pins := by rw [hmod]
  constructor
  · obtain ⟨z, hz, heq⟩ := hctx _ hforgot
    refine ⟨z, hz, ?_⟩
    rw [heq]
    exact ⟨hystate, rfl, rfl, rfl⟩
  · intro n f hf hfc
    exact killedAll_floes ((State.floe?_of_floes (hfloes.trans hufloes) n).symm.trans hf) hfc
  · intro p hp
    rw [hpins, hupins] at hp
    simpa using (List.mem_filter.1 hp).2
  · intro k q hq hqc
    rw [State.queue?, hqueues, huqueues] at hq
    simp only [destroyedRest, Table.find?_map] at hq
    obtain ⟨q0, _, rfl⟩ := Option.map_eq_some_iff.1 hq
    by_cases hq0 : q0.ctx = ctx
    · rw [if_pos hq0]
    · rw [if_neg hq0] at hqc
      exact absurd hqc hq0

theorem exec_destroy_destroyed (h : CmdPath src 0x11 s ctx c args j sent s1) : ∃ t, exec (.destroy src) s = .next t ∧ Destroyed ctx t := by
  obtain ⟨x, hx⟩ := h.ctx?
  obtain ⟨s3, hs3, hbody⟩ := destroyBody_eq ctx c args (j, sent) s1
  refine ⟨_, runCmd_path h destroyBody, Destroyed.reported ?_ (reports_finish ..)⟩
  rw [hbody]
  exact destroyedRest_destroyed hs3 hx

end

end Sys2Proof.Machine
end

section
/-! The proof of O54 (CommandEffects): CREATE, REPLAY of a floe and kills, then the statement. -/

namespace Sys2Proof.Machine

/-! ## CREATE (R357, R359, R382) -/

/-- The partitions of a CREATE's first operand, by their bits. -/
def createParts (a : Nat) : List Nat := (List.range 12).filter (fun p => a.testBit p)

theorem mem_createParts {a p : Nat} : p ∈ createParts a ↔ p < 12 ∧ a.testBit p = true := by simp [createParts]

theorem createParts_ne_nil {a : Nat} (h : a % 2 ^ 12 ≠ 0) : createParts a ≠ [] := by
  intro hnil
  refine h (Nat.eq_of_testBit_eq fun i => ?_)
  have hi : ¬ (i < 12 ∧ a.testBit i = true) := by
    rw [← mem_createParts, hnil]
    exact List.not_mem_nil
  rw [Nat.testBit_mod_two_pow, Nat.zero_testBit]
  by_cases h12 : i < 12
  · simpa [h12] using hi
  · simp [h12]

/-- A context just created, its pages still to be loaded. -/
def newCtx (s : State) (n : Nat) (a b c d : Dword) : Ctx :=
  { Ctx.fresh with
    state := .loading, parts := createParts a.toNat, world := a.toNat.testBit 12, tag := newTag s n, keyKid := s.ms.nextKid + 1, root := b.toNat,
    supk := d.toNat, saveBase := BitVec.ofNat 64 c.toNat }

/-- A context notes the command that is pending on it. -/
def Ctx.pends (j : JRef) (fn : Nat) (x : Ctx) : Ctx := { x with pending := some (j, some fn) }

/-- Partitions with their registers as after reset. -/
def State.resetParts (s : State) (ps : List Nat) : State := ps.foldl (fun (t : State) p => t.setPart p Part.fresh) s

/-- The machine with a key more and no event of context `n`, before the context stands. -/
def State.roomFor (s : State) (n : Nat) : State :=
  { s with ms := { s.ms with nextKid := s.ms.nextKid + 1 }, events := Table.keep s.events (fun k _ => k / 65536 != n) }

section
variable {s : State} {a b c d : Dword} {n : Nat}

theorem createCtx_eq (s : State) (a b c d : Dword) : createCtx [a, b, c, d] s
    = if a.toNat / 2 ^ 13 ≠ 0 ∨ d.toNat / 2 ^ 12 ≠ 0 ∨ (createParts a.toNat).isEmpty ∨ (createParts a.toNat).any (fun p => (s.ownerOf p).isSome)
        ∨ b.toNat % 4096 ≠ 0 ∨ c.toNat % 4096 ≠ 0 ∨ !(createParts a.toNat).all (partWorld s (a.toNat.testBit 12)) ∨ 2 ^ 20 ≤ s.ms.nextKid + 1 then none
      else (freeCtx s).map (fun n => (((s.roomFor n).resetParts (createParts a.toNat)).setCtx n (newCtx s n a b c d), n, newCtx s n a b c d)) := rfl

theorem freeCtx_lowest (hn : n < 12) (hfree : s.ctx? n = none) (hlow : ∀ m, m < n → s.ctx? m ≠ none) : freeCtx s = some n := by
  rw [freeCtx, List.find?_range_eq_some]
  refine ⟨by simp [hfree], List.mem_range.2 hn, fun m hm => ?_⟩
  simpa using Option.ne_none_iff_isSome.1 (hlow m hm)

/-- A CREATE whose operands pass makes the lowest free number a context. -/
theorem createCtx_makes (ha : a.toNat < 2 ^ 13) (hd : d.toNat < 2 ^ 12) (hsome : a.toNat % 2 ^ 12 ≠ 0)
    (hparts : ∀ p, p < 12 → a.toNat.testBit p = true → s.ownerOf p = none ∧ partWorld s (a.toNat.testBit 12) p = true) (hb : b.toNat % 4096 = 0)
    (hc : c.toNat % 4096 = 0) (hkid : s.ms.nextKid + 1 < 2 ^ 20) (hn : freeCtx s = some n) : createCtx [a, b, c, d] s
      = some (((s.roomFor n).resetParts (createParts a.toNat)).setCtx n (newCtx s n a b c d), n, newCtx s n a b c d) := by
  have hempty : ¬ (createParts a.toNat).isEmpty = true := by simpa using createParts_ne_nil hsome
  have howned : ¬ (createParts a.toNat).any (fun p => (s.ownerOf p).isSome) = true := by
    simp only [List.any_eq_true, not_exists, not_and]
    intro p hp
    obtain ⟨hp12, hbit⟩ := mem_createParts.1 hp
    rw [(hparts p hp12 hbit).1]
    exact Bool.false_ne_true
  have hworld : (createParts a.toNat).all (partWorld s (a.toNat.testBit 12)) = true := by
    refine List.all_eq_true.2 fun p hp => ?_
    obtain ⟨hp12, hbit⟩ := mem_createParts.1 hp
    exact (hparts p hp12 hbit).2
  have ha' : a.toNat / 2 ^ 13 = 0 := Nat.div_eq_of_lt ha
  have hd' : d.toNat / 2 ^ 12 = 0 := Nat.div_eq_of_lt hd
  rw [createCtx_eq, hn, if_neg, Option.map_some]
  rintro (h | h | h | h | h | h | h | h)
  · exact h ha'
  · exact h hd'
  · exact hempty h
  · exact howned h
  · exact h hb
  · exact h hc
  · rw [hworld] at h
    exact Bool.false_ne_true h
  · exact absurd h (Nat.not_le.2 hkid)

theorem State.resetParts_eq (s : State) (ps : List Nat) : s.resetParts ps = { s with parts := (s.resetParts ps).parts } :=
  List.foldlRecOn ps _ (motive := fun t : State => t = { s with parts := t.parts }) rfl fun t ht p _ => by rw [State.setPart, ht]

theorem State.part_setPart (s : State) (p q : Nat) (x : Part) : (s.setPart p x).part q = if q = p then x else s.part q := by
  simp [State.part, State.setPart, Table.getD_setD]

/-- A partition reset has the registers of reset. -/
theorem State.part_resetParts (s : State) {ps : List Nat} {p : Nat} (hp : p ∈ ps) : (s.resetParts ps).part p = Part.fresh := by
  have hfresh (l : List Nat) (t : State) (h : p ∈ l ∨ t.part p = Part.fresh) :
      (l.foldl (fun (t : State) p => t.setPart p Part.fresh) t).part p = Part.fresh := by
    induction l generalizing t with
    | nil => exact h.resolve_left List.not_mem_nil
    | cons q l ih =>
      refine ih _ ?_
      rw [State.part_setPart]
      by_cases hq : p = q
      · exact .inr (if_pos hq)
      · rw [if_neg hq]
        exact h.imp_left fun hm => (List.mem_cons.1 hm).resolve_left hq
  exact hfresh ps s (.inl hp)

/-- HCMDSTAT of a function after a command of its (R382). -/
theorem State.hcmd_stat (s : State) (fn status reason num seq : Nat) : Table.getD (s.hcmd fn status reason num seq).hcmdStat 0 fn
    = BitVec.ofNat 64 (status + reason * 4 + num * 2 ^ 10 + seq % 2 ^ 32 * 2 ^ 32) := by
  rw [State.hcmd]
  exact Table.getD_setD_same ..

/-- The machine with the new context, before its entry in the journal. -/
def State.withNew (s : State) (n : Nat) (a b c d : Dword) : State :=
  ((s.roomFor n).resetParts (createParts a.toNat)).setCtx n (newCtx s n a b c d)

theorem State.withNew_eq (s : State) (n : Nat) (a b c d : Dword) : s.withNew n a b c d
    = { s.roomFor n with parts := (s.withNew n a b c d).parts, ctxs := Table.insert s.ctxs n (newCtx s n a b c d) } := by
  rw [State.withNew, State.resetParts_eq]
  rfl

theorem State.withNew_ctxs (s : State) (n : Nat) (a b c d : Dword) : (s.withNew n a b c d).ctxs = Table.insert s.ctxs n (newCtx s n a b c d) := by
  rw [State.withNew_eq]

theorem State.withNew_events (s : State) (n : Nat) (a b c d : Dword) :
    (s.withNew n a b c d).events = Table.keep s.events (fun k _ => k / 65536 != n) := by
  rw [State.withNew_eq]
  rfl

theorem State.withNew_floes (s : State) (n : Nat) (a b c d : Dword) : (s.withNew n a b c d).floes = s.floes := by
  rw [State.withNew_eq]
  rfl

theorem State.withNew_firn (s : State) (n : Nat) (a b c d : Dword) : (s.withNew n a b c d).firn = s.firn := by
  rw [State.withNew_eq]
  rfl

theorem State.withNew_part {p : Nat} (hp : p ∈ createParts a.toNat) : (s.withNew n a b c d).part p = Part.fresh :=
  State.part_resetParts (s.roomFor n) hp

theorem exec_create (hboot : s.life.boot = .ready)
    (hnew : createCtx [a, b, c, d] s = some (s.withNew n a b c d, n, newCtx s n a b c d)) {t : State} {j : JRef}
    (hj : (s.withNew n a b c d).jNew (newCtx s n a b c d).home (jHigh 4 false 15 0 0 Config.deviceId.toNat) 0 0 = (t, j)) :
    exec (.create (.host 0 0 false a b c d)) s = .next ((t.modCtx n (Ctx.pends j 0)).hcmd 0 0 0 0 j.seq) := by
  have hgo : ¬ (12 < 0 ∨ s.life.boot ≠ .ready) := by simp [hboot]
  rw [exec, execCreate, if_neg hgo, if_pos ⟨rfl, rfl, rfl⟩, hnew]
  simp only [hj]
  rfl

/-- A new entry changes, beside what journal writes do, the number of its partition's next. -/
theorem jNew_part {t u : State} {j : JRef} {h p high : Nat} (hj : t.jNew h high 0 0 = (u, j)) (hp : t.part p = Part.fresh) :
    u.part p = { Part.fresh with jSeq := (u.part p).jSeq } := by
  have hparts : u.part p = (t.modPart h (fun q => { q with jSeq := (t.part h).jSeq + 1 })).part p := by
    have hout := (journalOnly_jNew t h high 0 0 0).parts
    rw [hj] at hout
    rw [State.part, State.part, hout]
  rw [hparts, State.modPart, State.part_setPart]
  split
  · next heq =>
    subst heq
    rw [hp]
  · rw [hp]

/-- What the machine with the new context reads, once its entry is written and the context notes the command. -/
structure NewStands (s : State) (n : Nat) (a b c d : Dword) (j : JRef) (t : State) : Prop where
  ctx? : t.ctx? n = some ((newCtx s n a b c d).pends j 0)
  others : ∀ m, m ≠ n → t.ctx? m = s.ctx? m
  floes : t.floes = s.floes
  firn : t.firn = s.firn
  parts : ∀ p, p ∈ createParts a.toNat → t.part p = { Part.fresh with jSeq := (t.part p).jSeq }
  events : ∀ k, k < 65536 → (t.event n k).count = 0

theorem newStands_jNew {u : State} {j : JRef} {h high : Nat} (hj : (s.withNew n a b c d).jNew h high 0 0 = (u, j)) :
    NewStands s n a b c d j (u.modCtx n (Ctx.pends j 0)) := by
  have hout := journalOnly_jNew (s.withNew n a b c d) h high 0 0 0
  rw [hj] at hout
  have hctxs : u.ctxs = Table.insert s.ctxs n (newCtx s n a b c d) := hout.ctxs.trans (State.withNew_ctxs ..)
  have hevents : u.events = Table.keep s.events (fun k _ => k / 65536 != n) := hout.events.trans (State.withNew_events s n a b c d)
  have huctx : u.ctx? n = some (newCtx s n a b c d) := by
    rw [State.ctx?, hctxs, Table.find?_insert_same]
    rfl
  have hmod := State.modCtx_eq u n (Ctx.pends j 0)
  have hpart (p : Nat) : (u.modCtx n (Ctx.pends j 0)).part p = u.part p := by rw [hmod]; rfl
  constructor
  · exact State.ctx?_modCtx_same huctx rfl
  · intro m hm
    rw [State.ctx?_modCtx (g := Ctx.pends j 0) (fun _ => rfl), if_neg hm, State.ctx?, hctxs, Table.find?_insert_ne _ _ hm, State.ctx?]
  · rw [hmod]
    exact hout.floes.trans (State.withNew_floes s n a b c d)
  · rw [hmod]
    exact hout.firn.trans (State.withNew_firn s n a b c d)
  · intro p hp
    rw [hpart]
    exact jNew_part hj (State.withNew_part hp)
  · intro k hk
    have hkey : evKey n k / 65536 = n := by
      rw [evKey]
      omega
    rw [hmod, State.event, Table.getD, hevents, Table.find?_keep_none fun _ => by simp [hkey]]
    rfl

/-- HCMDSTAT is no part of what stands. -/
theorem NewStands.reported {t u : State} {j : JRef} (h : NewStands s n a b c d j t) (hu : u = { t with hcmdStat := u.hcmdStat }) :
    NewStands s n a b c d j u := by
  rw [hu]
  exact { h with }

/-- What CREATE leaves (R357, R382): the lowest free number is a context that waits for its pages. -/
theorem create_leaves (hboot : s.life.boot = .ready) (hnew : createCtx [a, b, c, d] s = some (s.withNew n a b c d, n, newCtx s n a b c d)) :
    ∃ t j, exec (.create (.host 0 0 false a b c d)) s = .next t ∧ NewStands s n a b c d j t
      ∧ Table.getD t.hcmdStat 0 0 = BitVec.ofNat 64 (j.seq % 2 ^ 32 * 2 ^ 32) := by
  obtain ⟨u, j, hj⟩ : ∃ u j, (s.withNew n a b c d).jNew (newCtx s n a b c d).home (jHigh 4 false 15 0 0 Config.deviceId.toNat) 0 0 = (u, j) :=
    ⟨_, _, rfl⟩
  refine ⟨_, j, exec_create hboot hnew hj, (newStands_jNew hj).reported (State.hcmd_eq ..), ?_⟩
  rw [State.hcmd_stat]
  simp

/-- create_done makes the context RESIDENT and reports its number. -/
theorem created_resident {ctx : Nat} {x : Ctx} {j : JRef} {fn : Nat} (hx : s.ctx? ctx = some x) (hstate : x.state = .loading)
    (hpending : x.pending = some (j, some fn)) : (s.created ctx).ctx? ctx = some { x with state := .resident, pending := none }
      ∧ (s.created ctx).floes = s.floes ∧ Table.getD (s.created ctx).hcmdStat 0 fn = BitVec.ofNat 64 (2 + ctx * 2 ^ 10 + j.seq % 2 ^ 32 * 2 ^ 32) := by
  have hcreated : s.created ctx
      = ((s.modCtx ctx (fun x => { x with state := .resident, pending := none })).jSet j 2 0 0).hcmd fn 2 0 ctx j.seq := by
    simp only [State.created, hx, hstate, hpending]
  have hmod : (s.modCtx ctx (fun x => { x with state := .resident, pending := none })).ctx? ctx = some { x with state := .resident, pending := none } :=
    State.ctx?_modCtx_live (g := fun x : Ctx => { x with state := .resident, pending := none }) hx fun hfree => CtxState.noConfusion hfree
  have hset := reports_jSet (s.modCtx ctx (fun x => { x with state := .resident, pending := none })) j 2 0 0
  have hrep := reports_hcmd ((s.modCtx ctx (fun x => { x with state := .resident, pending := none })).jSet j 2 0 0) fn 2 0 ctx j.seq
  rw [hcreated]
  refine ⟨?_, ?_, ?_⟩
  · rw [State.ctx?_of_ctxs (hrep.ctxs.trans hset.ctxs)]
    exact hmod
  · exact hrep.floes.trans (hset.floes.trans (State.modCtx_floes ..))
  · rw [State.hcmd_stat]

end

/-! ## REPLAY of a floe (R178, R381) -/

section
variable {s : State} {h : Nat} {f : Floe} {x : Suspend}

/-- Replayed, the floe is READY again. -/
theorem replayFloe_resumes (hf : s.floe? h = some f) (hx : f.susp = some x) (hop : x.op = none) :
    FloeEffect h { f with susp := none, state := .ready, since := s.mck f.core } s (s.replayFloe h 0) := by
  have heq : s.replayFloe h 0 = s.modFloe h (fun g => { g with susp := none, state := .ready, since := s.mck f.core }) := by
    simp only [State.replayFloe, hf, hx, hop]
    rfl
  rw [heq]
  constructor
  · rw [State.floe?_modFloe_same, hf]
    rfl
  · exact otherFloes_modFloe (.refl h s) _
  · intro a
    simp
  · rw [OnlyFloes, State.modFloe_eq]

/-- Killed, it is RETIRED. -/
theorem replayFloe_kills (hf : s.floe? h = some f) (hx : f.susp = some x) : (s.replayFloe h 1).floe? h = some f.ended := by
  have heq : s.replayFloe h 1 = s.floeEnd h true := by simp only [State.replayFloe, hf, hx, if_true]
  rw [heq]
  exact floeEnd_floe hf true

/-- Delivered, the cause of its suspension enters the handler, in the slot that it came from. -/
theorem replayFloe_delivers {c : Ctx} {sl : Slot} (hf : s.floe? h = some f) (hx : f.susp = some x) (hop : x.op = none) (hc : s.ctx? f.ctx = some c)
    (hl : f.levelHandler = false) (hb : c.trapBase ≠ 0) (hsl : f.slot x.slot1 = some sl) (hw : f.wait = none) :
    (s.replayFloe h 2).floe? h = some (handlerEntry { f with susp := none, state := .ready, wait := none } x.slot1 c.trapBase x.pc x.pc
      { x.info with atNext := false }) := by
  have habandon : s.abandonWait f h = s.unlist f h := by simp [State.abandonWait, hw]
  have heq : s.replayFloe h 2 = ((s.unlist f h).modFloe h (fun g => { g with susp := none, state := .ready, wait := none })).vector h x.slot1 x.pc x.pc
      { x.info with atNext := false } := by
    simp only [State.replayFloe, hf, hx, hop, Option.bind_none, habandon, hsl, Option.isSome_some, if_true]
    rfl
  obtain ⟨c', hc', hbase⟩ := State.ctx?_unlist h hc
  have huf : ((s.unlist f h).modFloe h (fun g => { g with susp := none, state := .ready, wait := none })).floe? h
      = some { f with susp := none, state := .ready, wait := none } := by
    rw [State.floe?_modFloe_same, State.floe?_of_floes (State.unlist_floes s f h), hf]
    rfl
  have huc : ((s.unlist f h).modFloe h (fun g => { g with susp := none, state := .ready, wait := none })).ctx? f.ctx = some c' :=
    (State.ctx?_of_ctxs (State.modFloe_ctxs ..) _).trans hc'
  rw [heq, State.vector_enters huf huc hl (hbase ▸ hb), State.floe?_setFloe, if_pos rfl, hbase]

/-- A floe that enters its handler outside an issue is READY there, TEPC at the word. -/
theorem handlerEntry_ready {g : Floe} {b : Bool} {base pc next : Dword} {t : TrapInfo} {sl : Slot} (hsl : g.slot b = some sl) (ht : t.atNext = false) :
    (handlerEntry g b base pc next t).state = .ready ∧ (handlerEntry g b base pc next t).tepc = pc
      ∧ (handlerEntry g b base pc next t).levelHandler = true := by
  simp [handlerEntry, hsl, ht]

end

/-! ## KILL (R359) -/

/-- The floes of a launch that is killed are RETIRED, and its entry is marked. -/
theorem killInst_kills {s : State} {ctx inst : Nat} {y : Inst} (hy : s.inst? ctx inst = some y) :
    (∀ h f, (s.killInst ctx inst).floe? h = some f → f.ctx = ctx → f.inst = inst → f.state = .retired)
      ∧ ∃ z, (s.killInst ctx inst).inst? ctx inst = some z ∧ z.killed = true := by
  have hsel (h : Nat) (f : Floe) := Kills.foldl_selected (g := State.killFloe) (h := h) (f := f) kills_killFloe killFloe_retired
    (p := fun f => f.ctx == ctx && f.inst == inst) (fun _ _ hc hi => by rw [hc, hi]) s
  have hkills := Kills.foldl kills_killFloe
    (Table.keys (Table.keep s.floes (fun _ f => f.ctx == ctx && f.inst == inst && f.state != .retired))) s
  rw [State.killInst]
  generalize (Table.keys (Table.keep s.floes (fun _ f => f.ctx == ctx && f.inst == inst && f.state != .retired))).foldl State.killFloe s = s1 at hsel hkills
  constructor
  · intro h f hf hctx hinst
    rw [State.floe?_of_floes (State.modInst_floes ..)] at hf
    exact hsel h f hf (by simp [hctx, hinst])
  · obtain ⟨z, hz⟩ := Option.isSome_iff_exists.1 (hkills.insts ctx inst (by rw [hy]; rfl))
    refine ⟨_, State.inst?_modInst_same (y := z) ?_ _, rfl⟩
    exact hz

/-! ## The statement -/

/-- Settles O54: each command by the lemma above on what it leaves. -/
theorem commandEffects : Obligations.CommandEffects := by
  refine ⟨?_, ?_, ?_, ?_, ?_, ?_⟩
  · rintro i src code ctx c args j sent s s1 u hpath (⟨rfl, rfl, hstate, hargs, hnot, hkid, hleft, rfl⟩ | ⟨rfl, rfl, hstate, rfl⟩ |
      ⟨rfl, rfl, hstate, hne, hv0, hv1, hp0, hp1, hhalt, hquar, rfl⟩)
    · obtain ⟨x, hx⟩ := hpath.ctx?
      refine (runCmd_path hpath rekeyBody).trans ?_
      rw [rekeyBody_begins hx hstate hargs hnot hkid hleft]
      rfl
    · refine (runCmd_path hpath saveBody).trans ?_
      rw [saveBody_begins hstate]
      rfl
    · refine (runCmd_path hpath migrateBody).trans ?_
      rw [migrateBody_begins hstate hne hv0 hv1 hp0 hp1 hhalt hquar]
      rfl
  · intro src ctx c args j sent s s1 hpath
    obtain ⟨t, ht, hdone⟩ := exec_destroy_destroyed hpath
    obtain ⟨x, hx, hall⟩ := hdone.ctx?
    exact ⟨t, ht, by simp [hx], fun y hy => (Option.some.inj (hx.symm.trans hy)) ▸ hall, hdone.floes, hdone.pins, hdone.queues⟩
  · intro s a b c d n hboot ha hd hsome hparts hb hc hkid hn hfree hlow
    obtain ⟨t, j, ht, hstands, hstat⟩ :=
      create_leaves hboot (createCtx_makes (b := b) (c := c) ha hd hsome hparts hb hc hkid (freeCtx_lowest hn hfree hlow))
    have hbase : BitVec.ofNat 64 c.toNat = c := by simp
    exact ⟨t, _, ht, hstands.ctx?, rfl, rfl, rfl, hbase, rfl, rfl, rfl, rfl, rfl, rfl, fun p => mem_createParts, hstands.others, hstands.floes,
      hstands.firn, hstands.parts, hstands.events, j, rfl, hstat⟩
  · intro s ctx c j fn hc hstate hpending
    exact ⟨_, rfl, created_resident hc hstate hpending⟩
  · intro s h f x hf hx hop
    refine ⟨⟨_, rfl, replayFloe_resumes hf hx hop⟩, ⟨_, replayFloe_kills hf hx, rfl⟩, fun c sl hc hl hb hsl hw => ?_⟩
    have hslot : ({ f with susp := none, state := .ready, wait := none } : Floe).slot x.slot1 = some sl := hsl
    obtain ⟨hready, htepc, hlevel⟩ := handlerEntry_ready (base := c.trapBase) (pc := x.pc) (next := x.pc) (t := { x.info with atNext := false }) hslot rfl
    exact ⟨_, replayFloe_delivers hf hx hop hc hl hb hsl hw, hready, htepc, hlevel, slot_handlerEntry hslot⟩
  · intro s ctx inst y hy
    exact killInst_kills hy

end Sys2Proof.Machine
end

section
/-! SUPPORT. Accesses that no seal covers: what a run of bytes written to one leaves of memory (R200, R394, R396). -/

namespace Sys2Proof.Machine

/-- The bytes of an access that does not leave its page lie in the page of its address. -/
theorem page_of_access {pa n i : Nat} (hpage : pa / 4096 = (pa + n - 1) / 4096) (hi : i < n) : (pa + i) / 4096 = pa / 4096 := by
  omega

/-- No seal covers an access of `n` bytes: its page is not sealed and its block has no key, and the access lies in it. -/
structure PlainAccess (s : State) (p : Phys) (n : Nat) : Prop where
  unsealed : p.pte.sealed = false
  noKey : (s.sealMeta (p.pa / 4096)).kid = 0
  page : p.pa / 4096 = (p.pa + n - 1) / 4096

section
variable {s t : State} {p : Phys} {n ctx : Nat} {v : Nat → Byte}

/-- A write to a byte of such an access leaves the rest of its block as it is. -/
theorem PlainAccess.quiet (hp : PlainAccess s p n) {i a : Nat} (hi : i < n) (hb : (p.pa + i) / 4096 = a / 4096) : sealQuiet s ctx p.pte a = true := by
  have hkid : (s.sealMeta (a / 4096)).kid = 0 := by
    rw [← hb, page_of_access hp.page hi]
    exact hp.noKey
  simp [sealQuiet, hp.unsealed, hkid]

/-- A run of bytes written to such an access leaves every other byte as it was. -/
theorem Written.plain_other (h : Written ctx (byteRun p.pte p.pa n v) s t) (hp : PlainAccess s p n) {a : Nat} (ha : ¬ (p.pa ≤ a ∧ a < p.pa + n)) :
    t.ms.byte a = s.ms.byte a := by
  refine h.byte_other fun w hw => ?_
  obtain ⟨i, hi, rfl⟩ := mem_byteRun.1 hw
  exact ⟨fun heq : p.pa + i = a => ha (by omega), hp.quiet hi⟩

/-- Each byte of the run stands where it was written. -/
theorem Written.plain_same (h : Written ctx (byteRun p.pte p.pa n v) s t) (hp : PlainAccess s p n) {i : Nat} (hi : i < n) :
    t.ms.byte (p.pa + i) = v i := by
  obtain ⟨before, after, hrun, hafter⟩ := byteRun_split (e := p.pte) (pa := p.pa) (n := n) (v := v) hi
  rw [hrun] at h
  refine h.byte_last (fun hsealed => absurd hsealed (by simp [hp.unsealed])) fun w hw => ?_
  obtain ⟨habove, hpte⟩ := hafter w hw
  exact ⟨Nat.ne_of_gt habove, by rw [hpte]⟩

end

end Sys2Proof.Machine
end

section
/-! The proof of O33 (AtomicReadsModifiesWrites): one lane of an atomic on a word of memory that no seal covers (R210, R211, R215, R216). -/

namespace Sys2Proof.Machine

/-! ## The lane at its home (R211, R215) -/

/-- The value that memory holds where an access lies. -/
def Op.memWord (s : State) (o : Op) (p : Phys) : Nat := natOf ((List.range o.size).map (fun i => s.ms.byte (p.pa + i)))

/-- A lane of an atomic as the store of its new value. -/
def LaneAcc.atomic (la : LaneAcc) (op : AtomOp) (o : Op) (old : Nat) : LaneAcc :=
  { la with data := atomNew op (8 * o.size) old la.data la.swap, valid := true }

/-- Whether an atomic writes nothing: a CAS that does not compare equal (R216). -/
def casFails (op : AtomOp) (old : Nat) (la : LaneAcc) : Bool := op == .cas && old != la.data

theorem casFails_iff {op : AtomOp} {old : Nat} {la : LaneAcc} : casFails op old la = true ↔ op = .cas ∧ old ≠ la.data := by
  simp [casFails]

section
variable {s : State} {o : Op} {la : LaneAcc} {p : Phys} (op : AtomOp)

/-- An atomic reads what memory holds, and its new value is stored unless it is a CAS that fails. -/
theorem atomLane_mem (hv : laneView s o la = .ok (.mem p)) (hp : PlainAccess s p o.size) :
    atomLane s o op la = (if casFails op (o.memWord s p) la then s else storeAt s o (la.atomic op o (o.memWord s p)) (.ok (.mem p)),
      o.memWord s p, true) := by
  have hread : (List.range o.size).map (fun i => readThrough s o.ctx p.pte (p.pa + i)) = (List.range o.size).map (fun i => s.ms.byte (p.pa + i)) :=
    List.map_congr_left fun i hi =>
      readThrough_plain hp.unsealed (.inl (by rw [page_of_access hp.page (List.mem_range.1 hi)]; exact hp.noKey))
  have hview (d : Nat) : laneView s o { la with data := d, valid := true } = .ok (.mem p) := hv
  simp only [atomLane, hv, hread, storeLane, hview]
  rfl

/-- The store of an atomic that does not fail writes its new value's bytes. -/
theorem written_atomLane (hv : laneView s o la = .ok (.mem p)) (hp : PlainAccess s p o.size) (hskip : o.skip.contains (p.pa / 256) = false)
    (hfail : ¬ casFails op (o.memWord s p) la = true) :
    Written o.ctx (byteRun p.pte p.pa o.size (la.atomic op o (o.memWord s p)).byte) s (atomLane s o op la).1 := by
  have hgo : o.laneWrites (la.atomic op o (o.memWord s p)) p = true := by simpa [Op.laneWrites, LaneAcc.atomic] using hskip
  have hwritten := written_storeAt s o (la.atomic op o (o.memWord s p)) p
  rw [atomLane_mem op hv hp, if_neg hfail]
  rwa [Op.bytesAt, if_pos hgo] at hwritten

/-- A CAS that fails changes nothing. -/
theorem atomLane_fails (hv : laneView s o la = .ok (.mem p)) (hp : PlainAccess s p o.size) (hfail : casFails op (o.memWord s p) la = true) :
    (atomLane s o op la).1 = s := by
  rw [atomLane_mem op hv hp, if_pos hfail]

theorem memoryOnly_atomLane (hv : laneView s o la = .ok (.mem p)) (hp : PlainAccess s p o.size) (hskip : o.skip.contains (p.pa / 256) = false) :
    MemoryOnly s (atomLane s o op la).1 := by
  by_cases hfail : casFails op (o.memWord s p) la = true
  · rw [atomLane_fails op hv hp hfail]
    exact .refl s
  · exact (written_atomLane op hv hp hskip hfail).memoryOnly

/-- No byte outside the access changes. -/
theorem atomLane_byte_other (hv : laneView s o la = .ok (.mem p)) (hp : PlainAccess s p o.size) (hskip : o.skip.contains (p.pa / 256) = false) {a : Nat}
    (ha : ¬ (p.pa ≤ a ∧ a < p.pa + o.size)) : (atomLane s o op la).1.ms.byte a = s.ms.byte a := by
  by_cases hfail : casFails op (o.memWord s p) la = true
  · rw [atomLane_fails op hv hp hfail]
  · exact (written_atomLane op hv hp hskip hfail).plain_other hp ha

/-- The bytes of the access hold the new value, or the old one after a CAS that fails. -/
theorem atomLane_byte_same (hv : laneView s o la = .ok (.mem p)) (hp : PlainAccess s p o.size) (hskip : o.skip.contains (p.pa / 256) = false) {i : Nat}
    (hi : i < o.size) :
    (atomLane s o op la).1.ms.byte (p.pa + i) = if op = .cas ∧ o.memWord s p ≠ la.data then s.ms.byte (p.pa + i)
      else BitVec.ofNat 8 (atomNew op (8 * o.size) (o.memWord s p) la.data la.swap / 2 ^ (8 * i)) := by
  by_cases hfail : casFails op (o.memWord s p) la = true
  · rw [atomLane_fails op hv hp hfail, if_pos (casFails_iff.1 hfail)]
  · rw [if_neg (fun h => hfail (casFails_iff.2 h))]
    exact (written_atomLane op hv hp hskip hfail).plain_same hp hi

end

/-! ## What an atomic keeps note of (R210, R227) -/

theorem MemoryOnly.tagLive {s t : State} (h : MemoryOnly s t) (o : Op) : t.tagLive o = s.tagLive o := by
  simp [State.tagLive, State.floe?_of_floes h.floes]

/-- The bookkeeping of an atomic's place changes cores and predictors alone. -/
theorem memoryOnly_exclusive (s : State) (id : Nat) (o : Op) (p : Phys) : MemoryOnly s (exclusive s id o p) := by
  unfold exclusive
  extract_lets line die held queued up m0 ms s1
  have hpred : MemoryOnly s { s with ms := ms } := by
    simp only [ms]
    split
    · rfl
    · split <;> rfl
  have hreturned : MemoryOnly s s1 := hpred.trans (cachesOnly_exclReturn ..).memoryOnly
  split
  · exact hreturned.trans (.foldl (fun t _ => (cachesOnly_modCore t _ _).memoryOnly) _ s1)
  · exact hreturned

theorem noted_exclusive (h : Nat) (s : State) (id : Nat) (o : Op) (p : Phys) : Noted h s (exclusive s id o p) :=
  have honly := memoryOnly_exclusive s id o p
  .of_eq honly.ops (exclusive_mem ..) honly.floes

/-! ## The registers of an operation's lanes (R152, R170) -/

/-- Words for each lane of a fitting operation, and its nullified lanes, are written as D is. -/
theorem OpFits.wrote {f : Floe} {o : Op} (ho : OpFits f o) {g : LaneAcc → List FirnWord} (hlen : ∀ la, (g la).length = o.d.length) (s : State) :
    Wrote f o.d (o.lanes.map (fun la => (la.lane, some (g la))) ++ nullPuts o.nulls) s
      (putLanes f o.d (o.lanes.map (fun la => (la.lane, some (g la))) ++ nullPuts o.nulls) s) := by
  refine putLanes_nulls_wrote s ⟨ho.fits, ho.nodup, List.pairwise_map.2 ho.sorted, ?_, ?_, fun hu => ?_⟩
    ⟨fun n hn => (ho.nulls n hn).1, ?_, ?_, by simpa using ho.uni⟩
  · intro p hp
    obtain ⟨la, hla, rfl⟩ := List.mem_map.1 hp
    exact ho.lt la hla
  · intro l ws hw
    obtain ⟨la, -, hla⟩ := List.mem_map.1 hw
    obtain rfl := Option.some.inj (Prod.mk.inj hla).2
    exact hlen la
  · have := ho.uni hu
    rw [List.length_map]
    omega
  · intro n hn p hp
    obtain ⟨la, hla, rfl⟩ := List.mem_map.1 hp
    exact ((ho.nulls n hn).2 la hla).1
  · intro hfull n hn p hp
    obtain ⟨la, hla, rfl⟩ := List.mem_map.1 hp
    exact ((ho.nulls n hn).2 la hla).2 hfull

theorem loadWords_valid (n v k : Nat) : loadWords n v (List.replicate k true) = wordsOf n v := by
  simp [loadWords, wordsOf]

/-! ## DATA_RETURN of an atomic -/

section
variable {s : State} {id : Nat} {o : Op} {op : AtomOp} {f : Floe} {la : LaneAcc} {p : Phys}

/-- What memory holds and what the floe has read, once a returning atomic's one lane has taken effect, before its registers are written. -/
def atomNoted (s : State) (id : Nat) (o : Op) (op : AtomOp) (la : LaneAcc) (p : Phys) : State :=
  (exclusive (atomLane s o op la).1 id o p).noteSeen o p

theorem noted_atomNoted : Noted o.floe (atomLane s o op la).1 (atomNoted s id o op la p) :=
  (noted_exclusive ..).trans (noted_noteSeen ..)

theorem atomNoted_firn : (atomNoted s id o op la p).firn = (atomLane s o op la).1.firn :=
  (State.noteSeen_firn ..).trans (memoryOnly_exclusive ..).firn

/-- The state in which the one lane of a returning atomic has taken effect. -/
def atomEffect (s : State) (id : Nat) (o : Op) (op : AtomOp) (f : Floe) (la : LaneAcc) (p : Phys) : State :=
  putLanes f o.d ([(la.lane, some (wordsOf o.d.length (o.memWord s p)))] ++ nullPuts o.nulls) (atomNoted s id o op la p)

theorem noted_atomEffect : Noted o.floe (atomLane s o op la).1 (atomEffect s id o op f la p) :=
  noted_atomNoted.trans (noted_putLanes ..)

/-- The lanes of a returning atomic take effect one by one; with one lane, they come to that lane's effect. -/
theorem lanesDone_atomic (hk : o.kind = .atomic op true) (hv : laneView s o la = .ok (.mem p)) (hp : PlainAccess s p o.size) :
    nullLanes (lanesDone s id o (some f) [la]) o f o.nulls = atomEffect s id o op f la p := by
  have hone : lanesDone s id o (some f) [la] = putLane f o.d (la.lane, some (wordsOf o.d.length (o.memWord s p))) (atomNoted s id o op la p) := by
    simp only [lanesDone, hk, performAtomic, List.foldl_cons, List.foldl_nil, hv, wrWords_putLane]
    rw [show (atomLane s o op la).2 = (o.memWord s p, true) by rw [atomLane_mem op hv hp], loadWords_valid]
    rfl
  rw [hone, nullLanes_putLanes, atomEffect, List.singleton_append, putLanes_cons]

/-- An atomic whose write is ready has its effect and ends, with an acquire where it is one. -/
theorem exec_dataReturn_atomic (hop : Table.find? s.ops id = some o) (hst : o.isSt = false) (hk : o.kind = .atomic op true)
    (hlanes : o.todo.lanes = [la]) (hv : laneView s o.todo la = .ok (.mem p)) (hlive : s.tagLive o = true) (hf : s.floe? o.floe = some f)
    (hready : (o.todo.writeReady s id && !o.todo.leaseHeld s) = true) (hp : PlainAccess s p o.size) :
    ∃ t, exec (.dataReturn id) s = .next t ∧ t = { (atomEffect s id o.todo op f la p).endOp id o.todo with cores := t.cores } := by
  have hkind : o.todo.kind = .atomic op true := hk
  have hend : o.todo.canEnd s id = true := by simpa only [Op.canEnd, hkind] using hready
  have hfault : o.todo.faultNow? s = none := by
    simp only [Op.faultNow?, hkind, hlanes, List.foldl_cons, List.foldl_nil, hv]
    split <;> rfl
  have hfloe : s.liveFloe o.todo = some f := (if_pos hlive).trans hf
  have hrun : exec (.dataReturn id) s = .next (laneReturn s id o) := by
    rw [exec, execDataReturn, hop]
    simp [hst, hk]
  have heffect : nullLanes (lanesDone s id o.todo (some f) o.todo.lanes) o.todo f o.todo.nulls = atomEffect s id o.todo op f la p := by
    rw [hlanes]
    exact lanesDone_atomic hkind hv hp
  rw [hrun]
  simp only [laneReturn, hend, hfault, hfloe, heffect]
  refine ⟨_, rfl, ?_⟩
  simp only [Bool.not_true, Option.isSome_none, Bool.or_self, Bool.false_eq_true, if_false]
  split
  · exact State.acquire_eq ..
  · rfl

end

/-- Settles O33: the one lane reads and writes the word at its home, then the caches take note, D takes the old value and the operation ends. -/
theorem atomicReadsModifiesWrites : Obligations.AtomicReadsModifiesWrites := by
  intro s id o f op la p old hop hst hk hlanes hv hlive hf hfits hready hskip hsealed hkid hpage hold
  have hview : laneView s o.todo la = .ok (.mem p) := hv
  have hplain : PlainAccess s p o.size := ⟨hsealed, hkid, hpage⟩
  have hword : old = o.todo.memWord s p := hold
  obtain ⟨t, hrun, ht⟩ := exec_dataReturn_atomic hop hst hk hlanes hview hlive hf hready hplain
  have hstored : MemoryOnly s (atomLane s o.todo op la).1 := memoryOnly_atomLane op hview hplain hskip
  have hnoted : Noted o.todo.floe (atomLane s o.todo op la).1 (atomEffect s id o.todo op f la p) := noted_atomEffect
  have hmem (a : Nat) : t.ms.byte a = (atomLane s o.todo op la).1.ms.byte a := by
    have hms : t.ms = (atomEffect s id o.todo op f la p).ms := by
      rw [ht]
      exact State.endOp_ms ..
    rw [hms, sameMem_of_mem hnoted.mem a]
  have hops : t.ops = Table.erase s.ops id := by
    rw [ht, ← hstored.ops, ← hnoted.ops]
    exact State.endOp_ops ..
  have hfloe (k : Nat) : t.floe? k = ((atomEffect s id o.todo op f la p).endOp id o.todo).floe? k := by
    rw [ht]
    rfl
  refine ⟨t, hrun, by rw [hops, Table.find?_erase, if_pos rfl], ?_, fun a ha => ?_, fun i hi => ?_, ?_, fun k hne => ?_⟩
  · have hwrote := hfits.todo.wrote (g := fun _ => wordsOf o.d.length old) (fun _ => by simp [wordsOf, Op.todo]) s
    rw [hlanes] at hwrote
    refine hwrote.of_firn rfl ?_
    rw [ht]
    refine (State.endOp_firn ..).trans ?_
    rw [hword]
    exact putLanes_firn_of (atomNoted_firn.trans hstored.firn) ..
  · rw [hmem]
    exact atomLane_byte_other op hview hplain hskip ha
  · rw [hmem, hword]
    exact atomLane_byte_same op hview hplain hskip hi
  · obtain ⟨sn, hleft, hsn⟩ := hnoted.opLeft (id := id) ((State.floe?_of_floes hstored.floes _).trans hf)
      ((hstored.tagLive o.todo).trans hlive)
    exact ⟨sn, (hfloe _).trans hleft, fun i hi hop' => hsn i hi (by rw [hstored.ops]; exact hop')⟩
  · exact (hfloe k).trans ((hnoted.endOp_others k hne).trans (State.floe?_of_floes hstored.floes k))

end Sys2Proof.Machine
end

section
/-! SUPPORT. A line's directory entry and its copies in L2: what each change of them leaves alone, and what is read after it (R196, R203, R205, R207). -/

namespace Sys2Proof.Machine

/-! ## Tables -/

theorem Table.find?_isSome_of_mem {α : Type} {t : Table α} {p : Nat × α} (h : p ∈ t) : (Table.find? t p.1).isSome = true := by
  induction t with
  | nil => cases h
  | cons q t ih =>
    rw [Table.find?]
    split
    · rfl
    · next hne =>
      rcases List.mem_cons.1 h with rfl | h
      · exact absurd rfl hne
      · exact ih h

/-- A run of keys inserted in ascending order reads what each was given. -/
theorem Table.find?_foldl_insert {α : Type} (t : Table α) (b : Nat) (g : Nat → α) {n i : Nat} (hi : i < n) :
    Table.find? ((List.range n).foldl (fun u j => Table.insert u (b + j) (g j)) t) (b + i) = some (g i) := by
  induction n with
  | zero => cases hi
  | succ n ih =>
    rw [List.range_succ, List.foldl_append, List.foldl_cons, List.foldl_nil]
    by_cases hlast : i = n
    · rw [hlast, Table.find?_insert_same]
    · rw [Table.find?_insert_ne _ _ (by omega), ih (by omega)]

/-- An entry of a table given another value, where there is one. -/
def Table.put {α : Type} (t : Table α) (p : Nat × α) : Table α := if (Table.find? t p.1).isSome then Table.insert t p.1 p.2 else t

theorem Table.find?_put {α : Type} (t : Table α) (p : Nat × α) (k : Nat) :
    Table.find? (Table.put t p) k = if k = p.1 then (Table.find? t k).map (fun _ => p.2) else Table.find? t k := by
  unfold Table.put
  split
  · next h =>
    obtain ⟨v, hv⟩ := Option.isSome_iff_exists.1 h
    rw [Table.find?_insert]
    split
    · next hk => rw [hk, hv, Option.map_some]
    · rfl
  · next h =>
    split
    · next hk => simp_all
    · rfl

theorem Table.find?_foldl_put_isSome {α : Type} (l : List (Nat × α)) (t : Table α) (k : Nat) :
    (Table.find? (l.foldl Table.put t) k).isSome = (Table.find? t k).isSome := by
  induction l generalizing t with
  | nil => rfl
  | cons p l ih =>
    rw [List.foldl_cons, ih, Table.find?_put]
    split
    · exact Option.isSome_map
    · rfl

theorem Table.find?_foldl_put_other {α : Type} {l : List (Nat × α)} (t : Table α) {k : Nat} (h : ∀ p ∈ l, p.1 ≠ k) :
    Table.find? (l.foldl Table.put t) k = Table.find? t k := by
  induction l generalizing t with
  | nil => rfl
  | cons p l ih =>
    rw [List.foldl_cons, ih _ (fun q hq => h q (List.mem_cons_of_mem _ hq)), Table.find?_put, if_neg (h p List.mem_cons_self).symm]

/-- The last value given to an entry is what it reads. -/
theorem Table.find?_foldl_put_last {α : Type} {pre post : List (Nat × α)} {k : Nat} {v : α} (t : Table α) (hpost : ∀ p ∈ post, p.1 ≠ k)
    (hsome : (Table.find? t k).isSome = true) : Table.find? ((pre ++ (k, v) :: post).foldl Table.put t) k = some v := by
  rw [List.foldl_append, List.foldl_cons, Table.find?_foldl_put_other _ hpost, Table.find?_put, if_pos rfl]
  have hpre : (Table.find? (pre.foldl Table.put t) k).isSome = true := (Table.find?_foldl_put_isSome pre t k).trans hsome
  obtain ⟨x, hx⟩ := Option.isSome_iff_exists.1 hpre
  rw [hx, Option.map_some]

/-! ## What the directory's own steps leave alone -/

/-- From `s` to `t` nothing differs but the directory's entries and the copies in L2. -/
def CopiesOnly (s t : State) : Prop := t = { s with ms := { s.ms with dir := t.ms.dir, l2 := t.ms.l2 } }

namespace CopiesOnly

theorem refl (s : State) : CopiesOnly s s := rfl

theorem trans {s t u : State} (h : CopiesOnly s t) (k : CopiesOnly t u) : CopiesOnly s u := by
  rw [CopiesOnly, k, h]

section
variable {s t u : State}

theorem ite {c : Prop} [Decidable c] (ht : CopiesOnly s t) (hu : CopiesOnly s u) : CopiesOnly s (if c then t else u) := by
  split
  · exact ht
  · exact hu

theorem sameMem (h : CopiesOnly s t) : SameMem s t := by
  intro a
  rw [h]
  rfl

theorem rest (h : CopiesOnly s t) : { t with ms := s.ms } = s := by
  rw [h]

theorem ops (h : CopiesOnly s t) : t.ops = s.ops := by
  rw [h]

end

end CopiesOnly

theorem copiesOnly_setDir (s : State) (line : Nat) (d : DirEntry) : CopiesOnly s (s.setDir line d) := rfl
theorem copiesOnly_l2Install (s : State) (die line : Nat) (sp : Span) : CopiesOnly s (s.l2Install die line sp) := rfl

theorem copiesOnly_l2Drop (s : State) (die line : Nat) (sp : Span) : CopiesOnly s (s.l2Drop die line sp) := by
  simp only [State.l2Drop]
  split <;> rfl

theorem copiesOnly_l2Update (s : State) (die line : Nat) (bytes : List (Nat × Byte)) : CopiesOnly s (s.l2Update die line bytes) := by
  simp only [State.l2Update]
  split <;> rfl

theorem copiesOnly_evict (s : State) (die line : Nat) : CopiesOnly s (s.evict die line) :=
  .ite (.refl s) ((CopiesOnly.ite (.refl s) (copiesOnly_setDir ..)).trans (copiesOnly_l2Drop ..))

theorem copiesOnly_l2Take (s : State) (die line : Nat) (sp : Span) : CopiesOnly s (s.l2Take die line sp) :=
  (CopiesOnly.ite (copiesOnly_evict ..) (.refl s)).trans (copiesOnly_l2Install ..)

/-! ## The directory's entries -/

section
variable {s t : State} {die line l : Nat} {sp : Span} {d : DirEntry} {bytes : List (Nat × Byte)}

theorem State.dirAt_of_dir (h : t.ms.dir = s.ms.dir) (line : Nat) : t.dirAt line = s.dirAt line := by
  rw [State.dirAt, h, State.dirAt]

@[simp] theorem State.dirAt_setDir_same (s : State) (line : Nat) (d : DirEntry) : (s.setDir line d).dirAt line = d := Table.getD_setD_same ..

theorem State.dirAt_setDir_ne (s : State) (d : DirEntry) (h : l ≠ line) : (s.setDir line d).dirAt l = s.dirAt l := Table.getD_setD_ne _ _ _ h

@[simp] theorem State.l2Drop_dir (s : State) (die line : Nat) (sp : Span) : (s.l2Drop die line sp).ms.dir = s.ms.dir := by
  simp only [State.l2Drop]
  split <;> rfl

/-- A die that gives up a line tells the directory of that line alone. -/
theorem State.dirAt_evict_ne (s : State) (h : l ≠ line) : (s.evict die line).dirAt l = s.dirAt l := by
  simp only [State.evict]
  split
  · rfl
  · rw [State.dirAt_of_dir (State.l2Drop_dir ..)]
    split
    · rfl
    · exact State.dirAt_setDir_ne s _ h

/-- The keys of the lines that a die's L2 holds. -/
def State.l2Held (s : State) (die : Nat) : List Nat := (Table.keys s.ms.l2).filter (fun k => k / 2 ^ 44 == die)

/-- The key of the line that a full L2 gives up. -/
def State.l2Victim (s : State) (die : Nat) : Nat := (s.l2Held die).getD (Config.victim s.gt (s.l2Held die) % (s.l2Held die).length) 0

theorem State.l2Victim_mem (h : 0 < (s.l2Held die).length) : s.l2Victim die ∈ s.l2Held die := by
  rw [State.l2Victim, List.getD_eq_getElem _ _ (Nat.mod_lt _ h)]
  exact List.getElem_mem _

theorem State.l2Key_of_mem_l2Held {k : Nat} (h : k ∈ s.l2Held die) : k = l2Key die (k % 2 ^ 44) := by
  have hdie : k / 2 ^ 44 = die := beq_iff_eq.1 (List.mem_filter.1 h).2
  rw [l2Key, ← hdie]
  exact (Nat.div_add_mod' k (2 ^ 44)).symm

/-- A line taken into L2 may have the die give up another one, when it is full. -/
theorem State.l2Take_cases (s : State) (die line : Nat) (sp : Span) :
    s.l2Take die line sp = s.l2Install die line sp
    ∨ l2Lines ≤ (s.l2Held die).length ∧ ∃ v, v ≠ line ∧ s.l2Take die line sp = (s.evict die v).l2Install die line sp := by
  simp only [State.l2Take]
  split
  · next hfull =>
    obtain ⟨hlen, hnew⟩ := hfull
    refine .inr ⟨hlen, s.l2Victim die % 2 ^ 44, fun hv => ?_, rfl⟩
    have hmem : s.l2Victim die ∈ s.l2Held die := State.l2Victim_mem (lt_of_lt_of_le (by decide) hlen)
    rw [State.l2Key_of_mem_l2Held hmem, hv] at hmem
    have hnot : (!(s.l2Held die).contains (l2Key die line)) = true := hnew
    rw [List.contains_iff_mem.2 hmem] at hnot
    cases hnot
  · exact .inl rfl

@[simp] theorem State.dirAt_l2Install (s : State) (die line l : Nat) (sp : Span) : (s.l2Install die line sp).dirAt l = s.dirAt l := rfl

theorem State.dirAt_l2Take_same (s : State) (die line : Nat) (sp : Span) : (s.l2Take die line sp).dirAt line = s.dirAt line := by
  rcases s.l2Take_cases die line sp with h | ⟨_, v, hv, h⟩
  · rw [h, State.dirAt_l2Install]
  · rw [h, State.dirAt_l2Install, State.dirAt_evict_ne s hv.symm]

theorem State.dirAt_l2Take_room (h : (s.l2Held die).length < l2Lines) : (s.l2Take die line sp).dirAt l = s.dirAt l := by
  rcases s.l2Take_cases die line sp with ht | ⟨hfull, _⟩
  · rw [ht, State.dirAt_l2Install]
  · omega

/-! ## Bytes of copies in L2 -/

theorem State.l2Byte_line (s : State) (die line : Nat) {i : Nat} (hi : i < 256) :
    s.l2Byte die (256 * line + i) = (Table.find? s.ms.l2 (l2Key die line)).bind (fun t => Table.find? t i) := by
  have hline : (256 * line + i) / 256 = line := by omega
  have hoff : (256 * line + i) % 256 = i := by omega
  rw [State.l2Byte, hline, hoff]

/-- A span copied in reads as memory does. -/
theorem State.l2Byte_l2Install (s : State) (die line : Nat) {sp : Span} {i : Nat} (hsp : sp.first + sp.count ≤ 64) (hlow : 4 * sp.first ≤ i)
    (hhigh : i < 4 * (sp.first + sp.count)) : (s.l2Install die line sp).l2Byte die (256 * line + i) = some (s.ms.byte (256 * line + i)) := by
  obtain ⟨j, rfl⟩ := Nat.exists_eq_add_of_le hlow
  rw [State.l2Byte_line _ die line (by omega)]
  simp only [State.l2Install, Table.find?_insert_same, Option.bind_some]
  rw [Table.find?_foldl_insert _ _ (fun j => s.ms.byte (256 * line + 4 * sp.first + j)) (show j < 4 * sp.count by omega), Nat.add_assoc]

theorem State.l2Byte_l2Take (s : State) (die line : Nat) {sp : Span} {i : Nat} (hsp : sp.first + sp.count ≤ 64) (hlow : 4 * sp.first ≤ i)
    (hhigh : i < 4 * (sp.first + sp.count)) : (s.l2Take die line sp).l2Byte die (256 * line + i) = some (s.ms.byte (256 * line + i)) := by
  rcases s.l2Take_cases die line sp with h | ⟨_, v, _, h⟩
  · rw [h, State.l2Byte_l2Install s die line hsp hlow hhigh]
  · rw [h, State.l2Byte_l2Install _ die line hsp hlow hhigh, (copiesOnly_evict s die v).sameMem]

/-- A span dropped is held no more. -/
theorem State.l2Byte_l2Drop (s : State) (die line : Nat) {sp : Span} {i : Nat} (hi : i < 256) (hlow : 4 * sp.first ≤ i)
    (hhigh : i < 4 * (sp.first + sp.count)) : (s.l2Drop die line sp).l2Byte die (256 * line + i) = none := by
  rw [State.l2Byte_line _ die line hi]
  simp only [State.l2Drop]
  split
  · next hnone => rw [hnone, Option.bind_none]
  · dsimp only
    split
    · rw [Table.find?_erase, if_pos rfl, Option.bind_none]
    · rw [Table.find?_insert_same, Option.bind_some, Table.find?_keep_none]
      intro v
      simp [hlow, hhigh]

/-- A whole line dropped is held no more. -/
theorem State.l2Byte_l2Drop_line (s : State) (die line : Nat) {i : Nat} (hi : i < 256) : (s.l2Drop die line ⟨0, 64⟩).l2Byte die (256 * line + i) = none :=
  State.l2Byte_l2Drop (sp := ⟨0, 64⟩) s die line hi (Nat.zero_le i) hi

/-- A byte of a copy that an update gives a value last has that value. -/
theorem State.l2Byte_l2Update (s : State) (die line : Nat) {pre post : List (Nat × Byte)} {i : Nat} {v : Byte} (hi : i < 256)
    (hpost : ∀ p ∈ post, p.1 ≠ i) (hheld : (s.l2Byte die (256 * line + i)).isSome = true) :
    (s.l2Update die line (pre ++ (i, v) :: post)).l2Byte die (256 * line + i) = some v := by
  rw [State.l2Byte_line _ die line hi] at hheld ⊢
  simp only [State.l2Update]
  split
  · next c hc =>
    rw [hc, Option.bind_some] at hheld
    rw [Table.find?_insert_same, Option.bind_some]
    exact Table.find?_foldl_put_last c hpost hheld
  · next hnone =>
    rw [hnone] at hheld
    cases hheld

end

end Sys2Proof.Machine
end

section
/-! The messages of the directory and what dies do on them, and the sweeps of L1 and of the predictors (R202, R203, R205, R207, R208, R210, R213). -/

namespace Sys2Proof.Machine

/-! ## READ_MSG (R207, R208) -/

/-- An operation that its line's entry refused `retry` times is refused for good, and counts one more before (R208). -/
def Op.nacked (line retry tried : Nat) (q : Op) : Op :=
  if retry ≤ tried then { q with refused := q.refused ++ [line] } else { q with retries := q.retries + 1 }

/-- An operation of a die waits for a READ message on a span of a line, for a page of a protocol slot. -/
structure Misses (s : State) (id : Nat) (o : Op) (la : LaneAcc) (p : Phys) (die line slot : Nat) (sp : Span) : Prop where
  listed : (id, o) ∈ s.ops
  ofDie : coreDie o.core = die
  ready : o.ready s = true
  reads : o.laneRead = true
  lane : la ∈ o.lanes
  todo : la.done = false
  view : laneView s o la = .ok (.mem p)
  inL2 : p.pte.inL2 = true
  onLine : p.pa / 256 = line
  onSlot : p.pte.prot = slot
  first : sp.first ≤ p.pa % 256 / 4
  last : p.pa % 256 / 4 + accWords o.size ≤ sp.first + sp.count
  absent : s.readReady o.core o.ctx p.pte p.pa o.size = false

/-- A die may ask for a span of a line: it is not the line's home, and no write that the directory has taken there is not performed yet (R197). -/
structure MayAsk (s : State) (die line : Nat) (sp : Span) : Prop where
  isDie : die < 4
  inLine : sp.first + sp.count ≤ 64
  nonempty : sp.count ≠ 0
  away : die ≠ line / 2 ^ 31
  free : s.spanBusy line sp = false

/-- What a miss comes to once the directory has answered it. -/
def readAnswered (s : State) (die line : Nat) (sp : Span) (r : DirReply) : State :=
  if r.callBack || !entAct r.word 0 then s.setDir line r.entry else (s.setDir line r.entry).l2Take die line sp

section
variable {s : State} {id die line slot : Nat} {o : Op} {la : LaneAcc} {p : Phys} {sp : Span}

/-- A miss that may be asked for is answered, on behalf of some operation that waits for it. -/
theorem exec_readMsg (hm : Misses s id o la p die line slot sp) (ha : MayAsk s die line sp) :
    ∃ k q, (k, q) ∈ s.ops ∧ exec (.readMsg die line sp slot) s = if (dirHandle s line slot 0 die sp [] 0).nack = true
      then .next (s.modOp k (Op.nacked line (entRetry (dirHandle s line slot 0 die sp [] 0).word) q.retries))
      else .next (readAnswered s die line sp (dirHandle s line slot 0 die sp [] 0)) := by
  have hmay : ¬ (4 ≤ die ∨ 64 < sp.first + sp.count ∨ sp.count = 0 ∨ die = line / 2 ^ 31 ∨ s.spanBusy line sp = true) := by
    rintro (h | h | h | h | h)
    · exact absurd ha.isDie (by omega)
    · exact absurd ha.inLine (by omega)
    · exact ha.nonempty h
    · exact ha.away h
    · exact Bool.false_ne_true (ha.free.symm.trans h)
  rw [exec, execReadMsg]
  simp only [if_neg hmay]
  split
  · next hnone =>
    refine absurd (List.find?_eq_none.1 hnone (id, o) hm.listed) (not_not.2 ?_)
    simp only [Bool.and_eq_true, List.any_eq_true]
    refine ⟨⟨⟨by simp [hm.ofDie], hm.ready⟩, hm.reads⟩, la, hm.lane, ?_⟩
    simp [hm.todo, hm.view, hm.inL2, hm.onLine, hm.onSlot, hm.first, hm.last, hm.absent]
  · next k q hsome => exact ⟨k, q, List.mem_of_find?_eq_some hsome, rfl⟩

/-- A refused miss counts one refusal of some operation that waits for it, and changes nothing else. -/
theorem exec_readMsg_nack (hm : Misses s id o la p die line slot sp) (ha : MayAsk s die line sp)
    (hnack : (dirHandle s line slot 0 die sp [] 0).nack = true) :
    ∃ t k q y, exec (.readMsg die line sp slot) s = .next t ∧ { t with ops := s.ops } = s ∧ Table.find? s.ops k = some q ∧ Table.find? t.ops k = some y
      ∧ (∀ j, j ≠ k → Table.find? t.ops j = Table.find? s.ops j)
      ∧ (y = { q with retries := q.retries + 1 } ∨ y = { q with refused := q.refused ++ [line] }) := by
  obtain ⟨k, q, hkq, hrun⟩ := exec_readMsg hm ha
  obtain ⟨q', hq'⟩ := Option.isSome_iff_exists.1 (Table.find?_isSome_of_mem hkq)
  rw [hrun, if_pos hnack, State.modOp_eq hq']
  refine ⟨_, k, q', _, rfl, rfl, hq', Table.find?_insert_same .., fun j hj => Table.find?_insert_ne _ _ hj, ?_⟩
  unfold Op.nacked
  split
  · exact .inr rfl
  · exact .inl rfl

theorem copiesOnly_readAnswered (s : State) (die line : Nat) (sp : Span) (r : DirReply) : CopiesOnly s (readAnswered s die line sp r) :=
  .ite (copiesOnly_setDir ..) ((copiesOnly_setDir ..).trans (copiesOnly_l2Take ..))

theorem readAnswered_dirAt_same (s : State) (die line : Nat) (sp : Span) (r : DirReply) : (readAnswered s die line sp r).dirAt line = r.entry := by
  unfold readAnswered
  split
  · exact State.dirAt_setDir_same ..
  · exact (State.dirAt_l2Take_same ..).trans (State.dirAt_setDir_same ..)

/-- With room in its L2 the die gives up no line. -/
theorem readAnswered_dirAt_ne {r : DirReply} (hroom : (s.l2Held die).length < l2Lines) {l : Nat} (hl : l ≠ line) :
    (readAnswered s die line sp r).dirAt l = s.dirAt l := by
  unfold readAnswered
  split
  · exact State.dirAt_setDir_ne s _ hl
  · exact (State.dirAt_l2Take_room (s := s.setDir line r.entry) hroom).trans (State.dirAt_setDir_ne s _ hl)

theorem readAnswered_l2Byte {r : DirReply} (hfree : r.callBack = false) (hdata : entAct r.word 0 = true) (hsp : sp.first + sp.count ≤ 64) {i : Nat}
    (hlow : 4 * sp.first ≤ i) (hhigh : i < 4 * (sp.first + sp.count)) :
    (readAnswered s die line sp r).l2Byte die (256 * line + i) = some (s.ms.byte (256 * line + i)) := by
  rw [readAnswered, if_neg (by simp [hfree, hdata])]
  exact State.l2Byte_l2Take _ die line hsp hlow hhigh

end

/-! ## EVICT_MSG (R207, R213) -/

section
variable {s : State} {die line : Nat}

theorem evict_pinned (h : s.ms.pins.any (fun p => p.2.1 == die && p.2.2 == line) = true) : s.evict die line = s := by
  rw [State.evict, if_pos (by rw [h, Bool.or_true])]

theorem evict_l2Byte (hheld : (Table.find? s.ms.l2 (l2Key die line)).isSome = true)
    (hpin : s.ms.pins.any (fun p => p.2.1 == die && p.2.2 == line) = false) {i : Nat} (hi : i < 256) :
    (s.evict die line).l2Byte die (256 * line + i) = none := by
  have hgo : ¬ ((Table.find? s.ms.l2 (l2Key die line)).isNone || s.ms.pins.any (fun p => p.2.1 == die && p.2.2 == line)) = true := by
    rw [hpin, Bool.or_false]
    simpa using Option.isSome_iff_ne_none.1 hheld
  rw [State.evict, if_neg hgo]
  exact State.l2Byte_l2Drop_line _ die line hi

end

/-! ## SHARER_INVALIDATE and SHARER_UPDATE (R203, R205) -/

/-- An invalidation that a die can acknowledge: no lease of the die holds its span. -/
def DirMsg.invalFree (s : State) (die line : Nat) : DirMsg → Bool
  | .inval t sp _ => t == die && !s.leased die line sp
  | _ => false

/-- An update sent to a die. -/
def DirMsg.updateOf (die : Nat) : DirMsg → Bool
  | .update t _ _ _ => t == die
  | _ => false

/-- A recall sent to a die. -/
def DirMsg.recallOf (die : Nat) : DirMsg → Bool
  | .recall t _ => t == die
  | _ => false

/-- A line's entry once a die has handled a message of operation `op` and its acknowledgement is on its way. -/
def DirEntry.acked (d : DirEntry) (die : Nat) (m : DirMsg) (op : Nat) : DirEntry :=
  { d with out := d.out.erase m, acks := d.acks ++ [(die, op)] }

section
variable {s : State} {die line op : Nat} {sp : Span} {bytes : List (Nat × Byte)}

/-- Where leases hold every invalidation sent to a die, it acknowledges none. -/
theorem exec_sharerInvalidate_held (h : ∀ sp op, DirMsg.inval die sp op ∈ (s.dirAt line).out → s.leased die line sp = true) :
    exec (.sharerInvalidate die line) s = .next s := by
  rw [exec, execSharerInvalidate]
  split
  · next t sp op hfind =>
    have hgo := List.find?_some hfind
    simp only [Bool.and_eq_true, beq_iff_eq, Bool.not_eq_true'] at hgo
    obtain ⟨rfl, hfree⟩ := hgo
    exact absurd (h sp op (List.mem_of_find?_eq_some hfind)) (by simp [hfree])
  · rfl

theorem exec_sharerInvalidate (h : (s.dirAt line).out.find? (DirMsg.invalFree s die line) = some (.inval die sp op)) :
    s.leased die line sp = false
      ∧ exec (.sharerInvalidate die line) s = .next ((s.l2Drop die line sp).setDir line ((s.dirAt line).acked die (.inval die sp op) op)) := by
  have hfree := List.find?_some h
  simp only [DirMsg.invalFree, Bool.and_eq_true, Bool.not_eq_true'] at hfree
  refine ⟨hfree.2, ?_⟩
  rw [exec, execSharerInvalidate]
  split
  · next hfind =>
    obtain ⟨rfl, rfl, rfl⟩ := DirMsg.inval.inj (Option.some.inj (hfind.symm.trans h))
    rfl
  · next hno => exact absurd h (hno die sp op)

theorem exec_sharerUpdate (h : (s.dirAt line).out.find? (DirMsg.updateOf die) = some (.update die sp bytes op)) :
    exec (.sharerUpdate die line) s = if s.leased die line sp = true then .next s
      else .next ((s.l2Update die line bytes).setDir line ((s.dirAt line).acked die (.update die sp bytes op) op)) := by
  rw [exec, execSharerUpdate]
  split
  · next hfind =>
    obtain ⟨rfl, rfl, rfl, rfl⟩ := DirMsg.update.inj (Option.some.inj (hfind.symm.trans h))
    rfl
  · next hno => exact absurd h (hno die sp bytes op)

/-- A die's copy changes, and the directory's entry of the line. -/
theorem copiesOnly_acked {t : State} (h : CopiesOnly s t) (line : Nat) (d : DirEntry) : CopiesOnly s (t.setDir line d) := h.trans (copiesOnly_setDir ..)

/-! ## ACK_MSG (R207) -/

/-- A line's entry once an acknowledgement has reached the directory, as the entry for it says. -/
def DirEntry.takeAck (s : State) (die line op : Nat) : DirEntry :=
  let r := dirHandle s line (s.dirAt line).slot 4 die ⟨0, 64⟩ [] 0
  let d := if r.nack || r.callBack then s.dirAt line else r.entry
  { d with acks := d.acks.erase (die, op) }

/-- An acknowledgement taken changes one line's entry, and ends at most the wait of the operation it is for. -/
theorem State.ackLine_cases (s : State) (line op : Nat) :
    s.ackLine line op = s ∨ s.ackLine line op = s.modOp op (fun o => { o with waitAcks := o.waitAcks.filter (· != line) }) := by
  simp only [State.ackLine]
  split
  · exact .inl rfl
  · exact .inr rfl

theorem State.modOp_rest (s : State) (id : Nat) (g : Op → Op) : s.modOp id g = { s with ops := (s.modOp id g).ops } := by
  unfold State.modOp
  split <;> rfl

theorem State.find?_modOp_ne (s : State) {id k : Nat} (g : Op → Op) (hk : k ≠ id) : Table.find? (s.modOp id g).ops k = Table.find? s.ops k := by
  unfold State.modOp
  split
  · exact Table.find?_insert_ne _ _ hk
  · rfl

theorem State.find?_modOp_same {s : State} {id : Nat} {o : Op} (h : Table.find? s.ops id = some o) (g : Op → Op) :
    Table.find? (s.modOp id g).ops id = some (g o) := by
  rw [State.modOp_eq h, Table.find?_insert_same]

theorem exec_ackMsg (h : (s.dirAt line).acks.find? (fun a => a.1 == die) = some (die, op)) :
    ∃ t, exec (.ackMsg die line) s = .next t ∧ t.dirAt line = DirEntry.takeAck s die line op ∧ SameMem s t ∧ { t with ms := s.ms, ops := s.ops } = s
      ∧ (∀ k, k ≠ op → Table.find? t.ops k = Table.find? s.ops k) := by
  have hrun : exec (.ackMsg die line) s = .next ((s.setDir line (DirEntry.takeAck s die line op)).ackLine line op) := by
    rw [exec, execAckMsg]
    simp only [h]
    rfl
  refine ⟨_, hrun, ?_⟩
  rcases State.ackLine_cases (s.setDir line (DirEntry.takeAck s die line op)) line op with ht | ht
  · rw [ht]
    exact ⟨State.dirAt_setDir_same .., fun _ => rfl, rfl, fun _ _ => rfl⟩
  · have hne (k : Nat) (hk : k ≠ op) := State.find?_modOp_ne (s.setDir line (DirEntry.takeAck s die line op))
      (fun o => { o with waitAcks := o.waitAcks.filter (· != line) }) hk
    rw [ht, State.modOp_rest]
    exact ⟨State.dirAt_setDir_same .., fun _ => rfl, rfl, hne⟩

/-! ## RECALL and RETURN_MSG (R208) -/

theorem exec_recall (h : (s.dirAt line).out.find? (DirMsg.recallOf die) = some (.recall die sp)) :
    exec (.recall die line) s = .next (s.setDir line { s.dirAt line with
      out := (s.dirAt line).out.erase (.recall die sp), returns := (s.dirAt line).returns ++ [die] }) := by
  rw [exec, execRecall]
  split
  · next hfind =>
    obtain rfl := Option.some.inj (hfind.symm.trans h)
    rfl
  · next hno => exact absurd (hno.symm.trans h) (by simp)

/-- The owner that returns a span drops the whole line from its L2. -/
theorem exec_returnMsg (h : (s.dirAt line).returns.contains die = true) :
    ∃ d, exec (.returnMsg die line) s = .next ((s.setDir line d).l2Drop die line ⟨0, 64⟩) := by
  rw [exec, execReturnMsg]
  exact ⟨_, if_pos h⟩

end

/-! ## L1_TAG_SWEEP and PREDICTOR_DECAY (R202, R210) -/

theorem exec_l1TagSweep (s : State) (c : Nat) : exec (.l1TagSweep c) s
    = .next (s.modCore c (fun k => { k with l1 := Table.keep k.l1 (fun _ l => !decide (l.endGt + 2 ^ 18 < s.coreGt c)) })) := rfl

/-- The predictors after a decay: each counter less 1, none left at 0. -/
def decayOf (t : Table Nat) : Table Nat := (Table.map t (fun _ v => v - 1)).filter (fun p => p.2 != 0)

theorem exec_predictorDecay (s : State) : exec .predictorDecay s = if s.gt < s.ms.decayed + 16384 then .next s
    else .next { s with ms := { s.ms with
      predictor := decayOf s.ms.predictor, homePredictor := decayOf s.ms.homePredictor, decayed := s.ms.decayed + 16384 } } := rfl

theorem find?_decayOf_ne_zero (t : Table Nat) (k : Nat) : Table.find? (decayOf t) k ≠ some 0 := by
  intro h
  have hmem := (List.mem_filter.1 (Table.mem_of_find? h)).2
  simp at hmem

/-- A counter of 2 or more falls by 1. -/
theorem find?_decayOf {t : Table Nat} {k n : Nat} (h : Table.find? t k = some n) (hn : 2 ≤ n) : Table.find? (decayOf t) k = some (n - 1) := by
  induction t with
  | nil => cases h
  | cons p t ih =>
    have hcons : decayOf (p :: t) = if (p.1, p.2 - 1).2 != 0 then (p.1, p.2 - 1) :: decayOf t else decayOf t := List.filter_cons
    rw [Table.find?] at h
    rw [hcons]
    split at h
    · next hk =>
      obtain rfl := Option.some.inj h
      rw [if_pos (by simp; omega), Table.find?, if_pos hk]
    · next hk =>
      split
      · rw [Table.find?, if_neg hk, ih h]
      · exact ih h

end Sys2Proof.Machine
end

section
/-! WRITE_MSG and ATOMIC_MSG: an operation's request for one access at its line's directory (R205, R207, R208, R210), and the proof of O38
(DirectoryAndSweeps). -/

namespace Sys2Proof.Machine

/-! ## A request at the directory -/

/-- The words that an access reaches, and the bytes that a lane writes there, by their place in its line. -/
def Op.spanAt (o : Op) (p : Phys) : Span := ⟨p.pa % 256 / 4, accWords o.size⟩
def Op.lineBytes (o : Op) (la : LaneAcc) (p : Phys) : List (Nat × Byte) :=
  (List.range o.size).map (fun k => (p.pa % 256 + k, BitVec.ofNat 8 (la.data / 2 ^ (8 * k))))

/-- The directory's answer to the request of one access of an operation. -/
def Op.reply (s : State) (id m : Nat) (o : Op) (la : LaneAcc) (p : Phys) : DirReply :=
  dirHandle s (p.pa / 256) p.pte.prot m (coreDie o.core) (spanJoin (o.spanAt p) (o.spanAt p)) (o.lineBytes la p) id

/-- An operation may ask the directory for a line: it may write now, has the line still to ask for, and no page that it asks for is moving. -/
structure MayRequest (s : State) (id : Nat) (o : Op) (line : Nat) : Prop where
  writes : o.writes = true
  ready : o.ready s = true
  own : ownFirst s id o.todo = true
  arrival : arrivalFirst s id o.todo = true
  notGranted : o.granted.contains line = false
  noFault : o.todo.fault? s = none
  asks : o.todo.asking s line ≠ []
  unlocked : ∀ x ∈ o.todo.asking s line, s.locked x.2.pa = false

/-- Its request has left: one access asks, and no other operation waits for acknowledgements on a word of it. -/
structure OneRequest (s : State) (id : Nat) (o : Op) (la : LaneAcc) (p : Phys) : Prop where
  found : Table.find? s.ops id = some o
  asking : o.todo.asking s (p.pa / 256) = [(la, p)]
  apart : ∀ q ∈ s.ops, q.1 ≠ id → q.2.waitAcks.contains (p.pa / 256) = true → ∀ x ∈ q.2.spansOn (p.pa / 256), spansMeet x (o.spanAt p) = false

/-- The state in which an operation's requests have left its core. -/
def State.requested (s : State) (id : Nat) (o : Op) : State := if o.left.isSome then s else s.leave id o false

theorem State.requested_ms (s : State) (id : Nat) (o : Op) : (s.requested id o).ms = s.ms := by
  unfold State.requested
  split
  · rfl
  · exact State.leave_ms ..

/-- An operation that the directory has granted a line (R207, R208, R210). -/
def Op.taken (line m : Nat) (r : DirReply) (q : Op) : Op :=
  { q with granted := q.granted ++ [line], waitAcks := if r.wait then q.waitAcks ++ [line] else q.waitAcks
           skip := if entAct r.word (if m = 2 then 12 else 1) then q.skip else q.skip ++ [line]
           marks := if entAct r.word 11 then q.marks ++ [line] else q.marks }

/-- An operation one lane of which is done. -/
def Op.laneDone (lane : Nat) (q : Op) : Op := { q with lanes := q.lanes.map (fun x => if lane == x.lane then { x with done := true } else x) }

/-- Whether an entry performs a write at home as it sends its updates (R205). -/
def performsAtHome (r : DirReply) (m : Nat) : Bool := entAct r.word 5 && entAct r.word (if m = 2 then 12 else 1) && m == 1

/-- The state in which the directory has granted a line to an operation. -/
def granted (s : State) (id m : Nat) (o : Op) (la : LaneAcc) (p : Phys) (r : DirReply) : State :=
  let t := (s.setDir (p.pa / 256) r.entry).modOp id (Op.taken (p.pa / 256) m r)
  if performsAtHome r m then (storeAt t (o.taken (p.pa / 256) m r) la (.ok (.mem p))).modOp id (Op.laneDone la.lane) else t

/-- What a request comes to, once the directory has answered it: a lease or the entry's refusal keeps it, a recall comes first, and else it is granted. -/
def requestAnswered (s : State) (id m : Nat) (o : Op) (la : LaneAcc) (p : Phys) (r : DirReply) : State :=
  if entAct r.word 5 && heldByLease s o p then s
  else if r.nack then s.modOp id (fun q => q.nacked (p.pa / 256) (entRetry r.word) q.retries)
  else if r.callBack then s.setDir (p.pa / 256) r.entry
  else granted s id m o la p r

theorem spanJoin_self (a : Span) : spanJoin a a = a := by
  simp [spanJoin]

section
variable {s : State} {id m : Nat} {o o1 : Op} {la : LaneAcc} {p : Phys}

/-- The directory takes one access's request as its own reply to it says. -/
theorem dirRequest_one (hop : Table.find? s.ops id = some o) (hmay : MayRequest s id o (p.pa / 256)) (hone : OneRequest (s.requested id o) id o1 la p) :
    dirRequest o.msg id (p.pa / 256) s
      = requestAnswered (s.requested id o) id o.msg o1 la p (o1.reply (s.requested id o) id o.msg la p) := by
  have hasks : (o.todo.asking s (p.pa / 256)).isEmpty = false := List.isEmpty_eq_false_iff.2 hmay.asks
  have hlocked : (o.todo.asking s (p.pa / 256)).any (fun x => s.locked x.2.pa) = false := List.any_eq_false.2 fun x hx => by simp [hmay.unlocked x hx]
  have hready : o.todo.ready s = true := hmay.ready
  have hwrites : o.todo.writes = true := hmay.writes
  have hgranted : o.todo.granted.contains (p.pa / 256) = false := hmay.notGranted
  have hmsg : (o.todo.msg == o.msg) = true := beq_self_eq_true _
  have hbusy : (s.requested id o).ops.any (fun q => q.1 != id && q.2.waitAcks.contains (p.pa / 256)
      && (q.2.spansOn (p.pa / 256)).any (fun x => spansMeet x
        (spanJoin ⟨p.pa % 256 / 4, accWords o1.todo.size⟩ ⟨p.pa % 256 / 4, accWords o1.todo.size⟩))) = false := by
    rw [spanJoin_self, List.any_eq_false]
    intro q hq h
    simp only [Bool.and_eq_true, bne_iff_ne, List.any_eq_true] at h
    obtain ⟨⟨hne, hwait⟩, x, hx, hmeet⟩ := h
    exact Bool.false_ne_true ((hone.apart q hq hne hwait x hx).symm.trans hmeet)
  unfold dirRequest
  rw [hop]
  dsimp only
  rw [if_neg (by simp only [hready, hmay.own, hmay.arrival, hwrites, hgranted, hmsg, hmay.noFault, hasks, hlocked]; decide),
    show (if o.left.isSome = true then s else s.leave id o false) = s.requested id o from rfl, hone.found]
  dsimp only
  rw [hone.asking]
  simp only [List.foldl_cons, List.foldl_nil, List.flatMap_cons, List.flatMap_nil, List.append_nil, List.any_cons, List.any_nil, Bool.or_false]
  rw [show dirHandle (s.requested id o) (p.pa / 256) p.pte.prot o.msg (coreDie o1.todo.core)
      (spanJoin ⟨p.pa % 256 / 4, accWords o1.todo.size⟩ ⟨p.pa % 256 / 4, accWords o1.todo.size⟩)
      ((List.range o1.todo.size).map (fun i => (p.pa % 256 + i, BitVec.ofNat 8 (la.data / 2 ^ (8 * i))))) id
      = o1.reply (s.requested id o) id o.msg la p from rfl]
  generalize o1.reply (s.requested id o) id o.msg la p = r
  rw [hbusy, Bool.false_or, show heldByLease (s.requested id o) o1.todo p = heldByLease (s.requested id o) o1 p from rfl]
  simp only [State.find?_modOp_same (s := (s.requested id o).setDir (p.pa / 256) r.entry) hone.found]
  rfl

/-- WRITE_MSG and ATOMIC_MSG come to the directory's answer, by the message of the operation. -/
theorem exec_requestMsg {i : Instr} (hi : i = .writeMsg id (p.pa / 256) ∧ o.msg = 1 ∨ i = .atomicMsg id (p.pa / 256) ∧ o.msg = 2) :
    exec i s = .next (dirRequest o.msg id (p.pa / 256) s) := by
  rcases hi with ⟨rfl, hm⟩ | ⟨rfl, hm⟩ <;> rw [hm] <;> rfl

end

/-! ## The directory's entries while bytes are written -/

theorem Ms.setBytes_dir (bs : List Byte) (m : Ms) (pa : Nat) : (m.setBytes pa bs).dir = m.dir := by
  induction bs generalizing m pa with
  | nil => rfl
  | cons b t ih => exact ih (m.setByte pa b) (pa + 1)

theorem sealPrepare_dir (s : State) (ctx : Nat) (e : Pte) (pa : Nat) : (sealPrepare s ctx e pa).ms.dir = s.ms.dir := by
  obtain hq | ⟨c, _, _, hp⟩ | ⟨bs, _, _, hp⟩ := sealPrepare_cases s ctx e pa
  · obtain ⟨held, hp⟩ := sealPrepare_quiet hq
    rw [hp]
  · rw [hp]
    rfl
  · rw [hp]
    exact Ms.setBytes_dir ..

theorem State.homeByte_dir (s : State) (core ctx : Nat) (e : Pte) (pa : Nat) (v : Byte) : (s.homeByte core ctx e pa v).ms.dir = s.ms.dir := by
  refine Eq.trans ?_ (sealPrepare_dir s ctx e pa)
  simp only [State.homeByte]
  split
  · split <;> rfl
  · rfl

theorem State.writeByte_dir (s : State) (core ctx : Nat) (e : Pte) (pa : Nat) (v : Byte) : (s.writeByte core ctx e pa v).ms.dir = s.ms.dir := by
  rw [State.writeByte, State.l1Update_ms, State.homeByte_dir]

theorem State.markWords_dir (s : State) (once : Bool) (pa n : Nat) : (s.markWords once pa n).ms.dir = s.ms.dir := by
  simp only [State.markWords]
  split
  · exact List.foldlRecOn _ _ (motive := fun t : State => t.ms.dir = s.ms.dir) rfl fun t ht _ _ => ht
  · split <;> rfl

theorem storeAt_dir (s : State) (o : Op) (la : LaneAcc) (p : Phys) : (storeAt s o la (.ok (.mem p))).ms.dir = s.ms.dir := by
  simp only [storeAt]
  split
  · rw [State.markWords_dir]
    refine List.foldlRecOn _ _ (motive := fun t : State => t.ms.dir = s.ms.dir) (by rw [State.exclReturn_ms]) fun t ht i _ => ?_
    split
    · exact (State.homeByte_dir ..).trans ht
    · exact (State.writeByte_dir ..).trans ht
  · rfl

/-! ## What a granted request leaves -/

theorem performsAtHome_iff {r : DirReply} {m : Nat} : performsAtHome r m = true ↔ entAct r.word 5 = true ∧ entAct r.word 1 = true ∧ m = 1 := by
  simp only [performsAtHome, Bool.and_eq_true, beq_iff_eq, and_assoc]
  refine and_congr_right fun _ => ⟨fun ⟨h, hm⟩ => ?_, fun ⟨h, hm⟩ => ?_⟩
  · rw [hm] at h
    exact ⟨h, hm⟩
  · rw [hm]
    exact ⟨h, rfl⟩

section
variable {s : State} {id m : Nat} {o : Op} {la : LaneAcc} {p : Phys} {r : DirReply}

/-- A granted operation, its lane done where the entry performs its write at home. -/
def Op.grantedAs (line m lane : Nat) (r : DirReply) (o : Op) : Op :=
  if performsAtHome r m then (o.taken line m r).laneDone lane else o.taken line m r

theorem granted_op (h : Table.find? s.ops id = some o) :
    Table.find? (granted s id m o la p r).ops id = some (o.grantedAs (p.pa / 256) m la.lane r) := by
  have htaken := State.find?_modOp_same (s := s.setDir (p.pa / 256) r.entry) h (Op.taken (p.pa / 256) m r)
  simp only [granted, Op.grantedAs]
  split
  · refine State.find?_modOp_same ?_ _
    rw [(written_storeAt ..).memoryOnly.ops, htaken]
  · exact htaken

theorem granted_op_ne {k : Nat} (hk : k ≠ id) : Table.find? (granted s id m o la p r).ops k = Table.find? s.ops k := by
  have htaken := State.find?_modOp_ne (s.setDir (p.pa / 256) r.entry) (Op.taken (p.pa / 256) m r) hk
  simp only [granted]
  split
  · rw [State.find?_modOp_ne _ _ hk, (written_storeAt ..).memoryOnly.ops, htaken]
    rfl
  · exact htaken

theorem granted_dirAt : (granted s id m o la p r).dirAt (p.pa / 256) = r.entry := by
  have hset : ((s.setDir (p.pa / 256) r.entry).modOp id (Op.taken (p.pa / 256) m r)).dirAt (p.pa / 256) = r.entry := by
    rw [State.dirAt_of_dir (congrArg Ms.dir (State.modOp_ms ..)), State.dirAt_setDir_same]
  simp only [granted]
  split
  · rw [State.dirAt_of_dir (congrArg Ms.dir (State.modOp_ms ..)), State.dirAt_of_dir (storeAt_dir ..), hset]
  · exact hset

/-- Where the entry does not perform the write, no byte changes. -/
theorem granted_sameMem (h : ¬ performsAtHome r m = true) : SameMem s (granted s id m o la p r) := by
  intro a
  simp only [granted]
  rw [if_neg h, State.modOp_ms]
  rfl

/-- Where it performs the write, a lane's bytes are written, between states with the memory and the seals of these. -/
theorem granted_written (h : performsAtHome r m = true) (hv : la.valid = true) (hskip : o.skip.contains (p.pa / 256) = false) :
    ∃ t u, Written o.ctx (byteRun p.pte p.pa o.size la.byte) t u ∧ t.ms.mem = s.ms.mem ∧ t.ms.sealTab = s.ms.sealTab
      ∧ (granted s id m o la p r).ms = u.ms := by
  have hms : ((s.setDir (p.pa / 256) r.entry).modOp id (Op.taken (p.pa / 256) m r)).ms = (s.setDir (p.pa / 256) r.entry).ms := State.modOp_ms ..
  have hgo : (o.taken (p.pa / 256) m r).laneWrites la p = true := by
    simp only [performsAtHome, Bool.and_eq_true] at h
    obtain ⟨⟨_, hdoes⟩, _⟩ := h
    simp only [Op.laneWrites, Op.taken, hdoes, if_true, hv, hskip]
    rfl
  have hwritten := written_storeAt ((s.setDir (p.pa / 256) r.entry).modOp id (Op.taken (p.pa / 256) m r)) (o.taken (p.pa / 256) m r) la p
  rw [Op.bytesAt, if_pos hgo] at hwritten
  refine ⟨_, _, hwritten, by rw [hms]; rfl, by rw [hms]; rfl, ?_⟩
  simp only [granted]
  rw [if_pos h, State.modOp_ms]

theorem granted_bytes (h : performsAtHome r m = true) (hv : la.valid = true) (hskip : o.skip.contains (p.pa / 256) = false)
    (hp : PlainAccess s p o.size) :
    (∀ k, k < o.size → (granted s id m o la p r).ms.byte (p.pa + k) = la.byte k)
      ∧ ∀ a, ¬ (p.pa ≤ a ∧ a < p.pa + o.size) → (granted s id m o la p r).ms.byte a = s.ms.byte a := by
  obtain ⟨t, u, hwritten, hmem, hseal, hms⟩ := granted_written (s := s) (id := id) h hv hskip
  have hplain : PlainAccess t p o.size := ⟨hp.unsealed, by rw [State.sealMeta, hseal]; exact hp.noKey, hp.page⟩
  rw [hms]
  exact ⟨fun k hk => hwritten.plain_same hplain hk, fun a ha => (hwritten.plain_other hplain ha).trans (sameMem_of_mem hmem a)⟩

/-- The lanes of the access that the entry performs are done. -/
theorem Op.laneDone_lanes {lane : Nat} : ∀ x ∈ (o.laneDone lane).lanes, x.lane = lane → x.done = true := by
  intro x hx hlane
  obtain ⟨y, _, rfl⟩ := List.mem_map.1 hx
  by_cases heq : (lane == y.lane) = true
  · rw [if_pos heq]
  · rw [if_neg heq] at hlane
    exact absurd (beq_iff_eq.2 hlane.symm) heq

/-- What the directory's grant leaves of an operation and of memory (R205, R207, R208). -/
theorem granted_leaves (h : Table.find? s.ops id = some o) :
    ∃ q, (granted s id m o la p r).dirAt (p.pa / 256) = r.entry ∧ Table.find? (granted s id m o la p r).ops id = some q
      ∧ (∀ k, k ≠ id → Table.find? (granted s id m o la p r).ops k = Table.find? s.ops k) ∧ q.granted = o.granted ++ [p.pa / 256]
      ∧ q.waitAcks = (if r.wait then o.waitAcks ++ [p.pa / 256] else o.waitAcks)
      ∧ q.skip = (if entAct r.word (if m = 2 then 12 else 1) then o.skip else o.skip ++ [p.pa / 256])
      ∧ q.marks = (if entAct r.word 11 then o.marks ++ [p.pa / 256] else o.marks)
      ∧ (¬ performsAtHome r m = true → q.lanes = o.lanes ∧ SameMem s (granted s id m o la p r))
      ∧ (performsAtHome r m = true → ∀ x ∈ q.lanes, x.lane = la.lane → x.done = true) := by
  refine ⟨_, granted_dirAt, granted_op h, fun k hk => granted_op_ne hk, ?_⟩
  by_cases hdone : performsAtHome r m = true
  · rw [Op.grantedAs, if_pos hdone]
    exact ⟨rfl, rfl, rfl, rfl, fun hno => absurd hdone hno, fun _ => Op.laneDone_lanes⟩
  · rw [Op.grantedAs, if_neg hdone]
    exact ⟨rfl, rfl, rfl, rfl, fun _ => ⟨rfl, granted_sameMem hdone⟩, fun h => absurd h hdone⟩

end

/-! ## What a request comes to -/

section
variable {s : State} {id m : Nat} {o : Op} {la : LaneAcc} {p : Phys} {r : DirReply}

theorem requestAnswered_held (hupd : entAct r.word 5 = true) (hheld : heldByLease s o p = true) : requestAnswered s id m o la p r = s := by
  rw [requestAnswered, if_pos (by rw [hupd, hheld]; rfl)]

theorem requestAnswered_free (hgo : ¬ (entAct r.word 5 = true ∧ heldByLease s o p = true)) :
    requestAnswered s id m o la p r = if r.nack then s.modOp id (fun q => q.nacked (p.pa / 256) (entRetry r.word) q.retries)
      else if r.callBack then s.setDir (p.pa / 256) r.entry else granted s id m o la p r := by
  rw [requestAnswered, if_neg (by rwa [Bool.and_eq_true])]

end

/-! ## The statement -/

/-- Settles O38: each message by what it leaves of the line's entry, its copies and the operation, each sweep by what it drops. -/
theorem directoryAndSweeps : Obligations.DirectoryAndSweeps := by
  refine ⟨⟨?_, ?_, ?_, ?_, ?_, ?_, ?_⟩, ?_, ?_, ?_, ?_⟩
  · intro s id die line slot o la p sp r hlisted hdie hready hreads hla htodo hv hL2 hline hslot hfirst hlast habsent hisDie hsp hcount haway hfree hr
    subst hr
    have hm : Misses s id o la p die line slot sp :=
      ⟨hlisted, hdie, hready, hreads, hla, htodo, hv, hL2, hline, hslot, hfirst, hlast, habsent⟩
    have ha : MayAsk s die line sp := ⟨hisDie, hsp, hcount, haway, hfree⟩
    refine ⟨exec_readMsg_nack hm ha, fun hnack => ?_⟩
    obtain ⟨k, q, _, hrun⟩ := exec_readMsg hm ha
    have honly := copiesOnly_readAnswered s die line sp (dirHandle s line slot 0 die sp [] 0)
    exact ⟨_, hrun.trans (if_neg (by simp [hnack])), readAnswered_dirAt_same .., honly.sameMem, honly.rest,
      fun hroom l hl => readAnswered_dirAt_ne hroom hl, fun hcall hdata i hlow hhigh => readAnswered_l2Byte hcall hdata hsp hlow hhigh⟩
  · intro s die line hheld
    refine ⟨fun hpin => ?_, fun hpin => ?_⟩
    · exact congrArg Host.Outcome.next (evict_pinned hpin)
    · have honly := copiesOnly_evict s die line
      exact ⟨_, rfl, fun i hi => evict_l2Byte hheld hpin hi, honly.sameMem, honly.rest⟩
  · intro s die line
    refine ⟨exec_sharerInvalidate_held, fun sp op hfind => ?_⟩
    obtain ⟨hfree, hrun⟩ := exec_sharerInvalidate hfind
    have honly := copiesOnly_acked (copiesOnly_l2Drop s die line sp) line ((s.dirAt line).acked die (.inval die sp op) op)
    exact ⟨hfree, _, hrun, honly.sameMem, honly.rest, State.dirAt_setDir_same .., fun i hlow hhigh hi => State.l2Byte_l2Drop s die line hi hlow hhigh⟩
  · intro s die line op sp bytes hfind
    have hrun := exec_sharerUpdate hfind
    refine ⟨fun hheld => hrun.trans (if_pos hheld), fun hfree => ?_⟩
    have honly := copiesOnly_acked (copiesOnly_l2Update s die line bytes) line ((s.dirAt line).acked die (.update die sp bytes op) op)
    refine ⟨_, hrun.trans (if_neg (by simp [hfree])), honly.sameMem, honly.rest, State.dirAt_setDir_same .., ?_⟩
    rintro i v pre post rfl hpost hi hheld
    exact State.l2Byte_l2Update s die line hi hpost hheld
  · intro s die line op hfind
    exact exec_ackMsg hfind
  · intro s die line sp hfind
    exact ⟨_, exec_recall hfind, fun _ => rfl, rfl, State.dirAt_setDir_same ..⟩
  · intro s die line hreturns
    obtain ⟨d, hrun⟩ := exec_returnMsg hreturns
    have honly : CopiesOnly s ((s.setDir line d).l2Drop die line ⟨0, 64⟩) := (copiesOnly_setDir ..).trans (copiesOnly_l2Drop ..)
    exact ⟨_, hrun, honly.sameMem, honly.rest, fun i hi => State.l2Byte_l2Drop_line _ die line hi⟩
  · intro s s1 id o o1 la p r i hop hwrites hi hready hown harrival hgranted hfault hasks hlocked hs1 hfound hasking hapart hr
    obtain rfl : s1 = s.requested id o := hs1
    obtain rfl : r = o1.reply (s.requested id o) id o.msg la p := hr
    have hmay : MayRequest s id o (p.pa / 256) := ⟨hwrites, hready, hown, harrival, hgranted, hfault, hasks, hlocked⟩
    have hrun := (exec_requestMsg hi).trans (congrArg Host.Outcome.next (dirRequest_one hop hmay ⟨hfound, hasking, hapart⟩))
    have hms : (s.requested id o).ms = s.ms := State.requested_ms ..
    have hseal : (s.requested id o).sealMeta (p.pa / 4096) = s.sealMeta (p.pa / 4096) := State.sealMeta_of_ms hms _
    generalize o1.reply (s.requested id o) id o.msg la p = r at hrun ⊢
    generalize s.requested id o = s1 at hfound hrun hms hseal ⊢
    refine ⟨fun hupd hheld => hrun.trans (congrArg _ (requestAnswered_held hupd hheld)), fun hgo => ?_⟩
    rw [requestAnswered_free hgo] at hrun
    refine ⟨fun hnack => ?_, fun hnack hcall => ?_, fun hnack hcall => ?_⟩
    · rw [if_pos hnack] at hrun
      refine ⟨_, hrun, ?_, fun k hk => State.find?_modOp_ne _ _ hk, State.find?_modOp_same hfound _⟩
      rw [State.modOp_rest]
    · rw [hrun, if_neg (by simp [hnack]), if_pos hcall]
    · rw [if_neg (by simp [hnack]), if_neg (by simp [hcall])] at hrun
      obtain ⟨q, hdir, hq, hothers, hqgranted, hqwait, hqskip, hqmarks, hqstill, hqdone⟩ :=
        granted_leaves (m := o.msg) (la := la) (p := p) (r := r) hfound
      refine ⟨_, q, hrun, hdir, hq, hothers, hqgranted, hqwait, hqskip, hqmarks, fun hno => hqstill fun h => hno (performsAtHome_iff.1 h),
        fun hupd hwrite hmsg hvalid hskip hsealed hkid hpage => ?_⟩
      have hperforms : performsAtHome r o.msg = true := performsAtHome_iff.2 ⟨hupd, hwrite, hmsg⟩
      obtain ⟨hbytes, hrest⟩ := granted_bytes (id := id) hperforms hvalid hskip ⟨hsealed, (congrArg SealMeta.kid hseal).trans hkid, hpage⟩
      exact ⟨hqdone hperforms, hbytes, fun a ha => (hrest a ha).trans (by rw [hms])⟩
  · intro s c
    exact ⟨_, exec_l1TagSweep s c, rfl, fun k hk => State.core_modCore_ne s _ hk, State.core_modCore_same ..⟩
  · intro s hearly
    exact (exec_predictorDecay s).trans (if_pos hearly)
  · intro s hdue
    exact ⟨_, (exec_predictorDecay s).trans (if_neg (by omega)), fun _ => rfl, rfl, rfl, fun k n h hn => find?_decayOf h hn, fun k n h hn => find?_decayOf h hn,
      find?_decayOf_ne_zero _, find?_decayOf_ne_zero _⟩

end Sys2Proof.Machine
end

section
/-! PROOFS. HALT on a floe table that lists one number twice (O52). `State.preemptCore` takes the numbers of the entries not yet being saved,
and marks the first entry of each number; its last clause on the issuing floe needs a sorted table, which the statement does not ask for. -/

namespace Sys2Proof.Machine

/-- Floe 0 in its privileged level at gt 0, its save begun at gt 1. -/
def haltingFloe : Floe :=
  { Floe.formed with
    inst := 1, kernel := 1, regs := 192, wregs := 48, spillCap := 16, state := .ready, s0 := some ⟨BitVec.ofNat 64 placedPc, 0xFFFFFFFF, none, none⟩
    levelPriv := true, preempt := true, savedGt := 1 }

/-- The small machine of one context, its floe table listing number 0 twice: a floe whose save has begun, then one whose save has not. -/
def twiceListed : State := { State.reset.placeWord 0 with floes := [(0, haltingFloe), (0, { haltingFloe with preempt := false })] }

/-- HALT, unguarded. -/
def haltWord : FWord := ⟨0xFF, 0xFF, 0xFF, 0xFF, 0xFF, 0, 0, 0, none, 0⟩

/-- HALT's description. -/
def haltShape : Shape := shapeSys haltWord (fieldFF haltWord.d) (fieldFF haltWord.a) (fieldFF haltWord.b) (fieldFF haltWord.c)

/-- What HALT's issue finds. -/
def haltEnv : Env := ⟨0, false, haltingFloe, ⟨BitVec.ofNat 64 placedPc, 0xFFFFFFFF, none, none⟩, 8, 0xFFFFFFFF⟩

theorem issues_halt_twiceListed : Issues (.halt haltWord) haltWord haltShape haltEnv twiceListed where
  shape := rfl
  env := by decide +kernel
  clean := by decide +kernel

/-- The save of floe 0 counts from now, though it had begun: the second entry of the number marks the first. -/
theorem savedGt_exec_halt_twiceListed {t : State} (ht : exec (.halt haltWord) twiceListed = .next t) :
    (t.floe? 0).map Floe.savedGt = some 0 := by
  have hrun : (match exec (.halt haltWord) twiceListed with | .next u => (u.floe? 0).map Floe.savedGt | _ => none) = some 0 := by decide +kernel
  rwa [ht] at hrun

/-- What the statement asks for: the floe was being saved already, so its save counts from where it did. -/
theorem savedGt_after_haltEnv (g : Nat) :
    (haltEnv.after haltWord haltShape twiceListed { haltingFloe with savedStop := g }).savedGt = 1 := by
  rfl

/-- Refutes O52: HALT's last clause, unlike the one before it, does not ask for a sorted floe table. With floe 0 listed twice, its first entry
being saved since gt 1 and its second not, HALT begins the first entry's save again at the present gt. -/
theorem not_systemAndPageInstructions : ¬ Obligations.SystemAndPageInstructions := by
  unfold Obligations.SystemAndPageInstructions
  intro h
  have hexec : haltEnv.exec ≠ 0 := by decide
  obtain ⟨t, ht, -, -, -, -, -, -, hfloe⟩ := (h haltWord haltShape haltEnv twiceListed hexec).1 issues_halt_twiceListed rfl
  have hgot := savedGt_exec_halt_twiceListed ht
  rw [show (0 : Nat) = haltEnv.h from rfl, hfloe] at hgot
  exact absurd (hgot.symm.trans (congrArg some (savedGt_after_haltEnv _))) (by decide)

end Sys2Proof.Machine
end

section
/-! SUPPORT. Matrix contexts: what one reads after a change of one, the words of a tile given anew, and what a change of contexts alone leaves of the
rest (R242, R246). -/

namespace Sys2Proof.Machine

/-! ## Contexts read -/

theorem State.matrix_setMatrix (s : State) (c m : Nat) (x : Matrix) (k j : Nat) :
    (s.setMatrix c m x).matrix k j = if mxKey k j = mxKey c m then x else s.matrix k j :=
  Table.getD_setD s.mx Matrix.fresh x (mxKey c m) (mxKey k j)

@[simp] theorem State.matrix_setMatrix_same (s : State) (c m : Nat) (x : Matrix) : (s.setMatrix c m x).matrix c m = x := by
  rw [State.matrix_setMatrix, if_pos rfl]

/-- A context is read off the contexts alone. -/
theorem State.matrix_of_mx {s t : State} (h : t.mx = s.mx) (c m : Nat) : t.matrix c m = s.matrix c m := by
  rw [State.matrix, h, State.matrix]

/-! ## Words of a tile (R246) -/

theorem Table.find?_append {α : Type} (t u : Table α) (k : Nat) : Table.find? (t ++ u) k = (Table.find? t k).or (Table.find? u k) := by
  induction t with
  | nil => rfl
  | cons p t ih =>
    rw [List.cons_append, Table.find?, Table.find?]
    split
    · rfl
    · exact ih

/-- The words of a list from key `b` up, in canonical form. -/
def wordTable (b : Nat) (ws : List Word) : Table Word := (ws.mapIdx (fun i w => (b + i, w))).filter (fun p => p.2 != 0)

theorem wordTable_cons (b : Nat) (w : Word) (ws : List Word) :
    wordTable b (w :: ws) = (if w = 0 then [] else [(b, w)]) ++ wordTable (b + 1) ws := by
  have htail : ws.mapIdx (fun i v => (b + (i + 1), v)) = ws.mapIdx (fun i v => (b + 1 + i, v)) := by
    simp only [Nat.add_comm, Nat.add_left_comm]
  rw [wordTable, List.mapIdx_cons, htail, List.filter_cons]
  split
  · next hw => rw [if_neg (by simpa using hw)]; rfl
  · next hw => rw [if_pos (by simpa using hw)]; rfl

theorem find?_wordTable_below {b k : Nat} (h : k < b) (ws : List Word) : Table.find? (wordTable b ws) k = none := by
  induction ws generalizing b with
  | nil => rfl
  | cons w ws ih =>
    rw [wordTable_cons, Table.find?_append, ih (Nat.lt_succ_of_lt h)]
    split
    · rfl
    · simp [Table.find?, Nat.ne_of_gt h]

theorem getD_wordTable (b i : Nat) (ws : List Word) : Table.getD (wordTable b ws) 0 (b + i) = ws.getD i 0 := by
  induction ws generalizing b i with
  | nil => rfl
  | cons w ws ih =>
    rw [Table.getD, wordTable_cons, Table.find?_append]
    cases i with
    | zero =>
      rw [find?_wordTable_below (by omega)]
      split
      · next hw => rw [hw]; rfl
      · simp [Table.find?]
    | succ i =>
      have hnext : b + (i + 1) = b + 1 + i := by omega
      have hhead : Table.find? (if w = 0 then [] else [(b, w)] : Table Word) (b + (i + 1)) = none := by
        split <;> simp [Table.find?]
      rw [hhead, Option.none_or, hnext]
      exact ih (b + 1) i

theorem Matrix.setTile_tiles (x : Matrix) (t : Nat) (ws : List Word) : (x.setTile t ws).tiles =
    Table.keep x.tiles (fun k _ => decide (k < 4096 * t)) ++ wordTable (4096 * t) ws
      ++ Table.keep x.tiles (fun k _ => decide (4096 * (t + 1) ≤ k)) := rfl

/-- A tile given anew reads the words that it was given, and zero beyond them. -/
theorem Matrix.word_setTile (x : Matrix) (t : Nat) (ws : List Word) {i : Nat} (hi : i < 4096) : (x.setTile t ws).word t i = ws.getD i 0 := by
  have hlo : Table.find? (Table.keep x.tiles (fun k _ => decide (k < 4096 * t))) (4096 * t + i) = none :=
    Table.find?_keep_none fun _ => decide_eq_false (by omega)
  have hhi : Table.find? (Table.keep x.tiles (fun k _ => decide (4096 * (t + 1) ≤ k))) (4096 * t + i) = none :=
    Table.find?_keep_none fun _ => decide_eq_false (by omega)
  rw [Matrix.word, Table.getD, Matrix.setTile_tiles, Table.find?_append, Table.find?_append, hlo, hhi, Option.none_or, Option.or_none]
  exact getD_wordTable (4096 * t) i ws

/-- A higher tile given anew leaves the words of a lower one. -/
theorem Matrix.word_setTile_lower (x : Matrix) {t u : Nat} (ws : List Word) (h : t < u) {i : Nat} (hi : i < 4096) :
    (x.setTile u ws).word t i = x.word t i := by
  have hlo : Table.find? (Table.keep x.tiles (fun k _ => decide (k < 4096 * u))) (4096 * t + i) = Table.find? x.tiles (4096 * t + i) :=
    Table.find?_filter_keys (fun k => decide (k < 4096 * u)) x.tiles (decide_eq_true (by omega))
  have hhi : Table.find? (Table.keep x.tiles (fun k _ => decide (4096 * (u + 1) ≤ k))) (4096 * t + i) = none :=
    Table.find?_keep_none fun _ => decide_eq_false (by omega)
  rw [Matrix.word, Matrix.word, Table.getD, Matrix.setTile_tiles, Table.find?_append, Table.find?_append, hlo, hhi,
    find?_wordTable_below (by omega), Option.or_none, Option.or_none]
  rfl

/-- A tile whose words a function of their place gives reads them. -/
theorem Matrix.word_setTile_range (x : Matrix) (t : Nat) (g : Nat → Word) {i : Nat} (hi : i < 4096) :
    (x.setTile t ((List.range 4096).map g)).word t i = g i := by
  rw [Matrix.word_setTile x t _ hi]
  simp [List.getD, hi]

end Sys2Proof.Machine
end

section
/-! The issue of tile operations (R174, R184, R243, R247-R250, R263, R266-R273). -/

namespace Sys2Proof.Machine

/-! ## Images (R247, R248) -/

/-- An image lies aligned in the issuing floe's scratch on the image's core. -/
def ImageRef.Held (s : State) (e : Env) (r : ImageRef) : Prop :=
  r.off % r.align = 0 ∧ ∃ g, s.scratchOf r.core e.f.ctx e.f.inst = some g ∧ r.off + r.size ≤ g.bytes

theorem imageFault_of_held {s : State} {e : Env} {r : ImageRef} (h : r.Held s e) : imageFault s e r = none := by
  obtain ⟨halign, g, hg, hsize⟩ := h
  simp [imageFault, halign, hg, hsize]

/-- The trap of an image that is not aligned, or that no scratch holds. -/
def imageTrap (e : Env) (r : ImageRef) : TrapInfo :=
  { cause := if r.off % r.align ≠ 0 then .misalignedAccess else .pagePermission, lanes := e.exec, tinfo := BitVec.ofNat 64 r.off }

/-- An image that is not aligned, or that no scratch holds, faults at its offset. -/
theorem imageFault_of_not_held {s : State} {e : Env} {r : ImageRef}
    (h : r.off % r.align ≠ 0 ∨ ∀ g, s.scratchOf r.core e.f.ctx e.f.inst = some g → g.bytes < r.off + r.size) :
    imageFault s e r = some (imageTrap e r) := by
  by_cases halign : r.off % r.align ≠ 0
  · simp [imageFault, imageTrap, halign]
  · have hsize := h.resolve_left halign
    cases hg : s.scratchOf r.core e.f.ctx e.f.inst with
    | none => simp [imageFault, imageTrap, halign, hg]
    | some g => simp [imageFault, imageTrap, halign, hg, hsize g hg]

/-- The first image that faults is the one that counts. -/
theorem findSome?_imageFault {s : State} {e : Env} {r : ImageRef} {pre post : List ImageRef} {t : TrapInfo} (hpre : ∀ q ∈ pre, q.Held s e)
    (hr : imageFault s e r = some t) : (pre ++ r :: post).findSome? (imageFault s e) = some t := by
  have hnone : pre.findSome? (imageFault s e) = none := List.findSome?_eq_none_iff.2 fun q hq => imageFault_of_held (hpre q hq)
  rw [List.findSome?_append, hnone, Option.none_or, List.findSome?_cons, hr]

/-! ## The checks of an issue, in order -/

section
variable {o : TileOp} {imgs : List ImageRef} {p : Bool} {e : Env} {s : State} {m : Nat}

theorem issueTile_no_context (hx : e.exec ≠ 0)
    (h : s.heldMx e.h e.f.core = none ∨ ∃ m, s.heldMx e.h e.f.core = some m ∧ p = true ∧ (s.matrix e.f.core m).pair = false) :
    issueTile o imgs p e s = .trap { cause := .noMatrixContext, lanes := e.exec } s := by
  rw [issueTile, if_neg hx]
  obtain hnone | ⟨m, hm, hp, hpair⟩ := h
  · rw [hnone]
  · simp [hm, hp, hpair]

/-- With a context, and a pair where one is asked for, the images are looked at, and then tl. -/
theorem issueTile_held (hx : e.exec ≠ 0) (hm : s.heldMx e.h e.f.core = some m) (hp : p = true → (s.matrix e.f.core m).pair = true) :
    issueTile o imgs p e s = match (if o.dead then none else imgs.findSome? (imageFault s e)) with
      | some t => .trap t s
      | none =>
        if 1023 ≤ e.f.tl then .stall s
        else .done ((s.setMatrix e.f.core m
          { s.matrix e.f.core m with ops := (s.matrix e.f.core m).ops ++ [{ o with after := s.copyAfter e.h false }] }).modFloe e.h
            (fun f => { f with tl := f.tl + 1 })) := by
  have hgo : ¬ (p && !(s.matrix e.f.core m).pair) = true := by simpa using hp
  rw [issueTile, if_neg hx, hm]
  exact if_neg hgo

theorem images_found (h : o.dead = true ∨ ∀ r ∈ imgs, r.Held s e) : (if o.dead then none else imgs.findSome? (imageFault s e)) = none := by
  obtain hdead | hheld := h
  · exact if_pos hdead
  · rw [List.findSome?_eq_none_iff.2 fun r hr => imageFault_of_held (hheld r hr), ite_self]

end

/-! ## What the issue of a tile operation comes to -/

/-- An instruction whose body issues the tile operation `o`, with the images it names. -/
structure IssuesTile (i : Instr) (o : TileOp) (imgs : List ImageRef) (w : FWord) (sh : Shape) (e : Env) (s : State) : Prop where
  issues : Issues i w sh e s
  exec : e.exec ≠ 0
  run : ∃ body : FWord → Shape → Env → State → Res, Machine.exec i s = issueF i body s ∧ body w sh e s = issueTile o imgs (o.kind == .mmap) e s

section
variable {i : Instr} {o : TileOp} {imgs : List ImageRef} {w : FWord} {sh : Shape} {e : Env} {s : State} {m : Nat} {x : Ctx}
variable (hi : IssuesTile i o imgs w sh e s)
include hi

/-- The operation joins its stream, and its floe counts it. -/
theorem IssuesTile.joins (hm : s.heldMx e.h e.f.core = some m) (hp : o.kind = .mmap → (s.matrix e.f.core m).pair = true)
    (himgs : o.dead = true ∨ ∀ r ∈ imgs, r.Held s e) (htl : e.f.tl < 1023) :
    ∃ t, Machine.exec i s = .next t ∧ FloeAnd e.h (e.after w sh s { e.f with tl := e.f.tl + 1 }) s
      (s.setMatrix e.f.core m
        { s.matrix e.f.core m with ops := (s.matrix e.f.core m).ops ++ [{ o with after := s.copyAfter e.h false }] }) t := by
  obtain ⟨body, hrun, hbody⟩ := hi.run
  rw [issueTile_held hi.exec hm (fun h => hp (by simpa using h)), images_found himgs] at hbody
  have hdone := hbody.trans (if_neg (Nat.not_le.2 htl))
  refine ⟨_, hi.issues.exec_of_body hrun hdone, ?_⟩
  generalize hu : s.setMatrix e.f.core m _ = u
  have hfloes : u.floes = s.floes := by rw [← hu]; rfl
  have hfloe : u.floe? e.h = some e.f := (State.floe?_of_floes hfloes e.h).trans hi.issues.floe
  have hothers : OtherFloes e.h s u := fun k _ => State.floe?_of_floes hfloes k
  have htime : SameTime s (u.modFloe e.h (fun f => { f with tl := f.tl + 1 })) := by
    rw [State.modFloe_eq, ← hu]
    exact ⟨rfl, rfl, rfl, rfl⟩
  have ha := floeAnd_retire (latchesOf s e.f w sh) (hintYields w sh) (g := { e.f with tl := e.f.tl + 1 }) htime (by simp [hfloe])
    (otherFloes_modFloe hothers _)
  have hrest : { u.modFloe e.h (fun f => { f with tl := f.tl + 1 }) with floes := s.floes } = u := by rw [State.modFloe_eq, ← hfloes]
  rw [hrest] at ha
  exact ha

/-- With tl full it is not ready. -/
theorem IssuesTile.unready (hm : s.heldMx e.h e.f.core = some m) (hp : o.kind = .mmap → (s.matrix e.f.core m).pair = true)
    (himgs : o.dead = true ∨ ∀ r ∈ imgs, r.Held s e) (htl : 1023 ≤ e.f.tl) :
    ∃ t, Machine.exec i s = .next t ∧ FloeEffect e.h (e.unready e.f) s t := by
  obtain ⟨body, hrun, hbody⟩ := hi.run
  rw [issueTile_held hi.exec hm (fun h => hp (by simpa using h)), images_found himgs] at hbody
  exact hi.issues.unready hrun (hbody.trans (if_pos htl))

/-- Without a context, or MMAP without a pair, it traps. -/
theorem IssuesTile.traps_no_context (hc : s.ctx? e.f.ctx = some x) (hl : e.f.levelHandler = false) (hb : x.trapBase ≠ 0)
    (h : s.heldMx e.h e.f.core = none ∨ ∃ m, s.heldMx e.h e.f.core = some m ∧ o.kind = .mmap ∧ (s.matrix e.f.core m).pair = false) :
    ∃ t, Machine.exec i s = .next t ∧ TrapEffect e x.trapBase .noMatrixContext false e.exec 0 e.sl.pc Fx.none s t := by
  obtain ⟨body, hrun, hbody⟩ := hi.run
  rw [issueTile_no_context hi.exec (h.imp_right fun ⟨m, hm, hk, hpair⟩ => ⟨m, hm, by rw [hk]; rfl, hpair⟩)] at hbody
  exact hi.issues.traps hrun hbody hc hl hb fun hcause => Cause.noConfusion hcause

/-- The first image that does not lie aligned in its scratch traps. -/
theorem IssuesTile.traps_image {r : ImageRef} {pre post : List ImageRef} (hc : s.ctx? e.f.ctx = some x) (hl : e.f.levelHandler = false)
    (hb : x.trapBase ≠ 0) (hm : s.heldMx e.h e.f.core = some m) (hp : o.kind = .mmap → (s.matrix e.f.core m).pair = true) (hdead : o.dead = false)
    (himgs : imgs = pre ++ r :: post) (hpre : ∀ q ∈ pre, q.Held s e)
    (hr : r.off % r.align ≠ 0 ∨ ∀ g, s.scratchOf r.core e.f.ctx e.f.inst = some g → g.bytes < r.off + r.size) :
    ∃ t, Machine.exec i s = .next t ∧ TrapEffect e x.trapBase (if r.off % r.align ≠ 0 then .misalignedAccess else .pagePermission) false e.exec
      (BitVec.ofNat 64 r.off) e.sl.pc Fx.none s t := by
  obtain ⟨body, hrun, hbody⟩ := hi.run
  have hfound := findSome?_imageFault (post := post) hpre (imageFault_of_not_held hr)
  rw [issueTile_held hi.exec hm (fun h => hp (by simpa using h)), hdead, if_neg Bool.false_ne_true, himgs, hfound] at hbody
  refine hi.issues.traps hrun hbody hc hl hb ?_
  show (if r.off % r.align ≠ 0 then Cause.misalignedAccess else .pagePermission) ≠ .pageNotPresent
  split <;> exact fun hcause => Cause.noConfusion hcause

end

/-! ## The statement -/

/-- Settles O39: each tile instruction is the issue of its operation with its images, whose checks come in order: the context, the pair, the images,
tl. -/
theorem tileOperationsIssue : Obligations.TileOperationsIssue := by
  intro i w sh e s o imgs h hx hcase
  have hi : IssuesTile i o imgs w sh e s := by
    obtain ⟨rfl, rfl, rfl⟩ | ⟨rfl, rfl, rfl⟩ | ⟨rfl, rfl, rfl⟩ | ⟨⟨rfl, rfl⟩ | ⟨rfl, rfl⟩, rfl⟩
      | ⟨⟨rfl, hk⟩ | ⟨rfl, hk⟩, ho, rfl⟩ | ⟨rfl, ho, rfl⟩ | ⟨rfl, rows, rfl, rfl, rfl⟩ := hcase
    · exact ⟨h, hx, mzeroBody, rfl, rfl⟩
    · exact ⟨h, hx, tpsetBody, rfl, rfl⟩
    · exact ⟨h, hx, tpscanBody, rfl, rfl⟩
    · exact ⟨h, hx, accBody .mld, rfl, rfl⟩
    · exact ⟨h, hx, accBody .mst, rfl, rfl⟩
    · rw [hk] at ho
      subst ho
      exact ⟨h, hx, mulBody .mma, rfl, rfl⟩
    · rw [hk] at ho
      subst ho
      exact ⟨h, hx, mulBody .mmap, rfl, rfl⟩
    · subst ho
      exact ⟨h, hx, mulBody .mmax, rfl, rfl⟩
    · exact ⟨h, hx, mmagBody, rfl, rfl⟩
  exact ⟨fun m hm hp himgs => ⟨hi.joins hm hp himgs, hi.unready hm hp himgs⟩, fun x hc hl hb => hi.traps_no_context hc hl hb,
    fun x m r pre post hc hl hb hm hp hdead himgs => hi.traps_image hc hl hb hm hp hdead himgs⟩

end Sys2Proof.Machine
end

section
/-! Matrix contexts taken, granted and drained (R242, R243, R264). -/

namespace Sys2Proof.Machine

/-! ## A context taken (R242) -/

/-- To take a context changes the contexts alone. -/
theorem State.acquireMx_mx (s : State) (h core m : Nat) (pair : Bool) : s.acquireMx h core m pair = { s with mx := (s.acquireMx h core m pair).mx } := by
  unfold State.acquireMx
  split <;> rfl

/-! ## MCTX (R264) -/

section
variable {w : FWord} {sh : Shape} {e : Env} {s : State}

theorem mctxBody_illegal (hx : e.exec ≠ 0) (h : (s.heldMx e.h e.f.core).isSome = true ∨ w.m.getLsbD 0 = true ∧ e.f.core % 2 = 1) :
    mctxBody w sh e s = .trap { cause := .illegalOperands, lanes := e.exec } s := by
  simp only [mctxBody]
  rw [if_neg hx, if_pos h]

/-- A floe that holds no context may take one: for a pair from an even core, with its scratch on the partner too. -/
structure MayTakeMx (w : FWord) (e : Env) (s : State) : Prop where
  exec : e.exec ≠ 0
  none : s.heldMx e.h e.f.core = none
  even : ¬ (w.m.getLsbD 0 = true ∧ e.f.core % 2 = 1)
  scratch : w.m.getLsbD 0 = true → (s.scratchOf (corePartner e.f.core) e.f.ctx e.f.inst).isSome = true

theorem MayTakeMx.legal (h : MayTakeMx w e s) : ¬ ((s.heldMx e.h e.f.core).isSome = true ∨ w.m.getLsbD 0 = true ∧ e.f.core % 2 = 1) := by
  rw [h.none]
  exact fun hbad => hbad.elim Bool.false_ne_true h.even

theorem MayTakeMx.reached (h : MayTakeMx w e s) :
    ¬ (w.m.getLsbD 0 = true ∧ (s.scratchOf (corePartner e.f.core) e.f.ctx e.f.inst).isNone = true) := by
  rintro ⟨hpair, habsent⟩
  rw [Option.isNone_iff_eq_none] at habsent
  simpa [habsent] using h.scratch hpair

theorem mctxBody_takes (h : MayTakeMx w e s) {m : Nat} (hfree : freeMx s e.f.core (w.m.getLsbD 0) = some m) :
    mctxBody w sh e s = .done (s.acquireMx e.h e.f.core m (w.m.getLsbD 0)) := by
  simp only [mctxBody]
  rw [if_neg h.exec, if_neg h.legal, if_neg h.reached, hfree]

theorem mctxBody_waits (h : MayTakeMx w e s) (hfree : freeMx s e.f.core (w.m.getLsbD 0) = none) : mctxBody w sh e s
    = .done ((s.modCore e.f.core (fun c => { c with mxWait := c.mxWait ++ [e.h] })).waitOn e.h (.matrix (w.m.getLsbD 0))) := by
  simp only [mctxBody]
  rw [if_neg h.exec, if_neg h.legal, if_neg h.reached, hfree]

/-- MCTX takes the lowest free context. -/
theorem mctx_takes (h : Issues (.mctx w) w sh e s) (hmay : MayTakeMx w e s) {m : Nat} (hfree : freeMx s e.f.core (w.m.getLsbD 0) = some m) :
    ∃ t, exec (.mctx w) s = .next t ∧ FloeAnd e.h (e.after w sh s e.f) s (s.acquireMx e.h e.f.core m (w.m.getLsbD 0)) t := by
  have hrun := h.exec_of_body rfl (mctxBody_takes (sh := sh) hmay hfree)
  have hmx := State.acquireMx_mx s e.h e.f.core m (w.m.getLsbD 0)
  generalize s.acquireMx e.h e.f.core m (w.m.getLsbD 0) = u at hrun hmx ⊢
  have hfloes : u.floes = s.floes := by rw [hmx]
  have ha := floeAnd_retire (latchesOf s e.f w sh) (hintYields w sh) (s := s) (u := u) (by rw [hmx]; exact ⟨rfl, rfl, rfl, rfl⟩)
    ((State.floe?_of_floes hfloes e.h).trans h.floe) fun k _ => State.floe?_of_floes hfloes k
  rw [← hfloes] at ha
  exact ⟨_, hrun, ha⟩

/-- With none free, its floe waits behind those that wait already. -/
theorem mctx_waits (h : Issues (.mctx w) w sh e s) (hmay : MayTakeMx w e s) (hfree : freeMx s e.f.core (w.m.getLsbD 0) = none) :
    ∃ t, exec (.mctx w) s = .next t ∧ FloeAnd e.h (e.after w sh s (e.f.held (.matrix (w.m.getLsbD 0)) s.gt)) s
      (s.modCore e.f.core (fun c => { c with mxWait := c.mxWait ++ [e.h] })) t := by
  have hrun := h.exec_of_body rfl (mctxBody_waits (sh := sh) hmay hfree)
  have hcores : CoresOnly s (s.modCore e.f.core (fun c => { c with mxWait := c.mxWait ++ [e.h] })) := rfl
  generalize s.modCore e.f.core (fun c => { c with mxWait := c.mxWait ++ [e.h] }) = u at hrun hcores ⊢
  have hfloe : u.floe? e.h = some e.f := (hcores.floe? e.h).trans h.floe
  have htime : SameTime s (u.waitOn e.h (.matrix (w.m.getLsbD 0))) := by
    rw [State.waitOn, State.modFloe_eq, hcores]
    exact ⟨rfl, rfl, rfl, rfl⟩
  have ha := floeAnd_retire (latchesOf s e.f w sh) (hintYields w sh) htime (State.waitOn_floe hfloe _)
    (otherFloes_modFloe (fun k _ => hcores.floe? k) _)
  have hrest : { u.waitOn e.h (.matrix (w.m.getLsbD 0)) with floes := s.floes } = u := by rw [State.waitOn, State.modFloe_eq, ← hcores.floes]
  rw [hrest, hcores.sameTime.gt] at ha
  exact ⟨_, hrun, ha⟩

/-- A second MCTX, or a pair from an odd core, traps. -/
theorem mctx_traps (h : Issues (.mctx w) w sh e s) (hx : e.exec ≠ 0)
    (hbad : (s.heldMx e.h e.f.core).isSome = true ∨ w.m.getLsbD 0 = true ∧ e.f.core % 2 = 1) {x : Ctx} (hc : s.ctx? e.f.ctx = some x)
    (hl : e.f.levelHandler = false) (hb : x.trapBase ≠ 0) :
    ∃ t, exec (.mctx w) s = .next t ∧ TrapEffect e x.trapBase .illegalOperands false e.exec 0 e.sl.pc Fx.none s t :=
  h.traps rfl (mctxBody_illegal hx hbad) hc hl hb fun hcause => Cause.noConfusion hcause

end

/-! ## MATRIX_CONTEXT_GRANT (R243) -/

/-- The floe that has waited longest for what is free takes it and goes on. -/
theorem matrixContextGrant_grants {s : State} {core h m : Nat} {rest : List Nat} {f : Floe} {pair : Bool} (hwait : (s.core core).mxWait = h :: rest)
    (hf : s.floe? h = some f) (hst : f.state = .waiting) (hw : f.wait = some (.matrix pair)) (hfree : freeMx s core pair = some m) :
    ∃ t, exec (.matrixContextGrant core) s = .next t ∧ FloeAnd h (f.resume (s.mck core)) s
      ((s.acquireMx h core m pair).modCore core (fun c => { c with mxWait := rest })) t := by
  have hrun : exec (.matrixContextGrant core) s
      = .next (((s.acquireMx h core m pair).modCore core (fun c => { c with mxWait := rest })).modFloe h (fun g => g.resume (s.mck core))) := by
    show execMatrixContextGrant core s = _
    simp only [execMatrixContextGrant, hwait, hf, hw, hfree]
    exact if_neg (not_not_intro hst)
  generalize hu : (s.acquireMx h core m pair).modCore core (fun c => { c with mxWait := rest }) = u at hrun ⊢
  have hfloes : u.floes = s.floes := by rw [← hu, State.modCore_floes, State.acquireMx_mx]
  refine ⟨_, hrun, ?_, ?_, ?_⟩
  · rw [State.floe?_modFloe_same, State.floe?_of_floes hfloes, hf, Option.map_some]
  · exact otherFloes_modFloe (fun k _ => State.floe?_of_floes hfloes k) _
  · rw [State.modFloe_eq, ← hfloes]

/-! ## MATRIX_CONTEXT_DRAINED (R242) -/

/-- A DRAINING context with no operation left becomes FREE, with its partner where it has one. -/
theorem matrixContextDrained_frees {s : State} {core m : Nat} (hst : (s.matrix core m).st = .draining) (hops : (s.matrix core m).ops = [])
    (hholder : (s.matrix core m).holder.isSome = true) :
    ∃ t, exec (.matrixContextDrained core m) s = .next t ∧ t.matrix core m = Matrix.fresh
      ∧ ((s.matrix core m).pair = true → t.matrix (corePartner core) m = Matrix.fresh) ∧ { t with mx := s.mx } = s := by
  have hrun : exec (.matrixContextDrained core m) s = .next (if (s.matrix core m).pair then
      (s.setMatrix core m Matrix.fresh).setMatrix (corePartner core) m Matrix.fresh else s.setMatrix core m Matrix.fresh) :=
    if_pos ⟨hst, by rw [hops]; rfl, hholder⟩
  refine ⟨_, hrun, ?_⟩
  by_cases hpair : (s.matrix core m).pair = true
  · rw [if_pos hpair]
    refine ⟨?_, fun _ => State.matrix_setMatrix_same .., rfl⟩
    rw [State.matrix_setMatrix, State.matrix_setMatrix_same, ite_self]
  · rw [if_neg hpair]
    exact ⟨State.matrix_setMatrix_same .., fun h => absurd h hpair, rfl⟩

end Sys2Proof.Machine
end

section
/-! SUPPORT. What performing a tile operation leaves alone: everything but matrix contexts, whose operations stay, and for MST firn and the operand
latches (R108, R111, R249-R253). -/

namespace Sys2Proof.Machine

/-! ## Contexts alone -/

/-- From `s` to `t` nothing differs but matrix contexts, and there the operations issued stay. -/
structure MatrixOnly (s t : State) : Prop where
  rest : t = { s with mx := t.mx }
  ops : ∀ c m, (t.matrix c m).ops = (s.matrix c m).ops

namespace MatrixOnly

theorem refl (s : State) : MatrixOnly s s := ⟨rfl, fun _ _ => rfl⟩

theorem trans {s t u : State} (h : MatrixOnly s t) (k : MatrixOnly t u) : MatrixOnly s u where
  rest := by rw [k.rest, h.rest]
  ops := fun c m => (k.ops c m).trans (h.ops c m)

theorem setMatrix {s : State} {c m : Nat} {x : Matrix} (hx : x.ops = (s.matrix c m).ops) : MatrixOnly s (s.setMatrix c m x) where
  rest := rfl
  ops := fun k j => by
    rw [State.matrix_setMatrix]
    split
    · next hkey => rw [hx, State.matrix, State.matrix, hkey]
    · rfl

theorem firn {s t : State} (h : MatrixOnly s t) : t.firn = s.firn := by rw [h.rest]
theorem floes {s t : State} (h : MatrixOnly s t) : t.floes = s.floes := by rw [h.rest]

end MatrixOnly

/-! ## Contexts, firn and latches alone -/

/-- A floe with no operand latched. -/
def Floe.unlatched (f : Floe) : Floe := { f with latches := [] }

theorem Floe.eq_of_unlatched {f g : Floe} (h : g.unlatched = f.unlatched) : g = { f with latches := g.latches } :=
  (congrArg (fun x : Floe => { x with latches := g.latches }) h :)

/-- From `s` to `t` nothing differs but firn, floes' operand latches and matrix contexts, and there the operations issued stay. -/
structure EngineOnly (s t : State) : Prop where
  rest : t = { s with floes := t.floes, mx := t.mx, firn := t.firn }
  ops : ∀ c m, (t.matrix c m).ops = (s.matrix c m).ops
  floes : ∀ k, (t.floe? k).map Floe.unlatched = (s.floe? k).map Floe.unlatched

theorem State.floe?_unlatchFirn (s : State) (core off n k : Nat) : (s.unlatchFirn core off n).floe? k = (s.floe? k).map (fun f =>
    if f.core = core ∧ f.resident = true ∧ f.latches ≠ [] then f.unlatch (regsAt f off n) else f) := by
  rw [State.floe?, State.unlatchFirn, Table.find?_map]
  rfl

namespace EngineOnly

theorem refl (s : State) : EngineOnly s s := ⟨rfl, fun _ _ => rfl, fun _ => rfl⟩

theorem trans {s t u : State} (h : EngineOnly s t) (k : EngineOnly t u) : EngineOnly s u where
  rest := by rw [k.rest, h.rest]
  ops := fun c m => (k.ops c m).trans (h.ops c m)
  floes := fun i => (k.floes i).trans (h.floes i)

theorem of_matrixOnly {s t : State} (h : MatrixOnly s t) : EngineOnly s t where
  rest := by rw [h.rest]
  ops := h.ops
  floes := fun k => by rw [State.floe?_of_floes h.floes]

theorem foldl {α : Type} {g : State → α → State} (h : ∀ s a, EngineOnly s (g s a)) (l : List α) (s : State) : EngineOnly s (l.foldl g s) :=
  List.foldlRecOn l g (motive := EngineOnly s) (refl s) fun t ht a _ => ht.trans (h t a)

theorem firnEngine (s : State) (core off v : Nat) : EngineOnly s (s.firnEngine core off v) where
  rest := rfl
  ops := fun _ _ => rfl
  floes := fun k => by
    show ((s.unlatchFirn core off 1).floe? k).map Floe.unlatched = _
    rw [State.floe?_unlatchFirn, Option.map_map]
    refine congrArg (fun g => (s.floe? k).map g) (funext fun f => ?_)
    rw [Function.comp_apply]
    split <;> rfl

/-- A floe is there after as before, but for its latches. -/
theorem floe? {s t : State} (h : EngineOnly s t) {k : Nat} {f : Floe} (hf : s.floe? k = some f) : ∃ l, t.floe? k = some { f with latches := l } := by
  have hk := h.floes k
  rw [hf, Option.map_some, Option.map_eq_some_iff] at hk
  obtain ⟨g, hg, hgf⟩ := hk
  exact ⟨g.latches, hg.trans (congrArg some (Floe.eq_of_unlatched hgf))⟩

end EngineOnly

/-! ## Effects of tile operations -/

@[simp] theorem multiply_ops (f : MulFmt) (o : Operands) (y : Nat) (mode : Rnd) (x : Matrix) (d : Nat) : (multiply f o y mode x d).1.ops = x.ops := by
  simp only [multiply]
  split <;> rfl

@[simp] theorem mldTile_ops (s : State) (leader core : Nat) (r : Region) (o : TileOp) (x : Matrix) : (mldTile s leader core r o x).ops = x.ops := by
  simp only [mldTile]
  split <;> rfl

theorem engineOnly_mstPut (core : Nat) (r : Region) (o : TileOp) (x : Matrix) (i : Nat) (s : State) : EngineOnly s (mstPut core r o x i s) :=
  .foldl (fun t _ => .firnEngine t core _ _) _ s

theorem engineOnly_mstTile (s : State) (leader core : Nat) (r : Region) (o : TileOp) (x : Matrix) : EngineOnly s (mstTile s leader core r o x).1 := by
  refine List.foldlRecOn (List.range 4096) _ (motive := fun p : State × Fx => EngineOnly s p.1) (.refl s) fun p hp i _ => ?_
  show EngineOnly s (if _ then p.1 else mstPut core r o x i p.1)
  split
  · exact hp
  · exact hp.trans (engineOnly_mstPut core r o x i p.1)

theorem matrixOnly_tilePlain (s : State) (o : TileOp) (m core : Nat) : MatrixOnly s (tilePlain s o m core) := by
  unfold tilePlain
  split
  · split <;> exact .setMatrix rfl
  · exact .setMatrix rfl
  · exact .refl s

/-- A tile's words given anew, then RCFALLBACK set where RECOMB.SAFE fell back: no operation is touched. -/
theorem matrixOnly_multiplied {s : State} {core m leader : Nat} {x : Matrix} (hx : x.ops = (s.matrix core m).ops) (back : Bool) :
    MatrixOnly s (if back then (s.setMatrix core m x).setMatrix leader m { (s.setMatrix core m x).matrix leader m with rcf := true }
      else s.setMatrix core m x) := by
  split
  · exact (MatrixOnly.setMatrix hx).trans (.setMatrix rfl)
  · exact .setMatrix hx

theorem matrixOnly_tileEffect {o : TileOp} (hk : o.kind ≠ .mst) (s : State) (leader m core : Nat) :
    MatrixOnly s (tileEffect s o leader m core).1 := by
  simp only [tileEffect]
  split
  · split
    · exact .setMatrix (mldTile_ops ..)
    · next hmst => exact absurd hmst hk
    · exact matrixOnly_multiplied (multiply_ops ..) _
    · exact matrixOnly_multiplied (multiply_ops ..) _
    · exact matrixOnly_multiplied (multiply_ops ..) _
    · exact matrixOnly_multiplied (multiply_ops ..) _
    · exact .setMatrix rfl
    · exact .refl s
  · exact .refl s

theorem engineOnly_tileEffect (s : State) (o : TileOp) (leader m core : Nat) : EngineOnly s (tileEffect s o leader m core).1 := by
  by_cases hk : o.kind = .mst
  · simp only [tileEffect, hk]
    split
    · exact engineOnly_mstTile ..
    · exact .refl s
  · exact .of_matrixOnly (matrixOnly_tileEffect hk s leader m core)

/-! ## A whole operation (R249-R253) -/

/-- What relates a state to the effect on each core's context relates it to the effect of the operation. -/
theorem performTile_relates {R : State → State → Prop} {core m : Nat} {o : TileOp} (hrefl : ∀ s, R s s) (htrans : ∀ {s t u}, R s t → R t u → R s u)
    (hplain : ∀ s c, R s (tilePlain s o m c)) (heffect : ∀ s c, R s (tileEffect s o core m c).1) (s : State) : R s (performTile s core m o).1 := by
  simp only [performTile]
  split_ifs
  · exact hrefl s
  · exact List.foldlRecOn _ _ (motive := fun p : State × Fx => R s p.1) (hrefl s) fun p hp c _ => htrans hp (hplain p.1 c)
  · exact List.foldlRecOn _ _ (motive := fun p : State × Fx => R s p.1) (hrefl s) fun p hp c _ => htrans hp (heffect p.1 c)

theorem engineOnly_performTile (s : State) (core m : Nat) (o : TileOp) : EngineOnly s (performTile s core m o).1 :=
  performTile_relates .refl .trans (fun s c => .of_matrixOnly (matrixOnly_tilePlain s o m c)) (fun s c => engineOnly_tileEffect s o core m c) s

theorem matrixOnly_performTile {o : TileOp} (hk : o.kind ≠ .mst) (s : State) (core m : Nat) : MatrixOnly s (performTile s core m o).1 :=
  performTile_relates .refl .trans (fun s c => matrixOnly_tilePlain s o m c) (fun s c => matrixOnly_tileEffect hk s core m c) s

/-- Under a false predicate or an invalid operand nothing is done (R247, R253). -/
theorem performTile_skips {s : State} {core m : Nat} {o : TileOp}
    (h : o.dead = true ∨ ∃ p, o.pred = some p ∧ (s.matrix core m).preds.getLsbD p = false) : performTile s core m o = (s, Fx.none) := by
  simp only [performTile]
  refine if_pos ?_
  obtain hdead | ⟨p, hp, hfalse⟩ := h
  · rw [hdead, Bool.true_or]
  · simp [hp, hfalse]

/-- An operation that its predicate and operands let run, on a context that is no pair. -/
structure RunsAlone (s : State) (core m : Nat) (o : TileOp) : Prop where
  live : o.dead = false
  pred : ∀ p, o.pred = some p → (s.matrix core m).preds.getLsbD p = true
  alone : (s.matrix core m).pair = false

section
variable {s : State} {core m : Nat} {o : TileOp} (h : RunsAlone s core m o)
include h

theorem RunsAlone.tileCores : tileCores o (s.matrix core m) core = [core] := by
  rw [Machine.tileCores, h.alone, Bool.false_and, if_neg Bool.false_ne_true]

/-- Its effect is that on its own core's context. -/
theorem RunsAlone.performTile_plain (hk : o.kind = .mzero ∨ ∃ b, o.kind = .tpset b) : (performTile s core m o).1 = tilePlain s o m core := by
  cases hp : o.pred with
  | none => obtain hk | ⟨b, hk⟩ := hk <;> simp [performTile, h.live, h.tileCores, hp, hk]
  | some p => obtain hk | ⟨b, hk⟩ := hk <;> simp [performTile, h.live, h.tileCores, hp, h.pred p hp, hk]

theorem RunsAlone.performTile_effect (hk : o.kind = .mld ∨ o.kind = .mma ∨ o.kind = .mmax ∨ o.kind = .mmag) :
    (performTile s core m o).1 = (tileEffect s o core m core).1 := by
  cases hp : o.pred with
  | none => obtain hk | hk | hk | hk := hk <;> simp [performTile, h.live, h.tileCores, hp, hk]
  | some p => obtain hk | hk | hk | hk := hk <;> simp [performTile, h.live, h.tileCores, hp, h.pred p hp, hk]

end

end Sys2Proof.Machine
end

section
/-! TILE_OPERATION_PERFORM: the words and predicates that an operation leaves, what the step takes off and counts, and the proof of O40 (R247, R249,
R250, R252-R255, R266, R270-R272). -/

namespace Sys2Proof.Machine

/-! ## Words and predicates (R255, R266, R270-R272) -/

section
variable {s : State} {core m : Nat} {o : TileOp} {i : Nat}

/-- MZERO's tile reads zero, that of the pair's second tile aside (R271). -/
theorem word_tilePlain_mzero (hk : o.kind = .mzero) (hi : i < 4096) : ((tilePlain s o m core).matrix core m).word o.d i = 0 := by
  have hzero : ((s.matrix core m).setTile o.d []).word o.d i = 0 := by rw [Matrix.word_setTile _ _ _ hi]; rfl
  simp only [tilePlain, hk]
  rw [State.matrix_setMatrix_same]
  split
  · rw [Matrix.word_setTile_lower _ _ (Nat.lt_succ_self o.d) hi, hzero]
  · exact hzero

/-- TPSET of all predicates (R272). -/
theorem preds_tilePlain_mask (hk : o.kind = .tpset true) : ((tilePlain s o m core).matrix core m).preds = BitVec.ofNat 16 o.val.toNat := by
  simp [tilePlain, hk]

theorem getLsbD_one_shiftLeft {b k : Nat} (hb : b < 16) : ((1#16) <<< k).getLsbD b = decide (b = k) := by
  rw [BitVec.getLsbD_shiftLeft, BitVec.getLsbD_one]
  simp only [hb, Nat.zero_lt_succ, decide_true, Bool.true_and, ← decide_not, ← Bool.decide_and, decide_eq_decide]
  omega

/-- A bit written in a mask, the others kept. -/
theorem getLsbD_bit_written (p : BitVec 16) (v : Word) (k : Nat) {b : Nat} (hb : b < 16) :
    ((p &&& ~~~((1#16) <<< k)) ||| (if v = 0 then 0 else (1#16) <<< k)).getLsbD b = if b = k then decide (v ≠ 0) else p.getLsbD b := by
  have hnew : (if v = 0 then 0 else (1#16) <<< k : BitVec 16).getLsbD b = (decide (v ≠ 0) && decide (b = k)) := by
    split
    · next hv => simp [hv]
    · next hv => rw [getLsbD_one_shiftLeft hb, decide_eq_true hv, Bool.true_and]
  rw [BitVec.getLsbD_or, BitVec.getLsbD_and, BitVec.getLsbD_not, getLsbD_one_shiftLeft hb, hnew]
  by_cases hbit : b = k <;> simp [hbit, hb]

/-- TPSET of one (R272). -/
theorem preds_tilePlain_one (hk : o.kind = .tpset false) {b : Nat} (hb : b < 16) :
    ((tilePlain s o m core).matrix core m).preds.getLsbD b = if b = o.b then decide (o.val ≠ 0) else (s.matrix core m).preds.getLsbD b := by
  simp only [tilePlain, hk]
  rw [State.matrix_setMatrix_same]
  exact getLsbD_bit_written (s.matrix core m).preds o.val o.b hb

/-- A word of MLD's tile is the image's element in its place (R270). -/
theorem word_mldTile {r : Region} {x : Matrix} (hbytes : accBytes o.m ≠ 8) (hearly : o.early = []) (hi : i < 4096) :
    (mldTile s core core r o x).word o.d i = BitVec.ofNat 32 (mldVal o.m (accElem s core r o i)) := by
  simp only [mldTile]
  rw [if_neg hbytes, Matrix.word_setTile_range _ _ _ hi, hearly]
  rfl

theorem tileEffect_mld {r : Region} (hr : s.scratchOf core o.ctx o.inst = some r) (hk : o.kind = .mld) :
    (tileEffect s o core m core).1 = s.setMatrix core m (mldTile s core core r o (s.matrix core m)) := by
  simp only [tileEffect, hr, hk]

/-- RECOMB.SAFE alone falls back (R262). -/
theorem multiply_no_fallback (f : MulFmt) (p : Operands) (mode : Rnd) (x : Matrix) (d : Nat) : (multiply f p 0 mode x d).2.2 = false := rfl

/-- A word of a classical multiply into FP32 is the element (R255). -/
theorem word_multiply_classical {f : MulFmt} {p : Operands} {mode : Rnd} {x : Matrix} {d : Nat} (hacc : f.acc = .fp32) (hi : i < 4096) :
    (multiply f p 0 mode x d).1.word d i = BitVec.ofNat 32 (classical f p mode (x.word d i).toNat (i / 64) (i % 64)).1 := by
  have hne : ¬ Fmt.fp32 = .fp64 := by decide
  simp only [multiply, hacc, if_neg hne, List.map_map]
  rw [Matrix.word_setTile_range _ _ _ hi]
  rfl

theorem multiply_kind_ne_mst (hk : o.kind = .mma ∨ o.kind = .mmax ∨ o.kind = .mmag) : o.kind ≠ .mst := by
  obtain hk | hk | hk := hk <;> simp [hk]

/-- A classical multiply changes its own context's tile alone. -/
theorem tileEffect_multiply {r : Region} (hr : s.scratchOf core o.ctx o.inst = some r) (hk : o.kind = .mma ∨ o.kind = .mmax ∨ o.kind = .mmag)
    (hy : o.y = 0) : (tileEffect s o core m core).1 = s.setMatrix core m
      (multiply (mulFmt o.kind o.m) (operandsOf s (mulFmt o.kind o.m) o core r core r) 0 (if 8 ≤ o.m then .sat else .rn) (s.matrix core m) o.d).1 := by
  obtain hk | hk | hk := hk <;> simp only [tileEffect, hr, hk, hy] <;> rw [multiply_no_fallback, if_neg Bool.false_ne_true]

end

/-! ## What the step changes (R249, R250, R252) -/

/-- An operation taken off its stream, at its context's turn. -/
def tileTaken (core m : Nat) (o : TileOp) (u : State) : State :=
  (u.setMatrix core m { u.matrix core m with ops := (u.matrix core m).ops.erase o }).modCore core (fun c => { c with mxLast := m == 1 })

/-- The floe that issued it, where it still runs, has its flags and its unit of tl. -/
def tileCounted (o : TileOp) (x : Fx) (u : State) : State :=
  match u.floe? o.floe with
  | some f => if f.tag = o.tag then u.modFloe o.floe (fun g => { g with tl := g.tl - 1, fpflags := g.fpflags ||| x.bits }) else u
  | none => u

theorem matrix_tileTaken (core m : Nat) (o : TileOp) (u : State) :
    (tileTaken core m o u).matrix core m = { u.matrix core m with ops := (u.matrix core m).ops.erase o } :=
  (State.matrix_of_mx (State.modCore_mx ..) core m).trans (State.matrix_setMatrix_same ..)

theorem tileTaken_eq (core m : Nat) (o : TileOp) (u : State) :
    tileTaken core m o u = { u with mx := (tileTaken core m o u).mx, cores := (tileTaken core m o u).cores } := rfl

theorem core_tileTaken (core m : Nat) (o : TileOp) (u : State) : (tileTaken core m o u).core core = { u.core core with mxLast := m == 1 } :=
  State.core_modCore_same ..

theorem core_tileTaken_ne {core k : Nat} (m : Nat) (o : TileOp) (u : State) (hk : k ≠ core) : (tileTaken core m o u).core k = u.core k :=
  State.core_modCore_ne _ _ hk

theorem tileCounted_eq (o : TileOp) (x : Fx) (u : State) : tileCounted o x u = { u with floes := (tileCounted o x u).floes } := by
  unfold tileCounted
  split
  · split
    · rw [State.modFloe_eq]
    · rfl
  · rfl

theorem tileCounted_mx (o : TileOp) (x : Fx) (u : State) : (tileCounted o x u).mx = u.mx := by rw [tileCounted_eq]
theorem tileCounted_cores (o : TileOp) (x : Fx) (u : State) : (tileCounted o x u).cores = u.cores := by rw [tileCounted_eq]

theorem floe?_tileCounted {o : TileOp} {u : State} {f : Floe} (x : Fx) (hf : u.floe? o.floe = some f) (ht : f.tag = o.tag) :
    (tileCounted o x u).floe? o.floe = some { f with tl := f.tl - 1, fpflags := f.fpflags ||| x.bits } := by
  simp only [tileCounted, hf]
  rw [if_pos ht, State.floe?_modFloe_same, hf, Option.map_some]

theorem floe?_tileCounted_ne {o : TileOp} (x : Fx) (u : State) {k : Nat} (hk : k ≠ o.floe) : (tileCounted o x u).floe? k = u.floe? k := by
  unfold tileCounted
  split
  · split
    · exact State.floe?_modFloe_ne _ _ hk
    · rfl
  · rfl

/-! ## Forgetting what was read early (R249) -/

/-- The state that an operation is performed in. -/
def tileStart (s : State) (core m : Nat) (o : TileOp) : State := if o.kind = .mst then s.mxForget core m else s

theorem tileStart_eq (s : State) (core m : Nat) (o : TileOp) : tileStart s core m o = { s with mx := (tileStart s core m o).mx } := by
  unfold tileStart
  split <;> rfl

theorem tileStart_of_ne {s : State} {core m : Nat} {o : TileOp} (hk : o.kind ≠ .mst) : tileStart s core m o = s := if_neg hk

theorem matrix_tileStart (s : State) (core m : Nat) (o : TileOp) :
    ((tileStart s core m o).matrix core m).tiles = (s.matrix core m).tiles ∧ ((tileStart s core m o).matrix core m).preds = (s.matrix core m).preds := by
  unfold tileStart
  split
  · rw [State.mxForget, State.matrix_setMatrix_same]
    exact ⟨rfl, rfl⟩
  · exact ⟨rfl, rfl⟩

/-! ## TILE_OPERATION_PERFORM -/

section
variable {s : State} {core m st : Nat} {o : TileOp}

theorem tileOperationPerform_idle (h : mxTurn s core m = false ∨ ∀ o ∈ mxReady s core m, o.stream ≠ st) :
    exec (.tileOperationPerform core m st) s = .next s := by
  have hnone : (if mxTurn s core m then (mxReady s core m).find? (fun o => o.stream == st) else none) = none := by
    obtain hturn | hstream := h
    · rw [hturn, if_neg Bool.false_ne_true]
    · rw [List.find?_eq_none.2 fun o ho => by simpa using hstream o ho, ite_self]
  show execTileOperationPerform core m st s = _
  rw [execTileOperationPerform, hnone]

/-- The state after an operation was performed. -/
def tilePerformed (s : State) (core m : Nat) (o : TileOp) : State :=
  tileCounted o (performTile (tileStart s core m o) core m o).2 (tileTaken core m o (performTile (tileStart s core m o) core m o).1)

theorem tileOperationPerform_performs (hturn : mxTurn s core m = true) (ho : (mxReady s core m).find? (fun q => q.stream == st) = some o) :
    exec (.tileOperationPerform core m st) s = .next (tilePerformed s core m o) := by
  have hsome : (if mxTurn s core m then (mxReady s core m).find? (fun o => o.stream == st) else none) = some o := by rw [hturn, if_pos rfl, ho]
  show execTileOperationPerform core m st s = _
  rw [execTileOperationPerform, hsome]
  rfl

/-- The step changes floes, contexts, firn and cores alone. -/
theorem tilePerformed_eq (s : State) (core m : Nat) (o : TileOp) : tilePerformed s core m o =
    { s with floes := (tilePerformed s core m o).floes, mx := (tilePerformed s core m o).mx, firn := (tilePerformed s core m o).firn,
             cores := (tilePerformed s core m o).cores } := by
  have hstart := tileStart_eq s core m o
  have hperf := (engineOnly_performTile (tileStart s core m o) core m o).rest
  unfold tilePerformed
  generalize performTile (tileStart s core m o) core m o = p at hperf ⊢
  rw [tileCounted_eq, tileTaken_eq, hperf, hstart]

theorem matrix_tilePerformed (s : State) (core m : Nat) (o : TileOp) : (tilePerformed s core m o).matrix core m =
    { (performTile (tileStart s core m o) core m o).1.matrix core m with ops := ((tileStart s core m o).matrix core m).ops.erase o } := by
  rw [tilePerformed, State.matrix_of_mx (tileCounted_mx ..), matrix_tileTaken, (engineOnly_performTile (tileStart s core m o) core m o).ops]

theorem firn_tilePerformed (s : State) (core m : Nat) (o : TileOp) :
    (tilePerformed s core m o).firn = (performTile (tileStart s core m o) core m o).1.firn := by
  rw [tilePerformed, tileCounted_eq, tileTaken_eq]

theorem core_tilePerformed (s : State) (core m : Nat) (o : TileOp) (k : Nat) :
    (tilePerformed s core m o).core k = if k = core then { s.core core with mxLast := m == 1 } else s.core k := by
  have hcores : (performTile (tileStart s core m o) core m o).1.cores = s.cores := by
    rw [(engineOnly_performTile (tileStart s core m o) core m o).rest, tileStart_eq]
  have hread (j : Nat) : (performTile (tileStart s core m o) core m o).1.core j = s.core j := by rw [State.core, hcores, State.core]
  have hcount : (tilePerformed s core m o).core k = (tileTaken core m o (performTile (tileStart s core m o) core m o).1).core k := by
    rw [State.core, tilePerformed, tileCounted_cores, State.core]
  rw [hcount]
  split
  · next hk => rw [hk, core_tileTaken, hread]
  · next hk => rw [core_tileTaken_ne m o _ hk, hread]

/-- A floe comes to the count with its latches alone changed, and those by MST alone. -/
theorem floe?_tileTaken {k : Nat} {f : Floe} (core m : Nat) (o : TileOp) (hf : s.floe? k = some f) : ∃ l, (o.kind ≠ .mst → l = f.latches) ∧
    (tileTaken core m o (performTile (tileStart s core m o) core m o).1).floe? k = some { f with latches := l } := by
  have htaken : (tileTaken core m o (performTile (tileStart s core m o) core m o).1).floe? k
      = (performTile (tileStart s core m o) core m o).1.floe? k := rfl
  have hstart : (tileStart s core m o).floe? k = some f := by rw [tileStart_eq]; exact hf
  rw [htaken]
  by_cases hk : o.kind = .mst
  · obtain ⟨l, hl⟩ := (engineOnly_performTile (tileStart s core m o) core m o).floe? hstart
    exact ⟨l, fun h => absurd hk h, hl⟩
  · exact ⟨f.latches, fun _ => rfl, (State.floe?_of_floes (matrixOnly_performTile hk (tileStart s core m o) core m).floes k).trans hstart⟩

/-- The operation's own floe has its flags and its unit of tl (R174, R250). -/
theorem floe?_tilePerformed {f : Floe} (core m : Nat) (hf : s.floe? o.floe = some f) (ht : f.tag = o.tag) : ∃ l, (o.kind ≠ .mst → l = f.latches) ∧
    (tilePerformed s core m o).floe? o.floe = some { f with
      tl := f.tl - 1, fpflags := f.fpflags ||| (performTile (tileStart s core m o) core m o).2.bits, latches := l } := by
  obtain ⟨l, hl, hfloe⟩ := floe?_tileTaken core m o hf
  exact ⟨l, hl, floe?_tileCounted _ hfloe ht⟩

theorem floe?_tilePerformed_ne {k : Nat} {g : Floe} (core m : Nat) (hk : k ≠ o.floe) (hg : s.floe? k = some g) :
    ∃ l, (o.kind ≠ .mst → l = g.latches) ∧ (tilePerformed s core m o).floe? k = some { g with latches := l } := by
  obtain ⟨l, hl, hfloe⟩ := floe?_tileTaken core m o hg
  exact ⟨l, hl, (floe?_tileCounted_ne _ _ hk).trans hfloe⟩

/-- Skipped, an operation leaves firn, tiles and predicates (R247, R253). -/
theorem tilePerformed_skips (h : o.dead = true ∨ ∃ p, o.pred = some p ∧ (s.matrix core m).preds.getLsbD p = false) :
    (tilePerformed s core m o).firn = s.firn ∧ ((tilePerformed s core m o).matrix core m).tiles = (s.matrix core m).tiles
      ∧ ((tilePerformed s core m o).matrix core m).preds = (s.matrix core m).preds := by
  obtain ⟨htiles, hpreds⟩ := matrix_tileStart s core m o
  have hskip : performTile (tileStart s core m o) core m o = (tileStart s core m o, Fx.none) := performTile_skips (by rw [hpreds]; exact h)
  rw [firn_tilePerformed, matrix_tilePerformed, hskip]
  exact ⟨by rw [tileStart_eq], htiles, hpreds⟩

end

/-! ## What an operation other than MST leaves -/

section
variable {s : State} {core m : Nat} {o : TileOp} (hk : o.kind ≠ .mst)
include hk

theorem firn_tilePerformed_of_ne : (tilePerformed s core m o).firn = s.firn := by
  rw [firn_tilePerformed, tileStart_of_ne hk, (matrixOnly_performTile hk s core m).firn]

theorem preds_tilePerformed_of_ne : ((tilePerformed s core m o).matrix core m).preds = ((performTile s core m o).1.matrix core m).preds := by
  rw [matrix_tilePerformed, tileStart_of_ne hk]

theorem word_tilePerformed_of_ne (t i : Nat) :
    ((tilePerformed s core m o).matrix core m).word t i = ((performTile s core m o).1.matrix core m).word t i := by
  rw [matrix_tilePerformed, tileStart_of_ne hk]
  rfl

end

section
variable {s : State} {core m : Nat} {o : TileOp} {r : Region} {i : Nat} (h : RunsAlone s core m o)
include h

theorem RunsAlone.word_mzero (hk : o.kind = .mzero) (hi : i < 4096) : ((tilePerformed s core m o).matrix core m).word o.d i = 0 := by
  rw [word_tilePerformed_of_ne (by simp [hk]), h.performTile_plain (.inl hk), word_tilePlain_mzero hk hi]

theorem RunsAlone.preds_mask (hk : o.kind = .tpset true) : ((tilePerformed s core m o).matrix core m).preds = BitVec.ofNat 16 o.val.toNat := by
  rw [preds_tilePerformed_of_ne (by simp [hk]), h.performTile_plain (.inr ⟨true, hk⟩), preds_tilePlain_mask hk]

theorem RunsAlone.preds_one (hk : o.kind = .tpset false) {b : Nat} (hb : b < 16) : ((tilePerformed s core m o).matrix core m).preds.getLsbD b
    = if b = o.b then decide (o.val ≠ 0) else (s.matrix core m).preds.getLsbD b := by
  rw [preds_tilePerformed_of_ne (by simp [hk]), h.performTile_plain (.inr ⟨false, hk⟩), preds_tilePlain_one hk hb]

theorem RunsAlone.word_mld (hr : s.scratchOf core o.ctx o.inst = some r) (hk : o.kind = .mld) (hbytes : accBytes o.m ≠ 8) (hearly : o.early = [])
    (hi : i < 4096) : ((tilePerformed s core m o).matrix core m).word o.d i = BitVec.ofNat 32 (mldVal o.m (accElem s core r o i)) := by
  rw [word_tilePerformed_of_ne (by simp [hk]), h.performTile_effect (.inl hk), tileEffect_mld hr hk, State.matrix_setMatrix_same,
    word_mldTile hbytes hearly hi]

theorem RunsAlone.word_multiply (hr : s.scratchOf core o.ctx o.inst = some r) (hk : o.kind = .mma ∨ o.kind = .mmax ∨ o.kind = .mmag) (hy : o.y = 0)
    (hacc : (mulFmt o.kind o.m).acc = .fp32) (hi : i < 4096) : ((tilePerformed s core m o).matrix core m).word o.d i = BitVec.ofNat 32
      (classical (mulFmt o.kind o.m) (operandsOf s (mulFmt o.kind o.m) o core r core r) (if 8 ≤ o.m then .sat else .rn)
        ((s.matrix core m).word o.d i).toNat (i / 64) (i % 64)).1 := by
  rw [word_tilePerformed_of_ne (multiply_kind_ne_mst hk), h.performTile_effect (.inr hk), tileEffect_multiply hr hk hy, State.matrix_setMatrix_same,
    word_multiply_classical hacc hi]

end

/-! ## The statement -/

/-- Settles O40: a context taken, granted and drained; and TILE_OPERATION_PERFORM as an operation taken off its stream after its effect. -/
theorem matrixContextsAndTiles : Obligations.MatrixContextsAndTiles := by
  refine ⟨⟨?_, ?_, ?_⟩, ?_, ?_⟩
  · rintro w sh e s pair h hx rfl
    exact ⟨fun hnone heven hscratch => ⟨fun m => mctx_takes h ⟨hx, hnone, heven, hscratch⟩, mctx_waits h ⟨hx, hnone, heven, hscratch⟩⟩,
      fun x hc hl hb hbad => mctx_traps h hx hbad hc hl hb⟩
  · exact fun s core h m rest f pair hwait hf hst hw hfree => matrixContextGrant_grants hwait hf hst hw hfree
  · exact fun s core m hst hops hholder => matrixContextDrained_frees hst hops hholder
  · exact fun s core m st h => tileOperationPerform_idle h
  · rintro s s0 core m st x o rfl hturn ho hs0
    obtain rfl : s0 = tileStart s core m o := hs0
    have hrest := tilePerformed_eq s core m o
    refine ⟨_, tileOperationPerform_performs hturn ho, by rw [matrix_tilePerformed], fun f hf ht => floe?_tilePerformed core m hf ht,
      fun k g hk hg => floe?_tilePerformed_ne core m hk hg, fun a => by rw [hrest], by rw [hrest], ?_, fun k hk => ?_, tilePerformed_skips,
      fun hlive hpred hpair => ?_⟩
    · rw [core_tilePerformed, if_pos rfl]
    · rw [core_tilePerformed, if_neg hk]
    · have h : RunsAlone s core m o := ⟨hlive, hpred, hpair⟩
      exact ⟨fun hk => ⟨firn_tilePerformed_of_ne (by simp [hk]), fun i => h.word_mzero hk⟩, h.preds_mask, fun hk b hb _ => h.preds_one hk hb,
        fun r i hr hk hbytes hearly hi => ⟨firn_tilePerformed_of_ne (by simp [hk]), h.word_mld hr hk hbytes hearly hi⟩,
        fun r hr hk hy hacc => ⟨firn_tilePerformed_of_ne (multiply_kind_ne_mst hk), fun i => h.word_multiply hr hk hy hacc⟩⟩

end Sys2Proof.Machine
end

section
/-! SUPPORT. An operation that an issue puts in flight as it made it, whatever it sends to other devices (R166, R174); messages posted (R411). -/

namespace Sys2Proof.Machine

/-! ## An operation put in flight as it was made (R166, R174) -/

/-- The state with one more operation, under the next number, and the fabric as `n`. -/
def State.withOp (s : State) (o : Op) (n : Net) : State := { s with nextId := s.nextId + 1, ops := Table.insert s.ops s.nextId o, net := n }

/-- A floe whose operation was put in flight: counted in its class where it is, and in its arrival counter where it has one. -/
def Op.placedIn (o : Op) (f : Floe) : Floe :=
  let g := if o.counted then (if o.isSt then { f with st := f.st + 1 } else { f with ld := f.ld + 1 }) else f
  match o.ac with
  | some k => g.acIssue k
  | none => g

theorem State.addOp_withOp (s : State) (o : Op) : s.addOp o = (s.withOp o s.net).modFloe o.floe o.placedIn := rfl

theorem State.find?_withOp (s : State) (o : Op) (n : Net) : Table.find? (s.withOp o n).ops s.nextId = some o := Table.find?_insert_same ..

section
variable {i : Instr} {w : FWord} {sh : Shape} {e : Env} {s u t : State} {g : Floe} {o : Op} {n : Net}

/-- What an issue left differs from what it says by floes alone. -/
theorem FloeAnd.eq {h : Nat} (ha : FloeAnd h g s u t) : t = { u with floes := t.floes } := by
  obtain ⟨-, -, rfl⟩ := ha
  rfl

/-- A floe's change does not look at the fabric. -/
theorem State.modFloe_withNet (s : State) (h : Nat) (g : Floe → Floe) (n : Net) :
    State.modFloe { s with net := n } h g = { s with floes := (s.modFloe h g).floes, net := n } := by
  have hf : State.floe? { s with net := n } h = s.floe? h := rfl
  unfold State.modFloe
  rw [hf]
  cases s.floe? h <;> rfl

/-- A body that leaves `u` ends in it, its floe moved on. -/
theorem Issues.retires (h : Issues i w sh e s) {body : FWord → Shape → Env → State → Res} (hrun : exec i s = Machine.issueF i body s)
    (hk : body w sh e s = .done u) (ht : SameTime s u) (hu : u.floe? e.h = some g) (ho : OtherFloes e.h s u) :
    ∃ t, exec i s = .next t ∧ FloeAnd e.h (e.after w sh s g) s { u with floes := s.floes } t :=
  ⟨_, h.exec_of_body hrun hk, floeAnd_retire _ _ ht hu ho⟩

/-- A body that puts one operation in flight, its floe then changed by `k`, and some messages on their way. -/
theorem Issues.places (h : Issues i w sh e s) {body : FWord → Shape → Env → State → Res} {k : Floe → Floe}
    (hrun : exec i s = Machine.issueF i body s) (hk : body w sh e s = .done ((s.withOp o n).modFloe e.h k)) :
    ∃ t, exec i s = .next t ∧ FloeAnd e.h (e.after w sh s (k e.f)) s (s.withOp o n) t := by
  have hf : (s.withOp o n).floe? e.h = some e.f := h.floe
  have hfloe := (State.floe?_modFloe_same (s.withOp o n) e.h k).trans (congrArg (Option.map k) hf)
  have hothers : OtherFloes e.h s ((s.withOp o n).modFloe e.h k) := otherFloes_modFloe (fun _ _ => rfl) k
  rw [State.modFloe_eq] at hfloe hothers hk
  exact h.retires hrun hk ⟨rfl, rfl, rfl, rfl⟩ hfloe hothers

/-- A body that does no more than put one operation in flight. -/
theorem Issues.placesOp (h : Issues i w sh e s) {body : FWord → Shape → Env → State → Res} (hrun : exec i s = Machine.issueF i body s)
    (hk : body w sh e s = .done (s.addOp o)) (ho : o.floe = e.h) :
    ∃ t, exec i s = .next t ∧ FloeAnd e.h (e.after w sh s (o.placedIn e.f)) s (s.withOp o s.net) t := by
  rw [State.addOp_withOp, ho] at hk
  exact h.places hrun hk

/-- An operation put in flight is found under its number. -/
theorem FloeAnd.inFlight {h : Nat} (ha : FloeAnd h g s (s.withOp o n) t) : Table.find? t.ops s.nextId = some o := by
  rw [ha.eq]
  exact State.find?_withOp s o n

/-- Nothing but the operation and its floe differs, where no message was sent. -/
theorem FloeAnd.placedOnly {h : Nat} (ha : FloeAnd h g s (s.withOp o s.net) t) :
    { t with ops := s.ops, floes := s.floes, nextId := s.nextId } = s := by
  rw [ha.eq]
  rfl

/-- A counted operation finds its class counter full from 1023 on. -/
theorem Floe.classFull_of_le {f : Floe} (hc : o.counted = true) (hfull : 1023 ≤ (if o.isSt then f.st else f.ld)) : f.classFull o = true := by
  simp only [Floe.classFull, hc, hfull, decide_true, Bool.and_self]

end

/-! ## Messages posted (R411) -/

/-- A message posted stands behind those before it, with its stream's next number. -/
theorem State.post_outbox (s : State) (m : Msg) (after : List Nat) :
    (s.post m after).net.outbox = s.net.outbox ++ [⟨{ m with seq := Table.getD s.net.seqOut 0 (m.cls * 2 ^ 32 + m.stream) }, after⟩] := rfl

/-- Posting changes the fabric alone. -/
theorem State.post_eq (s : State) (m : Msg) (after : List Nat) : s.post m after = { s with net := (s.post m after).net } := rfl

theorem State.request_eq (s : State) (op lane : Nat) (m : Msg) (after : List Nat) :
    s.request op lane m after = { s with net := (s.request op lane m after).net } := rfl

/-- Messages posted one by one take as many places of the outbox, and no round. -/
theorem foldl_post {α : Type} (g : α → Msg) (l : List α) (s : State) :
    ∃ n, l.foldl (fun t a => t.post (g a) []) s = { s with net := n } ∧ n.rounds = s.net.rounds
      ∧ n.outbox.length = s.net.outbox.length + l.length := by
  induction l generalizing s with
  | nil => exact ⟨s.net, rfl, rfl, rfl⟩
  | cons a l ih =>
    obtain ⟨n, hn, hrounds, hlen⟩ := ih (s.post (g a) [])
    refine ⟨n, hn, hrounds, ?_⟩
    rw [hlen, State.post_outbox, List.length_append, List.length_cons, List.length_cons, List.length_nil]
    omega

end Sys2Proof.Machine
end

section
/-! RLD, RWR and RATOM; the issue of MSG, HALO and COLL, and the contribution of a COLL that is performed (R298, R417-R422). -/

namespace Sys2Proof.Machine

/-! ## RLD, RWR and RATOM (R417, R418) -/

/-- RLD, RWR and RATOM issue the lanes of LDA's, ST's and ATOM's operations. -/
theorem linkTransfer_issueLanes {i : Instr} {w : FWord} {sh : Shape} {e : Env} {s : State} {o : Op}
    (hi : i = .rld w ∧ o = { loadOp .load false true w sh e s with info := rldMark } ∨ i = .rwr w ∧ o = storeOp .store true w sh e s
      ∨ i = .ratom w ∧ o = atomicOp (fun w => atomOpOf w.c.toNat) true false w sh e s) :
    IssuesLanes i w sh o e s ∧ ∀ k, o.kind ≠ .compress k := by
  rcases hi with ⟨rfl, rfl⟩ | ⟨rfl, rfl⟩ | ⟨rfl, rfl⟩ <;>
    exact ⟨⟨⟨_, rfl, rfl⟩, ⟨rfl, rfl⟩, fun _ hk => OpKind.noConfusion hk⟩, fun _ hk => OpKind.noConfusion hk⟩

/-! ## MSG (R422) -/

section
variable {w : FWord} {sh : Shape} {e : Env} {s : State} {a b : Nat}

/-- MSG's operation: its form, event, partition, device and amount, behind what its release covers. -/
def msgOp (w : FWord) (e : Env) (s : State) (a b : Nat) : Op :=
  { newOp s e w .msg with
    isSt := true, interlock := false, uniform := true, rel := w.m.toNat != 2
    after := if w.m.toNat = 2 then s.afterOf e.h false else s.afterOf e.h (decide (2 ≤ w.s.toNat))
    vals := [w.m.toNat, field a 0 16, field a 16 4, field a 20 19, b] }

/-- MSG's message to another device: an event signal in the stream of its floe, one in the channel of C, or a mailbox entry. -/
def msgMessage (w : FWord) (e : Env) (a b : Nat) : Msg :=
  newMsg (match w.m.toNat with | 0 => 0 | 1 => 3 | _ => 5) (if w.m.toNat = 0 then 2 else 0) (w.m.toNat != 2) (field a 20 19) (field a 16 4)
    (match w.m.toNat with | 0 => e.h | 1 => w.c.toNat | _ => 0) (field a 0 16) (BitVec.ofNat 8 (partOf e.f.core) :: bytesOf 4 b)

/-- What MSG comes to with valid sources that name a partition. -/
theorem msgBody_eq (hx : e.exec ≠ 0) (ha : rdOp s e.f 0 w.a 2 = (a, true)) (hb : (if w.b = 0xFF then (1, true) else rdOp s e.f 0 w.b 1) = (b, true))
    (hp : w.m.toNat = 2 → s.isPriv e.f = true) (hhigh : a / 2 ^ 39 = 0) (hpart : field a 16 4 < 12) :
    msgBody w sh e s =
      if field a 20 19 ≠ Config.deviceId.toNat ∧ !reachable s (field a 20 19) then .trap { cause := .linkUnreachable, lanes := e.exec } s
      else if e.f.classFull (msgOp w e s a b) then .stall s
      else .done (if field a 20 19 = Config.deviceId.toNat then s.addOp (msgOp w e s a b)
        else (s.addOp (msgOp w e s a b)).request s.nextId 0 (msgMessage w e a b) (msgOp w e s a b).after) := by
  have hpriv : ¬ (w.m.toNat = 2 ∧ (!s.isPriv e.f) = true) := fun h => by simp [hp h.1] at h
  have hfields : ¬ (field a 39 25 ≠ 0 ∨ 12 ≤ field a 16 4) := by
    rintro (h | h)
    · exact h (by rw [field, hhigh, Nat.zero_mod])
    · omega
  unfold msgBody
  rw [ha, hb]
  dsimp only
  rw [if_neg hx, if_neg hpriv, if_neg (by simp), if_neg hfields]
  rfl

/-- The order of MSG's operation: a message to a mailbox is no release. -/
theorem msgOp_after : (msgOp w e s a b).after = s.afterOf e.h (w.m.toNat != 2 && decide (2 ≤ w.s.toNat)) := by
  by_cases h : w.m.toNat = 2
  · simp [msgOp, h]
  · have hne : (w.m.toNat != 2) = true := bne_iff_ne.2 h
    rw [hne, Bool.true_and]
    exact if_neg h

/-- The fabric after MSG: its message to another device on its way. -/
def msgNet (w : FWord) (e : Env) (s : State) (a b : Nat) : Net :=
  if field a 20 19 = Config.deviceId.toNat then s.net else (s.request s.nextId 0 (msgMessage w e a b) (msgOp w e s a b).after).net

/-- MSG's request leaves the floes as the operation does. -/
theorem msg_sends : (if field a 20 19 = Config.deviceId.toNat then s.addOp (msgOp w e s a b)
      else (s.addOp (msgOp w e s a b)).request s.nextId 0 (msgMessage w e a b) (msgOp w e s a b).after)
    = (s.withOp (msgOp w e s a b) (msgNet w e s a b)).modFloe e.h (msgOp w e s a b).placedIn := by
  unfold msgNet
  split
  · rfl
  · rw [State.request_eq, State.addOp_withOp, State.modFloe_eq]
    exact (State.modFloe_withNet (s.withOp (msgOp w e s a b) s.net) e.h _ _).symm

/-- MSG in flight, with its message to another device. -/
theorem msgNet_outbox (hdev : field a 20 19 ≠ Config.deviceId.toNat) :
    ∃ k, (msgNet w e s a b).outbox = s.net.outbox ++ [⟨{ msgMessage w e a b with seq := k }, (msgOp w e s a b).after⟩] := by
  rw [msgNet, if_neg hdev]
  exact ⟨_, State.post_outbox ..⟩

end

/-! ## HALO (R298) -/

section
variable {w : FWord} {sh : Shape} {e : Env} {s : State} {sl : TreeSlot} {d : TreeDesc} {a n : Nat} {hd bs lc : List Byte}

/-- HALO's operation: the descriptor and the tree, behind what its release covers. -/
def haloOp (w : FWord) (e : Env) (s : State) (v slot : Nat) : Op :=
  { newOp s e w .halo with
    isSt := true, interlock := false, uniform := true, rel := true, scope := 5, vals := [v, slot], after := s.afterOf e.h true }

/-- HALO of a descriptor that reads in full goes on to its checks. -/
theorem haloBody_read (hx : e.exec ≠ 0) (ha : rdOp s e.f 0 w.a 2 = (a, true))
    (hslot : Table.find? (s.core e.f.core).slots w.s.toNat = some sl) (hd' : parseTree sl.desc = some d)
    (hfar1 : blockFar s e (BitVec.ofNat 64 a) 64 = []) (hread1 : readBlock s e (BitVec.ofNat 64 a) 64 64 = .ok hd)
    (hn : n = field (natOf hd) 0 16) (hlo : 1 ≤ n) (hhi : n ≤ 4096)
    (hfar2 : blockFar s e (BitVec.ofNat 64 a) (64 + 16 * n) = []) (hread2 : readBlock s e (BitVec.ofNat 64 a) (64 + 16 * n) 64 = .ok bs)
    (hfar3 : blockFar s e (BitVec.ofNat 64 (d.base + 12)) 4 = []) (hread3 : readBlock s e (BitVec.ofNat 64 (d.base + 12)) 4 4 = .ok lc) :
    haloBody w sh e s = haloIssue w e s d (natOf sl.desc) (natOf lc) (natOf bs) := by
  subst hn
  have hgo : ¬ (e.exec = 0 ∨ true = false) := by simpa using hx
  have hcount : ¬ (field (natOf hd) 0 16 = 0 ∨ 4096 < field (natOf hd) 0 16) := by omega
  unfold haloBody
  rw [ha]
  dsimp only
  rw [if_neg hgo, hslot]
  dsimp only
  rw [hd']
  dsimp only
  rw [withBlock_read hfar1 hread1, if_neg hcount, withBlock_read hfar2 hread2, withBlock_read hfar3 hread3]

/-- A descriptor within its values, all of whose destinations are reached. -/
theorem haloIssue_ok {slot lcap v : Nat} (hok : haloOk d slot lcap v = true)
    (hreach : ∀ k ∈ haloDests v, k / 4 = Config.deviceId.toNat ∨ reachable s (k / 4) = true) :
    haloIssue w e s d slot lcap v = if e.f.classFull (haloOp w e s v slot) then .stall s else .done (s.addOp (haloOp w e s v slot)) := by
  have hall : ¬ (haloDests v).any (fun d => d / 4 != Config.deviceId.toNat && !reachable s (d / 4)) = true := by
    rw [List.any_eq_true]
    rintro ⟨k, hk, hlost⟩
    rcases hreach k hk with h | h <;> simp [h] at hlost
  unfold haloIssue
  rw [if_neg (by simp [hok]), if_neg hall]
  rfl

end

/-! ## COLL (R420, R421) -/

section
variable {w : FWord} {sh : Shape} {e : Env} {s : State} {b part : Nat} {ms : List (Nat × Nat)}

/-- COLL's operation: the partition, the group, the member, the lanes, the reduction and what the lanes give to it. -/
def collOp (w : FWord) (e : Env) (s : State) (part g me : Nat) : Op :=
  { newOp s e w .coll with
    isSt := true, counted := false, interlock := false, uniform := true, rel := true, scope := 7, after := s.afterOf e.h true
    vals := [part, g, me, w.c.toNat, w.m.toNat % 4, w.m.toNat / 4] ++ (List.range w.c.toNat).map (fun l =>
      let x := s.rdReg e.f ⟨false, w.a.toNat⟩ l
      x.data.toNat + (if x.v then 2 ^ 32 else 0)) }

/-- COLL of a group that the partition has once, all of whose members are reached. -/
theorem collBody_ok (hx : e.exec ≠ 0) (hb : rdOp s e.f 0 w.b 1 = (b, true)) (hpart : part = partOf e.f.core)
    (hgroup : groupOf s part (b % 256) = some ms) (hone : (ms.filter (fun m => m == (Config.deviceId.toNat, part))).length = 1)
    (hreach : ∀ m ∈ ms, m.1 = Config.deviceId.toNat ∨ reachable s m.1 = true) :
    collBody w sh e s = .done ((s.addOp (collOp w e s part (b % 256) (ms.idxOf (Config.deviceId.toNat, part)))).waitOn e.h
      (.coll part (b % 256) none w.d w.c.toNat (w.s.toNat == 1 && ms.idxOf (Config.deviceId.toNat, part) != 0))) := by
  subst hpart
  have hall : ¬ ms.any (fun m => m.1 != Config.deviceId.toNat && !reachable s m.1) = true := by
    rw [List.any_eq_true]
    rintro ⟨m, hm, hlost⟩
    rcases hreach m hm with h | h <;> simp [h] at hlost
  unfold collBody
  rw [hb]
  dsimp only
  rw [if_neg hx, if_neg (by simp), hgroup]
  dsimp only
  rw [if_neg (by simp [hone]), if_neg hall]
  rfl

/-- COLL in flight, its floe WAITING for the round. -/
theorem coll_goes (h : Issues (.coll w) w sh e s) {g me : Nat} {c : Wait}
    (hk : collBody w sh e s = .done ((s.addOp (collOp w e s part g me)).waitOn e.h c)) :
    ∃ t, exec (.coll w) s = .next t ∧ FloeAnd e.h (e.after w sh s (e.f.held c s.gt)) s (s.withOp (collOp w e s part g me) s.net) t := by
  have hf : (s.withOp (collOp w e s part g me) s.net).floe? e.h = some e.f := h.floe
  have hplaced : (s.addOp (collOp w e s part g me)).floe? e.h = some e.f :=
    (State.floe?_modFloe_same ..).trans (congrArg (Option.map (collOp w e s part g me).placedIn) hf)
  have hothers : OtherFloes e.h s ((s.addOp (collOp w e s part g me)).waitOn e.h c) :=
    otherFloes_modFloe (otherFloes_modFloe (fun _ _ => rfl) _) _
  have hheld := State.waitOn_floe hplaced c
  rw [State.addOp_withOp, State.modFloe_eq] at hheld hothers hk
  rw [State.waitOn, State.modFloe_eq] at hheld hothers hk
  exact h.retires rfl hk ⟨rfl, rfl, rfl, rfl⟩ hheld hothers

/-- What a contribution of operation `o` in round `r` leaves before its messages go: the members here have it, and the next round is counted. -/
def collTaken (s : State) (o : Op) (r : Nat) (ms : List (Nat × Nat)) : State :=
  { s with
    colls := s.colls ++ (ms.filter (fun m => m.1 == Config.deviceId.toNat)).map (fun m => contribution m.2 r o.vals)
    net := { s.net with rounds := Table.insert s.net.rounds (o.vals.getD 0 0 * 256 + o.vals.getD 1 0) (r + 1) } }

/-- A floe that waits for a round of its group, once the round has its number. -/
def Floe.inRound (r : Nat) (f : Floe) : Floe :=
  match f.wait with
  | some (.coll p k none d n root) => { f with wait := some (.coll p k (some r) d n root) }
  | _ => f

/-- A contribution performed: the round is taken, and a message to each member elsewhere is on its way. -/
theorem collStored_eq {s : State} {o : Op} {r : Nat} {ms : List (Nat × Nat)} (id : Nat) (hready : o.ready s = true)
    (hgroup : groupOf s (o.vals.getD 0 0) (o.vals.getD 1 0) = some ms)
    (hr : r = Table.getD s.net.rounds 0 (o.vals.getD 0 0 * 256 + o.vals.getD 1 0)) :
    ∃ n, collStored s id o = (State.modFloe { collTaken s o r ms with net := n } o.floe (Floe.inRound r)).endOp id o
      ∧ n.rounds = Table.insert s.net.rounds (o.vals.getD 0 0 * 256 + o.vals.getD 1 0) (r + 1)
      ∧ n.outbox.length = s.net.outbox.length + (ms.filter (fun m => m.1 != Config.deviceId.toNat)).length := by
  have hms : ms = (groupOf s (o.vals.getD 0 0) (o.vals.getD 1 0)).getD [] := by rw [hgroup, Option.getD_some]
  subst hr hms
  obtain ⟨n, hn, hrounds, hlen⟩ := foldl_post
    (fun m : Nat × Nat => newMsg 0 3 true m.1 m.2 o.floe 0
      ((Table.getD s.net.rounds 0 (o.vals.getD 0 0 * 256 + o.vals.getD 1 0) :: o.vals).flatMap (bytesOf 8)))
    (((groupOf s (o.vals.getD 0 0) (o.vals.getD 1 0)).getD []).filter (fun m => m.1 != Config.deviceId.toNat)) (collTaken s o _ _)
  refine ⟨n, ?_, hrounds, hlen⟩
  rw [← hn, collStored, if_neg (by simp [hready])]
  rfl

/-- An operation that ends leaves its floe's wait and state. -/
theorem Floe.opCounted_wait (f : Floe) (o : Op) : (f.opCounted o).wait = f.wait ∧ (f.opCounted o).state = f.state := by
  simp only [Floe.opCounted]
  cases o.ac <;> cases o.counted <;> cases o.isSt <;> exact ⟨rfl, rfl⟩

/-- A floe after the end of its operation: as it is, or with its counters. -/
theorem State.endOp_floe {s : State} {o : Op} {f : Floe} (id : Nat) (hf : s.floe? o.floe = some f) :
    ∃ y, (s.endOp id o).floe? o.floe = some y ∧ y.wait = f.wait ∧ y.state = f.state := by
  have hf' : State.floe? { s with ops := Table.erase s.ops id } o.floe = some f := hf
  unfold State.endOp
  dsimp only
  split
  · exact ⟨f.opCounted o, by rw [State.floe?_modFloe_same, hf']; rfl, Floe.opCounted_wait f o⟩
  · exact ⟨f, hf', rfl, rfl⟩

/-- The end of an operation changes the operations and the floes alone. -/
theorem State.endOp_eq (s : State) (id : Nat) (o : Op) :
    s.endOp id o = { s with ops := Table.erase s.ops id, floes := (s.endOp id o).floes } := by
  unfold State.endOp
  dsimp only
  split
  · rw [State.modFloe_eq]
  · rfl

end

/-! ## O48 -/

/-- The first part of O48: RLD, RWR and RATOM as LDA, ST and ATOM. -/
theorem exec_linkTransfer (i : Instr) (w : FWord) (sh : Shape) (e : Env) (s : State) (o : Op) (h : Issues i w sh e s) (hx : e.exec ≠ 0)
    (hi : i = .rld w ∧ o = { loadOp .load false true w sh e s with info := rldMark } ∨ i = .rwr w ∧ o = storeOp .store true w sh e s
      ∨ i = .ratom w ∧ o = atomicOp (fun w => atomOpOf w.c.toNat) true false w sh e s) :
    (1023 ≤ (if o.isSt then e.f.st else e.f.ld) → ∃ t, exec i s = .next t ∧ FloeEffect e.h (e.unready e.f) s t)
    ∧ ((if o.isSt then e.f.st else e.f.ld) < 1023 → (∀ k, o.ac = some k → (e.f.ac k).out < 255) → lockHolds s e.h (withLanes s e o) = false →
      ∃ t q, exec i s = .next t ∧ OpIssued o q w sh e s t) := by
  obtain ⟨hlanes, hkind⟩ := linkTransfer_issueLanes hi
  exact ⟨fun hfull => hlanes.waitsForClass h hx hfull, fun hroom hac hlock => hlanes.goes h hx hroom hac hlock fun hk => hkind 0 hk.1⟩

/-- Settles O48: each instruction by its operation, and a contribution as it is performed. -/
theorem linkInstructions : Obligations.LinkInstructions := by
  unfold Obligations.LinkInstructions
  refine ⟨exec_linkTransfer, ?msg, ?halo, ?coll, ?contribution⟩
  case msg =>
    intro w sh e s a b h hx ha hb hp hhigh hpart
    have hbody := msgBody_eq (sh := sh) hx ha hb hp hhigh hpart
    have hgo (hdev : field a 20 19 = Config.deviceId.toNat ∨ reachable s (field a 20 19) = true) :
        ¬ (field a 20 19 ≠ Config.deviceId.toNat ∧ (!reachable s (field a 20 19)) = true) := fun hlost =>
      hdev.elim hlost.1 fun hreach => by simp [hreach] at hlost
    refine ⟨fun hdev hfull => ?_, fun hdev hroom => ?_, fun x hdev hlost hctx hl hbase => ?_⟩
    · rw [if_neg (hgo hdev), if_pos (Floe.classFull_of_le (o := msgOp w e s a b) rfl hfull)] at hbody
      exact h.unready rfl hbody
    · rw [if_neg (hgo hdev), if_neg (classFull_of_lt (o := msgOp w e s a b) hroom), msg_sends] at hbody
      obtain ⟨t, ht, hand⟩ := h.places rfl hbody
      refine ⟨t, msgOp w e s a b, ht, hand.inFlight, rfl, rfl, rfl, msgOp_after, hand.floe, hand.others, ?_, fun heq => ?_, fun hne => ?_⟩
      · rw [hand.eq]
        rfl
      · rw [hand.eq]
        exact if_pos heq
      · obtain ⟨k, hk⟩ := msgNet_outbox (w := w) (e := e) (s := s) (b := b) hne
        rw [hand.eq]
        exact ⟨_, hk, rfl, rfl, rfl, rfl, rfl⟩
    · rw [if_pos ⟨hdev, by simp [hlost]⟩] at hbody
      exact h.traps rfl hbody hctx hl hbase (fun hc => Cause.noConfusion hc)
  case halo =>
    intro w sh e s a n sl d hd bs lc h hx ha hslot htree hfar1 hread1 hn hlo hhi hfar2 hread2 hfar3 hread3 hok hreach
    have hbody := (haloBody_read (sh := sh) hx ha hslot htree hfar1 hread1 hn hlo hhi hfar2 hread2 hfar3 hread3).trans (haloIssue_ok hok hreach)
    refine ⟨fun hfull => ?_, fun hroom => ?_⟩
    · rw [if_pos (Floe.classFull_of_le (o := haloOp w e s (natOf bs) (natOf sl.desc)) rfl hfull)] at hbody
      exact h.unready rfl hbody
    · rw [if_neg (classFull_of_lt (o := haloOp w e s (natOf bs) (natOf sl.desc)) hroom)] at hbody
      obtain ⟨t, ht, hand⟩ := h.placesOp rfl hbody rfl
      exact ⟨t, haloOp w e s (natOf bs) (natOf sl.desc), ht, hand.inFlight, rfl, rfl, rfl, rfl, hand.floe, hand.others, hand.placedOnly⟩
  case coll =>
    intro w sh e s b part ms h hx hb hpart hgroup hone hreach
    have hbody := collBody_ok (sh := sh) hx hb hpart hgroup hone hreach
    obtain ⟨t, ht, hand⟩ := coll_goes h hbody
    exact ⟨t, collOp w e s part (b % 256) (ms.idxOf (Config.deviceId.toNat, part)), ht, hand.inFlight, rfl, rfl, rfl, rfl, hand.floe, hand.others,
      hand.placedOnly⟩
  case contribution =>
    intro s id part g r o ms hop hst hkind hready hp hg hgroup hr
    subst hp hg
    obtain ⟨n, hn, hrounds, hlen⟩ := collStored_eq id hready hgroup hr
    have hexec : exec (.storePerformed id) s = .next (collStored s id o) := by
      rw [exec, execStorePerformed, hop]
      simp [hst, hkind]
    rw [hn, State.endOp_eq, State.modFloe_eq] at hexec
    refine ⟨_, hexec, ?_, ?_, rfl, hlen, fun f d m root hf hw => ?_⟩
    · rw [hrounds]
      exact Table.find?_insert_same ..
    · exact (Table.find?_erase ..).trans (if_pos rfl)
    · have hfloe : State.floe? { collTaken s o r ms with net := n } o.floe = some f := hf
      have hround := (State.floe?_modFloe_same _ o.floe (Floe.inRound r)).trans (congrArg (Option.map (Floe.inRound r)) hfloe)
      obtain ⟨y, hy, hwait, hstate⟩ := State.endOp_floe id hround
      rw [State.modFloe_eq] at hy
      exact ⟨y, hy, hwait.trans (by simp [Floe.inRound, hw]), hstate.trans (by simp [Floe.inRound, hw])⟩

end Sys2Proof.Machine
end

section
/-! SUPPORT. The operation of a tree instruction (R301, R302), and what a reader's lane leaves alone and writes (R283, R286-R289, R308). -/

namespace Sys2Proof.Machine

/-! ## The operation of a walker or allocator instruction (R301, R302) -/

/-- Whether a tree instruction acts once for the floe. -/
def treeUni (op : TreeOp) (w : FWord) : Bool :=
  match op with
  | .tacommit => true
  | .twst => false
  | _ => Code.isUni w.d

/-- Whether the allocator performs a tree instruction. -/
def treeAlloc (op : TreeOp) : Bool :=
  match op with
  | .tains => true
  | .tadel => true
  | .tamask => true
  | .tacommit => true
  | _ => false

/-- The lanes of a tree instruction, each with its sources where they are valid. -/
def treeSources (op : TreeOp) (w : FWord) (e : Env) (s : State) : List (Nat × Option LaneAcc) :=
  (if treeUni op w then (maskLanes e.exec).take 1 else maskLanes e.exec).map (fun l => (l, treeLane s e.f w op l))

/-- The operation that a tree instruction puts in flight. -/
def treeIssued (op : TreeOp) (w : FWord) (sh : Shape) (e : Env) (s : State) : Op :=
  { newOp s e w (if treeAlloc op then .alloc else .walker) with
    lanes := (treeSources op w e s).filterMap Prod.snd
    nulls := if op == .twst then [] else ((treeSources op w e s).filter (fun r => r.2.isNone)).map Prod.fst
    d := sh.d.writes, isSt := op == .twst, uniform := treeUni op w, scope := if op = .tacommit then w.m.toNat % 8 else 7
    interlock := !(op == .twst), after := s.afterOf e.h (op == .tacommit), info := [op.code, w.s.toNat] }

theorem treeUni_iff (op : TreeOp) (w : FWord) : treeUni op w = true ↔ op = .tacommit ∨ (op ≠ .twst ∧ Code.isUni w.d = true) := by
  cases op <;> simp [treeUni]

theorem treeSources_eq (op : TreeOp) (w : FWord) (e : Env) (s : State) :
    treeSources op w e s = (treeLanes op w e).map (fun l => (l, treeLane s e.f w op l)) := by
  have hlanes : (if treeUni op w then (maskLanes e.exec).take 1 else maskLanes e.exec) = treeLanes op w e :=
    if_congr (treeUni_iff op w) rfl rfl
  rw [treeSources, hlanes]

theorem treeAlloc_iff (op : TreeOp) : treeAlloc op = true ↔ 6 ≤ op.code := by cases op <;> decide

theorem treeIssued_kind (op : TreeOp) (w : FWord) (sh : Shape) (e : Env) (s : State) :
    (treeIssued op w sh e s).kind = if 6 ≤ op.code then .alloc else .walker := if_congr (treeAlloc_iff op) rfl rfl

theorem treeIssued_lanes (op : TreeOp) (w : FWord) (sh : Shape) (e : Env) (s : State) :
    (treeIssued op w sh e s).lanes = (treeLanes op w e).filterMap (fun l => treeLane s e.f w op l) := by
  rw [treeIssued, treeSources_eq, List.filterMap_map]
  rfl

theorem treeIssued_nulls (op : TreeOp) (w : FWord) (sh : Shape) (e : Env) (s : State) :
    (treeIssued op w sh e s).nulls = if op = .twst then [] else (treeLanes op w e).filter (fun l => (treeLane s e.f w op l).isNone) := by
  simp only [treeIssued, treeSources_eq, List.filter_map, List.map_map, Function.comp_def, List.map_id', beq_iff_eq]

/-- The class that the operation counts in. -/
theorem treeIssued_class (op : TreeOp) (w : FWord) (sh : Shape) (e : Env) (s : State) (a b : Nat) :
    (if (treeIssued op w sh e s).isSt then a else b) = if op = .twst then a else b := if_congr beq_iff_eq rfl rfl

theorem treeIssued_placedIn (op : TreeOp) (w : FWord) (sh : Shape) (e : Env) (s : State) (f : Floe) :
    (treeIssued op w sh e s).placedIn f = if op = .twst then { f with st := f.st + 1 } else { f with ld := f.ld + 1 } :=
  if_congr beq_iff_eq rfl rfl

section
variable {p : (FWord → Instr) × TreeOp} {w : FWord} {sh : Shape} {e : Env} {s : State} {k : TreeSlot} {d : TreeDesc} {op : TreeOp}

/-- Every tree instruction issues its tree operation. -/
theorem exec_treeInstr (hp : p ∈ treeInstrs) (w : FWord) (s : State) : exec (p.1 w) s = issueF (p.1 w) (issueTree p.2) s := by
  simp only [treeInstrs, List.mem_cons, List.not_mem_nil, or_false] at hp
  rcases hp with rfl | rfl | rfl | rfl | rfl | rfl | rfl | rfl | rfl | rfl <;> rfl

/-- A bound slot with its channel takes the operation. -/
theorem issueTree_bound (hx : e.exec ≠ 0) (hb : boundTree s e.f.core e.f.ctx w.s.toNat = some (k, d))
    (hch : op.hasCh = true → d.ch.getD (w.m.toNat % 8) 0 ≠ 0) :
    issueTree op w sh e s = if e.f.classFull (treeIssued op w sh e s) then .stall s else .done (s.addOp (treeIssued op w sh e s)) := by
  have hpresent : ¬ (op.hasCh && d.ch.getD (w.m.toNat % 8) 0 == 0) = true := by simpa using hch
  unfold issueTree
  rw [if_neg hx, hb]
  dsimp only
  rw [if_neg hpresent]
  rfl

/-- An unbound slot, or one without the channel, has no operation. -/
theorem issueTree_unbound (hx : e.exec ≠ 0) (h : boundTree s e.f.core e.f.ctx w.s.toNat = none
      ∨ ∃ k d, boundTree s e.f.core e.f.ctx w.s.toNat = some (k, d) ∧ op.hasCh = true ∧ d.ch.getD (w.m.toNat % 8) 0 = 0) :
    issueTree op w sh e s = .trap { cause := .treeDescriptor, lanes := e.exec } s := by
  unfold issueTree
  rw [if_neg hx]
  rcases h with hb | ⟨k, d, hb, hop, hch⟩
  · rw [hb]
  · have habsent : (op.hasCh && d.ch.getD (w.m.toNat % 8) 0 == 0) = true := by rw [hop, hch]; rfl
    rw [hb]
    exact if_pos habsent

/-- The third part of O41's issue: TREE_DESCRIPTOR. -/
theorem exec_tree_unbound (hp : p ∈ treeInstrs) (h : Issues (p.1 w) w sh e s) (hx : e.exec ≠ 0) {x : Ctx} (hctx : s.ctx? e.f.ctx = some x)
    (hl : e.f.levelHandler = false) (hbase : x.trapBase ≠ 0) (hun : boundTree s e.f.core e.f.ctx w.s.toNat = none
      ∨ ∃ k d, boundTree s e.f.core e.f.ctx w.s.toNat = some (k, d) ∧ p.2.hasCh = true ∧ d.ch.getD (w.m.toNat % 8) 0 = 0) :
    ∃ t, exec (p.1 w) s = .next t ∧ TrapEffect e x.trapBase .treeDescriptor false e.exec 0 e.sl.pc Fx.none s t :=
  h.traps (exec_treeInstr hp w s) (issueTree_unbound hx hun) hctx hl hbase (fun hc => Cause.noConfusion hc)

/-- A tree instruction in flight. -/
theorem exec_tree_goes (hp : p ∈ treeInstrs) (h : Issues (p.1 w) w sh e s) (hx : e.exec ≠ 0)
    (hb : boundTree s e.f.core e.f.ctx w.s.toNat = some (k, d)) (hch : p.2.hasCh = true → d.ch.getD (w.m.toNat % 8) 0 ≠ 0)
    (hroom : (if p.2 = .twst then e.f.st else e.f.ld) < 1023) :
    ∃ t, exec (p.1 w) s = .next t
      ∧ FloeAnd e.h (e.after w sh s (if p.2 = .twst then { e.f with st := e.f.st + 1 } else { e.f with ld := e.f.ld + 1 })) s
        (s.withOp (treeIssued p.2 w sh e s) s.net) t := by
  have hbody := issueTree_bound (sh := sh) hx hb hch
  rw [if_neg (classFull_of_lt ((treeIssued_class ..).trans_lt hroom))] at hbody
  rw [← treeIssued_placedIn p.2 w sh e s]
  exact h.placesOp (exec_treeInstr hp w s) hbody rfl

/-- A full class counter leaves it not ready. -/
theorem exec_tree_full (hp : p ∈ treeInstrs) (h : Issues (p.1 w) w sh e s) (hx : e.exec ≠ 0)
    (hb : boundTree s e.f.core e.f.ctx w.s.toNat = some (k, d)) (hch : p.2.hasCh = true → d.ch.getD (w.m.toNat % 8) 0 ≠ 0)
    (hfull : 1023 ≤ (if p.2 = .twst then e.f.st else e.f.ld)) : ∃ t, exec (p.1 w) s = .next t ∧ FloeEffect e.h (e.unready e.f) s t := by
  have hbody := issueTree_bound (sh := sh) hx hb hch
  rw [if_pos (Floe.classFull_of_le rfl (hfull.trans_eq (treeIssued_class ..).symm))] at hbody
  exact h.unready (exec_treeInstr hp w s) hbody

end

/-! ## TWBIND and TWINV (R303, R309) -/

section
variable {w : FWord} {sh : Shape} {e : Env} {s : State} {a : Nat} {bs : List Byte}

/-- An instruction that changes its core alone. -/
theorem Issues.changesCore {i : Instr} {c : Nat} {g : Core → Core} (h : Issues i w sh e s) {body : FWord → Shape → Env → State → Res}
    (hrun : exec i s = Machine.issueF i body s) (hk : body w sh e s = .done (s.modCore c g)) :
    ∃ t, exec i s = .next t ∧ FloeAnd e.h (e.after w sh s e.f) s (s.modCore c g) t :=
  h.retires hrun hk ⟨rfl, rfl, rfl, rfl⟩ h.floe (fun _ _ => rfl)

theorem twbindBody_read (hx : e.exec ≠ 0) (ha : rdOp s e.f 0 w.a 2 = (a, true)) (hfar : blockFar s e (BitVec.ofNat 64 a) 64 = [])
    (hread : readBlock s e (BitVec.ofNat 64 a) 64 64 = .ok bs) :
    twbindBody w sh e s = if (parseTree bs).isNone then .trap { cause := .treeDescriptor, lanes := e.exec } s
      else .done (s.bindSlot e.f.core e.f.ctx w.s.toNat (BitVec.ofNat 64 a) bs) := by
  have hgo : ¬ (e.exec = 0 ∨ true = false) := by simpa using hx
  unfold twbindBody
  rw [ha]
  dsimp only
  rw [if_neg hgo, withBlock_read hfar hread]

end

/-! ## A reader's lane leaves all but the core's caches (R283, R308) -/

theorem CoresOnly.trans {s t u : State} (h : CoresOnly s t) (k : CoresOnly t u) : CoresOnly s u := by
  rw [CoresOnly, k, h]

theorem slotRefresh_cores {s t : State} {v : TreeView} {slot : Nat} (h : slotRefresh s v slot = .ok t) : CoresOnly s t := by
  simp only [slotRefresh] at h
  (repeat' split at h) <;> cases h <;> rfl

theorem cachedLookup_cores {s : State} {v : TreeView} {t : TreeDesc} {slot : Nat} {x y z : Int} {r : Option Nat × State}
    (h : cachedLookup s v t slot x y z = .ok r) : CoresOnly s r.2 := by
  simp only [cachedLookup] at h
  (repeat' split at h) <;> cases h <;> rfl

theorem neighbour_cores {s : State} {v : TreeView} {t : TreeDesc} {o : Op} {c : Nat} {x y z : Int} {r : Nat × State}
    (h : neighbour s v t o c x y z = .ok r) : CoresOnly s r.2 := by
  simp only [neighbour] at h
  split at h
  · cases h
    rfl
  · split at h
    · cases h
    · next hc =>
      cases h
      exact cachedLookup_cores hc
    · next hc =>
      split at h <;> cases h
      exact cachedLookup_cores hc

theorem neighbours_cores {v : TreeView} {t : TreeDesc} {o : Op} {c : Nat} {x y z : Int} {ds : List (Int × Int × Int)} :
    ∀ {s : State} {r : List Nat × State}, neighbours v t o c x y z ds s = .ok r → CoresOnly s r.2 := by
  induction ds with
  | nil =>
    intro s r h
    cases h
    rfl
  | cons d ds ih =>
    intro s r h
    simp only [neighbours] at h
    split at h
    · cases h
    · next h1 =>
      split at h <;> cases h
      next h2 =>
        have hrest := ih h2
        exact (neighbour_cores h1).trans hrest

theorem readerLane_cores {s : State} {id : Nat} {o : Op} {la : LaneAcc} {r : Option (List Nat) × State} (h : readerLane s id o la = .ok r) :
    CoresOnly s r.2 := by
  unfold readerLane at h
  extract_lets v at h
  split at h
  · cases h
  · next s0 h0 =>
    have hrefresh := slotRefresh_cores h0
    split at h
    · cases h
    · split at h
      · split at h <;> cases h
        next hc => exact hrefresh.trans (cachedLookup_cores hc)
      · split at h
        · (repeat' split at h) <;> cases h <;> exact hrefresh
        · split at h
          · cases h
          · next hc =>
            cases h
            exact hrefresh.trans (cachedLookup_cores hc)
          · next hc =>
            split at h <;> cases h
            exact hrefresh.trans (cachedLookup_cores hc)
      · split at h <;> cases h
        next hn => exact hrefresh.trans (neighbours_cores hn)
      · split at h <;> cases h
        exact hrefresh
      · (repeat' split at h) <;> cases h <;> exact hrefresh

theorem CoresOnly.firn {s t : State} (h : CoresOnly s t) : t.firn = s.firn := by rw [h]

theorem CoresOnly.noted {s t : State} (h : CoresOnly s t) (k : Nat) : Noted k s t := by
  rw [h]
  exact .of_eq rfl rfl rfl

/-! ## A reader's lane is written to D (R308) -/

/-- The words of a reader's lane, each with V = 1. -/
def readerWords (ws : Option (List Nat)) : Option (List FirnWord) := ws.map (fun l => l.map (fun v => ⟨BitVec.ofNat 32 v, true⟩))

theorem State.wrResults_putLane (s : State) (f : Floe) (lane : Nat) (d : List Reg) (ws : List Nat) :
    s.wrResults f lane d ws = putLane f d (lane, readerWords (some ws)) s := by
  simp only [State.wrResults, putLane, readerWords, Option.map_some, List.zip_map_right, List.foldl_map]
  rfl

/-- The one lane of a reader, with its result. -/
theorem readerLanes_one {s s1 : State} {id : Nat} {o : Op} {f : Floe} {la : LaneAcc} {ws : Option (List Nat)}
    (h : readerLane s id o la = .ok (ws, s1)) :
    readerLanes id o (some f) [la] s = (putLane f o.d (la.lane, readerWords ws) s1, none) := by
  simp only [readerLanes, h]
  cases ws with
  | none => rfl
  | some l => exact congrArg (·, none) (State.wrResults_putLane ..)

/-- What a floe has read of others' writes grows by what is new. -/
theorem noted_addSeen (s : State) (h : Nat) (new : List Nat) :
    Noted h s (s.modFloe h (fun f => { f with seen := f.seen.filter (fun i => !new.contains i) ++ new })) := by
  refine ⟨by simp, by simp, otherFloes_modFloe (.refl h s) _, fun f hf => ⟨_, by rw [State.floe?_modFloe_same, hf]; rfl, fun i hi hop => ?_⟩⟩
  by_cases hnew : i ∈ new
  · exact List.mem_append_right _ hnew
  · exact List.mem_append_left _ (List.mem_filter.2 ⟨hi, by simpa using hnew⟩)

/-- What a walk may have read of others' writes is noted in its floe alone (R227). -/
theorem noted_noteWalk (s : State) (o : Op) : Noted o.floe s (s.noteWalk o) := by
  simp only [State.noteWalk]
  split
  · exact .refl o.floe s
  · exact noted_addSeen ..

theorem State.noteWalk_firn (s : State) (o : Op) : (s.noteWalk o).firn = s.firn := by
  simp only [State.noteWalk]
  split <;> simp

end Sys2Proof.Machine
end

section
/-! The ends of tree operations, the enumeration of a LEAF launch, and O41 (R174, R282, R284, R291, R296, R297, R301-R310). -/

namespace Sys2Proof.Machine

/-! ## DATA_RETURN of a reader (R308) -/

section
variable {s s1 : State} {id : Nat} {o : Op} {f : Floe} {la : LaneAcc} {ws : Option (List Nat)}

/-- What a reader's one lane writes, before its operation ends. -/
def readerEffect (s1 : State) (o : Op) (f : Floe) (la : LaneAcc) (ws : Option (List Nat)) : State :=
  (nullLanes (putLane f o.d (la.lane, readerWords ws) s1) o f o.nulls).noteWalk o

theorem readerEffect_eq (s1 : State) (o : Op) (f : Floe) (la : LaneAcc) (ws : Option (List Nat)) :
    readerEffect s1 o f la ws = (putLanes f o.d ([(la.lane, readerWords ws)] ++ nullPuts o.nulls) s1).noteWalk o := by
  rw [readerEffect, nullLanes_putLanes]
  rfl

theorem exec_reader_ends (hop : Table.find? s.ops id = some o) (hk : o.kind = .walker) (hst : o.isSt = false) (hready : o.ready s = true)
    (hown : ownFirst s id o = true) (hlive : s.tagLive o = true) (hf : s.floe? o.floe = some f) (hlanes : o.lanes = [la])
    (hread : readerLane s id o la = .ok (ws, s1)) : exec (.dataReturn id) s = .next ((readerEffect s1 o f la ws).endOp id o) := by
  have hfloe : s.liveFloe o = some f := (if_pos hlive).trans hf
  have hexec : exec (.dataReturn id) s = .next (treeReturn s id o) := by
    rw [exec, execDataReturn, hop]
    simp [hst, hk]
  have hkind : o.kind ≠ .alloc := by simp [hk]
  rw [hexec, treeReturn, hfloe, hlanes, readerLanes_one hread]
  simp only [hready, hown, hkind, Bool.not_true, Bool.false_eq_true, if_false]
  rfl

/-- A reader's result fits D as its operation does. -/
theorem readerWords_wrote (ho : OpFits f o) (hlanes : o.lanes = [la]) (hlen : ∀ l, ws = some l → l.length = o.d.length) (s : State) :
    Wrote f o.d ([(la.lane, readerWords ws)] ++ nullPuts o.nulls) s (putLanes f o.d ([(la.lane, readerWords ws)] ++ nullPuts o.nulls) s) := by
  have hla : la ∈ o.lanes := by simp [hlanes]
  refine putLanes_nulls_wrote s ⟨ho.fits, ho.nodup, List.pairwise_singleton .., ?_, ?_, fun _ => le_rfl⟩
    ⟨fun n hn => (ho.nulls n hn).1, ?_, ?_, ?_⟩
  · intro p hp
    rw [List.mem_singleton.1 hp]
    exact ho.lt la hla
  · intro l v hv
    obtain ⟨-, hv⟩ := Prod.mk.inj (List.mem_singleton.1 hv)
    obtain ⟨x, hx, rfl⟩ := Option.map_eq_some_iff.1 hv.symm
    rw [List.length_map, hlen x hx]
  · intro n hn p hp
    rw [List.mem_singleton.1 hp]
    exact ((ho.nulls n hn).2 la hla).1
  · intro hfull n hn p hp
    rw [List.mem_singleton.1 hp]
    exact ((ho.nulls n hn).2 la hla).2 hfull
  · simpa [hlanes] using ho.uni

theorem noted_readerEffect (hread : readerLane s id o la = .ok (ws, s1)) : Noted o.floe s (readerEffect s1 o f la ws) := by
  rw [readerEffect_eq]
  exact (((readerLane_cores hread).noted o.floe).trans (noted_putLanes ..)).trans (noted_noteWalk ..)

/-- The end of a reader of one lane. -/
theorem exec_reader_return (hop : Table.find? s.ops id = some o) (hk : o.kind = .walker) (hst : o.isSt = false) (hready : o.ready s = true)
    (hown : ownFirst s id o = true) (hlive : s.tagLive o = true) (hf : s.floe? o.floe = some f) (ho : OpFits f o) (hlanes : o.lanes = [la])
    (hread : readerLane s id o la = .ok (ws, s1)) (hlen : ∀ l, ws = some l → l.length = o.d.length) :
    ∃ t, exec (.dataReturn id) s = .next t ∧ Table.find? t.ops id = none ∧ OpLeft o f s t ∧ OtherFloes o.floe s t
      ∧ SameMem s t ∧ Wrote f o.d ((la.lane, readerWords ws) :: nullPuts o.nulls) s t := by
  have hnoted := noted_readerEffect (f := f) hread
  have hfirn : ((readerEffect s1 o f la ws).endOp id o).firn
      = (putLanes f o.d ([(la.lane, readerWords ws)] ++ nullPuts o.nulls) s1).firn := by
    rw [State.endOp_firn, readerEffect_eq, State.noteWalk_firn]
  have hsame : s1.firn = s.firn := CoresOnly.firn (readerLane_cores hread)
  refine ⟨_, exec_reader_ends hop hk hst hready hown hlive hf hlanes hread, ?_, hnoted.opLeft hf hlive, hnoted.endOp_others, ?_, ?_⟩
  · rw [State.endOp_ops, Table.find?_erase, if_pos rfl]
  · exact sameMem_of_mem ((congrArg Ms.mem (State.endOp_ms ..)).trans hnoted.mem)
  · exact (readerWords_wrote ho hlanes hlen s1).of_firn hsame.symm hfirn

/-! ## ALLOCATOR_OPERATION (R291, R296) -/

section
variable {rest : List LaneAcc}

/-- A lane whose writes are free and do not fault is performed, and its answer kept. -/
theorem exec_allocator_done (hop : Table.find? s.ops id = some o) (hk : o.kind = .alloc) (hlanes : o.lanes = la :: rest) {r : State × Nat × Nat}
    (hready : o.ready s = true) (hfree : allocFree s o la = true) (hdone : allocDone s o la = .ok r) :
    ∃ t, exec (.allocatorOperation id) s = .next t ∧ t.ms = r.1.ms ∧ t.floes = r.1.floes
      ∧ (Table.find? r.1.ops id = some o → Table.find? t.ops id = some { o with lanes := rest, vals := o.vals ++ (la.lane :: allocWords o r.2) }) := by
  have hexec : exec (.allocatorOperation id) s
      = .next (r.1.modOp id (fun q => { q with lanes := rest, vals := q.vals ++ (la.lane :: allocWords o r.2) })) := by
    rw [exec, execAllocatorOperation, hop]
    simp [hk, hlanes, hready, hfree, hdone]
  refine ⟨_, hexec, ?_, ?_, fun h => State.find?_modOp_same h _⟩
  · rw [State.modOp_rest]
  · rw [State.modOp_rest]

/-- Otherwise nothing is written. -/
theorem exec_allocator_waits (hop : Table.find? s.ops id = some o) (hk : o.kind = .alloc) (hlanes : o.lanes = la :: rest)
    (h : o.ready s = false ∨ allocFree s o la = false ∨ ∃ x, allocDone s o la = .error x) : exec (.allocatorOperation id) s = .next s := by
  rw [exec, execAllocatorOperation, hop]
  rcases h with hready | hfree | ⟨x, hdone⟩
  · simp [hk, hlanes, hready]
  · simp [hk, hlanes, hfree]
  · simp [hk, hlanes, hdone]

end

end

/-! ## LEAF_ENUMERATION (R291, R297) -/

theorem exec_leafEnumeration {s : State} {ctx inst core : Nat} {i : Inst} {bs : List Byte} {d : TreeDesc} {ls : List (Nat × Int × Int × Int)}
    (hi : s.inst? ctx inst = some i) (henum : i.enumerated = false) (hwait : i.wait = none) (hkill : i.killed = false)
    (hplaces : s.ctxPlaces ctx = true) (hcore : core = engineCore s ctx i.die) (hread : readVirt s core ctx (coreSecure s core) i.tree 64 = .ok bs)
    (hd : parseTree bs = some d) (htree : enumTree ⟨s, core, ctx, coreSecure s core, []⟩ d = .ok ls) :
    exec (.leafEnumeration ctx inst) s = .next (s.modInst ctx inst (fun x =>
      { x with enumerated := true, treeDesc := bs, leaves := ls, floes := ls.length * x.perLeaf })) := by
  subst hcore
  rw [exec, execLeafEnumeration, hi]
  dsimp only
  rw [if_neg (by simp [henum, hwait, hkill, hplaces]), hread]
  dsimp only
  rw [hd]
  dsimp only
  rw [htree]

/-! ## O41 -/

/-- Settles O41: each tree instruction by its operation, the ends of operations, and the enumeration of a LEAF launch. -/
theorem treeInstructions : Obligations.TreeInstructions := by
  unfold Obligations.TreeInstructions
  refine ⟨⟨?issue, ?slots⟩, ?reader, ?allocator, ?leaves⟩
  case issue =>
    intro p hp w sh e s h hx
    refine ⟨fun k d hb hch => ⟨exec_tree_full hp h hx hb hch, fun hroom => ?_⟩, fun x => exec_tree_unbound hp h hx⟩
    obtain ⟨t, ht, hand⟩ := exec_tree_goes hp h hx hb hch hroom
    refine ⟨t, treeIssued p.2 w sh e s, ht, hand.inFlight, ?_, fun k hk => ?_, treeIssued_kind .., rfl, rfl, rfl, rfl, rfl, rfl, rfl, rfl,
      treeIssued_lanes .., treeIssued_nulls .., hand.floe, hand.others, fun a => ?_, hand.placedOnly⟩
    · rw [hand.eq]
      rfl
    · rw [hand.eq]
      exact Table.find?_insert_ne _ _ hk
    · rw [hand.eq]
      rfl
  case slots =>
    intro w sh e s hx
    refine ⟨fun a bs d h ha hfar hread hd => ?_, fun a bs x h ha hfar hread hd hctx hl hbase => ?_, fun h => ?_⟩
    · have hbody := twbindBody_read (sh := sh) hx ha hfar hread
      rw [hd, if_neg (by simp), State.bindSlot, hd] at hbody
      exact h.changesCore rfl hbody
    · have hbody := twbindBody_read (sh := sh) hx ha hfar hread
      rw [hd, if_pos (by rfl)] at hbody
      exact h.traps rfl hbody hctx hl hbase (fun hc => Cause.noConfusion hc)
    · exact h.changesCore rfl (if_neg hx)
  case reader =>
    intro s s1 id o f la ws hop hk hst hready hown hlive hf ho hlanes hread hlen
    exact exec_reader_return hop hk hst hready hown hlive hf ho hlanes hread hlen
  case allocator =>
    intro s id o la rest hop hk hlanes
    exact ⟨fun r => exec_allocator_done hop hk hlanes, exec_allocator_waits hop hk hlanes⟩
  case leaves =>
    intro s ctx inst core i bs d ls hi henum hwait hkill hplaces hcore hread hd htree
    refine ⟨_, exec_leafEnumeration hi henum hwait hkill hplaces hcore hread hd htree, ?_, State.inst?_modInst_same hi _⟩
    rw [State.modInst_eq]

end Sys2Proof.Machine
end

section
/-! SUPPORT. What a message taken from the fabric changes: memory at its home, the context that owns a partition, the mailbox, the operation whose request
it answers (R411-R415, R422, R432). -/

namespace Sys2Proof.Machine

/-! ## A message answered (R411, R414) -/

/-- The acknowledgement of a message: one more message to its sender, of the class of answers. -/
def Acknowledged (s t : State) (m : Msg) : Prop := ∃ r : Msg, t.net.outbox = s.net.outbox ++ [⟨r, []⟩] ∧ r.cls = 1 ∧ r.dstDev = m.srcDev

/-- A message that changes no outbox itself is acknowledged by the answer posted after it. -/
theorem acknowledged_post {s u : State} (h : u.net.outbox = s.net.outbox) (m : Msg) (status value : Nat) :
    Acknowledged s (u.post (replyTo m status value) []) m :=
  ⟨_, by rw [State.post_outbox, h], rfl, rfl⟩

/-! ## A memory access at its home (R415) -/

theorem MemoryOnly.net {s t : State} (h : MemoryOnly s t) : t.net = s.net := by rw [h]

/-- The write of the bytes of a number at their home, and the marks it leaves (R206). -/
def homePut (s : State) (m : Msg) (kind v : Nat) : State :=
  ((List.range (natOf ((m.payload.drop 32).take 8))).foldl (fun (t : State) i =>
      t.engineByte kind (256 * homeDie m.addr) 12 (homePte s m.addr) (m.addr + i) (BitVec.ofNat 8 (v / 256 ^ i))) s).markWords
    (s.writeOnce (homePte s m.addr).prot (m.addr / 256) kind) m.addr (natOf ((m.payload.drop 32).take 8))

theorem written_homePut (s : State) (m : Msg) (kind v : Nat) :
    Written 12 (byteRun (homePte s m.addr) m.addr (natOf ((m.payload.drop 32).take 8)) (fun i => BitVec.ofNat 8 (v / 256 ^ i))) s (homePut s m kind v) :=
  (Written.run (fun t i => written_engineByte t kind _ 12 _ (m.addr + i) _) s).before_caches (cachesOnly_markWords ..)

/-- An access from the fabric changes nothing but memory. -/
theorem memoryOnly_homeAccess (s : State) (m : Msg) : MemoryOnly s (homeAccess s m).1 := by
  have hput (kind v : Nat) : MemoryOnly s (homePut s m kind v) := (written_homePut ..).memoryOnly
  unfold homeAccess
  dsimp only
  split
  · exact .refl s
  · split
    · exact .refl s
    · next hread =>
      split
      · exact hput _ _
      · split
        · exact .refl s
        · exact hput _ _

/-- A write that passes its checks puts its data. -/
theorem homeAccess_write {s : State} {m : Msg} (hop : m.op = 1)
    (hok : homeFault s (portSecure s m.srcDev) true m.addr (natOf ((m.payload.drop 32).take 8)) = none) :
    (homeAccess s m).1 = homePut s m 1 (natOf (m.payload.take 16)) := by
  have hne : (m.op != 0) = true := by rw [hop]; rfl
  unfold homeAccess
  dsimp only
  rw [hne, hok]
  simp only [hop, one_ne_zero, if_false, if_true]
  rfl

/-- The page of an access from the fabric is not sealed. -/
theorem homePte_unsealed {s : State} {pa : Nat} (hslot : (s.dirAt (pa / 256)).slot < 8) : (homePte s pa).sealed = false := by
  have hall : ∀ k < 8, Pte.sealed (BitVec.ofNat 128 (3 + k * 2 ^ 6 + 2 ^ 12)) = false := by decide
  refine hall _ ?_
  split
  · omega
  · exact hslot

/-! ## An event signalled from the fabric (R358) -/

theorem State.ctx?_fabricSignal {s : State} {part ev amount srcPart srcDev ctx : Nat} {secure : Bool} {x : Ctx} (howner : s.ownerOf part = some ctx)
    (hx : s.ctx? ctx = some x) (hev : ev ≠ 0) : (s.fabricSignal part ev amount srcPart srcDev secure).ctx? ctx
      = some { x with evOps := x.evOps ++ [⟨ev, 0, amount, none, none, []⟩] } := by
  rw [State.fabricSignal, howner]
  exact (State.ctx?_signal hx ..).trans (congrArg some (if_pos hev))

/-- A signal to a context changes the contexts alone. -/
theorem State.fabricSignal_eq {s : State} {part ev amount srcPart srcDev ctx : Nat} {secure : Bool} (howner : s.ownerOf part = some ctx) :
    s.fabricSignal part ev amount srcPart srcDev secure = { s with ctxs := (s.fabricSignal part ev amount srcPart srcDev secure).ctxs } := by
  rw [State.fabricSignal, howner]
  exact State.signal_eq ..

/-- An event signal taken and acknowledged. -/
theorem fabricSignal_acknowledged {s : State} {m : Msg} {ctx ev amount srcPart : Nat} {secure : Bool} {x : Ctx}
    (howner : s.ownerOf m.dstPart = some ctx) (hx : s.ctx? ctx = some x) (hev : ev ≠ 0) :
    ∃ t, ((s.noteSeq m).fabricSignal m.dstPart ev amount srcPart m.srcDev secure).post (replyTo m 0 0) [] = t
      ∧ t.ctx? ctx = some { x with evOps := x.evOps ++ [⟨ev, 0, amount, none, none, []⟩] }
      ∧ SameMem s t ∧ t.firn = s.firn ∧ Acknowledged s t m := by
  have howner' : (s.noteSeq m).ownerOf m.dstPart = some ctx := howner
  have hx' : (s.noteSeq m).ctx? ctx = some x := hx
  have heq := State.fabricSignal_eq (ev := ev) (amount := amount) (srcPart := srcPart) (srcDev := m.srcDev) (secure := secure) howner'
  refine ⟨_, rfl, State.ctx?_fabricSignal howner' hx' hev, fun a => ?_, ?_, acknowledged_post ?_ m 0 0⟩
  · rw [State.post_eq, heq]
    rfl
  · rw [State.post_eq, heq]
    rfl
  · rw [heq]
    rfl

/-! ## The mailbox (R432) -/

theorem State.mail_eq (s : State) (srcDev srcPart ev amount : Nat) :
    s.mail srcDev srcPart ev amount = { s with life := (s.mail srcDev srcPart ev amount).life } := by
  unfold State.mail
  extract_lets
  split <;> rfl

/-- The first entry of a second, with room, is kept. -/
theorem State.mail_kept {s : State} (hroom : (s.life.mbTail - s.life.mbHead).toNat < 256) (hsecond : s.life.mgmtSecond ≠ s.gt / 1000000000)
    (srcDev srcPart ev amount : Nat) : (s.mail srcDev srcPart ev amount).life.mbTail = s.life.mbTail + 1
      ∧ Table.find? (s.mail srcDev srcPart ev amount).life.mailbox (s.life.mbTail.toNat % 256)
        = some (BitVec.ofNat 128 (srcDev + srcPart * 2 ^ 19 + ev * 2 ^ 32 + amount * 2 ^ 64 + s.gt % 2 ^ 32 * 2 ^ 96)) := by
  have hnone : Table.getD ([] : Table Nat) 0 srcDev = 0 := rfl
  have hgo : ¬ (4096 ≤ Table.getD ([] : Table Nat) 0 srcDev ∨ 256 ≤ (s.life.mbTail - s.life.mbHead).toNat) := by omega
  unfold State.mail
  dsimp only
  rw [if_neg hsecond, if_neg hgo]
  exact ⟨rfl, Table.find?_insert_same ..⟩

/-- One that finds no room is dropped and counted. -/
theorem State.mail_dropped {s : State} (hfull : 256 ≤ (s.life.mbTail - s.life.mbHead).toNat) (srcDev srcPart ev amount : Nat) :
    (s.mail srcDev srcPart ev amount).life.mbTail = s.life.mbTail ∧ (s.mail srcDev srcPart ev amount).life.mgDrop = satInc s.life.mgDrop := by
  unfold State.mail
  dsimp only
  rw [if_pos (.inr hfull)]
  exact ⟨rfl, rfl⟩

/-! ## Answers (R414) -/

/-- An answer to an operation changes the operations, and the counters of its floe where it ends. -/
theorem State.answer_eq {s : State} {r : NetReq} {o : Op} (hop : Table.find? s.ops r.op = some o) (status value : Nat) :
    s.answer r status value = { s with ops := (s.answer r status value).ops, floes := (s.answer r status value).floes } := by
  simp only [State.answer, hop]
  split
  · rfl
  · split
    · split
      · rw [State.endOp_eq]
      · rw [State.modOp_rest]
    · rw [State.modOp_rest]
    · split
      · rw [State.modOp_rest]
      · split
        · rw [State.modOp_rest]
        · rfl
    · rw [State.modOp_rest]

theorem State.answer_msg {s : State} {r : NetReq} {o : Op} (hop : Table.find? s.ops r.op = some o) (hfail : o.failed = false) (hk : o.kind = .msg)
    (status value : Nat) : s.answer r status value = s.modOp r.op (fun q => { q with state := .performed }) := by
  simp [State.answer, hop, hfail, hk]

/-- The kinds of operation whose requests are of their lanes. -/
def Op.byLane (o : Op) : Prop := o.kind = .load ∨ o.kind = .store ∨ ∃ a b, o.kind = .atomic a b

theorem State.answer_lane {s : State} {r : NetReq} {o : Op} (hop : Table.find? s.ops r.op = some o) (hfail : o.failed = false) (hk : o.byLane)
    (status value : Nat) : s.answer r status value = s.modOp r.op (fun q => q.laneAnswer r.lane status value) := by
  rcases hk with hk | hk | ⟨a, b, hk⟩ <;> simp [State.answer, hop, hfail, hk]

theorem Op.laneAnswer_lane {lane : Nat} (h : lane < 32) (o : Op) (status value : Nat) : o.laneAnswer lane status value
    = { o with lanes := o.lanes.map (fun la =>
        if la.lane = lane then (if status = 0 then { la with reply := some value } else { la with err := some (Cause.ofCode status) }) else la) } :=
  if_neg (Nat.not_le.2 h)

/-! ## Requests given up (R412) -/

theorem Cause.ofCode_linkUnreachable : Cause.ofCode Cause.linkUnreachable.code = .linkUnreachable := by decide

/-- The kinds of operation that a request given up ends as a whole. -/
def Op.whole (o : Op) : Prop := o.kind = .enq ∨ o.kind = .msg ∨ o.kind = .halo

/-- The state without a request. -/
def State.forget (s : State) (r : NetReq) : State := { s with net := { s.net with reqs := s.net.reqs.erase r } }

theorem State.giveUp_whole {s : State} {r : NetReq} {o : Op} (hop : Table.find? s.ops r.op = some o) (hk : o.whole) :
    s.giveUp r = (s.forget r).modOp r.op (fun q => { q with failed := true }) := by
  rcases hk with hk | hk | hk <;> simp [State.giveUp, hop, hk, State.forget]

theorem State.giveUp_lane {s : State} {r : NetReq} {o : Op} (hop : Table.find? s.ops r.op = some o) (hk : o.byLane) :
    s.giveUp r = (s.forget r).answer r Cause.linkUnreachable.code 0 := by
  rcases hk with hk | hk | ⟨a, b, hk⟩ <;> simp [State.giveUp, hop, hk, State.forget]

/-- Operation `id` alone has become `o`, and some requests are gone. -/
structure GivenUp (id : Nat) (o : Op) (s t : State) : Prop where
  op : Table.find? t.ops id = some o
  others : ∀ k, k ≠ id → Table.find? t.ops k = Table.find? s.ops k
  rest : { t with ops := s.ops, net := s.net } = s

theorem GivenUp.trans {id : Nat} {o p : Op} {s t u : State} (h : GivenUp id o s t) (k : GivenUp id p t u) : GivenUp id p s u where
  op := k.op
  others := fun j hj => (k.others j hj).trans (h.others j hj)
  rest := (congrArg (fun v : State => { v with ops := s.ops, net := s.net }) k.rest).trans h.rest

theorem givenUp_whole {s : State} {r : NetReq} {o : Op} (hop : Table.find? s.ops r.op = some o) (hk : o.whole) :
    GivenUp r.op { o with failed := true } s (s.giveUp r) := by
  have hop' : Table.find? (s.forget r).ops r.op = some o := hop
  rw [State.giveUp_whole hop hk]
  refine ⟨State.find?_modOp_same hop' _, fun k hk => State.find?_modOp_ne _ _ hk, ?_⟩
  rw [State.modOp_rest]
  rfl

/-- All of an operation's requests given up: it has failed. -/
theorem givenUp_foldl {id : Nat} {l : List NetReq} (hl : ∀ r ∈ l, r.op = id) {s : State} {o : Op} (hop : Table.find? s.ops id = some o) (hk : o.whole)
    (hfail : l = [] → o.failed = true) : GivenUp id { o with failed := true } s (l.foldl State.giveUp s) := by
  induction l generalizing s o with
  | nil =>
    have ho : { o with failed := true } = o := by rw [← hfail rfl]
    rw [ho]
    exact ⟨hop, fun _ _ => rfl, rfl⟩
  | cons r l ih =>
    obtain rfl := hl r List.mem_cons_self
    have hstep := givenUp_whole hop hk
    have hrest := ih (o := { o with failed := true }) (fun x hx => hl x (List.mem_cons_of_mem _ hx)) hstep.op hk fun _ => rfl
    exact hstep.trans hrest

end Sys2Proof.Machine
end

section
/-! SUPPORT. A round of a group that has every contribution (R421), and a halo's destination on this device (R299). -/

namespace Sys2Proof.Machine

/-! ## The contributions of a round -/

theorem allSome_map_some {α : Type} (l : List α) : allSome (l.map some) = some l := by
  induction l with
  | nil => rfl
  | cons a l ih => rw [List.map_cons, allSome, ih, Option.map_some]

/-- Every member's contribution found, they are all there in member order. -/
theorem allSome_range {α : Type} {g : Nat → Option α} {l : List α} {n : Nat} (hlen : l.length = n) (h : ∀ k (hk : k < l.length), g k = some l[k]) :
    allSome ((List.range n).map g) = some l := by
  have hmap : (List.range n).map g = l.map some := by
    subst hlen
    exact List.ext_getElem (by simp) fun k _ hk => by simpa using h k (by simpa using hk)
  rw [hmap, allSome_map_some]

/-! ## The lanes of a round written to D -/

/-- The values of a round's lanes, with their lanes. -/
def roundLanes (cs : List Contribution) (n : Nat) : List (Nat × Option Nat) := (List.range n).map (fun l => (l, (collLane cs l).1))

/-- A round writes its lanes as an instruction of R114 does. -/
theorem foldl_round_writeLanes (f : Floe) (regs : List Reg) (cs : List Contribution) (n : Nat) (s : State) :
    (((List.range n).map (collLane cs)).zipIdx.foldl (fun (u : State) r => u.wrGroup f r.2 r.1.1.isSome regs (r.1.1.getD 0)) s)
      = writeLanes f regs (roundLanes cs n) s := by
  have hzip : ((List.range n).map (collLane cs)).zipIdx = (List.range n).map (fun l => (collLane cs l, l)) :=
    List.ext_getElem (by simp) fun k _ _ => by simp
  rw [hzip, List.foldl_map, roundLanes]
  generalize List.range n = ls
  induction ls generalizing s with
  | nil => rfl
  | cons l ls ih =>
    rw [List.foldl_cons, ih, List.map_cons]
    cases h : (collLane cs l).1 <;> rfl

/-- A vector register's word does not depend on how many registers the floe has, so what is written to one is read from it. -/
theorem putLanes_vector_wrote {f : Floe} {k : Nat} {rs : List (Nat × Option (List FirnWord))} (s : State)
    (hsorted : rs.Pairwise (fun p q => p.1 < q.1)) (hlt : ∀ p ∈ rs, p.1 < 32) (hlen : ∀ l ws, (l, some ws) ∈ rs → ws.length = 1) :
    Wrote f [⟨false, k⟩] rs s (putLanes f [⟨false, k⟩] rs s) := by
  have hw := putLanes_wrote (f := { f with regs := k + 1 }) (regs := [⟨false, k⟩]) s
    ⟨by simp [Reg.fits], List.nodup_singleton _, hsorted, hlt, hlen, by simp⟩
  have hput (p : Nat × Option (List FirnWord)) (t : State) : putLane { f with regs := k + 1 } [⟨false, k⟩] p t = putLane f [⟨false, k⟩] p t := by
    obtain ⟨l, o⟩ := p
    cases o with
    | none => rfl
    | some ws => cases ws <;> rfl
  simp only [putLanes, hput] at hw
  have hreg {r : Reg} (hr : r ∈ [(⟨false, k⟩ : Reg)]) (t : State) (l : Nat) : t.rdReg f r l = t.rdReg { f with regs := k + 1 } r l := by
    rw [List.mem_singleton.1 hr]
    rfl
  refine ⟨fun l ws h j hj => ?_, fun l h r hr => ?_, fun l h hf r hr => ?_, fun hf p hp hl hne r hr hu => ?_, hw.frame⟩
  · rw [hreg (List.getElem_mem hj)]
    exact hw.value l ws h j hj
  · rw [hreg hr]
    exact hw.invalid l h r hr
  · rw [hreg hr, hreg hr]
    exact hw.kept l h hf r hr
  · rw [hreg hr, hreg hr]
    exact hw.mirror hf p hp hl hne r hr hu

/-- A destination code that names a vector register. -/
theorem codeRegs_vector {d : Code} (hne : codeRegs d 1 ≠ []) (hvec : ∀ r ∈ codeRegs d 1, r.uni = false) : codeRegs d 1 = [⟨false, d.toNat⟩] := by
  unfold codeRegs at hne hvec ⊢
  split
  · rfl
  · next h =>
    rw [if_neg h] at hne hvec
    split at hne
    · next hu =>
      rw [if_pos hu] at hvec
      exact absurd (hvec _ List.mem_cons_self) Bool.noConfusion
    · exact absurd rfl hne

/-- What a round writes for a floe whose D is a vector register. -/
theorem round_wrote {d : Code} {n : Nat} (f : Floe) (hne : codeRegs d 1 ≠ []) (hvec : ∀ r ∈ codeRegs d 1, r.uni = false) (hn : n ≤ 32)
    (cs : List Contribution) (s : State) :
    Wrote f (codeRegs d 1) ((List.range n).map (fun l => (l, (collLane cs l).1.map (fun v => wordsOf 1 v)))) s
      (writeLanes f (codeRegs d 1) (roundLanes cs n) s) := by
  rw [codeRegs_vector hne hvec, writeLanes_putLanes, roundLanes, List.map_map]
  refine putLanes_vector_wrote s ?_ ?_ ?_
  · exact List.pairwise_map.2 List.pairwise_lt_range
  · intro p hp
    obtain ⟨l, hl, rfl⟩ := List.mem_map.1 hp
    exact (List.mem_range.1 hl).trans_le hn
  · intro l ws h
    obtain ⟨j, -, hj⟩ := List.mem_map.1 h
    obtain ⟨v, -, rfl⟩ := Option.map_eq_some_iff.1 (Prod.mk.inj hj).2
    rfl

/-! ## The floe of a round -/

/-- The lanes of a round in D: none for a member that is not the root of a reduction to one. -/
def roundWrite (f : Floe) (d : Code) (n : Nat) (root : Bool) (cs : List Contribution) (s : State) : State :=
  if root then s else writeLanes f (codeRegs d 1) (roundLanes cs n) s

theorem roundWrite_eq (f : Floe) (d : Code) (n : Nat) (root : Bool) (cs : List Contribution) (s : State) :
    roundWrite f d n root cs s = { s with firn := (roundWrite f d n root cs s).firn } := by
  unfold roundWrite
  split
  · rfl
  · rw [writeLanes_putLanes, putLanes_rest]

/-- The flags that the steps of a round raise. -/
def roundFlags (cs : List Contribution) (n : Nat) : Fx := ((List.range n).map (collLane cs)).foldl (fun a r => a.or r.2) Fx.none

/-- The end of a round for a WAITING floe. -/
theorem State.collEnds_waiting {f : Floe} (hw : f.state = .waiting) (s : State) (h : Nat) (d : Code) (n : Nat) (root : Bool) (cs : List Contribution) :
    s.collEnds h f d n root cs = ((roundWrite f d n root cs (s.orFlags h (roundFlags cs n))).acquire f.core 7).modFloe h
      (fun g => g.resume (s.mck f.core)) := by
  unfold State.collEnds
  rw [hw]
  dsimp only
  rw [foldl_round_writeLanes]
  rfl

section
variable {s : State} {h : Nat} {f : Floe} (hw : f.state = .waiting)
include hw

/-- The round of a WAITING floe changes its firn, its core and its floe alone. -/
theorem State.collEnds_eq (s : State) (h : Nat) (d : Code) (n : Nat) (root : Bool) (cs : List Contribution) : s.collEnds h f d n root cs
    = { s with firn := (s.collEnds h f d n root cs).firn, cores := (s.collEnds h f d n root cs).cores, floes := (s.collEnds h f d n root cs).floes } := by
  rw [State.collEnds_waiting hw, State.modFloe_eq, State.acquire_eq, roundWrite_eq, State.orFlags_eq]

/-- It writes the round's lanes. -/
theorem State.collEnds_firn (s : State) (h : Nat) (d : Code) (n : Nat) (root : Bool) (cs : List Contribution) :
    (s.collEnds h f d n root cs).firn = (roundWrite f d n root cs (s.orFlags h (roundFlags cs n))).firn := by
  rw [State.collEnds_waiting hw, State.modFloe_eq, State.acquire_eq]

/-- Before its floe goes on, the flags are joined. -/
theorem State.collEnds_floe (hf : s.floe? h = some f) (d : Code) (n : Nat) (root : Bool) (cs : List Contribution) :
    (s.collEnds h f d n root cs).floe? h
      = some (Floe.resume { f with fpflags := f.fpflags ||| (roundFlags cs n).bits } (s.mck f.core)) := by
  have hflags := State.floe?_orFlags hf (roundFlags cs n)
  rw [State.collEnds_waiting hw, State.floe?_modFloe_same, State.acquire_eq, roundWrite_eq]
  exact congrArg (Option.map _) hflags

theorem State.collEnds_others (s : State) (h : Nat) (d : Code) (n : Nat) (root : Bool) (cs : List Contribution) :
    OtherFloes h s (s.collEnds h f d n root cs) := by
  have hothers := otherFloes_orFlags s h (roundFlags cs n)
  rw [State.collEnds_waiting hw]
  refine otherFloes_modFloe ?_ _
  rw [State.acquire_eq, roundWrite_eq]
  exact hothers

end

/-! ## A halo's destination on this device (R299) -/

theorem memoryOnly_haloCopies {core ctx : Nat} {ws : List (Nat × Nat)} {s u : State} (h : haloCopies core ctx ws s = .ok u) : MemoryOnly s u := by
  induction ws generalizing s with
  | nil =>
    obtain rfl := Except.ok.inj h
    exact .refl s
  | cons w ws ih =>
    simp only [haloCopies] at h
    split at h
    · cases h
    · next s1 hcopy =>
      refine MemoryOnly.trans ?_ (ih h)
      simp only [haloCopy] at hcopy
      split at hcopy
      · cases hcopy
      · exact memoryOnly_writeVirt hcopy

end Sys2Proof.Machine
end

section
/-! The messages of the fabric as they are taken, requests that time out, rounds and halo destinations: O49 (R299, R411-R415, R419, R421, R422, R432). -/

namespace Sys2Proof.Machine

section
variable {s : State} {m : Msg}

/-- A message that is not taken changes nothing (R414). -/
theorem exec_message_not_taken {i : Instr} {c : Nat} (hi : i = .reqMessage m ∧ c = 0 ∨ i = .rspMessage m ∧ c = 1 ∨ i = .enqMessage m ∧ c = 2
      ∨ i = .barMessage m ∧ c = 3 ∨ i = .haloMessage m ∧ c = 4 ∨ i = .mgmtMessage m ∧ c = 5)
    (ht : s.takes c m = false) : exec i s = .next s := by
  have hno : (!s.takes c m) = true := by rw [ht]; rfl
  rcases hi with ⟨rfl, rfl⟩ | ⟨rfl, rfl⟩ | ⟨rfl, rfl⟩ | ⟨rfl, rfl⟩ | ⟨rfl, rfl⟩ | ⟨rfl, rfl⟩
  · exact if_pos (.inl hno)
  all_goals exact if_pos hno

/-! ## Requests of memory (R415) -/

/-- A request for memory that is taken, and that no lease or lock at its home holds, is performed and answered. -/
theorem exec_reqMessage_access (ht : s.takes 0 m = true) (hop : m.op = 0 ∨ m.op = 1 ∨ 8 ≤ m.op ∧ m.op ≤ 19)
    (hclear : (m.op = 1 ∨ 8 ≤ m.op) → engineClear s ⟨m.addr, homePte s m.addr⟩ (natOf ((m.payload.drop 32).take 8)) = true) :
    exec (.reqMessage m) s = .next ((homeAccess (s.noteSeq m) m).1.post
      (replyTo m (homeAccess (s.noteSeq m) m).2.1 (homeAccess (s.noteSeq m) m).2.2) []) := by
  have hgo : ¬ ((!s.takes 0 m) = true
      ∨ ((m.op == 1 || decide (8 ≤ m.op)) && !engineClear s ⟨m.addr, homePte s m.addr⟩ (natOf ((m.payload.drop 32).take 8))) = true) := by
    rintro (h | h)
    · simp [ht] at h
    · obtain ⟨hwr, hheld⟩ := Bool.and_eq_true_iff.1 h
      simp [hclear (by simpa using hwr)] at hheld
  have hsignal : m.op ≠ 2 := by omega
  have hcontribution : m.op ≠ 3 := by omega
  rw [exec, execReqMessage]
  dsimp only
  rw [if_neg hgo, if_neg hsignal, if_neg hcontribution, if_pos hop]

/-- A signal that is taken is made and acknowledged. -/
theorem exec_reqMessage_signal (ht : s.takes 0 m = true) (hop : m.op = 2) :
    exec (.reqMessage m) s = .next (((s.noteSeq m).fabricSignal m.dstPart (m.addr % 65536) (natOf ((m.payload.drop 1).take 4))
      (natOf (m.payload.take 1)) m.srcDev (portSecure s m.srcDev)).post (replyTo m 0 0) []) := by
  rw [exec, execReqMessage]
  simp only [ht, hop]
  rfl

/-- The bytes of a write that passes its checks, and no other. -/
theorem homeAccess_bytes {n : Nat} (hop : m.op = 1) (hn : n = natOf ((m.payload.drop 32).take 8))
    (hok : homeFault (s.noteSeq m) (portSecure s m.srcDev) true m.addr n = none) (hkey : (s.sealMeta (m.addr / 4096)).kid = 0)
    (hslot : (s.dirAt (m.addr / 256)).slot < 8) (hpage : m.addr / 4096 = (m.addr + n - 1) / 4096) :
    (∀ k, k < n → (homeAccess (s.noteSeq m) m).1.ms.byte (m.addr + k) = BitVec.ofNat 8 (natOf (m.payload.take 16) / 256 ^ k))
    ∧ ∀ a, ¬ (m.addr ≤ a ∧ a < m.addr + n) → (homeAccess (s.noteSeq m) m).1.ms.byte a = s.ms.byte a := by
  subst hn
  have hwritten := written_homePut (s.noteSeq m) m 1 (natOf (m.payload.take 16))
  have hplain : PlainAccess (s.noteSeq m) ⟨m.addr, homePte (s.noteSeq m) m.addr⟩ (natOf ((m.payload.drop 32).take 8)) :=
    ⟨homePte_unsealed hslot, hkey, hpage⟩
  rw [homeAccess_write hop hok]
  refine ⟨fun k hk => ?_, fun a ha => ?_⟩
  · exact hwritten.plain_same (p := ⟨m.addr, homePte (s.noteSeq m) m.addr⟩) hplain hk
  · exact hwritten.plain_other (p := ⟨m.addr, homePte (s.noteSeq m) m.addr⟩) hplain ha

/-! ## Event signals, halo pieces, records, mailbox entries and answers (R299, R329, R358, R411, R414, R422, R432) -/

/-- An event signal as a request, in a channel, and as the marker of a halo. -/
theorem exec_fabricSignal {i : Instr} {n : Nat} (hi : i = .reqMessage m ∧ m.op = 2 ∧ s.takes 0 m = true ∧ n = natOf ((m.payload.drop 1).take 4)
      ∨ i = .barMessage m ∧ s.takes 3 m = true ∧ n = natOf ((m.payload.drop 1).take 4)
      ∨ i = .haloMessage m ∧ m.op = 1 ∧ s.takes 4 m = true ∧ n = 1) :
    ∃ srcPart, exec i s = .next (((s.noteSeq m).fabricSignal m.dstPart (m.addr % 65536) n srcPart m.srcDev (portSecure s m.srcDev)).post
      (replyTo m 0 0) []) := by
  rcases hi with ⟨rfl, hop, ht, rfl⟩ | ⟨rfl, ht, rfl⟩ | ⟨rfl, hop, ht, rfl⟩
  · exact ⟨_, exec_reqMessage_signal ht hop⟩
  · exact ⟨_, if_neg (by simp [ht])⟩
  · exact ⟨_, (if_neg (by simp [ht])).trans (if_pos hop)⟩

/-- A piece of a halo written in the context that owns the partition, and acknowledged. -/
theorem exec_haloMessage_piece {ctx : Nat} {u : State} (ht : s.takes 4 m = true) (hop : m.op ≠ 1) (howner : s.ownerOf m.dstPart = some ctx)
    (hfree : writeFree (s.noteSeq m) (partCore m.dstPart) ctx (portSecure s m.srcDev) (BitVec.ofNat 64 (natOf (m.payload.take 8)))
      (m.payload.length - 8) = true)
    (hwrite : writeVirt (s.noteSeq m) (partCore m.dstPart) ctx (portSecure s m.srcDev) (BitVec.ofNat 64 (natOf (m.payload.take 8)))
      (m.payload.drop 8) = .ok u) : exec (.haloMessage m) s = .next (u.post (replyTo m 0 0) []) := by
  have howner' : (s.noteSeq m).ownerOf m.dstPart = some ctx := howner
  rw [exec, execHaloMessage, if_neg (by simp [ht])]
  dsimp only
  rw [if_neg hop, howner']
  dsimp only
  rw [hfree, hwrite]
  rfl

/-- An answer that is taken ends its request. -/
theorem exec_rspMessage {r : NetReq} (ht : s.takes 1 m = true)
    (hr : s.net.reqs.find? (fun r => r.msg.dstDev == m.srcDev && r.msg.seq == natOf (m.payload.take 8)
      && r.msg.stream == natOf ((m.payload.drop 8).take 4) && r.msg.cls == natOf ((m.payload.drop 12).take 4)) = some r)
    (hsent : s.requestSent r = true) : exec (.rspMessage m) s
      = .next (((s.noteSeq m).forget r).answer r (natOf ((m.payload.drop 16).take 8)) (natOf ((m.payload.drop 24).take 16))) := by
  have hr' : (s.noteSeq m).net.reqs.find? (fun r => r.msg.dstDev == m.srcDev && r.msg.seq == natOf ((m.payload.drop 0).take 8)
      && r.msg.stream == natOf ((m.payload.drop 8).take 4) && r.msg.cls == natOf ((m.payload.drop 12).take 4)) = some r := hr
  rw [exec, execRspMessage, if_neg (by simp [ht])]
  dsimp only
  rw [hr']
  dsimp only
  rw [if_neg (by simp [hsent])]
  rfl

end

/-! ## Time-outs (R412) -/

section
variable {s : State} {id : Nat} {o : Op}

/-- The requests of an operation that have waited 2 ms. -/
def lateRequests (s : State) (id : Nat) : List NetReq :=
  s.net.reqs.filter (fun r => r.op == id && decide (r.sentGt + 2000000 ≤ s.gt) && s.requestSent r)

theorem mem_lateRequests {r : NetReq} :
    r ∈ lateRequests s id ↔ r ∈ s.net.reqs ∧ r.op = id ∧ r.sentGt + 2000000 ≤ s.gt ∧ s.requestSent r = true := by
  simp [lateRequests, and_assoc]

theorem exec_requestTimeout : exec (.requestTimeout id) s = .next ((lateRequests s id).foldl State.giveUp s) := rfl

/-- A record, event or halo of which a request is late has failed. -/
theorem exec_requestTimeout_whole (hop : Table.find? s.ops id = some o) (hk : o.whole)
    (hlate : ∃ r ∈ s.net.reqs, r.op = id ∧ r.sentGt + 2000000 ≤ s.gt ∧ s.requestSent r = true) :
    ∃ t, exec (.requestTimeout id) s = .next t ∧ GivenUp id { o with failed := true } s t := by
  obtain ⟨r, hr, hlate⟩ := hlate
  refine ⟨_, exec_requestTimeout, givenUp_foldl (fun x hx => (mem_lateRequests.1 hx).2.1) hop hk fun hnil => ?_⟩
  have hmem : r ∈ lateRequests s id := mem_lateRequests.2 ⟨hr, hlate⟩
  rw [hnil] at hmem
  exact absurd hmem List.not_mem_nil

/-- A late request of one lane fails that lane. -/
theorem exec_requestTimeout_lane (hop : Table.find? s.ops id = some o) (hk : o.byLane) (hfail : o.failed = false) {r : NetReq} (hlane : r.lane < 32)
    (hlate : lateRequests s id = [r]) : ∃ t, exec (.requestTimeout id) s = .next t ∧ t.net.reqs = s.net.reqs.erase r
      ∧ { t with ops := s.ops, net := s.net } = s ∧ Table.find? t.ops id = some { o with
        lanes := o.lanes.map (fun la => if la.lane = r.lane then { la with err := some .linkUnreachable } else la) } := by
  have hid : r.op = id := (mem_lateRequests.1 (hlate ▸ List.mem_singleton_self r)).2.1
  subst hid
  have hop' : Table.find? (s.forget r).ops r.op = some o := hop
  have hcode : Cause.linkUnreachable.code ≠ 0 := by decide
  have hexec : exec (.requestTimeout r.op) s = .next ((s.forget r).modOp r.op (fun q => q.laneAnswer r.lane Cause.linkUnreachable.code 0)) := by
    rw [exec_requestTimeout, hlate, List.foldl_cons, List.foldl_nil, State.giveUp_lane hop hk, State.answer_lane hop' hfail hk]
  refine ⟨_, hexec, ?_, ?_, ?_⟩
  · rw [State.modOp_rest]
    rfl
  · rw [State.modOp_rest]
    rfl
  · rw [State.find?_modOp_same hop', Op.laneAnswer_lane hlane, Cause.ofCode_linkUnreachable]
    simp only [if_neg hcode]

/-- No request late, nothing is given up. -/
theorem exec_requestTimeout_none (h : ∀ r ∈ s.net.reqs, r.op = id → s.gt < r.sentGt + 2000000) : exec (.requestTimeout id) s = .next s := by
  have hnone : lateRequests s id = [] := List.eq_nil_iff_forall_not_mem.2 fun r hr => by
    obtain ⟨hmem, hop, hlate, -⟩ := mem_lateRequests.1 hr
    exact absurd (h r hmem hop) (Nat.not_lt.2 hlate)
  rw [exec_requestTimeout, hnone, List.foldl_nil]

end

/-! ## Rounds and halos (R299, R421) -/

section
variable {s : State}

/-- The state without the contributions of a round. -/
def State.dropRound (s : State) (part group round : Nat) : State :=
  { s with colls := s.colls.filter (fun c => !(c.part == part && c.group == group && c.round == round)) }

/-- A round with every contribution ends for the floe that waits for it. -/
theorem exec_collRoundComplete {part group round h n : Nat} {ms : List (Nat × Nat)} {cs : List Contribution} {f : Floe} {d : Code} {root : Bool}
    (hgroup : groupOf s part group = some ms) (hlen : cs.length = ms.length)
    (hall : ∀ k (hk : k < cs.length), s.colls.find? (fun c => c.part == part && c.group == group && c.round == round && c.member == k) = some cs[k])
    (hwaiter : collWaiter s part group round = some (h, f)) (hwait : f.wait = some (.coll part group (some round) d n root)) :
    exec (.collRoundComplete part group round) s = .next ((s.dropRound part group round).collEnds h f d n root cs) := by
  rw [exec, execCollRoundComplete, hgroup]
  dsimp only
  rw [allSome_range hlen hall, hwaiter]
  dsimp only
  rw [hwait]
  rfl

/-- A destination of this device that nothing holds has its words copied, and its event signalled. -/
theorem exec_haloDestinationSignal {u : State} {id dest v : Nat} {o : Op} {d : TreeDesc} (hop : Table.find? s.ops id = some o) (hk : o.kind = .halo)
    (hready : o.ready s = true) (hof : haloOf o = (v, some d)) (hdest : dest ∈ haloDests v) (hinfo : dest ∉ o.info) (hgranted : dest ∉ o.granted)
    (hhere : dest / 4 = Config.deviceId.toNat) (hfree : haloFree o.core o.ctx s ((haloLeft o d dest).map Prod.fst) = true)
    (hcopies : haloCopies o.core o.ctx ((haloLeft o d dest).map Prod.fst) s = .ok u) :
    exec (.haloDestinationSignal id dest) s = .next ((u.signal o.ctx (field v 16 16) 1 []).modOp id (fun q => { q with info := q.info ++ [dest] })) := by
  have hgo : o.kind = .halo ∧ o.ready s = true ∧ (haloDests v).contains dest = true ∧ !o.info.contains dest ∧ !o.granted.contains dest := by
    simp [hk, hready, hdest, hinfo, hgranted]
  rw [exec, execHaloDestinationSignal, hop]
  dsimp only
  rw [hof]
  dsimp only
  rw [if_pos hgo]
  dsimp only
  rw [if_pos hhere, if_neg (by simp [hfree]), hcopies]

end

/-- Settles O49: each message by what it performs and its answer, time-outs, rounds, and a halo's destination. -/
theorem fabricMessages : Obligations.FabricMessages := by
  unfold Obligations.FabricMessages
  refine ⟨⟨?notTaken, ?memory, ?signal, ?record, ?piece, ?mailbox, ?answer⟩, ?timeout, ?round, ?halo⟩
  case notTaken =>
    intro s m i c hi ht
    exact exec_message_not_taken hi ht
  case memory =>
    intro s m ht hop hclear
    have hmem := memoryOnly_homeAccess (s.noteSeq m) m
    refine ⟨_, exec_reqMessage_access ht hop hclear, rfl, hmem.firn, hmem.floes, acknowledged_post (congrArg Net.outbox hmem.net) .., ?_⟩
    intro hwrite n hn hok hkey hslot hpage
    exact homeAccess_bytes hwrite hn hok hkey hslot hpage
  case signal =>
    intro s m ctx x i n howner hx hev hi
    obtain ⟨srcPart, hexec⟩ := exec_fabricSignal hi
    obtain ⟨t, ht, heffect⟩ := fabricSignal_acknowledged (amount := n) (srcPart := srcPart) (secure := portSecure s m.srcDev) howner hx hev
    exact ⟨t, ht ▸ hexec, heffect⟩
  case record =>
    intro s m ht
    exact ⟨_, if_neg (by simp [ht]), fun _ => rfl, rfl, rfl⟩
  case piece =>
    intro s m ctx u ht hop howner hfree hwrite
    have hmem := memoryOnly_writeVirt hwrite
    exact ⟨_, exec_haloMessage_piece ht hop howner hfree hwrite, rfl, acknowledged_post (congrArg Net.outbox hmem.net) m 0 0⟩
  case mailbox =>
    intro s m ht
    refine ⟨_, if_neg (by simp [ht]), ?_, fun hroom hsecond => ?_, fun hfull => ?_⟩
    · rw [State.post_eq, State.mail_eq]
      rfl
    · exact State.mail_kept (s := s.noteSeq m) hroom hsecond ..
    · exact State.mail_dropped (s := s.noteSeq m) hfull ..
  case answer =>
    intro s m r o ht hr hsent hop hfail
    have hop' : Table.find? ((s.noteSeq m).forget r).ops r.op = some o := hop
    refine ⟨_, exec_rspMessage ht hr hsent, ?_, fun a => ?_, ?_, fun hk => ?_, fun hk hlane => ?_⟩
    · rw [State.answer_eq hop']
      rfl
    · rw [State.answer_eq hop']
      rfl
    · rw [State.answer_eq hop']
      rfl
    · rw [State.answer_msg hop' hfail hk, State.find?_modOp_same hop']
    · rw [State.answer_lane hop' hfail (.inl hk), State.find?_modOp_same hop', Op.laneAnswer_lane hlane]
  case timeout =>
    intro s id o hop
    refine ⟨fun hk hlate => ?_, fun r hk hfail hlane hlate => exec_requestTimeout_lane hop hk hfail hlane hlate, exec_requestTimeout_none⟩
    obtain ⟨t, ht, hgiven⟩ := exec_requestTimeout_whole hop hk hlate
    exact ⟨t, ht, hgiven.op, hgiven.others, hgiven.rest⟩
  case round =>
    intro s part group round h n ms cs f d root hgroup hlen hall hwaiter hf hwait hstate hn _ hne hvec
    have heq := State.collEnds_eq hstate (s.dropRound part group round) h d n root cs
    have hothers := State.collEnds_others hstate (s.dropRound part group round) h d n root cs
    have hfloe := State.collEnds_floe hstate (s := s.dropRound part group round) hf d n root cs
    have hfirn := State.collEnds_firn hstate (s.dropRound part group round) h d n root cs
    have hflags : ((s.dropRound part group round).orFlags h (roundFlags cs n)).firn = s.firn := by
      rw [State.orFlags_eq]
      rfl
    refine ⟨_, exec_collRoundComplete hgroup hlen hall hwaiter hwait, congrArg State.colls heq, hothers, fun a => ?_, hfloe, ?_⟩
    · rw [heq]
      rfl
    · cases root with
      | true => exact hfirn.trans hflags
      | false => exact (round_wrote f hne hvec hn cs ((s.dropRound part group round).orFlags h (roundFlags cs n))).of_firn hflags.symm hfirn
  case halo =>
    intro s u id dest v o d x hop hk hready hof hdest hinfo hgranted hhere hfree hcopies hx hev
    have hmem := memoryOnly_haloCopies hcopies
    have hopu : Table.find? u.ops id = some o := by rw [hmem.ops, hop]
    have hxu : u.ctx? o.ctx = some x := (State.ctx?_of_ctxs hmem.ctxs _).trans hx
    have hsignal := (State.ctx?_signal hxu (field v 16 16) 1 []).trans (congrArg some (if_pos hev))
    have heq := State.signal_eq u o.ctx (field v 16 16) 1 []
    have hops : Table.find? (u.signal o.ctx (field v 16 16) 1 []).ops id = some o := by
      rw [heq]
      exact hopu
    refine ⟨_, exec_haloDestinationSignal hop hk hready hof hdest hinfo hgranted hhere hfree hcopies, ?_, ?_, ?_, State.find?_modOp_same hops _, ?_⟩
    · rw [State.modOp_rest, heq]
    · rw [State.modOp_rest, heq]
      exact hmem.firn
    · rw [State.modOp_rest, heq]
      exact hmem.floes
    · rw [State.modOp_rest]
      exact hsignal

end Sys2Proof.Machine
end

section
/-! The commands on a context: what each body comes to where its state allows it and where it does not, and O53 (R312, R314, R315, R326, R359, R365,
R381-R383). -/

namespace Sys2Proof.Machine

/-! ## Tables and contexts -/

theorem Table.keep_nil {α : Type} {t : Table α} {q : Nat → α → Bool} (h : ∀ k, ∀ v ∈ Table.vals t, q k v = false) : Table.keep t q = [] :=
  List.filter_eq_nil_iff.2 fun x hx => by simp [h x.1 x.2 (List.mem_map_of_mem hx)]

theorem Table.insert_insert {α : Type} (t : Table α) (k : Nat) (v w : α) : Table.insert (Table.insert t k v) k w = Table.insert t k w := by
  induction t with
  | nil => simp [Table.insert]
  | cons x t ih =>
    by_cases hlt : k < x.1
    · simp [Table.insert, hlt]
    · by_cases heq : k = x.1
      · simp [Table.insert, heq]
      · simp [Table.insert, hlt, heq, ih]

/-- A context changed twice. -/
theorem State.modCtx_modCtx {s : State} {ctx : Nat} {x : Ctx} {g k : Ctx → Ctx} (hx : s.ctx? ctx = some x) (hg : (g x).state ≠ .free) :
    (s.modCtx ctx g).modCtx ctx k = s.modCtx ctx (fun x => k (g x)) := by
  have hmod := State.ctx?_modCtx_live hx hg
  rw [State.modCtx, hmod, State.modCtx, hx, State.modCtx, hx]
  exact congrArg (fun t => ({ s with ctxs := t } : State)) (Table.insert_insert ..)

/-! ## How a command ends (R337, R382) -/

theorem JournalOnly.insts {s t : State} (h : JournalOnly s t) : t.insts = s.insts := by rw [h]

section
variable {src : CmdSource} {code ctx inst : Nat} {c : Ctx} {args : List Dword} {j : JRef} {sent : Option Nat} {s s1 u : State} {body : CmdBody}

/-- A command that is accepted and ends at once is COMPLETED, with the launch it made. -/
theorem runCmd_completed (h : CmdPath src code s ctx c args j sent s1) (hb : body ctx c args (j, sent) s1 = { s := u, ok := true, inst := inst }) :
    runCmd code body src s = .next (cmdEnd sent j true inst u) := by
  rw [runCmd_path h, hb]
  cases sent <;> rfl

/-- One that is refused is FAILED with reason 8. -/
theorem runCmd_failed (h : CmdPath src code s ctx c args j sent s1) (hb : body ctx c args (j, sent) s1 = .refused s1) :
    runCmd code body src s = .next (cmdEnd sent j false 0 s1) := by
  rw [runCmd_path h, hb]
  cases sent <;> rfl

/-- A command is performed on a context that is not destroyed. -/
theorem CmdPath.live (h : CmdPath src code s ctx c args j sent s1) : c.state ≠ .destroyed := by
  obtain ⟨-, hlive, -⟩ := h
  exact hlive

/-- The context as the body finds it: it no longer lists the command. -/
theorem CmdPath.ctx_cmds (h : CmdPath src code s ctx c args j sent s1) : ∃ l, s1.ctx? ctx = some { c with cmds := l } := by
  obtain ⟨hc, _, hsrc⟩ := h
  cases src with
  | queued n =>
    obtain ⟨rfl, _, k, rest, _, _, _, _, _, _, rfl⟩ := hsrc
    exact ⟨rest, State.ctx?_modCtx_same hc rfl⟩
  | host fn cx rsv a0 a1 a2 a3 =>
    obtain ⟨_, _, _, _, _, _, _, t, hnew, rfl⟩ := hsrc
    have hj := (journalOnly_jNew s (if fn = 0 then c.home else fn - 1) (jHigh 4 false 15 (cmdQueue code args) 0 Config.deviceId.toNat) 0 0 0).ctxs
    rw [hnew] at hj
    exact ⟨c.cmds, (State.ctx?_of_ctxs ((reports_hcmd ..).ctxs.trans hj) ctx).trans hc⟩

/-- The launches are as they were when the body runs. -/
theorem CmdPath.insts (h : CmdPath src code s ctx c args j sent s1) : s1.insts = s.insts := by
  obtain ⟨_, _, hsrc⟩ := h
  cases src with
  | queued n =>
    obtain ⟨_, _, k, rest, _, _, _, _, _, _, rfl⟩ := hsrc
    rw [State.modCtx_eq]
  | host fn cx rsv a0 a1 a2 a3 =>
    obtain ⟨_, _, _, _, _, _, _, t, hnew, rfl⟩ := hsrc
    have hj := journalOnly_jNew s (if fn = 0 then c.home else fn - 1) (jHigh 4 false 15 (cmdQueue code args) 0 Config.deviceId.toNat) 0 0 0
    rw [hnew] at hj
    rw [State.hcmd_eq]
    exact hj.insts

end

/-! ## Commands that their state allows -/

section
variable {ctx : Nat} {c : Ctx} {args : List Dword} {p : JRef × Option Nat} {s u : State}

/-- REPLAY of a SUSPENDED floe (R381). -/
theorem replayBody_floe {h : Nat} {f : Floe} (hstate : c.state ≠ .faulted) (hlive : c.state ≠ .destroyed) (hact : arg args 1 ≤ 2)
    (hcopy : arg args 2 = 0)
    (hf : Table.search s.floes (fun _ f => f.ctx == ctx && f.inst == arg args 0 % 2 ^ 32 && f.num == arg args 0 / 2 ^ 32) = some (h, f))
    (hsusp : f.state = .suspended) : replayBody ctx c args p s = .done (s.replayFloe h (arg args 1)) := by
  have hgo : ¬ (2 < arg args 1 ∨ 128 < arg args 2 ∨ c.state = .faulted ∨ c.state = .destroyed) := by
    simp [hstate, hlive, hcopy, hact]
  simp only [replayBody]
  rw [if_neg hgo, if_pos hcopy, replayFloeCmd, hf]
  exact if_pos hsusp

/-- SAVE of a RESIDENT context, which has no floe to save (R359). -/
theorem saveBody_resident (hstate : c.state = .resident) : saveBody ctx c args p s = .done (s.modCtx ctx (fun x => { x with state := .saved })) := by
  simp only [saveBody, hstate]

/-- With no tree slot saved, none is bound again. -/
theorem State.restoreSlots_none {x : Ctx} {g : Ctx → Ctx} (hx : s.ctx? ctx = some x) (hg : (g x).state ≠ .free) (hslots : (g x).savedSlots = []) :
    (s.modCtx ctx g).restoreSlots ctx [] = s.modCtx ctx g := by
  have hsame : { g x with savedSlots := [] } = g x := by rw [← hslots]
  rw [State.restoreSlots, State.ctx?_modCtx_live hx hg]
  dsimp only
  rw [hslots, List.foldl_nil, State.modCtx_modCtx hx hg, State.modCtx, hx, State.modCtx, hx]
  exact congrArg (s.setCtx ctx) hsame

/-- RESTORE of a SAVED context with nothing saved (R365, R367). -/
theorem restoreBody_empty {l : List Cmd} {run : CtxState} (hx : s.ctx? ctx = some { c with cmds := l }) (hstate : c.state = .saved)
    (hfloes : ∀ f ∈ Table.vals s.floes, f.ctx = ctx → f.state ≠ .saved) (hcopies : ∀ k ∈ Table.vals s.copies, k.ctx = ctx → k.savedIn = false)
    (hslots : c.savedSlots = []) (hrun : run = if (s.instsOf ctx).isEmpty then .resident else .running) :
    restoreBody ctx c args p s = .done (s.modCtx ctx (fun x => { x with state := run })) := by
  have hnofloe : Table.keep s.floes (fun _ f => f.ctx == ctx && f.state == .saved) = [] :=
    Table.keep_nil fun _ f hf => by simpa using hfloes f hf
  have hnocopy : Table.keep s.copies (fun _ k => k.ctx == ctx && k.savedIn) = [] :=
    Table.keep_nil fun _ k hk => by simpa using hcopies k hk
  have hlive : run ≠ .free := by
    rw [hrun]
    split <;> exact CtxState.noConfusion
  have hleft : Table.keep (s.modCtx ctx (fun x => { x with state := run })).copies (fun _ k => k.ctx == ctx && k.savedIn) = [] := by
    rw [State.modCtx_eq]
    exact hnocopy
  simp only [restoreBody, hnofloe, hslots, ← hrun]
  rw [if_neg (not_not.2 hstate)]
  simp only [Table.keys, List.map_nil, restoreEach, List.filter_nil, hleft, List.foldl_nil]
  rw [State.restoreSlots_none hx hlive hslots]

/-- KLOAD of an image that is read and verified (R314). -/
theorem kloadBody_image {x : Kernel} (hk : arg args 1 < 4096) (hst : (s.kernel ctx (arg args 1)).st = .unloaded)
    (hx : readImage s c ctx (args.getD 0 0) = some x) : kloadBody ctx c args p s = .done (s.setKernel ctx (arg args 1) x) := by
  simp only [kloadBody]
  rw [if_neg (by simp [hst, hk]), hx]

theorem records_eq (n k : Nat) (bs : List Byte) : records n k bs = (List.range k).map (fun m => natOf ((bs.drop (n * m)).take n)) := by
  induction k generalizing bs with
  | zero => rfl
  | succ k ih =>
    rw [records, ih, List.range_succ_eq_map, List.map_cons, List.map_map]
    simp [Function.comp_def, Nat.mul_succ, Nat.add_comm]

/-- What KPLACE makes of an entry of its list: a core of the context's partitions, by its logical number, and the base of its code (R315). -/
def placeEntry (s : State) (c : Ctx) (v : Nat) : Option (Nat × Dword) :=
  if field v 10 54 ≠ 0 ∨ field v 64 64 % 8 ≠ 0 then none
  else (logicalOf s (field v 0 10)).bind (fun l => if coreValid l && c.parts.contains (partOf l) then some (l, BitVec.ofNat 64 (field v 64 64)) else none)

theorem placeEntry_some {v : Nat} {e : Nat × Dword} (hrsv : field v 10 54 = 0) (halign : field v 64 64 % 8 = 0)
    (hcore : logicalOf s (field v 0 10) = some e.1) (hvalid : coreValid e.1 = true) (hpart : c.parts.contains (partOf e.1) = true)
    (hbase : e.2 = BitVec.ofNat 64 (field v 64 64)) : placeEntry s c v = some e := by
  rw [placeEntry, if_neg (by simp [hrsv, halign]), hcore, Option.bind_some, hvalid, hpart, ← hbase]
  rfl

/-- KPLACE of a list whose entries are cores of the context, each once (R315). -/
theorem kplaceBody_entries {bs : List Byte} {es : List (Nat × Dword)} (hk : arg args 1 < 4096) (hst : (s.kernel ctx (arg args 1)).st = .loaded)
    (hn : arg args 2 ≤ 768) (hread : readVirt s (partCore c.home) ctx (coreSecure s (partCore c.home)) (args.getD 0 0) (16 * arg args 2) = .ok bs)
    (hall : allSome ((records 16 (arg args 2) bs).map (placeEntry s c)) = some es) (hnodup : (es.map Prod.fst).Nodup) :
    kplaceBody ctx c args p s = .done (s.setKernel ctx (arg args 1) { s.kernel ctx (arg args 1) with
      st := .placed, prev := .placed, place := es.foldl (fun t x => Table.insert t x.1 x.2) [] }) := by
  simp only [kplaceBody]
  rw [if_neg (by simp [hst, hk, hn]), hread]
  dsimp only
  split
  · next h => cases hall.symm.trans h
  · next h =>
    obtain rfl := Option.some.inj (hall.symm.trans h)
    rw [if_pos (by simpa using hnodup)]

/-- KBIND to a queue of the context (R315). -/
theorem kbindBody_queue {q : Nat} (hk : arg args 0 < 4096) (hst : (s.kernel ctx (arg args 0)).st = .placed)
    (hq : cmdQueueKey c (arg args 1) = some q) : kbindBody ctx c args p s
      = .done (s.setKernel ctx (arg args 0) { s.kernel ctx (arg args 0) with st := .bound, prev := .bound, queue := some q }) := by
  simp only [kbindBody]
  rw [if_neg (by simp [hst, hk]), hq]

theorem kunbindBody_bound (hk : arg args 0 < 4096) (hst : (s.kernel ctx (arg args 0)).st = .bound) : kunbindBody ctx c args p s
    = .done (s.setKernel ctx (arg args 0) { s.kernel ctx (arg args 0) with st := .placed, prev := .placed, queue := none }) := by
  simp only [kunbindBody]
  rw [if_neg (by simp [hst, hk])]

/-- KUNLOAD of a kernel that runs lets it drain. -/
theorem kunloadBody_active (hk : arg args 0 < 4096) (hst : (s.kernel ctx (arg args 0)).st = .active) : kunloadBody ctx c args p s
    = .done (s.setKernel ctx (arg args 0) { s.kernel ctx (arg args 0) with st := .draining }) := by
  simp only [kunloadBody]
  rw [if_neg (Nat.not_le.2 hk), hst]

theorem kunloadBody_idle (hk : arg args 0 < 4096) (hst : (s.kernel ctx (arg args 0)).st ∈ [.loaded, .placed, .bound]) :
    kunloadBody ctx c args p s = .done (s.setKernel ctx (arg args 0) Kernel.empty) := by
  simp only [List.mem_cons, List.not_mem_nil, or_false] at hst
  simp only [kunloadBody]
  rw [if_neg (Nat.not_le.2 hk)]
  rcases hst with hst | hst | hst <;> rw [hst]

/-- QENABLE of a queue that is not enabled, from its descriptor (R326). -/
theorem qenableBody_queue {key : Nat} {bs : List Byte} {q : Queue} (hkey : cmdQueueKey c (arg args 0) = some key)
    (hoff : ∀ q, s.queue? key = some q → q.enabled = false) (hbase : (s.part (key / 4096)).qtBase ≠ 0)
    (hread : readVirt s (partCore (key / 4096)) ctx (queueSecure s key) ((s.part (key / 4096)).qtBase + BitVec.ofNat 64 (64 * (key % 4096))) 64 = .ok bs)
    (hq : parseQueue s ctx key (natOf bs) = some q) : qenableBody ctx c args p s = .done { s.unlistQueue key with
      nextId := s.nextId + 1
      queues := Table.insert s.queues key { q with
        epoch := s.nextId
        insts := (Table.keep s.insts (fun k x => k / 2 ^ 32 == ctx && (match x.queue with | some r => r.key == key | none => false))).length } } := by
  have henabled : (match s.queue? key with | some q => q.enabled | none => false) = false := by
    split
    · next q hq => exact hoff q hq
    · rfl
  simp only [qenableBody, hkey]
  rw [if_neg (by rintro (h | h); exacts [Bool.false_ne_true (henabled.symm.trans h), hbase h]), hread]
  dsimp only
  rw [hq]
  rfl

theorem qdisableBody_queue {key : Nat} (hkey : cmdQueueKey c (arg args 0) = some key) :
    qdisableBody ctx c args p s = .done ((s.unlistQueue key).modQueue key (fun q => { q with enabled := false })) := by
  simp only [qdisableBody, hkey]

theorem killBody_inst (hlt : arg args 0 < 2 ^ 32) (hi : (s.inst? ctx (arg args 0)).isSome = true) :
    killBody ctx c args p s = .done (s.killInst ctx (arg args 0)) := if_pos ⟨hlt, hi⟩

theorem unhaltBody_halted (hcore : coreValid (arg args 0) = true) (hpart : c.parts.contains (partOf (arg args 0)) = true)
    (hhalt : (s.core (arg args 0)).halted = true) : unhaltBody ctx c args p s = .done (s.wakeCore (arg args 0)) := if_pos ⟨hcore, hpart, hhalt⟩

/-- The states in which SETSR may write (R383). -/
def Ctx.maySet (c : Ctx) : Bool := match c.state with | .loading => true | .resident => true | .running => true | .saved => true | _ => false

theorem Ctx.maySet_iff : c.maySet = true ↔ c.state ∈ [.loading, .resident, .running, .saved] := by
  unfold Ctx.maySet
  cases c.state <;> decide

/-- The register that a SETSR names as it stands after the write; none where the name or the value is refused. -/
def setsrWrite (s : State) (ctx : Nat) (c : Ctx) (n part v : Nat) : Option State :=
  if setsrPart n then (if c.parts.contains part then writePart s part n v else none)
  else if setsrCtx n then writeCtx s ctx n v else none

/-- SETSR of a register that it may name (R383). -/
theorem setsrBody_writes (hstate : c.state ∈ [.loading, .resident, .running, .saved]) (hpart : arg args 1 / 256 < 16)
    (hwide : srIsLo (arg args 1 % 256) = true ∨ arg args 2 < 2 ^ 32)
    (hwrite : setsrWrite s ctx c (arg args 1 % 256) (arg args 1 / 256) (arg args 2) = some u) : setsrBody ctx c args p s = .done u := by
  have hgo : ¬ ((!c.maySet) = true ∨ 16 ≤ arg args 1 / 256 ∨ (!srIsLo (arg args 1 % 256)) = true ∧ 2 ^ 32 ≤ arg args 2) := by
    rw [Ctx.maySet_iff.2 hstate]
    rintro (h | h | ⟨hlo, hv⟩)
    · exact Bool.false_ne_true h
    · exact absurd h (Nat.not_le.2 hpart)
    · rcases hwide with hw | hw
      · simp [hw] at hlo
      · exact absurd hv (Nat.not_le.2 hw)
  have hval : (if (!c.maySet) = true ∨ 16 ≤ arg args 1 / 256 ∨ (!srIsLo (arg args 1 % 256)) = true ∧ 2 ^ 32 ≤ arg args 2 then none
      else setsrWrite s ctx c (arg args 1 % 256) (arg args 1 / 256) (arg args 2)) = some u := (if_neg hgo).trans hwrite
  simp only [setsrBody]
  split
  · next h => rw [Option.some.inj (hval.symm.trans h)]
  · next h => cases hval.symm.trans h

/-- HLAUNCH of a descriptor that is in order (R383). -/
theorem hlaunchBody_launches {inst : Nat} {bs : List Byte} (hstate : c.state ∈ [.resident, .running]) (hdie : arg args 2 < 4)
    (hpart : ∃ q ∈ c.parts, q / 3 = arg args 2) (halign : arg args 1 % 64 = 0) (hfirn : inFirn (args.getD 1 0) = false)
    (hread : readVirt s (engineCore s ctx (arg args 2)) ctx (coreSecure s (engineCore s ctx (arg args 2))) (args.getD 1 0) 64 = .ok bs)
    (hok : launchOk (s.kernel ctx (field (natOf bs) 0 12)) (natOf bs) = true)
    (hnew : s.createInst ctx (launchReq (natOf bs) (arg args 2) hostSource) = (u, 0, inst)) :
    hlaunchBody ctx c args p s = { s := u, ok := true, inst := inst } := by
  have hgo : ¬ ((!(c.state == .resident || c.state == .running)) = true ∨ 4 ≤ arg args 2 ∨ (!c.parts.any (fun q => q / 3 == arg args 2)) = true
      ∨ (args.getD 1 0).toNat % 64 ≠ 0 ∨ inFirn (args.getD 1 0) = true) := by
    have hmay : (c.state == .resident || c.state == .running) = true := by simpa using hstate
    have hany : c.parts.any (fun q => q / 3 == arg args 2) = true := by simpa using hpart
    have halign' : (args.getD 1 0).toNat % 64 = 0 := halign
    rw [hmay, hany, halign', hfirn]
    simpa using hdie
  simp only [hlaunchBody]
  rw [if_neg hgo, hread]
  dsimp only
  rw [if_neg (by simp [hok]), hnew]
  rfl

end

/-! ## Commands that their state does not allow (R315, R381) -/

section
variable {ctx : Nat} {c : Ctx} {args : List Dword} {p : JRef × Option Nat} {s : State}

theorem replayBody_refused (h : 2 < arg args 1 ∨ 128 < arg args 2 ∨ c.state = .faulted) : replayBody ctx c args p s = .refused s :=
  if_pos (h.imp_right (Or.imp_right .inl))

theorem rekeyBody_refused (h : c.state ∉ [.running, .resident]) : rekeyBody ctx c args p s = .refused s := by
  have hmay : (c.state == .running || c.state == .resident) = false := by simpa using h
  simp only [rekeyBody, hmay]
  exact if_pos (.inl rfl)

theorem saveBody_refused (h : c.state ∉ [.running, .resident]) : saveBody ctx c args p s = .refused s := by
  unfold saveBody
  split
  · next hs => simp [hs] at h
  · next hs => simp [hs] at h
  · rfl

theorem restoreBody_refused (h : c.state ≠ .saved) : restoreBody ctx c args p s = .refused s := if_pos h

theorem migrateBody_refused (h : c.state ≠ .running) : migrateBody ctx c args p s = .refused s := if_pos (.inl h)

theorem kloadBody_refused (h : 4096 ≤ arg args 1 ∨ (s.kernel ctx (arg args 1)).st ≠ .unloaded) : kloadBody ctx c args p s = .refused s := if_pos h

theorem kplaceBody_refused (h : 4096 ≤ arg args 1 ∨ (s.kernel ctx (arg args 1)).st ≠ .loaded) : kplaceBody ctx c args p s = .refused s :=
  if_pos (h.imp_right .inl)

theorem kbindBody_refused (h : 4096 ≤ arg args 0 ∨ (s.kernel ctx (arg args 0)).st ≠ .placed) : kbindBody ctx c args p s = .refused s := if_pos h

theorem kunbindBody_refused (h : 4096 ≤ arg args 0 ∨ (s.kernel ctx (arg args 0)).st ≠ .bound) : kunbindBody ctx c args p s = .refused s := if_pos h

theorem kunloadBody_refused (h : 4096 ≤ arg args 0 ∨ (s.kernel ctx (arg args 0)).st ∈ [.unloaded, .draining]) :
    kunloadBody ctx c args p s = .refused s := by
  simp only [kunloadBody]
  split
  · rfl
  · next hk =>
    have hst := h.resolve_left hk
    simp only [List.mem_cons, List.not_mem_nil, or_false] at hst
    rcases hst with hst | hst <;> rw [hst]

theorem qenableBody_enabled {key : Nat} {q : Queue} (hkey : cmdQueueKey c (arg args 0) = some key) (hq : s.queue? key = some q)
    (hon : q.enabled = true) : qenableBody ctx c args p s = .refused s := by
  simp only [qenableBody, hkey, hq]
  exact if_pos (.inl hon)

theorem qenableBody_unnamed (h : cmdQueueKey c (arg args 0) = none) : qenableBody ctx c args p s = .refused s := by
  simp only [qenableBody, h]

theorem qdisableBody_unnamed (h : cmdQueueKey c (arg args 0) = none) : qdisableBody ctx c args p s = .refused s := by
  simp only [qdisableBody, h]

theorem killBody_refused (h : 2 ^ 32 ≤ arg args 0 ∨ s.inst? ctx (arg args 0) = none) : killBody ctx c args p s = .refused s := by
  refine if_neg ?_
  rintro ⟨hlt, hi⟩
  rcases h with h | h
  · exact absurd hlt (Nat.not_lt.2 h)
  · simp [h] at hi

theorem unhaltBody_refused (h : coreValid (arg args 0) = false ∨ (s.core (arg args 0)).halted = false) : unhaltBody ctx c args p s = .refused s := by
  refine if_neg ?_
  rintro ⟨hcore, -, hhalt⟩
  rcases h with h | h
  · exact Bool.false_ne_true (h.symm.trans hcore)
  · exact Bool.false_ne_true (h.symm.trans hhalt)

theorem setsrBody_refused (h : c.state ∉ [.loading, .resident, .running, .saved] ∨ 16 ≤ arg args 1 / 256
    ∨ srIsLo (arg args 1 % 256) = false ∧ 2 ^ 32 ≤ arg args 2) : setsrBody ctx c args p s = .refused s := by
  have hgo : (!c.maySet) = true ∨ 16 ≤ arg args 1 / 256 ∨ (!srIsLo (arg args 1 % 256)) = true ∧ 2 ^ 32 ≤ arg args 2 := by
    rcases h with h | h | ⟨hlo, hv⟩
    · exact .inl (by simpa using mt Ctx.maySet_iff.1 h)
    · exact .inr (.inl h)
    · exact .inr (.inr ⟨by simp [hlo], hv⟩)
  have hval : (if (!c.maySet) = true ∨ 16 ≤ arg args 1 / 256 ∨ (!srIsLo (arg args 1 % 256)) = true ∧ 2 ^ 32 ≤ arg args 2 then none
      else setsrWrite s ctx c (arg args 1 % 256) (arg args 1 / 256) (arg args 2)) = none := if_pos hgo
  simp only [setsrBody]
  split
  · next h => cases hval.symm.trans h
  · rfl

theorem hlaunchBody_refused (h : c.state ∉ [.resident, .running] ∨ 4 ≤ arg args 2) : hlaunchBody ctx c args p s = .refused s := by
  refine if_pos (h.imp (fun hs => ?_) .inl)
  have hmay : (c.state == .resident || c.state == .running) = false := by simpa using hs
  rw [hmay]
  rfl

end

/-! ## A host command that waits (R380, R381) -/

/-- Every command runs its own body under its own code. -/
theorem exec_cmdCodes {i : Instr} {code : Nat} {src : CmdSource} (h : (i, code) ∈ cmdCodes src) (s : State) :
    ∃ body, exec i s = runCmd code body src s := by
  unfold cmdCodes at h
  fin_cases h <;> exact ⟨_, rfl⟩

/-- A host command to a context that is busy, or has commands waiting, joins those, its entry in the journal. -/
theorem runHost_waits {code fn cx ctx : Nat} {args : List Dword} {c : Ctx} {j : JRef} {s t : State} (body : CmdBody) (hfn : fn ≤ 12)
    (hboot : s.life.boot = .ready) (htarget : hostTarget s code fn cx args = some ctx) (hc : s.ctx? ctx = some c) (hcode : code ≠ 0x11)
    (hwait : c.busy = true ∨ c.cmds ≠ [])
    (hnew : s.jNew (if fn = 0 then c.home else fn - 1) (jHigh 4 false 15 (cmdQueue code args) 0 Config.deviceId.toNat) 0 0 = (t, j)) :
    runHost code fn cx false args body s
      = (t.hcmd fn 0 0 0 j.seq).modCtx ctx (fun x => { x with cmds := x.cmds ++ [⟨code, args, j, [], some fn⟩] }) := by
  have hgo : ¬ (12 < fn ∨ s.life.boot ≠ .ready) := by simp [hboot, hfn]
  simp only [runHost, Bool.false_eq_true, if_false, htarget, hc]
  rw [if_neg hgo, hnew]
  exact if_pos ⟨hcode, hwait⟩

/-! ## O53 -/

/-- Settles O53: each command by what its body comes to, accepted or refused, and the host's commands that wait. -/
theorem commandsPerformedOrRefused : Obligations.CommandsPerformedOrRefused := by
  unfold Obligations.CommandsPerformedOrRefused
  refine ⟨?performed, ?refused, ?waits⟩
  case performed =>
    rintro i src code ctx inst c args j sent s s1 u hpath
      (⟨rfl, rfl, hstate, rfl, hact, hcopy, h, f, hf, hsusp, rfl⟩ | ⟨rfl, rfl, hstate, rfl, rfl⟩ |
        ⟨rfl, rfl, hstate, rfl, hfloes, hcopies, hslots, rfl⟩ | ⟨rfl, rfl, rfl, hk, hst, x, hx, rfl⟩ |
        ⟨rfl, rfl, rfl, hk, hst, hn, bs, es, hread, hlen, hnodup, hall, rfl⟩ | ⟨rfl, rfl, rfl, hk, hst, q, hq, rfl⟩ | ⟨rfl, rfl, rfl, hk, hst, rfl⟩ |
        ⟨rfl, rfl, rfl, hk, ⟨hst, rfl⟩ | ⟨hst, rfl⟩⟩ | ⟨rfl, rfl, rfl, key, bs, q, hkey, hoff, hbase, hread, hq, rfl⟩ | ⟨rfl, rfl, rfl, key, hkey, rfl⟩ |
        ⟨rfl, rfl, rfl, hlt, hi, rfl⟩ | ⟨rfl, rfl, rfl, hcore, hpart, hhalt, rfl⟩ |
        ⟨rfl, rfl, rfl, hstate, hpart, hwide, ⟨hsr, hmine, hwrite⟩ | ⟨hnot, hsr, hwrite⟩⟩ |
        ⟨rfl, rfl, hstate, hdie, hparts, halign, hfirn, bs, hread, hok, hnew⟩)
    · exact runCmd_completed hpath (replayBody_floe hstate hpath.live hact hcopy hf hsusp)
    · exact runCmd_completed hpath (saveBody_resident hstate)
    · obtain ⟨l, hl⟩ := hpath.ctx_cmds
      refine runCmd_completed hpath (restoreBody_empty hl hstate hfloes hcopies hslots ?_)
      rw [State.instsOf, State.instsOf, hpath.insts]
    · exact runCmd_completed hpath (kloadBody_image hk hst hx)
    · have hes : allSome ((records 16 (arg args 2) bs).map (placeEntry s1 c)) = some es := by
        rw [records_eq, List.map_map]
        refine allSome_range hlen fun m hm => ?_
        obtain ⟨hrsv, halign, hlogical, hvalid, hmine, hbase⟩ := hall m hm
        exact placeEntry_some hrsv halign hlogical hvalid hmine hbase
      exact runCmd_completed hpath (kplaceBody_entries hk hst hn hread hes hnodup)
    · exact runCmd_completed hpath (kbindBody_queue hk hst hq)
    · exact runCmd_completed hpath (kunbindBody_bound hk hst)
    · exact runCmd_completed hpath (kunloadBody_active hk hst)
    · exact runCmd_completed hpath (kunloadBody_idle hk hst)
    · exact runCmd_completed hpath (qenableBody_queue hkey hoff hbase hread hq)
    · exact runCmd_completed hpath (qdisableBody_queue hkey)
    · exact runCmd_completed hpath (killBody_inst hlt hi)
    · exact runCmd_completed hpath (unhaltBody_halted hcore hpart hhalt)
    · exact runCmd_completed hpath (setsrBody_writes hstate hpart hwide ((if_pos hsr).trans ((if_pos hmine).trans hwrite)))
    · exact runCmd_completed hpath (setsrBody_writes hstate hpart hwide ((if_neg (by simp [hnot])).trans ((if_pos hsr).trans hwrite)))
    · exact runCmd_completed hpath (hlaunchBody_launches hstate hdie hparts halign hfirn hread hok hnew)
  case refused =>
    rintro i src code ctx c args j sent s s1 hpath
      (⟨rfl, rfl, h⟩ | ⟨rfl, rfl, h⟩ | ⟨rfl, rfl, h⟩ | ⟨rfl, rfl, h⟩ | ⟨rfl, rfl, h⟩ | ⟨rfl, rfl, h⟩ | ⟨rfl, rfl, h⟩ | ⟨rfl, rfl, h⟩ | ⟨rfl, rfl, h⟩ |
        ⟨rfl, rfl, key, q, hkey, hq, hon⟩ | ⟨rfl, rfl, h⟩ | ⟨⟨rfl, rfl⟩ | ⟨rfl, rfl⟩, h⟩ | ⟨⟨rfl, rfl⟩ | ⟨rfl, rfl⟩ | ⟨rfl, rfl⟩, h⟩ |
        ⟨⟨rfl, rfl⟩ | ⟨rfl, rfl⟩, h⟩ | ⟨rfl, rfl, h⟩ | ⟨rfl, rfl, h⟩ | ⟨rfl, rfl, h⟩ | ⟨rfl, rfl, h⟩)
    · exact runCmd_failed hpath (rekeyBody_refused h)
    · exact runCmd_failed hpath (saveBody_refused h)
    · exact runCmd_failed hpath (restoreBody_refused h)
    · exact runCmd_failed hpath (migrateBody_refused h)
    · exact runCmd_failed hpath (kloadBody_refused (.inr h))
    · exact runCmd_failed hpath (kplaceBody_refused (.inr h))
    · exact runCmd_failed hpath (kbindBody_refused (.inr h))
    · exact runCmd_failed hpath (kunbindBody_refused (.inr h))
    · exact runCmd_failed hpath (kunloadBody_refused (.inr h))
    · exact runCmd_failed hpath (qenableBody_enabled hkey hq hon)
    · exact runCmd_failed hpath (replayBody_refused h)
    · exact runCmd_failed hpath (kloadBody_refused (.inl h))
    · exact runCmd_failed hpath (kplaceBody_refused (.inl h))
    · exact runCmd_failed hpath (kbindBody_refused (.inl h))
    · exact runCmd_failed hpath (kunbindBody_refused (.inl h))
    · exact runCmd_failed hpath (kunloadBody_refused (.inl h))
    · exact runCmd_failed hpath (qenableBody_unnamed h)
    · exact runCmd_failed hpath (qdisableBody_unnamed h)
    · exact runCmd_failed hpath (killBody_refused h)
    · exact runCmd_failed hpath (unhaltBody_refused h)
    · exact runCmd_failed hpath (setsrBody_refused h)
    · exact runCmd_failed hpath (hlaunchBody_refused h)
  case waits =>
    intro i code fn cx ctx a0 a1 a2 a3 c j s t hi hfn hboot htarget hc hcode hwait hnew
    obtain ⟨body, hrun⟩ := exec_cmdCodes hi s
    exact hrun.trans (congrArg _ (runHost_waits body hfn hboot htarget hc hcode hwait hnew))

end Sys2Proof.Machine
end

section
/-! SUPPORT. A uniform register written, the operations sent to a context's event table, and what the table's signals, waits and clears leave of the rest
(R115, R174, R321, R322, R324). -/

namespace Sys2Proof.Machine

/-! ## One register written for the floe (R37, R114) -/

theorem State.rdReg_wrReg_at (s : State) (f : Floe) (r : Reg) (l : Nat) (w : FirnWord) : (s.wrReg f r l w).rdReg f r l = w := by
  simp only [State.rdReg, State.wrReg]
  split <;> simp [State.firnAt_setFirn]

theorem State.rdReg_wrReg_mirror (s : State) {f : Floe} {r : Reg} {l : Nat} (w : FirnWord) (hu : r.uni = false) (hfull : f.dmr = .full) (hl : l < 16) :
    (s.wrReg f r l w).rdReg f r (l + 16) = w := by
  simp only [State.rdReg, State.wrReg]
  rw [if_pos ⟨hu, hfull, hl⟩, State.firnAt_setFirn, if_pos rfl]

/-- One register written in lane 0 is D written with that word, wherever the register lies. -/
theorem wrReg_wrote (s : State) (f : Floe) (r : Reg) (w : FirnWord) : Wrote f [r] [(0, some [w])] s (s.wrReg f r 0 w) where
  value := fun l ws hm k hk => by
    obtain ⟨rfl, hws⟩ := Prod.mk.inj (List.mem_singleton.1 hm)
    obtain rfl := Option.some.inj hws
    obtain rfl : k = 0 := by simpa using hk
    exact State.rdReg_wrReg_at s f r 0 w
  invalid := fun l hm => by simp at hm
  kept := fun l hm => by simp at hm
  mirror := fun hfull p hp hlt _ q hq hu => by
    obtain rfl := List.mem_singleton.1 hp
    obtain rfl := List.mem_singleton.1 hq
    exact (State.rdReg_wrReg_mirror s w hu hfull hlt).trans (State.rdReg_wrReg_at s f q 0 w).symm
  frame := fun k hk => getD_wrReg s f r 0 k w hk

/-- With no register nothing is written. -/
theorem wrote_nothing (s : State) (f : Floe) (rs : List (Nat × Option (List FirnWord))) : Wrote f [] rs s s where
  value := fun _ _ _ k hk => absurd hk (Nat.not_lt_zero k)
  invalid := fun _ _ _ hr => absurd hr List.not_mem_nil
  kept := fun _ _ _ _ hr => absurd hr List.not_mem_nil
  mirror := fun _ _ _ _ _ _ hr => absurd hr List.not_mem_nil
  frame := fun _ _ => rfl

theorem codeRegs_one (d : Code) : codeRegs d 1 = [] ∨ ∃ r, codeRegs d 1 = [r] := by
  unfold codeRegs
  split
  · exact .inr ⟨_, rfl⟩
  · split
    · exact .inr ⟨_, rfl⟩
    · exact .inl rfl

/-- A count written for the floe (R322). -/
theorem writeUni_wrote (f : Floe) (d : Code) (n : Nat) (s : State) :
    Wrote f (codeRegs d 1) [(0, some (wordsOf 1 n))] s (writeUni f (codeRegs d 1) (some n) s) := by
  have hword : wordsOf 1 n = [⟨BitVec.ofNat 32 n, true⟩] := by simp [wordsOf]
  rcases codeRegs_one d with hd | ⟨r, hd⟩
  · rw [hd]
    exact wrote_nothing s f _
  · rw [hd, hword]
    exact wrReg_wrote s f r _

theorem writeUni_putLanes (f : Floe) (regs : List Reg) (n : Nat) (s : State) :
    writeUni f regs (some n) s = putLanes f regs [(0, some (wordsOf regs.length n))] s :=
  writeLanes_putLanes f regs [(0, some n)] s

theorem writeUni_rest (f : Floe) (regs : List Reg) (n : Nat) (s : State) :
    writeUni f regs (some n) s = { s with firn := (writeUni f regs (some n) s).firn } := by
  rw [writeUni_putLanes]
  exact putLanes_rest ..

/-! ## A wait satisfied (R322) -/

section
variable {s : State} {h : Nat} {f : Floe} {d : Code} {a b : Nat} {m : Mask}

theorem State.eventMet_waiting (hf : s.floe? h = some f) (hstate : f.state = .waiting) (hwait : f.wait = some (.event a b d m)) (n : Nat) :
    s.eventMet h n = ((writeUni f (codeRegs d 1) (some n) s).acquire f.core 7).modFloe h (fun g => (g.evReturned d).resume (s.mck f.core)) := by
  simp only [State.eventMet, hf, hwait, hstate]

/-- A WAITING floe whose wait is satisfied has the count in D and is READY. -/
theorem eventMet_satisfied (hf : s.floe? h = some f) (hstate : f.state = .waiting) (hwait : f.wait = some (.event a b d m)) (n : Nat) :
    (s.eventMet h n).floe? h = some ((f.evReturned d).resume (s.mck f.core)) ∧ OtherFloes h s (s.eventMet h n)
      ∧ Wrote f (codeRegs d 1) [(0, some (wordsOf 1 n))] s (s.eventMet h n)
      ∧ s.eventMet h n = { s with firn := (s.eventMet h n).firn, cores := (s.eventMet h n).cores, floes := (s.eventMet h n).floes } := by
  have hfirn : (s.eventMet h n).firn = (writeUni f (codeRegs d 1) (some n) s).firn := by
    rw [State.eventMet_waiting hf hstate hwait, State.modFloe_eq, State.acquire_eq]
  refine ⟨?_, ?_, (writeUni_wrote f d n s).of_firn rfl hfirn, ?_⟩
  · rw [State.eventMet_waiting hf hstate hwait, State.floe?_modFloe_same, State.acquire_eq, writeUni_rest]
    exact congrArg (Option.map _) hf
  · rw [State.eventMet_waiting hf hstate hwait, State.acquire_eq, writeUni_rest]
    exact otherFloes_modFloe (fun _ _ => rfl) _
  · rw [State.eventMet_waiting hf hstate hwait, State.modFloe_eq, State.acquire_eq, writeUni_rest]

end

/-! ## Waiters woken (R322) -/

/-- From `s` to `t` nothing differs but what a waiter is: its floe with registers and core, a launch, a queue. -/
def Wakes (s t : State) : Prop := t = { s with firn := t.firn, cores := t.cores, floes := t.floes, insts := t.insts, queues := t.queues }

namespace Wakes

theorem refl (s : State) : Wakes s s := rfl

section
variable {s t u : State}

theorem trans (h : Wakes s t) (k : Wakes t u) : Wakes s u := by rw [Wakes, k, h]

theorem foldl {α : Type} {g : State → α → State} (h : ∀ s a, Wakes s (g s a)) (l : List α) (s : State) : Wakes s (l.foldl g s) :=
  List.foldlRecOn l g (motive := Wakes s) (refl s) fun t ht a _ => ht.trans (h t a)

theorem events (h : Wakes s t) : t.events = s.events := by rw [h]
theorem ctxs (h : Wakes s t) : t.ctxs = s.ctxs := by rw [h]

end

end Wakes

theorem wakes_modFloe (s : State) (h : Nat) (g : Floe → Floe) : Wakes s (s.modFloe h g) := by rw [State.modFloe_eq, Wakes]

theorem wakes_writeUni (f : Floe) (regs : List Reg) (n : Nat) (s : State) : Wakes s (writeUni f regs (some n) s) := by rw [writeUni_rest, Wakes]

theorem wakes_eventMet (s : State) (h n : Nat) : Wakes s (s.eventMet h n) := by
  have hacquire (t : State) (c k : Nat) : Wakes t (t.acquire c k) := by rw [State.acquire_eq, Wakes]
  unfold State.eventMet
  split
  · exact .refl s
  · split
    · split
      · exact ((wakes_writeUni ..).trans (hacquire ..)).trans (wakes_modFloe ..)
      · exact wakes_modFloe ..
      · exact (wakes_writeUni ..).trans (wakes_modFloe ..)
      · exact (wakes_writeUni ..).trans (wakes_modFloe ..)
      · exact .refl s
    · exact .refl s

theorem wakes_wake (ctx n : Nat) (s : State) (w : Waiter) : Wakes s (State.wake ctx n s w) := by
  cases w with
  | floe h _ => exact wakes_eventMet s h n
  | launch i _ =>
    rw [State.wake, State.modInst_eq, Wakes]
  | queue q _ =>
    simp only [State.wake, State.modQueue]
    split <;> rfl

@[simp] theorem State.event_setEvent_same (s : State) (ctx n : Nat) (x : Event) : (s.setEvent ctx n x).event ctx n = x := by
  simp [State.event, State.setEvent]

/-- An event is read off the events alone. -/
theorem State.event_of_events {s t : State} (h : t.events = s.events) (ctx n : Nat) : t.event ctx n = s.event ctx n := by
  rw [State.event, State.event, h]

/-- The count after a signal of `a`, which never passes 2^32 − 1 (R322). -/
def Event.signalled (ev : Event) (a : Nat) : Nat := min (ev.count + a) 0xFFFFFFFF

/-- The event after a signal: the waiters whose threshold the count has reached have left its list. -/
def Event.afterSignal (ev : Event) (a : Nat) : Event := ⟨ev.signalled a, ev.waiters.filter (fun w => decide (ev.signalled a < w.thr))⟩

/-- A signal changes its event and what its waiters are. -/
theorem wakes_signalNow (s : State) (ctx name a : Nat) :
    Wakes (s.setEvent ctx name ((s.event ctx name).afterSignal a)) (s.signalNow ctx name a) :=
  .foldl (wakes_wake ctx _) _ _

theorem State.signalNow_event (s : State) (ctx name a : Nat) : (s.signalNow ctx name a).event ctx name = (s.event ctx name).afterSignal a := by
  rw [State.event_of_events (wakes_signalNow s ctx name a).events, State.event_setEvent_same]

theorem State.signalNow_ctxs (s : State) (ctx name a : Nat) : (s.signalNow ctx name a).ctxs = s.ctxs := (wakes_signalNow s ctx name a).ctxs

/-- A signal that meets the threshold of an event's one waiter, a floe, satisfies it. -/
theorem State.signalNow_floe {s : State} {ctx name a h thr : Nat} (hw : (s.event ctx name).waiters = [.floe h thr])
    (hthr : thr ≤ (s.event ctx name).signalled a) : s.signalNow ctx name a
      = (s.setEvent ctx name ((s.event ctx name).afterSignal a)).eventMet h ((s.event ctx name).signalled a) := by
  have hmet : (s.event ctx name).waiters.filter (fun w => decide (w.thr ≤ (s.event ctx name).signalled a)) = [.floe h thr] := by
    rw [hw]
    simp [Waiter.thr, hthr]
  exact congrArg (fun l => List.foldl (State.wake ctx _) _ l) hmet

/-! ## An operation taken from the table (R322, R324) -/

section
variable {s : State} {ctx : Nat} {o : EvOp} {x : Ctx}

theorem State.dropEv_eq (s : State) (ctx : Nat) (o : EvOp) : s.dropEv ctx o = { s with ctxs := (s.dropEv ctx o).ctxs } := State.modCtx_eq ..

theorem State.ctx?_dropEv (hx : s.ctx? ctx = some x) : (s.dropEv ctx o).ctx? ctx = some { x with evOps := x.evOps.erase o } :=
  State.ctx?_modCtx_same hx rfl

/-- The end of an EVSIG or EVCLR changes operations and floes alone. -/
theorem State.evOpEnds_eq (s : State) (o : EvOp) (vals : List Nat) :
    s.evOpEnds o vals = { s with ops := (s.evOpEnds o vals).ops, floes := (s.evOpEnds o vals).floes } := by
  unfold State.evOpEnds
  split
  · rfl
  · split
    · rfl
    · split
      · rw [State.endOp_eq]
      · rw [State.modOp_rest]

theorem State.evOpEnds_none (ho : o.op = none) (vals : List Nat) : s.evOpEnds o vals = s := by rw [State.evOpEnds, ho]

/-- One that counts in st is gone; one with a D has its answer. -/
theorem State.evOpEnds_op {id : Nat} {p : Op} (ho : o.op = some id) (hp : Table.find? s.ops id = some p) (vals : List Nat) :
    if p.isSt then Table.find? (s.evOpEnds o vals).ops id = none
    else Table.find? (s.evOpEnds o vals).ops id = some { p with state := .performed, vals := vals } := by
  simp only [State.evOpEnds, ho, hp]
  split
  · rw [State.endOp_ops, Table.find?_erase, if_pos rfl]
  · exact State.find?_modOp_same hp _

end

/-! ## Operations sent to the table (R174, R324) -/

section
variable {i : Instr} {w : FWord} {sh : Shape} {e : Env} {s u : State} {g : Floe} {x : Ctx} {o : EvOp} {q : Op}

/-- What an event instruction leaves that sent `o` to the table of its context, `x`: its floe as `g`, that operation, and the rest as in `u`. -/
structure EvSent (e : Env) (g : Floe) (x : Ctx) (o : EvOp) (s u t : State) : Prop where
  floe : t.floe? e.h = some g
  others : OtherFloes e.h s t
  sent : t.ctx? e.f.ctx = some { x with evOps := x.evOps ++ [o] }
  rest : t = { u with ctxs := t.ctxs, floes := t.floes }

/-- A body that left `u` and sent an operation to the table. -/
theorem Issues.sends (h : Issues i w sh e s) {body : FWord → Shape → Env → State → Res} (hrun : exec i s = Machine.issueF i body s)
    (hk : body w sh e s = .done (u.sendEv e.f.ctx o)) (ht : SameTime s u) (hu : u.floe? e.h = some g) (hothers : OtherFloes e.h s u)
    (hc : u.ctxs = s.ctxs) (hx : s.ctx? e.f.ctx = some x) :
    ∃ t, exec i s = .next t ∧ EvSent e (e.after w sh s g) x o s u t := by
  have hsent : (u.sendEv e.f.ctx o).ctx? e.f.ctx = some { x with evOps := x.evOps ++ [o] } :=
    State.ctx?_modCtx_same ((State.ctx?_of_ctxs hc _).trans hx) rfl
  have heq : u.sendEv e.f.ctx o = { u with ctxs := (u.sendEv e.f.ctx o).ctxs } := State.modCtx_eq ..
  generalize u.sendEv e.f.ctx o = v at hk hsent heq
  have hfloes : v.floes = u.floes := by rw [heq]
  have htime : SameTime s v := by
    rw [heq]
    exact ⟨ht.gt, ht.pace, ht.clk, ht.gated⟩
  obtain ⟨t, hexec, hand⟩ := h.retires hrun hk htime ((State.floe?_of_floes hfloes _).trans hu)
    fun k hne => (State.floe?_of_floes hfloes k).trans (hothers k hne)
  have hctxs : t.ctxs = v.ctxs := by rw [hand.eq]
  refine ⟨t, hexec, hand.floe, hand.others, (State.ctx?_of_ctxs hctxs _).trans hsent, ?_⟩
  rw [hctxs, hand.eq, heq]

/-- A body that put `q` in flight and sent its operation to the table. -/
theorem Issues.sendsOp (h : Issues i w sh e s) {body : FWord → Shape → Env → State → Res} (hrun : exec i s = Machine.issueF i body s)
    (hk : body w sh e s = .done ((s.addOp q).sendEv e.f.ctx o)) (hq : q.floe = e.h) (hx : s.ctx? e.f.ctx = some x) :
    ∃ t, exec i s = .next t ∧ EvSent e (e.after w sh s (q.placedIn e.f)) x o s (s.withOp q s.net) t := by
  have hf : (s.withOp q s.net).floe? e.h = some e.f := h.floe
  have hadd : s.addOp q = (s.withOp q s.net).modFloe e.h q.placedIn := by rw [State.addOp_withOp, hq]
  have hfloe : (s.addOp q).floe? e.h = some (q.placedIn e.f) := by rw [hadd, State.floe?_modFloe_same, hf, Option.map_some]
  have hothers : OtherFloes e.h s (s.addOp q) := by
    rw [hadd]
    exact otherFloes_modFloe (fun _ _ => rfl) _
  have heq : s.addOp q = { s.withOp q s.net with floes := (s.addOp q).floes } := by rw [hadd, State.modFloe_eq]
  generalize s.addOp q = v at hk hfloe hothers heq
  have htime : SameTime s v := by
    rw [heq]
    exact ⟨rfl, rfl, rfl, rfl⟩
  have hctxs : v.ctxs = s.ctxs := by
    rw [heq]
    rfl
  obtain ⟨t, hexec, hsent⟩ := h.sends hrun hk htime hfloe hothers hctxs hx
  refine ⟨t, hexec, hsent.floe, hsent.others, hsent.sent, hsent.rest.trans ?_⟩
  rw [heq]

/-- An operation put in flight with one sent to the table is found under its number. -/
theorem EvSent.inFlight {t : State} (h : EvSent e g x o s (s.withOp q s.net) t) : Table.find? t.ops s.nextId = some q := by
  rw [h.rest]
  exact State.find?_withOp s q s.net

/-- Nothing else differs but its floe and its context. -/
theorem EvSent.placedOnly {t : State} (h : EvSent e g x o s (s.withOp q s.net) t) :
    { t with ops := s.ops, floes := s.floes, nextId := s.nextId, ctxs := s.ctxs } = s := by
  rw [h.rest]
  rfl

end

end Sys2Proof.Machine
end

section
/-! EVSIG, EVWAIT and EVCLR, the signals, waits and clears of the event table, and O42 (R174, R321, R322, R324, R325). -/

namespace Sys2Proof.Machine

/-! ## The instructions -/

section
variable {w : FWord} {sh : Shape} {e : Env} {s : State} {n a : Nat} {x : Ctx}

/-- EVSIG's operation: a release at its scope, which counts in st. -/
def evsigOp (w : FWord) (e : Env) (s : State) : Op :=
  { newOp s e w .event with isSt := true, interlock := false, rel := true, after := s.afterOf e.h (decide (2 ≤ w.s.toNat)) }

/-- EVCLR's: a load where it has a D, else a store. -/
def evclrOp (w : FWord) (sh : Shape) (e : Env) (s : State) : Op :=
  { newOp s e w .event with
    isSt := sh.d.writes.isEmpty, interlock := !sh.d.writes.isEmpty, uniform := true, d := sh.d.writes, after := s.afterOf e.h false }

/-- The class counter that EVCLR counts in. -/
theorem evclrOp_class : (if (evclrOp w sh e s).isSt then e.f.st else e.f.ld) = if sh.d.writes = [] then e.f.st else e.f.ld := by
  simp [evclrOp]

theorem evclrOp_placedIn : (evclrOp w sh e s).placedIn e.f
    = if sh.d.writes = [] then { e.f with st := e.f.st + 1 } else { e.f with ld := e.f.ld + 1 } := by
  by_cases hd : sh.d.writes = [] <;> simp [evclrOp, newOp, Op.placedIn, hd]

theorem evsigBody_null (hn : eventName s e w = (0, true)) : evsigBody w sh e s = .done s := if_pos (.inr (.inr (congrArg Prod.fst hn)))

theorem evsigBody_named (hx : e.exec ≠ 0) (hn : eventName s e w = (n, true)) (ha : eventAmount s e w = (a, true)) (h0 : n ≠ 0) :
    evsigBody w sh e s = if e.f.classFull (evsigOp w e s) then .stall s
      else .done ((s.addOp (evsigOp w e s)).sendEv e.f.ctx ⟨n, 0, a, some s.nextId, some e.h, s.afterOf e.h (decide (2 ≤ w.s.toNat))⟩) := by
  simp only [evsigBody, hn, ha]
  have hgo : ¬ (e.exec = 0 ∨ (!(true && true)) = true ∨ n = 0) := by
    rintro (h | h | h)
    exacts [hx h, Bool.false_ne_true h, h0 h]
  rw [if_neg hgo]
  rfl

theorem evwaitBody_null (hx : e.exec ≠ 0) (hn : eventName s e w = (0, true)) (ha : eventAmount s e w = (a, true)) :
    evwaitBody w sh e s = .done (writeUni e.f sh.d.writes (some 0) s) := by
  simp only [evwaitBody, hn, ha]
  rw [if_neg hx, if_neg (by simp), if_pos trivial]

theorem evwaitBody_named (hx : e.exec ≠ 0) (hn : eventName s e w = (n, true)) (ha : eventAmount s e w = (a, true)) (h0 : n ≠ 0) :
    evwaitBody w sh e s = if 1023 ≤ (if w.d = 0xFF then e.f.st else e.f.ld) then .stall s
      else .done (((s.waitOn e.h (.event n a w.d e.exec)).modFloe e.h (fun f => f.evCount w.d)).sendEv e.f.ctx
        ⟨n, 1, a, none, some e.h, s.afterOf e.h false⟩) := by
  simp only [evwaitBody, hn, ha]
  rw [if_neg hx, if_neg (by simp), if_neg h0]

theorem evclrBody_null (hx : e.exec ≠ 0) (hn : eventName s e w = (0, true)) : evclrBody w sh e s = .done (writeUni e.f sh.d.writes (some 0) s) := by
  simp only [evclrBody, hn]
  rw [if_neg hx, if_neg (by simp), if_pos trivial]

theorem evclrBody_named (hx : e.exec ≠ 0) (hn : eventName s e w = (n, true)) (h0 : n ≠ 0) :
    evclrBody w sh e s = if e.f.classFull (evclrOp w sh e s) then .stall s
      else .done ((s.addOp (evclrOp w sh e s)).sendEv e.f.ctx ⟨n, 2, 0, some s.nextId, some e.h, s.afterOf e.h false⟩) := by
  simp only [evclrBody, hn]
  rw [if_neg hx, if_neg (by simp), if_neg h0]
  rfl

/-- A full class counter leaves each of them not ready. -/
theorem exec_event_full {i : Instr} (hx : e.exec ≠ 0) (hn : eventName s e w = (n, true)) (h0 : n ≠ 0) (h : Issues i w sh e s)
    (hi : i = .evsig w ∧ eventAmount s e w = (a, true) ∧ 1023 ≤ e.f.st
      ∨ i = .evwait w ∧ eventAmount s e w = (a, true) ∧ 1023 ≤ (if w.d = 0xFF then e.f.st else e.f.ld)
      ∨ i = .evclr w ∧ 1023 ≤ (if sh.d.writes = [] then e.f.st else e.f.ld)) :
    ∃ t, exec i s = .next t ∧ FloeEffect e.h (e.unready e.f) s t := by
  rcases hi with ⟨rfl, ha, hfull⟩ | ⟨rfl, ha, hfull⟩ | ⟨rfl, hfull⟩
  · refine h.unready (body := evsigBody) rfl ((evsigBody_named hx hn ha h0).trans (if_pos ?_))
    exact Floe.classFull_of_le rfl hfull
  · exact h.unready (body := evwaitBody) rfl ((evwaitBody_named hx hn ha h0).trans (if_pos hfull))
  · refine h.unready (body := evclrBody) rfl ((evclrBody_named hx hn h0).trans (if_pos ?_))
    exact Floe.classFull_of_le rfl (hfull.trans_eq evclrOp_class.symm)

/-- EVSIG sent to the table. -/
theorem exec_evsig_sends (hx : e.exec ≠ 0) (hn : eventName s e w = (n, true)) (ha : eventAmount s e w = (a, true)) (h0 : n ≠ 0)
    (h : Issues (.evsig w) w sh e s) (hctx : s.ctx? e.f.ctx = some x) (hroom : e.f.st < 1023) :
    ∃ t, exec (.evsig w) s = .next t ∧ EvSent e (e.after w sh s { e.f with st := e.f.st + 1 }) x
      ⟨n, 0, a, some s.nextId, some e.h, s.afterOf e.h (decide (2 ≤ w.s.toNat))⟩ s (s.withOp (evsigOp w e s) s.net) t := by
  have hbody := evsigBody_named (sh := sh) hx hn ha h0
  rw [if_neg (classFull_of_lt (o := evsigOp w e s) hroom)] at hbody
  exact h.sendsOp (body := evsigBody) rfl hbody rfl hctx

/-- EVWAIT sent to the table, its floe WAITING. -/
theorem exec_evwait_sends (hx : e.exec ≠ 0) (hn : eventName s e w = (n, true)) (ha : eventAmount s e w = (a, true)) (h0 : n ≠ 0)
    (h : Issues (.evwait w) w sh e s) (hctx : s.ctx? e.f.ctx = some x) (hroom : (if w.d = 0xFF then e.f.st else e.f.ld) < 1023) :
    ∃ t, exec (.evwait w) s = .next t ∧ EvSent e (e.after w sh s ((e.f.held (.event n a w.d e.exec) s.gt).evCount w.d)) x
      ⟨n, 1, a, none, some e.h, s.afterOf e.h false⟩ s s t := by
  have hbody := evwaitBody_named (sh := sh) hx hn ha h0
  rw [if_neg (Nat.not_le.2 hroom)] at hbody
  have hfloe : ((s.waitOn e.h (.event n a w.d e.exec)).modFloe e.h (fun f => f.evCount w.d)).floe? e.h
      = some ((e.f.held (.event n a w.d e.exec) s.gt).evCount w.d) := by
    rw [State.floe?_modFloe_same, State.waitOn_floe h.floe, Option.map_some]
  have hothers : OtherFloes e.h s ((s.waitOn e.h (.event n a w.d e.exec)).modFloe e.h (fun f => f.evCount w.d)) :=
    otherFloes_modFloe (otherFloes_modFloe (.refl e.h s) _) _
  rw [State.modFloe_eq, State.waitOn, State.modFloe_eq] at hbody hfloe hothers
  obtain ⟨t, hexec, hsent⟩ := h.sends (body := evwaitBody) rfl hbody ⟨rfl, rfl, rfl, rfl⟩ hfloe hothers rfl hctx
  exact ⟨t, hexec, hsent.floe, hsent.others, hsent.sent, hsent.rest⟩

/-- EVCLR sent to the table. -/
theorem exec_evclr_sends (hx : e.exec ≠ 0) (hn : eventName s e w = (n, true)) (h0 : n ≠ 0) (h : Issues (.evclr w) w sh e s)
    (hctx : s.ctx? e.f.ctx = some x) (hroom : (if sh.d.writes = [] then e.f.st else e.f.ld) < 1023) :
    ∃ t, exec (.evclr w) s = .next t
      ∧ EvSent e (e.after w sh s (if sh.d.writes = [] then { e.f with st := e.f.st + 1 } else { e.f with ld := e.f.ld + 1 })) x
        ⟨n, 2, 0, some s.nextId, some e.h, s.afterOf e.h false⟩ s (s.withOp (evclrOp w sh e s) s.net) t := by
  have hbody := evclrBody_named (sh := sh) hx hn h0
  rw [if_neg (classFull_of_lt (evclrOp_class.trans_lt hroom))] at hbody
  rw [← evclrOp_placedIn]
  exact h.sendsOp (body := evclrBody) rfl hbody rfl hctx

/-- With the name 0, D is 0 and nothing is sent. -/
theorem exec_event_null {i : Instr} {body : FWord → Shape → Env → State → Res} (h : Issues i w sh e s) (hrun : exec i s = issueF i body s)
    (hbody : body w sh e s = .done (writeUni e.f sh.d.writes (some 0) s)) :
    ∃ t, exec i s = .next t ∧ Wrote e.f sh.d.writes [(0, some (wordsOf sh.d.writes.length 0))] s t
      ∧ t.floe? e.h = some (e.after w sh s e.f) ∧ OtherFloes e.h s t ∧ OnlyFirnFloes s t := by
  have hlanes : LaneList e.f sh.d.writes [(0, some (wordsOf sh.d.writes.length 0))] := by
    refine h.laneList _ (List.pairwise_singleton ..) (by simp) (fun l ws hm => ?_) (fun _ => le_rfl)
    obtain ⟨-, hws⟩ := Prod.mk.inj (List.mem_singleton.1 hm)
    rw [Option.some.inj hws]
    simp [wordsOf]
  rw [writeUni_putLanes] at hbody
  obtain ⟨t, ht, heffect⟩ := exec_putLanes_effect h hrun hlanes hbody
  have hfloe := heffect.floe
  rw [Fx.or_bits_none] at hfloe
  exact ⟨t, ht, heffect.result, hfloe, heffect.others, heffect.rest⟩

end

/-! ## EVENT_SIGNAL -/

section
variable {s : State} {ctx : Nat} {o : EvOp} {x : Ctx}

/-- The machine after the table has taken an operation, and what that operation ends has ended. -/
def State.evTaken (s : State) (ctx : Nat) (o : EvOp) (vals : List Nat) : State := (s.dropEv ctx o).evOpEnds o vals

theorem State.evTaken_eq (s : State) (ctx : Nat) (o : EvOp) (vals : List Nat) : s.evTaken ctx o vals
    = { s with ctxs := (s.dropEv ctx o).ctxs, ops := (s.evTaken ctx o vals).ops, floes := (s.evTaken ctx o vals).floes } := by
  rw [State.evTaken, State.evOpEnds_eq, State.dropEv_eq]

theorem State.evTaken_event (s : State) (ctx : Nat) (o : EvOp) (vals : List Nat) (n : Nat) : (s.evTaken ctx o vals).event ctx n = s.event ctx n := by
  rw [State.evTaken_eq]
  rfl

theorem State.ctx?_evTaken (hx : s.ctx? ctx = some x) (vals : List Nat) :
    (s.evTaken ctx o vals).ctx? ctx = some { x with evOps := x.evOps.erase o } := by
  rw [State.evTaken_eq]
  exact State.ctx?_dropEv hx

theorem exec_eventSignal (ho : s.evHead ctx 0 = some o) :
    exec (.eventSignal ctx) s = .next ((s.evTaken ctx o []).signalNow ctx o.name o.arg) := by
  rw [exec, execEventSignal, ho]
  rfl

/-- A signal performed for a floe that waits alone. -/
theorem signalNow_satisfies {h thr a b : Nat} {d : Code} {m : Mask} {f : Floe} (hop : o.op = none)
    (hw : (s.event ctx o.name).waiters = [.floe h thr]) (hthr : thr ≤ (s.event ctx o.name).signalled o.arg) (hf : s.floe? h = some f)
    (hstate : f.state = .waiting) (hwait : f.wait = some (.event a b d m)) :
    ((s.evTaken ctx o []).signalNow ctx o.name o.arg).floe? h = some ((f.evReturned d).resume (s.mck f.core))
      ∧ OtherFloes h s ((s.evTaken ctx o []).signalNow ctx o.name o.arg)
      ∧ Wrote f (codeRegs d 1) [(0, some (wordsOf 1 ((s.event ctx o.name).signalled o.arg)))] s
          ((s.evTaken ctx o []).signalNow ctx o.name o.arg) := by
  have htaken : s.evTaken ctx o [] = { s with ctxs := (s.dropEv ctx o).ctxs } := by
    rw [State.evTaken, State.evOpEnds_none hop, State.dropEv_eq]
  have hevent := State.evTaken_event s ctx o [] o.name
  rw [← hevent] at hw hthr
  rw [State.signalNow_floe hw hthr, hevent, htaken]
  obtain ⟨hfloe, hothers, hwrote, -⟩ := eventMet_satisfied
    (s := State.setEvent { s with ctxs := (s.dropEv ctx o).ctxs } ctx o.name ((s.event ctx o.name).afterSignal o.arg)) hf hstate hwait
    ((s.event ctx o.name).signalled o.arg)
  exact ⟨hfloe, hothers, hwrote.of_firn rfl rfl⟩

/-! ## EVENT_WAIT -/

theorem Floe.evPerformed_kept (f : Floe) : f.evPerformed = { f with st := f.evPerformed.st } := by
  unfold Floe.evPerformed
  split
  · split <;> rfl
  · rfl

/-- The state in which a wait is decided: its operation has left the table, and its floe counts it no more where it has no D. -/
def State.waitTaken (s : State) (ctx h : Nat) (o : EvOp) : State := (s.dropEv ctx o).modFloe h Floe.evPerformed

theorem State.waitTaken_eq (s : State) (ctx h : Nat) (o : EvOp) :
    s.waitTaken ctx h o = { s with ctxs := (s.dropEv ctx o).ctxs, floes := (s.waitTaken ctx h o).floes } := by
  rw [State.waitTaken, State.modFloe_eq, State.dropEv_eq]

theorem State.floe?_waitTaken {h : Nat} {f : Floe} (hf : s.floe? h = some f) : (s.waitTaken ctx h o).floe? h = some f.evPerformed := by
  rw [State.waitTaken, State.floe?_modFloe_same, State.dropEv_eq]
  exact congrArg (Option.map _) hf

theorem otherFloes_waitTaken (s : State) (ctx h : Nat) (o : EvOp) : OtherFloes h s (s.waitTaken ctx h o) := by
  rw [State.waitTaken, State.dropEv_eq]
  exact otherFloes_modFloe (fun _ _ => rfl) _

theorem State.ctx?_waitTaken {h : Nat} (hx : s.ctx? ctx = some x) :
    (s.waitTaken ctx h o).ctx? ctx = some { x with evOps := x.evOps.erase o } := by
  rw [State.waitTaken_eq]
  exact State.ctx?_dropEv hx

theorem exec_eventWait {h : Nat} (ho : s.evHead ctx 1 = some o) (hh : o.floe = some h) : exec (.eventWait ctx) s
    = .next (if o.arg ≤ (s.event ctx o.name).count then (s.waitTaken ctx h o).eventMet h (s.event ctx o.name).count
      else if s.recordFree ctx o.name then (s.waitTaken ctx h o).setEvent ctx o.name
        { s.event ctx o.name with waiters := (s.event ctx o.name).waiters ++ [.floe h o.arg] }
      else s.modCtx ctx (fun c => { c with evOps := c.evOps.map (fun p => if p = o then { p with kind := 3 } else p) })) := by
  rw [exec, execEventWait, ho]
  dsimp only
  rw [hh, Option.getD_some, apply_ite Host.Outcome.next, apply_ite Host.Outcome.next]
  rfl

/-- A wait whose threshold is met is satisfied. -/
theorem eventMet_waitTaken {h a b n : Nat} {d : Code} {m : Mask} {f : Floe} (hf : s.floe? h = some f) (hstate : f.state = .waiting)
    (hwait : f.wait = some (.event a b d m)) :
    ((s.waitTaken ctx h o).eventMet h n).floe? h = some ((f.evPerformed.evReturned d).resume (s.mck f.core))
      ∧ OtherFloes h s ((s.waitTaken ctx h o).eventMet h n) ∧ ((s.waitTaken ctx h o).eventMet h n).events = s.events
      ∧ Wrote f (codeRegs d 1) [(0, some (wordsOf 1 n))] s ((s.waitTaken ctx h o).eventMet h n) := by
  have hkept := f.evPerformed_kept
  have hfloe := State.floe?_waitTaken (ctx := ctx) (o := o) hf
  have hothers := otherFloes_waitTaken s ctx h o
  have heq := State.waitTaken_eq s ctx h o
  generalize s.waitTaken ctx h o = v at hfloe hothers heq
  generalize f.evPerformed = g at hkept hfloe
  have hmck : v.mck g.core = s.mck f.core := by
    rw [hkept, heq]
    rfl
  obtain ⟨hmet, hmore, hwrote, hrest⟩ := eventMet_satisfied hfloe (by rw [hkept]; exact hstate) (by rw [hkept]; exact hwait) n
  refine ⟨hmck ▸ hmet, fun k hk => (hmore k hk).trans (hothers k hk), ?_, ?_⟩
  · rw [hrest, heq]
  · have hfirn : v.firn = s.firn := by rw [heq]
    have hwrote := hwrote.of_firn hfirn.symm rfl
    rw [hkept] at hwrote
    exact { hwrote with }

end

/-! ## O42 -/

/-- Settles O42: each instruction by what it sends, each operation of the table by what it leaves of its event and its waiter. -/
theorem events : Obligations.Events := by
  unfold Obligations.Events
  refine ⟨?instructions, ?signal, ?wait, ?clear⟩
  case instructions =>
    intro w sh e s n a x hx hctx hn
    refine ⟨fun i hi h h0 => exec_event_full hx hn h0 h hi, fun h ha h0 hroom => ?_, fun h ha h0 => ?_, fun h ha h0 hroom => ?_,
      fun h h0 hroom => ?_, fun i hi h h0 => ?_⟩
    · obtain ⟨t, ht, hsent⟩ := exec_evsig_sends hx hn ha h0 h hctx hroom
      exact ⟨t, _, ht, hsent.inFlight, rfl, rfl, rfl, hsent.sent, hsent.floe, hsent.others, hsent.placedOnly⟩
    · exact h.advances (body := evsigBody) rfl (evsigBody_null (h0 ▸ hn))
    · obtain ⟨t, ht, hsent⟩ := exec_evwait_sends hx hn ha h0 h hctx hroom
      exact ⟨t, ht, hsent.floe, hsent.sent, hsent.others, by rw [hsent.rest]⟩
    · obtain ⟨t, ht, hsent⟩ := exec_evclr_sends hx hn h0 h hctx hroom
      exact ⟨t, _, ht, hsent.inFlight, rfl, rfl, rfl, hsent.sent, hsent.floe, hsent.others, hsent.placedOnly⟩
    · subst h0
      rcases hi with ⟨rfl, ha⟩ | rfl
      · exact exec_event_null (body := evwaitBody) h rfl (evwaitBody_null hx hn ha)
      · exact exec_event_null (body := evclrBody) h rfl (evclrBody_null hx hn)
  case signal =>
    rintro s ctx o x n hctx ho rfl
    refine ⟨_, exec_eventSignal ho, ?_, ?_, fun k => ?_, fun h thr a b d m f hop hw hthr hf hstate hwait => ?_⟩
    · rw [State.signalNow_event, State.evTaken_event]
      rfl
    · exact (State.ctx?_of_ctxs (State.signalNow_ctxs ..) _).trans (State.ctx?_evTaken hctx [])
    · rw [State.signalNow_ms, State.evTaken_eq]
    · exact signalNow_satisfies hop hw hthr hf hstate hwait
  case wait =>
    intro s ctx h o x hctx ho hh
    have hexec := exec_eventWait ho hh
    refine ⟨fun hlt hfree => ?_, fun hlt hfree => ?_, fun hle f a b d m hf hstate hwait => ?_⟩
    · rw [if_neg (Nat.not_le.2 hlt), if_pos hfree] at hexec
      have htaken := State.waitTaken_eq s ctx h o
      exact ⟨_, hexec, State.event_setEvent_same .., fun f hf => State.floe?_waitTaken hf, otherFloes_waitTaken s ctx h o,
        State.ctx?_waitTaken hctx, by rw [htaken]; rfl⟩
    · rw [if_neg (Nat.not_le.2 hlt), if_neg (by simp [hfree])] at hexec
      exact ⟨_, hexec, State.ctx?_modCtx_same hctx rfl, by rw [State.modCtx_eq]⟩
    · rw [if_pos hle] at hexec
      exact ⟨_, hexec, eventMet_waitTaken hf hstate hwait⟩
  case clear =>
    intro s ctx o x hctx ho
    have hexec : exec (.eventClear ctx) s
        = .next ((s.evTaken ctx o [(s.event ctx o.name).count]).setEvent ctx o.name { s.event ctx o.name with count := 0 }) := by
      rw [exec, execEventClear, ho]
      rfl
    have htaken := State.evTaken_eq s ctx o [(s.event ctx o.name).count]
    refine ⟨_, hexec, State.event_setEvent_same .., fun k => ?_, ?_, State.ctx?_evTaken hctx _, fun id p hop hp => ?_⟩
    · rw [htaken]
      rfl
    · rw [htaken]
      rfl
    · have hp' : Table.find? (s.dropEv ctx o).ops id = some p := by
        rw [State.dropEv_eq]
        exact hp
      exact State.evOpEnds_op hop hp' _

end Sys2Proof.Machine
end

section
/-! TRAP, BRK, SVC and TRAPRET, traps with no handler and missing pages, the state after reset; O7, O11 and O28 (R369-R371, R374, R375, R377, R423). -/

namespace Sys2Proof.Machine

/-! ## Reset (R423) -/

/-- Settles O7, by evaluation: the state after reset is closed, and its boot state lets no slice issue. -/
theorem resetHoldsNothing : Obligations.ResetHoldsNothing := by
  unfold Obligations.ResetHoldsNothing
  exact ⟨rfl, rfl, rfl, rfl, rfl, rfl, rfl, rfl, rfl⟩

/-! ## Traps that no handler takes (R369, R371) -/

/-- fatal, in one change of its context. -/
theorem State.fatal_eq {s : State} {ctx : Nat} {x : Ctx} (hx : s.ctx? ctx = some x) (r : List Byte) :
    s.fatal ctx r = s.setCtx ctx { x with state := .faulted, faultRecs := x.faultRecs ++ [⟨r⟩] } := by
  rw [State.fatal, State.postRecord, State.modCtx_modCtx hx CtxState.noConfusion, State.modCtx, hx]

/-- Settles O11: a cause that goes to a handler which is not there is fatal; a missing page suspends. -/
theorem trapWithoutHandlerAndMissingPage : Obligations.TrapWithoutHandlerAndMissingPage := by
  unfold Obligations.TrapWithoutHandlerAndMissingPage
  refine ⟨fun s h b pc next t f x hf hx hno hcause => ?_, fun s h b pc next t f x hf hx hcause hsource => ?_⟩
  · rw [State.deliver_vector hcause, State.vector_fatal hf hx hno, State.fatal_eq hx]
  · have hset : (s.setFloe h { f with state := .suspended, susp := some ⟨none, b, pc, t, false⟩ }).ctx? f.ctx = some x := hx
    rw [State.deliver, hf]
    simp only
    rw [if_pos ⟨hcause, hsource⟩, State.postRecord, State.modCtx, hset]

/-! ## Traps that resume at the next word (R370, R374) -/

/-- A trap of the issuing floe whose TEPC is the next word, with a handler to go to, changes that floe alone. -/
theorem trapEffect_retire_next {s : State} {g : Code} {len : Nat} {e : Env} {x : Ctx} (la : List (Option Latch)) (y : Bool) {t : TrapInfo}
    (he : s.env? g len = some e) (hx : s.ctx? e.f.ctx = some x) (hl : e.f.levelHandler = false) (hb : x.trapBase ≠ 0)
    (hc : t.cause ≠ .pageNotPresent) (hs : t.source = 0) (hn : t.atNext = true) :
    TrapEffect e x.trapBase t.cause t.half t.lanes t.tinfo e.next Fx.none s (State.retire e la y (.trap t s)) := by
  obtain ⟨-, -, -, hf, hsl, -⟩ := State.env?_some he
  have hu : (s.modFloe e.h (fun f => f.issued s.gt (s.mck e.f.core) e.b [] false)).floe? e.h = some (e.f.issued s.gt (s.mck e.f.core) e.b [] false) := by
    simp [hf]
  have hsf : (e.f.issued s.gt (s.mck e.f.core) e.b [] false).slot e.b = some e.sl := hsl
  have ht : State.retire e la y (.trap t s) = (s.modFloe e.h (fun f => f.issued s.gt (s.mck e.f.core) e.b [] false)).setFloe e.h
      (handlerEntry (e.f.issued s.gt (s.mck e.f.core) e.b [] false) e.b x.trapBase e.sl.pc e.next t) := by
    rw [State.retire, State.deliver_vector (fun hp => hc hp.1)]
    exact State.vector_enters hu ((State.ctx?_of_ctxs (State.modFloe_ctxs ..) _).trans hx) hl hb
  rw [ht]
  constructor
  · refine ⟨_, by rw [State.floe?_setFloe, if_pos rfl], slot_handlerEntry hsf, slot_handlerEntry_other hsf, ?_⟩
    simp [handlerEntry, hsf, hs, hn]
    exact ⟨rfl, rfl, rfl, rfl⟩
  · intro k hk
    rw [State.floe?_setFloe, if_neg hk, State.floe?_modFloe_ne _ _ hk]
  · intro a
    simp
  · rw [OnlyFloes, State.modFloe_eq, State.setFloe]

section
variable {w : FWord} {sh : Shape} {e : Env} {s : State}

/-- TRAP and BRK by their cause. -/
theorem exec_trap_next {i : Instr} {c : Cause} {x : Ctx} (h : Issues i w sh e s) (hx : e.exec ≠ 0) (hrun : exec i s = issueF i (trapBody c) s)
    (hctx : s.ctx? e.f.ctx = some x) (hl : e.f.levelHandler = false) (hb : x.trapBase ≠ 0) (hc : c ≠ .pageNotPresent) :
    ∃ t, exec i s = .next t
      ∧ TrapEffect e x.trapBase c false e.exec (w.c.setWidth 64) (e.sl.pc + BitVec.ofNat 64 (wordLen w)) Fx.none s t := by
  rw [← h.next]
  exact ⟨_, h.exec_of_body hrun (if_neg hx),
    trapEffect_retire_next (t := { cause := c, lanes := e.exec, tinfo := w.c.setWidth 64, atNext := true }) _ _ h.env hctx hl hb hc rfl rfl⟩

/-! ## Arrivals and the state of a floe (R137, R146) -/

theorem Floe.arrive_state {f g : Floe} {b : Bool} (h : f.arrive b = some g) : g.state = f.state := by
  unfold Floe.arrive at h
  split at h
  · split at h
    · obtain rfl := Option.some.inj h
      cases b <;> rfl
    · cases h
  · cases h

theorem Floe.place_state (f : Floe) (q : StackEntry) : (f.place q).state = f.state := by
  unfold Floe.place
  dsimp only
  split
  · rfl
  · split <;> rfl

theorem Floe.settle1_state {f g : Floe} (h : f.settle1 = some g) : g.state = f.state := by
  unfold Floe.settle1 at h
  split at h
  · next harrive => exact Option.some.inj h ▸ Floe.arrive_state harrive
  · split at h
    · next harrive => exact Option.some.inj h ▸ Floe.arrive_state harrive
    · split at h
      · exact Option.some.inj h ▸ Floe.place_state ..
      · split at h
        · split at h
          · exact Option.some.inj h ▸ Floe.place_state ..
          · cases h
        · cases h

/-- Arrivals and completions leave the floe in its state. -/
theorem Floe.settle_state (f : Floe) : f.settle.state = f.state := by
  have hn (n : Nat) (f : Floe) : (Floe.settleN n f).state = f.state := by
    induction n generalizing f with
    | zero => rfl
    | succ n ih =>
      rw [Floe.settleN]
      split
      · next hstep => exact (ih _).trans (Floe.settle1_state hstep)
      · rfl
  exact hn _ f

theorem Floe.goto_state (f : Floe) (b : Bool) (pc : Dword) (via : Option Dword) : (f.goto b pc via).state = f.state := by
  unfold Floe.goto
  split
  · cases b <;> rfl
  · rfl

/-- An instruction that retires leaves its floe in the state that its body did. -/
theorem Env.after_state (e : Env) (w : FWord) (sh : Shape) (s : State) (g : Floe) : (e.after w sh s g).state = g.state := by
  unfold Env.after Floe.retired
  split
  · rfl
  · exact (Floe.settle_state _).trans (Floe.goto_state ..)

/-! ## SVC (R377) -/

/-- The floe that SVC leaves. -/
def svcFloe (e : Env) (w : FWord) : Floe :=
  { e.f with state := .suspended, susp := some ⟨none, e.b, e.sl.pc + BitVec.ofNat 64 (wordLen w),
    { cause := .software, lanes := e.exec, tinfo := w.c.setWidth 64 }, true⟩ }

/-- The record that SVC posts. -/
def svcRecord (e : Env) (w : FWord) (s : State) : List Byte :=
  faultRecord 0x40 5 true (partOf e.f.core) e.f.inst e.f.num e.f.core 0 0 0 0 e.sl.pc e.exec
    (w.c.toNat + 256 * ((if (rdOp s e.f 0 w.a 1).2 then (rdOp s e.f 0 w.a 1).1 else 0) % 2 ^ 24)) 0 (s.gt % 2 ^ 64)

theorem exec_svc (h : Issues (.svc w) w sh e s) (hx : e.exec ≠ 0) :
    ∃ t, exec (.svc w) s = .next t
      ∧ FloeAnd e.h (e.after w sh s (svcFloe e w)) s { s with ctxs := (s.postRecord e.f.ctx (svcRecord e w s)).ctxs } t := by
  have hfloe : (s.modFloe e.h (fun f => { f with state := .suspended, susp := some ⟨none, e.b, e.next,
      { cause := .software, lanes := e.exec, tinfo := w.c.setWidth 64 }, true⟩ })).floe? e.h = some (svcFloe e w) := by
    rw [State.floe?_modFloe_same, h.floe, Option.map_some, h.next]
    rfl
  have hbody : svcBody w sh e s = .done ((s.modFloe e.h (fun f => { f with state := .suspended, susp := some ⟨none, e.b, e.next,
      { cause := .software, lanes := e.exec, tinfo := w.c.setWidth 64 }, true⟩ })).postRecord e.f.ctx (svcRecord e w s)) := if_neg hx
  have hothers : OtherFloes e.h s (s.modFloe e.h (fun f => { f with state := .suspended, susp := some ⟨none, e.b, e.next,
      { cause := .software, lanes := e.exec, tinfo := w.c.setWidth 64 }, true⟩ })) := otherFloes_modFloe (.refl e.h s) _
  rw [State.modFloe_eq] at hbody hfloe hothers
  generalize (s.modFloe e.h _).floes = fs at hbody hfloe hothers
  have hpost : State.postRecord { s with floes := fs } e.f.ctx (svcRecord e w s)
      = { s with floes := fs, ctxs := (s.postRecord e.f.ctx (svcRecord e w s)).ctxs } := by
    have hctx : State.ctx? { s with floes := fs } e.f.ctx = s.ctx? e.f.ctx := rfl
    rw [State.postRecord, State.modCtx, hctx, State.postRecord, State.modCtx]
    split <;> rfl
  rw [hpost] at hbody
  exact h.retires rfl hbody ⟨rfl, rfl, rfl, rfl⟩ hfloe hothers

/-! ## TRAPRET (R375) -/

/-- A floe returned from its handler to TEPC. -/
def Floe.leftHandler (e : Env) (fr : Frame) (f : Floe) : Floe :=
  { f.setSlot e.b (some ⟨f.tepc, fr.mask, fr.rpc, some e.sl.pc⟩) with frame := none, levelHandler := false, levelPriv := false }

/-- TRAPRET in a handler with the slot's mask and the stack's depth as they were at its entry. -/
theorem trapretBody_matches (hx : e.exec ≠ 0) {fr : Frame} (hfr : e.f.frame = some fr) (hmask : fr.mask = e.sl.mask)
    (hdepth : fr.depth = e.f.stack.length) : trapretBody w sh e s
      = if w.m.getLsbD 0 then .jump (s.floeEnd e.h true)
        else if e.f.tepc.toNat % 8 ≠ 0 then .trap { cause := .misalignedTarget, lanes := e.exec } s
        else .jump (s.modFloe e.h (Floe.leftHandler e fr)) := by
  rw [trapretBody, if_neg hx, hfr]
  exact if_neg (by simp [hmask, hdepth])

theorem trapretBody_outside (hx : e.exec ≠ 0) (hfr : e.f.frame = none) :
    trapretBody w sh e s = .trap { cause := .illegalOperands, lanes := e.exec } s := by
  rw [trapretBody, if_neg hx, hfr]

theorem floeEnd_firn (s : State) (h : Nat) (kill : Bool) : (s.floeEnd h kill).firn = s.firn := by
  cases hf : s.floe? h with
  | none => rw [State.floeEnd, hf]
  | some f =>
    have hbefore : SameRuns s ((s.leaveAll f h).releaseMx h f.core kill) := (sameRuns_leaveAll s f h).trans (sameRuns_releaseMx ..)
    have hunlisted := hbefore.trans (sameRuns_unlist _ f h)
    rw [State.floeEnd, hf]
    refine ((sameRuns_settleScratch ..).trans (sameRuns_sleepCore ..)).firn.trans (Eq.trans ?_ hunlisted.firn)
    cases kill <;> rfl

/-- TRAPRET.kill ends its floe, and leaves every register, byte of memory and other floe. -/
theorem exec_trapret_kill (h : Issues (.trapret w) w sh e s) (hbody : trapretBody w sh e s = .jump (s.floeEnd e.h true)) :
    ∃ t r, exec (.trapret w) s = .next t ∧ t.floe? e.h = some r ∧ r.state = .retired ∧ r.s0 = none ∧ r.s1 = none ∧ r.stack = [] ∧ r.parked = 0
      ∧ r.frame = none ∧ t.firn = s.firn ∧ SameMem s t ∧ OtherFloes e.h s t := by
  have hover (gt mck la y) := (e.f.over_ended.branched).issued gt mck e.b la y
  have hframe (gt mck la y) : (e.f.ended.branched.issued gt mck e.b la y).frame = none := by
    unfold Floe.branched
    split <;> rfl
  refine ⟨_, _, h.exec_of_body rfl hbody, retire_jump_floe (floeEnd_floe h.floe true), ?_⟩
  rw [(hover ..).settle]
  obtain ⟨hstate, hs0, hs1, hstack, hparked, -⟩ := hover (s.floeEnd e.h true).gt ((s.floeEnd e.h true).mck e.f.core) (latchesOf s e.f w sh) (hintYields w sh)
  refine ⟨hstate, hs0, hs1, hstack, hparked, hframe .., ?_, fun a => ?_, fun k hk => ?_⟩
  · rw [State.retire, State.modFloe_firn, floeEnd_firn]
  · rw [State.retire, State.modFloe_ms, Ms.byte, State.floeEnd_mem, Ms.byte]
  · rw [State.retire, State.floe?_modFloe_ne _ _ hk, State.floe?, (floeEnd_ends h.floe true).floes, Table.find?_insert_ne _ _ hk, State.floe?]

end

/-- Settles O28: TRAP and BRK by their cause, SVC by its record and its floe, TRAPRET by the branches of its body. -/
theorem trapsAndServiceCalls : Obligations.TrapsAndServiceCalls := by
  unfold Obligations.TrapsAndServiceCalls
  refine ⟨?traps, ?svc, ?trapret⟩
  case traps =>
    rintro w sh e s i c x h hx hctx hl hb (⟨rfl, rfl⟩ | ⟨rfl, rfl⟩)
    · exact exec_trap_next h hx rfl hctx hl hb Cause.noConfusion
    · exact exec_trap_next h hx rfl hctx hl hb Cause.noConfusion
  case svc =>
    intro w sh e s x h hx hctx
    obtain ⟨t, ht, hand⟩ := exec_svc h hx
    have hctxs : t.ctxs = (s.postRecord e.f.ctx (svcRecord e w s)).ctxs := by rw [hand.eq]
    refine ⟨t, _, ht, hand.floe, Env.after_state .., rfl, ?_, hand.others, fun a => ?_, ?_⟩
    · rw [State.ctx?_of_ctxs hctxs, State.postRecord]
      exact State.ctx?_modCtx_same hctx rfl
    · rw [hand.eq]
    · rw [hand.eq]
  case trapret =>
    intro w sh e s h hx
    refine ⟨fun fr hfr hmask hdepth hm hpc => ?_, fun fr hfr hmask hdepth hm => ?_, fun x hfr hctx hl hb => ?_⟩
    · refine h.jumps (body := trapretBody) (k := Floe.leftHandler e fr) rfl ?_
      rw [trapretBody_matches hx hfr hmask hdepth, hm, if_neg (by decide), if_neg (not_not.2 hpc)]
    · refine exec_trapret_kill h ?_
      rw [trapretBody_matches hx hfr hmask hdepth, hm, if_pos (by decide)]
    · exact h.traps (body := trapretBody) rfl (trapretBody_outside hx hfr) hctx hl hb Cause.noConfusion

end Sys2Proof.Machine
end

section
/-! The states of links: margins, retraining, training, enables and fails, the isolation of a die, and O50 (R402-R405, R408, R416). -/

namespace Sys2Proof.Machine

/-! ## A link written (R402) -/

@[simp] theorem State.link_putLink_same (s : State) (n : Nat) (l : Link) : (s.putLink n l).link n = l := Table.getD_setD_same ..

theorem State.link_putLink_ne (s : State) {n k : Nat} (l : Link) (hk : k ≠ n) : (s.putLink n l).link k = s.link k := Table.getD_setD_ne _ _ _ hk

/-- A link is read off the links alone. -/
theorem State.link_of_links {s t : State} (h : t.net.links = s.net.links) (k : Nat) : t.link k = s.link k := by
  simp only [State.link, h]

/-- Isolation changes what is isolated, and contexts (R408). -/
theorem State.isolate_eq (s : State) :
    s.isolate = { s with ctxs := s.isolate.ctxs, net := { s.net with isolated := isolatedDies s } } := by
  simp only [State.isolate]
  refine List.foldlRecOn _ _ (motive := fun t : State => t = { s with ctxs := t.ctxs, net := { s.net with isolated := isolatedDies s } }) rfl
    fun t ht c _ => ?_
  split
  · rw [State.fatalLive_eq, ht]
  · exact ht

/-- A link in another state: links, isolation and routes, an interrupt where it is enabled, and nothing else. -/
theorem State.linkTo_eq (s : State) (n : Nat) (l : Link) : s.linkTo n l = { s with
    ctxs := (s.linkTo n l).ctxs
    irqs := if l.ie ∧ l.st ≠ (s.link n).st then s.irqs ++ [0] else s.irqs
    net := { (s.putLink n l).net with isolated := (s.linkTo n l).net.isolated, reqs := (s.linkTo n l).net.reqs } } := by
  simp only [State.linkTo, State.reroute]
  split <;> rw [State.isolate_eq] <;> rfl

/-- From `s` to `t` link `n` has become `l`: no other link, register, byte of memory or floe is touched, and a host that asked for no interrupt
gets none. -/
structure LinkMoved (s : State) (n : Nat) (l : Link) (t : State) : Prop where
  link : t.link n = l
  others : ∀ k, k ≠ n → t.link k = s.link k
  ms : t.ms = s.ms
  firn : t.firn = s.firn
  floes : t.floes = s.floes
  irqs : l.st = (s.link n).st ∨ l.ie = false → t.irqs = s.irqs

section
variable {s t u : State} {n : Nat} {l l' : Link}

theorem linkMoved_putLink (s : State) (n : Nat) (l : Link) : LinkMoved s n l (s.putLink n l) :=
  ⟨s.link_putLink_same n l, fun _ hk => s.link_putLink_ne l hk, rfl, rfl, rfl, fun _ => rfl⟩

theorem linkMoved_linkTo (s : State) (n : Nat) (l : Link) : LinkMoved s n l (s.linkTo n l) := by
  have heq := s.linkTo_eq n l
  have hlinks : (s.linkTo n l).net.links = (s.putLink n l).net.links := by rw [heq]
  refine ⟨?_, fun k hk => ?_, by rw [heq], by rw [heq], by rw [heq], fun hq => ?_⟩
  · rw [State.link_of_links hlinks, State.link_putLink_same]
  · rw [State.link_of_links hlinks, State.link_putLink_ne _ _ hk]
  · have hquiet : ¬ (l.ie ∧ l.st ≠ (s.link n).st) := by
      rintro ⟨hie, hst⟩
      rcases hq with h | h
      exacts [hst h, Bool.false_ne_true (h.symm.trans hie)]
    rw [heq]
    exact if_neg hquiet

/-- A change that keeps the link's state, and then another. -/
theorem LinkMoved.andThen (h : LinkMoved s n l t) (hst : l.st = (s.link n).st) (k : LinkMoved t n l' u) : LinkMoved s n l' u where
  link := k.link
  others := fun j hj => (k.others j hj).trans (h.others j hj)
  ms := k.ms.trans h.ms
  firn := k.firn.trans h.firn
  floes := k.floes.trans h.floes
  irqs := fun hq => (k.irqs (by rwa [h.link, hst])).trans (h.irqs (.inl hst))

/-! ## Changes of state (R402, R405) -/

theorem State.retrain_now (hv : linkValid n = true) (hst : (s.link n).st.canRetrain = true) (hn : n < 256) :
    s.retrain n = s.linkTo n { s.link n with st := .retraining } := by
  simp [State.retrain, hv, hst, Nat.not_le.2 hn]

theorem State.retrain_pends (hv : linkValid n = true) (hst : (s.link n).st.canRetrain = true) (hn : 256 ≤ n) :
    s.retrain n = s.putLink n { s.link n with pend := true } := by
  simp [State.retrain, hv, hst, hn]

theorem State.linkDown_inUse (hv : linkValid n = true) (hst : (s.link n).st.inUse = true) :
    s.linkDown n = s.linkTo n { s.link n with st := .down, units := 0, pend := false, lanes := [] } := by
  simp [State.linkDown, hv, hst]

theorem exec_linkEnable (hv : linkValid n = true) (hst : (s.link n).st = .down ∨ (s.link n).st = .untrained) :
    exec (.linkEnable n) s = .next (s.linkTo n { s.link n with st := .training }) :=
  congrArg Host.Outcome.next (if_pos ⟨hv, hst⟩)

theorem exec_trainingDone (hv : linkValid n = true) (hst : (s.link n).st = .training) (ok : Bool) :
    exec (.trainingDone n ok) s = .next (s.linkTo n (if ok then { s.link n with st := .active, units := linkFull n, spares := 0, lanes := [] }
      else { s.link n with st := .down, units := 0, lanes := [] })) :=
  if_neg (by simp [hv, hst])

theorem exec_retrainingDone (hv : linkValid n = true) (hn : n < 256) (hst : (s.link n).st = .retraining) (sp u : Nat) (c : Bool) :
    exec (.retrainingDone n sp u c) s = .next (s.linkTo n (retrained n (s.link n) sp u c)) :=
  if_neg (by simp [hv, hst, hn])

/-- A refresh window in which a pending retraining begins and does not end. -/
theorem exec_refreshWindow_begins {cs : List (BitVec 16)} (hv : linkValid n = true) (hn : 256 ≤ n) (hst : (s.link n).st.canRetrain = true)
    (hpend : (s.link n).pend = true) (hcs : cs ≠ []) (sp u : Nat) (c : Bool) : exec (.refreshWindow n sp u c false cs) s
      = .next ((s.putLink n { s.link n with banks := cs }).linkTo n { s.link n with st := .retraining, pend := false, banks := cs }) := by
  have hgo : ¬ (!linkValid n ∨ n < 256) := by simp [hv, hn]
  have hne : cs.isEmpty = false := by simpa using hcs
  refine (if_neg hgo).trans ?_
  simp [hst, hpend, hne]

/-! ## Margins (R403-R405) -/

/-- The margins of a lane after a sample are those sampled. -/
theorem takeSample_lane (l : Link) {xs : List LaneSample} {k : Nat} (hk : k < xs.length) :
    ((takeSample l xs).lanes.getD k (0, 0, 0)).1 = (xs.getD k ⟨0, 0, 0⟩).hm
      ∧ ((takeSample l xs).lanes.getD k (0, 0, 0)).2.1 = (xs.getD k ⟨0, 0, 0⟩).vm := by
  simp [takeSample, List.getD_eq_getElem?_getD, List.getElem?_map, List.getElem?_zipIdx, List.getElem?_eq_getElem hk]

/-- What a sample goes through before it is judged. -/
theorem sample_taken {xs : List LaneSample} (hv : linkValid n = true) (huse : (s.link n).st.inUse = true) (hne : xs ≠ []) (hlen : xs.length ≤ 448) :
    ¬ (!linkValid n ∨ !(s.link n).st.inUse ∨ xs.isEmpty ∨ 448 < xs.length) := by
  simp [hv, huse, hne, hlen]

/-- The first sample of a link's lanes is not judged. -/
theorem exec_marginSample_first {xs : List LaneSample} (hv : linkValid n = true) (huse : (s.link n).st.inUse = true) (hne : xs ≠ [])
    (hlen : xs.length ≤ 448) (hnone : (s.link n).lanes = []) :
    exec (.marginSample n xs) s = .next ((s.putLink n (takeSample (s.link n) xs)).autoRetrain n) := by
  have hfirst : ¬ (s.link n).lanes.length = xs.length := by
    rw [hnone]
    exact fun h => hne (List.length_eq_zero_iff.1 h.symm)
  refine (if_neg (sample_taken hv huse hne hlen)).trans ?_
  rw [if_neg fun h => hfirst h.1, if_neg fun h => hfirst h.1]

/-- A lane below a threshold in two samples together makes an ACTIVE link MARGINAL. -/
theorem exec_marginSample_low {xs : List LaneSample} {k : Nat} (hv : linkValid n = true) (hst : (s.link n).st = .active)
    (hlen : xs.length ≤ 448) (hboth : (s.link n).lanes.length = xs.length) (hk : k < xs.length)
    (hold : laneLow (s.link n) ((s.link n).lanes.getD k (0, 0, 0)).1 ((s.link n).lanes.getD k (0, 0, 0)).2.1 = true)
    (hnew : laneLow (s.link n) (xs.getD k ⟨0, 0, 0⟩).hm (xs.getD k ⟨0, 0, 0⟩).vm = true) :
    exec (.marginSample n xs) s = .next ((s.linkTo n { takeSample (s.link n) xs with st := .marginal }).autoRetrain n) := by
  have huse : (s.link n).st.inUse = true := by rw [hst]; rfl
  have hne : xs ≠ [] := List.ne_nil_of_length_pos (Nat.zero_lt_of_lt hk)
  obtain ⟨hh, hvert⟩ := takeSample_lane (s.link n) hk
  refine (if_neg (sample_taken hv huse hne hlen)).trans (if_pos ⟨hboth, List.any_eq_true.2 ⟨k, List.mem_range.2 hk, ?_⟩, .inl hst⟩)
  simp only [hh, hvert, hold]
  exact hnew

theorem State.autoRetrain_not (h : ¬ ((s.link n).st = .marginal ∧ (s.link n).auto ∧ n < 48)) : s.autoRetrain n = s := if_neg h

theorem State.autoRetrain_at_once (hst : (s.link n).st = .marginal) (hauto : (s.link n).auto = true) (hn : n < 48) :
    s.autoRetrain n = s.linkTo n { s.link n with st := .retraining } := if_pos ⟨hst, hauto, hn⟩

end

/-! ## The isolation of a die (R408) -/

theorem State.ctx?_fatalLive_ne (s : State) {c k : Nat} (r : List Byte) (hk : k ≠ c) : (s.fatalLive c r).ctx? k = s.ctx? k := by
  have hmod (u : State) (g : Ctx → Ctx) : (u.modCtx c g).ctx? k = u.ctx? k := by
    unfold State.modCtx
    split
    · simp only [State.ctx?, State.setCtx, Table.find?_insert_ne _ _ hk]
    · rfl
  unfold State.fatalLive
  split
  · split
    · rfl
    · rw [State.fatal, State.postRecord, hmod, hmod]
  · rfl

/-- A context that has not been destroyed, FAULTED where `hit`. -/
def State.Struck (s : State) (c : Nat) (hit : Bool) : Prop := ∃ y, s.ctx? c = some y ∧ y.state ≠ .destroyed ∧ (hit = true → y.state = .faulted)

/-- Fatal faults of a list of contexts leave each of them FAULTED, unless it is destroyed. -/
theorem struck_foldl {g : Nat → Option (List Byte)} {c : Nat} (hg : (g c).isSome = true) (l : List Nat) {s : State} {b : Bool} (h : s.Struck c b) :
    (l.foldl (fun (t : State) k => match g k with | some r => t.fatalLive k r | none => t) s).Struck c (b || l.contains c) := by
  induction l generalizing s b with
  | nil => simpa using h
  | cons k l ih =>
    obtain ⟨y, hy, hlive, hfaulted⟩ := h
    have hstep : State.Struck (match g k with | some r => s.fatalLive k r | none => s) c (b || k == c) := by
      by_cases hk : k = c
      · subst hk
        obtain ⟨r, hr⟩ := Option.isSome_iff_exists.1 hg
        rw [hr]
        exact ⟨_, State.ctx?_fatalLive hy hlive r, CtxState.noConfusion, fun _ => rfl⟩
      · have hne : (k == c) = false := by simpa using hk
        rw [hne, Bool.or_false]
        refine ⟨y, ?_, hlive, hfaulted⟩
        cases g k with
        | none => exact hy
        | some r => exact (s.ctx?_fatalLive_ne r (Ne.symm hk)).trans hy
    have hcons : (b || (k :: l).contains c) = ((b || k == c) || l.contains c) := by
      rw [List.contains_cons, Bool.or_assoc, BEq.comm]
    rw [hcons]
    exact ih hstep

/-- The record of the fatal fault that isolation posts on a context with a floe on one of `dies`. -/
def isolationRecord (s : State) (dies : List Nat) (c : Nat) : Option (List Byte) :=
  (Table.search s.floes (fun _ f => f.ctx == c && dies.any f.onDie)).map (fun p =>
    faultRecord 0x70 3 false (partOf p.2.core) p.2.inst p.2.num p.2.core 0 0 0 0 0 0 0 0 (s.gt % 2 ^ 64))

theorem State.isolate_foldl (s : State) : s.isolate = (Table.keys s.ctxs).foldl
    (fun (t : State) c => match isolationRecord s ((isolatedDies s).filter (fun d => !s.net.isolated.contains d)) c with
      | some r => t.fatalLive c r
      | none => t) { s with net := { s.net with isolated := isolatedDies s } } := by
  simp only [State.isolate]
  congr 1
  funext t c
  rw [isolationRecord]
  cases Table.search s.floes _ <;> rfl

/-- Isolation strikes every context with a floe on a die that is newly isolated. -/
theorem isolate_strikes {s : State} {c d k : Nat} {x : Ctx} {f : Floe} (hc : s.ctx? c = some x) (hlive : x.state ≠ .destroyed)
    (hd : d ∈ isolatedDies s) (hnew : d ∉ s.net.isolated) (hf : s.floe? k = some f) (hctx : f.ctx = c) (hon : f.onDie d = true) :
    ∃ y, s.isolate.ctx? c = some y ∧ y.state = .faulted := by
  have hdie : ((isolatedDies s).filter (fun d => !s.net.isolated.contains d)).any f.onDie = true :=
    List.any_eq_true.2 ⟨d, List.mem_filter.2 ⟨hd, by simpa using hnew⟩, hon⟩
  have hrecord : (isolationRecord s ((isolatedDies s).filter (fun d => !s.net.isolated.contains d)) c).isSome = true := by
    rw [isolationRecord, Option.isSome_map, Table.search, List.find?_isSome]
    exact ⟨(k, f), Table.mem_of_find? hf, by simp only [hctx, hdie, BEq.rfl, Bool.and_self]⟩
  have hkey : c ∈ Table.keys s.ctxs := by
    obtain ⟨y, hy, -⟩ := Option.bind_eq_some_iff.1 hc
    exact List.mem_map_of_mem (Table.mem_of_find? hy)
  have hstart : State.Struck { s with net := { s.net with isolated := isolatedDies s } } c false := ⟨x, hc, hlive, fun h => absurd h Bool.false_ne_true⟩
  obtain ⟨y, hy, -, hfaulted⟩ := struck_foldl hrecord (Table.keys s.ctxs) hstart
  rw [s.isolate_foldl]
  exact ⟨y, hy, hfaulted (by simpa using hkey)⟩

/-! ## O50 -/

/-- Settles O50: each event by the link it leaves, and the isolation of a die by what it strikes. -/
theorem linkStates : Obligations.LinkStates := by
  unfold Obligations.LinkStates
  refine ⟨?links, ?isolation⟩
  case links =>
    intro s n i l' hv hcase
    suffices h : ∃ t, exec i s = .next t ∧ LinkMoved s n l' t by
      obtain ⟨t, ht, hmoved⟩ := h
      exact ⟨t, ht, hmoved.link, hmoved.others, fun a => by rw [hmoved.ms], hmoved.firn, hmoved.floes, hmoved.irqs⟩
    rcases hcase with ⟨rfl, hn, hst, rfl⟩ | ⟨rfl, hn, hst, rfl⟩ | ⟨rfl, rfl, hst, rfl⟩ | ⟨hi, hst, rfl⟩ | ⟨rfl, hst, rfl⟩ | ⟨rfl, hst, rfl⟩
      | ⟨rfl, hst, rfl⟩ | ⟨sp, u, c, rfl, hn, hst, rfl⟩ | ⟨xs, rfl, hst, hauto, hne, hlen, hboth, rfl, k, hk, hold, hnew⟩
      | ⟨xs, rfl, huse, hauto, hne, hlen, hnone, rfl⟩ | ⟨xs, rfl, hst, hauto, hn, hne, hlen, hnone, rfl⟩
      | ⟨sp, u, c, cs, rfl, hn, hst, hpend, hcs, rfl⟩ | ⟨k, rfl, rfl⟩
    · exact ⟨_, congrArg Host.Outcome.next (State.retrain_now hv hst hn), linkMoved_linkTo ..⟩
    · exact ⟨_, congrArg Host.Outcome.next (State.retrain_pends hv hst hn), linkMoved_putLink ..⟩
    · exact ⟨_, congrArg Host.Outcome.next (State.retrain_now hv hst (by decide)), linkMoved_linkTo ..⟩
    · refine ⟨_, ?_, linkMoved_linkTo ..⟩
      rcases hi with rfl | ⟨rfl, hne⟩
      · exact congrArg Host.Outcome.next (State.linkDown_inUse hv hst)
      · exact congrArg Host.Outcome.next ((if_neg hne).trans (State.linkDown_inUse hv hst))
    · exact ⟨_, exec_linkEnable hv hst, linkMoved_linkTo ..⟩
    · exact ⟨_, exec_trainingDone hv hst true, linkMoved_linkTo ..⟩
    · exact ⟨_, exec_trainingDone hv hst false, linkMoved_linkTo ..⟩
    · exact ⟨_, exec_retrainingDone hv hn hst sp u c, linkMoved_linkTo ..⟩
    · have hmoved := linkMoved_linkTo s n { takeSample (s.link n) xs with st := .marginal }
      refine ⟨_, exec_marginSample_low hv hst hlen hboth hk hold hnew, ?_⟩
      rw [State.autoRetrain_not]
      · exact hmoved
      · rw [hmoved.link]
        exact fun h => Bool.false_ne_true (hauto.symm.trans h.2.1)
    · have hmoved := linkMoved_putLink s n (takeSample (s.link n) xs)
      refine ⟨_, exec_marginSample_first hv huse hne hlen hnone, ?_⟩
      rw [State.autoRetrain_not]
      · exact hmoved
      · rw [hmoved.link]
        rintro ⟨hst, ha, hn⟩
        rcases hauto hst with h | h
        exacts [Bool.false_ne_true (h.symm.trans ha), absurd hn (Nat.not_lt.2 h)]
    · have hmoved := linkMoved_putLink s n (takeSample (s.link n) xs)
      refine ⟨_, exec_marginSample_first hv (by rw [hst]; rfl) hne hlen hnone, ?_⟩
      rw [State.autoRetrain_at_once (by rw [hmoved.link]; exact hst) (by rw [hmoved.link]; exact hauto) hn, hmoved.link]
      exact hmoved.andThen rfl (linkMoved_linkTo ..)
    · exact ⟨_, exec_refreshWindow_begins hv hn hst hpend hcs sp u c, (linkMoved_putLink s n { s.link n with banks := cs }).andThen rfl (linkMoved_linkTo ..)⟩
    · exact ⟨_, if_neg (by simp [hv]), linkMoved_putLink ..⟩
  case isolation =>
    intro s d hd hcut
    have hexec : exec (.ainarDieIsolation d) s = .next (State.isolate { s with net := { s.net with cut := s.net.cut ++ [d] } }) :=
      if_neg (by simp [hcut, hd])
    have hdie : d ∈ isolatedDies { s with net := { s.net with cut := s.net.cut ++ [d] } } :=
      List.mem_filter.2 ⟨List.mem_range.2 hd, by simp⟩
    refine ⟨_, hexec, ?_, ?_, fun a => ?_, ?_, ?_, fun c x k f hc hlive hnew hf hctx hon => isolate_strikes (s := { s with
      net := { s.net with cut := s.net.cut ++ [d] } }) hc hlive hdie hnew hf hctx hon⟩
    · rw [State.isolate_eq]
    · rw [State.isolate_eq]
      exact hdie
    · rw [State.isolate_ms]
    · rw [State.isolate_eq]
    · rw [State.isolate_eq]

end Sys2Proof.Machine
end

section
/-! RDSR and WRSR: the values of system registers, their high halves, privilege and the values a register refuses; O51 (R361, R362, R376). -/

namespace Sys2Proof.Machine

/-! ## RDSR (R361, R376) -/

theorem exec_rdsr {w : FWord} {sh : Shape} {e : Env} {s : State} (h : Issues (.rdsr w) w sh e s) (hx : e.exec ≠ 0) :
    ∃ t, exec (.rdsr w) s = .next t ∧ LaneEffect w sh e Fx.none
      ((computeLanes w e).map (fun l => (l, some (wordsOf sh.d.writes.length (readSr s e.h e.f w.c.toNat))))) s t := by
  refine exec_putLanes_effect (body := rdsrBody) h rfl (h.sameLanes fun ws hw => ?_) ?_
  · rw [← Option.some.inj hw]
    simp [wordsOf]
  · rw [rdsrBody, if_neg hx, writeTargets_putLanes]
    rfl

/-! ## Registers of the partition and of the context (R362) -/

/-- A write to a partition register changes the partitions alone. -/
theorem writePart_eq {s u : State} {part n v : Nat} (h : writePart s part n v = some u) : u = { s with parts := u.parts } := by
  have hput {g : Part → Part} (hg : some (s.modPart part g) = some u) : u = { s with parts := u.parts } := Option.some.inj hg ▸ rfl
  unfold writePart at h
  split at h
  case h_8 => cases h
  all_goals exact hput h

/-- A write to a context register changes the contexts alone. -/
theorem writeCtx_eq {s u : State} {ctx n v : Nat} (h : writeCtx s ctx n v = some u) : u = { s with ctxs := u.ctxs } := by
  have hput {g : Ctx → Ctx} (hg : some (s.modCtx ctx g) = some u) : u = { s with ctxs := u.ctxs } := Option.some.inj hg ▸ State.modCtx_eq s ctx g
  have hguarded {p : Prop} [Decidable p] {g : Ctx → Ctx} (hg : (if p then some (s.modCtx ctx g) else none) = some u) :
      u = { s with ctxs := u.ctxs } := by
    split at hg
    · exact hput hg
    · cases hg
  unfold writeCtx at h
  split at h
  case h_8 => cases h
  case h_2 | h_3 | h_4 | h_7 => exact hguarded h
  all_goals exact hput h

/-- The registers of the partition and of the context that software writes, %tepc among them, but for the high halves (R361). -/
def srFull : List Nat := [0x04, 0x10, 0x11, 0x12, 0x13, 0x14, 0x16, 0x1A, 0x21, 0x23, 0x25, 0x27, 0x28, 0x2B]

/-- The value that a write of `v` gives register `n`: with the high half held for it, or as it reads, where `n` is a low half. -/
def srValue (s : State) (h : Nat) (f : Floe) (n v : Nat) : Nat :=
  if srIsLo n then v + 2 ^ 32 * (match Table.find? f.hiHeld (n + 1) with | some x => x.toNat | none => readSr s h f (n + 1)) else v

/-- The floe after a write of `full` to register `n`: a high half held for it is used up. -/
def srTaken (n full : Nat) (f : Floe) : Floe :=
  { f with hiHeld := if srIsLo n then Table.erase f.hiHeld (n + 1) else f.hiHeld, tepc := if n = 4 then BitVec.ofNat 64 full else f.tepc }

/-- What the write leaves of the machine but for the floe. -/
def srWritten (s : State) (f : Floe) (n full : Nat) : Option State :=
  if n = 4 then some s else if n < 0x20 then writePart s (partOf f.core) n full else writeCtx s f.ctx n full

section
variable {s u : State} {h n v : Nat} {f : Floe}

theorem srFull_bounds (hn : n ∈ srFull) : srIsHi n = false ∧ srWritable n = true ∧ (n = 4 ∨ 0x10 ≤ n) := by
  revert n
  decide

theorem srWritten_same {full : Nat} (hu : srWritten s f n full = some u) : u.floes = s.floes ∧ SameTime s u := by
  unfold srWritten at hu
  split at hu
  · obtain rfl := Option.some.inj hu
    exact ⟨rfl, rfl, rfl, rfl, rfl⟩
  · split at hu
    · rw [writePart_eq hu]
      exact ⟨rfl, rfl, rfl, rfl, rfl⟩
    · rw [writeCtx_eq hu]
      exact ⟨rfl, rfl, rfl, rfl, rfl⟩

/-- Where no floe differs, one floe changed is that alone. -/
theorem floeAnd_modFloe (hf : s.floe? h = some f) (hu : u.floes = s.floes) (g : Floe → Floe) : FloeAnd h (g f) s u (u.modFloe h g) where
  floe := by rw [State.floe?_modFloe_same, State.floe?_of_floes hu, hf, Option.map_some]
  others := otherFloes_modFloe (fun k _ => State.floe?_of_floes hu k) g
  rest := by rw [State.modFloe_eq, ← hu]

theorem writeSr_held (hn : srIsHi n = true) :
    writeSr s h f n v = some (s.modFloe h (fun g => { g with hiHeld := Table.insert g.hiHeld n (BitVec.ofNat 32 v) })) := if_pos hn

/-- What a write of a register with no high half of its own comes to. -/
theorem writeSr_full (hn : srIsHi n = false) : writeSr s h f n v
    = (if n < 0x10 then writeFloeSr s h f n (srValue s h f n v) else if n < 0x20 then writePart s (partOf f.core) n (srValue s h f n v)
        else writeCtx s f.ctx n (srValue s h f n v)).map
      (fun t => if srIsLo n then t.modFloe h (fun g => { g with hiHeld := Table.erase g.hiHeld (n + 1) }) else t) :=
  if_neg (by simp [hn])

/-- %tepc written (R361). -/
theorem writeSr_tepc (hf : s.floe? h = some f) :
    ∃ t, writeSr s h f 4 v = some t ∧ FloeAnd h (srTaken 4 (srValue s h f 4 v) f) s s t ∧ SameTime s t := by
  refine ⟨(s.modFloe h (fun g => { g with tepc := BitVec.ofNat 64 (srValue s h f 4 v) })).modFloe h
    (fun g => { g with hiHeld := Table.erase g.hiHeld 5 }), writeSr_full rfl, ⟨?_, ?_, ?_⟩, ?_⟩
  · rw [State.floe?_modFloe_same, State.floe?_modFloe_same, hf]
    rfl
  · exact otherFloes_modFloe (otherFloes_modFloe (.refl h s) _) _
  · rw [State.modFloe_eq, State.modFloe_eq s]
  · rw [State.modFloe_eq, State.modFloe_eq s]
    exact ⟨rfl, rfl, rfl, rfl⟩

/-- A register written at once, its floe's high half used up. -/
theorem writeSr_takes (hf : s.floe? h = some f) (hn : n ∈ srFull) (hu : srWritten s f n (srValue s h f n v) = some u) :
    ∃ t, writeSr s h f n v = some t ∧ FloeAnd h (srTaken n (srValue s h f n v) f) s u t ∧ SameTime s t := by
  obtain ⟨hfloes, htime⟩ := srWritten_same hu
  obtain ⟨hhi, -, rfl | hge⟩ := srFull_bounds hn
  · obtain rfl : s = u := Option.some.inj hu
    exact writeSr_tepc hf
  · have h4 : ¬ n = 4 := by omega
    rw [srWritten, if_neg h4] at hu
    rw [writeSr_full hhi, if_neg (Nat.not_lt.2 hge), hu, Option.map_some]
    cases hlo : srIsLo n
    · have hkept : srTaken n (srValue s h f n v) f = f := by simp [srTaken, hlo, h4]
      rw [hkept]
      refine ⟨u, rfl, ⟨?_, fun k _ => State.floe?_of_floes hfloes k, ?_⟩, htime⟩
      · rw [State.floe?_of_floes hfloes, hf]
      · rw [← hfloes]
    · have hkept : srTaken n (srValue s h f n v) f = { f with hiHeld := Table.erase f.hiHeld (n + 1) } := by simp [srTaken, hlo, h4]
      rw [hkept]
      refine ⟨_, rfl, floeAnd_modFloe hf hfloes (fun g => { g with hiHeld := Table.erase g.hiHeld (n + 1) }), ?_⟩
      rw [State.modFloe_eq]
      exact ⟨htime.gt, htime.pace, htime.clk, htime.gated⟩

end

/-! ## WRSR (R362, R376) -/

section
variable {w : FWord} {sh : Shape} {e : Env} {s : State} {v : Nat}

theorem wrsrBody_invalid (ha : (rdOp s e.f 0 w.a 1).2 = false) : wrsrBody w sh e s = .done s := if_pos (.inr ha)

/-- WRSR of a valid value, by its checks in order. -/
theorem wrsrBody_valid (hx : e.exec ≠ 0) (ha : rdOp s e.f 0 w.a 1 = (v, true)) : wrsrBody w sh e s
    = if !srWritable w.c.toNat then .trap { cause := .illegalOperands, lanes := e.exec } s
      else if !srAny w.c.toNat ∧ !s.isPriv e.f then .trap { cause := .privileged, lanes := e.exec } s
      else match writeSr s e.h e.f w.c.toNat v with
        | some t => .done t
        | none => .trap { cause := .illegalOperands, lanes := e.exec } s := by
  have hgo : ¬ (e.exec = 0 ∨ (rdOp s e.f 0 w.a 1).2 = false) := by
    rintro (h | h)
    exacts [hx h, Bool.noConfusion ((congrArg Prod.snd ha).symm.trans h)]
  obtain rfl : (rdOp s e.f 0 w.a 1).1 = v := congrArg Prod.fst ha
  exact if_neg hgo

/-- One that its register takes. -/
theorem wrsrBody_writes {t : State} (hx : e.exec ≠ 0) (ha : rdOp s e.f 0 w.a 1 = (v, true)) (hw : srWritable w.c.toNat = true)
    (hp : srAny w.c.toNat = true ∨ s.isPriv e.f = true) (ht : writeSr s e.h e.f w.c.toNat v = some t) : wrsrBody w sh e s = .done t := by
  rw [wrsrBody_valid hx ha, if_neg (by simp [hw]), if_neg, ht]
  rcases hp with h | h <;> simp [h]

/-- One that its register does not take. -/
theorem wrsrBody_refuses (hx : e.exec ≠ 0) (ha : rdOp s e.f 0 w.a 1 = (v, true))
    (hw : srWritable w.c.toNat = false ∨ srWritable w.c.toNat = true ∧ s.isPriv e.f = true ∧ writeSr s e.h e.f w.c.toNat v = none) :
    wrsrBody w sh e s = .trap { cause := .illegalOperands, lanes := e.exec } s := by
  rw [wrsrBody_valid hx ha]
  rcases hw with h | ⟨h, hp, hnone⟩
  · rw [if_pos (by simp [h])]
  · rw [if_neg (by simp [h]), if_neg (by simp [hp]), hnone]

theorem wrsrBody_privileged (hx : e.exec ≠ 0) (ha : rdOp s e.f 0 w.a 1 = (v, true)) (hw : srWritable w.c.toNat = true)
    (h0 : w.c.toNat ≠ 0) (h2 : w.c.toNat ≠ 2) (hp : s.isPriv e.f = false) :
    wrsrBody w sh e s = .trap { cause := .privileged, lanes := e.exec } s := by
  rw [wrsrBody_valid hx ha, if_neg (by simp [hw]), if_pos (by simp [srAny, h0, h2, hp])]

/-- FQCTL refuses a size that its field has no room for (R362). -/
theorem writeSr_fqctl (h : Nat) (f : Floe) (hv : ¬ (4 ≤ v % 32 ∧ v % 32 ≤ 16)) : writeSr s h f 0x27 v = none := by
  have hctx : writeCtx s f.ctx 0x27 v = none := if_neg hv
  rw [writeSr_full rfl]
  exact congrArg (Option.map _) hctx

end

/-- The registers that hold a high half are written from the privileged level (R361). -/
theorem srIsHi_of_mem {n : Nat} (hn : n ∈ [0x05, 0x15, 0x17, 0x24, 0x26, 0x2C]) : srIsHi n = true ∧ srWritable n = true := by
  revert n
  decide

/-! ## O51 -/

/-- Settles O51: RDSR by the value it reads, WRSR by its checks in order and by what its register takes. -/
theorem systemRegisters : Obligations.SystemRegisters := by
  unfold Obligations.SystemRegisters
  rintro w sh e s n hx rfl
  refine ⟨fun h => exec_rdsr h hx, fun h ha => h.advances (body := wrsrBody) rfl (wrsrBody_invalid ha), fun v x h ha hctx => ⟨?flags, ?full, ?high, ?traps⟩⟩
  case flags =>
    intro h0
    have ht : writeSr s e.h e.f w.c.toNat v = some (s.modFloe e.h (fun g => { g with fpflags := BitVec.ofNat 32 v &&& 0x73F })) := by
      rw [h0]
      rfl
    exact h.changes (body := wrsrBody) (k := fun g => { g with fpflags := BitVec.ofNat 32 v &&& 0x73F }) rfl
      (wrsrBody_writes hx ha (by rw [h0]; rfl) (.inl (by rw [h0]; rfl)) ht)
  case full =>
    intro full hn hp hfull u hu
    obtain rfl : full = srValue s e.h e.f w.c.toNat v := hfull
    obtain ⟨-, hw, -⟩ := srFull_bounds hn
    obtain ⟨t, ht, hand, htime⟩ := writeSr_takes h.floe hn hu
    obtain ⟨r, hexec, hafter⟩ := h.retires (body := wrsrBody) rfl (wrsrBody_writes hx ha hw (.inr hp) ht) htime hand.floe hand.others
    rw [hand.rest] at hafter
    exact ⟨r, _, hexec, hafter, rfl⟩
  case high =>
    intro hn hp
    obtain ⟨hhi, hw⟩ := srIsHi_of_mem hn
    exact h.changes (body := wrsrBody) (k := fun g => { g with hiHeld := Table.insert g.hiHeld w.c.toNat (BitVec.ofNat 32 v) }) rfl
      (wrsrBody_writes hx ha hw (.inr hp) (writeSr_held hhi))
  case traps =>
    intro hl hb
    refine ⟨fun hrefused => ?_, fun hw h0 h2 hp => ?_⟩
    · refine h.traps (body := wrsrBody) rfl (wrsrBody_refuses hx ha ?_) hctx hl hb Cause.noConfusion
      refine hrefused.imp_right fun ⟨hw, hp, hn, hv⟩ => ⟨hw, hp, ?_⟩
      rw [hn]
      exact writeSr_fqctl _ _ hv
    · exact h.traps (body := wrsrBody) rfl (wrsrBody_privileged hx ha hw h0 h2 hp) hctx hl hb Cause.noConfusion

end Sys2Proof.Machine
end

section
/-! Bytes as numbers: the bits of a number given by its bytes, and the fields of a number laid out byte by byte (R3). -/

namespace Sys2Proof.Machine

theorem natOf_cons (b : Byte) (bs : List Byte) : natOf (b :: bs) = 2 ^ 8 * natOf bs + b.toNat := by
  rw [natOf, Nat.add_comm]
  rfl

/-- Bit `i` of a number is bit `i` mod 8 of its byte `i` / 8. -/
theorem testBit_natOf (bs : List Byte) (i : Nat) : (natOf bs).testBit i = (bs.getD (i / 8) 0).getLsbD (i % 8) := by
  induction bs generalizing i with
  | nil => simp [natOf]
  | cons b bs ih =>
    rw [natOf_cons, Nat.testBit_two_pow_mul_add _ b.isLt]
    by_cases h : i < 8
    · rw [if_pos h, Nat.div_eq_of_lt h, Nat.mod_eq_of_lt h]
      rfl
    · obtain ⟨j, rfl⟩ := Nat.exists_eq_add_of_le (Nat.not_lt.1 h)
      rw [if_neg h, Nat.add_sub_cancel_left, ih, Nat.add_div_left _ (by decide), Nat.add_mod_left]
      rfl

@[simp] theorem bytesOf_length (n v : Nat) : (bytesOf n v).length = n := by
  induction n generalizing v with
  | zero => rfl
  | succ n ih => rw [bytesOf, List.length_cons, ih]

/-- The bytes of a number give it back, where there are enough of them. -/
theorem natOf_bytesOf {n v : Nat} (h : v < 256 ^ n) : natOf (bytesOf n v) = v := by
  induction n generalizing v with
  | zero => exact (Nat.lt_one_iff.1 h).symm
  | succ n ih =>
    rw [bytesOf, natOf, ih (Nat.div_lt_of_lt_mul (by rwa [Nat.pow_succ'] at h)), BitVec.toNat_ofNat]
    exact Nat.mod_add_div v 256

/-- A word laid out in as many bytes as it has. -/
theorem ofNat_natOf_bytesOf {w : Nat} (n : Nat) (x : BitVec w) (hw : w = 8 * n) : BitVec.ofNat w (natOf (bytesOf n x.toNat)) = x := by
  subst hw
  have hlt : x.toNat < 256 ^ n := x.isLt.trans_eq (Nat.pow_mul ..)
  rw [natOf_bytesOf hlt, BitVec.ofNat_toNat, BitVec.setWidth_eq]

/-- The field of the bytes `b` in a number of `w` bits laid out byte by byte. -/
theorem extractLsb'_natOf {w p q : Nat} (a b c : List Byte) (hp : 8 * a.length = p) (hq : 8 * b.length = q) (hw : p + q ≤ w) :
    (BitVec.ofNat w (natOf (a ++ b ++ c))).extractLsb' p q = BitVec.ofNat q (natOf b) := by
  refine BitVec.eq_of_getLsbD_eq fun i hi => ?_
  have hin : p + i < w := by omega
  have hbyte : (a ++ b ++ c).getD ((p + i) / 8) 0 = b.getD (i / 8) 0 := by
    have hlt : i / 8 < b.length := by omega
    rw [← hp, Nat.mul_add_div (by decide), List.append_assoc, List.getD_append_right _ _ _ _ (Nat.le_add_right ..), Nat.add_sub_cancel_left,
      List.getD_append _ _ _ _ hlt]
  have hmod : (p + i) % 8 = i % 8 := by rw [← hp, Nat.mul_add_mod]
  rw [BitVec.getLsbD_extractLsb', BitVec.getLsbD_ofNat, BitVec.getLsbD_ofNat, testBit_natOf, testBit_natOf, hbyte, hmod]
  simp [hi, hin]

end Sys2Proof.Machine
end

section
/-! Boot, the locked registers, attestation, the mailbox, throttling, and loss of power; O57 (R396, R423-R428, R431-R434). -/

namespace Sys2Proof.Machine

/-! ## Locked registers (R424-R426) -/

/-- The reserved bits of a repair map read as zero (R425). -/
theorem repairBits_reserved (m : BitVec 2048) :
    (repairBits m).extractLsb' 1664 384 = 0 ∧ ∀ i, i < 208 → (repairBits m).extractLsb' (8 * i + 5) 3 = 0 := by
  have hbit (j : Nat) (hj : 1664 ≤ j ∨ 5 ≤ j % 8) : (natOf (List.replicate 208 0x1F)).testBit j = false := by
    rw [testBit_natOf]
    rcases hj with h | h
    · rw [List.getD_eq_default _ _ (by rw [List.length_replicate]; omega)]
      simp
    · by_cases hlt : j / 8 < 208
      · have hmod : j % 8 = 5 ∨ j % 8 = 6 ∨ j % 8 = 7 := by omega
        rw [List.getD_replicate _ hlt]
        rcases hmod with h | h | h <;> rw [h] <;> rfl
      · rw [List.getD_eq_default _ _ (by rw [List.length_replicate]; omega)]
        simp
  have hrepair (j : Nat) (hj : 1664 ≤ j ∨ 5 ≤ j % 8) : (repairBits m).getLsbD j = false := by
    rw [repairBits, BitVec.getLsbD_and, BitVec.getLsbD_ofNat, hbit j hj, Bool.and_false, Bool.and_false]
  refine ⟨BitVec.eq_of_getLsbD_eq fun j hj => ?_, fun i hi => BitVec.eq_of_getLsbD_eq fun j hj => ?_⟩
  · rw [BitVec.getLsbD_extractLsb', hrepair _ (.inl (by omega)), Bool.and_false]
    exact BitVec.getLsbD_zero.symm
  · rw [BitVec.getLsbD_extractLsb', hrepair _ (.inr (by omega)), Bool.and_false]
    exact BitVec.getLsbD_zero.symm

/-- The reserved bits of a row of world bits read as zero (R426). -/
theorem rowBits_reserved (x : BitVec 256) : (x &&& BitVec.ofNat 256 (2 ^ 208 - 1)).extractLsb' 208 48 = 0 := by
  refine BitVec.eq_of_getLsbD_eq fun j hj => ?_
  simp [BitVec.getLsbD_extractLsb', BitVec.getLsbD_ofNat, Nat.testBit_two_pow_sub_one, -Nat.reducePow, -Nat.reduceSub]

/-! ## Attestation (R427) -/

theorem shaRound_length (v : List Word) (k w : Word) : (shaRound v k w).length = 8 := rfl

theorem shaRounds_length (ks w : List Word) {v : List Word} (h : v.length = 8) : (shaRounds ks w v).length = 8 := by
  induction ks generalizing w v with
  | nil => exact h
  | cons k ks ih => exact ih _ (shaRound_length v k _)

theorem shaBlocks_length (n : Nat) (bs : List Byte) {h : List Word} (hh : h.length = 8) : (shaBlocks n bs h).length = 8 := by
  induction n generalizing bs h with
  | zero => exact hh
  | succ n ih => exact ih _ (by rw [shaBlock, List.length_zipWith, hh, shaRounds_length _ _ hh]; rfl)

theorem sha256_length (msg : List Byte) : (sha256 msg).length = 32 := by
  simp only [sha256, List.length_flatMap, List.length_map, List.length_range]
  rw [List.map_const', List.sum_replicate, shaBlocks_length _ _ rfl]
  rfl

/-- What a report says: the nonce, the image with its security version, and the digest of the locks. -/
theorem report_fields (l : Life) (nonce : BitVec 256) : (report l nonce).extractLsb' 0 256 = nonce
    ∧ (report l nonce).extractLsb' 288 256 = l.digest ∧ (report l nonce).extractLsb' 544 32 = l.svn
    ∧ (report l nonce).extractLsb' 576 256 = BitVec.ofNat 256 (natOf (sha256 (lockBytes l))) := by
  have hfield {p q : Nat} (a b c : List Byte) (hbytes : reportBody l nonce = a ++ b ++ c) (hp : 8 * a.length = p) (hq : 8 * b.length = q)
      (hw : p + q ≤ 4096) : (report l nonce).extractLsb' p q = BitVec.ofNat q (natOf b) := by
    rw [report, hbytes, List.append_assoc (a ++ b) c]
    exact extractLsb'_natOf a b _ hp hq hw
  let body1 := bytesOf 32 nonce.toNat ++ bytesOf 4 Config.romVersion.toNat
  let body2 := body1 ++ bytesOf 32 l.digest.toNat ++ bytesOf 4 l.svn.toNat
  let tail2 := sha256 (lockBytes l) ++ bytesOf 24 (if l.fromFlash then 0 else 1)
  have hbody : reportBody l nonce = body2 ++ tail2 := List.append_assoc ..
  refine ⟨?_, ?_, ?_, ?_⟩
  · exact (hfield [] (bytesOf 32 nonce.toNat) (bytesOf 4 Config.romVersion.toNat ++ bytesOf 32 l.digest.toNat ++ bytesOf 4 l.svn.toNat ++ tail2)
      (by simp [hbody, body1, body2]) rfl (by rw [bytesOf_length]) (by decide)).trans (ofNat_natOf_bytesOf 32 nonce rfl)
  · exact (hfield body1 (bytesOf 32 l.digest.toNat) (bytesOf 4 l.svn.toNat ++ tail2)
      (by simp [hbody, body2]) (by simp [body1]) (by rw [bytesOf_length]) (by decide)).trans (ofNat_natOf_bytesOf 32 l.digest rfl)
  · exact (hfield (body1 ++ bytesOf 32 l.digest.toNat) (bytesOf 4 l.svn.toNat) tail2
      hbody (by simp [body1]) (by rw [bytesOf_length]) (by decide)).trans (ofNat_natOf_bytesOf 4 l.svn rfl)
  · exact hfield body2 (sha256 (lockBytes l)) (bytesOf 24 (if l.fromFlash then 0 else 1)) rfl (by simp [body1, body2]) (by rw [sha256_length])
      (by decide)

/-! ## Clocks (R20, R434) -/

/-- From `s` to `t` clocks and gates have changed, and what each cluster has counted has not. -/
structure Reclocked (s t : State) : Prop where
  rest : t = { s with clk := t.clk, gated := t.gated, pace := t.pace, life := { s.life with gate := t.life.gate } }
  counts : ∀ k, (t.paceNow k).mck = (s.paceNow k).mck ∧ (t.paceNow k).stop = (s.paceNow k).stop

namespace Reclocked

theorem refl (s : State) : Reclocked s s := ⟨rfl, fun _ => ⟨rfl, rfl⟩⟩

section
variable {s t u : State}

theorem trans (h : Reclocked s t) (k : Reclocked t u) : Reclocked s u where
  rest := by
    rw [k.rest, h.rest]
  counts := fun n => ⟨(k.counts n).1.trans (h.counts n).1, (k.counts n).2.trans (h.counts n).2⟩

theorem foldl {g : State → Nat → State} (h : ∀ s k, Reclocked s (g s k)) (l : List Nat) (s : State) : Reclocked s (l.foldl g s) :=
  List.foldlRecOn l g (motive := Reclocked s) (refl s) fun t ht a _ => ht.trans (h t a)

end

end Reclocked

theorem reclocked_setClock (s : State) (k mhz : Nat) (gate : Bool) : Reclocked s (s.setClock k mhz gate) where
  rest := rfl
  counts := fun n => by
    by_cases hn : n = k
    · subst hn
      have hpace : Table.getD (s.setClock n mhz gate).pace Pace.fresh n = s.paceNow n := Table.getD_setD_same ..
      have hnow : (s.paceNow n).gt = s.gt := by
        unfold State.paceNow
        split <;> rfl
      have hgt : (s.setClock n mhz gate).gt = s.gt := rfl
      rw [State.paceNow, hpace, hnow, hgt, Nat.sub_self]
      split <;> simp
    · have hpace : Table.getD (s.setClock k mhz gate).pace Pace.fresh n = Table.getD s.pace Pace.fresh n := Table.getD_setD_ne _ _ _ hn
      have hclk : Table.getD (s.setClock k mhz gate).clk 940 n = Table.getD s.clk 940 n := Table.getD_setD_ne _ _ _ hn
      have hgated : Table.getD (s.setClock k mhz gate).gated false n = Table.getD s.gated false n := Table.getD_setD_ne _ _ _ hn
      have hnow : (s.setClock k mhz gate).paceNow n = s.paceNow n := by
        simp only [State.paceNow, hpace, hclk, hgated]
        rfl
      rw [hnow]
      exact ⟨rfl, rfl⟩

theorem reclocked_lowerCluster (s : State) (k : Nat) : Reclocked s (s.lowerCluster k) := by
  have hgate : Reclocked s { s with life := { s.life with gate := true } } := ⟨rfl, fun _ => ⟨rfl, rfl⟩⟩
  simp only [State.lowerCluster]
  split
  · exact hgate.trans (reclocked_setClock ..)
  · exact reclocked_setClock ..

/-! ## Throttling (R434) -/

/-- What a cluster's clock and gate read. -/
def State.clocked (s : State) (k : Nat) : Nat × Bool := (Table.getD s.clk 940 k, Table.getD s.gated false k)

@[simp] theorem State.clocked_setClock_same (s : State) (k mhz : Nat) (gate : Bool) : (s.setClock k mhz gate).clocked k = (mhz, gate) := by
  simp [State.clocked, State.setClock]

theorem State.clocked_setClock_ne (s : State) {k j : Nat} (mhz : Nat) (gate : Bool) (h : j ≠ k) : (s.setClock k mhz gate).clocked j = s.clocked j := by
  simp [State.clocked, State.setClock, Table.getD_setD_ne _ _ _ h]

/-- The clock of a cluster that is lowered once: 20 MHz less, or gated. -/
def lowered (x : Nat × Bool) : Nat × Bool := if x.1 ≤ 780 then (x.1, true) else (x.1 - 20, x.2)

theorem State.clocked_lowerCluster_same (s : State) (k : Nat) : (s.lowerCluster k).clocked k = lowered (s.clocked k) := by
  simp only [State.lowerCluster]
  split
  · next h => exact (State.clocked_setClock_same ..).trans (if_pos h).symm
  · next h => exact (State.clocked_setClock_same ..).trans (if_neg h).symm

theorem State.clocked_lowerCluster_ne (s : State) {k j : Nat} (h : j ≠ k) : (s.lowerCluster k).clocked j = s.clocked j := by
  simp only [State.lowerCluster]
  split
  · exact State.clocked_setClock_ne _ _ _ h
  · exact State.clocked_setClock_ne _ _ _ h

theorem clocked_foldl_lowerCluster {l : List Nat} (hl : l.Nodup) (s : State) (k : Nat) :
    (l.foldl State.lowerCluster s).clocked k = if k ∈ l then lowered (s.clocked k) else s.clocked k := by
  induction l generalizing s with
  | nil => rfl
  | cons j l ih =>
    obtain ⟨hj, hl⟩ := List.nodup_cons.1 hl
    rw [List.foldl_cons, ih hl]
    by_cases hk : k = j
    · subst hk
      rw [if_neg hj, if_pos List.mem_cons_self, State.clocked_lowerCluster_same]
    · rw [State.clocked_lowerCluster_ne _ hk]
      simp [hk]

theorem allClusters_nodup : allClusters.Nodup := List.nodup_range.filter _

/-- A limit passed lowers every cluster. -/
theorem exec_throttleStep_over {s : State} {tmax : BitVec 8} {pwr : BitVec 12} (hp : s.life.powered = true) (hover : overLimit s tmax pwr = true) :
    exec (.throttleStep tmax pwr) s
      = .next (allClusters.foldl State.lowerCluster { s with life := { s.life with tmax := tmax, pwr := pwr, throt := true, clearSince := none } }) := by
  rw [exec, execThrottleStep, if_neg (by simp [hp]), if_pos hover]

theorem throttleStep_lowers {s : State} {tmax : BitVec 8} {pwr : BitVec 12} (hp : s.life.powered = true) (hover : overLimit s tmax pwr = true) :
    ∃ t, exec (.throttleStep tmax pwr) s = .next t ∧ t.life.throt = true ∧ t.life.tmax = tmax ∧ t.life.pwr = pwr
      ∧ (∀ k ∈ allClusters, t.clocked k = lowered (s.clocked k))
      ∧ (∀ k, (t.paceNow k).mck = (s.paceNow k).mck ∧ (t.paceNow k).stop = (s.paceNow k).stop) ∧ t.floes = s.floes ∧ t.ms = s.ms := by
  have hre := Reclocked.foldl reclocked_lowerCluster allClusters
    { s with life := { s.life with tmax := tmax, pwr := pwr, throt := true, clearSince := none } }
  refine ⟨_, exec_throttleStep_over hp hover, ?_, ?_, ?_, fun k hk => ?_, hre.counts, ?_, ?_⟩
  · rw [hre.rest]
  · rw [hre.rest]
  · rw [hre.rest]
  · rw [clocked_foldl_lowerCluster allClusters_nodup, if_pos hk]
    rfl
  · rw [hre.rest]
  · rw [hre.rest]

/-- A cluster whose gate is opened, its clock as it was. -/
def State.ungate (s : State) (k : Nat) : State := s.setClock k (Table.getD s.clk 940 k) false

theorem State.clocked_ungate (s : State) (k j : Nat) : (s.ungate k).clocked j = ((s.clocked j).1, if j = k then false else (s.clocked j).2) := by
  by_cases h : j = k
  · subst h
    rw [State.ungate, State.clocked_setClock_same, if_pos rfl, State.clocked]
  · rw [State.ungate, State.clocked_setClock_ne _ _ _ h, if_neg h]

theorem clocked_foldl_ungate (l : List Nat) (s : State) (k : Nat) :
    (l.foldl State.ungate s).clocked k = ((s.clocked k).1, if k ∈ l then false else (s.clocked k).2) := by
  induction l generalizing s with
  | nil => rfl
  | cons j l ih =>
    rw [List.foldl_cons, ih, State.clocked_ungate]
    by_cases hl : k ∈ l
    · simp [hl]
    · by_cases hj : k = j <;> simp [hl, hj]

/-- No gate is listed that the table of gates does not name. -/
theorem gated_of_not_key {s : State} {k : Nat} (h : k ∉ Table.keys s.gated) : Table.getD s.gated false k = false := by
  have hnone : Table.find? s.gated k = none := Table.find?_none fun x hx hk => h (hk ▸ List.mem_map_of_mem hx)
  rw [Table.getD, hnone]
  rfl

theorem exec_throttleClear_clears {s : State} {tmax : BitVec 8} {pwr : BitVec 12} {t0 : Nat} (hsince : s.life.clearSince = some t0)
    (hms : t0 + 1000000 ≤ s.gt) (hover : overLimit s tmax pwr = false) : exec (.throttleClear tmax pwr) s
      = .next { (Table.keys s.gated).foldl State.ungate s with
          life := { ((Table.keys s.gated).foldl State.ungate s).life with tmax := tmax, pwr := pwr, throt := false, gate := false } } := by
  rw [exec, execThrottleClear, hsince]
  exact if_neg (by simp [hover, hms])

theorem throttleClear_lifts {s : State} {tmax : BitVec 8} {pwr : BitVec 12} {t0 : Nat} (hsince : s.life.clearSince = some t0)
    (hms : t0 + 1000000 ≤ s.gt) (hover : overLimit s tmax pwr = false) :
    ∃ t, exec (.throttleClear tmax pwr) s = .next t ∧ t.life = { s.life with tmax := tmax, pwr := pwr, throt := false, gate := false }
      ∧ (∀ k, Table.getD t.gated false k = false ∧ Table.getD t.clk 940 k = Table.getD s.clk 940 k
          ∧ (t.paceNow k).mck = (s.paceNow k).mck ∧ (t.paceNow k).stop = (s.paceNow k).stop)
      ∧ { t with pace := s.pace, clk := s.clk, gated := s.gated, life := s.life } = s := by
  have hre : Reclocked s ((Table.keys s.gated).foldl State.ungate s) := .foldl (fun _ _ => reclocked_setClock ..) _ s
  have hclock := clocked_foldl_ungate (Table.keys s.gated) s
  have hexec := exec_throttleClear_clears hsince hms hover
  generalize (Table.keys s.gated).foldl State.ungate s = u at hre hclock hexec
  refine ⟨_, hexec, ?_, fun k => ⟨?_, congrArg Prod.fst (hclock k), hre.counts k⟩, ?_⟩
  · rw [hre.rest]
  · refine (congrArg Prod.snd (hclock k)).trans ?_
    dsimp only
    split
    · rfl
    · next h => exact gated_of_not_key h
  · rw [hre.rest]

/-! ## Power (R396) -/

/-- A block with a key fails its tag once power is lost. -/
theorem powerOff_sealMeta {s : State} {k : Nat} (hkid : (s.sealMeta k).kid ≠ 0) : (s.powerOff.sealMeta k).status ≠ 0 := by
  have horphan (m : SealMeta) (h : m.kid ≠ 0) : m.orphan.status ≠ 0 := by
    by_cases h0 : m.status = 0
    · rw [SealMeta.orphan, if_pos ⟨h, h0⟩]
      exact Nat.succ_ne_zero 1
    · rw [SealMeta.orphan, if_neg fun hc => h0 hc.2]
      exact h0
  have hfind : Table.find? s.powerOff.ms.sealTab k = (Table.find? s.ms.sealTab k).map SealMeta.orphan := Table.find?_map s.ms.sealTab (fun _ m => m.orphan) k
  rw [State.sealMeta, Table.getD] at hkid ⊢
  rw [hfind]
  cases hm : Table.find? s.ms.sealTab k with
  | none => exact absurd (by rw [hm]; rfl) hkid
  | some m =>
    rw [hm] at hkid
    exact horphan m hkid

/-! ## PLIMIT (R431) -/

/-- A number of 32 bits written to a register of four bytes is what it then holds. -/
theorem mergeAt_all {base v : Nat} (old : Nat) (hv : v < 2 ^ 32) : mergeAt base 4 old base 4 v = v := by
  have hbytes : (List.range 4).map (fun i => if base ≤ base + i ∧ base + i < base + 4 then BitVec.ofNat 8 (v / 256 ^ (base + i - base))
      else BitVec.ofNat 8 (old / 256 ^ i)) = bytesOf 4 v := by
    simp [List.range_succ, bytesOf, Nat.div_div_eq_div_mul]
  rw [mergeAt, hbytes, natOf_bytesOf hv]

/-- A write of PLIMIT touches no other register of the block. -/
theorem writeMgmt_plimit (s : State) {v : Nat} (hv : v < 2 ^ 32) :
    s.writeMgmt 0x108 4 v = { s with life := { s.life with plimit := plimitOf s v }, fresh := s.fresh + 1 } := by
  have hunlocked : (List.range 4).any (fun i => lockedOffset (0x108 + i)) = false := by decide
  have hcounters : counterOffsets.filter (fun c => covers c 4 0x108 4 && mergeAt c 4 1 0x108 4 v == 0) = [] := by
    refine List.filter_eq_nil_iff.2 fun c hc => ?_
    have hout : ∀ c ∈ counterOffsets, covers c 4 0x108 4 = false := by decide
    rw [hout c hc]
    exact Bool.false_ne_true
  have hplimit : overlaps 0x108 4 0x108 4 = true := by decide
  have hnonce : overlaps 0x1000 32 0x108 4 = false := by decide
  have hwindow : ∀ i ∈ List.range 4, ¬ (0x1000000 ≤ 0x108 + i ∧ 0x108 + i < 0x2000000) := by decide
  simp only [State.writeMgmt, hunlocked, hcounters, hplimit, hnonce, mergeAt_all _ hv, if_true, Bool.false_eq_true, if_false, List.foldl_nil]
  refine List.foldlRecOn _ _ (motive := fun t => t = { s with life := { s.life with plimit := plimitOf s v }, fresh := s.fresh + 1 }) rfl
    fun t ht i hi => ?_
  rw [if_neg (hwindow i hi), ht]

theorem exec_barRegisterWrite_plimit {s : State} (hb : s.life.boot ≠ .failed) (hp : s.life.powered = true) {v : BitVec 512}
    (hlow : 1000 ≤ v.toNat) (hv : v.toNat < 2 ^ 32) : exec (.barRegisterWrite 0x800108 4 v) s
      = .next { s with
          life := { s.life with plimit := if 3800 < v.toNat then 3800 else BitVec.ofNat 32 v.toNat }, fresh := s.fresh + 1 } := by
  have hlimit : plimitOf s v.toNat = if 3800 < v.toNat then 3800 else BitVec.ofNat 32 v.toNat := by
    rw [plimitOf, if_neg (Nat.not_lt.2 hlow)]
  rw [← hlimit, ← writeMgmt_plimit s hv]
  exact if_neg (by simp [hb, hp])

/-! ## Boot (R423) -/

theorem exec_verifyResult_fails {s : State} (hb : s.life.boot = .verify) : exec (.verifyResult false) s
    = .next { s with life := { s.life with
        boot := if s.life.failures = 0 then .recovery else .failed, failures := s.life.failures + 1 } } := by
  rw [exec, execVerifyResult, if_neg (not_not.2 hb)]
  rfl

/-- INIT_DONE locks the registers as the firmware wrote them, their reserved bits zero. -/
theorem exec_initDone_locks {s : State} (hb : s.life.boot = .init) (locks : LockSet) :
    ∃ l, exec (.initDone true locks) s = .next { s with life := l } ∧ l.boot = .ready ∧ l.locked = true ∧ l.saPort = locks.saPort &&& 0xFFFFFF
      ∧ l.regions = locks.regions.take 64 ∧ l.digest = s.life.digest
      ∧ (∀ m ∈ l.repairMap, m.extractLsb' 1664 384 = 0 ∧ ∀ i, i < 208 → m.extractLsb' (8 * i + 5) 3 = 0)
      ∧ (∀ x ∈ l.saCore ++ l.saMover, x.extractLsb' 208 48 = 0) := by
  refine ⟨_, (if_neg (not_not.2 hb)).trans (if_neg (by simp)), rfl, rfl, rfl, rfl, rfl, fun m hm => ?_, fun x hx => ?_⟩
  · obtain ⟨y, -, rfl⟩ := List.mem_map.1 hm
    exact repairBits_reserved y
  · rcases List.mem_append.1 hx with h | h
    · obtain ⟨y, -, rfl⟩ := List.mem_map.1 h
      exact rowBits_reserved y
    · obtain ⟨y, -, rfl⟩ := List.mem_map.1 h
      exact rowBits_reserved y

/-! ## O57 -/

/-- Settles O57: each event of boot and life by the branch of its step that the state selects. -/
theorem bootAndLife : Obligations.BootAndLife := by
  unfold Obligations.BootAndLife
  refine ⟨?boot, ?life⟩
  case boot =>
    intro s d v value locks ok
    refine ⟨⟨_, rfl, rfl, rfl, rfl, rfl, fun _ => rfl⟩, fun hb hp => ⟨?_, ?_⟩, fun hb => if_pos (.inl hb), fun hb => ⟨?_, fun h0 => ?_, fun h0 => ?_⟩,
      fun hb => if_pos hb, fun hb => if_neg (by simp [hb]), fun hb => if_pos hb, fun hb => ⟨?_, exec_initDone_locks hb locks⟩, fun hb => if_pos hb⟩
    · exact (if_neg (by simp [hb, hp])).trans (if_pos rfl)
    · exact (if_neg (by simp [hb, hp])).trans (if_neg Bool.false_ne_true)
    · exact (if_neg (not_not.2 hb)).trans (if_pos rfl)
    · rw [exec_verifyResult_fails hb, if_pos h0, h0]
    · rw [exec_verifyResult_fails hb, if_neg h0]
    · exact (if_neg (not_not.2 hb)).trans (if_pos rfl)
  case life =>
    intro s off x value tmax pwr b
    refine ⟨fun hoff hl => ?locked, fun h => ?unlocked, fun hb hbit => ⟨fun hbusy => ?busy, fun hnone hr => ?request⟩, fun n hn hr => ?report,
      fun hb => if_neg (not_not.2 hb), fun hb hp => ⟨fun hle => ?consumed, fun hlt => if_pos (.inr (.inr hlt))⟩,
      fun hp => ⟨fun hover => ?lowers, fun hover => ?within⟩, fun t0 hsince hms hover => throttleClear_lifts hsince hms hover,
      fun hhot hp => ⟨_, congrArg Host.Outcome.next (if_pos ⟨hhot, hp⟩), rfl, rfl⟩,
      fun hcool => congrArg Host.Outcome.next (if_neg fun h => absurd h.1 (Nat.not_le.2 hcool)),
      ⟨_, rfl, rfl, rfl, rfl, fun _ => rfl, fun k hk => powerOff_sealMeta hk⟩,
      fun hb hp v hlow hv => ⟨_, exec_barRegisterWrite_plimit hb hp hlow hv, rfl, rfl⟩⟩
    case locked =>
      exact congrArg Host.Outcome.next ((if_pos hoff).trans (if_pos hl))
    case unlocked =>
      refine congrArg Host.Outcome.next ?_
      rcases h with h | h
      · exact if_neg (by simp [h])
      · rw [State.lockedWrite, h, if_neg Bool.false_ne_true, ite_self]
    case busy =>
      exact (if_neg (by simp [hb, hbit])).trans (if_pos hbusy)
    case request =>
      exact (if_neg (by simp [hb, hbit])).trans (if_neg (by simp [hnone, hr]))
    case report =>
      have hexec : exec .attestationReportReady s
          = .next { s with life := { s.life with attRep := some (report s.life n), attStat := 1, attPend := none } } := by
        rw [exec, execAttestationReportReady, hn]
        exact if_neg (by simp [hr])
      exact ⟨_, hexec, report_fields s.life n⟩
    case consumed =>
      refine if_neg ?_
      rintro (h | h | h)
      exacts [hb h, by simp [hp] at h, Nat.not_lt.2 hle h]
    case lowers =>
      obtain ⟨t, ht, hthrot, htmax, hpwr, hclock, hcounts, hfloes, hms⟩ := throttleStep_lowers hp hover
      refine ⟨t, ht, hthrot, htmax, hpwr, fun k hk hhigh => ?_, fun k hk hlow => ?_, hcounts, hfloes, fun a => by rw [hms]⟩
      · exact congrArg Prod.fst ((hclock k hk).trans (if_neg (Nat.not_le.2 hhigh)))
      · have hk := (hclock k hk).trans (if_pos hlow)
        exact ⟨congrArg Prod.fst hk, congrArg Prod.snd hk⟩
    case within =>
      exact ⟨_, (if_neg (by simp [hp])).trans (if_neg (by simp [hover])), rfl, rfl, rfl⟩

end Sys2Proof.Machine
end

section
/-! ENQ, NODEOUT and RECV: a record sent to a queue of this device, refused with a status, or invalid; and O43 (R174, R333, R337-R340). -/

namespace Sys2Proof.Machine

/-! ## The journal counts an entry (R337) -/

/-- A new entry takes the next number of its partition. -/
theorem State.jSeq_jNew (s : State) (part high status reason inst : Nat) :
    (((s.jNew part high status reason inst).1).part part).jSeq = (s.part part).jSeq + 1 := by
  rw [State.part, (journalOnly_jNew s part high status reason inst).parts]
  exact congrArg Part.jSeq (Table.getD_setD_same ..)

/-! ## D written for the floe after other changes (R114) -/

section
variable {i : Instr} {w : FWord} {sh : Shape} {e : Env} {s u : State}

/-- One answer for the floe, of as many words as D has. -/
theorem Issues.laneList_one (h : Issues i w sh e s) {o : Option (List FirnWord)} (ho : ∀ ws, o = some ws → ws.length = sh.d.writes.length) :
    LaneList e.f sh.d.writes [(0, o)] := by
  refine h.laneList _ (List.pairwise_singleton ..) (by simp) (fun l ws hm => ?_) (fun _ => le_rfl)
  obtain ⟨-, hws⟩ := Prod.mk.inj (List.mem_singleton.1 hm)
  exact ho ws hws.symm

/-- A body that writes D once for the floe, and changes nothing else. -/
theorem exec_writeUni (h : Issues i w sh e s) {body : FWord → Shape → Env → State → Res} (hrun : exec i s = issueF i body s) (v : Option Nat)
    (hbody : body w sh e s = .done (writeUni e.f sh.d.writes v s)) :
    ∃ t, exec i s = .next t ∧ Wrote e.f sh.d.writes [(0, v.map (wordsOf sh.d.writes.length))] s t
      ∧ t.floe? e.h = some (e.after w sh s e.f) ∧ OtherFloes e.h s t ∧ OnlyFirnFloes s t := by
  have hput : writeUni e.f sh.d.writes v s = putLanes e.f sh.d.writes [(0, v.map (wordsOf sh.d.writes.length))] s := by
    rw [← List.map_singleton (f := fun p : Nat × Option Nat => (p.1, p.2.map (wordsOf sh.d.writes.length))) (a := (0, v)), ← writeLanes_putLanes]
    cases v <;> rfl
  rw [hput] at hbody
  obtain ⟨t, ht, heffect⟩ := exec_putLanes_effect h hrun (h.laneList_one fun ws hws => by
    obtain ⟨x, -, rfl⟩ := Option.map_eq_some_iff.1 hws
    simp [wordsOf]) hbody
  have hfloe := heffect.floe
  rw [Fx.or_bits_none] at hfloe
  exact ⟨t, ht, heffect.result, hfloe, heffect.others, heffect.rest⟩

/-- A body that writes a status in D after it has changed neither floes nor registers. -/
theorem exec_status (h : Issues i w sh e s) {body : FWord → Shape → Env → State → Res} (hrun : exec i s = issueF i body s) (v : Nat)
    (hfloes : u.floes = s.floes) (hfirn : u.firn = s.firn) (htime : SameTime s u) (hbody : body w sh e s = .done (enqStatus e sh v u)) :
    ∃ t, exec i s = .next t ∧ t.floe? e.h = some (e.after w sh s e.f) ∧ OtherFloes e.h s t
      ∧ Wrote e.f sh.d.writes [(0, some (wordsOf sh.d.writes.length v))] s t ∧ t = { u with firn := t.firn, floes := t.floes } := by
  have hlanes : LaneList e.f sh.d.writes [(0, some (wordsOf sh.d.writes.length v))] := h.laneList_one fun ws hws => by
    rw [← Option.some.inj hws]
    simp [wordsOf]
  have hwrote := (putLanes_wrote u hlanes).of_firn hfirn.symm rfl
  have hrest := putLanes_rest e.f sh.d.writes [(0, some (wordsOf sh.d.writes.length v))] u
  have hput : enqStatus e sh v u = putLanes e.f sh.d.writes [(0, some (wordsOf sh.d.writes.length v))] u := writeLanes_putLanes e.f sh.d.writes [(0, some v)] u
  rw [hput] at hbody
  generalize putLanes e.f sh.d.writes [(0, some (wordsOf sh.d.writes.length v))] u = r at hwrote hrest hbody
  have hsame : r.floes = s.floes := by rw [hrest, ← hfloes]
  have htime' : SameTime s r := by
    rw [hrest]
    exact ⟨htime.gt, htime.pace, htime.clk, htime.gated⟩
  obtain ⟨t, ht, hand⟩ := h.retires hrun hbody htime' ((State.floe?_of_floes hsame _).trans h.floe) fun k _ => State.floe?_of_floes hsame k
  refine ⟨t, ht, hand.floe, hand.others, hwrote.of_firn rfl (by rw [hand.eq]), ?_⟩
  rw [hand.eq, hrest]

/-! ## A record refused (R337, R339) -/

/-- A record refused at its issue: its entry FAILED with reason 3 in the journal of the issuer's partition, and the status 3. -/
theorem exec_enq_refused (h : Issues i w sh e s) {body : FWord → Shape → Env → State → Res} (hrun : exec i s = issueF i body s) {high : Nat}
    (hbody : body w sh e s = .done (enqStatus e sh 3 (s.jNew (partOf e.f.core) high 3 3).1)) :
    ∃ t, exec i s = .next t ∧ (t.part (partOf e.f.core)).jSeq = (s.part (partOf e.f.core)).jSeq + 1 ∧ t.enqs = s.enqs ∧ t.ops = s.ops
      ∧ t.floe? e.h = some (e.after w sh s e.f) ∧ OtherFloes e.h s t ∧ Wrote e.f sh.d.writes [(0, some (wordsOf sh.d.writes.length 3))] s t := by
  have hjournal := journalOnly_jNew s (partOf e.f.core) high 3 3 0
  have hseq := s.jSeq_jNew (partOf e.f.core) high 3 3 0
  generalize (s.jNew (partOf e.f.core) high 3 3).1 = u at hbody hjournal hseq
  obtain ⟨t, ht, hfloe, hothers, hwrote, hrest⟩ := exec_status h hrun 3 hjournal.floes hjournal.firn
    (by rw [hjournal]; exact ⟨rfl, rfl, rfl, rfl⟩) hbody
  refine ⟨t, ht, ?_, ?_, ?_, hfloe, hothers, hwrote⟩
  · rw [hrest]
    exact hseq
  · rw [hrest, hjournal]
    rfl
  · rw [hrest, hjournal]
    rfl

/-! ## A record sent (R174, R338) -/

/-- The order that a record's operation takes. -/
def enqAfter (w : FWord) (e : Env) (s : State) : List Nat := s.afterOf e.h (w.y.getLsbD 1 && decide (2 ≤ w.s.toNat))

/-- The operation of a record sent, and what is sent. -/
def enqSentOp (w : FWord) (sh : Shape) (e : Env) (s : State) : Op := enqOp s w sh e (enqAfter w e s)

def enqSent (w : FWord) (e : Env) (s : State) (kind key : Nat) (c : Option Nat) (bs : List Byte) : EnqReq :=
  ⟨key, bs, kind, coreSecure s e.f.core, partOf e.f.core, Config.deviceId.toNat, some s.nextId, c, enqAfter w e s, false, none, false⟩

/-- The class counter that the record counts in. -/
theorem enqSentOp_class : (if (enqSentOp w sh e s).isSt then e.f.st else e.f.ld) = if sh.d.writes = [] then e.f.st else e.f.ld := by
  simp [enqSentOp, enqOp]

theorem enqSentOp_placedIn : (enqSentOp w sh e s).placedIn e.f
    = if sh.d.writes = [] then { e.f with st := e.f.st + 1 } else { e.f with ld := e.f.ld + 1 } := by
  by_cases hd : sh.d.writes = [] <;> simp [enqSentOp, enqOp, newOp, Op.placedIn, hd]

theorem enqLocal_eq (kind key : Nat) (c : Option Nat) (bs : List Byte) : enqLocal w sh e kind key c bs s
    = if e.f.classFull (enqSentOp w sh e s) then .stall s
      else .done { s.addOp (enqSentOp w sh e s) with enqs := (s.addOp (enqSentOp w sh e s)).enqs ++ [enqSent w e s kind key c bs] } := rfl

/-- With a full class counter the record is not ready. -/
theorem exec_enqLocal_full (h : Issues i w sh e s) {body : FWord → Shape → Env → State → Res} (hrun : exec i s = issueF i body s)
    {kind key : Nat} {c : Option Nat} {bs : List Byte} (hbody : body w sh e s = enqLocal w sh e kind key c bs s)
    (hfull : 1023 ≤ (if sh.d.writes = [] then e.f.st else e.f.ld)) : ∃ t, exec i s = .next t ∧ FloeEffect e.h (e.unready e.f) s t := by
  refine h.unready hrun (hbody.trans ((enqLocal_eq ..).trans (if_pos ?_)))
  exact Floe.classFull_of_le rfl (hfull.trans_eq enqSentOp_class.symm)

/-- With room it is on its way, as an operation of the floe. -/
theorem exec_enqLocal_sends (h : Issues i w sh e s) {body : FWord → Shape → Env → State → Res} (hrun : exec i s = issueF i body s)
    {kind key : Nat} {c : Option Nat} {bs : List Byte} (hbody : body w sh e s = enqLocal w sh e kind key c bs s)
    (hroom : (if sh.d.writes = [] then e.f.st else e.f.ld) < 1023) :
    ∃ t, exec i s = .next t ∧ Table.find? t.ops s.nextId = some (enqSentOp w sh e s) ∧ t.enqs = s.enqs ++ [enqSent w e s kind key c bs]
      ∧ t.floe? e.h = some (e.after w sh s (if sh.d.writes = [] then { e.f with st := e.f.st + 1 } else { e.f with ld := e.f.ld + 1 }))
      ∧ OtherFloes e.h s t ∧ { t with ops := s.ops, floes := s.floes, nextId := s.nextId, enqs := s.enqs } = s := by
  rw [enqLocal_eq, if_neg (classFull_of_lt (enqSentOp_class.trans_lt hroom)), State.addOp_withOp] at hbody
  have hf : (s.withOp (enqSentOp w sh e s) s.net).floe? e.h = some e.f := h.floe
  have hfloe : ((s.withOp (enqSentOp w sh e s) s.net).modFloe e.h (enqSentOp w sh e s).placedIn).floe? e.h
      = some ((enqSentOp w sh e s).placedIn e.f) := by
    rw [State.floe?_modFloe_same, hf, Option.map_some]
  have hothers : OtherFloes e.h s ((s.withOp (enqSentOp w sh e s) s.net).modFloe e.h (enqSentOp w sh e s).placedIn) :=
    otherFloes_modFloe (fun _ _ => rfl) _
  have hop : (enqSentOp w sh e s).floe = e.h := rfl
  rw [hop, State.modFloe_eq] at hbody
  rw [State.modFloe_eq] at hfloe hothers
  generalize ((s.withOp (enqSentOp w sh e s) s.net).modFloe e.h (enqSentOp w sh e s).placedIn).floes = fs at hbody hfloe hothers
  rw [enqSentOp_placedIn] at hfloe
  obtain ⟨t, ht, hand⟩ := h.retires hrun hbody ⟨rfl, rfl, rfl, rfl⟩ hfloe hothers
  refine ⟨t, ht, ?_, ?_, hand.floe, hand.others, ?_⟩
  · rw [hand.eq]
    exact State.find?_withOp s (enqSentOp w sh e s) s.net
  · rw [hand.eq]
    rfl
  · rw [hand.eq]
    rfl

/-! ## ENQ (R339) -/

/-- An address of this device, of its bits 35 and 36-63. -/
theorem enqAddress_near {a : Nat} (ha : a / 2 ^ 35 = 0) : field a 36 28 = 0 ∧ a.testBit 35 = false := by
  rw [Nat.testBit_eq_decide_div_mod_eq, ha, field]
  exact ⟨by omega, rfl⟩

theorem enqAddress_far {a : Nat} (ha : a / 2 ^ 35 = 1) : field a 36 28 = 0 ∧ a.testBit 35 = true := by
  rw [Nat.testBit_eq_decide_div_mod_eq, ha, field]
  exact ⟨by omega, rfl⟩

/-- An ENQ of a valid record to a valid address, by what the address names. -/
theorem enqBody_valid (hx : e.exec ≠ 0) {bs : List Byte} (hr : enqRecord s e w = (bs, true)) {a : Nat} (ha : rdOp s e.f 0 w.b 2 = (a, true))
    {x : Ctx} (hctx : s.ctx? e.f.ctx = some x) : enqBody w sh e s
    = if field a 36 28 ≠ 0 ∨ 12 ≤ field a 12 4 ∨ (!a.testBit 35 ∧ !x.parts.contains (field a 12 4)) then
        .done (enqStatus e sh 3 (s.jNew (partOf e.f.core)
          (jHigh 0 (coreSecure s e.f.core) (partOf e.f.core) (field a 0 12) (crc32c bs).toNat Config.deviceId.toNat) 3 3).1)
      else if a.testBit 35 ∧ field a 16 19 ≠ Config.deviceId.toNat then enqRemote w sh e (field a 16 19) (queueKey (field a 12 4) (field a 0 12)) bs s
      else enqLocal w sh e (if a.testBit 35 then 3 else 0) (queueKey (field a 12 4) (field a 0 12)) (if a.testBit 35 then none else some e.f.ctx) bs s := by
  simp only [enqBody, hr, ha, hctx]
  rw [if_neg hx]
  exact if_neg Bool.false_ne_true

theorem enqBody_near (hx : e.exec ≠ 0) {bs : List Byte} (hr : enqRecord s e w = (bs, true)) {a : Nat} (ha : rdOp s e.f 0 w.b 2 = (a, true))
    {x : Ctx} (hctx : s.ctx? e.f.ctx = some x) (hnear : a / 2 ^ 35 = 0) (hmine : field a 12 4 ∈ x.parts) (hpart : field a 12 4 < 12) :
    enqBody w sh e s = enqLocal w sh e 0 (queueKey (field a 12 4) (field a 0 12)) (some e.f.ctx) bs s := by
  obtain ⟨hhigh, hbit⟩ := enqAddress_near hnear
  rw [enqBody_valid hx hr ha hctx, if_neg (by simp [hhigh, hmine, hpart]), if_neg (by simp [hbit]), hbit]
  rfl

theorem enqBody_far (hx : e.exec ≠ 0) {bs : List Byte} (hr : enqRecord s e w = (bs, true)) {a : Nat} (ha : rdOp s e.f 0 w.b 2 = (a, true))
    {x : Ctx} (hctx : s.ctx? e.f.ctx = some x) (hfar : a / 2 ^ 35 = 1) (hdev : field a 16 19 = Config.deviceId.toNat) (hpart : field a 12 4 < 12) :
    enqBody w sh e s = enqLocal w sh e 3 (queueKey (field a 12 4) (field a 0 12)) none bs s := by
  obtain ⟨hhigh, hbit⟩ := enqAddress_far hfar
  rw [enqBody_valid hx hr ha hctx, if_neg (by simp [hhigh, hbit, hpart]), if_neg (by simp [hdev]), hbit]
  rfl

theorem enqBody_outside (hx : e.exec ≠ 0) {bs : List Byte} (hr : enqRecord s e w = (bs, true)) {a : Nat} (ha : rdOp s e.f 0 w.b 2 = (a, true))
    {x : Ctx} (hctx : s.ctx? e.f.ctx = some x) (hnear : a / 2 ^ 35 = 0) (hmine : field a 12 4 ∉ x.parts) : enqBody w sh e s
      = .done (enqStatus e sh 3 (s.jNew (partOf e.f.core)
        (jHigh 0 (coreSecure s e.f.core) (partOf e.f.core) (field a 0 12) (crc32c bs).toNat Config.deviceId.toNat) 3 3).1) := by
  obtain ⟨-, hbit⟩ := enqAddress_near hnear
  rw [enqBody_valid hx hr ha hctx, if_pos (by simp [hbit, hmine])]

theorem enqBody_invalid (hx : e.exec ≠ 0) (hbad : ((enqRecord s e w).2 && (rdOp s e.f 0 w.b 2).2) = false) :
    enqBody w sh e s = .done (writeUni e.f sh.d.writes none s) :=
  (if_neg hx).trans (if_pos (by rw [hbad]; rfl))

/-! ## NODEOUT (R333, R339) -/

/-- The output port of the node that launched the floe's instance. -/
theorem nodeoutBody_connected (hx : e.exec ≠ 0) {bs : List Byte} (hr : enqRecord s e w = (bs, true)) {y : Inst} (hy : s.inst? e.f.ctx e.f.inst = some y)
    {q : QRef} (hq : y.queue = some q) (hport : (q.outs.getD w.c.toNat 0).testBit 15 = true) : nodeoutBody w sh e s
      = enqLocal w sh e 1 (q.key / 4096 * 4096 + q.outs.getD w.c.toNat 0 % 4096) (some e.f.ctx) bs s := by
  simp only [nodeoutBody, hr, hy, Option.bind_some, hq, hport]
  rw [if_neg hx]
  exact if_neg Bool.false_ne_true

theorem nodeoutBody_unconnected (hx : e.exec ≠ 0) {bs : List Byte} (hr : enqRecord s e w = (bs, true))
    (hport : ∀ q, (s.inst? e.f.ctx e.f.inst).bind (fun i => i.queue) = some q → (q.outs.getD w.c.toNat 0).testBit 15 = false) :
    ∃ high, nodeoutBody w sh e s = .done (enqStatus e sh 3 (s.jNew (partOf e.f.core) high 3 3).1) := by
  simp only [nodeoutBody, hr]
  rw [if_neg hx]
  cases hnode : (s.inst? e.f.ctx e.f.inst).bind (fun i => i.queue) with
  | none => exact ⟨_, if_neg Bool.false_ne_true⟩
  | some q =>
    simp only [hport q hnode]
    exact ⟨_, if_neg Bool.false_ne_true⟩

theorem nodeoutBody_invalid (hx : e.exec ≠ 0) (hbad : (enqRecord s e w).2 = false) :
    nodeoutBody w sh e s = .done (writeUni e.f sh.d.writes none s) :=
  (if_neg hx).trans (if_pos (by rw [hbad]; rfl))

end

/-! ## RECV (R340) -/

section
variable {w : FWord} {sh : Shape} {e : Env} {s : State}

/-- RECV's access to the ring. -/
def recvOp (w : FWord) (sh : Shape) (e : Env) (s : State) : Op := { newOp s e w .recv with d := sh.d.writes, scope := 0 }

theorem recvBody_access (hx : e.exec ≠ 0) (hm : w.m.getLsbD 0 = false) : recvBody w sh e s = issueLanes (recvOp w sh e s) e s :=
  (if_neg hx).trans (if_neg (by rw [hm]; exact Bool.false_ne_true))

/-- The records of the batch that launched the floe's instance. -/
def batchCount (s : State) (e : Env) : Nat := match s.inst? e.f.ctx e.f.inst with | some y => if y.queue.isSome then y.batch else 0 | none => 0

theorem recvBody_count (hx : e.exec ≠ 0) (hm : w.m.getLsbD 0 = true) :
    recvBody w sh e s = .done (writeUni e.f sh.d.writes (some (batchCount s e)) s) :=
  (if_neg hx).trans (if_pos hm)

end

/-! ## O43 -/

/-- Settles O43: each instruction by what its operands name. -/
theorem queueInstructions : Obligations.QueueInstructions := by
  unfold Obligations.QueueInstructions
  refine ⟨fun w sh e s x bs hx hctx hr => ⟨?sent, ?refused⟩, ?invalid, ?recv⟩
  case sent =>
    intro i key kind c h hi
    have hbody : ∃ body, exec i s = issueF i body s ∧ body w sh e s = enqLocal w sh e kind key c bs s := by
      rcases hi with ⟨rfl, rfl, rfl, a, ha, hnear, hmine, hpart, rfl⟩ | ⟨rfl, rfl, rfl, a, ha, hfar, hdev, hpart, rfl⟩
        | ⟨rfl, rfl, rfl, y, q, o, hy, hq, rfl, hport, rfl⟩
      · exact ⟨enqBody, rfl, enqBody_near hx hr ha hctx hnear hmine hpart⟩
      · exact ⟨enqBody, rfl, enqBody_far hx hr ha hctx hfar hdev hpart⟩
      · exact ⟨nodeoutBody, rfl, nodeoutBody_connected hx hr hy hq hport⟩
    obtain ⟨body, hrun, hbody⟩ := hbody
    refine ⟨exec_enqLocal_full h hrun hbody, fun hroom => ?_⟩
    obtain ⟨t, ht, hop, henqs, hrest⟩ := exec_enqLocal_sends h hrun hbody hroom
    exact ⟨t, _, ht, hop, rfl, rfl, rfl, henqs, hrest⟩
  case refused =>
    rintro i h (⟨rfl, a, ha, hnear, hmine⟩ | ⟨rfl, hport⟩)
    · exact exec_enq_refused h (body := enqBody) rfl (enqBody_outside hx hr ha hctx hnear hmine)
    · obtain ⟨high, hbody⟩ := nodeoutBody_unconnected (sh := sh) hx hr hport
      exact exec_enq_refused h (body := nodeoutBody) rfl hbody
  case invalid =>
    rintro w sh e s i h hx (⟨rfl, hbad⟩ | ⟨rfl, hbad⟩)
    · exact exec_writeUni h (body := enqBody) rfl none (enqBody_invalid hx hbad)
    · exact exec_writeUni h (body := nodeoutBody) rfl none (nodeoutBody_invalid hx hbad)
  case recv =>
    rintro w sh e s o h hx rfl
    refine ⟨fun hm hroom hlock => ?_, fun hm hfull => ?_, fun hm => ?_⟩
    · exact h.putsInFlight (body := recvBody) (o := recvOp w sh e s) rfl (recvBody_access hx hm) ⟨rfl, rfl⟩ hx hroom
        (fun k hk => by cases hk) rfl hlock
    · exact h.unready (body := recvBody) rfl ((recvBody_access hx hm).trans (issueLanes_full hx rfl hfull))
    · obtain ⟨t, ht, hwrote, hfloe, hothers, honly⟩ := exec_writeUni h (body := recvBody) rfl (some (batchCount s e)) (recvBody_count hx hm)
      exact ⟨t, ht, hfloe, hothers, honly, hwrote⟩

end Sys2Proof.Machine
end

section
/-! SUPPORT. O55: floes leave their cores and come back, contexts end their saves and migrations, a destroyed context is scrubbed, and fault
records reach their queue (R359, R365-R368, R372). -/

namespace Sys2Proof.Machine

/-! ## Runs of firn words taken and put back (R365, R367) -/

/-- A filter by keys keeps the entries of the keys that pass. -/
theorem Table.find?_keep_of_key {α : Type} (q : Nat → Bool) (t : Table α) {k : Nat} (hk : q k = true) :
    Table.find? (Table.keep t (fun j _ => q j)) k = Table.find? t k :=
  Table.find?_filter_keys q t hk

/-- The entries from `lo` on, numbered from 0. -/
def Table.shift {α : Type} (t : Table α) (lo : Nat) : Table α := List.map (fun p => (p.1 - lo, p.2)) t

theorem Table.find?_shift {α : Type} {lo : Nat} (t : Table α) (h : ∀ p ∈ t, lo ≤ p.1) (k : Nat) :
    Table.find? (Table.shift t lo) k = Table.find? t (lo + k) := by
  induction t with
  | nil => rfl
  | cons p t ih =>
    have hp : lo ≤ p.1 := h p List.mem_cons_self
    have ih' := ih fun q hq => h q (List.mem_cons_of_mem _ hq)
    have hcons : Table.shift (p :: t) lo = (p.1 - lo, p.2) :: Table.shift t lo := rfl
    rw [hcons, Table.find?, Table.find?, ih']
    by_cases hk : p.1 = lo + k
    · rw [if_pos hk, if_pos (by simp only; omega)]
    · rw [if_neg hk, if_neg (by simp only; omega)]

section
variable {s : State} {core first n k : Nat}

/-- A word of the run, as it was taken. -/
theorem State.takeWords_taken (hk : k < n) :
    Table.getD (s.takeWords core first n).1 FirnWord.empty k = s.firnAt core (first + k) := by
  have hkey : firnKey core first + k = firnKey core (first + k) := Nat.add_assoc ..
  have hin : (decide (firnKey core first ≤ firnKey core first + k) && decide (firnKey core first + k < firnKey core first + n)) = true := by
    simp only [Bool.and_eq_true, decide_eq_true_eq]
    omega
  have hlow (p : Nat × FirnWord) (hp : p ∈ Table.keep s.firn (fun j _ => decide (firnKey core first ≤ j) && decide (j < firnKey core first + n))) :
      firnKey core first ≤ p.1 := by
    obtain ⟨-, hq⟩ := List.mem_filter.1 hp
    exact of_decide_eq_true (Bool.and_eq_true_iff.1 hq).1
  have hfind := Table.find?_shift _ hlow k
  rw [Table.find?_keep_of_key (fun j => decide (firnKey core first ≤ j) && decide (j < firnKey core first + n)) _ hin, hkey] at hfind
  exact congrArg (Option.getD · FirnWord.empty) hfind

/-- A word of the run is empty once taken. -/
theorem State.takeWords_left (hk : k < n) : (s.takeWords core first n).2.firnAt core (first + k) = FirnWord.empty := by
  have hkey : firnKey core first + k = firnKey core (first + k) := Nat.add_assoc ..
  have hout : (!(decide (firnKey core first ≤ firnKey core (first + k)) && decide (firnKey core (first + k) < firnKey core first + n))) = false := by
    rw [← hkey]
    simp only [Bool.not_eq_false', Bool.and_eq_true, decide_eq_true_eq]
    omega
  have hnone : Table.find? (s.takeWords core first n).2.firn (firnKey core (first + k)) = none :=
    Table.find?_keep_none (t := s.firn) (p := fun j _ => !(decide (firnKey core first ≤ j) && decide (j < firnKey core first + n))) fun _ => hout
  rw [State.firnAt, Table.getD, hnone]
  rfl

end

/-! ## A drained floe leaves its core (R365, R379) -/

/-- Time is as before, and of the cores nothing but their scratch regions and matrix waits differs. -/
structure SameCores (s t : State) : Prop where
  gt : t.gt = s.gt
  core : ∀ c, t.core c = { s.core c with scratch := (t.core c).scratch, mxWait := (t.core c).mxWait }

namespace SameCores

theorem refl (s : State) : SameCores s s := ⟨rfl, fun _ => rfl⟩

theorem trans {s t u : State} (h : SameCores s t) (k : SameCores t u) : SameCores s u :=
  ⟨k.gt.trans h.gt, fun c => by rw [k.core, h.core]⟩

theorem of_cores {s t : State} (hgt : t.gt = s.gt) (hcores : t.cores = s.cores) : SameCores s t :=
  ⟨hgt, fun c => by rw [show t.core c = s.core c by rw [State.core, State.core, hcores]]⟩

theorem modCore {s : State} {c : Nat} {g : Core → Core} (hg : ∀ x, g x = { x with scratch := (g x).scratch, mxWait := (g x).mxWait }) :
    SameCores s (s.modCore c g) := by
  refine ⟨rfl, fun k => ?_⟩
  by_cases hk : k = c
  · subst hk
    rw [State.core_modCore_same]
    exact hg _
  · rw [State.core_modCore_ne _ _ hk]

theorem coreGt {s t : State} (h : SameCores s t) (c : Nat) : t.coreGt c = s.coreGt c := by
  rw [State.coreGt, State.coreGt, h.gt, h.core]

end SameCores

theorem sameCores_dropRegion (core : Nat) (s : State) (r : Region) : SameCores s (State.dropRegion core s r) := by
  have hdrop : SameCores s (s.modCore core (fun c => { c with scratch := c.scratch.erase r })) := .modCore fun _ => rfl
  simp only [State.dropRegion]
  split
  · exact .refl s
  · split
    · refine hdrop.trans (.of_cores ?_ ?_) <;> rw [State.modInst_eq]
    · exact hdrop

theorem sameCores_settleScratch (s : State) (core : Nat) : SameCores s (s.settleScratch core) :=
  List.foldlRecOn _ (State.dropRegion core) (motive := SameCores s) (.refl s) fun _ ht r _ => ht.trans (sameCores_dropRegion core _ r)

/-- A halted core that no floe is on falls asleep at its time. -/
theorem State.sleepCore_sleeps {s : State} {core : Nat} (hhalted : (s.core core).halted = true) (hawake : (s.core core).sleepGt = none)
    (hempty : ∀ p ∈ s.floes, p.2.core = core → p.2.resident = false) : ((s.sleepCore core).core core).sleepGt = some (s.coreGt core) := by
  have hnone : (Table.search s.floes (fun _ f => f.core == core && f.resident)) = none := by
    refine List.find?_eq_none.2 fun p hp hon => ?_
    simp only [Bool.and_eq_true, beq_iff_eq] at hon
    exact Bool.false_ne_true ((hempty p hp hon.1).symm.trans hon.2)
  rw [State.sleepCore, hhalted, hawake, hnone]
  exact congrArg Core.sleepGt (State.core_modCore_same s core (fun c => { c with sleepGt := some (s.coreGt core) }))

/-- The floe as it is saved. -/
def savedFloe (s : State) (h : Nat) (f : Floe) : Floe :=
  { f with
    state := .saved, savedFrom := f.state, savedRegs := (s.takeWords f.core (f.rbase / 4) f.regWords).1, savedMx := s.mxSaved h f.core, savedGt := s.gt,
    savedStop := s.gatedFor f.core, preempt := false, latches := [], yielded := false, ibuf := [], far := [],
    flushWait := if s.moving f then some f.core else f.flushWait }

/-- The machine from which a floe that holds no matrix context is saved: its registers taken, its copies marked. -/
def leaving (s : State) (h : Nat) (f : Floe) : State :=
  let t := (s.takeWords f.core (f.rbase / 4) f.regWords).2.modCore f.core (fun c => { c with mxWait := c.mxWait.filter (· != h) })
  { t with copies := Table.map t.copies (fun _ c => if c.floe = h then { c with savedIn := true } else c) }

section
variable {s : State} {h : Nat} {f : Floe}

theorem State.saveFloe_eq (hmx : s.heldMx h f.core = none) :
    s.saveFloe h f = (((leaving s h f).setFloe h (savedFloe s h f)).settleScratch f.core).sleepCore f.core := by
  have hrel : (s.takeWords f.core (f.rbase / 4) f.regWords).2.releaseMx h f.core true = (s.takeWords f.core (f.rbase / 4) f.regWords).2 := by
    have hnone : (s.takeWords f.core (f.rbase / 4) f.regWords).2.heldMx h f.core = none := hmx
    rw [State.releaseMx, hnone]
  rw [State.saveFloe, hrel]
  rfl

theorem sameCores_leaving (s : State) (h : Nat) (f : Floe) : SameCores s (leaving s h f) :=
  have htake : SameCores s (s.takeWords f.core (f.rbase / 4) f.regWords).2 := .of_cores rfl rfl
  have hwait (t : State) : SameCores t (t.modCore f.core (fun c => { c with mxWait := c.mxWait.filter (· != h) })) := .modCore fun _ => rfl
  have hmark (t : State) (copies : Table Copy) : SameCores t { t with copies := copies } := .of_cores rfl rfl
  (htake.trans (hwait _)).trans (hmark ..)

theorem State.saveFloe_runs (hmx : s.heldMx h f.core = none) : (s.saveFloe h f).floes = Table.insert s.floes h (savedFloe s h f)
    ∧ (s.saveFloe h f).firn = (s.takeWords f.core (f.rbase / 4) f.regWords).2.firn := by
  have hruns := (sameRuns_settleScratch ((leaving s h f).setFloe h (savedFloe s h f)) f.core).trans (sameRuns_sleepCore _ f.core)
  rw [State.saveFloe_eq hmx]
  exact ⟨hruns.floes, hruns.firn⟩

/-- The halted core of the last floe on it falls asleep when that floe is saved. -/
theorem State.saveFloe_sleeps (hmx : s.heldMx h f.core = none) (hsorted : Table.sorted s.floes = true) (hhalted : (s.core f.core).halted = true)
    (hawake : (s.core f.core).sleepGt = none) (hlast : ∀ k x, s.floe? k = some x → x.core = f.core → x.resident = true → k = h) :
    ((s.saveFloe h f).core f.core).sleepGt = some (s.coreGt f.core) := by
  have hset : SameCores (leaving s h f) ((leaving s h f).setFloe h (savedFloe s h f)) := .of_cores rfl rfl
  have hcores : SameCores s (((leaving s h f).setFloe h (savedFloe s h f)).settleScratch f.core) :=
    (SameCores.trans (sameCores_leaving s h f) hset).trans (sameCores_settleScratch ..)
  have hfloes : (((leaving s h f).setFloe h (savedFloe s h f)).settleScratch f.core).floes = Table.insert s.floes h (savedFloe s h f) :=
    (sameRuns_settleScratch ..).floes
  have hempty : ∀ p ∈ Table.insert s.floes h (savedFloe s h f), p.2.core = f.core → p.2.resident = false := by
    rintro ⟨k, x⟩ hp hcore
    have hread := Table.sorted_find?_eq (Table.sorted_insert h (savedFloe s h f) hsorted) hp
    by_cases hk : k = h
    · subst hk
      obtain rfl := Option.some.inj ((Table.find?_insert_same ..).symm.trans hread)
      rfl
    · rw [Table.find?_insert_ne _ _ hk] at hread
      exact Bool.eq_false_iff.2 fun hres => hk (hlast k x hread hcore hres)
  have hsleep := State.sleepCore_sleeps (core := f.core) (by rw [hcores.core]; exact hhalted) (by rw [hcores.core]; exact hawake) (by rw [hfloes]; exact hempty)
  rw [State.saveFloe_eq hmx, hsleep, hcores.coreGt]

theorem exec_floeSaved (hf : s.floe? h = some f) (hrun : s.stopped f = false) (hdrained : drained s h f = true)
    (hsafe : s.moving f = true ∨ saveFault s f.ctx = none) : exec (.floeSaved h) s = .next (s.saveFloe h f) := by
  have hgo : ¬ (s.stopped f || !drained s h f) = true := by simp [hrun, hdrained]
  rw [exec, execFloeSaved, hf]
  refine (if_neg hgo).trans ?_
  rcases hsafe with hmoving | hsafe
  · exact if_pos hmoving
  · split
    · rfl
    · rw [hsafe]

end

/-! ## A saved floe comes back (R367) -/

/-- Words put back are read; the others of the core are as before. -/
theorem State.putWords_firnAt {core first : Nat} (t : Table FirnWord) (s : State) (k : Nat) (hkeys : (Table.keys t).Nodup) :
    (s.putWords core first t).firnAt core (first + k) = (Table.find? t k).getD (s.firnAt core (first + k)) := by
  induction t generalizing s with
  | nil => rfl
  | cons p t ih =>
    have hnodup : p.1 ∉ Table.keys t ∧ (Table.keys t).Nodup := List.nodup_cons.1 hkeys
    have hput : s.putWords core first (p :: t) = (s.setFirn core (first + p.1) p.2).putWords core first t := rfl
    rw [hput, ih _ hnodup.2, State.firnAt_setFirn, Table.find?]
    by_cases hk : p.1 = k
    · have hnone : Table.find? t k = none := Table.find?_none fun q hq hqk => hnodup.1 (List.mem_map.2 ⟨q, hq, hqk.trans hk.symm⟩)
      rw [hnone, if_pos (by omega), if_pos hk]
      rfl
    · rw [if_neg (by omega), if_neg hk]

theorem State.putWords_floes (core first : Nat) (t : Table FirnWord) (s : State) : (s.putWords core first t).floes = s.floes
    ∧ (s.putWords core first t).copies = s.copies ∧ (s.putWords core first t).insts = s.insts :=
  List.foldlRecOn t (fun (u : State) (p : Nat × FirnWord) => u.setFirn core (first + p.1) p.2)
    (motive := fun u => u.floes = s.floes ∧ u.copies = s.copies ∧ u.insts = s.insts) ⟨rfl, rfl, rfl⟩ fun _ hu _ _ => hu

/-- The words of a seat are empty when it is taken. -/
theorem State.takeSeat_firnAt {s : State} {core k bytes : Nat} {seat : Seat} (hk : k < bytes / 4) :
    (s.takeSeat core seat bytes).firnAt core (seat.room.rbase / 4 + k) = FirnWord.empty := by
  have hkey : firnKey core (seat.room.rbase / 4) + k = firnKey core (seat.room.rbase / 4 + k) := Nat.add_assoc ..
  have hout : (!(decide (firnKey core (seat.room.rbase / 4) ≤ firnKey core (seat.room.rbase / 4 + k))
      && decide (firnKey core (seat.room.rbase / 4 + k) < firnKey core (seat.room.rbase / 4) + bytes / 4))) = false := by
    rw [← hkey]
    simp only [Bool.not_eq_false', Bool.and_eq_true, decide_eq_true_eq]
    omega
  have hnone : Table.find? (s.takeSeat core seat bytes).firn (firnKey core (seat.room.rbase / 4 + k)) = none :=
    Table.find?_keep_none (t := s.firn)
      (p := fun j _ => !(decide (firnKey core (seat.room.rbase / 4) ≤ j) && decide (j < firnKey core (seat.room.rbase / 4) + bytes / 4))) fun _ => hout
  rw [State.firnAt, Table.getD, hnone]
  rfl

/-- A floe's register words lie in the bytes of its register region. -/
theorem Floe.regWords_le (f : Floe) : f.regWords ≤ regBytes f.regs f.wregs / 4 := by
  simp only [Floe.regWords, regBytes]
  omega

theorem Floe.onCopy_same (f : Floe) (k : Kernel) (core : Nat) : f.onCopy k core core = f := by
  unfold Floe.onCopy
  split
  · next a b ha hb => exact if_pos (Option.some.inj (ha.symm.trans hb))
  · rfl

theorem State.restoreCopies_none {s : State} {h core : Nat} (hc : ∀ c ∈ Table.vals s.copies, c.floe = h → c.savedIn = false) : s.restoreCopies h core = s := by
  have hnone : Table.keep s.copies (fun _ c => c.floe == h && c.savedIn) = [] := by
    refine Table.keep_nil fun _ c hmem => Bool.eq_false_iff.2 fun hq => ?_
    rw [Bool.and_eq_true_iff, beq_iff_eq] at hq
    exact Bool.false_ne_true ((hc c hmem hq.1).symm.trans hq.2)
  rw [State.restoreCopies, hnone]
  rfl

/-- The floe on its seat again. -/
def seated (s : State) (f : Floe) (core : Nat) (seat : Seat) : Floe :=
  { f with
    core := core, slice := seat.slice, pos := seat.pos, rbase := seat.room.rbase, tag := seat.tag, state := f.savedFrom, savedRegs := [],
    savedMx := none, replayMark := none, since := if f.savedFrom = .ready then s.mck core else f.since, yielded := false }

/-- Floes, firn and copies are as before. -/
structure SamePlaces (s t : State) : Prop where
  floes : t.floes = s.floes
  firn : t.firn = s.firn
  copies : t.copies = s.copies

theorem SamePlaces.trans {s t u : State} (h : SamePlaces s t) (k : SamePlaces t u) : SamePlaces s u :=
  ⟨k.floes.trans h.floes, k.firn.trans h.firn, k.copies.trans h.copies⟩

/-- The machine with a floe's tree slots and anchors on a core again. -/
def slotsBack (u : State) (f : Floe) (core : Nat) : State :=
  (u.fillSlots core (u.slotsFrom f.ctx core)).modInst f.ctx f.inst (fun i => { i with anchors := Table.map i.anchors (fun _ c => if c = core then core else c) })

/-- The machine with a floe's operations under a new tag. -/
def retagged (u : State) (h core : Nat) (tag : BitVec 8) : State :=
  { u with ops := Table.map u.ops (fun _ o => if o.floe = h then { o with tag := tag, core := if o.leftCore then o.core else core } else o) }

/-- The machine with a floe in its place among those that wait for a matrix context. -/
def mxWaitBack (u : State) (h : Nat) (f : Floe) (core : Nat) : State :=
  match f.savedFrom, f.wait with
  | .waiting, some (.matrix _) => u.modCore core (fun c => { c with mxWait := insertMxWait u h f.waitSince c.mxWait })
  | _, _ => u

/-- The machine `u` with a seat taken and words put back, and the floe on that seat. -/
def rejoined (s u : State) (h : Nat) (f : Floe) (core : Nat) (seat : Seat) : State :=
  mxWaitBack (retagged (((slotsBack u f core).setFloe h (seated s f core seat)).l1Fit core) h core seat.tag) h f core

theorem samePlaces_slotsBack (u : State) (f : Floe) (core : Nat) : SamePlaces u (slotsBack u f core) := by
  constructor <;> (rw [slotsBack, State.modInst_eq]; rfl)

theorem samePlaces_l1Fit (u : State) (core : Nat) : SamePlaces u (u.l1Fit core) := by
  simp only [State.l1Fit]
  split <;> exact ⟨rfl, rfl, rfl⟩

theorem samePlaces_mxWaitBack (u : State) (h : Nat) (f : Floe) (core : Nat) : SamePlaces u (mxWaitBack u h f core) := by
  unfold mxWaitBack
  split <;> exact ⟨rfl, rfl, rfl⟩

theorem samePlaces_rejoined (s u : State) (h : Nat) (f : Floe) (core : Nat) (seat : Seat) :
    SamePlaces (u.setFloe h (seated s f core seat)) (rejoined s u h f core seat) := by
  have hslots := samePlaces_slotsBack u f core
  have hset : SamePlaces (u.setFloe h (seated s f core seat)) ((slotsBack u f core).setFloe h (seated s f core seat)) :=
    ⟨congrArg (Table.insert · h (seated s f core seat)) hslots.floes, hslots.firn, hslots.copies⟩
  have htag (v : State) : SamePlaces v (retagged v h core seat.tag) := ⟨rfl, rfl, rfl⟩
  exact ((hset.trans (samePlaces_l1Fit ..)).trans (htag _)).trans (samePlaces_mxWaitBack ..)

section
variable {s t : State} {h core : Nat} {f : Floe}

/-- A floe restored where it was saved, with no matrix context, scratch or recorded replay. -/
theorem State.restoreOne_eq {seat : Seat} (hf : s.floe? h = some f) (hmx : f.savedMx = none) (hmark : f.replayMark = none)
    (hscratch : (s.inst? f.ctx f.inst).bind (fun i => Table.find? i.savedScratch core) = none)
    (hseat : seatOn s core f.ctx f.inst (s.kernel f.ctx f.kernel).firn f.regs f.wregs = some seat) :
    s.restoreOne h core core = some ((rejoined s ((s.takeSeat core seat (regBytes f.regs f.wregs)).putWords core (seat.room.rbase / 4) f.savedRegs)
      h f core seat).restoreCopies h core) := by
  rw [State.restoreOne, hf]
  simp only [hmx, hmark, hscratch, hseat, Floe.onCopy_same, Option.map_some]
  obtain ⟨⟨region, start, rbase⟩, slice, pos, tag⟩ := seat
  cases region <;> rfl

/-- Without copies saved either, the floe has a seat and its words are put back there. -/
theorem State.restoreOne_seats (hf : s.floe? h = some f) (hmx : f.savedMx = none) (hmark : f.replayMark = none)
    (hcopies : ∀ c ∈ Table.vals s.copies, c.floe = h → c.savedIn = false)
    (hscratch : ∀ i, s.inst? f.ctx f.inst = some i → Table.find? i.savedScratch core = none) (ht : s.restoreOne h core core = some t) :
    ∃ seat, t.floe? h = some (seated s f core seat)
      ∧ t.firn = ((s.takeSeat core seat (regBytes f.regs f.wregs)).putWords core (seat.room.rbase / 4) f.savedRegs).firn := by
  have hbind : (s.inst? f.ctx f.inst).bind (fun i => Table.find? i.savedScratch core) = none := by
    cases hi : s.inst? f.ctx f.inst with
    | none => rfl
    | some i => exact hscratch i hi
  cases hseat : seatOn s core f.ctx f.inst (s.kernel f.ctx f.kernel).firn f.regs f.wregs with
  | none => simp [State.restoreOne, hf, hseat] at ht
  | some seat =>
    obtain ⟨-, hput, -⟩ := State.putWords_floes core (seat.room.rbase / 4) f.savedRegs (s.takeSeat core seat (regBytes f.regs f.wregs))
    have hsame := samePlaces_rejoined s ((s.takeSeat core seat (regBytes f.regs f.wregs)).putWords core (seat.room.rbase / 4) f.savedRegs) h f core seat
    rw [State.restoreOne_eq hf hmx hmark hbind hseat, State.restoreCopies_none (by rw [hsame.copies, State.setFloe_copies, hput]; exact hcopies)] at ht
    obtain rfl := Option.some.inj ht
    refine ⟨seat, ?_, hsame.firn⟩
    rw [State.floe?_of_floes hsame.floes, State.floe?_setFloe, if_pos rfl]

end

theorem State.settleAll_runs (s : State) : SameRuns s s.settleAll ∧ s.settleAll.copies = s.copies :=
  have hsettle : Settles s s.settleAll := .foldl (fun t c => .foldl (settles_dropRegion c) _ t) _ s
  ⟨.foldl sameRuns_settleScratch _ s, by rw [hsettle.same]⟩

/-- Where a floe's group is on its core, it is restored alone and there. -/
theorem State.restoreUnit_alone {s t : State} {h core : Nat} {f : Floe}
    (hthere : (Table.search s.floes (fun _ g => g.inGroup f.ctx f.inst f.core && g.resident)).isSome = true) (ht : s.restoreUnit h f core = some t) :
    f.core = core ∧ s.restoreOne h core core = some t := by
  simp only [State.restoreUnit, hthere, if_true] at ht
  split at ht
  · next hown =>
    obtain rfl := hown.1
    refine ⟨rfl, ?_⟩
    simpa [restoreAll] using ht
  · cases ht

/-- A restore puts the floe where its group is, in the state and with the registers that it was saved with. -/
theorem restoreUnit_restores {s t : State} {h core : Nat} {f : Floe} (hf : s.floe? h = some f) (ht : s.settleAll.restoreUnit h f core = some t)
    (hmark : f.replayMark = none) (hmx : f.savedMx = none) (hcopies : ∀ c ∈ Table.vals s.copies, c.floe = h → c.savedIn = false)
    (hthere : (Table.search s.floes (fun _ g => g.inGroup f.ctx f.inst f.core && g.resident)).isSome = true)
    (hscratch : ∀ i, s.settleAll.inst? f.ctx f.inst = some i → Table.find? i.savedScratch f.core = none) (hkeys : (Table.keys f.savedRegs).Nodup) :
    f.core = core ∧ ∃ g, t.floe? h = some g ∧ g.state = f.savedFrom ∧ g.core = core ∧ g.s0 = f.s0 ∧ g.s1 = f.s1 ∧ g.wait = f.wait
      ∧ ∀ k, k < f.regWords → t.firnAt core (g.rbase / 4 + k) = Table.getD f.savedRegs FirnWord.empty k := by
  obtain ⟨hruns, hcop⟩ := State.settleAll_runs s
  obtain ⟨rfl, hone⟩ := State.restoreUnit_alone (by rw [hruns.floes]; exact hthere) ht
  obtain ⟨seat, hfloe, hfirn⟩ := State.restoreOne_seats ((State.floe?_of_floes hruns.floes h).trans hf) hmx hmark (by rw [hcop]; exact hcopies) hscratch hone
  refine ⟨rfl, _, hfloe, rfl, rfl, rfl, rfl, rfl, fun k hk => ?_⟩
  have hput := State.putWords_firnAt (core := f.core) (first := seat.room.rbase / 4) f.savedRegs (s.settleAll.takeSeat f.core seat (regBytes f.regs f.wregs)) k hkeys
  rw [State.takeSeat_firnAt (hk.trans_le f.regWords_le)] at hput
  exact (State.firnAt_of_firn hfirn _ _).trans hput

/-! ## The deadline rule (R317) -/

/-- A started floe that no unserviced fault holds, with a core that its kernel may use, is due when its limit has passed. -/
theorem Floe.due_of {s : State} {f : Floe} {c : Ctx} {gt0 : Nat} (hsaved : f.state = .saved) (hstart : f.startGt = some gt0) (hc : s.ctx? f.ctx = some c)
    (hrun : c.state = .running) (hfault : f.savedFrom ≠ .suspended ∨ f.replayMark ≠ none) (hplace : placeCores s f.ctx (s.kernel f.ctx f.kernel) ≠ [])
    (htime : f.savedGt + (s.part (partOf f.core)).restoreLimit * 500 + (s.gatedFor f.core - f.savedStop) ≤ s.gt) : f.due s = true := by
  have hmark : (f.savedFrom != .suspended || f.replayMark.isSome) = true := by
    simpa [Option.isSome_iff_ne_none] using hfault
  simp [Floe.due, Floe.owed, hsaved, hstart, hc, hrun, hmark, hplace, htime]

/-- A floe that was SAVED before and is not now, marked as restored under the deadline rule. -/
def markRestored (s : State) (k : Nat) (g : Floe) : Floe :=
  if g.resident && (match s.floe? k with | some g0 => g0.state == .saved | none => false) then { g with restoredGt := some s.gt } else g

/-- The machine with its restored floes marked. -/
def restoredNow (s u : State) : State := { u with floes := Table.map u.floes (markRestored s) }

theorem restoredNow_floe {s u : State} {h : Nat} {f g : Floe} (hf : s.floe? h = some f) (hsaved : f.state = .saved) (hg : u.floe? h = some g)
    (hres : g.resident = true) : (restoredNow s u).floe? h = some { g with restoredGt := some s.gt } := by
  have hmap : (restoredNow s u).floe? h = (u.floe? h).map (markRestored s h) := Table.find?_map u.floes (markRestored s) h
  have hmark : markRestored s h g = { g with restoredGt := some s.gt } := by
    simp [markRestored, hf, hsaved, hres]
  rw [hmap, hg, Option.map_some, hmark]

theorem exec_deadlineRestore {s u : State} {h core : Nat} {f : Floe} (hf : s.floe? h = some f) (hdue : f.due s = true)
    (hcores : restoreCores s.settleAll f = [core]) (hu : s.settleAll.restoreUnit h f core = some u) :
    exec (.deadlineRestore h) s = .next (restoredNow s u) := by
  have hfind : (restoreCores s.settleAll f).findSome? (fun c => s.settleAll.restoreUnit h f c) = some u := by
    rw [hcores, List.findSome?_cons, hu]
  have hgo : ¬ (!f.due s) = true := by rw [hdue]; exact Bool.false_ne_true
  rw [exec, execDeadlineRestore, hf]
  refine (if_neg hgo).trans ?_
  simp only [hfind]
  rfl

/-! ## Changes of cores (R359) -/

/-- From `s` to `t` nothing differs but the cores. -/
def OnlyCores (s t : State) : Prop := t = { s with cores := t.cores }

namespace OnlyCores

theorem refl (s : State) : OnlyCores s s := rfl

theorem trans {s t u : State} (h : OnlyCores s t) (k : OnlyCores t u) : OnlyCores s u := by
  rw [OnlyCores, k, h]

theorem foldl {α : Type} {g : State → α → State} (h : ∀ s a, OnlyCores s (g s a)) (l : List α) (s : State) : OnlyCores s (l.foldl g s) :=
  List.foldlRecOn l g (motive := OnlyCores s) (refl s) fun _ ht a _ => ht.trans (h _ a)

section
variable {s t : State} (h : OnlyCores s t)
include h

theorem ctxs : t.ctxs = s.ctxs := by rw [h]
theorem floes : t.floes = s.floes := by rw [h]
theorem firn : t.firn = s.firn := by rw [h]
theorem ms : t.ms = s.ms := by rw [h]

end

end OnlyCores

theorem onlyCores_modCore (s : State) (c : Nat) (g : Core → Core) : OnlyCores s (s.modCore c g) := rfl

/-- What every change of a list of cores brings about, and the others have, all cores have after it. -/
theorem State.foldl_modCore_all {P : Core → Prop} {g : Nat → Core → Core} (hg : ∀ k c, P (g k c)) (l : List Nat) (s : State)
    (hs : ∀ k, k ∉ l → P (s.core k)) (k : Nat) : P ((l.foldl (fun (t : State) x => t.modCore x (g x)) s).core k) := by
  induction l generalizing s with
  | nil => exact hs k List.not_mem_nil
  | cons x l ih =>
    refine ih (s.modCore x (g x)) fun j hj => ?_
    by_cases hx : j = x
    · subst hx
      rw [State.core_modCore_same]
      exact hg ..
    · rw [State.core_modCore_ne _ _ hx]
      exact hs j (by simp [hx, hj])

/-! ## Writes make no copy of another context (R196, R200, R337) -/

/-- Every core keeps its TLB from `s` to `t`, and has no line of a tag that it had none of. -/
structure SameTags (s t : State) : Prop where
  tlb : ∀ k, (t.core k).tlb = (s.core k).tlb
  l1 : ∀ k, ∀ l ∈ Table.vals (t.core k).l1, ∃ l0 ∈ Table.vals (s.core k).l1, l.tag = l0.tag

namespace SameTags

theorem of_cores {s t : State} (h : t.cores = s.cores) : SameTags s t := by
  have hcore (k : Nat) : t.core k = s.core k := by rw [State.core, State.core, h]
  exact ⟨fun k => by rw [hcore], fun k l hl => ⟨l, hcore k ▸ hl, rfl⟩⟩

theorem refl (s : State) : SameTags s s := of_cores rfl

theorem trans {s t u : State} (h : SameTags s t) (k : SameTags t u) : SameTags s u := by
  refine ⟨fun n => (k.tlb n).trans (h.tlb n), fun n l hl => ?_⟩
  obtain ⟨l1, hl1, htag⟩ := k.l1 n l hl
  obtain ⟨l0, hl0, htag0⟩ := h.l1 n l1 hl1
  exact ⟨l0, hl0, htag.trans htag0⟩

theorem foldl {α : Type} {g : State → α → State} (h : ∀ s a, SameTags s (g s a)) (l : List α) (s : State) : SameTags s (l.foldl g s) :=
  List.foldlRecOn l g (motive := SameTags s) (refl s) fun _ ht a _ => ht.trans (h _ a)

theorem ite {s t u : State} {c : Prop} [Decidable c] (ht : SameTags s t) (hu : SameTags s u) : SameTags s (if c then t else u) := by
  split
  · exact ht
  · exact hu

/-- A tag that a core has nothing of stays so. -/
theorem gone {s t : State} (h : SameTags s t) {k : Nat} {tag : BitVec 8} (htlb : ∀ en ∈ (s.core k).tlb, en.tag ≠ tag)
    (hl1 : ∀ l ∈ Table.vals (s.core k).l1, l.tag ≠ tag) :
    (∀ en ∈ (t.core k).tlb, en.tag ≠ tag) ∧ ∀ l ∈ Table.vals (t.core k).l1, l.tag ≠ tag := by
  refine ⟨by rwa [h.tlb], fun l hl => ?_⟩
  obtain ⟨l0, hl0, htag⟩ := h.l1 k l hl
  exact htag ▸ hl1 l0 hl0

end SameTags

theorem sameTags_l2Drop (s : State) (die line : Nat) (sp : Span) : SameTags s (s.l2Drop die line sp) := by
  simp only [State.l2Drop]
  split <;> exact .of_cores rfl

theorem sameTags_l2Update (s : State) (die line : Nat) (bytes : List (Nat × Byte)) : SameTags s (s.l2Update die line bytes) := by
  simp only [State.l2Update]
  split <;> exact .of_cores rfl

theorem sameTags_dirEngine (s : State) (m die : Nat) (p : Phys) (sp : Span) (bytes : List (Nat × Byte)) :
    SameTags s (s.dirEngine m die p sp bytes) := by
  have hdir (t : State) (line : Nat) (d : DirEntry) : SameTags t (t.setDir line d) := .of_cores rfl
  unfold State.dirEngine
  lift_lets
  extract_lets line free r0 s1 r mine d s2
  have hfree (t : State) : SameTags t (free t) := by
    dsimp only [free]
    split
    · exact .ite (.refl t) ((hdir ..).trans (sameTags_l2Drop ..))
    · exact .refl t
  have hcalled : SameTags s s1 := .ite (hfree s) (.refl s)
  refine .ite (.refl s) (.ite hcalled ((hcalled.trans (hdir ..)).trans (.foldl (fun t x => ?_) _ s2)))
  split
  · exact sameTags_l2Drop ..
  · exact sameTags_l2Update ..
  · exact .refl t

theorem sameTags_exclReturn (s : State) (core pa n : Nat) : SameTags s (s.exclReturn core pa n) := by
  have hcore (k : Nat) : ((s.exclReturn core pa n).core k).tlb = (s.core k).tlb ∧ ((s.exclReturn core pa n).core k).l1 = (s.core k).l1 := by
    simp only [State.core, State.exclReturn, Table.getD, Table.find?_map]
    cases Table.find? s.cores k with
    | none => exact ⟨rfl, rfl⟩
    | some c =>
      simp only [Option.map_some, Option.getD_some]
      split <;> exact ⟨rfl, rfl⟩
  exact ⟨fun k => (hcore k).1, fun k l hl => ⟨l, (hcore k).2 ▸ hl, rfl⟩⟩

/-- A line whose byte a core updates keeps its tag. -/
theorem sameTags_l1Update (s : State) (core ctx pa : Nat) (v : Byte) : SameTags s (s.l1Update core ctx pa v) := by
  simp only [State.l1Update]
  split
  · next l hl =>
    refine .ite ⟨fun k => ?_, fun k x hx => ?_⟩ (.refl s) <;> by_cases hk : k = core
    · rw [hk, State.core_modCore_same]
    · rw [State.core_modCore_ne _ _ hk]
    · rw [hk, State.core_modCore_same] at hx
      rw [hk]
      obtain ⟨p, hp, rfl⟩ := List.mem_map.1 hx
      rcases Table.mem_insert hp with rfl | hp
      · exact ⟨l, List.mem_map.2 ⟨_, Table.mem_of_find? hl, rfl⟩, rfl⟩
      · exact ⟨p.2, List.mem_map.2 ⟨p, hp, rfl⟩, rfl⟩
    · rw [State.core_modCore_ne _ _ hk] at hx
      exact ⟨x, hx, rfl⟩
  · exact .refl s

theorem sameTags_sealPrepare (s : State) (ctx : Nat) (e : Pte) (pa : Nat) : SameTags s (sealPrepare s ctx e pa) := by
  have hseal (u : State) (blk : Nat) (m : SealMeta) : SameTags u (u.setSeal blk m) := .of_cores rfl
  have hms (u : State) (ms : Ms) : SameTags u { u with ms := ms } := .of_cores rfl
  simp only [sealPrepare]
  split
  · split
    · exact .ite (hms ..) (((hms ..).trans (hms ..)).trans (hseal ..))
    · exact .refl s
  · exact .ite ((hms ..).trans (hseal ..)) (.refl s)

theorem sameTags_homeByte (s : State) (core ctx : Nat) (e : Pte) (pa : Nat) (v : Byte) : SameTags s (s.homeByte core ctx e pa v) := by
  refine (sameTags_sealPrepare s ctx e pa).trans (.of_cores ?_)
  simp only [State.homeByte]
  split
  · split <;> rfl
  · rfl

theorem sameTags_engineByte (s : State) (m core ctx : Nat) (e : Pte) (pa : Nat) (v : Byte) : SameTags s (s.engineByte m core ctx e pa v) := by
  have hwrite (t : State) : SameTags t (t.writeByte core ctx e pa v) := (sameTags_homeByte ..).trans (sameTags_l1Update ..)
  have hl2 (t : State) (l2 : Table (Table Byte)) : SameTags t { t with ms := { t.ms with l2 := l2 } } := .of_cores rfl
  simp only [State.engineByte]
  exact (((sameTags_dirEngine ..).trans (sameTags_exclReturn ..)).trans (hwrite _)).trans (hl2 ..)

theorem sameTags_markWords (s : State) (once : Bool) (pa n : Nat) : SameTags s (s.markWords once pa n) :=
  have hmark (t : State) (a : Nat) : SameTags t (t.mark a) := .of_cores rfl
  .ite (.foldl (fun t i => hmark t (pa + 4 * i)) _ s) (.ite (.refl s) (.of_cores rfl))

theorem sameTags_writeVirt {s t : State} {core ctx : Nat} {secure : Bool} {va : Dword} {bs : List Byte}
    (h : writeVirt s core ctx secure va bs = .ok t) : SameTags s t := by
  have hpoison (u : State) (pas : List Nat) : SameTags u (u.unpoison pas) := .ite (.refl u) (.of_cores rfl)
  simp only [writeVirt] at h
  split at h
  · cases h
  · obtain rfl := Except.ok.inj h
    refine (SameTags.foldl (fun u i => ?_) _ s).trans (hpoison ..)
    split
    · exact (sameTags_engineByte ..).trans (sameTags_markWords ..)
    · exact .refl u

theorem sameTags_jWrite (s : State) (j : JRef) (off : Nat) (bs : List Byte) : SameTags s (s.jWrite j off bs) := by
  refine .of_cores ?_
  simp only [State.jWrite]
  split
  · rfl
  · split <;> rfl

theorem sameTags_journalPart (s : State) (part : Nat) : SameTags s (s.journalPart part) := by
  simp only [State.journalPart]
  split
  · exact .refl s
  · next w _ =>
    have hout : SameTags s { s with jOut := s.jOut.erase w } := .of_cores rfl
    split
    · exact .refl s
    · split
      · next u hu => exact hout.trans (sameTags_writeVirt hu)
      · exact hout

theorem sameTags_jSet (s : State) (j : JRef) (status reason inst : Nat) : SameTags s (s.jSet j status reason inst) := by
  have hnow (off : Nat) (bs : List Byte) : SameTags s (s.jNow j off bs) := by
    simp only [State.jNow]
    exact .ite (sameTags_jWrite ..) ((sameTags_jWrite ..).trans (sameTags_journalPart ..))
  simp only [State.jSet]
  exact .ite (.refl s) ((hnow ..).trans (sameTags_jWrite ..))

/-! ## SAVE and MIGRATE end (R359, R368) -/

section
variable {s : State} {ctx : Nat} {x : Ctx}

theorem State.endPending_ctx (hx : s.ctx? ctx = some x) (ok : Bool) : (s.endPending ctx ok).ctx? ctx = some { x with pending := none } := by
  have hpending : (s.ctx? ctx).bind (fun c => c.pending) = x.pending := by rw [hx, Option.bind_some]
  cases hp : x.pending with
  | none =>
    rw [State.endPending, hpending, hp]
    exact hx.trans (congrArg some (by rw [← hp]))
  | some e =>
    obtain ⟨j, fn⟩ := e
    have hset : (s.jSet j (if ok then 2 else 3) (if ok then 0 else 8) 0).ctx? ctx = some x :=
      (State.ctx?_of_ctxs (journalOnly_jSet ..).ctxs ctx).trans hx
    have hmod := State.ctx?_modCtx_same (g := fun c : Ctx => { c with pending := none }) hset rfl
    rw [State.endPending, hpending, hp]
    cases fn with
    | none => exact hmod
    | some n => exact (State.ctx?_of_ctxs (reports_hcmd ..).ctxs ctx).trans hmod

theorem sameTags_modCtx (s : State) (ctx : Nat) (g : Ctx → Ctx) : SameTags s (s.modCtx ctx g) := .of_cores (by rw [State.modCtx_eq])

theorem sameTags_endPending (s : State) (ctx : Nat) (ok : Bool) : SameTags s (s.endPending ctx ok) := by
  have hcmd (t : State) (n a b num seq : Nat) : SameTags t (t.hcmd n a b num seq) := .of_cores (by rw [State.hcmd_eq])
  simp only [State.endPending]
  split
  · exact .refl s
  · next j fn _ =>
    have hset := (sameTags_jSet s j (if ok then 2 else 3) (if ok then 0 else 8) 0).trans (sameTags_modCtx _ ctx (fun c => { c with pending := none }))
    split
    · exact hset.trans (hcmd ..)
    · exact hset

/-- The cores of a context that is SAVED hold none of its tree slots. -/
theorem State.saveSlots_saved (hx : s.ctx? ctx = some x) : (s.saveSlots ctx).floes = s.floes
    ∧ ∃ y, (s.saveSlots ctx).ctx? ctx = some y ∧ y.state = .saved := by
  unfold State.saveSlots
  extract_lets held
  have hcores : OnlyCores s (List.foldl (fun (t : State) (p : Nat × Table TreeSlot) =>
      t.modCore p.1 (fun c => { c with slots := Table.keep c.slots (fun _ x => x.ctx != ctx) })) s held) := .foldl (fun _ _ => onlyCores_modCore ..) _ s
  have hmod := State.ctx?_modCtx_live (g := fun c : Ctx => { c with state := .saved, savedSlots := held })
    ((State.ctx?_of_ctxs hcores.ctxs ctx).trans hx) CtxState.noConfusion
  refine ⟨?_, _, hmod, rfl⟩
  rw [State.modCtx_eq]
  exact hcores.floes

theorem exec_contextSaved_waits (hx : s.ctx? ctx = some x) (hstate : x.state = .preempting) (hleft : allSaved s ctx = false) :
    exec (.contextSaved ctx) s = .next s := by
  have hnot : (!allSaved s ctx) = true := by rw [hleft]; rfl
  rw [exec, execContextSaved, hx]
  exact (if_pos hstate).trans (if_pos hnot)

theorem exec_contextSaved_saves (hx : s.ctx? ctx = some x) (hstate : x.state = .preempting) (hall : allSaved s ctx = true) :
    ∃ t y, exec (.contextSaved ctx) s = .next t ∧ t.ctx? ctx = some y ∧ y.state = .saved ∧ y.pending = none ∧ t.floes = s.floes := by
  have hgo : ¬ (!allSaved s ctx) = true := by rw [hall]; exact Bool.false_ne_true
  have hmark : State.ctx? { s with copies := Table.map s.copies (fun _ x => if x.ctx = ctx then { x with savedIn := true } else x) } ctx = some x := hx
  obtain ⟨hfloes, y, hy, hsaved⟩ := State.saveSlots_saved hmark
  refine ⟨_, _, ?_, State.endPending_ctx hy true, hsaved, rfl, (endPending_reports ..).1.trans hfloes⟩
  rw [exec, execContextSaved, hx]
  exact (if_pos hstate).trans (if_neg hgo)

/-- A core flushed for a tag has nothing of it in its TLB and its L1. -/
theorem State.flushCore_gone (s : State) (core : Nat) (tag : BitVec 8) : (∀ en ∈ ((s.flushCore core tag).core core).tlb, en.tag ≠ tag)
    ∧ ∀ l ∈ Table.vals ((s.flushCore core tag).core core).l1, l.tag ≠ tag := by
  rw [State.flushCore, State.core_modCore_same]
  refine ⟨fun en hen => ?_, fun l hl => ?_⟩
  · simpa using (List.mem_filter.1 hen).2
  · obtain ⟨p, hp, rfl⟩ := List.mem_map.1 hl
    simpa using (List.mem_filter.1 hp).2

end

/-- The machine with a core flushed for a context's tag, and no floe of the context waiting for that. -/
def flushedOff (s : State) (ctx p : Nat) (tag : BitVec 8) : State :=
  { s.flushCore p tag with
    floes := Table.map (s.flushCore p tag).floes (fun _ f => if f.ctx = ctx ∧ f.flushWait = some p then { f with flushWait := none } else f) }

/-- The machine with the last migration of a context made. -/
def migratedOff (s : State) (ctx p : Nat) (tag : BitVec 8) : State := (flushedOff s ctx p tag).modCtx ctx (fun x => { x with migrate := [] })

/-- The machine with the context running on. -/
def migrateEnded (s : State) (ctx p : Nat) (tag : BitVec 8) : State :=
  ((migratedOff s ctx p tag).modCtx ctx (fun x => { x with state := if (s.instsOf ctx).isEmpty then .resident else .running })).endPending ctx true

section
variable {s : State} {ctx p : Nat} {x : Ctx}

theorem migrateEnded_ctx (hx : s.ctx? ctx = some x) : (migrateEnded s ctx p x.tag).ctx? ctx
    = some { x with migrate := [], state := if (s.instsOf ctx).isEmpty then .resident else .running, pending := none } := by
  have hflushed : (flushedOff s ctx p x.tag).ctx? ctx = some x := hx
  have hmoved : (migratedOff s ctx p x.tag).ctx? ctx = some { x with migrate := [] } :=
    State.ctx?_modCtx_same (g := fun x : Ctx => { x with migrate := [] }) hflushed rfl
  have hlive : (if (s.instsOf ctx).isEmpty then CtxState.resident else .running) ≠ .free := by split <;> exact CtxState.noConfusion
  exact State.endPending_ctx (State.ctx?_modCtx_live hmoved hlive) true

theorem migrateEnded_gone (s : State) (ctx p : Nat) (tag : BitVec 8) : (∀ en ∈ ((migrateEnded s ctx p tag).core p).tlb, en.tag ≠ tag)
    ∧ ∀ l ∈ Table.vals ((migrateEnded s ctx p tag).core p).l1, l.tag ≠ tag := by
  have hflushed : SameTags (s.flushCore p tag) (flushedOff s ctx p tag) := .of_cores rfl
  obtain ⟨htlb, hl1⟩ := State.flushCore_gone s p tag
  exact (((hflushed.trans (sameTags_modCtx ..)).trans (sameTags_modCtx ..)).trans (sameTags_endPending ..)).gone htlb hl1

/-- The last migration of a context ends when nothing of it is left on the core it leaves. -/
theorem exec_migrationFlushAck {q : Option Nat} (hx : s.ctx? ctx = some x) (hmig : x.migrate = [(p, q)]) (hstate : x.state = .migrating)
    (hoff : movedOff s ctx p = true) : exec (.migrationFlushAck ctx) s = .next (migrateEnded s ctx p x.tag) := by
  have hfind : x.migrate.find? (fun m => movedOff s ctx m.1) = some (p, q) := by rw [hmig]; simp [hoff]
  have hleft : x.migrate.filter (fun m => m.1 != p) = [] := by rw [hmig]; simp
  rw [exec, execMigrationFlushAck, hx]
  simp only [hfind, hleft]
  exact (if_neg (not_not.2 hstate)).trans (congrArg _ (if_pos rfl))

end

/-- A core that none of a context's floes and no writing operation of it is on is one that it has moved off. -/
theorem movedOff_of {s : State} {ctx p : Nat} (hfloes : ∀ f ∈ Table.vals s.floes, f.ctx = ctx → f.core = p → f.state = .retired)
    (hops : ∀ o ∈ Table.vals s.ops, o.ctx = ctx → o.core = p → o.writes = false) : movedOff s ctx p = true := by
  have hnofloe : Table.search s.floes (fun _ f => f.ctx == ctx && f.core == p && f.state != .retired) = none := by
    refine List.find?_eq_none.2 fun e he hon => ?_
    simp only [Bool.and_eq_true, beq_iff_eq, bne_iff_ne] at hon
    exact hon.2 (hfloes e.2 (List.mem_map.2 ⟨e, he, rfl⟩) hon.1.1 hon.1.2)
  have hnoop : Table.search s.ops (fun _ o => o.ctx == ctx && o.core == p && o.writes) = none := by
    refine List.find?_eq_none.2 fun e he hon => ?_
    simp only [Bool.and_eq_true, beq_iff_eq] at hon
    exact Bool.false_ne_true ((hops e.2 (List.mem_map.2 ⟨e, he, rfl⟩) hon.1.1 hon.1.2).symm.trans hon.2)
  rw [movedOff, hnofloe, hnoop]
  rfl

/-! ## A destroyed context is scrubbed (R359) -/

/-- What a filter keeps passes it. -/
theorem Table.find?_keep_passes {α : Type} {t : Table α} {p : Nat → α → Bool} {k : Nat} {v : α} (h : Table.find? (Table.keep t p) k = some v) :
    p k v = true :=
  (List.mem_filter.1 (Table.mem_of_find? h)).2

/-- The machine with the halted cores of a destroyed context awake and all cores scrubbed. -/
def scrubCores (s : State) (ctx : Nat) (c : Ctx) : State :=
  let wake := (allCores.filter (fun x => c.parts.contains (partOf x) && (s.core x).halted)).foldl State.wakeCore s
  (Table.keys wake.cores).foldl (fun (t : State) x => t.modCore x (Core.scrub ctx c.tag (c.parts.contains (partOf x)))) wake

theorem onlyCores_scrubCores (s : State) (ctx : Nat) (c : Ctx) : OnlyCores s (scrubCores s ctx c) :=
  have hwake (t : State) (x : Nat) : OnlyCores t (t.wakeCore x) := by
    rw [State.wakeCore]
    exact onlyCores_modCore ..
  OnlyCores.trans (.foldl hwake _ s) (.foldl (fun _ _ => onlyCores_modCore ..) _ _)

/-- No core has a TLB entry of the tag left. -/
theorem scrubCores_tlb (s : State) (ctx : Nat) (c : Ctx) (k : Nat) : ∀ en ∈ ((scrubCores s ctx c).core k).tlb, en.tag ≠ c.tag := by
  refine State.foldl_modCore_all (P := fun x => ∀ en ∈ x.tlb, en.tag ≠ c.tag) (g := fun x => Core.scrub ctx c.tag (c.parts.contains (partOf x)))
    (fun x y en hen => ?_) _ _ (fun x hx => ?_) k
  · simpa using (List.mem_filter.1 hen).2
  · have hnone : Table.find? (State.cores _) x = none := Table.find?_none fun e he hex => hx (List.mem_map.2 ⟨e, he, hex⟩)
    rw [State.core, Table.getD, hnone]
    exact fun _ hen => absurd hen List.not_mem_nil

/-- The machine without a context: nothing of it in firn, caches and tables, its number FREE. -/
def scrubRest (s : State) (ctx : Nat) (c : Ctx) : State :=
  { s with
    ms := { s.ms with tlb2 := Table.map s.ms.tlb2 (fun _ l => l.filter (fun t => t.tag != c.tag)) }
    firn := Table.keep s.firn (fun k _ => !c.parts.contains (partOf (k / firnWords)))
    mx := Table.keep s.mx (fun k _ => !c.parts.contains (partOf (k / 2)))
    floes := Table.keep s.floes (fun _ f => f.ctx != ctx)
    insts := Table.keep s.insts (fun k _ => k / 2 ^ 32 != ctx)
    kernels := Table.keep s.kernels (fun k _ => k / 4096 != ctx)
    events := Table.keep s.events (fun k _ => k / 65536 != ctx)
    queues := Table.keep s.queues (fun _ q => q.ctx != ctx)
    ops := Table.keep s.ops (fun _ o => o.ctx != ctx)
    copies := Table.keep s.copies (fun _ k => k.ctx != ctx)
    ctxs := Table.insert s.ctxs ctx { Ctx.fresh with state := .free, tag := c.tag } }

section
variable {s : State} {ctx : Nat} {c : Ctx}

theorem exec_scrubbed (hc : s.ctx? ctx = some c) (hstate : c.state = .destroyed) :
    exec (.scrubbed ctx) s = .next (scrubRest (scrubCores s ctx c) ctx c) := by
  have hexec : exec (.scrubbed ctx) s = execScrubbed ctx s := rfl
  rw [hexec, scrubRest, scrubCores]
  simp only [execScrubbed, hc]
  exact if_neg (not_not.2 hstate)

theorem scrubRest_ctx (s : State) (ctx : Nat) (c : Ctx) : (scrubRest s ctx c).ctx? ctx = none := by
  simp [State.ctx?, scrubRest]

theorem scrubRest_firn {core word : Nat} (hw : word < firnWords) : (scrubRest s ctx c).firnAt core word
    = if c.parts.contains (partOf core) = true then FirnWord.empty else s.firnAt core word := by
  have hkey : firnKey core word / firnWords = core := by
    simp only [firnKey, firnWords] at *
    omega
  have hfind : (scrubRest s ctx c).firnAt core word
      = (Table.find? (Table.keep s.firn (fun k _ => !c.parts.contains (partOf (k / firnWords)))) (firnKey core word)).getD FirnWord.empty := rfl
  rw [hfind]
  split
  · next hmine =>
    rw [Table.find?_keep_none (p := fun k _ => !c.parts.contains (partOf (k / firnWords))) fun _ => by simp only [hkey, hmine, Bool.not_true],
      Option.getD_none]
  · next hmine =>
    rw [Table.find?_keep_of_key (fun k => !c.parts.contains (partOf (k / firnWords))) _ (by simp only [hkey, hmine, Bool.not_false]), State.firnAt,
      Table.getD]

theorem scrubRest_tlb2 (s : State) (ctx : Nat) (c : Ctx) (die : Nat) : ∀ en ∈ Table.getD (scrubRest s ctx c).ms.tlb2 [] die, en.tag ≠ c.tag := by
  have hms : (scrubRest s ctx c).ms.tlb2 = Table.map s.ms.tlb2 (fun _ l => l.filter (fun t => t.tag != c.tag)) := rfl
  rw [hms, Table.getD, Table.find?_map]
  cases Table.find? s.ms.tlb2 die with
  | none => exact fun _ hen => absurd hen List.not_mem_nil
  | some l => exact fun en hen => by simpa using (List.mem_filter.1 hen).2

theorem scrubRest_byte (s : State) (ctx : Nat) (c : Ctx) (a : Nat) : (scrubRest s ctx c).ms.byte a = s.ms.byte a := rfl

theorem scrubRest_core (s : State) (ctx : Nat) (c : Ctx) (k : Nat) : (scrubRest s ctx c).core k = s.core k := rfl

theorem scrubRest_floe {k : Nat} {f : Floe} (hf : (scrubRest s ctx c).floe? k = some f) : f.ctx ≠ ctx := by
  simpa using Table.find?_keep_passes (t := s.floes) (p := fun _ f => f.ctx != ctx) hf

end

/-! ## RLD replies given up, fault records posted (R365, R372) -/

theorem exec_saveRldTimeout {s : State} {id : Nat} {o : Op} {f : Floe} (ho : Table.find? s.ops id = some o) (hf : s.floe? o.floe = some f)
    (hsave : f.preempt = true) (htime : f.savedGt + 100000 ≤ s.gt) (hinfo : o.info = rldMark) (hflight : o.state = .inFlight)
    (hopen : ∃ r ∈ s.net.reqs, r.op = id) :
    exec (.saveRldTimeout id) s = .next { s with ops := Table.insert s.ops id { o with failed := true } } := by
  have hreqs : s.net.reqs.any (fun r => r.op == id) = true := by simpa [List.any_eq_true] using hopen
  rw [exec, execSaveRldTimeout, ho]
  simp only [hf]
  refine (if_pos ⟨hsave, htime, hinfo, hflight, hreqs⟩).trans ?_
  rw [State.modOp, ho]

/-- Where the next fault record of a context goes (R372). -/
def Ctx.fqSlot (c : Ctx) : Dword := c.fqBase + BitVec.ofNat 64 (64 * (c.fqTail.toNat % 2 ^ (c.fqCtl.toNat % 32)))

/-- The oldest record in its slot, the FQCTL event signaled and the interrupt raised. -/
def recordPosted (u : State) (ctx : Nat) (c : Ctx) (rest : List FaultRec) : State :=
  let t := (u.modCtx ctx (fun x => { x with faultRecs := rest, fqTail := x.fqTail + 1 })).signal ctx (c.fqCtl.toNat / 65536) 1 []
  { t with irqs := if t.irqs.contains (c.home + 1) then t.irqs else t.irqs ++ [c.home + 1] }

section
variable {s u : State} {ctx : Nat} {c : Ctx} {r : FaultRec} {rest : List FaultRec}

theorem exec_faultRecordPost (hc : s.ctx? ctx = some c) (hrecs : c.faultRecs = r :: rest)
    (hroom : ¬ (c.fqBase = 0 ∨ c.fqCtl.toNat % 32 < 4 ∨ 16 < c.fqCtl.toNat % 32 ∨ c.fqStuck = true ∨ 2 ^ (c.fqCtl.toNat % 32) ≤ (c.fqTail - c.fqHead).toNat))
    (hfree : writeFree s (partCore c.home) ctx (coreSecure s (partCore c.home)) c.fqSlot 64 = true)
    (hu : writeVirt s (partCore c.home) ctx (coreSecure s (partCore c.home)) c.fqSlot r.bytes = .ok u) :
    exec (.faultRecordPost ctx) s = .next (recordPosted u ctx c rest) := by
  have hgo : ¬ (!writeFree s (partCore c.home) ctx (coreSecure s (partCore c.home)) c.fqSlot 64) = true := by rw [hfree]; exact Bool.false_ne_true
  rw [exec, execFaultRecordPost, hc]
  simp only [hrecs]
  refine ((if_neg hroom).trans (if_neg hgo)).trans ?_
  rw [Ctx.fqSlot] at hu
  simp only [hu]
  rfl

theorem recordPosted_ctx (hc : u.ctx? ctx = some c) :
    ∃ x, (recordPosted u ctx c rest).ctx? ctx = some x ∧ x.faultRecs = rest ∧ x.fqTail = c.fqTail + 1 := by
  have hmod := State.ctx?_modCtx_same (g := fun x : Ctx => { x with faultRecs := rest, fqTail := x.fqTail + 1 }) hc rfl
  refine ⟨_, State.ctx?_signal hmod (c.fqCtl.toNat / 65536) 1 [], ?_⟩
  split <;> exact ⟨rfl, rfl⟩

/-- Memory and floes are as the write of the record left them. -/
theorem recordPosted_kept (u : State) (ctx : Nat) (c : Ctx) (rest : List FaultRec) :
    (recordPosted u ctx c rest).ms = u.ms ∧ (recordPosted u ctx c rest).floes = u.floes := by
  simp only [recordPosted]
  rw [State.signal_eq, State.modCtx_eq]
  exact ⟨rfl, rfl⟩

theorem recordPosted_irq (u : State) (ctx : Nat) (c : Ctx) (rest : List FaultRec) : c.home + 1 ∈ (recordPosted u ctx c rest).irqs := by
  simp only [recordPosted]
  split
  · next h => exact List.contains_iff_mem.1 h
  · exact List.mem_append_right _ List.mem_cons_self

end

/-! ## O55 -/

/-- Settles O55: each step by what it takes, puts and ends. -/
theorem contextsAndSaves : Obligations.ContextsAndSaves := by
  unfold Obligations.ContextsAndSaves
  refine ⟨?saved, ?restored, ?deadline, ?contexts, ?scrubbed, ?rld, ?fault⟩
  case saved =>
    intro s h f hf hrun hdrained hsafe hmx
    obtain ⟨hfloes, hfirn⟩ := State.saveFloe_runs hmx
    refine ⟨_, savedFloe s h f, exec_floeSaved hf hrun hdrained hsafe, ?_, rfl, rfl, rfl, rfl, rfl, rfl, rfl, rfl, fun k hk => ?_, ?_, fun k hk => ⟨?_, ?_⟩,
      fun hsorted hhalted hawake hlast => State.saveFloe_sleeps hmx hsorted hhalted hawake hlast⟩
    · rw [State.floe?, hfloes, Table.find?_insert_same]
    · rw [State.floe?, hfloes, Table.find?_insert_ne _ _ hk]
      rfl
    · rw [State.saveFloe_eq hmx, State.sleepCore_ms, State.settleScratch_ms]
      rfl
    · exact State.takeWords_taken hk
    · exact (State.firnAt_of_firn hfirn _ _).trans (State.takeWords_left hk)
  case restored =>
    intro s h core f t hf hmay ht
    refine ⟨?_, fun hmark hmx hcopies hthere hscratch hkeys => restoreUnit_restores hf ht hmark hmx hcopies hthere hscratch hkeys⟩
    rw [exec, execFloeRestore, hf]
    simp only
    rw [if_pos hmay, ht, Option.getD_some]
  case deadline =>
    intro s h f c gt0 core u hf hsaved hstart hc hrun hfault hplace htime hcores hu
    have hdue := Floe.due_of hsaved hstart hc hrun hfault hplace htime
    exact ⟨_, exec_deadlineRestore hf hdue hcores hu, rfl, fun g hg hres => restoredNow_floe hf hsaved hg hres⟩
  case contexts =>
    exact fun s ctx c hc => ⟨fun hstate hleft => exec_contextSaved_waits hc hstate hleft, fun hstate hall => exec_contextSaved_saves hc hstate hall,
      fun p q hmig hstate hfloes hops => ⟨_, _, exec_migrationFlushAck hc hmig hstate (movedOff_of hfloes hops), migrateEnded_ctx hc, rfl, rfl, rfl,
        (migrateEnded_gone ..).1, (migrateEnded_gone ..).2⟩⟩
  case scrubbed =>
    intro s ctx c hc hstate
    have hcores := onlyCores_scrubCores s ctx c
    have htlb := scrubCores_tlb s ctx c
    have hexec := exec_scrubbed hc hstate
    generalize scrubCores s ctx c = u at hcores htlb hexec
    refine ⟨_, hexec, scrubRest_ctx u ctx c, fun a => ?_, fun k f hf => scrubRest_floe hf, fun core word hw hmine => ?_, fun core word hw hmine => ?_,
      fun core => ?_, scrubRest_tlb2 u ctx c⟩
    · rw [scrubRest_byte, hcores.ms]
    · rw [scrubRest_firn hw, if_pos hmine]
    · rw [scrubRest_firn hw, if_neg (by rw [hmine]; exact Bool.false_ne_true)]
      exact State.firnAt_of_firn hcores.firn core word
    · rw [scrubRest_core]
      exact htlb core
  case rld =>
    exact fun s id o f ho hf hsave htime hinfo hflight hopen => exec_saveRldTimeout ho hf hsave htime hinfo hflight hopen
  case fault =>
    intro s u ctx c r rest hc hrecs hbase hlow hhigh hstuck hspace hfree hu
    have hroom : ¬ (c.fqBase = 0 ∨ c.fqCtl.toNat % 32 < 4 ∨ 16 < c.fqCtl.toNat % 32 ∨ c.fqStuck = true
        ∨ 2 ^ (c.fqCtl.toNat % 32) ≤ (c.fqTail - c.fqHead).toNat) := by
      simp only [hbase, hstuck, Bool.false_eq_true, false_or, not_or, not_lt, not_le]
      exact ⟨hlow, hhigh, hspace⟩
    have hkept := memoryOnly_writeVirt hu
    obtain ⟨x, hx, hrest, htail⟩ := recordPosted_ctx (rest := rest) ((State.ctx?_of_ctxs hkept.ctxs ctx).trans hc)
    obtain ⟨hms, hfloes⟩ := recordPosted_kept u ctx c rest
    exact ⟨_, x, exec_faultRecordPost hc hrecs hroom hfree hu, hms, hx, hrest, htail, recordPosted_irq .., hfloes.trans hkept.floes⟩

end Sys2Proof.Machine
end

section
/-! SUPPORT. O44: acceptance of records, queue timeouts and batches, the walker and blender nodes (R300, R327-R335). -/

namespace Sys2Proof.Machine

/-! ## Memory does not look at queues -/

/-- The machine with other queues. -/
def State.withQueues (s : State) (qs : Table Queue) : State := { s with queues := qs }

section
variable (s : State) (qs : Table Queue) (core ctx : Nat)

theorem translate_withQueues (secure : Bool) (want : Want) (va : Dword) :
    translate (s.withQueues qs) core ctx secure want va = translate s core ctx secure want va := rfl

theorem readVirt_withQueues (secure : Bool) (va : Dword) (n : Nat) :
    readVirt (s.withQueues qs) core ctx secure va n = readVirt s core ctx secure va n := rfl

theorem writeFree_withQueues (secure : Bool) (va : Dword) (n : Nat) :
    writeFree (s.withQueues qs) core ctx secure va n = writeFree s core ctx secure va n := by
  have hclear (p : Phys) : engineClear (s.withQueues qs) p 1 = engineClear s p 1 := rfl
  simp only [writeFree, translate_withQueues, hclear]

end

/-- A change of the machine that neither reads nor changes the queues. -/
structure QueueBlind (g : State → State) : Prop where
  eq : ∀ s qs, g (s.withQueues qs) = (g s).withQueues qs

namespace QueueBlind

theorem comp {f g : State → State} (hf : QueueBlind f) (hg : QueueBlind g) : QueueBlind (fun s => f (g s)) :=
  ⟨fun s qs => (congrArg f (hg.eq s qs)).trans (hf.eq (g s) qs)⟩

theorem ite {c : State → Prop} [∀ s, Decidable (c s)] (hc : ∀ s qs, c (State.withQueues s qs) = c s) {f g : State → State} (hf : QueueBlind f)
    (hg : QueueBlind g) : QueueBlind (fun s => if c s then f s else g s) := by
  refine ⟨fun s qs => ?_⟩
  by_cases h : c s
  · exact (if_pos ((hc s qs).mpr h)).trans ((hf.eq s qs).trans (congrArg (State.withQueues · qs) (if_pos h).symm))
  · exact (if_neg fun h' => h ((hc s qs).mp h')).trans ((hg.eq s qs).trans (congrArg (State.withQueues · qs) (if_neg h).symm))

theorem foldl {α : Type} {g : State → α → State} (h : ∀ a, QueueBlind (fun s => g s a)) (l : List α) : QueueBlind (fun s => l.foldl g s) := by
  refine ⟨fun s qs => ?_⟩
  induction l generalizing s with
  | nil => rfl
  | cons a l ih => exact (congrArg (l.foldl g) ((h a).eq s qs)).trans (ih (g s a))

end QueueBlind

theorem queueBlind_id : QueueBlind (fun s => s) := ⟨fun _ _ => rfl⟩

theorem queueBlind_setDir (line : Nat) (d : DirEntry) : QueueBlind (fun s => s.setDir line d) := ⟨fun _ _ => rfl⟩

theorem queueBlind_l2Drop (die line : Nat) (sp : Span) : QueueBlind (fun s => s.l2Drop die line sp) := by
  refine ⟨fun s qs => ?_⟩
  simp only [State.l2Drop, State.withQueues]
  split <;> rfl

theorem queueBlind_l2Update (die line : Nat) (bytes : List (Nat × Byte)) : QueueBlind (fun s => s.l2Update die line bytes) := by
  refine ⟨fun s qs => ?_⟩
  simp only [State.l2Update, State.withQueues]
  split <;> rfl

theorem dirHandle_withQueues (s : State) (qs : Table Queue) (line slot m req : Nat) (sp : Span) (bytes : List (Nat × Byte)) (op : Nat) :
    dirHandle (s.withQueues qs) line slot m req sp bytes op = dirHandle s line slot m req sp bytes op := rfl

theorem queueBlind_l1Update (core ctx pa : Nat) (v : Byte) : QueueBlind (fun s => s.l1Update core ctx pa v) := by
  refine ⟨fun s qs => ?_⟩
  have hcore : (s.withQueues qs).core core = s.core core := rfl
  simp only [State.l1Update, hcore]
  cases Table.find? (s.core core).l1 (pa / 256) with
  | none => rfl
  | some l =>
    have htag : (s.withQueues qs).ctxTag ctx = s.ctxTag ctx := rfl
    simp only [htag]
    split <;> rfl

theorem queueBlind_sealPrepare (ctx : Nat) (e : Pte) (pa : Nat) : QueueBlind (fun s => sealPrepare s ctx e pa) := by
  refine ⟨fun s qs => ?_⟩
  have hctx : (s.withQueues qs).ctx? ctx = s.ctx? ctx := rfl
  have hmeta (b : Nat) : (s.withQueues qs).sealMeta b = s.sealMeta b := rfl
  simp only [sealPrepare, hctx, hmeta]
  split
  · cases s.ctx? ctx with
    | none => rfl
    | some c =>
      simp only
      split <;> rfl
  · split <;> rfl

theorem queueBlind_markWords (once : Bool) (pa n : Nat) : QueueBlind (fun s => s.markWords once pa n) :=
  have hmark (a : Nat) : QueueBlind (fun s => s.mark a) := ⟨fun _ _ => rfl⟩
  .ite (fun _ _ => rfl) (.foldl (fun _ => hmark _) _) (.ite (fun _ _ => rfl) queueBlind_id ⟨fun _ _ => rfl⟩)

theorem queueBlind_unpoison (pas : List Nat) : QueueBlind (fun s => s.unpoison pas) :=
  .ite (fun _ _ => rfl) queueBlind_id ⟨fun _ _ => rfl⟩

/-- The line of another owner given up before a die's write is handled. -/
def freeOwner (die line : Nat) (s : State) : State :=
  match (s.dirAt line).owner with
  | some o => if o = die then s else (s.setDir line { s.dirAt line with owner := none, returns := [] }).l2Drop o line ⟨0, 64⟩
  | none => s

/-- A message of an engine's write taken at once by the die it goes to. -/
def takeMsg (line : Nat) (s : State) (x : DirMsg) : State :=
  match x with
  | .inval d q _ => s.l2Drop d line q
  | .update d _ bs _ => s.l2Update d line bs
  | .recall _ _ => s

/-- Whether a message is of an engine's write. -/
def ofEngine (x : DirMsg) : Bool := match x with | .inval _ _ o => o == 0 | .update _ _ _ o => o == 0 | .recall _ _ => false

/-- The directory's answer to an engine's write, taken at once. -/
def answerTaken (line : Nat) (r : DirReply) (s : State) : State :=
  if r.nack then s
  else (r.entry.out.filter ofEngine).foldl (takeMsg line) (s.setDir line { r.entry with out := r.entry.out.filter (fun x => !ofEngine x) })

/-- An engine's write handled at the directory. -/
def engineHandled (m die line prot : Nat) (sp : Span) (bytes : List (Nat × Byte)) (s : State) : State :=
  answerTaken line (dirHandle s line prot m die sp bytes 0) s

theorem State.dirEngine_eq (s : State) (m die : Nat) (p : Phys) (sp : Span) (bytes : List (Nat × Byte)) : s.dirEngine m die p sp bytes
    = if (!p.pte.inL2 || (homeDie p.pa == die && (s.dirAt (p.pa / 256)).st == 0)) = true then s
      else engineHandled m die (p.pa / 256) p.pte.prot sp bytes
        (if (dirHandle s (p.pa / 256) p.pte.prot m die sp bytes 0).callBack = true then freeOwner die (p.pa / 256) s else s) := rfl

theorem queueBlind_freeOwner (die line : Nat) : QueueBlind (freeOwner die line) := by
  refine ⟨fun s qs => ?_⟩
  have hdir : (s.withQueues qs).dirAt line = s.dirAt line := rfl
  simp only [freeOwner, hdir]
  cases (s.dirAt line).owner with
  | none => rfl
  | some o =>
    simp only
    split
    · rfl
    · exact ((queueBlind_l2Drop o line ⟨0, 64⟩).comp (queueBlind_setDir line { s.dirAt line with owner := none, returns := [] })).eq s qs

theorem queueBlind_takeMsg (line : Nat) (x : DirMsg) : QueueBlind (fun s => takeMsg line s x) := by
  match x with
  | .inval d q o => exact queueBlind_l2Drop d line q
  | .update d q bs o => exact queueBlind_l2Update d line bs
  | .recall _ _ => exact queueBlind_id

theorem queueBlind_answerTaken (line : Nat) (r : DirReply) : QueueBlind (answerTaken line r) :=
  .ite (fun _ _ => rfl) queueBlind_id ((QueueBlind.foldl (queueBlind_takeMsg line) _).comp (queueBlind_setDir ..))

theorem queueBlind_engineHandled (m die line prot : Nat) (sp : Span) (bytes : List (Nat × Byte)) :
    QueueBlind (engineHandled m die line prot sp bytes) :=
  ⟨fun s qs => (congrArg (answerTaken line · (s.withQueues qs)) (dirHandle_withQueues ..)).trans ((queueBlind_answerTaken line _).eq s qs)⟩

theorem queueBlind_dirEngine (m die : Nat) (p : Phys) (sp : Span) (bytes : List (Nat × Byte)) :
    QueueBlind (fun s => s.dirEngine m die p sp bytes) := by
  simp only [State.dirEngine_eq]
  exact .ite (fun _ _ => rfl) queueBlind_id
    ((queueBlind_engineHandled ..).comp (.ite (fun _ _ => rfl) (queueBlind_freeOwner ..) queueBlind_id))

theorem queueBlind_homeByte (core ctx : Nat) (e : Pte) (pa : Nat) (v : Byte) : QueueBlind (fun s => s.homeByte core ctx e pa v) := by
  refine ⟨fun s qs => ?_⟩
  have hseal : sealPrepare (s.withQueues qs) ctx e pa = (sealPrepare s ctx e pa).withQueues qs := (queueBlind_sealPrepare ctx e pa).eq s qs
  simp only [State.homeByte, hseal]
  generalize sealPrepare s ctx e pa = u
  have hl2 : (u.withQueues qs).ms = u.ms := rfl
  simp only [hl2]
  cases Table.find? (u.ms.setByte pa v).l2 (l2Key (coreDie core) (pa / 256)) with
  | none => rfl
  | some b =>
    simp only
    split <;> rfl

theorem queueBlind_engineByte (m core ctx : Nat) (e : Pte) (pa : Nat) (v : Byte) : QueueBlind (fun s => s.engineByte m core ctx e pa v) :=
  have hexcl : QueueBlind (fun s => s.exclReturn core pa 1) := ⟨fun _ _ => rfl⟩
  have hl2 : QueueBlind (fun s => { s with ms := { s.ms with l2 := Table.map s.ms.l2 (fun k t =>
      if k % 2 ^ 44 = pa / 256 ∧ (Table.find? t (pa % 256)).isSome then Table.insert t (pa % 256) v else t) } }) := ⟨fun _ _ => rfl⟩
  have hwrite : QueueBlind (fun s => s.writeByte core ctx e pa v) := (queueBlind_l1Update core ctx pa v).comp (queueBlind_homeByte core ctx e pa v)
  hl2.comp (hwrite.comp (hexcl.comp (queueBlind_dirEngine ..)))

/-- A write of memory is the same whatever the queues are, and leaves them. -/
theorem writeVirt_withQueues {s u : State} {core ctx : Nat} {secure : Bool} {va : Dword} {bs : List Byte} (qs : Table Queue)
    (h : writeVirt s core ctx secure va bs = .ok u) : writeVirt (s.withQueues qs) core ctx secure va bs = .ok (u.withQueues qs) := by
  have hmark (e : Pte) (pa : Nat) : (s.withQueues qs).markHit e pa 1 = s.markHit e pa 1 := rfl
  have honce (prot line : Nat) : (s.withQueues qs).writeOnce prot line 1 = s.writeOnce prot line 1 := rfl
  simp only [writeVirt, translate_withQueues, hmark, honce] at h ⊢
  split at h
  · cases h
  · obtain rfl := Except.ok.inj h
    refine congrArg Except.ok ?_
    refine ((queueBlind_unpoison _).comp (QueueBlind.foldl (fun i => ?_) _)).eq s qs
    split
    · exact (queueBlind_markWords ..).comp (queueBlind_engineByte ..)
    · exact queueBlind_id

/-! ## Journal writes leave records and operations (R337) -/

section
variable {s t : State} (h : JournalOnly s t)
include h

theorem JournalOnly.enqs : t.enqs = s.enqs := by rw [h]
theorem JournalOnly.ops : t.ops = s.ops := by rw [h]
theorem JournalOnly.kernels : t.kernels = s.kernels := by rw [h]

end

/-! ## Queues changed (R326, R327) -/

theorem State.queue?_of_queues {s t : State} (h : t.queues = s.queues) (k : Nat) : t.queue? k = s.queue? k := by
  rw [State.queue?, State.queue?, h]

theorem State.queue?_modQueue_same {s : State} {key : Nat} {q : Queue} (hq : s.queue? key = some q) (g : Queue → Queue) :
    (s.modQueue key g).queue? key = some (g q) := by
  rw [State.modQueue, hq]
  exact Table.find?_insert_same ..

theorem State.queue?_modQueue_ne (s : State) {key k : Nat} (g : Queue → Queue) (hk : k ≠ key) : (s.modQueue key g).queue? k = s.queue? k := by
  unfold State.modQueue
  split
  · exact Table.find?_insert_ne _ _ hk
  · rfl

/-- A change of a queue changes the queues alone. -/
theorem State.modQueue_withQueues (s : State) (key : Nat) (g : Queue → Queue) : s.modQueue key g = s.withQueues (s.modQueue key g).queues := by
  unfold State.modQueue
  split <;> rfl

/-- A queue that joins its event's waiters changes the events alone. -/
theorem State.queueWaits_eq (s : State) (key : Nat) : s.queueWaits key = { s with events := (s.queueWaits key).events } := by
  simp only [State.queueWaits]
  split
  · rfl
  · split <;> rfl

/-! ## The source of a record hears of it (R329) -/

/-- From `s` to `t` nothing differs but operations, floes and the fabric. -/
def AnswerOnly (s t : State) : Prop := t = { s with net := t.net, ops := t.ops, floes := t.floes }

namespace AnswerOnly

theorem refl (s : State) : AnswerOnly s s := rfl

theorem trans {s t u : State} (h : AnswerOnly s t) (k : AnswerOnly t u) : AnswerOnly s u := by
  rw [AnswerOnly, k, h]

section
variable {s t : State} (h : AnswerOnly s t)
include h

theorem enqs : t.enqs = s.enqs := by rw [h]
theorem queues : t.queues = s.queues := by rw [h]
theorem ms : t.ms = s.ms := by rw [h]
theorem firn : t.firn = s.firn := by rw [h]

end

end AnswerOnly

/-- The message that brought a record answered. -/
def State.replied (s : State) (r : EnqReq) (status seq : Nat) : State :=
  match r.reply with
  | some m => s.post (replyTo m status seq) []
  | none => s

/-- The operation of a record answered. -/
def State.opAnswered (s : State) (id : Nat) (o : Op) (status seq : Nat) : State :=
  if o.isSt then s.endOp id o else s.modOp id (fun p => { p with state := .performed, vals := [status, seq] })

/-- A floe that a full queue held for an operation goes on. -/
def Floe.enqResumed (f : Floe) (id : Nat) (mck : Nat → Nat) : Floe := if f.state = .waiting ∧ f.wait = some (.enq id) then f.resume (mck f.core) else f

section
variable {s : State} {r : EnqReq} {id : Nat} {o : Op}

theorem State.replied_eq (s : State) (r : EnqReq) (status seq : Nat) : s.replied r status seq = { s with net := (s.replied r status seq).net } := by
  unfold State.replied
  split <;> rfl

theorem answerOnly_opAnswered (s : State) (id : Nat) (o : Op) (status seq : Nat) : AnswerOnly s (s.opAnswered id o status seq) := by
  unfold State.opAnswered
  split
  · rw [AnswerOnly, State.endOp_eq]
  · rw [AnswerOnly, State.modOp_rest]

/-- A performing operation leaves, or holds what it returns. -/
theorem State.opAnswered_ops (ho : Table.find? s.ops id = some o) (status seq : Nat) :
    Table.find? (s.opAnswered id o status seq).ops id = if o.isSt then none else some { o with state := .performed, vals := [status, seq] } := by
  unfold State.opAnswered
  split
  · rw [State.endOp_ops, Table.find?_erase, if_pos rfl]
  · exact State.find?_modOp_same ho _

/-- An operation answered where there is one, its floe resumed. -/
def State.outcome (s : State) (op : Option Nat) (status seq : Nat) : State :=
  match op with
  | none => s
  | some id =>
    match Table.find? s.ops id with
    | none => s
    | some o => (s.opAnswered id o status seq).modFloe o.floe (fun f => f.enqResumed id (s.opAnswered id o status seq).mck)

theorem State.enqAnswer_eq (s : State) (r : EnqReq) (status seq : Nat) :
    s.enqAnswer r status seq = (s.replied r status seq).outcome r.op status seq := rfl

theorem answerOnly_outcome (s : State) (op : Option Nat) (status seq : Nat) : AnswerOnly s (s.outcome op status seq) := by
  unfold State.outcome
  split
  · exact .refl s
  · split
    · exact .refl s
    · next id _ o _ =>
      refine (answerOnly_opAnswered s id o status seq).trans ?_
      rw [AnswerOnly, State.modFloe_eq]

theorem answerOnly_enqAnswer (s : State) (r : EnqReq) (status seq : Nat) : AnswerOnly s (s.enqAnswer r status seq) := by
  have hreplied : AnswerOnly s (s.replied r status seq) := by rw [AnswerOnly, State.replied_eq]
  exact hreplied.trans (answerOnly_outcome ..)

theorem State.enqAnswer_ops (hr : r.op = some id) (ho : Table.find? s.ops id = some o) (status seq : Nat) :
    Table.find? (s.enqAnswer r status seq).ops id = if o.isSt then none else some { o with state := .performed, vals := [status, seq] } := by
  have hops : Table.find? (s.replied r status seq).ops id = some o := by rw [State.replied_eq]; exact ho
  rw [State.enqAnswer_eq, hr, State.outcome]
  simp only [hops]
  rw [State.modFloe_ops]
  exact State.opAnswered_ops hops status seq

end

/-! ## A record written into its ring (R327, R329) -/

/-- The queue with a record at TAIL. -/
def Queue.pushed (q : Queue) (gt : Nat) (j : JRef) : Queue := { q with tail := q.tail + 1, recs := q.recs ++ [⟨gt, j, false⟩] }

/-- A record in its ring stands at TAIL of its queue, and memory, the journal and events alone differ besides. -/
theorem ringWrite_pushes {s u : State} {r : EnqReq} {q x : Queue} {j : JRef} (h : s.ringWrite r q = some (u, j)) (hx : s.queue? r.queue = some x) :
    u.queue? r.queue = some (x.pushed s.gt j) ∧ (∀ k, k ≠ r.queue → u.queue? k = s.queue? k) ∧ u.enqs = s.enqs ∧ u.ops = s.ops := by
  simp only [State.ringWrite] at h
  split at h
  · cases h
  · next v hv =>
    obtain ⟨rfl, rfl⟩ := Prod.mk.inj (Option.some.inj h)
    have hwrite := memoryOnly_writeVirt hv
    have hnew := journalOnly_jNew v (r.queue / 4096) (enqHigh r) 0 0 0
    generalize v.jNew (r.queue / 4096) (enqHigh r) 0 0 = w at hnew ⊢
    have hqueues : w.1.queues = s.queues := hnew.queues.trans (by rw [hwrite]; rfl)
    have henqs : w.1.enqs = s.enqs := hnew.enqs.trans (by rw [hwrite]; rfl)
    have hops : w.1.ops = s.ops := hnew.ops.trans hwrite.ops
    rw [State.queueWaits_eq]
    refine ⟨State.queue?_modQueue_same ((State.queue?_of_queues hqueues _).trans hx) _,
      fun k hk => (State.queue?_modQueue_ne _ _ hk).trans (State.queue?_of_queues hqueues k), ?_, ?_⟩
    · exact (State.modQueue_enqs ..).trans henqs
    · exact (State.modQueue_ops ..).trans hops

/-! ## ACCEPT (R329, R331) -/

section
variable {s : State} {part : Nat} {r : EnqReq}

theorem exec_accept_refuses (hnext : nextEnq s part s.enqs [] = some r) {code : Nat} (hj : judge s r = .refuse code) :
    exec (.accept part) s = .next ((State.jNew { s with enqs := s.enqs.erase r } part (enqHigh r) 3 code).1.enqAnswer r code 0) := by
  rw [exec, execAccept, hnext]
  simp only [hj]

/-- A record that a full queue holds, as it is listed. -/
def heldRecords (s : State) (r : EnqReq) : State := { s with enqs := s.enqs.map (fun x => if x = r then { r with blocked := true } else x) }

/-- The floe of a held record waits, where it is READY. -/
def holdFloe (s : State) (r : EnqReq) (t : State) : State :=
  match r.op.bind (fun id => (Table.find? s.ops id).map (fun o => (id, o.floe))) with
  | some (id, h) => (match t.floe? h with
    | some f => if f.state = .ready then (t.waitOn h (.enq id)).modFloe h (fun g => { g with waitLen := 0 }) else t
    | none => t)
  | none => t

theorem exec_accept_holds (hnext : nextEnq s part s.enqs [] = some r) (hj : judge s r = .full) :
    exec (.accept part) s = .next (holdFloe s r (heldRecords s r)) := by
  rw [exec, execAccept, hnext]
  simp only [hj]
  rfl

theorem holdFloe_eq (s t : State) (r : EnqReq) : holdFloe s r t = { t with floes := (holdFloe s r t).floes } := by
  unfold holdFloe
  split
  · split
    · split
      · rw [State.modFloe_eq, State.waitOn, State.modFloe_eq]
      · rfl
    · rfl
  · rfl

theorem holdFloe_floe {t : State} {id : Nat} {o : Op} {f : Floe} (hr : r.op = some id) (ho : Table.find? s.ops id = some o)
    (hf : t.floe? o.floe = some f) (hready : f.state = .ready) :
    (holdFloe s r t).floe? o.floe = some { f.held (.enq id) t.gt with waitLen := 0 } := by
  have hsource : r.op.bind (fun id => (Table.find? s.ops id).map (fun o => (id, o.floe))) = some (id, o.floe) := by
    rw [hr, Option.bind_some, ho, Option.map_some]
  rw [holdFloe, hsource]
  simp only [hf]
  rw [if_pos hready, State.floe?_modFloe_same, State.waitOn_floe hf]
  rfl

theorem exec_accept_accepts {q : Queue} {u : State} {j : JRef} (hnext : nextEnq s part s.enqs [] = some r) (hj : judge s r = .accept)
    (hq : s.queue? r.queue = some q) (hfree : q.slotFree s r = true) (hu : State.ringWrite { s with enqs := s.enqs.erase r } r q = some (u, j)) :
    exec (.accept part) s = .next (u.enqAnswer r 0 (j.seq % 2 ^ 32)) := by
  have hgo : ¬ (!q.slotFree s r) = true := by rw [hfree]; exact Bool.false_ne_true
  rw [exec, execAccept, hnext]
  simp only [hj, hq]
  refine (if_neg hgo).trans ?_
  simp only [hu]

end

/-! ## Host records and queue timeouts (R328, R330) -/

theorem exec_hostApertureRecord {s : State} {fn off : Nat} {bs : List Byte} (hlow : 1 ≤ fn) (hhigh : fn ≤ 12) (hpage : off / 4096 < 4096)
    (hboot : s.life.boot = .ready) : exec (.hostApertureRecord fn off bs) s = .next { s with enqs := s.enqs ++
      [⟨queueKey (fn - 1) (off / 4096), bs, 2, false, 15, Config.deviceId.toNat, none, none, [], off % 4096 != 0 || !(bs.length == 64 || bs.length == 256),
        none, false⟩] } := by
  have hgo : ¬ (fn = 0 ∨ 12 < fn ∨ 4096 ≤ off / 4096 ∨ s.life.boot ≠ .ready) := by
    simp only [hboot, ne_eq, not_true_eq_false, or_false]
    omega
  rw [exec, execHostApertureRecord]
  exact if_neg hgo


theorem exec_queueTimeout {s : State} {part queue : Nat} {q : Queue} {r : Rec} (hq : s.queue? (queueKey part queue) = some q)
    (hr : q.recs[(q.launch - q.head).toNat]? = some r) : exec (.queueTimeout part queue) s
      = if q.enabled = true ∧ q.timeout ≠ 0 ∧ r.gt + q.timeout ≤ s.gt then
          .next (s.modQueue (queueKey part queue) (fun x => { x with timedOut := true })) else .next s := by
  rw [exec, execQueueTimeout]
  simp only [hq, hr]

/-! ## A batch becomes an instance (R315, R332) -/

/-- The instance of a launch that waits for no event. -/
def launchedInst (s : State) (ctx : Nat) (r : LaunchReq) : Inst :=
  { kernel := r.kernel, prio := r.prio, spread := r.spread, floes := launchFloes (s.kernel ctx r.kernel) r, args := r.args, wait := none,
    doneEv := r.doneEv, tree := r.tree, treeDesc := [], leaves := [], perLeaf := (s.kernel ctx r.kernel).floes,
    enumerated := (s.kernel ctx r.kernel).lmode != 1, die := r.die, src := r.src, born := s.nextId, taken := none, placed := 0, lastCore := none,
    anchors := [], barPart := none, gone := [], queue := r.queue, first := r.first, batch := r.batch, js := r.js, savedScratch := [], killed := false }

/-- The kernel of a launch, ACTIVE. -/
def Kernel.activated (k : Kernel) : Kernel := if k.st = .active then k else { k with st := .active, prev := k.st }

/-- The machine with the instance `num` of a launch that waits for no event. -/
def State.withLaunch (s : State) (ctx : Nat) (r : LaunchReq) (num : Word) : State :=
  (State.setKernel { s with nextId := s.nextId + 1, insts := Table.insert s.insts (instKey ctx num.toNat) (launchedInst s ctx r) } ctx r.kernel
    (s.kernel ctx r.kernel).activated).modCtx ctx (fun x => { x with nextInst := num + 1, state := if x.state = .resident then .running else x.state })

/-- Whether the kernel of a launch admits it (R315). -/
structure Admits (s : State) (ctx : Nat) (r : LaunchReq) : Prop where
  st : (s.kernel ctx r.kernel).st = .placed ∨ (s.kernel ctx r.kernel).st = .bound ∨ (s.kernel ctx r.kernel).st = .active
  fit : packsFit s (s.kernel ctx r.kernel) (packFloes (s.kernel ctx r.kernel) r) = true
  takes : (s.kernel ctx r.kernel).takes r.queue.isSome r.args.length r.floes r.tree.toNat = true
  room : (s.instsOf ctx).length < 65536

theorem State.createInst_eq {s : State} {ctx : Nat} {r : LaunchReq} {c : Ctx} (h : Admits s ctx r) (hc : s.ctx? ctx = some c) (hdep : r.dep.1 = 0) :
    s.createInst ctx r = (s.withLaunch ctx r (nextInstNum s ctx ((s.instsOf ctx).length + 2) c.nextInst), 0,
      (nextInstNum s ctx ((s.instsOf ctx).length + 2) c.nextInst).toNat) := by
  obtain ⟨hst, hfit, htakes, hroom⟩ := h
  have hst' : ((s.kernel ctx r.kernel).st == .placed || (s.kernel ctx r.kernel).st == .bound || (s.kernel ctx r.kernel).st == .active) = true := by
    rcases hst with h | h | h <;> rw [h] <;> rfl
  have hadmits : ¬ (!((s.kernel ctx r.kernel).st == .placed || (s.kernel ctx r.kernel).st == .bound || (s.kernel ctx r.kernel).st == .active)
      || !packsFit s (s.kernel ctx r.kernel) (packFloes (s.kernel ctx r.kernel) r)
      || !(s.kernel ctx r.kernel).takes r.queue.isSome r.args.length r.floes r.tree.toNat) = true := by
    rw [hst', hfit, htakes]
    exact Bool.false_ne_true
  have hnowait : (r.dep.1 != 0 && decide ((s.event ctx r.dep.1).count < r.dep.2)) = false := by rw [hdep]; rfl
  simp only [State.createInst, hc, hnowait, Bool.false_eq_true, if_false]
  exact (if_neg hadmits).trans (if_neg (Nat.not_le.2 hroom))

section
variable (s : State) (ctx : Nat) (r : LaunchReq) (num : Word)

theorem State.withLaunch_inst : (s.withLaunch ctx r num).inst? ctx num.toNat = some (launchedInst s ctx r) := by
  have hinsts : (s.withLaunch ctx r num).insts = Table.insert s.insts (instKey ctx num.toNat) (launchedInst s ctx r) := by
    rw [State.withLaunch, State.modCtx_eq]
    rfl
  rw [State.inst?, hinsts, Table.find?_insert_same]

theorem State.withLaunch_kernel : (s.withLaunch ctx r num).kernel ctx r.kernel = (s.kernel ctx r.kernel).activated := by
  rw [State.withLaunch, State.modCtx_eq]
  exact Table.getD_setD_same ..

theorem State.withLaunch_queues : (s.withLaunch ctx r num).queues = s.queues := by
  rw [State.withLaunch, State.modCtx_eq]
  rfl

theorem Kernel.activated_st (k : Kernel) : k.activated.st = .active := by
  unfold Kernel.activated
  split
  · assumption
  · rfl

end

/-- A queue's request is within what any kernel takes of its queue. -/
theorem Queue.request_takes (q : Queue) (key : Nat) (k : Kernel) :
    k.takes (q.request key).queue.isSome (q.request key).args.length (q.request key).floes (q.request key).tree.toNat = true := by
  simp [Kernel.takes, Queue.request]

theorem Queue.request_packFloes (q : Queue) (key : Nat) (k : Kernel) :
    packFloes k (q.request key) = if k.lmode = 1 then 16777216 else k.floes := by
  unfold packFloes
  split
  · rfl
  · next h => exact (if_neg h).trans (if_pos rfl)

theorem journalOnly_launched (js : List JRef) (inst : Nat) (s : State) :
    JournalOnly s (js.foldl (fun (t : State) j => t.jSet j 1 0 inst) s) :=
  List.foldlRecOn js (fun (t : State) j => t.jSet j 1 0 inst) (motive := JournalOnly s) (.refl s) fun _ ht j _ => ht.trans (journalOnly_jSet _ j 1 0 inst)

/-- The queue past a batch that was launched. -/
def Queue.batchLaunched (q : Queue) (n : Nat) : Queue :=
  { q with launch := q.launch + BitVec.ofNat 32 n, insts := q.insts + 1, timedOut := false, evMet := false }

/-- The machine with a batch LAUNCHED as an instance. -/
def batchState (s : State) (key : Nat) (q : Queue) (num : Word) : State :=
  (((q.request key).js.foldl (fun (t : State) j => t.jSet j 1 0 num.toNat) (s.withLaunch q.ctx (q.request key) num)).modQueue key
    (fun x => x.batchLaunched q.batchSize)).queueWaits key

section
variable {s : State} {part queue : Nat} {q : Queue} {x : Ctx}

theorem exec_queueBatchLaunch (hq : s.queue? (queueKey part queue) = some q) (henabled : q.enabled = true) (hcons : q.cons = 0)
    (hx : s.ctx? q.ctx = some x) (hstate : x.state = .resident ∨ x.state = .running) (hcond : q.condition s = true) (hmax : q.insts < q.maxInst)
    (hadmits : Admits s q.ctx (q.request (queueKey part queue))) :
    exec (.queueBatchLaunch part queue) s
      = .next (batchState s (queueKey part queue) q (nextInstNum s q.ctx ((s.instsOf q.ctx).length + 2) x.nextInst)) := by
  have hmade := State.createInst_eq hadmits hx rfl
  have hcan : q.canLaunch s (queueKey part queue) = true := by
    rw [Queue.canLaunch, hmade]
    simp [hmax]
  have hplaces : (x.state == .resident || x.state.places) = true := by
    rcases hstate with h | h <;> rw [h] <;> rfl
  have hgo : ¬ (!(q.enabled && q.cons == 0 && (x.state == .resident || x.state.places) && q.condition s && q.canLaunch s (queueKey part queue))) = true := by
    rw [henabled, hcons, hplaces, hcond, hcan]
    exact Bool.false_ne_true
  rw [exec, execQueueBatchLaunch]
  simp only [hq, hx]
  refine (if_neg hgo).trans ?_
  rw [hmade]
  rfl

/-- The batch stands as an instance of its queue, and LAUNCH past it. -/
theorem batchState_launched (hq : s.queue? (queueKey part queue) = some q) (num : Word) :
    (batchState s (queueKey part queue) q num).queue? (queueKey part queue) = some (q.batchLaunched q.batchSize)
      ∧ (batchState s (queueKey part queue) q num).inst? q.ctx num.toNat = some (launchedInst s q.ctx (q.request (queueKey part queue)))
      ∧ ((batchState s (queueKey part queue) q num).kernel q.ctx q.kidx).st = .active := by
  have hjournal := journalOnly_launched (q.request (queueKey part queue)).js num.toNat (s.withLaunch q.ctx (q.request (queueKey part queue)) num)
  have hkernel := State.withLaunch_kernel s q.ctx (q.request (queueKey part queue)) num
  rw [batchState, State.queueWaits_eq]
  generalize (q.request (queueKey part queue)).js.foldl (fun (t : State) j => t.jSet j 1 0 num.toNat) _ = u at hjournal
  refine ⟨State.queue?_modQueue_same ((State.queue?_of_queues (hjournal.queues.trans (State.withLaunch_queues ..)) _).trans hq) _, ?_, ?_⟩
  · exact (State.inst?_of_insts ((State.modQueue_insts ..).trans hjournal.insts) _ _).trans (State.withLaunch_inst ..)
  · have hkernels : (u.modQueue (queueKey part queue) (fun x => x.batchLaunched q.batchSize)).kernels
        = (s.withLaunch q.ctx (q.request (queueKey part queue)) num).kernels := (State.modQueue_kernels ..).trans hjournal.kernels
    have hsame : (u.modQueue (queueKey part queue) (fun x => x.batchLaunched q.batchSize)).kernel q.ctx q.kidx
        = (s.withLaunch q.ctx (q.request (queueKey part queue)) num).kernel q.ctx q.kidx := by rw [State.kernel, State.kernel, hkernels]
    exact (congrArg Kernel.st (hsame.trans hkernel)).trans (Kernel.activated_st _)

end

/-! ## A node takes a record (R333) -/

/-- The queue with the record at LAUNCH taken and its slot freed. -/
def Queue.taken (q : Queue) : Queue := { q.free q.launch.toNat 1 with launch := q.launch + 1 }

theorem State.nodeTaken_queue {s : State} {key : Nat} {q : Queue} (hq : s.queue? key = some q) : (s.nodeTaken key).queue? key = some q.taken :=
  State.queue?_modQueue_same hq _

theorem State.nodeTaken_queue_ne (s : State) {key k : Nat} (hk : k ≠ key) : (s.nodeTaken key).queue? k = s.queue? k := State.queue?_modQueue_ne s _ hk

theorem CtxState.takesRecords {st : CtxState} (h : st = .resident ∨ st = .running) : (st == .resident || st.places) = true := by
  rcases h with h | h <;> rw [h] <;> rfl

/-- The record that a walker node sends to OUT0. -/
def hitReq (s : State) (part key : Nat) (q : Queue) (hit : List Byte) : EnqReq :=
  ⟨queueKey part (q.outs.getD 0 0 % 4096), hit, 1, queueSecure s key, part, Config.deviceId.toNat, none, some q.ctx, [], false, none, false⟩

/-- A ray record that OUT0 refuses, journaled FAILED and gone. -/
def hitRefused (s : State) (part key : Nat) (r : EnqReq) (code : Nat) : State := (s.jNew part (enqHigh r) 3 code).1.nodeTaken key

/-- What becomes of a ray record by what OUT0's queue makes of its hit record. -/
def hitSent (s : State) (part key : Nat) (q : Queue) (r : EnqReq) : Host.Outcome State Fault Refusal :=
  if !(q.outs.getD 0 0).testBit 15 then .next (hitRefused s part key r 3)
  else match judge s r, s.queue? r.queue with
    | .full, _ => .next s
    | .refuse code, _ => .next (if code = 1 then s else hitRefused s part key r code)
    | .accept, none => .next s
    | .accept, some out =>
      if !out.slotFree s r then .next s
      else match s.ringWrite r out with
        | none => .next s
        | some (s1, _) => .next (s1.nodeTaken key)

section
variable {s : State} {part queue : Nat} {q : Queue} {x : Ctx} {bs db hit : List Byte} {d : TreeDesc}

theorem exec_walkerNodeRecord (hq : s.queue? (queueKey part queue) = some q) (henabled : q.enabled = true) (hcons : q.cons = 1)
    (hx : s.ctx? q.ctx = some x) (hstate : x.state = .resident ∨ x.state = .running) (hrec : nodeRecord s part (queueKey part queue) q = some bs)
    (hdb : readVirt s (partCore part) q.ctx (queueSecure s (queueKey part queue)) q.ncfg 64 = .ok db) (hd : parseTree db = some d)
    (hhit : hitRecord ⟨s, partCore part, q.ctx, queueSecure s (queueKey part queue), []⟩ d bs = .ok hit) :
    exec (.walkerNodeRecord part queue) s
      = hitSent s part (queueKey part queue) q (hitReq s part (queueKey part queue) q hit) := by
  have hgo : ¬ (!(q.enabled && q.cons == 1 && (x.state == .resident || x.state.places))) = true := by
    rw [henabled, hcons, CtxState.takesRecords hstate]
    exact Bool.false_ne_true
  rw [exec, execWalkerNodeRecord]
  simp only [hq, hrec, hx, hdb, hd, hhit]
  exact if_neg hgo

end

section
variable {s : State} {part key : Nat} {q : Queue} {r : EnqReq}

theorem hitSent_accepted (hport : (q.outs.getD 0 0).testBit 15 = true) {out : Queue} {u : State} {j : JRef} (hj : judge s r = .accept)
    (hout : s.queue? r.queue = some out) (hfree : out.slotFree s r = true) (hu : s.ringWrite r out = some (u, j)) :
    hitSent s part key q r = .next (u.nodeTaken key) := by
  simp only [hitSent, hport, hj, hout, hfree, hu, Bool.not_true, Bool.false_eq_true, if_false]

theorem hitSent_unconnected (hport : (q.outs.getD 0 0).testBit 15 = false) : hitSent s part key q r = .next (hitRefused s part key r 3) := by
  simp only [hitSent, hport, Bool.not_false, if_true]

theorem hitSent_refused (hport : (q.outs.getD 0 0).testBit 15 = true) {code : Nat} (hj : judge s r = .refuse code) (hcode : code ≠ 1) :
    hitSent s part key q r = .next (hitRefused s part key r code) := by
  simp only [hitSent, hport, hj, if_neg hcode, Bool.not_true, Bool.false_eq_true, if_false]

theorem hitSent_full (hport : (q.outs.getD 0 0).testBit 15 = true) (hj : judge s r = .full) : hitSent s part key q r = .next s := by
  simp only [hitSent, hport, hj, Bool.not_true, Bool.false_eq_true, if_false]

/-- A refused ray record has an entry of its own and leaves its slot. -/
theorem hitRefused_journaled (hq : s.queue? key = some q) (r : EnqReq) (code : Nat) :
    ((hitRefused s part key r code).part part).jSeq = (s.part part).jSeq + 1 ∧ (hitRefused s part key r code).queue? key = some q.taken := by
  have hnew := journalOnly_jNew s part (enqHigh r) 3 code 0
  have hparts : (hitRefused s part key r code).parts = (s.jNew part (enqHigh r) 3 code).1.parts := State.modQueue_parts ..
  refine ⟨?_, State.nodeTaken_queue ((State.queue?_of_queues hnew.queues key).trans hq)⟩
  rw [State.part, hparts]
  exact State.jSeq_jNew s part (enqHigh r) 3 code 0

end

/-! ## A region blended (R335) -/

/-- The queue after a sample of its region's next key, the region standing at `at0`. -/
def Queue.blended (q : Queue) (t : Target) (r : Nat) (at0 : Nat × Nat) (smp : Sample) : Queue :=
  { q with
    regions := Table.setD q.regions (0, 0) r ((at0.1 + 1) % 2 ^ 32, if at0.2 + 1 == t.endKey then 0 else at0.2 + 1)
    buffer := q.buffer.erase smp }

/-- The machine after it, `u` being the machine with the pixel written. -/
def blendedState (u : State) (key : Nat) (t : Target) (r : Nat) (q : Queue) (smp : Sample) : State :=
  if (q.regionAt r).2 + 1 == t.endKey then (u.modQueue key (fun x => x.blended t r (q.regionAt r) smp)).signal q.ctx t.doneEv 1 []
  else u.modQueue key (fun x => x.blended t r (q.regionAt r) smp)

/-- The address of a sample's pixel. -/
def Target.pixel (t : Target) (smp : Sample) : Dword := t.image + BitVec.ofNat 64 (smp.y * t.pitch + 16 * smp.x)

/-- The bytes of a pixel after a sample. -/
def Target.over (t : Target) (px : List Byte) (smp : Sample) : List Byte :=
  (blendPixel t.nanpol ((List.range 4).map (fun i => natOf ((px.drop (4 * i)).take 4))) smp).flatMap (bytesOf 4)

section
variable {s u : State} {part key : Nat} {t : Target} {r n : Nat} {q : Queue} {smp : Sample} {px : List Byte}

/-- A region whose next key its buffer does not hold stays as it is. -/
theorem blendRegion_rests (hq : s.queue? key = some q) (hnone : ∀ y ∈ q.buffer, y.region = r → y.key ≠ (q.regionAt r).1) :
    blendRegion part key t r n s = s := by
  cases n with
  | zero => rfl
  | succ n =>
    have hfind : q.buffer.find? (fun x => x.region == r && x.key == (q.regionAt r).1) = none := by
      refine List.find?_eq_none.2 fun y hy hon => ?_
      rw [Bool.and_eq_true_iff, beq_iff_eq, beq_iff_eq] at hon
      exact hnone y hy hon.1 hon.2
    rw [blendRegion]
    simp only [hq, hfind]

/-- A region whose next key its buffer holds is blended by that sample, and goes on. -/
theorem blendRegion_blends (hq : s.queue? key = some q) (hfind : q.buffer.find? (fun x => x.region == r && x.key == (q.regionAt r).1) = some smp)
    (hnan : t.nanpol ≠ 2) (hpx : readVirt s (partCore part) q.ctx (queueSecure s key) (t.pixel smp) 16 = .ok px)
    (hfree : writeFree s (partCore part) q.ctx (queueSecure s key) (t.pixel smp) 16 = true)
    (hu : writeVirt s (partCore part) q.ctx (queueSecure s key) (t.pixel smp) (t.over px smp) = .ok u) :
    blendRegion part key t r (n + 1) s = blendRegion part key t r n (blendedState u key t r q smp) := by
  have hgo : ¬ (!writeFree s (partCore part) q.ctx (queueSecure s key) (t.pixel smp) 16) = true := by rw [hfree]; exact Bool.false_ne_true
  rw [Target.pixel] at hpx hgo hu
  rw [Target.over] at hu
  rw [blendRegion]
  simp only [hq, hfind]
  refine (if_neg fun h => hnan h.1).trans ?_
  simp only [hpx]
  refine (if_neg hgo).trans ?_
  simp only [hu]
  rfl

theorem blendedState_kept (u : State) (key : Nat) (t : Target) (r : Nat) (q : Queue) (smp : Sample) : (blendedState u key t r q smp).ms = u.ms
    ∧ (blendedState u key t r q smp).queues = (u.modQueue key (fun x => x.blended t r (q.regionAt r) smp)).queues := by
  unfold blendedState
  split
  · rw [State.signal_eq]
    exact ⟨State.modQueue_ms .., rfl⟩
  · exact ⟨State.modQueue_ms .., rfl⟩

/-- A region of which the buffer holds no more than the next key's sample: that sample is blended, and no other. -/
theorem blendRegion_once (hq : s.queue? key = some q) (hfind : q.buffer.find? (fun x => x.region == r && x.key == (q.regionAt r).1) = some smp)
    (hnan : t.nanpol ≠ 2) (hpx : readVirt s (partCore part) q.ctx (queueSecure s key) (t.pixel smp) 16 = .ok px)
    (hfree : writeFree s (partCore part) q.ctx (queueSecure s key) (t.pixel smp) 16 = true)
    (hu : writeVirt s (partCore part) q.ctx (queueSecure s key) (t.pixel smp) (t.over px smp) = .ok u)
    (honce : ∀ y ∈ q.buffer.erase smp, y.region ≠ r) :
    (∀ a, (blendRegion part key t r (n + 1) s).ms.byte a = u.ms.byte a)
      ∧ (blendRegion part key t r (n + 1) s).queue? key = some (q.blended t r (q.regionAt r) smp) := by
  obtain ⟨hms, hqueues⟩ := blendedState_kept u key t r q smp
  have hqu : u.queue? key = some q := (State.queue?_of_queues (by rw [memoryOnly_writeVirt hu]) key).trans hq
  have hqueue : (blendedState u key t r q smp).queue? key = some (q.blended t r (q.regionAt r) smp) :=
    (State.queue?_of_queues hqueues key).trans (State.queue?_modQueue_same hqu _)
  rw [blendRegion_blends hq hfind hnan hpx hfree hu, blendRegion_rests hqueue fun y hy hr => absurd hr (honce y hy)]
  exact ⟨fun a => by rw [hms], hqueue⟩

end

/-! ## BLENDER_RECORD (R335) -/

/-- A sample outside the image or of a key that is past, journaled FAILED and gone. -/
def sampleDropped (s : State) (key : Nat) (q : Queue) : State :=
  (match q.recs[(q.launch - q.head).toNat]?.map (fun r : Rec => r.j) with | some j => s.jSet j 3 6 0 | none => s).nodeTaken key

/-- The buffer with a sample in the place of one of its region and key. -/
def Queue.buffered (q : Queue) (smp : Sample) : Queue := { q with buffer := q.buffer.filter (fun y => !(y.region == smp.region && y.key == smp.key)) ++ [smp] }

/-- How far the key of a sample lies past its region's next. -/
def Queue.ahead (q : Queue) (smp : Sample) : Nat := (smp.key + 2 ^ 32 - (q.regionAt smp.region).1) % 2 ^ 32

/-- The machine with a sample in the buffer. -/
def sampleHeld (s : State) (key : Nat) (smp : Sample) : State := (s.nodeTaken key).modQueue key (fun x => x.buffered smp)

/-- What becomes of a sample. -/
def sampleTaken (s : State) (part key : Nat) (q : Queue) (t : Target) (smp : Sample) : Host.Outcome State Fault Refusal :=
  if t.width ≤ smp.x ∨ t.height ≤ smp.y ∨ 2 ^ 31 ≤ q.ahead smp then .next (sampleDropped s key q)
  else if 4096 ≤ q.ahead smp then .next s
  else .next (blendRegion part key t smp.region 4096 (sampleHeld s key smp))

section
variable {s : State} {part queue : Nat} {q : Queue} {x : Ctx} {bs db : List Byte} {t : Target}

/-- A record is taken where no region holds its next key. -/
theorem exec_blenderRecord_takes (hq : s.queue? (queueKey part queue) = some q) (henabled : q.enabled = true) (hcons : q.cons = 2)
    (hx : s.ctx? q.ctx = some x) (hstate : x.state = .resident ∨ x.state = .running)
    (hrec : nodeRecord s part (queueKey part queue) q = some bs)
    (hdb : readVirt s (partCore part) q.ctx (queueSecure s (queueKey part queue)) q.ncfg 64 = .ok db) (ht : parseTarget (natOf db) = some t)
    (hnone : ∀ y ∈ q.buffer, y.key ≠ (q.regionAt y.region).1) :
    exec (.blenderRecord part queue) s = sampleTaken s part (queueKey part queue) q t (sampleOf t bs) := by
  have hgo : ¬ (!(q.enabled && q.cons == 2 && (x.state == .resident || x.state.places))) = true := by
    rw [henabled, hcons, CtxState.takesRecords hstate]
    exact Bool.false_ne_true
  have hfind : q.buffer.find? (fun x => x.key == (q.regionAt x.region).1) = none := List.find?_eq_none.2 fun y hy => by simpa using hnone y hy
  rw [exec, execBlenderRecord]
  simp only [hq, hx]
  refine (if_neg hgo).trans ?_
  simp only [hdb, ht, hfind, hrec]
  rfl

/-- A region that holds its next key comes first. -/
theorem exec_blenderRecord_blends (hq : s.queue? (queueKey part queue) = some q) (henabled : q.enabled = true) (hcons : q.cons = 2)
    (hx : s.ctx? q.ctx = some x) (hstate : x.state = .resident ∨ x.state = .running)
    (hdb : readVirt s (partCore part) q.ctx (queueSecure s (queueKey part queue)) q.ncfg 64 = .ok db) (ht : parseTarget (natOf db) = some t)
    {smp : Sample} (hfind : q.buffer.find? (fun x => x.key == (q.regionAt x.region).1) = some smp) :
    exec (.blenderRecord part queue) s = .next (blendRegion part (queueKey part queue) t smp.region 4096 s) := by
  have hgo : ¬ (!(q.enabled && q.cons == 2 && (x.state == .resident || x.state.places))) = true := by
    rw [henabled, hcons, CtxState.takesRecords hstate]
    exact Bool.false_ne_true
  rw [exec, execBlenderRecord]
  simp only [hq, hx]
  refine (if_neg hgo).trans ?_
  simp only [hdb, ht, hfind]

end

section
variable {s : State} {part key : Nat} {q : Queue} {t : Target} {smp : Sample}

theorem sampleDropped_queue (hq : s.queue? key = some q) : (sampleDropped s key q).queue? key = some q.taken := by
  refine State.nodeTaken_queue ?_
  split
  · exact (State.queue?_of_queues (journalOnly_jSet ..).queues key).trans hq
  · exact hq

theorem sampleHeld_queue (hq : s.queue? key = some q) : (sampleHeld s key smp).queue? key = some (q.taken.buffered smp) :=
  State.queue?_modQueue_same (State.nodeTaken_queue hq) _

/-- A sample in the buffer changes the queues alone. -/
theorem sampleHeld_withQueues (s : State) (key : Nat) (smp : Sample) : sampleHeld s key smp = s.withQueues (sampleHeld s key smp).queues := by
  have htaken : s.nodeTaken key = s.withQueues (s.nodeTaken key).queues := State.modQueue_withQueues ..
  rw [sampleHeld, State.modQueue_withQueues, htaken]
  rfl

/-- A sample ahead of its region is not of the region's next key. -/
theorem Queue.ahead_pos (h : 0 < q.ahead smp) : smp.key ≠ (q.regionAt smp.region).1 := by
  intro heq
  rw [Queue.ahead, heq, Nat.add_sub_cancel_left] at h
  omega

theorem Queue.ahead_next (h : (q.regionAt smp.region).1 = smp.key) : q.ahead smp = 0 := by
  rw [Queue.ahead, h, Nat.add_sub_cancel_left, Nat.mod_self]

/-- A sample put into a buffer that has none of its region displaces nothing. -/
theorem Queue.buffered_buffer (h : q.buffer.all (fun y => !(y.region == smp.region)) = true) : (q.buffered smp).buffer = q.buffer ++ [smp] := by
  have hother (y : Sample) (hy : y ∈ q.buffer) : y.region ≠ smp.region := by
    simpa using List.all_eq_true.1 h y hy
  have hkeep : q.buffer.filter (fun y => !(y.region == smp.region && y.key == smp.key)) = q.buffer :=
    List.filter_eq_self.2 fun y hy => by simp [hother y hy]
  exact congrArg (· ++ [smp]) hkeep

end

section
variable {s u : State} {part key n : Nat} {q : Queue} {t : Target} {smp : Sample} {px : List Byte}

/-- A sample of its region's next key, alone of its region, is blended and leaves the buffer as it was. -/
theorem sampleHeld_blends (hq : s.queue? key = some q) (hnext : (q.regionAt smp.region).1 = smp.key) (hnan : t.nanpol ≠ 2)
    (hpx : readVirt s (partCore part) q.ctx (queueSecure s key) (t.pixel smp) 16 = .ok px)
    (hfree : writeFree s (partCore part) q.ctx (queueSecure s key) (t.pixel smp) 16 = true)
    (hu : writeVirt s (partCore part) q.ctx (queueSecure s key) (t.pixel smp) (t.over px smp) = .ok u)
    (hother : q.buffer.all (fun y => !(y.region == smp.region)) = true) :
    (∀ a, (blendRegion part key t smp.region (n + 1) (sampleHeld s key smp)).ms.byte a = u.ms.byte a)
      ∧ ((blendRegion part key t smp.region (n + 1) (sampleHeld s key smp)).queue? key).map (fun y => y.buffer) = some q.buffer := by
  have hregion (y : Sample) (hy : y ∈ q.buffer) : y.region ≠ smp.region := by
    simpa using List.all_eq_true.1 hother y hy
  have hbuffer : (q.taken.buffered smp).buffer = q.buffer ++ [smp] := Queue.buffered_buffer (q := q.taken) hother
  have herase : (q.taken.buffered smp).buffer.erase smp = q.buffer := by
    rw [hbuffer, List.erase_append_right _ fun hmem => hregion smp hmem rfl, List.erase_cons_head, List.append_nil]
  have hbefore : q.buffer.find? (fun x => x.region == smp.region && x.key == (q.regionAt smp.region).1) = none :=
    List.find?_eq_none.2 fun y hy => by simp [hregion y hy]
  have hfind : (q.taken.buffered smp).buffer.find? (fun x => x.region == smp.region && x.key == ((q.taken.buffered smp).regionAt smp.region).1) = some smp := by
    have hat : (q.taken.buffered smp).regionAt smp.region = q.regionAt smp.region := rfl
    rw [hbuffer, hat, List.find?_append, hbefore, Option.none_or, List.find?_cons_of_pos (by simp [hnext])]
  have hheld := sampleHeld_queue (smp := smp) hq
  have hqueues := sampleHeld_withQueues s key smp
  generalize (sampleHeld s key smp).queues = qs at hqueues
  rw [hqueues] at hheld ⊢
  obtain ⟨hbytes, hqueue⟩ := blendRegion_once (n := n) hheld hfind hnan ((readVirt_withQueues ..).trans hpx) ((writeFree_withQueues ..).trans hfree)
    (writeVirt_withQueues qs hu) (by rw [herase]; exact hregion)
  refine ⟨hbytes, ?_⟩
  rw [hqueue, Option.map_some]
  exact congrArg some herase

end

/-! ## O44 -/

/-- Settles O44: acceptance, batches and nodes, each by what it makes of a record. -/
theorem queueRecords : Obligations.QueueRecords := by
  unfold Obligations.QueueRecords
  refine ⟨⟨fun s part r hnext => ⟨?refused, ?held, ?accepted⟩, ?host⟩, ?timeout, ?batch, ?walker, ?sample, ?region⟩
  case refused =>
    intro code hj
    have hnew := journalOnly_jNew { s with enqs := s.enqs.erase r } part (enqHigh r) 3 code 0
    have hanswer := answerOnly_enqAnswer (State.jNew { s with enqs := s.enqs.erase r } part (enqHigh r) 3 code).1 r code 0
    exact ⟨_, exec_accept_refuses hnext hj, hanswer.enqs.trans hnew.enqs, hanswer.queues.trans hnew.queues, hanswer.firn.trans hnew.firn,
      fun id o hr ho => State.enqAnswer_ops hr ((congrArg (Table.find? · id) hnew.ops).trans ho) code 0⟩
  case held =>
    intro hj
    have hexec := exec_accept_holds hnext hj
    have heq := holdFloe_eq s (heldRecords s r) r
    refine ⟨_, hexec, ?_, ?_, fun a => ?_, ?_, ?_, fun id o f hr ho hf hready => holdFloe_floe hr ho hf hready⟩
    all_goals
      rw [heq]
      rfl
  case accepted =>
    intro q u j hj hq hfree hu
    obtain ⟨hpushed, hothers, henqs, hops⟩ := ringWrite_pushes hu hq
    have hanswer := answerOnly_enqAnswer u r 0 (j.seq % 2 ^ 32)
    exact ⟨_, exec_accept_accepts hnext hj hq hfree hu, hanswer.enqs.trans henqs, hanswer.ms, (State.queue?_of_queues hanswer.queues _).trans hpushed,
      fun k hk => (State.queue?_of_queues hanswer.queues k).trans (hothers k hk),
      fun id o hr ho => State.enqAnswer_ops hr ((congrArg (Table.find? · id) hops).trans ho) 0 _⟩
  case host =>
    intro s fn off bs hlow hhigh hpage hboot
    refine ⟨_, _, exec_hostApertureRecord hlow hhigh hpage hboot, rfl, rfl, rfl, rfl, rfl, ?_⟩
    simp
  case timeout =>
    intro s part queue q r hq hr henabled htimeout
    refine ⟨fun hold => ?_, fun hyoung => ?_⟩
    · rw [exec_queueTimeout hq hr, if_pos ⟨henabled, htimeout, hold⟩, State.modQueue, hq]
    · rw [exec_queueTimeout hq hr, if_neg fun h => absurd h.2.2 (Nat.not_le.2 hyoung)]
  case batch =>
    rintro s part queue n q x k hq henabled hcons hx hstate hcond hmax rfl hst hfit hroom rfl
    have hadmits : Admits s q.ctx (q.request (queueKey part queue)) :=
      ⟨hst, (congrArg (packsFit s _) (Queue.request_packFloes ..)).trans hfit, Queue.request_takes .., hroom⟩
    obtain ⟨hqueue, hinst, hkernel⟩ := batchState_launched (part := part) (queue := queue) hq
      (nextInstNum s q.ctx ((s.instsOf q.ctx).length + 2) x.nextInst)
    exact ⟨_, _, exec_queueBatchLaunch hq henabled hcons hx hstate hcond hmax hadmits, hqueue, ⟨_, hinst⟩, rfl, rfl, rfl, rfl, rfl, hkernel⟩
  case walker =>
    rintro s part queue q x bs db hit d r hq henabled hcons hx hstate hrec hdb hd hhit rfl
    have hexec := exec_walkerNodeRecord hq henabled hcons hx hstate hrec hdb hd hhit
    refine ⟨fun out u j hport hne hout hj hfree hu => ?_, fun hrefused => ?_, fun hport hj => hexec.trans (hitSent_full hport hj)⟩
    · obtain ⟨hpushed, hothers, -, -⟩ := ringWrite_pushes hu hout
      refine ⟨_, hexec.trans (hitSent_accepted hport hj hout hfree hu), State.nodeTaken_ms .., (State.nodeTaken_queue_ne u hne).trans hpushed,
        State.nodeTaken_queue ((hothers _ (Ne.symm hne)).trans hq)⟩
    · have hjournaled := hitRefused_journaled (part := part) hq (hitReq s part (queueKey part queue) q hit)
      cases hport : (q.outs.getD 0 0).testBit 15 with
      | false => exact ⟨_, hexec.trans (hitSent_unconnected hport), hjournaled 3⟩
      | true =>
        obtain hno | ⟨code, hj, hcode⟩ := hrefused
        · exact absurd (hport.symm.trans hno) Bool.noConfusion
        · exact ⟨_, hexec.trans (hitSent_refused hport hj hcode), hjournaled code⟩
  case sample =>
    rintro s part queue q x bs db g smp delta hq henabled hcons hx hstate hrec hdb hg hnone rfl rfl
    have hexec := exec_blenderRecord_takes hq henabled hcons hx hstate hrec hdb hg hnone
    generalize sampleOf g bs = smp at hexec ⊢
    refine ⟨fun hout => ⟨_, hexec.trans (if_pos hout), sampleDropped_queue hq⟩, fun hw hh hfar hpast => ?_, fun hw hh hpos hnear => ?_,
      fun px u hw hh hnext hnan hpx hfree hu hother => ?_⟩
    · have hin : ¬ (g.width ≤ smp.x ∨ g.height ≤ smp.y ∨ 2 ^ 31 ≤ q.ahead smp) := by
        rw [Queue.ahead]
        omega
      exact hexec.trans ((if_neg hin).trans (if_pos hfar))
    · have hin : ¬ (g.width ≤ smp.x ∨ g.height ≤ smp.y ∨ 2 ^ 31 ≤ q.ahead smp) := by
        rw [Queue.ahead]
        omega
      have hheld := sampleHeld_queue (smp := smp) hq
      have hrests := blendRegion_rests (part := part) (t := g) (r := smp.region) (n := 4096) hheld fun y hy hregion => ?_
      · refine ⟨_, hexec.trans ((if_neg hin).trans (if_neg (Nat.not_le.2 hnear))), fun a => ?_, ?_⟩
        · rw [hrests, sampleHeld_withQueues]
          rfl
        · rw [hrests]
          exact hheld
      · rcases List.mem_append.1 hy with hy | hy
        · have hkey := hnone y (List.mem_filter.1 hy).1
          rw [hregion] at hkey
          exact hkey
        · rw [List.mem_singleton.1 hy]
          exact Queue.ahead_pos hpos
    · have hzero := Queue.ahead_next hnext
      have hin : ¬ (g.width ≤ smp.x ∨ g.height ≤ smp.y ∨ 2 ^ 31 ≤ q.ahead smp) := by
        rw [hzero]
        omega
      obtain ⟨hbytes, hbuffer⟩ := sampleHeld_blends (n := 4095) hq hnext hnan hpx hfree hu hother
      exact ⟨_, hexec.trans ((if_neg hin).trans (if_neg (by rw [hzero]; omega))), hbytes, hbuffer⟩
  case region =>
    intro s u part queue q x db px g smp hq henabled hcons hx hstate hdb hg hnan hbuffer hnext hpx hfree hu
    have hfirst : q.buffer.find? (fun x => x.key == (q.regionAt x.region).1) = some smp := by
      rw [hbuffer, List.find?_cons_of_pos (by simp [hnext])]
    have hfind : q.buffer.find? (fun x => x.region == smp.region && x.key == (q.regionAt smp.region).1) = some smp := by
      rw [hbuffer, List.find?_cons_of_pos (by simp [hnext])]
    have herase : q.buffer.erase smp = [] := by rw [hbuffer, List.erase_cons_head]
    obtain ⟨hbytes, hqueue⟩ := blendRegion_once (n := 4095) hq hfind hnan hpx hfree hu (by rw [herase]; exact fun _ hy => absurd hy List.not_mem_nil)
    refine ⟨_, _, exec_blenderRecord_blends hq henabled hcons hx hstate hdb hg hfirst, hbytes, hqueue, herase, rfl, ?_⟩
    have hat : (q.blended g smp.region (q.regionAt smp.region) smp).regionAt smp.region
        = (((q.regionAt smp.region).1 + 1) % 2 ^ 32, if (q.regionAt smp.region).2 + 1 == g.endKey then 0 else (q.regionAt smp.region).2 + 1) :=
      Table.getD_setD_same ..
    rw [hat, hnext]

end Sys2Proof.Machine
end
